-- ==== Sys2Proof/Word.lean ====
section
/-!
DEFINITION. The plain words of the GWD128 model: bytes, sparse tables, and the small fixed sets of names
(ports, masters, links, agents) that every other file uses.
-/

namespace Sys2Proof

/-- One byte of an array, a flit or a frame. -/
abbrev Byte := BitVec 8

/-- A sparse table: strictly rising keys, no entry equal to what an unlisted key reads as.
The operations stand in Machine/Sparse.lean. -/
abbrev Sparse (α : Type) := List (Nat × α)

/-- The two host ports (R65). -/
inductive Port where
  | a | b
deriving DecidableEq, Repr

/-- Index of a port in tables laid out PA first. -/
def Port.idx : Port → Nat
  | .a => 0
  | .b => 1

/-- The masters that reach config space (R270, R276): the ports and the service host. -/
inductive Master where
  | a | b | svc
deriving DecidableEq, Repr

/-- The code of a master in `SEM_OWNER.OWNER` (0 is free). -/
def Master.code : Master → Nat
  | .a => 1
  | .b => 2
  | .svc => 3

/-- The master behind a host port. -/
def Port.master : Port → Master
  | .a => .a
  | .b => .b

/-- The two peer links (R289). -/
inductive Link where
  | l0 | l1
deriving DecidableEq, Repr

/-- Index of a link in tables laid out PL0 first. -/
def Link.idx : Link → Nat
  | .l0 => 0
  | .l1 => 1

/-- SIZE codes of R114. -/
inductive ReqSize where
  | s32 | s64 | s128 | s256
deriving DecidableEq, Repr

/-- Bytes named by a SIZE code (R114). -/
def ReqSize.bytes : ReqSize → Nat
  | .s32 => 32
  | .s64 => 64
  | .s128 => 128
  | .s256 => 256

/-- The kind of a host-port lane that can be spared (R65). -/
inductive LaneKind where
  | data | ctrl
deriving DecidableEq, Repr

/-- A lane direction seen from the stack: downstream is host to stack (R65). -/
inductive Dir where
  | down | up
deriving DecidableEq, Repr

/-- A failing TSV element of a PC (R14, R15). Lanes 128-135 are light-code lanes. -/
inductive TsvElem where
  | lane (n : Fin 136)
  | caTsv (n : Fin 48)
  | caSignal (n : Fin 24)
  | strobe (n : Fin 4)
deriving DecidableEq, Repr

/-- The modes of R377; OFF has no code. -/
inductive Mode where
  | powered | fuseload | selftest | training | ready | active
  | drowse | hibernate | crescent | quarantine | factory
deriving DecidableEq, Repr

/-- `GL_MODE.STATE` codes (R377). -/
def Mode.code : Mode → Nat
  | .powered => 1 | .fuseload => 2 | .selftest => 3 | .training => 4 | .ready => 5
  | .active => 6 | .drowse => 7 | .hibernate => 8 | .crescent => 9 | .quarantine => 10
  | .factory => 11

/-- Is VAON there, and has power-on reset been released (R350)? -/
inductive Power where
  | off       -- VAON absent
  | porHeld   -- VAON valid, power-on reset held by the start-up timer
  | run       -- power-on reset released
deriving DecidableEq, Repr

end Sys2Proof
end

