-- ==== Sys2Proof/Syntax.lean ====
section
/-!
DEFINITION. The commands of the GWD128: one constructor of `Instr` for each row of spec/opcode_table.json,
in the table's order. Operands are what the party that sends the command, or the physics behind the event,
supplies: an address, a value, a measured reading, the cells that flipped. No operand restates what the
stack itself holds.
-/

namespace Sys2Proof

/-- A physical upset. -/
inductive Upset where
  /-- Cells of the array: a physical word index and the codeword bits toggled (R185). -/
  | cell (word : Nat) (flips : BitVec 272)
  /-- Bits of 8 B of a page-code entry and of its SEC-DED check bits (R147). -/
  | entry (pc : Fin 64) (bank : Fin 256) (dw : Fin 8) (flips : BitVec 72)
  /-- Bits of a spare word and of its light code (R201). -/
  | spare (pc : Fin 64) (i : Fin 64) (flips : BitVec 272)
  /-- A fault in the exchange return path or in the page-code arithmetic of a PC (R164). -/
  | path (pc : Fin 64)
deriving DecidableEq, Repr

/-- What physics upset since the stack last looked. It is the only way an error enters the stored data of the model. -/
abbrev Noise := List Upset

/-- A set of sensor readings in 0.25 degC (R410): `none` is a converter that gave no result. A sensor that
is not listed reads as it did at its latest sample. -/
abbrev Sample := List (Fin 36 × Option Int)

/-- What a full sense of the fuses meets beyond the stored bits (R423): words whose two readings differ, and
words that decode with one corrected bit. -/
structure SenseFx where
  marginal : List (Fin 1024)
  corrected : List (Fin 1024)
deriving DecidableEq, Repr

/-- A failure that a power-on BIST unit finds (R446). -/
inductive BistFail where
  | pcElement (p : Fin 64)
  | portElement (p : Port)
  | linkElement (l : Link)
  | svcElement
  | engine (e : Fin 32)
  | otherElement
  | tsv (p : Fin 64) (e : TsvElem)
  | spareRow (p : Fin 64) (die : Fin 16) (bank : Fin 16) (spare : Fin 16)
  | cellarWord (p : Fin 64) (bank : Fin 16) (row : Fin 64) (word : Fin 32)
deriving DecidableEq, Repr

/-- Outcome of a host-port training (R101): the groups that reached T6, the rate, the lanes spared. -/
structure PortTrain where
  groups : BitVec 16
  rate : Fin 3
  spared : List (Fin 16 × Dir × LaneKind × Fin 64)
deriving DecidableEq, Repr

/-- What a training of the TSVs finds and measures (R15, R162): failures, and IR-drop steps. -/
structure TsvTrain where
  fails : List (Fin 64 × TsvElem)
  droop : List (Fin 64 × Fin 4)
deriving DecidableEq, Repr

/-- Outcome of a peer-link training (R308): the passing lanes of both directions, the one-way delay in
phases, and the receiver settings found; or the step that failed. -/
inductive LinkTrain where
  | pass (lanes : BitVec 8) (delay : BitVec 16) (peak : List (Fin 8 × BitVec 6)) (fir : List (Fin 8 × BitVec 30))
  | noTone | roleClash | echo | equalise | verify (lanes : BitVec 8) | width (lanes : BitVec 8) (delay : BitVec 16)
deriving DecidableEq, Repr

/-- A PAM-4 level (R290). -/
inductive Level where
  | l0 | l1 | l2 | l3
deriving DecidableEq, Repr

/-- How a decoded pair came off the channel code (R297). -/
inductive PairOutcome where
  | clean | corrected | failed
deriving DecidableEq, Repr

/-- The detector that fired (R305). -/
inductive Detector where
  | los | lol
deriving DecidableEq, Repr

/-- What the service host answers to a memory read of ring slots (R342, R343). -/
inductive FetchReply where
  | data (bytes : List Byte)
  | unsupported
  | abort
  | poisoned
deriving DecidableEq, Repr

/-- The blocks asked in the entry handshake (R379). -/
inductive EntryBlock where
  | pa | pb | svc | pl0 | pl1 | mov | ch | cfg | mir
deriving DecidableEq, Repr

/-- A block's answer in the entry handshake (R379), or the end of the entry by an event of R382. -/
inductive EntryReply where
  | accept
  | refuse
  | delay (orbits : Fin 64)     -- DELAY of `orbits + 1`
  | abandonWake                 -- a wake event or new work before the entry point (R382)
deriving DecidableEq, Repr

/-- Wake sources (R389). -/
inductive WakeSource where
  | portA | portB | pl0 | pl1 | service | resetN
deriving DecidableEq, Repr

/-- Causes of the loss of a host-port partner (R109). -/
inductive PartnerCause where
  | hostpresLow | clockLoss | silence
deriving DecidableEq, Repr

/-- Causes of the loss of the service host (R345). -/
inductive SvcCause where
  | perst | dlDown | hotReset | flr
deriving DecidableEq, Repr

/-- The rails of R373. -/
inductive Rail where
  | vcore | vret | varray | vtsv
deriving DecidableEq, Repr

/-- The supplies whose loss is judged by R496. -/
inductive Supply where
  | vin | vphy
deriving DecidableEq, Repr

/-- One trim of R458: the table's row and an index within it. -/
inductive TrimKind where
  | driverZ | rxOffset | rxPeak | tsvDelay | regulator | tro
deriving DecidableEq, Repr

/-- What a step of a field BIST slice found (R451, R454). -/
inductive SliceFind where
  | pass
  | lane (n : Fin 136) (first second : Nat)      -- TSV_DELAY: two measurements of a lane
  | laneFail (n : Fin 136)                       -- the lane failed outright
  | fail                                         -- ROW_MARCH or SEQ_CHECK found a failure
deriving DecidableEq, Repr

/-- A PCI Express configuration request, as far as the manual gives it an effect (R335, R344, R405). -/
inductive PcieReq where
  | read (reg : BitVec 10)
  | write (reg : BitVec 10) (value : BitVec 32)
  | msixControl (enable mask : Bool)
  | dState (d3hot : Bool)
deriving DecidableEq, Repr

/-- Whose claim reads arrive in one MGMT cycle (R271). -/
structure Claims where
  portA : Bool
  portB : Bool
  svc : Bool
deriving DecidableEq, Repr

/-- The commands, one for each row of the table. -/
inductive Instr where
  | vaonValid
  | troStart
  | troStartTimeout
  | troAmplitudeLoss
  | xtalWindow (count : Nat) (ampFail : Bool)
  | xtalRetry
  | crossingOverrun (dom : Fin 102)
  | crossingTimeout (dom : Fin 102)
  | gateRequest (dom : Fin 102)
  | gateClose (dom : Fin 102)
  | gateRefuse (dom : Fin 102)
  | gateReopen (dom : Fin 102)
  | fuseSense (fx : SenseFx) (sample : Sample)
  | powerOnBist (unit : Fin 7) (sigFail : BitVec 6) (fails : List BistFail) (us : Nat)
  | tsvTraining (fails : List (Fin 64 × TsvElem)) (droop : List (Fin 64 × Fin 4))
  | orbitBoundary (sample : Sample) (iavg : BitVec 8)
  | thermalSample (sample : Sample)
  | beatMarker (offset : Int) (highNs : Nat)
  | missingMarker
  | beatRejoin (offset : Int)
  | writeCutOff (die : Fin 16)
  | flushLead (die : Fin 16)
  | eclipseRefresh (die : Fin 16)
  | eclipseEnd (die : Fin 16)
  | retentionCredit
  | catchupEclipse (die : Fin 16)
  | catchupFlushLead (die : Fin 16)
  | controlFlit (p : Port) (g : Fin 16) (flit : BitVec 512) (slots : List (BitVec 512))
  | replay (p : Port) (g : Fin 16)
  | groupRecovery (p : Port) (g : Fin 16) (hostE : BitVec 12) (trained : Option (List (Dir × LaneKind × Fin 64)))
  | portTraining (p : Port) (r : PortTrain)
  | portTrainRetry (p : Port) (r : PortTrain)
  | urgLevel (p : Port) (level : BitVec 2)
  | eyeMeasurement (p : Port) (g : Fin 16) (lane : Fin 82) (h v : BitVec 6)
  | spareSwitch (p : Port) (g : Fin 16) (k : LaneKind)
  | spareData (p : Port) (g : Fin 16) (lane : BitVec 8)
  | spareCtrl (p : Port) (g : Fin 16) (lane : BitVec 8)
  | linkIdle (p : Port) (g : Fin 16)
  | linkIdleSend (p : Port) (g : Fin 16)
  | wakePattern (g : Port × Fin 16)
  | partnerLoss (p : Port) (cause : PartnerCause)
  | read (p : Port) (g : Fin 16) (tag : BitVec 14) (session : BitVec 18) (addr : BitVec 37) (size : ReqSize)
  | write (p : Port) (g : Fin 16) (tag : BitVec 14) (session : BitVec 18) (addr : BitVec 37) (size : ReqSize)
      (data : List Byte)
  | writeMasked (p : Port) (g : Fin 16) (tag : BitVec 14) (session : BitVec 18) (addr : BitVec 37)
      (size : ReqSize) (be : Option (BitVec 64)) (data : List Byte)
  | fence (p : Port) (g : Fin 16) (tag : BitVec 14)
  | configRead (p : Port) (g : Fin 16) (tag : BitVec 14) (session : BitVec 18) (caddr : BitVec 24)
  | configWrite (p : Port) (g : Fin 16) (tag : BitVec 14) (session : BitVec 18) (caddr : BitVec 24)
      (data : BitVec 32)
  | doorbell (p : Port) (g : Fin 16) (tag : BitVec 14) (session : BitVec 18) (caddr : BitVec 24)
      (data : BitVec 32)
  | ingressEntry (pc : Fin 64)
  | holdMaxExpiry (pc : Fin 64)
  | commandSlot (pc : Fin 64) (noise : Noise)
  | readData (pc : Fin 64)
  | exchangeReturn (pc : Fin 64) (noise : Noise)
  | pageCodeLoadReturn (pc : Fin 64)
  | speculativeDataArrival (pc : Fin 64)
  | pageRebuild (pc : Fin 64) (noise : Noise)
  | activationAlert (pc : Fin 64) (die : Fin 16) (group bank : Fin 4) (row : Fin 8272)
  | nrefComplete (pc : Fin 64) (die : Fin 16) (bank : Fin 16) (row : Fin 8272)
  | irDropStep (pc : Fin 64)
  | tsvFault (pc : Fin 64) (e : TsvElem)
  | chCtrlReset (m : Master) (pc : Fin 64) (value : BitVec 32)
  | pcBlockReset (pc : Fin 64) (fails : List TsvElem)
  | heldTimeout (pc : Fin 64)
  | readCorrectWrite (pc : Fin 64) (noise verify : Noise)
  | rowSpareCopy (pc : Fin 64) (noise : Noise)
  | scrubPassStart
  | scrubRowStart
  | scrubRow (pc : Fin 64) (noise : Noise)
  | descriptorFetch (r : Fin 160) (noise : Noise) (reply : FetchReply)
  | descriptorStart (r : Fin 160)
  | descriptorComplete (r : Fin 160) (i : BitVec 17) (noise : Noise)
  | nop (r : Fin 160) (i : BitVec 17)
  | copy (r : Fin 160) (i : BitVec 17)
  | fill (r : Fin 160) (i : BitVec 17)
  | press (r : Fin 160) (i : BitVec 17)
  | gather (r : Fin 160) (i : BitVec 17)
  | scatter (r : Fin 160) (i : BitVec 17)
  | remoteRead (r : Fin 160) (i : BitVec 17)
  | remoteWrite (r : Fin 160) (i : BitVec 17)
  | ringFence (r : Fin 160) (i : BitVec 17)
  | waitOrbit (r : Fin 160) (i : BitVec 17)
  | waitOrbitExpiry (r : Fin 160) (i : BitVec 17)
  | scrubRange (r : Fin 160) (i : BitVec 17)
  | testSliceTsvDelay (r : Fin 160) (i : BitVec 17) (found : List SliceFind)
  | testSliceRowMarch (r : Fin 160) (i : BitVec 17) (found : List SliceFind)
  | testSliceSeqCheck (r : Fin 160) (i : BitVec 17) (found : List SliceFind)
  | apply (r : Fin 160) (i : BitVec 17) (noise : Noise)
  | persistAll (r : Fin 160) (i : BitVec 17)
  | fuseProgramWord (r : Fin 160) (i : BitVec 17)
  | fuseProgramSeal (r : Fin 160) (i : BitVec 17)
  | fuseProgramLock (r : Fin 160) (i : BitVec 17)
  | fuseVerify (good : Bool)
  | snapshot (r : Fin 160) (i : BitVec 17)
  | commit (r : Fin 160) (i : BitVec 17)
  | sleepHibernate (r : Fin 160) (i : BitVec 17)
  | sleepCrescent (r : Fin 160) (i : BitVec 17)
  | resume (m : Master) (r : Fin 160) (value : BitVec 32) (noise : Noise)
  | ringSetupWrite (m : Master) (caddr : BitVec 24) (value : BitVec 32)
  | semClaim (claims : Claims)
  | renew (m : Master) (value : BitVec 32)
  | release (m : Master) (value : BitVec 32)
  | leaseExpiry
  | svcAbsenceExpiry
  | setupWrite (m : Master) (caddr : BitVec 24) (value : BitVec 32)
  | discard (m : Master) (value : BitVec 32)
  | arm (m : Master) (value : BitVec 32)
  | digestReady
  | pwrCtrlChipReset (m : Master) (value : BitVec 32)
  | fuseLock (m : Master) (value : BitVec 32)
  | fltInject (m : Master) (value : BitVec 32)
  | fltOvfIdx (m : Master) (value : BitVec 32)
  | overflowReadDone (noise : Noise)
  | fltPendClear (m : Master) (k : Fin 16) (value : BitVec 32)
  | phyLoopMode (m : Master) (l : Link) (value : BitVec 32)
  | pairLowRead (m : Master) (caddr : BitVec 24)
  | registerWrite (m : Master) (caddr : BitVec 24) (value : BitVec 32)
  | plTraining (l : Link) (r : LinkTrain)
  | plTrainRetry (l : Link) (r : LinkTrain)
  | burstStart (l : Link) (pairs : Nat)
  | pair (l : Link) (lane : Fin 8) (levels : List Level) (left : List (BitVec 10))
  | burstAbort (l : Link) (lane : Fin 8) (d : Detector)
  | controlReplay (l : Link) (cnak : Bool)
  | directionSleep (l : Link)
  | wakeTone (l : Link)
  | rdReq (l : Link) (tag : BitVec 8) (size : ReqSize) (addr : BitVec 37)
  | cpl (l : Link) (tag : BitVec 8) (status : BitVec 4) (derr mirror : Bool)
  | join (l : Link) (region : Fin 16) (size : BitVec 18)
  | accept (l : Link) (region : Fin 16)
  | needFull (l : Link) (region : Fin 16)
  | synced (l : Link) (region : Fin 16)
  | refuse (l : Link) (region : Fin 16)
  | beat (l : Link) (bit : Fin 3) (k : BitVec 6) (borrowed : Bool) (hop : BitVec 2) (offset : BitVec 16)
      (origin : BitVec 64)
  | idBeacon (l : Link) (serial : BitVec 64) (orbit : BitVec 48) (ostate : BitVec 3) (nvalid borrowing : Bool)
      (roles : BitVec 32)
  | idBeaconTimeout (l : Link)
  | digBeacon (l : Link) (group : BitVec 16) (digest : BitVec 64) (boundary : BitVec 48)
  | wr (l : Link) (tag : BitVec 8) (addr : BitVec 37) (be : Option (BitVec 64)) (data : List Byte) (failed : Bool)
  | rdData (l : Link) (tag : BitVec 8) (addr : BitVec 37) (pmask : BitVec 8) (data : List Byte) (failed : Bool)
  | mirWr (l : Link) (tag : BitVec 8) (region : Fin 16) (addr : BitVec 37) (be : Option (BitVec 64))
      (data : List Byte) (failed : Bool)
  | resyncWr (l : Link) (tag : BitVec 8) (region : Fin 16) (addr : BitVec 37) (data : List Byte) (failed : Bool)
  | remoteTimeout (l : Link) (tag : BitVec 8)
  | mirLag (region : Fin 16)
  | resyncSend (region : Fin 16)
  | bar0Read (offset : BitVec 24) (be : BitVec 4) (dws : Nat)
  | bar0Write (offset : BitVec 24) (be : BitVec 4) (dws : Nat) (value : BitVec 32)
  | bar2Read (offset : BitVec 30) (len : Nat)
  | bar2Write (offset : BitVec 30) (data : List Byte) (be : List Bool)
  | serviceLinkTraining (width : Fin 3) (speed : Fin 5)
  | pcieConfigRequest (q : PcieReq)
  | busMasterEnable (on : Bool)
  | serviceHostLoss (cause : SvcCause)
  | vinCurrentMeasurement (quarterAmps : Nat)
  | railFault (rail : Rail)
  | supplyOutOfRange (s : Supply)
  | vfuseChange (ok : Bool)
  | drowseIdle
  | entryAnswer (b : EntryBlock) (a : EntryReply)
  | entryDelayExpiry (b : EntryBlock)
  | drowseEntry
  | hibernateEntry
  | crescentEntry
  | wakeEvent (src : WakeSource) (fx : SenseFx) (tsv : TsvTrain) (noise : Noise)
  | dieFill
  | resetNLow
  | fieldSliceDue
  | sliceBegin
  | sliceEnd (found : List SliceFind)
  | calMeasurement (k : TrimKind) (i : Nat) (first second : Int)
  | idcode
  | factoryReq
  | bypass
  | wipeComplete
  | fuseBitProgram (word : Fin 1024) (bit : Fin 64)
  | jtagInject (source : BitVec 9)
  | vaonLoss
  | supplyRecovery
  | resetNRise
  | controlPeriod (p : Port)
  | transmitterReturnToIdle (p : Port) (g : Fin 16 × Dir)
  | forwardedClockFail (p : Port) (g : Fin 16)
  | completionTimeout (r : Fin 160)
deriving DecidableEq, Repr

end Sys2Proof
end

