-- ==== Sys2Proof/Decode.lean ====
section
/-!
DEFINITION. The command that a word spells by the bits of spec/opcode_table.json. The block has no instruction words: no row
of the table has bits.
-/

namespace Sys2Proof

/-- The command that a word of the table spells: none does. -/
def decodeTableWord (_nbits _w : Nat) : Option Instr := none

end Sys2Proof
end

