-- ==== Sys2Proof/Config.lean ====
section
/-!
DEFINITION. What the manual leaves open: constants without a body, so that no proof can see a value of them.
Each is named in an assumption log entry.
-/

namespace Sys2Proof

/-- The undefined bytes of an uncorrectable or poisoned word (R125, R340), by the model's counter. -/
opaque Config.freeByte : Nat → BitVec 8

/-- The outcome the light code reports for an error pattern outside the classes of R185 (0 clean,
1 corrected, 2 uncorrectable, 3 poisoned), for a plain word. -/
opaque Config.lightOutcome : BitVec 272 → Fin 4

/-- The same for a poison mark with further bits flipped outside those classes (R187). -/
opaque Config.lightOutcomeMark : BitVec 272 → Fin 4

/-- Is a poison mark with two bits flipped, or with an error of the burst rule, CORRECTED rather than UNCORRECTABLE? R187
excludes the other two outcomes. -/
opaque Config.lightMarkFixed : BitVec 272 → Bool

/-- The one bit that a wrong correction inverts (R186), by whether the word is a mark and the pattern that it carries. -/
opaque Config.lightFix : Bool → BitVec 272 → Fin 272

/-- Is an error of three or more bits in 8 B of a page-code entry detected (R147: a SEC-DED code promises it for two)? -/
opaque Config.entryCaught : BitVec 72 → Bool

/-- The data bits that such an error leaves wrong where it is not detected. -/
opaque Config.entryFix : BitVec 72 → BitVec 64

/-- The serial number held by identity words 0 and 1 (R421: the places of its bits are not given). -/
opaque Config.serialOf : BitVec 56 → BitVec 56 → BitVec 64

/-- The speed bin held by identity words 0 to 3 (R421, R480). -/
opaque Config.binOf : BitVec 56 → BitVec 56 → BitVec 56 → BitVec 56 → Bool

/-- The JTAG identifier taken from fuse region 0 (R456). -/
opaque Config.idcodeOf : BitVec 56 → BitVec 56 → BitVec 56 → BitVec 56 → BitVec 32

/-- The PCI Express identity words (register 0, and 11 for the subsystem) held by identity words 2 and 3 (R421, R335). -/
opaque Config.pcieId : BitVec 56 → BitVec 56 → Nat → BitVec 32

/-- The hard-wired vendor and device IDs that stand in for failed identity words (R424). -/
opaque Config.pcieHardId : BitVec 32

/-- What a register of the PCI Express configuration space reads, by register and the value last written to it: R335 names
the features and gives none of these values. -/
opaque Config.pcieReg : Nat → Nat → BitVec 32

/-- The TRO trim held by the data of trim words 4 to 95 of region 0 (R421, R458); which word holds it is not given. -/
opaque Config.troTrimOf : List Nat → BitVec 10

/-- Does a trim word (4 to 95) of region 0 hold the TRO trim? R421 does not give the place of each trim. -/
opaque Config.isTroTrim : Nat → Bool

/-- Does a trim word of region 0 trim a host port (0 A, 1 B)? -/
opaque Config.isPortTrim : Nat → Nat → Bool

/-- Data bits of the words the vendor programs in fuse region 0 (R421, R504), words 0 to 107. -/
opaque Config.fuseRom : Nat → BitVec 56

/-- Outcome (R423) of a word whose bits differ in three or more places from any codeword that was programmed into it:
the data programmed and the extra bits. -/
opaque Config.fuseOutcome : BitVec 56 → BitVec 64 → Fin 4

/-- The data that such a word decodes to. -/
opaque Config.fuseData : BitVec 56 → BitVec 64 → BitVec 56

/-- Check bits that the fixed matrix gives a fuse word (R419). -/
opaque Config.fuseCheck : BitVec 56 → BitVec 8

/-- Does a word whose programming was cut short sense GOOD with wrong data, and not MARGINAL (R433)? -/
opaque Config.fusePartGood : BitVec 56 → Bool

/-- The starting value of a calibrated trim that the trim words of region 0 give (R458): kind and index. -/
opaque Config.trimStart : Nat → Nat → Int

/-- The ageing baseline of a TSV lane (R445): power cycle, PC, lane. -/
opaque Config.laneBaseline : Nat → Nat → Nat → Nat

/-- Which of the words 4 to 95 of region 0 holds a trim: kind and index (R421 does not say). -/
opaque Config.trimWord : Nat → Nat → Fin 92

/-- The choice among alternatives that the manual leaves to the implementation, by the model's counter. -/
opaque Config.freeChoice : Nat → Nat

/-- The share of slots that pacing withholds, in 1/1024, for a measured current and I_now (R376 does not give it). -/
opaque Config.paceShare : Nat → Nat → BitVec 10

/-- OFFSET of a BEAT frame (R331), in 1/16 phase: it depends on when the pair that carries the frame leaves, by the
model's counter. -/
opaque Config.beatOffset : Nat → BitVec 16

end Sys2Proof
end

