-- ==== Sys2Proof/Machine/Regs.lean ====
section
/-!
DEFINITION. The register map (chapter 21 and the field tables of every chapter): the fields of every register
with their width, reset value and retention class, and the registers with their addresses, kinds and parts.
A low and high register pair shows one field (R364). Fields of port registers are indexed port * n + i, those of
link registers link * n + i, in the order PA, PB and PL0, PL1.
-/

namespace Sys2Proof.Machine

/-- Retention classes (R8). -/
inductive Kept where
  | always | chip | block | lowPower | fuse | sticky
deriving DecidableEq, Repr

/-- Access codes (R7). -/
inductive Acc where
  | ro | rw | wo | w1c | rws
deriving DecidableEq, Repr

/-- Register kinds (R476). -/
inductive Kind where
  | setup | setupLocal | owner | own | claim | status
deriving DecidableEq, Repr

/-- A register field, or an indexed family of them: its number, width, retention class and reset value. -/
structure Fld where
  id : Nat
  width : Nat
  kept : Kept
  reset : Nat → Nat

/-- The default severity of each fault source (R462); 0 for reserved sources. -/
def defaultSeverity (n : Nat) : Nat :=
  if n ∈ [0x010, 0x020, 0x032, 0x071, 0x101] then 5
  else if n ∈ [0x011, 0x012, 0x0B9] then 4
  else if n ∈ [0x003, 0x022, 0x033, 0x041, 0x060, 0x061, 0x063, 0x070, 0x080, 0x090, 0x0B2, 0x0C2, 0x0B8, 0x100,
      0x105, 0x107] then 3
  else if n ∈ [0x001, 0x002, 0x031, 0x040, 0x072, 0x075, 0x082, 0x092, 0x0B0, 0x0C0, 0x0B1, 0x0C1, 0x0B3, 0x0C3,
      0x0D0, 0x102, 0x104, 0x108, 0x109, 0x10A] then 2
  else if n ∈ [0x021, 0x030, 0x062, 0x073, 0x074, 0x081, 0x091, 0x0BA, 0x0E0, 0x103, 0x106] then 1
  else 0

/-- Orbit number bits [31:0]. Meaningful when ORB_STATUS.NUMBER_VALID is 1. -/
def F.ORB_NOW : Fld := ⟨0, 48, .chip, fun _ => 0⟩
/-- 1: the die of the current slot is in a scheduled eclipse. -/
def F.ORB_PHASE_IN_ECLIPSE : Fld := ⟨1, 1, .chip, fun _ => 0⟩
/-- Current phase; PHASE[11:8] is the slot. -/
def F.ORB_PHASE_PHASE : Fld := ⟨2, 12, .chip, fun _ => 0⟩
/-- Peer link in use while BORROWED. -/
def F.ORB_STATUS_BORROW_LINK : Fld := ⟨3, 1, .chip, fun _ => 0⟩
/-- Flags [55:48] of the last accepted frame. -/
def F.ORB_STATUS_FLAGS : Fld := ⟨4, 8, .chip, fun _ => 0⟩
/-- 1: phase locked to a marker source. -/
def F.ORB_STATUS_PHASE_LOCKED : Fld := ⟨5, 1, .chip, fun _ => 0⟩
/-- 1: ORB_NOW holds a number taken from a frame. -/
def F.ORB_STATUS_NUMBER_VALID : Fld := ⟨6, 1, .chip, fun _ => 0⟩
/-- 0: ACQUIRE. 1: LOCKED. 2: FREE. 3: BORROWED. 4–7: reserved. -/
def F.ORB_STATUS_STATE : Fld := ⟨7, 3, .chip, fun _ => 0⟩
/-- Orbit source, coded as in R55. -/
def F.ORB_CFG_SOURCE : Fld := ⟨8, 2, .chip, fun _ => 3⟩
/-- Bit d = 1: die d runs hot eclipses this orbit. -/
def F.ORB_HOTMAP_HOT : Fld := ⟨9, 16, .chip, fun _ => 0⟩
/-- Number at entry, bits [31:0]. -/
def F.ORB_SLEEP_AT : Fld := ⟨10, 48, .chip, fun _ => 0⟩
/-- Orbits slept, bits [31:0]. -/
def F.ORB_SLEPT : Fld := ⟨11, 48, .chip, fun _ => 0⟩
/-- 1: elapsed time across the last sleep is unknown (R64). -/
def F.ORB_SLEPT_HI_UNKNOWN : Fld := ⟨12, 1, .chip, fun _ => 0⟩
/-- Discarded frames; saturates at 0xFFFF. -/
def F.ORB_EVENTS_BAD_FRAME : Fld := ⟨13, 16, .chip, fun _ => 0⟩
/-- Missing markers; saturates at 0xFFFF. -/
def F.ORB_EVENTS_MISSED : Fld := ⟨14, 16, .chip, fun _ => 0⟩
/-- Number steps under R38 and R64; saturates. -/
def F.ORB_STEPS_STEPS : Fld := ⟨15, 32, .chip, fun _ => 0⟩
/-- Catch-up eclipses of die d; saturates. Kept across chip reset because the retention sequencer is not reset. -/
def F.ORB_CATCHUP_COUNT : Fld := ⟨16, 32, .always, fun _ => 0⟩
/-- One-way delay of peer link 1 in phases, from its last training. -/
def F.ORB_BORROW_COMP_PEER1 : Fld := ⟨17, 16, .chip, fun _ => 0⟩
/-- One-way delay of peer link 0 in phases, from its last training. -/
def F.ORB_BORROW_COMP_PEER0 : Fld := ⟨18, 16, .chip, fun _ => 0⟩
/-- 1: pre-emptive sparing under R96. -/
def F.PA_CTRL_SPARE_EN : Fld := ⟨19, 1, .chip, fun _ => 1⟩
/-- Highest rate, coded as in R66. Code 3 acts as 2. -/
def F.PA_CTRL_RATE_MAX : Fld := ⟨20, 2, .chip, fun _ => 0⟩
/-- 0: the port does not train. If the link is up, it is treated as partner loss. -/
def F.PA_CTRL_ENABLE : Fld := ⟨21, 1, .chip, fun _ => 1⟩
/-- Bit g = 1: group pair g is enabled. -/
def F.PA_STATUS_GROUPS : Fld := ⟨22, 16, .block, fun _ => 0⟩
/-- Current rate, coded as in R66. -/
def F.PA_STATUS_RATE : Fld := ⟨23, 2, .block, fun _ => 0⟩
/-- 0: DOWN. 1: TRAINING. 2: UP. 3: IDLE (both directions idle). 4: LOST. 5–7: reserved. -/
def F.PA_STATUS_LINK : Fld := ⟨24, 3, .block, fun _ => 0⟩
/-- 1: the downstream direction is idle. -/
def F.PA_SIDEBAND_PARTNER_IDLE : Fld := ⟨25, 1, .block, fun _ => 0⟩
/-- Level taken under R105. -/
def F.PA_SIDEBAND_URG : Fld := ⟨26, 2, .block, fun _ => 0⟩
/-- Synchronised HOSTPRES_A. -/
def F.PA_SIDEBAND_HOSTPRES : Fld := ⟨27, 1, .block, fun _ => 0⟩
/-- Vertical threshold in 2 mV steps. -/
def F.PA_EYE_CFG_V_MIN : Fld := ⟨28, 6, .chip, fun _ => 10⟩
/-- Horizontal threshold in 1/64 UI. -/
def F.PA_EYE_CFG_H_MIN : Fld := ⟨29, 6, .chip, fun _ => 12⟩
/-- 0–63: data lane. 64–79: control lane 0–15. 80: spare data. 81: spare control. -/
def F.PA_EYE_MIN_LANE : Fld := ⟨30, 7, .chip, fun _ => 0⟩
/-- Downstream group of the worst lane. -/
def F.PA_EYE_MIN_GROUP : Fld := ⟨31, 4, .chip, fun _ => 0⟩
/-- Vertical margin of the worst lane. -/
def F.PA_EYE_MIN_V : Fld := ⟨32, 6, .chip, fun _ => 0x3F⟩
/-- Horizontal margin of the worst lane. -/
def F.PA_EYE_MIN_H : Fld := ⟨33, 6, .chip, fun _ => 0x3F⟩
/-- Group recoveries; saturates. -/
def F.PA_COUNT_RECOVERIES : Fld := ⟨34, 16, .chip, fun _ => 0⟩
/-- Replays; saturates. -/
def F.PA_COUNT_REPLAYS : Fld := ⟨35, 16, .chip, fun _ => 0⟩
/-- Training reached T6 on no group. -/
def F.PA_ERR_TRAIN_FAIL : Fld := ⟨36, 1, .chip, fun _ => 0⟩
/-- A reserved LINKCTL command was received. -/
def F.PA_ERR_LINKCTL_BAD : Fld := ⟨37, 1, .chip, fun _ => 0⟩
/-- Credit overrun (R83). -/
def F.PA_ERR_CREDIT_OVERRUN : Fld := ⟨38, 1, .chip, fun _ => 0⟩
/-- Orphan data (R80). -/
def F.PA_ERR_ORPHAN : Fld := ⟨39, 1, .chip, fun _ => 0⟩
/-- Hold miss (R80). -/
def F.PA_ERR_HOLD_MISS : Fld := ⟨40, 1, .chip, fun _ => 0⟩
/-- A control flit failed its CRC. -/
def F.PA_ERR_CRC : Fld := ⟨41, 1, .chip, fun _ => 0⟩
/-- Partner losses; saturates. -/
def F.PA_LOSS_COUNT : Fld := ⟨42, 16, .chip, fun _ => 0⟩
/-- Last cause. 0: none. 1: HOSTPRES_A low. 2: clock loss. 3: flit silence. -/
def F.PA_LOSS_CAUSE : Fld := ⟨43, 2, .chip, fun _ => 0⟩
/-- 1: group pair g is disabled. -/
def F.PA_LANE_DISABLED : Fld := ⟨44, 1, .chip, fun _ => 0⟩
/-- Upstream control spare in use. -/
def F.PA_LANE_TX_CUSED : Fld := ⟨45, 1, .chip, fun _ => 0⟩
/-- Control lane it replaces. -/
def F.PA_LANE_TX_CLANE : Fld := ⟨46, 4, .chip, fun _ => 0⟩
/-- Upstream data spare in use. -/
def F.PA_LANE_TX_DUSED : Fld := ⟨47, 1, .chip, fun _ => 0⟩
/-- Data lane it replaces. -/
def F.PA_LANE_TX_DLANE : Fld := ⟨48, 6, .chip, fun _ => 0⟩
/-- Downstream control spare in use. -/
def F.PA_LANE_RX_CUSED : Fld := ⟨49, 1, .chip, fun _ => 0⟩
/-- Control lane it replaces. -/
def F.PA_LANE_RX_CLANE : Fld := ⟨50, 4, .chip, fun _ => 0⟩
/-- Downstream data spare in use. -/
def F.PA_LANE_RX_DUSED : Fld := ⟨51, 1, .chip, fun _ => 0⟩
/-- Data lane it replaces. -/
def F.PA_LANE_RX_DLANE : Fld := ⟨52, 6, .chip, fun _ => 0⟩
/-- A[36:16] of the first granule. -/
def F.PA_WBASE_BASE : Fld := ⟨53, 21, .chip, fun _ => 0⟩
/-- A[36:16] of the last granule, inclusive. -/
def F.PA_WLIMIT_LIMIT : Fld := ⟨54, 21, .chip, fun i => if i % 16 = 0 then 0x1FFFFF else 0⟩
/-- 1: writes allowed. -/
def F.PA_WCTRL_WR : Fld := ⟨55, 1, .chip, fun i => if i % 16 = 0 then 1 else 0⟩
/-- 1: reads allowed. -/
def F.PA_WCTRL_RD : Fld := ⟨56, 1, .chip, fun i => if i % 16 = 0 then 1 else 0⟩
/-- 1: window enabled. -/
def F.PA_WCTRL_EN : Fld := ⟨57, 1, .chip, fun i => if i % 16 = 0 then 1 else 0⟩
/-- DOORBELL with CADDR outside the doorbell pages (R119). -/
def F.PA_REQERR_DB_ADDR : Fld := ⟨58, 1, .chip, fun _ => 0⟩
/-- Config access outside every assigned block (R30). -/
def F.PA_REQERR_CFG_BLOCK : Fld := ⟨59, 1, .chip, fun _ => 0⟩
/-- Outstanding tag reused (R120). -/
def F.PA_REQERR_TAG_REUSE : Fld := ⟨60, 1, .chip, fun _ => 0⟩
/-- Extension fault (R116). -/
def F.PA_REQERR_MASK_FORM : Fld := ⟨61, 1, .chip, fun _ => 0⟩
/-- Address at or beyond 128 GiB, or last byte beyond it (R25). -/
def F.PA_REQERR_RANGE : Fld := ⟨62, 1, .chip, fun _ => 0⟩
/-- Misaligned address (R114, R118). -/
def F.PA_REQERR_ALIGN : Fld := ⟨63, 1, .chip, fun _ => 0⟩
/-- Reserved OP (R113). -/
def F.PA_REQERR_OPCODE : Fld := ⟨64, 1, .chip, fun _ => 0⟩
/-- Alert threshold 512 × (ACT_THRESH + 1) activations: 512–8192. -/
def F.CH_CFG_ACT_THRESH : Fld := ⟨65, 4, .chip, fun _ => 3⟩
/-- Age limit 256 ns × 2^AGE: 256 ns–16.384 µs. Code 7 acts as 6. -/
def F.CH_CFG_AGE : Fld := ⟨66, 3, .chip, fun _ => 3⟩
/-- 1: start a block reset of this PC, cause OWNER. -/
def F.CH_CTRL_RESET : Fld := ⟨67, 1, .chip, fun _ => 0⟩
/-- Queue entries in use, 0–256. -/
def F.CH_STATUS_QLEVEL : Fld := ⟨68, 9, .block, fun _ => 0⟩
/-- DIRTY page-code entries, 0–32. -/
def F.CH_STATUS_DIRTY : Fld := ⟨69, 6, .block, fun _ => 0⟩
/-- IR-drop step, 0–3 (R162). Kept across chip reset, because a step never falls within a power cycle. -/
def F.CH_STATUS_IRDROP : Fld := ⟨70, 2, .always, fun _ => 0⟩
/-- In narrow mode, 0: strobe groups 0–1. 1: strobe groups 2–3. -/
def F.CH_STATUS_HALF : Fld := ⟨71, 1, .chip, fun _ => 0⟩
/-- 0: NORMAL. 1: NARROW. 2: DARK. 3: RESETTING. -/
def F.CH_STATUS_MODE : Fld := ⟨72, 2, .chip, fun _ => 0⟩
/-- Block resets of this PC; saturates. -/
def F.CH_RESET_INFO_COUNT : Fld := ⟨73, 16, .chip, fun _ => 0⟩
/-- Last cause. 0: none. 1: OWNER. 2: FAULT_REACTION. 3: CODE_PATH. 4: TSV_PATH. 5: SEQUENCER. 6–15: reserved. -/
def F.CH_RESET_INFO_CAUSE : Fld := ⟨74, 4, .chip, fun _ => 0⟩
/-- NREFs issued under R158; saturates. -/
def F.CH_ACT_IMMEDIATE : Fld := ⟨75, 16, .chip, fun _ => 0⟩
/-- Activation alerts; saturates. -/
def F.CH_ACT_ALERTS : Fld := ⟨76, 16, .chip, fun _ => 0⟩
/-- Rows ever added to the suspect list; saturates. -/
def F.CH_SUSPECT_TOTAL : Fld := ⟨77, 16, .chip, fun _ => 0⟩
/-- Suspect rows awaiting rebuild, 0–32. -/
def F.CH_SUSPECT_PENDING : Fld := ⟨78, 6, .chip, fun _ => 0⟩
/-- Page-code write-backs, bits [31:0]. -/
def F.CH_WB : Fld := ⟨79, 64, .chip, fun _ => 0⟩
/-- Activates issued, demand and background, bits [31:0]. -/
def F.CH_ACTS : Fld := ⟨80, 64, .chip, fun _ => 0⟩
/-- Requests completed CHANNEL_UNAVAILABLE under R165; saturates. -/
def F.CH_HELD_HELD : Fld := ⟨81, 32, .chip, fun _ => 0⟩
/-- Dark PCs, 0–64. -/
def F.GL_CAPACITY_DARK : Fld := ⟨82, 7, .chip, fun _ => 0⟩
/-- PCs in narrow mode, 0–64. -/
def F.GL_CAPACITY_NARROW : Fld := ⟨83, 7, .chip, fun _ => 0⟩
/-- PCs not dark, 0–64. -/
def F.GL_CAPACITY_LIVE : Fld := ⟨84, 7, .chip, fun _ => 64⟩
/-- Matching reads needed before speculation, 1–3. Code 0 acts as 1. -/
def F.CMT_CFG_CONF : Fld := ⟨85, 2, .chip, fun _ => 2⟩
/-- 1: comet engine enabled. -/
def F.CMT_CFG_EN : Fld := ⟨86, 1, .chip, fun _ => 1⟩
/-- 1: issue held by throttle step 3 or deeper. -/
def F.CMT_STATUS_THROTTLED : Fld := ⟨87, 1, .chip, fun _ => 0⟩
/-- Comet entries with CONF at or above the needed count, 0–4096. -/
def F.CMT_STATUS_STREAMS : Fld := ⟨88, 13, .lowPower, fun _ => 0⟩
/-- Speculative column reads issued. -/
def F.CMT_RDS_COUNT : Fld := ⟨89, 32, .chip, fun _ => 0⟩
/-- Speculative activates issued. -/
def F.CMT_ACTS_COUNT : Fld := ⟨90, 32, .chip, fun _ => 0⟩
/-- Lines served from curd buffers. -/
def F.CMT_HITS_COUNT : Fld := ⟨91, 32, .chip, fun _ => 0⟩
/-- Entries made STALE. -/
def F.CMT_STALE_COUNT : Fld := ⟨92, 32, .chip, fun _ => 0⟩
/-- Lines discarded under R182. -/
def F.CMT_DISCARD_COUNT : Fld := ⟨93, 32, .chip, fun _ => 0⟩
/-- Entries replaced under R173. -/
def F.CMT_UNUSED_COUNT : Fld := ⟨94, 32, .chip, fun _ => 0⟩
/-- Drops under R171 and R183. -/
def F.CMT_CANCEL_COUNT : Fld := ⟨95, 32, .chip, fun _ => 0⟩
/-- Word in the row, 0–31. -/
def F.REP_WTAG_WORD : Fld := ⟨96, 5, .always, fun _ => 0⟩
/-- Physical row. 0–8191: user rows. 8192–8271: spare and reserved sub-array. -/
def F.REP_WTAG_ROW : Fld := ⟨97, 14, .always, fun _ => 0⟩
/-- Bank group × 4 + bank. -/
def F.REP_WTAG_BANK : Fld := ⟨98, 4, .always, fun _ => 0⟩
/-- Core die. -/
def F.REP_WTAG_DIE : Fld := ⟨99, 4, .always, fun _ => 0⟩
/-- 1: recorded in fuses. -/
def F.REP_WTAG_PERSIST : Fld := ⟨100, 1, .always, fun _ => 0⟩
/-- 1: the word is poisoned. -/
def F.REP_WTAG_POISON : Fld := ⟨101, 1, .always, fun _ => 0⟩
/-- 1: entry in use. -/
def F.REP_WTAG_V : Fld := ⟨102, 1, .always, fun _ => 0⟩
/-- Bits [31:0] of the orbit number at install; 0 for entries reinstalled from fuses. -/
def F.REP_WTAG_HI_ORBIT : Fld := ⟨103, 32, .always, fun _ => 0⟩
/-- Corrections before read-correct-write, 0–255. 0: every correction. -/
def F.REP_CODE_CFG_REPEAT : Fld := ⟨104, 8, .chip, fun _ => 4⟩
/-- Scrub period in hours, 1–168. Code 0 acts as 1. Codes above 168 act as 168. -/
def F.REP_SCRUB_CFG_PERIOD_H : Fld := ⟨105, 8, .chip, fun _ => 12⟩
/-- Orbits between row starts (R206). -/
def F.REP_SCRUB_INTERVAL_I : Fld := ⟨106, 17, .chip, fun _ => 5222⟩
/-- Step n of the walk (R205), 0–2,117,631. -/
def F.REP_SCRUB_POS_STEP : Fld := ⟨107, 22, .chip, fun _ => 0⟩
/-- Passes completed since chip reset; saturates. -/
def F.REP_SCRUB_PASSES_COUNT : Fld := ⟨108, 32, .chip, fun _ => 0⟩
/-- Successful page rebuilds (R193, R208). -/
def F.CH_CODE_REBUILT : Fld := ⟨109, 16, .chip, fun _ => 0⟩
/-- CORRECTED decodes of demand reads. -/
def F.CH_CODE_CORRECTED : Fld := ⟨110, 16, .chip, fun _ => 0⟩
/-- Words poison-marked (R211). -/
def F.CH_UNCORR_MARKED : Fld := ⟨111, 16, .chip, fun _ => 0⟩
/-- Outcomes under R210. -/
def F.CH_UNCORR_UNCORR : Fld := ⟨112, 16, .chip, fun _ => 0⟩
/-- Hard faults found (R198). -/
def F.CH_REPEAT_HARD : Fld := ⟨113, 16, .chip, fun _ => 0⟩
/-- Read-correct-writes performed. -/
def F.CH_REPEAT_RCW : Fld := ⟨114, 16, .chip, fun _ => 0⟩
/-- Entries on the unrepaired list, 0–16. -/
def F.CH_REMAP_UNREP : Fld := ⟨115, 5, .always, fun _ => 0⟩
/-- Installs since power-on; saturates at 511. -/
def F.CH_REMAP_INSTALLS : Fld := ⟨116, 9, .always, fun _ => 0⟩
/-- Spares in use, 0–64. -/
def F.CH_REMAP_USED : Fld := ⟨117, 7, .always, fun _ => 0⟩
/-- Rows whose S0 and S1 check was skipped (R209). -/
def F.CH_SCRUB_SKIP : Fld := ⟨118, 16, .chip, fun _ => 0⟩
/-- Words rewritten by the scrubber. -/
def F.CH_SCRUB_CORRECTED : Fld := ⟨119, 16, .chip, fun _ => 0⟩
/-- Base class, 0–7. -/
def F.SES_ACT0_BASE : Fld := ⟨120, 3, .chip, fun _ => 0⟩
/-- Outstanding limit, 0–4095. 0: every request is refused. -/
def F.SES_ACT0_LIMIT : Fld := ⟨121, 12, .chip, fun _ => 4095⟩
/-- Latency target in 4 ns units, up to 262.14 µs. 0: no target. -/
def F.SES_ACT0_TARGET : Fld := ⟨122, 16, .chip, fun _ => 0⟩
/-- Comet depth, 0–15. 0: no speculation. -/
def F.SES_ACT1_COMET : Fld := ⟨123, 4, .chip, fun _ => 0⟩
/-- Urgency binding. 0: none. 1: port A. 2: port B. 3: acts as 0. -/
def F.SES_ACT1_BIND : Fld := ⟨124, 2, .chip, fun _ => 0⟩
/-- Yield rank, 0–15. A higher rank yields first. -/
def F.SES_ACT1_RANK : Fld := ⟨125, 4, .chip, fun _ => 0⟩
/-- Reserved entries in every PC queue, 0–255. 0: no reservation. -/
def F.SES_ACT1_RESERVE : Fld := ⟨126, 8, .chip, fun _ => 0⟩
/-- Staged base class. -/
def F.SES_STG0_BASE : Fld := ⟨127, 3, .chip, fun _ => 0⟩
/-- Staged outstanding limit. -/
def F.SES_STG0_LIMIT : Fld := ⟨128, 12, .chip, fun _ => 4095⟩
/-- Staged latency target. -/
def F.SES_STG0_TARGET : Fld := ⟨129, 16, .chip, fun _ => 0⟩
/-- Staged comet depth. -/
def F.SES_STG1_COMET : Fld := ⟨130, 4, .chip, fun _ => 0⟩
/-- Staged urgency binding. -/
def F.SES_STG1_BIND : Fld := ⟨131, 2, .chip, fun _ => 0⟩
/-- Staged yield rank. -/
def F.SES_STG1_RANK : Fld := ⟨132, 4, .chip, fun _ => 0⟩
/-- Staged reservation. -/
def F.SES_STG1_RESERVE : Fld := ⟨133, 8, .chip, fun _ => 0⟩
/-- 1: MEAS holds at least one sample. -/
def F.SES_STAT_MEAS_VALID : Fld := ⟨134, 1, .lowPower, fun _ => 0⟩
/-- 1: latency boosts are withdrawn under *Run-time oversubscription*. -/
def F.SES_STAT_EXEMPT : Fld := ⟨135, 1, .chip, fun _ => 0⟩
/-- 1: the reservation is suspended. -/
def F.SES_STAT_SUSP : Fld := ⟨136, 1, .chip, fun _ => 0⟩
/-- Outstanding port requests, 0–4095. -/
def F.SES_STAT_OUTST : Fld := ⟨137, 12, .chip, fun _ => 0⟩
/-- Measured latency in 4 ns units; saturates at 0xFFFF. -/
def F.SES_STAT_MEAS : Fld := ⟨138, 16, .lowPower, fun _ => 0⟩
/-- Port requests admitted; saturates. -/
def F.SES_REQS_COUNT : Fld := ⟨139, 32, .chip, fun _ => 0⟩
/-- Latency samples above TARGET; saturates. -/
def F.SES_MISSES_COUNT : Fld := ⟨140, 32, .chip, fun _ => 0⟩
/-- Suspensions of the reservation; saturates. -/
def F.SES_EVENTS_SUSPENDS : Fld := ⟨141, 16, .chip, fun _ => 0⟩
/-- REFUSED_LIMIT completions; saturates. -/
def F.SES_EVENTS_REFUSED : Fld := ⟨142, 16, .chip, fun _ => 0⟩
/-- 0: label mode. 1: port-class mode. -/
def F.QOS_CFG_MODE : Fld := ⟨143, 1, .chip, fun _ => 0⟩
/-- Withhold bound 256 ns × 2^HOLD_MAX: 256 ns–16.384 µs. Codes 7–15 act as 6. -/
def F.QOS_FB_HOLD_MAX : Fld := ⟨144, 4, .chip, fun _ => 4⟩
/-- HW of R229, 64–255. Codes below 64 act as 64. -/
def F.QOS_FB_HIGH_WATER : Fld := ⟨145, 8, .chip, fun _ => 192⟩
/-- Class of peer link 1 ingress. -/
def F.QOS_ICLASS_PL1 : Fld := ⟨146, 3, .chip, fun _ => 4⟩
/-- Class of peer link 0 ingress. -/
def F.QOS_ICLASS_PL0 : Fld := ⟨147, 3, .chip, fun _ => 4⟩
/-- Class of service-port work. -/
def F.QOS_ICLASS_SVC : Fld := ⟨148, 3, .chip, fun _ => 1⟩
/-- Port B class in port-class mode. In both modes, the class of the fetches and records of port B's rings (R212). -/
def F.QOS_ICLASS_B : Fld := ⟨149, 3, .chip, fun _ => 2⟩
/-- Port A class in port-class mode. In both modes, the class of the fetches and records of port A's rings (R212). -/
def F.QOS_ICLASS_A : Fld := ⟨150, 3, .chip, fun _ => 2⟩
/-- Yield rank of service-ring mover work in port-class mode. -/
def F.QOS_IRANK_SVC : Fld := ⟨151, 4, .chip, fun _ => 8⟩
/-- Port B yield rank in port-class mode. -/
def F.QOS_IRANK_B : Fld := ⟨152, 4, .chip, fun _ => 8⟩
/-- Port A yield rank in port-class mode. -/
def F.QOS_IRANK_A : Fld := ⟨153, 4, .chip, fun _ => 8⟩
/-- Ordering label of BAR2 accesses (R214). -/
def F.QOS_SVC_LABEL_LABEL : Fld := ⟨154, 18, .chip, fun _ => 0⟩
/-- C from the last orbit boundary (R231). -/
def F.QOS_CAP_CAP : Fld := ⟨155, 8, .chip, fun _ => 192⟩
/-- ΣR of reservations in force. -/
def F.QOS_RES_ACTIVE_INFORCE : Fld := ⟨156, 8, .chip, fun _ => 0⟩
/-- Sum of all active RESERVE fields. -/
def F.QOS_RES_ACTIVE_SUM : Fld := ⟨157, 8, .chip, fun _ => 0⟩
/-- ΣR_new of R232 for the staged state. -/
def F.QOS_RES_STAGED_SUM : Fld := ⟨158, 26, .chip, fun _ => 0⟩
/-- 1: a suspension is in force. -/
def F.QOS_CUT_VALID : Fld := ⟨159, 1, .chip, fun _ => 0⟩
/-- RANK of the cut. -/
def F.QOS_CUT_RANK : Fld := ⟨160, 4, .chip, fun _ => 0⟩
/-- Label of the cut. -/
def F.QOS_CUT_LABEL : Fld := ⟨161, 18, .chip, fun _ => 0⟩
/-- Suspensions under R233. -/
def F.QOS_SUSP_COUNT : Fld := ⟨162, 32, .chip, fun _ => 0⟩
/-- Resumptions under R233. -/
def F.QOS_RESUME_COUNT : Fld := ⟨163, 32, .chip, fun _ => 0⟩
/-- Misses of exempt sessions (R224). -/
def F.QOS_MISS_EXEMPT_COUNT : Fld := ⟨164, 32, .chip, fun _ => 0⟩
/-- REFUSED_LIMIT completions (R221). -/
def F.QOS_REFUSED_COUNT : Fld := ⟨165, 32, .chip, fun _ => 0⟩
/-- Withholdings (R230). -/
def F.QOS_HELD_COUNT : Fld := ⟨166, 32, .chip, fun _ => 0⟩
/-- COMMITs refused under R232. -/
def F.QOS_OVERSUB_COMMITS_COUNT : Fld := ⟨167, 32, .chip, fun _ => 0⟩
/-- Base bits [31:12]; the base is 4 KiB aligned. -/
def F.RING_BASE_BASE : Fld := ⟨168, 20, .chip, fun _ => 0⟩
/-- Base bits [63:32]. For rings 0–127, only [4:0] may be non-zero (R237). -/
def F.RING_BASE_HI_BASE_HI : Fld := ⟨169, 32, .chip, fun _ => 0⟩
/-- MSI-X vector of rings 128–159; ignored for others. -/
def F.RING_CFG_VECTOR : Fld := ⟨170, 6, .chip, fun _ => 0⟩
/-- 1: R248 applies. -/
def F.RING_CFG_SERIAL : Fld := ⟨171, 1, .chip, fun _ => 0⟩
/-- Descriptors in progress at most DEPTH + 1: 1–8. -/
def F.RING_CFG_DEPTH : Fld := ⟨172, 3, .chip, fun _ => 7⟩
/-- 0: disabled. 4–16: 2^SIZE slots. Codes 1–3 act as 4; codes 17–31 act as 16. -/
def F.RING_CFG_SIZE : Fld := ⟨173, 5, .chip, fun _ => 0⟩
/-- 1: resume under R255. -/
def F.RING_CTRL_RESUME : Fld := ⟨174, 1, .chip, fun _ => 0⟩
/-- Producer index (R239). -/
def F.RING_PROD_PROD : Fld := ⟨175, 17, .chip, fun _ => 0⟩
/-- Next index. -/
def F.RING_NEXT_NEXT : Fld := ⟨176, 17, .chip, fun _ => 0⟩
/-- Consumer index. -/
def F.RING_CONS_CONS : Fld := ⟨177, 17, .chip, fun _ => 0⟩
/-- 1: halted on a record write (R255). -/
def F.RING_STATUS_RECORD_FAIL : Fld := ⟨178, 1, .chip, fun _ => 0⟩
/-- 1: halted on a fetch. -/
def F.RING_STATUS_FETCH_FAIL : Fld := ⟨179, 1, .chip, fun _ => 0⟩
/-- A setup write or RESUME was refused, or the ring range is invalid. -/
def F.RING_STATUS_CFG_ERR : Fld := ⟨180, 1, .chip, fun _ => 0⟩
/-- A doorbell was dropped (R240). -/
def F.RING_STATUS_DB_ERR : Fld := ⟨181, 1, .chip, fun _ => 0⟩
/-- Status that halted the ring (R253). -/
def F.RING_STATUS_CAUSE : Fld := ⟨182, 8, .chip, fun _ => 0⟩
/-- Descriptors in progress, 0–8. -/
def F.RING_STATUS_INFLIGHT : Fld := ⟨183, 4, .chip, fun _ => 0⟩
/-- 0: DISABLED. 1: IDLE. 2: RUNNING. 3: HALTED. 4: ABORTED. 5–7: reserved. -/
def F.RING_STATUS_STATE : Fld := ⟨184, 3, .chip, fun _ => 0⟩
/-- Engines holding a descriptor, 0–32. -/
def F.MOV_BUSY_ENGINES : Fld := ⟨185, 6, .chip, fun _ => 0⟩
/-- Records written, bits [31:0]. -/
def F.MOV_DESC : Fld := ⟨186, 64, .chip, fun _ => 0⟩
/-- Bytes written, bits [31:0]. -/
def F.MOV_BYTES : Fld := ⟨187, 64, .chip, fun _ => 0⟩
/-- Ring halts under R255. -/
def F.MOV_HALTS_COUNT : Fld := ⟨188, 32, .chip, fun _ => 0⟩
/-- Owner after the read, coded as SEM_OWNER.OWNER. -/
def F.SEM_CLAIM_OWNER : Fld := ⟨189, 2, .chip, fun _ => 0⟩
/-- 1: the reader owns the semaphore (R270). -/
def F.SEM_CLAIM_GRANTED : Fld := ⟨190, 1, .chip, fun _ => 0⟩
/-- Lease remaining in units of 1024 orbits, rounded up. -/
def F.SEM_OWNER_REMAIN : Fld := ⟨191, 16, .chip, fun _ => 0⟩
/-- 1: the service port is eligible under R274. -/
def F.SEM_OWNER_SVC_ELIG : Fld := ⟨192, 1, .chip, fun _ => 0⟩
/-- Host port that wins a tie. 0: A. 1: B. -/
def F.SEM_OWNER_ALT : Fld := ⟨193, 1, .chip, fun _ => 0⟩
/-- 0: free. 1: port A. 2: port B. 3: service port. -/
def F.SEM_OWNER_OWNER : Fld := ⟨194, 2, .chip, fun _ => 0⟩
/-- 1: release the semaphore. -/
def F.SEM_LEASE_RELEASE : Fld := ⟨195, 1, .chip, fun _ => 0⟩
/-- 1: restart the lease. -/
def F.SEM_LEASE_RENEW : Fld := ⟨196, 1, .chip, fun _ => 0⟩
/-- 1: the service port may claim. Cleared on release (R275). -/
def F.SEM_SVC_ALLOW_ALLOW : Fld := ⟨197, 1, .chip, fun _ => 0⟩
/-- Lease 2^(LEASE + 10) orbits. -/
def F.SEM_CFG_LEASE : Fld := ⟨198, 4, .chip, fun _ => 6⟩
/-- Grants; saturates. -/
def F.SEM_COUNT_GRANTS : Fld := ⟨199, 16, .chip, fun _ => 0⟩
/-- Lease expiries; saturates. -/
def F.SEM_COUNT_EXPIRIES : Fld := ⟨200, 16, .chip, fun _ => 0⟩
/-- 1: discard staged state (R279). -/
def F.CFG_CTRL_DISCARD : Fld := ⟨201, 1, .chip, fun _ => 0⟩
/-- Configuration group. 0: no group; no comparison. -/
def F.CFG_GROUP_GROUP : Fld := ⟨202, 16, .chip, fun _ => 0⟩
/-- Commit orbit bits [31:0]. -/
def F.CFG_COMMIT_ORBIT : Fld := ⟨203, 48, .chip, fun _ => 0⟩
/-- 1: take a commit (R280). -/
def F.CFG_COMMIT_HI_ARM : Fld := ⟨204, 1, .chip, fun _ => 0⟩
/-- 1: a commit is armed. -/
def F.CFG_COMMIT_STATUS_ARMED : Fld := ⟨205, 1, .chip, fun _ => 0⟩
/-- Result of the last commit (R283). -/
def F.CFG_COMMIT_STATUS_RESULT : Fld := ⟨206, 8, .chip, fun _ => 0⟩
/-- Master that took the last commit, coded as OWNER. -/
def F.CFG_COMMIT_STATUS_BY : Fld := ⟨207, 2, .chip, fun _ => 0⟩
/-- 0: register. 1: COMMIT descriptor. -/
def F.CFG_COMMIT_STATUS_PATH : Fld := ⟨208, 1, .chip, fun _ => 0⟩
/-- An ARM or DISCARD was dropped while a commit was armed. -/
def F.CFG_COMMIT_STATUS_BUSY_ERR : Fld := ⟨209, 1, .chip, fun _ => 0⟩
/-- 1: the last compared beacon on peer link 1 differed. -/
def F.CFG_STATUS_MISMATCH1 : Fld := ⟨210, 1, .chip, fun _ => 0⟩
/-- 1: the last compared beacon on peer link 0 differed. -/
def F.CFG_STATUS_MISMATCH0 : Fld := ⟨211, 1, .chip, fun _ => 0⟩
/-- 1: digest being recomputed. -/
def F.CFG_STATUS_DIGEST_BUSY : Fld := ⟨212, 1, .chip, fun _ => 0⟩
/-- 1: staged state differs from active (R277). -/
def F.CFG_STATUS_STAGED : Fld := ⟨213, 1, .chip, fun _ => 0⟩
/-- Digest bits [31:0]. -/
def F.CFG_DIGEST : Fld := ⟨214, 64, .chip, fun _ => 0⟩
/-- Orbit bits [31:0]. 0 before the first applied commit. -/
def F.CFG_DIGEST_AT : Fld := ⟨215, 48, .chip, fun _ => 0⟩
/-- Peer digest bits [31:0]. -/
def F.CFG_PEER_DIGEST : Fld := ⟨216, 64, .chip, fun _ => 0⟩
/-- 1: a ×4 link is allowed (R308). -/
def F.PL_PHY_CTRL_X4_EN : Fld := ⟨217, 1, .chip, fun _ => 1⟩
/-- 1: train and run the link. 0: link DOWN, drivers in electrical idle. -/
def F.PL_PHY_CTRL_ENABLE : Fld := ⟨218, 1, .chip, fun _ => 1⟩
/-- Idle time before sleep (R301). 0: never sleep. -/
def F.PL_PHY_CFG_SLEEP_AFTER : Fld := ⟨219, 4, .chip, fun _ => 3⟩
/-- Fixed peaking code (R294). -/
def F.PL_PHY_CFG_PEAK : Fld := ⟨220, 6, .chip, fun _ => 18⟩
/-- 1: use PEAK instead of adapting. -/
def F.PL_PHY_CFG_PEAK_FIX : Fld := ⟨221, 1, .chip, fun _ => 0⟩
/-- Fixed FIR preset (R292). -/
def F.PL_PHY_CFG_PRESET : Fld := ⟨222, 3, .chip, fun _ => 2⟩
/-- 1: use PRESET instead of adapting. -/
def F.PL_PHY_CFG_FIR_FIX : Fld := ⟨223, 1, .chip, fun _ => 0⟩
/-- Spectral mask (R293). -/
def F.PL_PHY_CFG_MASK : Fld := ⟨224, 2, .chip, fun _ => 0⟩
/-- 0: LEADER. 1: FOLLOWER. Takes effect at the next training. -/
def F.PL_PHY_CFG_ROLE : Fld := ⟨225, 1, .chip, fun i => i⟩
/-- Loopback (R310). -/
def F.PL_PHY_LOOP_MODE : Fld := ⟨226, 3, .chip, fun _ => 0⟩
/-- A loopback write was refused (R310). -/
def F.PL_PHY_STATUS_LOOP_REFUSED : Fld := ⟨227, 1, .block, fun _ => 0⟩
/-- Both ends had the same role at the last T0. -/
def F.PL_PHY_STATUS_ROLE_CLASH : Fld := ⟨228, 1, .block, fun _ => 0⟩
/-- 1: a received burst is in progress. -/
def F.PL_PHY_STATUS_RX_BURST : Fld := ⟨229, 1, .block, fun _ => 0⟩
/-- 1: the transmit direction is awake. -/
def F.PL_PHY_STATUS_TX_AWAKE : Fld := ⟨230, 1, .block, fun _ => 0⟩
/-- Training step in progress, 0–4. -/
def F.PL_PHY_STATUS_STEP : Fld := ⟨231, 3, .block, fun _ => 0⟩
/-- At ×4, 0: lanes 0–3. 1: lanes 4–7. -/
def F.PL_PHY_STATUS_HALF : Fld := ⟨232, 1, .block, fun _ => 0⟩
/-- 0: ×8. 1: ×4. -/
def F.PL_PHY_STATUS_WIDTH : Fld := ⟨233, 1, .block, fun _ => 0⟩
/-- 0: DOWN. 1: TRAINING. 2: UP. 3: LOOP. 4–7: reserved. -/
def F.PL_PHY_STATUS_STATE : Fld := ⟨234, 3, .block, fun _ => 0⟩
/-- 1: the lane failed at the last training or under R306. -/
def F.PL_LANE_FAILED : Fld := ⟨235, 1, .chip, fun _ => 0⟩
/-- Loss of lock seen (R305). -/
def F.PL_LANE_LOL : Fld := ⟨236, 1, .chip, fun _ => 0⟩
/-- Loss of signal seen. -/
def F.PL_LANE_LOS : Fld := ⟨237, 1, .chip, fun _ => 0⟩
/-- Last frozen estimate in ppm, two's complement. -/
def F.PL_LANE_AFC : Fld := ⟨238, 10, .chip, fun _ => 0⟩
/-- Peaking code in use. -/
def F.PL_LANE_PEAK : Fld := ⟨239, 6, .chip, fun _ => 0⟩
/-- Tap, two's complement. -/
def F.PL_FIR_POST2 : Fld := ⟨240, 6, .chip, fun _ => 0⟩
/-- Tap, two's complement. -/
def F.PL_FIR_POST1 : Fld := ⟨241, 6, .chip, fun _ => 0⟩
/-- Tap. -/
def F.PL_FIR_MAIN : Fld := ⟨242, 6, .chip, fun _ => 45⟩
/-- Tap, two's complement. -/
def F.PL_FIR_PRE1 : Fld := ⟨243, 6, .chip, fun _ => 0⟩
/-- Tap, two's complement. -/
def F.PL_FIR_PRE2 : Fld := ⟨244, 6, .chip, fun _ => 0⟩
/-- CORRECTED pairs, bits [31:0]. -/
def F.PL_FEC_CORR : Fld := ⟨245, 64, .chip, fun _ => 0⟩
/-- FAILED pairs. -/
def F.PL_FEC_FAIL_COUNT : Fld := ⟨246, 32, .chip, fun _ => 0⟩
/-- Bursts aborted under R306. -/
def F.PL_ABORTS_COUNT : Fld := ⟨247, 32, .chip, fun _ => 0⟩
/-- PRBS31 symbol errors in loopback. -/
def F.PL_LOOP_ERR_COUNT : Fld := ⟨248, 32, .block, fun _ => 0⟩
/-- Trainings started. -/
def F.PL_TRAIN_COUNT : Fld := ⟨249, 16, .chip, fun _ => 0⟩
/-- 0: none. 1: NO_TONE. 2: ROLE_CLASH. 3: ECHO. 4: EQUALISE. 5: VERIFY. 6: WIDTH. 7–15: reserved. -/
def F.PL_TRAIN_LAST_CAUSE : Fld := ⟨250, 4, .chip, fun _ => 0⟩
/-- Outstanding operations, 0–256 (R317). -/
def F.PL_FAB_STATUS_OUTST : Fld := ⟨251, 9, .block, fun _ => 0⟩
/-- 1: the peer borrows over this link. -/
def F.PL_FAB_STATUS_PEER_BORROWS : Fld := ⟨252, 1, .block, fun _ => 0⟩
/-- 1: PL0_PEER_ID holds a received serial. -/
def F.PL_FAB_STATUS_PEER_VALID : Fld := ⟨253, 1, .block, fun _ => 0⟩
/-- Peer serial, bits [31:0]. -/
def F.PL_PEER_ID : Fld := ⟨254, 64, .block, fun _ => 0⟩
/-- Data frames received in FAILED pairs (R320). -/
def F.PL_DATA_ERR_COUNT : Fld := ⟨255, 32, .chip, fun _ => 0⟩
/-- Control replays. -/
def F.PL_CREPLAY_REPLAYS : Fld := ⟨256, 16, .chip, fun _ => 0⟩
/-- Frames discarded under R313 and R315. -/
def F.PL_CREPLAY_BAD : Fld := ⟨257, 16, .chip, fun _ => 0⟩
/-- A[36:16] of the first local granule. -/
def F.PL_AP_LBASE_BASE : Fld := ⟨258, 21, .chip, fun _ => 0⟩
/-- A[36:16] of the last local granule, inclusive. -/
def F.PL_AP_LLIMIT_LIMIT : Fld := ⟨259, 21, .chip, fun _ => 0⟩
/-- A[36:16] of the peer granule that BASE maps to. -/
def F.PL_AP_RBASE_RBASE : Fld := ⟨260, 21, .chip, fun _ => 0⟩
/-- 1: aperture enabled (R321). -/
def F.PL_AP_CTRL_EN : Fld := ⟨261, 1, .chip, fun _ => 0⟩
/-- A[36:16] of the first granule. -/
def F.PL_RW_BASE_BASE : Fld := ⟨262, 21, .chip, fun _ => 0⟩
/-- A[36:16] of the last granule, inclusive. -/
def F.PL_RW_LIMIT_LIMIT : Fld := ⟨263, 21, .chip, fun _ => 0⟩
/-- 1: remote writes allowed. -/
def F.PL_RW_CTRL_WR : Fld := ⟨264, 1, .chip, fun _ => 0⟩
/-- 1: remote reads allowed. -/
def F.PL_RW_CTRL_RD : Fld := ⟨265, 1, .chip, fun _ => 0⟩
/-- 1: window enabled (R322). -/
def F.PL_RW_CTRL_EN : Fld := ⟨266, 1, .chip, fun _ => 0⟩
/-- A[36:16] of the first local granule. -/
def F.MIR_LBASE_BASE : Fld := ⟨267, 21, .chip, fun _ => 0⟩
/-- Granules minus 1: 64 KiB–16 GiB. -/
def F.MIR_SIZE_LAST : Fld := ⟨268, 18, .chip, fun _ => 0⟩
/-- A[36:16] of the paired region's first granule on the peer. -/
def F.MIR_RBASE_RBASE : Fld := ⟨269, 21, .chip, fun _ => 0⟩
/-- Lag budget in orbits. 0: synchronous. -/
def F.MIR_CTRL_LAG : Fld := ⟨270, 16, .chip, fun _ => 0⟩
/-- Peer link of the pair. -/
def F.MIR_CTRL_LINK : Fld := ⟨271, 1, .chip, fun _ => 0⟩
/-- 0: OFF. 1: PRIMARY. 2: SECONDARY. 3: acts as 0. -/
def F.MIR_CTRL_ROLE : Fld := ⟨272, 2, .chip, fun _ => 0⟩
/-- Coded as in R329. -/
def F.MIR_STATUS_STATE : Fld := ⟨273, 3, .chip, fun _ => 0⟩
/-- Secondary only. 1: the region held a SYNCED copy when it last left SYNCED (R330). -/
def F.MIR_STATUS_VALID_COPY : Fld := ⟨274, 1, .chip, fun _ => 0⟩
/-- Dirty granules, 0–262,143; saturates. Primary only. -/
def F.MIR_STATUS_DIRTY : Fld := ⟨275, 18, .chip, fun _ => 0⟩
/-- Resyncs completed; saturates. -/
def F.MIR_COUNT_RESYNCS : Fld := ⟨276, 16, .chip, fun _ => 0⟩
/-- Entries into BROKEN; saturates. -/
def F.MIR_COUNT_BREAKS : Fld := ⟨277, 16, .chip, fun _ => 0⟩
/-- A[36:16] of the window start. -/
def F.SVC_WIN_BASE_BASE : Fld := ⟨278, 21, .chip, fun _ => 0⟩
/-- Granules of 64 KiB, 0–16,384. 0: closed. Larger codes act as 16,384. -/
def F.SVC_WIN_SIZE_SIZE : Fld := ⟨279, 15, .chip, fun _ => 0⟩
/-- Vector for traps. -/
def F.SVC_VEC_TRAP : Fld := ⟨280, 6, .chip, fun _ => 33⟩
/-- Vector for fault interrupts. -/
def F.SVC_VEC_FAULT : Fld := ⟨281, 6, .chip, fun _ => 32⟩
/-- Synchronised PERST_N. -/
def F.SVC_STATUS_PERST : Fld := ⟨282, 1, .block, fun _ => 0⟩
/-- 0: D0. 3: D3hot. 1–2: reserved. -/
def F.SVC_STATUS_DSTATE : Fld := ⟨283, 2, .block, fun _ => 0⟩
/-- Bus Master Enable. -/
def F.SVC_STATUS_BME : Fld := ⟨284, 1, .block, fun _ => 0⟩
/-- 1: ×1. 2: ×2. 4: ×4. Other codes: reserved. -/
def F.SVC_STATUS_WIDTH : Fld := ⟨285, 3, .block, fun _ => 0⟩
/-- 1–5: 2.5–32 GT/s. -/
def F.SVC_STATUS_SPEED : Fld := ⟨286, 3, .block, fun _ => 0⟩
/-- 1: link up (DL_Up). -/
def F.SVC_STATUS_LINK : Fld := ⟨287, 1, .block, fun _ => 0⟩
/-- A ring access failed (R343). -/
def F.SVC_ERR_DMA_FAIL : Fld := ⟨288, 1, .chip, fun _ => 0⟩
/-- A write left a marked word unwritten. -/
def F.SVC_ERR_PART_POISON : Fld := ⟨289, 1, .chip, fun _ => 0⟩
/-- A BAR2 write granule was dropped. -/
def F.SVC_ERR_WR_FAIL : Fld := ⟨290, 1, .chip, fun _ => 0⟩
/-- A BAR2 access lay outside the window. -/
def F.SVC_ERR_WIN_MISS : Fld := ⟨291, 1, .chip, fun _ => 0⟩
/-- A committed window reaches beyond 128 GiB. -/
def F.SVC_ERR_WIN_INVALID : Fld := ⟨292, 1, .chip, fun _ => 0⟩
/-- A BAR0 write was dropped for ownership. -/
def F.SVC_ERR_NOT_OWNER : Fld := ⟨293, 1, .chip, fun _ => 0⟩
/-- Malformed BAR0 request (R336). -/
def F.SVC_ERR_BAR0_FORM : Fld := ⟨294, 1, .chip, fun _ => 0⟩
/-- Losses of the service host; saturates. -/
def F.SVC_LOSS_COUNT : Fld := ⟨295, 16, .chip, fun _ => 0⟩
/-- 0: none. 1: PERST_N. 2: DL_Down. 3: hot or function-level reset. -/
def F.SVC_LOSS_CAUSE : Fld := ⟨296, 2, .chip, fun _ => 0⟩
/-- 1: clock gating under R368. -/
def F.CLK_CFG_GATE_EN : Fld := ⟨297, 1, .chip, fun _ => 1⟩
/-- Idle time 2^(GATE_IDLE + 4) cycles: 16–32,768. Codes 12–15 act as 11. -/
def F.CLK_CFG_GATE_IDLE : Fld := ⟨298, 4, .chip, fun _ => 4⟩
/-- XTAL start attempts of the last start, minus 1: 0–15. -/
def F.CLK_STATUS_ATTEMPTS : Fld := ⟨299, 4, .always, fun _ => 0⟩
/-- 0: COARSE. 1: FINE (R353). -/
def F.CLK_STATUS_MON_RANGE : Fld := ⟨300, 1, .chip, fun _ => 0⟩
/-- Retention sequencer source. 0: XTAL. 1: TRO (R359). -/
def F.CLK_STATUS_RS_SRC : Fld := ⟨301, 1, .chip, fun _ => 0⟩
/-- 1: the monitor is armed. -/
def F.CLK_STATUS_MON_ARMED : Fld := ⟨302, 1, .chip, fun _ => 0⟩
/-- 1: XTAL judged stable and no trip since. -/
def F.CLK_STATUS_XTAL_GOOD : Fld := ⟨303, 1, .chip, fun _ => 0⟩
/-- 1: the TRO start is complete. -/
def F.CLK_STATUS_TRO_STARTED : Fld := ⟨304, 1, .chip, fun _ => 0⟩
/-- Bad windows since chip reset. -/
def F.CLK_MON_BAD_WINDOWS : Fld := ⟨305, 16, .chip, fun _ => 0⟩
/-- XTAL count of the last window. -/
def F.CLK_MON_LAST : Fld := ⟨306, 9, .chip, fun _ => 0⟩
/-- Source failures under R358. -/
def F.CLK_XTAL_FAILS_COUNT : Fld := ⟨307, 16, .always, fun _ => 0⟩
/-- Refusals under R369. -/
def F.CLK_GATE_REFUSE_COUNT : Fld := ⟨308, 32, .chip, fun _ => 0⟩
/-- Timeouts under R367. -/
def F.CLK_XING_TIMEOUTS : Fld := ⟨309, 16, .chip, fun _ => 0⟩
/-- Lost events under R366. -/
def F.CLK_XING_OVERRUNS : Fld := ⟨310, 16, .chip, fun _ => 0⟩
/-- Bit i = 1: domain 32k + i has a running clock. Bits for domains 102–127 are reserved. -/
def F.CLK_DOM_RUN : Fld := ⟨311, 32, .chip, fun _ => 0⟩
/-- Bit i = 1: a crossing into domain 32k + i overran. Bits for domains 102–127 are reserved. -/
def F.CLK_OVR_OVR : Fld := ⟨312, 32, .chip, fun _ => 0⟩
/-- I_set in 0.25 A, 48–192 (12–48 A). Codes below 48 act as 48; codes above 192 act as 192. -/
def F.PWR_VIN_LIMIT_LIMIT : Fld := ⟨313, 8, .chip, fun _ => 133⟩
/-- Idle orbits before a Drowse attempt. 0: Drowse never entered. -/
def F.PWR_CFG_DROWSE_IDLE : Fld := ⟨314, 16, .chip, fun _ => 256⟩
/-- 1: chip reset, cause OWNER. -/
def F.PWR_CTRL_CHIP_RESET : Fld := ⟨315, 1, .chip, fun _ => 0⟩
/-- I_now in 0.25 A. -/
def F.PWR_STATUS_INOW : Fld := ⟨316, 8, .chip, fun _ => 133⟩
/-- Bit 0 VCORE, 1 VRET, 2 VARRAY, 3 VTSV: 1 when good. -/
def F.PWR_STATUS_RAILS : Fld := ⟨317, 4, .chip, fun _ => 0⟩
/-- 1: pacing under R376. -/
def F.PWR_STATUS_PACING : Fld := ⟨318, 1, .chip, fun _ => 0⟩
/-- VIN current of the last 1 µs in 0.25 A; saturates. -/
def F.PWR_STATUS_IMEAS : Fld := ⟨319, 8, .chip, fun _ => 0⟩
/-- Abandoned entries; saturates. -/
def F.PWR_REFUSE_COUNT : Fld := ⟨320, 16, .chip, fun _ => 0⟩
/-- 1: DROWSE. 2: HIBERNATE. 3: CRESCENT. -/
def F.PWR_REFUSE_TARGET : Fld := ⟨321, 2, .chip, fun _ => 0⟩
/-- 0: BUSY. 1: WAKE. 2: THERMAL. 3: RULE, a condition of R379 that a delay cannot cure (CFG and MIR). -/
def F.PWR_REFUSE_REASON : Fld := ⟨322, 2, .chip, fun _ => 0⟩
/-- Block code of R379; 10: PWR; 11: THM. -/
def F.PWR_REFUSE_BLOCK : Fld := ⟨323, 4, .chip, fun _ => 0⟩
/-- Bit d = 1: die d retained by the last Crescent. -/
def F.PWR_KEEP_DIES : Fld := ⟨324, 16, .chip, fun _ => 0⟩
/-- Bit d = 1: die d awaits fill (R387). -/
def F.PWR_FILL_DIES : Fld := ⟨325, 16, .chip, fun _ => 0⟩
/-- Previous mode, coded as STATE. -/
def F.GL_MODE_PREV : Fld := ⟨326, 4, .always, fun _ => 0⟩
/-- Mode (R377). -/
def F.GL_MODE_STATE : Fld := ⟨327, 4, .always, fun _ => 0x1⟩
/-- Chip resets since power-on reset; saturates. -/
def F.RESET_CAUSE_COUNT : Fld := ⟨328, 16, .always, fun _ => 0⟩
/-- 0: POWER_ON. 1: RESET_N. 2: XTAL_FAIL. 3: FAULT_REACTION. 4: QUARANTINE_EXIT. 5: OWNER. 6: RAIL. 7: reserved. -/
def F.RESET_CAUSE_CAUSE : Fld := ⟨329, 3, .always, fun _ => 0⟩
/-- Wakes since power-on reset; saturates. -/
def F.WAKE_SOURCE_COUNT : Fld := ⟨330, 16, .always, fun _ => 0⟩
/-- Mode left, coded as GL_MODE.STATE. -/
def F.WAKE_SOURCE_FROM : Fld := ⟨331, 4, .always, fun _ => 0⟩
/-- Code of R389. 0: none. -/
def F.WAKE_SOURCE_SOURCE : Fld := ⟨332, 4, .always, fun _ => 0⟩
/-- Bit d = 1: die d kept (R394). -/
def F.RETAIN_STATUS_DIES : Fld := ⟨333, 16, .always, fun _ => 0⟩
/-- Last event. 0: power-on reset. 1: chip reset. 2: Hibernate exit. 3: Crescent exit. -/
def F.RETAIN_STATUS_EVENT : Fld := ⟨334, 2, .always, fun _ => 0⟩
/-- 0: not applicable. 1: RESTORED. 2: RESET, by chip reset. 3: FAILED (R399). -/
def F.RETAIN_STATUS_SES : Fld := ⟨335, 2, .always, fun _ => 0⟩
/-- 1: Crescent fills pending. -/
def F.RETAIN_STATUS_FILLING : Fld := ⟨336, 1, .always, fun _ => 0⟩
/-- 1: every die to be kept was kept. -/
def F.RETAIN_STATUS_RETAINED : Fld := ⟨337, 1, .always, fun _ => 0⟩
/-- Throttle point in °C, 60–105. Codes below 60 act as 60; codes above 105 act as 105. -/
def F.THM_CFG_THROTTLE : Fld := ⟨338, 8, .chip, fun _ => 100⟩
/-- Warning point in °C, 60–105, limited as THROTTLE. -/
def F.THM_CFG_WARN : Fld := ⟨339, 8, .chip, fun _ => 95⟩
/-- Step size in 0.25 A: 0.25–63.75 A. 0: acts as 1. -/
def F.THM_STEP_STEP : Fld := ⟨340, 8, .chip, fun _ => 4⟩
/-- k of R415. -/
def F.THM_STATUS_STEPS : Fld := ⟨341, 8, .chip, fun _ => 0⟩
/-- 1: the first sample since the last reset has completed (R505). -/
def F.THM_STATUS_SAMPLED : Fld := ⟨342, 1, .chip, fun _ => 0⟩
/-- 1: sampling every orbit (R412). -/
def F.THM_STATUS_FAST : Fld := ⟨343, 1, .chip, fun _ => 0⟩
/-- 1: k > 0. -/
def F.THM_STATUS_THROTTLING : Fld := ⟨344, 1, .chip, fun _ => 0⟩
/-- 1: warning set. -/
def F.THM_STATUS_WARNING : Fld := ⟨345, 1, .chip, fun _ => 0⟩
/-- Sensor giving Tmax, 0–35. 63: the substituted base-die value of R411. -/
def F.THM_MAX_SENSOR : Fld := ⟨346, 6, .chip, fun _ => 0⟩
/-- Tmax. -/
def F.THM_MAX_TEMP : Fld := ⟨347, 11, .chip, fun _ => 0⟩
/-- Bit d = 1: die d is hot (R414). Every bit is 1 until the first sample (R505). -/
def F.THM_HOT_HOT : Fld := ⟨348, 16, .chip, fun _ => 0xFFFF⟩
/-- Changes of k from 0 to 1. -/
def F.THM_COUNT_THROTTLES : Fld := ⟨349, 16, .chip, fun _ => 0⟩
/-- Warning sets. -/
def F.THM_COUNT_WARNINGS : Fld := ⟨350, 16, .chip, fun _ => 0⟩
/-- Sensor of the peak. -/
def F.THM_PEAK_SENSOR : Fld := ⟨351, 6, .always, fun _ => 0⟩
/-- Highest reading of any working sensor. -/
def F.THM_PEAK_TEMP : Fld := ⟨352, 11, .always, fun _ => 0⟩
/-- 1: the sensor has failed (R411). -/
def F.THM_SENSOR_FAILED : Fld := ⟨353, 1, .chip, fun _ => 0⟩
/-- Latest reading. -/
def F.THM_SENSOR_TEMP : Fld := ⟨354, 11, .chip, fun _ => 0⟩
/-- Original physical row. -/
def F.REP_RSPARE_ROW : Fld := ⟨355, 14, .always, fun _ => 0⟩
/-- Bank group × 4 + bank. -/
def F.REP_RSPARE_BANK : Fld := ⟨356, 4, .always, fun _ => 0⟩
/-- PC. -/
def F.REP_RSPARE_PC : Fld := ⟨357, 6, .always, fun _ => 0⟩
/-- Core die. -/
def F.REP_RSPARE_DIE : Fld := ⟨358, 4, .always, fun _ => 0⟩
/-- 1: recorded in fuses. -/
def F.REP_RSPARE_PERSIST : Fld := ⟨359, 1, .always, fun _ => 0⟩
/-- 1: entry in use. -/
def F.REP_RSPARE_V : Fld := ⟨360, 1, .always, fun _ => 0⟩
/-- Spare row s. -/
def F.REP_RSPARE_HI_SPARE : Fld := ⟨361, 4, .always, fun _ => 0⟩
/-- 1: the word in progress uses the pump. -/
def F.FUSE_STATUS_PUMP : Fld := ⟨362, 1, .chip, fun _ => 0⟩
/-- 1: VFUSE within range. -/
def F.FUSE_STATUS_VFUSE_OK : Fld := ⟨363, 1, .chip, fun _ => 0⟩
/-- 1: a word is being programmed. -/
def F.FUSE_STATUS_BUSY : Fld := ⟨364, 1, .chip, fun _ => 0⟩
/-- 1: the last sense is complete. -/
def F.FUSE_STATUS_LOADED : Fld := ⟨365, 1, .chip, fun _ => 0⟩
/-- State of region r (R427). -/
def F.FUSE_REGION_STATE : Fld := ⟨366, 2, .fuse, fun _ => 0⟩
/-- Bit 8 + r: read-lock of region r, r = 0–4. -/
def F.FUSE_LOCK_RL : Fld := ⟨367, 5, .sticky, fun _ => 0⟩
/-- Bit r: write-lock of region r. -/
def F.FUSE_LOCK_WL : Fld := ⟨368, 5, .sticky, fun _ => 0⟩
/-- Bit 8 + r: RL_r set, r = 0–4. -/
def F.FUSE_FUSED_LOCK_RL : Fld := ⟨369, 5, .fuse, fun _ => 0⟩
/-- Bit r: WL_r set. -/
def F.FUSE_FUSED_LOCK_WL : Fld := ⟨370, 5, .fuse, fun _ => 0⟩
/-- MARGINAL results since power-on reset. -/
def F.FUSE_MARGINAL_COUNT : Fld := ⟨371, 16, .always, fun _ => 0⟩
/-- Index of the last MARGINAL word. -/
def F.FUSE_MARGINAL_LAST : Fld := ⟨372, 10, .always, fun _ => 0⟩
/-- Words programmed since power-on reset. -/
def F.FUSE_PROG_WORDS : Fld := ⟨373, 16, .always, fun _ => 0⟩
/-- Words failed under R432. -/
def F.FUSE_PROG_VERIFY_FAILS : Fld := ⟨374, 16, .always, fun _ => 0⟩
/-- Blank words in region 3, 0–96. -/
def F.FUSE_FREE_R3 : Fld := ⟨375, 7, .fuse, fun _ => 0⟩
/-- Blank words in region 2, 0–256. -/
def F.FUSE_FREE_R2 : Fld := ⟨376, 9, .fuse, fun _ => 0⟩
/-- Data bits [31:0] after correction; 0 when read-locked or failed. -/
def F.FUSE_WORD_DATA : Fld := ⟨377, 56, .fuse, fun _ => 0⟩
/-- 1: the word's region is read-locked (R430). -/
def F.FUSE_WORD_HI_RLOCKED : Fld := ⟨378, 1, .fuse, fun _ => 0⟩
/-- 1: the word was MARGINAL at a sense since power-on reset (R424). -/
def F.FUSE_WORD_HI_FAILED : Fld := ⟨379, 1, .sticky, fun _ => 0⟩
/-- Outcome of the last sense (R423). -/
def F.FUSE_WORD_HI_SENSE : Fld := ⟨380, 2, .fuse, fun _ => 0⟩
/-- Ageing limit in TSV delay LSB, 1–15. 0: acts as 1. -/
def F.BIST_CFG_AGE_LIMIT : Fld := ⟨381, 4, .chip, fun _ => 6⟩
/-- 2^INTERVAL orbits between automatic slices. -/
def F.BIST_CFG_INTERVAL : Fld := ⟨382, 4, .chip, fun _ => 4⟩
/-- B = 0.5 µs × BUDGET. 0: field testing off. Codes above 64 act as 64. -/
def F.BIST_CFG_BUDGET : Fld := ⟨383, 7, .chip, fun _ => 4⟩
/-- 1: wipe in progress (R457). -/
def F.BIST_STATUS_WIPING : Fld := ⟨384, 1, .chip, fun _ => 0⟩
/-- 1: field testing on. -/
def F.BIST_STATUS_FIELD_ON : Fld := ⟨385, 1, .chip, fun _ => 0⟩
/-- 1: the last SELFTEST completed. -/
def F.BIST_STATUS_DONE : Fld := ⟨386, 1, .chip, fun _ => 0⟩
/-- Bit v = 1: privileged unit v matched (R448). -/
def F.BIST_SIG_PASS : Fld := ⟨387, 6, .chip, fun _ => 0⟩
/-- 1: a slice is in progress or was lost (R453). -/
def F.BIST_FIELD_CUR_ACTIVE : Fld := ⟨388, 1, .always, fun _ => 0⟩
/-- Code of R451. -/
def F.BIST_FIELD_CUR_KIND : Fld := ⟨389, 2, .always, fun _ => 0⟩
/-- Target PC. -/
def F.BIST_FIELD_CUR_PC : Fld := ⟨390, 6, .always, fun _ => 0⟩
/-- ROW_MARCH die. -/
def F.BIST_FIELD_CUR_DIE : Fld := ⟨391, 4, .always, fun _ => 0⟩
/-- ROW_MARCH bank group × 4 + bank. -/
def F.BIST_FIELD_CUR_BANK : Fld := ⟨392, 4, .always, fun _ => 0⟩
/-- TSV_DELAY strobe group. -/
def F.BIST_FIELD_CUR_GROUP : Fld := ⟨393, 2, .always, fun _ => 0⟩
/-- Row in the spare and reserved sub-array, 0–79. -/
def F.BIST_FIELD_CUR_ROW : Fld := ⟨394, 7, .always, fun _ => 0⟩
/-- Slices completed. -/
def F.BIST_FIELD_COUNT_SLICES : Fld := ⟨395, 16, .chip, fun _ => 0⟩
/-- Slices that found a failure. -/
def F.BIST_FIELD_COUNT_FAILS : Fld := ⟨396, 8, .chip, fun _ => 0⟩
/-- Slices abandoned. -/
def F.BIST_FIELD_COUNT_ABANDONED : Fld := ⟨397, 8, .chip, fun _ => 0⟩
/-- Ageing events (R454). -/
def F.BIST_AGE_COUNT : Fld := ⟨398, 8, .always, fun _ => 0⟩
/-- Last ageing lane: 0–127 data, 128–135 light code. -/
def F.BIST_AGE_LANE : Fld := ⟨399, 8, .always, fun _ => 0⟩
/-- PC of that lane. -/
def F.BIST_AGE_PC : Fld := ⟨400, 6, .always, fun _ => 0⟩
/-- 0: NOT_RUN. 1: PASS. 2: REPAIRED. 3: FAIL. -/
def F.BIST_UNIT_OUTCOME : Fld := ⟨401, 2, .chip, fun _ => 0⟩
/-- Coverage in 0.1 %, 0–1000. -/
def F.BIST_UNIT_COVERAGE : Fld := ⟨402, 10, .chip, fun _ => 0⟩
/-- Duration in µs. -/
def F.BIST_UNIT_DURATION : Fld := ⟨403, 20, .chip, fun _ => 0⟩
/-- Agreement tolerance in LSB, 0–7. -/
def F.CAL_CFG_TOL : Fld := ⟨404, 3, .chip, fun _ => 1⟩
/-- 1: calibration on. -/
def F.CAL_CFG_EN : Fld := ⟨405, 1, .chip, fun _ => 1⟩
/-- Discarded measurement pairs. -/
def F.CAL_STATUS_DISAGREE : Fld := ⟨406, 16, .chip, fun _ => 0⟩
/-- Targets clamped. -/
def F.CAL_STATUS_CLAMPS : Fld := ⟨407, 8, .chip, fun _ => 0⟩
/-- Holds under R459. -/
def F.CAL_STATUS_UNSTABLE : Fld := ⟨408, 8, .chip, fun _ => 0⟩
/-- TRO trim in use. -/
def F.CAL_TRO_TRIM : Fld := ⟨409, 10, .chip, fun _ => 0⟩
/-- 1: INT goes to the service port. -/
def F.FLT_ROUTE_SVC : Fld := ⟨410, 1, .chip, fun _ => 1⟩
/-- 1: INT goes to port B. -/
def F.FLT_ROUTE_B : Fld := ⟨411, 1, .chip, fun _ => 1⟩
/-- 1: INT goes to port A. -/
def F.FLT_ROUTE_A : Fld := ⟨412, 1, .chip, fun _ => 1⟩
/-- Reactions of severity i (R463). -/
def F.FLT_REACT : Fld := ⟨413, 8, .chip, fun i => if i < 4 then (0x11010100 >>> (8*i)) % 256 else (0x1A161202 >>> (8*(i-4))) % 256⟩
/-- An injection was refused (R472). -/
def F.FLT_STATUS_INJECT_REFUSED : Fld := ⟨414, 1, .chip, fun _ => 0⟩
/-- Level driven on FAULT_N. -/
def F.FLT_STATUS_FAULTN : Fld := ⟨415, 1, .chip, fun _ => 0⟩
/-- Entries written since power-on reset. -/
def F.FLT_LOG_HEAD_TOTAL : Fld := ⟨416, 24, .always, fun _ => 0⟩
/-- Index of the next entry. -/
def F.FLT_LOG_HEAD_HEAD : Fld := ⟨417, 8, .always, fun _ => 0⟩
/-- Entries dropped (R471). -/
def F.FLT_LOG_LOST_COUNT : Fld := ⟨418, 32, .always, fun _ => 0⟩
/-- Source to raise (R472). -/
def F.FLT_INJECT_SOURCE : Fld := ⟨419, 9, .chip, fun _ => 0⟩
/-- Overflow entry j, 0–1,048,575. -/
def F.FLT_OVF_IDX_INDEX : Fld := ⟨420, 20, .chip, fun _ => 0⟩
/-- 1: the last read of entry INDEX failed, and the entry registers read 0 (R471). -/
def F.FLT_OVF_STATUS_ERR : Fld := ⟨421, 1, .chip, fun _ => 0⟩
/-- Entries in the overflow area; saturates. -/
def F.FLT_OVF_STATUS_COUNT : Fld := ⟨422, 20, .always, fun _ => 0⟩
/-- 1: FLT_OVF_ENTRY_m holds entry INDEX. -/
def F.FLT_OVF_STATUS_READY : Fld := ⟨423, 1, .chip, fun _ => 0⟩
/-- Overflow entry bytes. -/
def F.FLT_OVF_ENTRY_DATA : Fld := ⟨424, 32, .chip, fun _ => 0⟩
/-- Bit i: source 32k + i is pending (R464). Bits of reserved sources read 0. -/
def F.FLT_PEND_PEND : Fld := ⟨425, 32, .chip, fun _ => 0⟩
/-- Severity of source i (R462). -/
def F.FLT_SEV : Fld := ⟨426, 3, .chip, fun i => defaultSeverity i⟩
/-- Entry i, bytes 4m to 4m + 3 (R469). -/
def F.FLT_LOG_DATA : Fld := ⟨427, 32, .always, fun _ => 0⟩
/-- Part number of the GWD128. Hard-wired. -/
def F.GL_ID_PART : Fld := ⟨428, 16, .always, fun _ => 0x0128⟩
/-- Speed bin, from the identity words of fuse region 0. 0: GWD128-B16. 1: GWD128-B12; also the value when those words fail or sense BLANK (R425, R504). 2–15: reserved. -/
def F.GL_ID_BIN : Fld := ⟨429, 4, .fuse, fun _ => 0⟩
/-- Silicon revision (R1). Hard-wired. -/
def F.GL_ID_REV : Fld := ⟨430, 8, .always, fun _ => 0xA2⟩
/-- Orbit bits [31:0]. -/
def F.TEL_ORBIT : Fld := ⟨431, 48, .chip, fun _ => 0⟩
/-- PC that reached QMAX. -/
def F.TEL_LOAD_QPC : Fld := ⟨432, 6, .chip, fun _ => 0⟩
/-- Mean VIN current over the orbit, in 0.25 A. -/
def F.TEL_LOAD_IAVG : Fld := ⟨433, 8, .chip, fun _ => 0⟩
/-- Highest CH_STATUS.QLEVEL of any PC during the orbit, 0–256. -/
def F.TEL_LOAD_QMAX : Fld := ⟨434, 9, .chip, fun _ => 0⟩
/-- New producer index (R239, R240). -/
def F.DB_PROD : Fld := ⟨435, 17, .chip, fun _ => 0⟩
/-- Address map. 0: LINEAR. 1: HASHED. -/
def F.CFG_ADDRMAP_MAP : Fld := ⟨436, 1, .chip, fun _ => 0⟩
/-- R442 -/
def F.REP_RSPARE_USED_USED : Fld := ⟨437, 17, .always, fun _ => 0⟩
/-- TEL_PA_RD -/
def F.TEL_PA_RD : Fld := ⟨438, 64, .chip, fun _ => 0⟩
/-- TEL_PA_WR -/
def F.TEL_PA_WR : Fld := ⟨439, 64, .chip, fun _ => 0⟩
/-- TEL_PB_RD -/
def F.TEL_PB_RD : Fld := ⟨440, 64, .chip, fun _ => 0⟩
/-- TEL_PB_WR -/
def F.TEL_PB_WR : Fld := ⟨441, 64, .chip, fun _ => 0⟩
/-- TEL_SVC_RD -/
def F.TEL_SVC_RD : Fld := ⟨442, 64, .chip, fun _ => 0⟩
/-- TEL_SVC_WR -/
def F.TEL_SVC_WR : Fld := ⟨443, 64, .chip, fun _ => 0⟩
/-- TEL_ARR_RD -/
def F.TEL_ARR_RD : Fld := ⟨444, 64, .chip, fun _ => 0⟩
/-- TEL_ARR_WR -/
def F.TEL_ARR_WR : Fld := ⟨445, 64, .chip, fun _ => 0⟩

/-- Every field, at the place its number names. -/
def fldList0 : List Fld :=
  [F.ORB_NOW, F.ORB_PHASE_IN_ECLIPSE, F.ORB_PHASE_PHASE, F.ORB_STATUS_BORROW_LINK, F.ORB_STATUS_FLAGS, F.ORB_STATUS_PHASE_LOCKED, F.ORB_STATUS_NUMBER_VALID, F.ORB_STATUS_STATE, F.ORB_CFG_SOURCE, F.ORB_HOTMAP_HOT, F.ORB_SLEEP_AT, F.ORB_SLEPT, F.ORB_SLEPT_HI_UNKNOWN, F.ORB_EVENTS_BAD_FRAME, F.ORB_EVENTS_MISSED, F.ORB_STEPS_STEPS, F.ORB_CATCHUP_COUNT, F.ORB_BORROW_COMP_PEER1, F.ORB_BORROW_COMP_PEER0, F.PA_CTRL_SPARE_EN, F.PA_CTRL_RATE_MAX, F.PA_CTRL_ENABLE, F.PA_STATUS_GROUPS, F.PA_STATUS_RATE, F.PA_STATUS_LINK, F.PA_SIDEBAND_PARTNER_IDLE, F.PA_SIDEBAND_URG, F.PA_SIDEBAND_HOSTPRES, F.PA_EYE_CFG_V_MIN, F.PA_EYE_CFG_H_MIN, F.PA_EYE_MIN_LANE, F.PA_EYE_MIN_GROUP, F.PA_EYE_MIN_V, F.PA_EYE_MIN_H, F.PA_COUNT_RECOVERIES, F.PA_COUNT_REPLAYS, F.PA_ERR_TRAIN_FAIL, F.PA_ERR_LINKCTL_BAD, F.PA_ERR_CREDIT_OVERRUN, F.PA_ERR_ORPHAN, F.PA_ERR_HOLD_MISS, F.PA_ERR_CRC, F.PA_LOSS_COUNT, F.PA_LOSS_CAUSE, F.PA_LANE_DISABLED, F.PA_LANE_TX_CUSED, F.PA_LANE_TX_CLANE, F.PA_LANE_TX_DUSED, F.PA_LANE_TX_DLANE, F.PA_LANE_RX_CUSED, F.PA_LANE_RX_CLANE, F.PA_LANE_RX_DUSED, F.PA_LANE_RX_DLANE, F.PA_WBASE_BASE, F.PA_WLIMIT_LIMIT, F.PA_WCTRL_WR, F.PA_WCTRL_RD, F.PA_WCTRL_EN, F.PA_REQERR_DB_ADDR, F.PA_REQERR_CFG_BLOCK]
def fldList1 : List Fld :=
  [F.PA_REQERR_TAG_REUSE, F.PA_REQERR_MASK_FORM, F.PA_REQERR_RANGE, F.PA_REQERR_ALIGN, F.PA_REQERR_OPCODE, F.CH_CFG_ACT_THRESH, F.CH_CFG_AGE, F.CH_CTRL_RESET, F.CH_STATUS_QLEVEL, F.CH_STATUS_DIRTY, F.CH_STATUS_IRDROP, F.CH_STATUS_HALF, F.CH_STATUS_MODE, F.CH_RESET_INFO_COUNT, F.CH_RESET_INFO_CAUSE, F.CH_ACT_IMMEDIATE, F.CH_ACT_ALERTS, F.CH_SUSPECT_TOTAL, F.CH_SUSPECT_PENDING, F.CH_WB, F.CH_ACTS, F.CH_HELD_HELD, F.GL_CAPACITY_DARK, F.GL_CAPACITY_NARROW, F.GL_CAPACITY_LIVE, F.CMT_CFG_CONF, F.CMT_CFG_EN, F.CMT_STATUS_THROTTLED, F.CMT_STATUS_STREAMS, F.CMT_RDS_COUNT, F.CMT_ACTS_COUNT, F.CMT_HITS_COUNT, F.CMT_STALE_COUNT, F.CMT_DISCARD_COUNT, F.CMT_UNUSED_COUNT, F.CMT_CANCEL_COUNT, F.REP_WTAG_WORD, F.REP_WTAG_ROW, F.REP_WTAG_BANK, F.REP_WTAG_DIE, F.REP_WTAG_PERSIST, F.REP_WTAG_POISON, F.REP_WTAG_V, F.REP_WTAG_HI_ORBIT, F.REP_CODE_CFG_REPEAT, F.REP_SCRUB_CFG_PERIOD_H, F.REP_SCRUB_INTERVAL_I, F.REP_SCRUB_POS_STEP, F.REP_SCRUB_PASSES_COUNT, F.CH_CODE_REBUILT, F.CH_CODE_CORRECTED, F.CH_UNCORR_MARKED, F.CH_UNCORR_UNCORR, F.CH_REPEAT_HARD, F.CH_REPEAT_RCW, F.CH_REMAP_UNREP, F.CH_REMAP_INSTALLS, F.CH_REMAP_USED, F.CH_SCRUB_SKIP, F.CH_SCRUB_CORRECTED]
def fldList2 : List Fld :=
  [F.SES_ACT0_BASE, F.SES_ACT0_LIMIT, F.SES_ACT0_TARGET, F.SES_ACT1_COMET, F.SES_ACT1_BIND, F.SES_ACT1_RANK, F.SES_ACT1_RESERVE, F.SES_STG0_BASE, F.SES_STG0_LIMIT, F.SES_STG0_TARGET, F.SES_STG1_COMET, F.SES_STG1_BIND, F.SES_STG1_RANK, F.SES_STG1_RESERVE, F.SES_STAT_MEAS_VALID, F.SES_STAT_EXEMPT, F.SES_STAT_SUSP, F.SES_STAT_OUTST, F.SES_STAT_MEAS, F.SES_REQS_COUNT, F.SES_MISSES_COUNT, F.SES_EVENTS_SUSPENDS, F.SES_EVENTS_REFUSED, F.QOS_CFG_MODE, F.QOS_FB_HOLD_MAX, F.QOS_FB_HIGH_WATER, F.QOS_ICLASS_PL1, F.QOS_ICLASS_PL0, F.QOS_ICLASS_SVC, F.QOS_ICLASS_B, F.QOS_ICLASS_A, F.QOS_IRANK_SVC, F.QOS_IRANK_B, F.QOS_IRANK_A, F.QOS_SVC_LABEL_LABEL, F.QOS_CAP_CAP, F.QOS_RES_ACTIVE_INFORCE, F.QOS_RES_ACTIVE_SUM, F.QOS_RES_STAGED_SUM, F.QOS_CUT_VALID, F.QOS_CUT_RANK, F.QOS_CUT_LABEL, F.QOS_SUSP_COUNT, F.QOS_RESUME_COUNT, F.QOS_MISS_EXEMPT_COUNT, F.QOS_REFUSED_COUNT, F.QOS_HELD_COUNT, F.QOS_OVERSUB_COMMITS_COUNT, F.RING_BASE_BASE, F.RING_BASE_HI_BASE_HI, F.RING_CFG_VECTOR, F.RING_CFG_SERIAL, F.RING_CFG_DEPTH, F.RING_CFG_SIZE, F.RING_CTRL_RESUME, F.RING_PROD_PROD, F.RING_NEXT_NEXT, F.RING_CONS_CONS, F.RING_STATUS_RECORD_FAIL, F.RING_STATUS_FETCH_FAIL]
def fldList3 : List Fld :=
  [F.RING_STATUS_CFG_ERR, F.RING_STATUS_DB_ERR, F.RING_STATUS_CAUSE, F.RING_STATUS_INFLIGHT, F.RING_STATUS_STATE, F.MOV_BUSY_ENGINES, F.MOV_DESC, F.MOV_BYTES, F.MOV_HALTS_COUNT, F.SEM_CLAIM_OWNER, F.SEM_CLAIM_GRANTED, F.SEM_OWNER_REMAIN, F.SEM_OWNER_SVC_ELIG, F.SEM_OWNER_ALT, F.SEM_OWNER_OWNER, F.SEM_LEASE_RELEASE, F.SEM_LEASE_RENEW, F.SEM_SVC_ALLOW_ALLOW, F.SEM_CFG_LEASE, F.SEM_COUNT_GRANTS, F.SEM_COUNT_EXPIRIES, F.CFG_CTRL_DISCARD, F.CFG_GROUP_GROUP, F.CFG_COMMIT_ORBIT, F.CFG_COMMIT_HI_ARM, F.CFG_COMMIT_STATUS_ARMED, F.CFG_COMMIT_STATUS_RESULT, F.CFG_COMMIT_STATUS_BY, F.CFG_COMMIT_STATUS_PATH, F.CFG_COMMIT_STATUS_BUSY_ERR, F.CFG_STATUS_MISMATCH1, F.CFG_STATUS_MISMATCH0, F.CFG_STATUS_DIGEST_BUSY, F.CFG_STATUS_STAGED, F.CFG_DIGEST, F.CFG_DIGEST_AT, F.CFG_PEER_DIGEST, F.PL_PHY_CTRL_X4_EN, F.PL_PHY_CTRL_ENABLE, F.PL_PHY_CFG_SLEEP_AFTER, F.PL_PHY_CFG_PEAK, F.PL_PHY_CFG_PEAK_FIX, F.PL_PHY_CFG_PRESET, F.PL_PHY_CFG_FIR_FIX, F.PL_PHY_CFG_MASK, F.PL_PHY_CFG_ROLE, F.PL_PHY_LOOP_MODE, F.PL_PHY_STATUS_LOOP_REFUSED, F.PL_PHY_STATUS_ROLE_CLASH, F.PL_PHY_STATUS_RX_BURST, F.PL_PHY_STATUS_TX_AWAKE, F.PL_PHY_STATUS_STEP, F.PL_PHY_STATUS_HALF, F.PL_PHY_STATUS_WIDTH, F.PL_PHY_STATUS_STATE, F.PL_LANE_FAILED, F.PL_LANE_LOL, F.PL_LANE_LOS, F.PL_LANE_AFC, F.PL_LANE_PEAK]
def fldList4 : List Fld :=
  [F.PL_FIR_POST2, F.PL_FIR_POST1, F.PL_FIR_MAIN, F.PL_FIR_PRE1, F.PL_FIR_PRE2, F.PL_FEC_CORR, F.PL_FEC_FAIL_COUNT, F.PL_ABORTS_COUNT, F.PL_LOOP_ERR_COUNT, F.PL_TRAIN_COUNT, F.PL_TRAIN_LAST_CAUSE, F.PL_FAB_STATUS_OUTST, F.PL_FAB_STATUS_PEER_BORROWS, F.PL_FAB_STATUS_PEER_VALID, F.PL_PEER_ID, F.PL_DATA_ERR_COUNT, F.PL_CREPLAY_REPLAYS, F.PL_CREPLAY_BAD, F.PL_AP_LBASE_BASE, F.PL_AP_LLIMIT_LIMIT, F.PL_AP_RBASE_RBASE, F.PL_AP_CTRL_EN, F.PL_RW_BASE_BASE, F.PL_RW_LIMIT_LIMIT, F.PL_RW_CTRL_WR, F.PL_RW_CTRL_RD, F.PL_RW_CTRL_EN, F.MIR_LBASE_BASE, F.MIR_SIZE_LAST, F.MIR_RBASE_RBASE, F.MIR_CTRL_LAG, F.MIR_CTRL_LINK, F.MIR_CTRL_ROLE, F.MIR_STATUS_STATE, F.MIR_STATUS_VALID_COPY, F.MIR_STATUS_DIRTY, F.MIR_COUNT_RESYNCS, F.MIR_COUNT_BREAKS, F.SVC_WIN_BASE_BASE, F.SVC_WIN_SIZE_SIZE, F.SVC_VEC_TRAP, F.SVC_VEC_FAULT, F.SVC_STATUS_PERST, F.SVC_STATUS_DSTATE, F.SVC_STATUS_BME, F.SVC_STATUS_WIDTH, F.SVC_STATUS_SPEED, F.SVC_STATUS_LINK, F.SVC_ERR_DMA_FAIL, F.SVC_ERR_PART_POISON, F.SVC_ERR_WR_FAIL, F.SVC_ERR_WIN_MISS, F.SVC_ERR_WIN_INVALID, F.SVC_ERR_NOT_OWNER, F.SVC_ERR_BAR0_FORM, F.SVC_LOSS_COUNT, F.SVC_LOSS_CAUSE, F.CLK_CFG_GATE_EN, F.CLK_CFG_GATE_IDLE, F.CLK_STATUS_ATTEMPTS]
def fldList5 : List Fld :=
  [F.CLK_STATUS_MON_RANGE, F.CLK_STATUS_RS_SRC, F.CLK_STATUS_MON_ARMED, F.CLK_STATUS_XTAL_GOOD, F.CLK_STATUS_TRO_STARTED, F.CLK_MON_BAD_WINDOWS, F.CLK_MON_LAST, F.CLK_XTAL_FAILS_COUNT, F.CLK_GATE_REFUSE_COUNT, F.CLK_XING_TIMEOUTS, F.CLK_XING_OVERRUNS, F.CLK_DOM_RUN, F.CLK_OVR_OVR, F.PWR_VIN_LIMIT_LIMIT, F.PWR_CFG_DROWSE_IDLE, F.PWR_CTRL_CHIP_RESET, F.PWR_STATUS_INOW, F.PWR_STATUS_RAILS, F.PWR_STATUS_PACING, F.PWR_STATUS_IMEAS, F.PWR_REFUSE_COUNT, F.PWR_REFUSE_TARGET, F.PWR_REFUSE_REASON, F.PWR_REFUSE_BLOCK, F.PWR_KEEP_DIES, F.PWR_FILL_DIES, F.GL_MODE_PREV, F.GL_MODE_STATE, F.RESET_CAUSE_COUNT, F.RESET_CAUSE_CAUSE, F.WAKE_SOURCE_COUNT, F.WAKE_SOURCE_FROM, F.WAKE_SOURCE_SOURCE, F.RETAIN_STATUS_DIES, F.RETAIN_STATUS_EVENT, F.RETAIN_STATUS_SES, F.RETAIN_STATUS_FILLING, F.RETAIN_STATUS_RETAINED, F.THM_CFG_THROTTLE, F.THM_CFG_WARN, F.THM_STEP_STEP, F.THM_STATUS_STEPS, F.THM_STATUS_SAMPLED, F.THM_STATUS_FAST, F.THM_STATUS_THROTTLING, F.THM_STATUS_WARNING, F.THM_MAX_SENSOR, F.THM_MAX_TEMP, F.THM_HOT_HOT, F.THM_COUNT_THROTTLES, F.THM_COUNT_WARNINGS, F.THM_PEAK_SENSOR, F.THM_PEAK_TEMP, F.THM_SENSOR_FAILED, F.THM_SENSOR_TEMP, F.REP_RSPARE_ROW, F.REP_RSPARE_BANK, F.REP_RSPARE_PC, F.REP_RSPARE_DIE, F.REP_RSPARE_PERSIST]
def fldList6 : List Fld :=
  [F.REP_RSPARE_V, F.REP_RSPARE_HI_SPARE, F.FUSE_STATUS_PUMP, F.FUSE_STATUS_VFUSE_OK, F.FUSE_STATUS_BUSY, F.FUSE_STATUS_LOADED, F.FUSE_REGION_STATE, F.FUSE_LOCK_RL, F.FUSE_LOCK_WL, F.FUSE_FUSED_LOCK_RL, F.FUSE_FUSED_LOCK_WL, F.FUSE_MARGINAL_COUNT, F.FUSE_MARGINAL_LAST, F.FUSE_PROG_WORDS, F.FUSE_PROG_VERIFY_FAILS, F.FUSE_FREE_R3, F.FUSE_FREE_R2, F.FUSE_WORD_DATA, F.FUSE_WORD_HI_RLOCKED, F.FUSE_WORD_HI_FAILED, F.FUSE_WORD_HI_SENSE, F.BIST_CFG_AGE_LIMIT, F.BIST_CFG_INTERVAL, F.BIST_CFG_BUDGET, F.BIST_STATUS_WIPING, F.BIST_STATUS_FIELD_ON, F.BIST_STATUS_DONE, F.BIST_SIG_PASS, F.BIST_FIELD_CUR_ACTIVE, F.BIST_FIELD_CUR_KIND, F.BIST_FIELD_CUR_PC, F.BIST_FIELD_CUR_DIE, F.BIST_FIELD_CUR_BANK, F.BIST_FIELD_CUR_GROUP, F.BIST_FIELD_CUR_ROW, F.BIST_FIELD_COUNT_SLICES, F.BIST_FIELD_COUNT_FAILS, F.BIST_FIELD_COUNT_ABANDONED, F.BIST_AGE_COUNT, F.BIST_AGE_LANE, F.BIST_AGE_PC, F.BIST_UNIT_OUTCOME, F.BIST_UNIT_COVERAGE, F.BIST_UNIT_DURATION, F.CAL_CFG_TOL, F.CAL_CFG_EN, F.CAL_STATUS_DISAGREE, F.CAL_STATUS_CLAMPS, F.CAL_STATUS_UNSTABLE, F.CAL_TRO_TRIM, F.FLT_ROUTE_SVC, F.FLT_ROUTE_B, F.FLT_ROUTE_A, F.FLT_REACT, F.FLT_STATUS_INJECT_REFUSED, F.FLT_STATUS_FAULTN, F.FLT_LOG_HEAD_TOTAL, F.FLT_LOG_HEAD_HEAD, F.FLT_LOG_LOST_COUNT, F.FLT_INJECT_SOURCE]
def fldList7 : List Fld :=
  [F.FLT_OVF_IDX_INDEX, F.FLT_OVF_STATUS_ERR, F.FLT_OVF_STATUS_COUNT, F.FLT_OVF_STATUS_READY, F.FLT_OVF_ENTRY_DATA, F.FLT_PEND_PEND, F.FLT_SEV, F.FLT_LOG_DATA, F.GL_ID_PART, F.GL_ID_BIN, F.GL_ID_REV, F.TEL_ORBIT, F.TEL_LOAD_QPC, F.TEL_LOAD_IAVG, F.TEL_LOAD_QMAX, F.DB_PROD, F.CFG_ADDRMAP_MAP, F.REP_RSPARE_USED_USED, F.TEL_PA_RD, F.TEL_PA_WR, F.TEL_PB_RD, F.TEL_PB_WR, F.TEL_SVC_RD, F.TEL_SVC_WR, F.TEL_ARR_RD, F.TEL_ARR_WR]
def fldList : List Fld :=
  fldList0 ++ fldList1 ++ fldList2 ++ fldList3 ++ fldList4 ++ fldList5 ++ fldList6 ++ fldList7

/-- The registers, by name (R479). -/
inductive Reg where
  | ORB_NOW
  | ORB_NOW_HI
  | ORB_PHASE
  | ORB_STATUS
  | ORB_CFG
  | ORB_HOTMAP
  | ORB_SLEEP_AT
  | ORB_SLEEP_AT_HI
  | ORB_SLEPT
  | ORB_SLEPT_HI
  | ORB_EVENTS
  | ORB_STEPS
  | ORB_CATCHUP
  | ORB_BORROW_COMP
  | PA_CTRL
  | PA_STATUS
  | PA_SIDEBAND
  | PA_EYE_CFG
  | PA_EYE_MIN
  | PA_COUNT
  | PA_ERR
  | PA_LOSS
  | PA_LANE
  | PA_WBASE
  | PA_WLIMIT
  | PA_WCTRL
  | PA_REQERR
  | CH_CFG
  | CH_CTRL
  | CH_STATUS
  | CH_RESET_INFO
  | CH_ACT
  | CH_SUSPECT
  | CH_WB
  | CH_WB_HI
  | CH_ACTS
  | CH_ACTS_HI
  | CH_HELD
  | GL_CAPACITY
  | CMT_CFG
  | CMT_STATUS
  | CMT_RDS
  | CMT_ACTS
  | CMT_HITS
  | CMT_STALE
  | CMT_DISCARD
  | CMT_UNUSED
  | CMT_CANCEL
  | REP_WTAG
  | REP_WTAG_HI
  | REP_CODE_CFG
  | REP_SCRUB_CFG
  | REP_SCRUB_INTERVAL
  | REP_SCRUB_POS
  | REP_SCRUB_PASSES
  | CH_CODE
  | CH_UNCORR
  | CH_REPEAT
  | CH_REMAP
  | CH_SCRUB
  | SES_ACT0
  | SES_ACT1
  | SES_STG0
  | SES_STG1
  | SES_STAT
  | SES_REQS
  | SES_MISSES
  | SES_EVENTS
  | QOS_CFG
  | QOS_FB
  | QOS_ICLASS
  | QOS_IRANK
  | QOS_SVC_LABEL
  | QOS_CAP
  | QOS_RES_ACTIVE
  | QOS_RES_STAGED
  | QOS_CUT
  | QOS_SUSP
  | QOS_RESUME
  | QOS_MISS_EXEMPT
  | QOS_REFUSED
  | QOS_HELD
  | QOS_OVERSUB_COMMITS
  | RING_BASE
  | RING_BASE_HI
  | RING_CFG
  | RING_CTRL
  | RING_PROD
  | RING_NEXT
  | RING_CONS
  | RING_STATUS
  | MOV_BUSY
  | MOV_DESC
  | MOV_DESC_HI
  | MOV_BYTES
  | MOV_BYTES_HI
  | MOV_HALTS
  | SEM_CLAIM
  | SEM_OWNER
  | SEM_LEASE
  | SEM_SVC_ALLOW
  | SEM_CFG
  | SEM_COUNT
  | CFG_CTRL
  | CFG_GROUP
  | CFG_COMMIT
  | CFG_COMMIT_HI
  | CFG_COMMIT_STATUS
  | CFG_STATUS
  | CFG_DIGEST
  | CFG_DIGEST_HI
  | CFG_DIGEST_AT
  | CFG_DIGEST_AT_HI
  | CFG_PEER_DIGEST
  | CFG_PEER_DIGEST_HI
  | PL_PHY_CTRL
  | PL_PHY_CFG
  | PL_PHY_LOOP
  | PL_PHY_STATUS
  | PL_LANE
  | PL_FIR
  | PL_FEC_CORR
  | PL_FEC_CORR_HI
  | PL_FEC_FAIL
  | PL_ABORTS
  | PL_LOOP_ERR
  | PL_TRAIN
  | PL_FAB_STATUS
  | PL_PEER_ID
  | PL_PEER_ID_HI
  | PL_DATA_ERR
  | PL_CREPLAY
  | PL_AP_LBASE
  | PL_AP_LLIMIT
  | PL_AP_RBASE
  | PL_AP_CTRL
  | PL_RW_BASE
  | PL_RW_LIMIT
  | PL_RW_CTRL
  | MIR_LBASE
  | MIR_SIZE
  | MIR_RBASE
  | MIR_CTRL
  | MIR_STATUS
  | MIR_COUNT
  | SVC_WIN_BASE
  | SVC_WIN_SIZE
  | SVC_VEC
  | SVC_STATUS
  | SVC_ERR
  | SVC_LOSS
  | CLK_CFG
  | CLK_STATUS
  | CLK_MON
  | CLK_XTAL_FAILS
  | CLK_GATE_REFUSE
  | CLK_XING
  | CLK_DOM
  | CLK_OVR
  | PWR_VIN_LIMIT
  | PWR_CFG
  | PWR_CTRL
  | PWR_STATUS
  | PWR_REFUSE
  | PWR_KEEP
  | PWR_FILL
  | GL_MODE
  | RESET_CAUSE
  | WAKE_SOURCE
  | RETAIN_STATUS
  | THM_CFG
  | THM_STEP
  | THM_STATUS
  | THM_MAX
  | THM_HOT
  | THM_COUNT
  | THM_PEAK
  | THM_SENSOR
  | REP_RSPARE
  | REP_RSPARE_HI
  | FUSE_STATUS
  | FUSE_REGION
  | FUSE_LOCK
  | FUSE_FUSED_LOCK
  | FUSE_MARGINAL
  | FUSE_PROG
  | FUSE_FREE
  | FUSE_WORD
  | FUSE_WORD_HI
  | BIST_CFG
  | BIST_STATUS
  | BIST_SIG
  | BIST_FIELD_CUR
  | BIST_FIELD_COUNT
  | BIST_AGE
  | BIST_UNIT
  | CAL_CFG
  | CAL_STATUS
  | CAL_TRO
  | FLT_ROUTE
  | FLT_REACT_LO
  | FLT_REACT_HI
  | FLT_STATUS
  | FLT_LOG_HEAD
  | FLT_LOG_LOST
  | FLT_INJECT
  | FLT_OVF_IDX
  | FLT_OVF_STATUS
  | FLT_OVF_ENTRY
  | FLT_PEND
  | FLT_SEV
  | FLT_LOG
  | GL_ID
  | TEL_ORBIT
  | TEL_ORBIT_HI
  | TEL_LOAD
  | DB
  | CFG_ADDRMAP
  | REP_RSPARE_USED
  | TEL_PA_RD
  | TEL_PA_RD_HI
  | TEL_PA_WR
  | TEL_PA_WR_HI
  | TEL_PB_RD
  | TEL_PB_RD_HI
  | TEL_PB_WR
  | TEL_PB_WR_HI
  | TEL_SVC_RD
  | TEL_SVC_RD_HI
  | TEL_SVC_WR
  | TEL_SVC_WR_HI
  | TEL_ARR_RD
  | TEL_ARR_RD_HI
  | TEL_ARR_WR
  | TEL_ARR_WR_HI
deriving DecidableEq, Repr

/-- One part of a register: its bits, the field it shows from bit `vlo` of it, how the register's index gives the
field's (index * mul + add), and its access code. -/
structure Part where
  hi : Nat
  lo : Nat
  fld : Fld
  vlo : Nat
  mul : Nat
  add : Nat
  acc : Acc

/-- A register: its first address, the counts and strides of its copies, its kind and its parts. -/
structure RegDef where
  reg : Reg
  base : Nat
  dims : List (Nat × Nat)
  kind : Kind
  parts : List Part

def D.ORB_NOW : RegDef := ⟨.ORB_NOW, 0x60000, [], .status,
  [⟨31, 0, F.ORB_NOW, 0, 1, 0, .ro⟩]⟩
def D.ORB_NOW_HI : RegDef := ⟨.ORB_NOW_HI, 0x60004, [], .status,
  [⟨15, 0, F.ORB_NOW, 32, 1, 0, .ro⟩]⟩
def D.ORB_PHASE : RegDef := ⟨.ORB_PHASE, 0x60008, [], .status,
  [⟨16, 16, F.ORB_PHASE_IN_ECLIPSE, 0, 1, 0, .ro⟩,
   ⟨11, 0, F.ORB_PHASE_PHASE, 0, 1, 0, .ro⟩]⟩
def D.ORB_STATUS : RegDef := ⟨.ORB_STATUS, 0x6000c, [], .status,
  [⟨17, 17, F.ORB_STATUS_BORROW_LINK, 0, 1, 0, .ro⟩,
   ⟨15, 8, F.ORB_STATUS_FLAGS, 0, 1, 0, .ro⟩,
   ⟨4, 4, F.ORB_STATUS_PHASE_LOCKED, 0, 1, 0, .ro⟩,
   ⟨3, 3, F.ORB_STATUS_NUMBER_VALID, 0, 1, 0, .ro⟩,
   ⟨2, 0, F.ORB_STATUS_STATE, 0, 1, 0, .ro⟩]⟩
def D.ORB_CFG : RegDef := ⟨.ORB_CFG, 0x60010, [], .setup,
  [⟨1, 0, F.ORB_CFG_SOURCE, 0, 1, 0, .rw⟩]⟩
def D.ORB_HOTMAP : RegDef := ⟨.ORB_HOTMAP, 0x60014, [], .status,
  [⟨15, 0, F.ORB_HOTMAP_HOT, 0, 1, 0, .ro⟩]⟩
def D.ORB_SLEEP_AT : RegDef := ⟨.ORB_SLEEP_AT, 0x60018, [], .status,
  [⟨31, 0, F.ORB_SLEEP_AT, 0, 1, 0, .ro⟩]⟩
def D.ORB_SLEEP_AT_HI : RegDef := ⟨.ORB_SLEEP_AT_HI, 0x6001c, [], .status,
  [⟨15, 0, F.ORB_SLEEP_AT, 32, 1, 0, .ro⟩]⟩
def D.ORB_SLEPT : RegDef := ⟨.ORB_SLEPT, 0x60020, [], .status,
  [⟨31, 0, F.ORB_SLEPT, 0, 1, 0, .ro⟩]⟩
def D.ORB_SLEPT_HI : RegDef := ⟨.ORB_SLEPT_HI, 0x60024, [], .status,
  [⟨31, 31, F.ORB_SLEPT_HI_UNKNOWN, 0, 1, 0, .ro⟩,
   ⟨15, 0, F.ORB_SLEPT, 32, 1, 0, .ro⟩]⟩
def D.ORB_EVENTS : RegDef := ⟨.ORB_EVENTS, 0x60028, [], .status,
  [⟨31, 16, F.ORB_EVENTS_BAD_FRAME, 0, 1, 0, .ro⟩,
   ⟨15, 0, F.ORB_EVENTS_MISSED, 0, 1, 0, .ro⟩]⟩
def D.ORB_STEPS : RegDef := ⟨.ORB_STEPS, 0x6002c, [], .status,
  [⟨31, 0, F.ORB_STEPS_STEPS, 0, 1, 0, .ro⟩]⟩
def D.ORB_CATCHUP : RegDef := ⟨.ORB_CATCHUP, 0x60040, [(16, 0x4)], .status,
  [⟨31, 0, F.ORB_CATCHUP_COUNT, 0, 1, 0, .ro⟩]⟩
def D.ORB_BORROW_COMP : RegDef := ⟨.ORB_BORROW_COMP, 0x60080, [], .status,
  [⟨31, 16, F.ORB_BORROW_COMP_PEER1, 0, 1, 0, .ro⟩,
   ⟨15, 0, F.ORB_BORROW_COMP_PEER0, 0, 1, 0, .ro⟩]⟩
def D.PA_CTRL : RegDef := ⟨.PA_CTRL, 0x80000, [(2, 0x10000)], .setup,
  [⟨3, 3, F.PA_CTRL_SPARE_EN, 0, 1, 0, .rw⟩,
   ⟨2, 1, F.PA_CTRL_RATE_MAX, 0, 1, 0, .rw⟩,
   ⟨0, 0, F.PA_CTRL_ENABLE, 0, 1, 0, .rw⟩]⟩
def D.PA_STATUS : RegDef := ⟨.PA_STATUS, 0x80004, [(2, 0x10000)], .status,
  [⟨31, 16, F.PA_STATUS_GROUPS, 0, 1, 0, .ro⟩,
   ⟨5, 4, F.PA_STATUS_RATE, 0, 1, 0, .ro⟩,
   ⟨2, 0, F.PA_STATUS_LINK, 0, 1, 0, .ro⟩]⟩
def D.PA_SIDEBAND : RegDef := ⟨.PA_SIDEBAND, 0x80008, [(2, 0x10000)], .status,
  [⟨3, 3, F.PA_SIDEBAND_PARTNER_IDLE, 0, 1, 0, .ro⟩,
   ⟨2, 1, F.PA_SIDEBAND_URG, 0, 1, 0, .ro⟩,
   ⟨0, 0, F.PA_SIDEBAND_HOSTPRES, 0, 1, 0, .ro⟩]⟩
def D.PA_EYE_CFG : RegDef := ⟨.PA_EYE_CFG, 0x8000c, [(2, 0x10000)], .setup,
  [⟨13, 8, F.PA_EYE_CFG_V_MIN, 0, 1, 0, .rw⟩,
   ⟨5, 0, F.PA_EYE_CFG_H_MIN, 0, 1, 0, .rw⟩]⟩
def D.PA_EYE_MIN : RegDef := ⟨.PA_EYE_MIN, 0x80010, [(2, 0x10000)], .status,
  [⟨26, 20, F.PA_EYE_MIN_LANE, 0, 1, 0, .ro⟩,
   ⟨19, 16, F.PA_EYE_MIN_GROUP, 0, 1, 0, .ro⟩,
   ⟨13, 8, F.PA_EYE_MIN_V, 0, 1, 0, .ro⟩,
   ⟨5, 0, F.PA_EYE_MIN_H, 0, 1, 0, .ro⟩]⟩
def D.PA_COUNT : RegDef := ⟨.PA_COUNT, 0x80014, [(2, 0x10000)], .status,
  [⟨31, 16, F.PA_COUNT_RECOVERIES, 0, 1, 0, .ro⟩,
   ⟨15, 0, F.PA_COUNT_REPLAYS, 0, 1, 0, .ro⟩]⟩
def D.PA_ERR : RegDef := ⟨.PA_ERR, 0x80018, [(2, 0x10000)], .status,
  [⟨5, 5, F.PA_ERR_TRAIN_FAIL, 0, 1, 0, .w1c⟩,
   ⟨4, 4, F.PA_ERR_LINKCTL_BAD, 0, 1, 0, .w1c⟩,
   ⟨3, 3, F.PA_ERR_CREDIT_OVERRUN, 0, 1, 0, .w1c⟩,
   ⟨2, 2, F.PA_ERR_ORPHAN, 0, 1, 0, .w1c⟩,
   ⟨1, 1, F.PA_ERR_HOLD_MISS, 0, 1, 0, .w1c⟩,
   ⟨0, 0, F.PA_ERR_CRC, 0, 1, 0, .w1c⟩]⟩
def D.PA_LOSS : RegDef := ⟨.PA_LOSS, 0x8001c, [(2, 0x10000)], .status,
  [⟨31, 16, F.PA_LOSS_COUNT, 0, 1, 0, .ro⟩,
   ⟨1, 0, F.PA_LOSS_CAUSE, 0, 1, 0, .ro⟩]⟩
def D.PA_LANE : RegDef := ⟨.PA_LANE, 0x80040, [(2, 0x10000), (16, 0x4)], .status,
  [⟨31, 31, F.PA_LANE_DISABLED, 0, 1, 0, .ro⟩,
   ⟨28, 28, F.PA_LANE_TX_CUSED, 0, 1, 0, .ro⟩,
   ⟨27, 24, F.PA_LANE_TX_CLANE, 0, 1, 0, .ro⟩,
   ⟨22, 22, F.PA_LANE_TX_DUSED, 0, 1, 0, .ro⟩,
   ⟨21, 16, F.PA_LANE_TX_DLANE, 0, 1, 0, .ro⟩,
   ⟨12, 12, F.PA_LANE_RX_CUSED, 0, 1, 0, .ro⟩,
   ⟨11, 8, F.PA_LANE_RX_CLANE, 0, 1, 0, .ro⟩,
   ⟨6, 6, F.PA_LANE_RX_DUSED, 0, 1, 0, .ro⟩,
   ⟨5, 0, F.PA_LANE_RX_DLANE, 0, 1, 0, .ro⟩]⟩
def D.PA_WBASE : RegDef := ⟨.PA_WBASE, 0x80100, [(2, 0x10000), (16, 0x10)], .setup,
  [⟨20, 0, F.PA_WBASE_BASE, 0, 1, 0, .rw⟩]⟩
def D.PA_WLIMIT : RegDef := ⟨.PA_WLIMIT, 0x80104, [(2, 0x10000), (16, 0x10)], .setup,
  [⟨20, 0, F.PA_WLIMIT_LIMIT, 0, 1, 0, .rw⟩]⟩
def D.PA_WCTRL : RegDef := ⟨.PA_WCTRL, 0x80108, [(2, 0x10000), (16, 0x10)], .setup,
  [⟨2, 2, F.PA_WCTRL_WR, 0, 1, 0, .rw⟩,
   ⟨1, 1, F.PA_WCTRL_RD, 0, 1, 0, .rw⟩,
   ⟨0, 0, F.PA_WCTRL_EN, 0, 1, 0, .rw⟩]⟩
def D.PA_REQERR : RegDef := ⟨.PA_REQERR, 0x80020, [(2, 0x10000)], .status,
  [⟨6, 6, F.PA_REQERR_DB_ADDR, 0, 1, 0, .w1c⟩,
   ⟨5, 5, F.PA_REQERR_CFG_BLOCK, 0, 1, 0, .w1c⟩,
   ⟨4, 4, F.PA_REQERR_TAG_REUSE, 0, 1, 0, .w1c⟩,
   ⟨3, 3, F.PA_REQERR_MASK_FORM, 0, 1, 0, .w1c⟩,
   ⟨2, 2, F.PA_REQERR_RANGE, 0, 1, 0, .w1c⟩,
   ⟨1, 1, F.PA_REQERR_ALIGN, 0, 1, 0, .w1c⟩,
   ⟨0, 0, F.PA_REQERR_OPCODE, 0, 1, 0, .w1c⟩]⟩
def D.CH_CFG : RegDef := ⟨.CH_CFG, 0x100000, [(64, 0x1000)], .setup,
  [⟨7, 4, F.CH_CFG_ACT_THRESH, 0, 1, 0, .rw⟩,
   ⟨2, 0, F.CH_CFG_AGE, 0, 1, 0, .rw⟩]⟩
def D.CH_CTRL : RegDef := ⟨.CH_CTRL, 0x100004, [(64, 0x1000)], .owner,
  [⟨0, 0, F.CH_CTRL_RESET, 0, 1, 0, .wo⟩]⟩
def D.CH_STATUS : RegDef := ⟨.CH_STATUS, 0x100008, [(64, 0x1000)], .status,
  [⟨24, 16, F.CH_STATUS_QLEVEL, 0, 1, 0, .ro⟩,
   ⟨13, 8, F.CH_STATUS_DIRTY, 0, 1, 0, .ro⟩,
   ⟨5, 4, F.CH_STATUS_IRDROP, 0, 1, 0, .ro⟩,
   ⟨2, 2, F.CH_STATUS_HALF, 0, 1, 0, .ro⟩,
   ⟨1, 0, F.CH_STATUS_MODE, 0, 1, 0, .ro⟩]⟩
def D.CH_RESET_INFO : RegDef := ⟨.CH_RESET_INFO, 0x10000c, [(64, 0x1000)], .status,
  [⟨31, 16, F.CH_RESET_INFO_COUNT, 0, 1, 0, .ro⟩,
   ⟨3, 0, F.CH_RESET_INFO_CAUSE, 0, 1, 0, .ro⟩]⟩
def D.CH_ACT : RegDef := ⟨.CH_ACT, 0x100010, [(64, 0x1000)], .status,
  [⟨31, 16, F.CH_ACT_IMMEDIATE, 0, 1, 0, .ro⟩,
   ⟨15, 0, F.CH_ACT_ALERTS, 0, 1, 0, .ro⟩]⟩
def D.CH_SUSPECT : RegDef := ⟨.CH_SUSPECT, 0x100014, [(64, 0x1000)], .status,
  [⟨31, 16, F.CH_SUSPECT_TOTAL, 0, 1, 0, .ro⟩,
   ⟨5, 0, F.CH_SUSPECT_PENDING, 0, 1, 0, .ro⟩]⟩
def D.CH_WB : RegDef := ⟨.CH_WB, 0x100018, [(64, 0x1000)], .status,
  [⟨31, 0, F.CH_WB, 0, 1, 0, .ro⟩]⟩
def D.CH_WB_HI : RegDef := ⟨.CH_WB_HI, 0x10001c, [(64, 0x1000)], .status,
  [⟨31, 0, F.CH_WB, 32, 1, 0, .ro⟩]⟩
def D.CH_ACTS : RegDef := ⟨.CH_ACTS, 0x100020, [(64, 0x1000)], .status,
  [⟨31, 0, F.CH_ACTS, 0, 1, 0, .ro⟩]⟩
def D.CH_ACTS_HI : RegDef := ⟨.CH_ACTS_HI, 0x100024, [(64, 0x1000)], .status,
  [⟨31, 0, F.CH_ACTS, 32, 1, 0, .ro⟩]⟩
def D.CH_HELD : RegDef := ⟨.CH_HELD, 0x100028, [(64, 0x1000)], .status,
  [⟨31, 0, F.CH_HELD_HELD, 0, 1, 0, .ro⟩]⟩
def D.GL_CAPACITY : RegDef := ⟨.GL_CAPACITY, 0x208, [], .status,
  [⟨22, 16, F.GL_CAPACITY_DARK, 0, 1, 0, .ro⟩,
   ⟨14, 8, F.GL_CAPACITY_NARROW, 0, 1, 0, .ro⟩,
   ⟨6, 0, F.GL_CAPACITY_LIVE, 0, 1, 0, .ro⟩]⟩
def D.CMT_CFG : RegDef := ⟨.CMT_CFG, 0xd8000, [], .setup,
  [⟨2, 1, F.CMT_CFG_CONF, 0, 1, 0, .rw⟩,
   ⟨0, 0, F.CMT_CFG_EN, 0, 1, 0, .rw⟩]⟩
def D.CMT_STATUS : RegDef := ⟨.CMT_STATUS, 0xd8004, [], .status,
  [⟨16, 16, F.CMT_STATUS_THROTTLED, 0, 1, 0, .ro⟩,
   ⟨12, 0, F.CMT_STATUS_STREAMS, 0, 1, 0, .ro⟩]⟩
def D.CMT_RDS : RegDef := ⟨.CMT_RDS, 0xd8010, [], .status,
  [⟨31, 0, F.CMT_RDS_COUNT, 0, 1, 0, .ro⟩]⟩
def D.CMT_ACTS : RegDef := ⟨.CMT_ACTS, 0xd8014, [], .status,
  [⟨31, 0, F.CMT_ACTS_COUNT, 0, 1, 0, .ro⟩]⟩
def D.CMT_HITS : RegDef := ⟨.CMT_HITS, 0xd8018, [], .status,
  [⟨31, 0, F.CMT_HITS_COUNT, 0, 1, 0, .ro⟩]⟩
def D.CMT_STALE : RegDef := ⟨.CMT_STALE, 0xd801c, [], .status,
  [⟨31, 0, F.CMT_STALE_COUNT, 0, 1, 0, .ro⟩]⟩
def D.CMT_DISCARD : RegDef := ⟨.CMT_DISCARD, 0xd8020, [], .status,
  [⟨31, 0, F.CMT_DISCARD_COUNT, 0, 1, 0, .ro⟩]⟩
def D.CMT_UNUSED : RegDef := ⟨.CMT_UNUSED, 0xd8024, [], .status,
  [⟨31, 0, F.CMT_UNUSED_COUNT, 0, 1, 0, .ro⟩]⟩
def D.CMT_CANCEL : RegDef := ⟨.CMT_CANCEL, 0xd8028, [], .status,
  [⟨31, 0, F.CMT_CANCEL_COUNT, 0, 1, 0, .ro⟩]⟩
def D.REP_WTAG : RegDef := ⟨.REP_WTAG, 0x480000, [(64, 0x200), (64, 0x8)], .status,
  [⟨30, 26, F.REP_WTAG_WORD, 0, 1, 0, .ro⟩,
   ⟨25, 12, F.REP_WTAG_ROW, 0, 1, 0, .ro⟩,
   ⟨11, 8, F.REP_WTAG_BANK, 0, 1, 0, .ro⟩,
   ⟨7, 4, F.REP_WTAG_DIE, 0, 1, 0, .ro⟩,
   ⟨2, 2, F.REP_WTAG_PERSIST, 0, 1, 0, .ro⟩,
   ⟨1, 1, F.REP_WTAG_POISON, 0, 1, 0, .ro⟩,
   ⟨0, 0, F.REP_WTAG_V, 0, 1, 0, .ro⟩]⟩
def D.REP_WTAG_HI : RegDef := ⟨.REP_WTAG_HI, 0x480004, [(64, 0x200), (64, 0x8)], .status,
  [⟨31, 0, F.REP_WTAG_HI_ORBIT, 0, 1, 0, .ro⟩]⟩
def D.REP_CODE_CFG : RegDef := ⟨.REP_CODE_CFG, 0x488000, [], .setup,
  [⟨7, 0, F.REP_CODE_CFG_REPEAT, 0, 1, 0, .rw⟩]⟩
def D.REP_SCRUB_CFG : RegDef := ⟨.REP_SCRUB_CFG, 0x488004, [], .setup,
  [⟨7, 0, F.REP_SCRUB_CFG_PERIOD_H, 0, 1, 0, .rw⟩]⟩
def D.REP_SCRUB_INTERVAL : RegDef := ⟨.REP_SCRUB_INTERVAL, 0x488008, [], .status,
  [⟨16, 0, F.REP_SCRUB_INTERVAL_I, 0, 1, 0, .ro⟩]⟩
def D.REP_SCRUB_POS : RegDef := ⟨.REP_SCRUB_POS, 0x48800c, [], .status,
  [⟨21, 0, F.REP_SCRUB_POS_STEP, 0, 1, 0, .ro⟩]⟩
def D.REP_SCRUB_PASSES : RegDef := ⟨.REP_SCRUB_PASSES, 0x488010, [], .status,
  [⟨31, 0, F.REP_SCRUB_PASSES_COUNT, 0, 1, 0, .ro⟩]⟩
def D.CH_CODE : RegDef := ⟨.CH_CODE, 0x100100, [(64, 0x1000)], .status,
  [⟨31, 16, F.CH_CODE_REBUILT, 0, 1, 0, .ro⟩,
   ⟨15, 0, F.CH_CODE_CORRECTED, 0, 1, 0, .ro⟩]⟩
def D.CH_UNCORR : RegDef := ⟨.CH_UNCORR, 0x100104, [(64, 0x1000)], .status,
  [⟨31, 16, F.CH_UNCORR_MARKED, 0, 1, 0, .ro⟩,
   ⟨15, 0, F.CH_UNCORR_UNCORR, 0, 1, 0, .ro⟩]⟩
def D.CH_REPEAT : RegDef := ⟨.CH_REPEAT, 0x100108, [(64, 0x1000)], .status,
  [⟨31, 16, F.CH_REPEAT_HARD, 0, 1, 0, .ro⟩,
   ⟨15, 0, F.CH_REPEAT_RCW, 0, 1, 0, .ro⟩]⟩
def D.CH_REMAP : RegDef := ⟨.CH_REMAP, 0x10010c, [(64, 0x1000)], .status,
  [⟨20, 16, F.CH_REMAP_UNREP, 0, 1, 0, .ro⟩,
   ⟨15, 7, F.CH_REMAP_INSTALLS, 0, 1, 0, .ro⟩,
   ⟨6, 0, F.CH_REMAP_USED, 0, 1, 0, .ro⟩]⟩
def D.CH_SCRUB : RegDef := ⟨.CH_SCRUB, 0x100110, [(64, 0x1000)], .status,
  [⟨31, 16, F.CH_SCRUB_SKIP, 0, 1, 0, .ro⟩,
   ⟨15, 0, F.CH_SCRUB_CORRECTED, 0, 1, 0, .ro⟩]⟩
def D.SES_ACT0 : RegDef := ⟨.SES_ACT0, 0x800000, [(262144, 0x20)], .status,
  [⟨30, 28, F.SES_ACT0_BASE, 0, 1, 0, .ro⟩,
   ⟨27, 16, F.SES_ACT0_LIMIT, 0, 1, 0, .ro⟩,
   ⟨15, 0, F.SES_ACT0_TARGET, 0, 1, 0, .ro⟩]⟩
def D.SES_ACT1 : RegDef := ⟨.SES_ACT1, 0x800004, [(262144, 0x20)], .status,
  [⟨17, 14, F.SES_ACT1_COMET, 0, 1, 0, .ro⟩,
   ⟨13, 12, F.SES_ACT1_BIND, 0, 1, 0, .ro⟩,
   ⟨11, 8, F.SES_ACT1_RANK, 0, 1, 0, .ro⟩,
   ⟨7, 0, F.SES_ACT1_RESERVE, 0, 1, 0, .ro⟩]⟩
def D.SES_STG0 : RegDef := ⟨.SES_STG0, 0x800008, [(262144, 0x20)], .setupLocal,
  [⟨30, 28, F.SES_STG0_BASE, 0, 1, 0, .rw⟩,
   ⟨27, 16, F.SES_STG0_LIMIT, 0, 1, 0, .rw⟩,
   ⟨15, 0, F.SES_STG0_TARGET, 0, 1, 0, .rw⟩]⟩
def D.SES_STG1 : RegDef := ⟨.SES_STG1, 0x80000c, [(262144, 0x20)], .setupLocal,
  [⟨17, 14, F.SES_STG1_COMET, 0, 1, 0, .rw⟩,
   ⟨13, 12, F.SES_STG1_BIND, 0, 1, 0, .rw⟩,
   ⟨11, 8, F.SES_STG1_RANK, 0, 1, 0, .rw⟩,
   ⟨7, 0, F.SES_STG1_RESERVE, 0, 1, 0, .rw⟩]⟩
def D.SES_STAT : RegDef := ⟨.SES_STAT, 0x800010, [(262144, 0x20)], .status,
  [⟨30, 30, F.SES_STAT_MEAS_VALID, 0, 1, 0, .ro⟩,
   ⟨29, 29, F.SES_STAT_EXEMPT, 0, 1, 0, .ro⟩,
   ⟨28, 28, F.SES_STAT_SUSP, 0, 1, 0, .ro⟩,
   ⟨27, 16, F.SES_STAT_OUTST, 0, 1, 0, .ro⟩,
   ⟨15, 0, F.SES_STAT_MEAS, 0, 1, 0, .ro⟩]⟩
def D.SES_REQS : RegDef := ⟨.SES_REQS, 0x800014, [(262144, 0x20)], .status,
  [⟨31, 0, F.SES_REQS_COUNT, 0, 1, 0, .ro⟩]⟩
def D.SES_MISSES : RegDef := ⟨.SES_MISSES, 0x800018, [(262144, 0x20)], .status,
  [⟨31, 0, F.SES_MISSES_COUNT, 0, 1, 0, .ro⟩]⟩
def D.SES_EVENTS : RegDef := ⟨.SES_EVENTS, 0x80001c, [(262144, 0x20)], .status,
  [⟨31, 16, F.SES_EVENTS_SUSPENDS, 0, 1, 0, .ro⟩,
   ⟨15, 0, F.SES_EVENTS_REFUSED, 0, 1, 0, .ro⟩]⟩
def D.QOS_CFG : RegDef := ⟨.QOS_CFG, 0xd0000, [], .setup,
  [⟨0, 0, F.QOS_CFG_MODE, 0, 1, 0, .rw⟩]⟩
def D.QOS_FB : RegDef := ⟨.QOS_FB, 0xd0004, [], .setup,
  [⟨19, 16, F.QOS_FB_HOLD_MAX, 0, 1, 0, .rw⟩,
   ⟨7, 0, F.QOS_FB_HIGH_WATER, 0, 1, 0, .rw⟩]⟩
def D.QOS_ICLASS : RegDef := ⟨.QOS_ICLASS, 0xd0008, [], .setup,
  [⟨18, 16, F.QOS_ICLASS_PL1, 0, 1, 0, .rw⟩,
   ⟨14, 12, F.QOS_ICLASS_PL0, 0, 1, 0, .rw⟩,
   ⟨10, 8, F.QOS_ICLASS_SVC, 0, 1, 0, .rw⟩,
   ⟨6, 4, F.QOS_ICLASS_B, 0, 1, 0, .rw⟩,
   ⟨2, 0, F.QOS_ICLASS_A, 0, 1, 0, .rw⟩]⟩
def D.QOS_IRANK : RegDef := ⟨.QOS_IRANK, 0xd000c, [], .setup,
  [⟨11, 8, F.QOS_IRANK_SVC, 0, 1, 0, .rw⟩,
   ⟨7, 4, F.QOS_IRANK_B, 0, 1, 0, .rw⟩,
   ⟨3, 0, F.QOS_IRANK_A, 0, 1, 0, .rw⟩]⟩
def D.QOS_SVC_LABEL : RegDef := ⟨.QOS_SVC_LABEL, 0xd0010, [], .setup,
  [⟨17, 0, F.QOS_SVC_LABEL_LABEL, 0, 1, 0, .rw⟩]⟩
def D.QOS_CAP : RegDef := ⟨.QOS_CAP, 0xd0020, [], .status,
  [⟨7, 0, F.QOS_CAP_CAP, 0, 1, 0, .ro⟩]⟩
def D.QOS_RES_ACTIVE : RegDef := ⟨.QOS_RES_ACTIVE, 0xd0024, [], .status,
  [⟨23, 16, F.QOS_RES_ACTIVE_INFORCE, 0, 1, 0, .ro⟩,
   ⟨7, 0, F.QOS_RES_ACTIVE_SUM, 0, 1, 0, .ro⟩]⟩
def D.QOS_RES_STAGED : RegDef := ⟨.QOS_RES_STAGED, 0xd0028, [], .status,
  [⟨25, 0, F.QOS_RES_STAGED_SUM, 0, 1, 0, .ro⟩]⟩
def D.QOS_CUT : RegDef := ⟨.QOS_CUT, 0xd002c, [], .status,
  [⟨31, 31, F.QOS_CUT_VALID, 0, 1, 0, .ro⟩,
   ⟨27, 24, F.QOS_CUT_RANK, 0, 1, 0, .ro⟩,
   ⟨17, 0, F.QOS_CUT_LABEL, 0, 1, 0, .ro⟩]⟩
def D.QOS_SUSP : RegDef := ⟨.QOS_SUSP, 0xd0030, [], .status,
  [⟨31, 0, F.QOS_SUSP_COUNT, 0, 1, 0, .ro⟩]⟩
def D.QOS_RESUME : RegDef := ⟨.QOS_RESUME, 0xd0034, [], .status,
  [⟨31, 0, F.QOS_RESUME_COUNT, 0, 1, 0, .ro⟩]⟩
def D.QOS_MISS_EXEMPT : RegDef := ⟨.QOS_MISS_EXEMPT, 0xd0038, [], .status,
  [⟨31, 0, F.QOS_MISS_EXEMPT_COUNT, 0, 1, 0, .ro⟩]⟩
def D.QOS_REFUSED : RegDef := ⟨.QOS_REFUSED, 0xd003c, [], .status,
  [⟨31, 0, F.QOS_REFUSED_COUNT, 0, 1, 0, .ro⟩]⟩
def D.QOS_HELD : RegDef := ⟨.QOS_HELD, 0xd0040, [], .status,
  [⟨31, 0, F.QOS_HELD_COUNT, 0, 1, 0, .ro⟩]⟩
def D.QOS_OVERSUB_COMMITS : RegDef := ⟨.QOS_OVERSUB_COMMITS, 0xd0044, [], .status,
  [⟨31, 0, F.QOS_OVERSUB_COMMITS_COUNT, 0, 1, 0, .ro⟩]⟩
def D.RING_BASE : RegDef := ⟨.RING_BASE, 0xe0000, [(160, 0x20)], .own,
  [⟨31, 12, F.RING_BASE_BASE, 0, 1, 0, .rw⟩]⟩
def D.RING_BASE_HI : RegDef := ⟨.RING_BASE_HI, 0xe0004, [(160, 0x20)], .own,
  [⟨31, 0, F.RING_BASE_HI_BASE_HI, 0, 1, 0, .rw⟩]⟩
def D.RING_CFG : RegDef := ⟨.RING_CFG, 0xe0008, [(160, 0x20)], .own,
  [⟨21, 16, F.RING_CFG_VECTOR, 0, 1, 0, .rw⟩,
   ⟨12, 12, F.RING_CFG_SERIAL, 0, 1, 0, .rw⟩,
   ⟨10, 8, F.RING_CFG_DEPTH, 0, 1, 0, .rw⟩,
   ⟨4, 0, F.RING_CFG_SIZE, 0, 1, 0, .rw⟩]⟩
def D.RING_CTRL : RegDef := ⟨.RING_CTRL, 0xe000c, [(160, 0x20)], .own,
  [⟨0, 0, F.RING_CTRL_RESUME, 0, 1, 0, .wo⟩]⟩
def D.RING_PROD : RegDef := ⟨.RING_PROD, 0xe0010, [(160, 0x20)], .status,
  [⟨16, 0, F.RING_PROD_PROD, 0, 1, 0, .ro⟩]⟩
def D.RING_NEXT : RegDef := ⟨.RING_NEXT, 0xe0014, [(160, 0x20)], .status,
  [⟨16, 0, F.RING_NEXT_NEXT, 0, 1, 0, .ro⟩]⟩
def D.RING_CONS : RegDef := ⟨.RING_CONS, 0xe0018, [(160, 0x20)], .status,
  [⟨16, 0, F.RING_CONS_CONS, 0, 1, 0, .ro⟩]⟩
def D.RING_STATUS : RegDef := ⟨.RING_STATUS, 0xe001c, [(160, 0x20)], .status,
  [⟨19, 19, F.RING_STATUS_RECORD_FAIL, 0, 1, 0, .ro⟩,
   ⟨18, 18, F.RING_STATUS_FETCH_FAIL, 0, 1, 0, .ro⟩,
   ⟨17, 17, F.RING_STATUS_CFG_ERR, 0, 1, 0, .w1c⟩,
   ⟨16, 16, F.RING_STATUS_DB_ERR, 0, 1, 0, .w1c⟩,
   ⟨15, 8, F.RING_STATUS_CAUSE, 0, 1, 0, .ro⟩,
   ⟨7, 4, F.RING_STATUS_INFLIGHT, 0, 1, 0, .ro⟩,
   ⟨2, 0, F.RING_STATUS_STATE, 0, 1, 0, .ro⟩]⟩
def D.MOV_BUSY : RegDef := ⟨.MOV_BUSY, 0xe8000, [], .status,
  [⟨5, 0, F.MOV_BUSY_ENGINES, 0, 1, 0, .ro⟩]⟩
def D.MOV_DESC : RegDef := ⟨.MOV_DESC, 0xe8004, [], .status,
  [⟨31, 0, F.MOV_DESC, 0, 1, 0, .ro⟩]⟩
def D.MOV_DESC_HI : RegDef := ⟨.MOV_DESC_HI, 0xe8008, [], .status,
  [⟨31, 0, F.MOV_DESC, 32, 1, 0, .ro⟩]⟩
def D.MOV_BYTES : RegDef := ⟨.MOV_BYTES, 0xe800c, [], .status,
  [⟨31, 0, F.MOV_BYTES, 0, 1, 0, .ro⟩]⟩
def D.MOV_BYTES_HI : RegDef := ⟨.MOV_BYTES_HI, 0xe8010, [], .status,
  [⟨31, 0, F.MOV_BYTES, 32, 1, 0, .ro⟩]⟩
def D.MOV_HALTS : RegDef := ⟨.MOV_HALTS, 0xe8014, [], .status,
  [⟨31, 0, F.MOV_HALTS_COUNT, 0, 1, 0, .ro⟩]⟩
def D.SEM_CLAIM : RegDef := ⟨.SEM_CLAIM, 0x100, [], .claim,
  [⟨2, 1, F.SEM_CLAIM_OWNER, 0, 1, 0, .ro⟩,
   ⟨0, 0, F.SEM_CLAIM_GRANTED, 0, 1, 0, .ro⟩]⟩
def D.SEM_OWNER : RegDef := ⟨.SEM_OWNER, 0x104, [], .status,
  [⟨31, 16, F.SEM_OWNER_REMAIN, 0, 1, 0, .ro⟩,
   ⟨4, 4, F.SEM_OWNER_SVC_ELIG, 0, 1, 0, .ro⟩,
   ⟨3, 3, F.SEM_OWNER_ALT, 0, 1, 0, .ro⟩,
   ⟨1, 0, F.SEM_OWNER_OWNER, 0, 1, 0, .ro⟩]⟩
def D.SEM_LEASE : RegDef := ⟨.SEM_LEASE, 0x108, [], .owner,
  [⟨1, 1, F.SEM_LEASE_RELEASE, 0, 1, 0, .wo⟩,
   ⟨0, 0, F.SEM_LEASE_RENEW, 0, 1, 0, .wo⟩]⟩
def D.SEM_SVC_ALLOW : RegDef := ⟨.SEM_SVC_ALLOW, 0x10c, [], .owner,
  [⟨0, 0, F.SEM_SVC_ALLOW_ALLOW, 0, 1, 0, .rw⟩]⟩
def D.SEM_CFG : RegDef := ⟨.SEM_CFG, 0x110, [], .owner,
  [⟨3, 0, F.SEM_CFG_LEASE, 0, 1, 0, .rw⟩]⟩
def D.SEM_COUNT : RegDef := ⟨.SEM_COUNT, 0x114, [], .status,
  [⟨31, 16, F.SEM_COUNT_GRANTS, 0, 1, 0, .ro⟩,
   ⟨15, 0, F.SEM_COUNT_EXPIRIES, 0, 1, 0, .ro⟩]⟩
def D.CFG_CTRL : RegDef := ⟨.CFG_CTRL, 0x200, [], .owner,
  [⟨0, 0, F.CFG_CTRL_DISCARD, 0, 1, 0, .wo⟩]⟩
def D.CFG_GROUP : RegDef := ⟨.CFG_GROUP, 0x20c, [], .setup,
  [⟨15, 0, F.CFG_GROUP_GROUP, 0, 1, 0, .rw⟩]⟩
def D.CFG_COMMIT : RegDef := ⟨.CFG_COMMIT, 0x210, [], .owner,
  [⟨31, 0, F.CFG_COMMIT_ORBIT, 0, 1, 0, .rw⟩]⟩
def D.CFG_COMMIT_HI : RegDef := ⟨.CFG_COMMIT_HI, 0x214, [], .owner,
  [⟨31, 31, F.CFG_COMMIT_HI_ARM, 0, 1, 0, .wo⟩,
   ⟨15, 0, F.CFG_COMMIT_ORBIT, 32, 1, 0, .rw⟩]⟩
def D.CFG_COMMIT_STATUS : RegDef := ⟨.CFG_COMMIT_STATUS, 0x218, [], .status,
  [⟨31, 31, F.CFG_COMMIT_STATUS_ARMED, 0, 1, 0, .ro⟩,
   ⟨23, 16, F.CFG_COMMIT_STATUS_RESULT, 0, 1, 0, .ro⟩,
   ⟨9, 8, F.CFG_COMMIT_STATUS_BY, 0, 1, 0, .ro⟩,
   ⟨1, 1, F.CFG_COMMIT_STATUS_PATH, 0, 1, 0, .ro⟩,
   ⟨0, 0, F.CFG_COMMIT_STATUS_BUSY_ERR, 0, 1, 0, .w1c⟩]⟩
def D.CFG_STATUS : RegDef := ⟨.CFG_STATUS, 0x21c, [], .status,
  [⟨3, 3, F.CFG_STATUS_MISMATCH1, 0, 1, 0, .ro⟩,
   ⟨2, 2, F.CFG_STATUS_MISMATCH0, 0, 1, 0, .ro⟩,
   ⟨1, 1, F.CFG_STATUS_DIGEST_BUSY, 0, 1, 0, .ro⟩,
   ⟨0, 0, F.CFG_STATUS_STAGED, 0, 1, 0, .ro⟩]⟩
def D.CFG_DIGEST : RegDef := ⟨.CFG_DIGEST, 0x220, [], .status,
  [⟨31, 0, F.CFG_DIGEST, 0, 1, 0, .ro⟩]⟩
def D.CFG_DIGEST_HI : RegDef := ⟨.CFG_DIGEST_HI, 0x224, [], .status,
  [⟨31, 0, F.CFG_DIGEST, 32, 1, 0, .ro⟩]⟩
def D.CFG_DIGEST_AT : RegDef := ⟨.CFG_DIGEST_AT, 0x228, [], .status,
  [⟨31, 0, F.CFG_DIGEST_AT, 0, 1, 0, .ro⟩]⟩
def D.CFG_DIGEST_AT_HI : RegDef := ⟨.CFG_DIGEST_AT_HI, 0x22c, [], .status,
  [⟨15, 0, F.CFG_DIGEST_AT, 32, 1, 0, .ro⟩]⟩
def D.CFG_PEER_DIGEST : RegDef := ⟨.CFG_PEER_DIGEST, 0x230, [(2, 0x8)], .status,
  [⟨31, 0, F.CFG_PEER_DIGEST, 0, 1, 0, .ro⟩]⟩
def D.CFG_PEER_DIGEST_HI : RegDef := ⟨.CFG_PEER_DIGEST_HI, 0x234, [(2, 0x8)], .status,
  [⟨31, 0, F.CFG_PEER_DIGEST, 32, 1, 0, .ro⟩]⟩
def D.PL_PHY_CTRL : RegDef := ⟨.PL_PHY_CTRL, 0xb0000, [(2, 0x10000)], .setup,
  [⟨1, 1, F.PL_PHY_CTRL_X4_EN, 0, 1, 0, .rw⟩,
   ⟨0, 0, F.PL_PHY_CTRL_ENABLE, 0, 1, 0, .rw⟩]⟩
def D.PL_PHY_CFG : RegDef := ⟨.PL_PHY_CFG, 0xb0004, [(2, 0x10000)], .setupLocal,
  [⟨27, 24, F.PL_PHY_CFG_SLEEP_AFTER, 0, 1, 0, .rw⟩,
   ⟨21, 16, F.PL_PHY_CFG_PEAK, 0, 1, 0, .rw⟩,
   ⟨12, 12, F.PL_PHY_CFG_PEAK_FIX, 0, 1, 0, .rw⟩,
   ⟨11, 9, F.PL_PHY_CFG_PRESET, 0, 1, 0, .rw⟩,
   ⟨8, 8, F.PL_PHY_CFG_FIR_FIX, 0, 1, 0, .rw⟩,
   ⟨5, 4, F.PL_PHY_CFG_MASK, 0, 1, 0, .rw⟩,
   ⟨0, 0, F.PL_PHY_CFG_ROLE, 0, 1, 0, .rw⟩]⟩
def D.PL_PHY_LOOP : RegDef := ⟨.PL_PHY_LOOP, 0xb0008, [(2, 0x10000)], .owner,
  [⟨2, 0, F.PL_PHY_LOOP_MODE, 0, 1, 0, .rw⟩]⟩
def D.PL_PHY_STATUS : RegDef := ⟨.PL_PHY_STATUS, 0xb000c, [(2, 0x10000)], .status,
  [⟨17, 17, F.PL_PHY_STATUS_LOOP_REFUSED, 0, 1, 0, .w1c⟩,
   ⟨16, 16, F.PL_PHY_STATUS_ROLE_CLASH, 0, 1, 0, .w1c⟩,
   ⟨13, 13, F.PL_PHY_STATUS_RX_BURST, 0, 1, 0, .ro⟩,
   ⟨12, 12, F.PL_PHY_STATUS_TX_AWAKE, 0, 1, 0, .ro⟩,
   ⟨10, 8, F.PL_PHY_STATUS_STEP, 0, 1, 0, .ro⟩,
   ⟨5, 5, F.PL_PHY_STATUS_HALF, 0, 1, 0, .ro⟩,
   ⟨4, 4, F.PL_PHY_STATUS_WIDTH, 0, 1, 0, .ro⟩,
   ⟨2, 0, F.PL_PHY_STATUS_STATE, 0, 1, 0, .ro⟩]⟩
def D.PL_LANE : RegDef := ⟨.PL_LANE, 0xb0020, [(2, 0x10000), (8, 0x8)], .status,
  [⟨31, 31, F.PL_LANE_FAILED, 0, 1, 0, .ro⟩,
   ⟨29, 29, F.PL_LANE_LOL, 0, 1, 0, .w1c⟩,
   ⟨28, 28, F.PL_LANE_LOS, 0, 1, 0, .w1c⟩,
   ⟨25, 16, F.PL_LANE_AFC, 0, 1, 0, .ro⟩,
   ⟨5, 0, F.PL_LANE_PEAK, 0, 1, 0, .ro⟩]⟩
def D.PL_FIR : RegDef := ⟨.PL_FIR, 0xb0024, [(2, 0x10000), (8, 0x8)], .status,
  [⟨29, 24, F.PL_FIR_POST2, 0, 1, 0, .ro⟩,
   ⟨23, 18, F.PL_FIR_POST1, 0, 1, 0, .ro⟩,
   ⟨17, 12, F.PL_FIR_MAIN, 0, 1, 0, .ro⟩,
   ⟨11, 6, F.PL_FIR_PRE1, 0, 1, 0, .ro⟩,
   ⟨5, 0, F.PL_FIR_PRE2, 0, 1, 0, .ro⟩]⟩
def D.PL_FEC_CORR : RegDef := ⟨.PL_FEC_CORR, 0xb0060, [(2, 0x10000)], .status,
  [⟨31, 0, F.PL_FEC_CORR, 0, 1, 0, .ro⟩]⟩
def D.PL_FEC_CORR_HI : RegDef := ⟨.PL_FEC_CORR_HI, 0xb0064, [(2, 0x10000)], .status,
  [⟨31, 0, F.PL_FEC_CORR, 32, 1, 0, .ro⟩]⟩
def D.PL_FEC_FAIL : RegDef := ⟨.PL_FEC_FAIL, 0xb0068, [(2, 0x10000)], .status,
  [⟨31, 0, F.PL_FEC_FAIL_COUNT, 0, 1, 0, .ro⟩]⟩
def D.PL_ABORTS : RegDef := ⟨.PL_ABORTS, 0xb006c, [(2, 0x10000)], .status,
  [⟨31, 0, F.PL_ABORTS_COUNT, 0, 1, 0, .ro⟩]⟩
def D.PL_LOOP_ERR : RegDef := ⟨.PL_LOOP_ERR, 0xb0070, [(2, 0x10000)], .status,
  [⟨31, 0, F.PL_LOOP_ERR_COUNT, 0, 1, 0, .ro⟩]⟩
def D.PL_TRAIN : RegDef := ⟨.PL_TRAIN, 0xb0074, [(2, 0x10000)], .status,
  [⟨31, 16, F.PL_TRAIN_COUNT, 0, 1, 0, .ro⟩,
   ⟨3, 0, F.PL_TRAIN_LAST_CAUSE, 0, 1, 0, .ro⟩]⟩
def D.PL_FAB_STATUS : RegDef := ⟨.PL_FAB_STATUS, 0xb0100, [(2, 0x10000)], .status,
  [⟨24, 16, F.PL_FAB_STATUS_OUTST, 0, 1, 0, .ro⟩,
   ⟨1, 1, F.PL_FAB_STATUS_PEER_BORROWS, 0, 1, 0, .ro⟩,
   ⟨0, 0, F.PL_FAB_STATUS_PEER_VALID, 0, 1, 0, .ro⟩]⟩
def D.PL_PEER_ID : RegDef := ⟨.PL_PEER_ID, 0xb0104, [(2, 0x10000)], .status,
  [⟨31, 0, F.PL_PEER_ID, 0, 1, 0, .ro⟩]⟩
def D.PL_PEER_ID_HI : RegDef := ⟨.PL_PEER_ID_HI, 0xb0108, [(2, 0x10000)], .status,
  [⟨31, 0, F.PL_PEER_ID, 32, 1, 0, .ro⟩]⟩
def D.PL_DATA_ERR : RegDef := ⟨.PL_DATA_ERR, 0xb010c, [(2, 0x10000)], .status,
  [⟨31, 0, F.PL_DATA_ERR_COUNT, 0, 1, 0, .ro⟩]⟩
def D.PL_CREPLAY : RegDef := ⟨.PL_CREPLAY, 0xb0110, [(2, 0x10000)], .status,
  [⟨31, 16, F.PL_CREPLAY_REPLAYS, 0, 1, 0, .ro⟩,
   ⟨15, 0, F.PL_CREPLAY_BAD, 0, 1, 0, .ro⟩]⟩
def D.PL_AP_LBASE : RegDef := ⟨.PL_AP_LBASE, 0xb0140, [(2, 0x10000), (4, 0x10)], .setupLocal,
  [⟨20, 0, F.PL_AP_LBASE_BASE, 0, 1, 0, .rw⟩]⟩
def D.PL_AP_LLIMIT : RegDef := ⟨.PL_AP_LLIMIT, 0xb0144, [(2, 0x10000), (4, 0x10)], .setupLocal,
  [⟨20, 0, F.PL_AP_LLIMIT_LIMIT, 0, 1, 0, .rw⟩]⟩
def D.PL_AP_RBASE : RegDef := ⟨.PL_AP_RBASE, 0xb0148, [(2, 0x10000), (4, 0x10)], .setupLocal,
  [⟨20, 0, F.PL_AP_RBASE_RBASE, 0, 1, 0, .rw⟩]⟩
def D.PL_AP_CTRL : RegDef := ⟨.PL_AP_CTRL, 0xb014c, [(2, 0x10000), (4, 0x10)], .setupLocal,
  [⟨0, 0, F.PL_AP_CTRL_EN, 0, 1, 0, .rw⟩]⟩
def D.PL_RW_BASE : RegDef := ⟨.PL_RW_BASE, 0xb0180, [(2, 0x10000), (4, 0x10)], .setupLocal,
  [⟨20, 0, F.PL_RW_BASE_BASE, 0, 1, 0, .rw⟩]⟩
def D.PL_RW_LIMIT : RegDef := ⟨.PL_RW_LIMIT, 0xb0184, [(2, 0x10000), (4, 0x10)], .setupLocal,
  [⟨20, 0, F.PL_RW_LIMIT_LIMIT, 0, 1, 0, .rw⟩]⟩
def D.PL_RW_CTRL : RegDef := ⟨.PL_RW_CTRL, 0xb0188, [(2, 0x10000), (4, 0x10)], .setupLocal,
  [⟨2, 2, F.PL_RW_CTRL_WR, 0, 1, 0, .rw⟩,
   ⟨1, 1, F.PL_RW_CTRL_RD, 0, 1, 0, .rw⟩,
   ⟨0, 0, F.PL_RW_CTRL_EN, 0, 1, 0, .rw⟩]⟩
def D.MIR_LBASE : RegDef := ⟨.MIR_LBASE, 0xb8000, [(16, 0x20)], .setupLocal,
  [⟨20, 0, F.MIR_LBASE_BASE, 0, 1, 0, .rw⟩]⟩
def D.MIR_SIZE : RegDef := ⟨.MIR_SIZE, 0xb8004, [(16, 0x20)], .setupLocal,
  [⟨17, 0, F.MIR_SIZE_LAST, 0, 1, 0, .rw⟩]⟩
def D.MIR_RBASE : RegDef := ⟨.MIR_RBASE, 0xb8008, [(16, 0x20)], .setupLocal,
  [⟨20, 0, F.MIR_RBASE_RBASE, 0, 1, 0, .rw⟩]⟩
def D.MIR_CTRL : RegDef := ⟨.MIR_CTRL, 0xb800c, [(16, 0x20)], .setupLocal,
  [⟨23, 8, F.MIR_CTRL_LAG, 0, 1, 0, .rw⟩,
   ⟨2, 2, F.MIR_CTRL_LINK, 0, 1, 0, .rw⟩,
   ⟨1, 0, F.MIR_CTRL_ROLE, 0, 1, 0, .rw⟩]⟩
def D.MIR_STATUS : RegDef := ⟨.MIR_STATUS, 0xb8010, [(16, 0x20)], .status,
  [⟨26, 24, F.MIR_STATUS_STATE, 0, 1, 0, .ro⟩,
   ⟨18, 18, F.MIR_STATUS_VALID_COPY, 0, 1, 0, .ro⟩,
   ⟨17, 0, F.MIR_STATUS_DIRTY, 0, 1, 0, .ro⟩]⟩
def D.MIR_COUNT : RegDef := ⟨.MIR_COUNT, 0xb8014, [(16, 0x20)], .status,
  [⟨31, 16, F.MIR_COUNT_RESYNCS, 0, 1, 0, .ro⟩,
   ⟨15, 0, F.MIR_COUNT_BREAKS, 0, 1, 0, .ro⟩]⟩
def D.SVC_WIN_BASE : RegDef := ⟨.SVC_WIN_BASE, 0xa0000, [], .setup,
  [⟨20, 0, F.SVC_WIN_BASE_BASE, 0, 1, 0, .rw⟩]⟩
def D.SVC_WIN_SIZE : RegDef := ⟨.SVC_WIN_SIZE, 0xa0004, [], .setup,
  [⟨14, 0, F.SVC_WIN_SIZE_SIZE, 0, 1, 0, .rw⟩]⟩
def D.SVC_VEC : RegDef := ⟨.SVC_VEC, 0xa0008, [], .setup,
  [⟨13, 8, F.SVC_VEC_TRAP, 0, 1, 0, .rw⟩,
   ⟨5, 0, F.SVC_VEC_FAULT, 0, 1, 0, .rw⟩]⟩
def D.SVC_STATUS : RegDef := ⟨.SVC_STATUS, 0xa000c, [], .status,
  [⟨11, 11, F.SVC_STATUS_PERST, 0, 1, 0, .ro⟩,
   ⟨10, 9, F.SVC_STATUS_DSTATE, 0, 1, 0, .ro⟩,
   ⟨8, 8, F.SVC_STATUS_BME, 0, 1, 0, .ro⟩,
   ⟨6, 4, F.SVC_STATUS_WIDTH, 0, 1, 0, .ro⟩,
   ⟨3, 1, F.SVC_STATUS_SPEED, 0, 1, 0, .ro⟩,
   ⟨0, 0, F.SVC_STATUS_LINK, 0, 1, 0, .ro⟩]⟩
def D.SVC_ERR : RegDef := ⟨.SVC_ERR, 0xa0010, [], .status,
  [⟨6, 6, F.SVC_ERR_DMA_FAIL, 0, 1, 0, .w1c⟩,
   ⟨5, 5, F.SVC_ERR_PART_POISON, 0, 1, 0, .w1c⟩,
   ⟨4, 4, F.SVC_ERR_WR_FAIL, 0, 1, 0, .w1c⟩,
   ⟨3, 3, F.SVC_ERR_WIN_MISS, 0, 1, 0, .w1c⟩,
   ⟨2, 2, F.SVC_ERR_WIN_INVALID, 0, 1, 0, .w1c⟩,
   ⟨1, 1, F.SVC_ERR_NOT_OWNER, 0, 1, 0, .w1c⟩,
   ⟨0, 0, F.SVC_ERR_BAR0_FORM, 0, 1, 0, .w1c⟩]⟩
def D.SVC_LOSS : RegDef := ⟨.SVC_LOSS, 0xa0014, [], .status,
  [⟨31, 16, F.SVC_LOSS_COUNT, 0, 1, 0, .ro⟩,
   ⟨1, 0, F.SVC_LOSS_CAUSE, 0, 1, 0, .ro⟩]⟩
def D.CLK_CFG : RegDef := ⟨.CLK_CFG, 0x10000, [], .setup,
  [⟨8, 8, F.CLK_CFG_GATE_EN, 0, 1, 0, .rw⟩,
   ⟨3, 0, F.CLK_CFG_GATE_IDLE, 0, 1, 0, .rw⟩]⟩
def D.CLK_STATUS : RegDef := ⟨.CLK_STATUS, 0x10004, [], .status,
  [⟨27, 24, F.CLK_STATUS_ATTEMPTS, 0, 1, 0, .ro⟩,
   ⟨8, 8, F.CLK_STATUS_MON_RANGE, 0, 1, 0, .ro⟩,
   ⟨6, 6, F.CLK_STATUS_RS_SRC, 0, 1, 0, .ro⟩,
   ⟨5, 5, F.CLK_STATUS_MON_ARMED, 0, 1, 0, .ro⟩,
   ⟨4, 4, F.CLK_STATUS_XTAL_GOOD, 0, 1, 0, .ro⟩,
   ⟨3, 3, F.CLK_STATUS_TRO_STARTED, 0, 1, 0, .ro⟩]⟩
def D.CLK_MON : RegDef := ⟨.CLK_MON, 0x10008, [], .status,
  [⟨31, 16, F.CLK_MON_BAD_WINDOWS, 0, 1, 0, .ro⟩,
   ⟨8, 0, F.CLK_MON_LAST, 0, 1, 0, .ro⟩]⟩
def D.CLK_XTAL_FAILS : RegDef := ⟨.CLK_XTAL_FAILS, 0x1000c, [], .status,
  [⟨15, 0, F.CLK_XTAL_FAILS_COUNT, 0, 1, 0, .ro⟩]⟩
def D.CLK_GATE_REFUSE : RegDef := ⟨.CLK_GATE_REFUSE, 0x10010, [], .status,
  [⟨31, 0, F.CLK_GATE_REFUSE_COUNT, 0, 1, 0, .ro⟩]⟩
def D.CLK_XING : RegDef := ⟨.CLK_XING, 0x10014, [], .status,
  [⟨31, 16, F.CLK_XING_TIMEOUTS, 0, 1, 0, .ro⟩,
   ⟨15, 0, F.CLK_XING_OVERRUNS, 0, 1, 0, .ro⟩]⟩
def D.CLK_DOM : RegDef := ⟨.CLK_DOM, 0x10020, [(4, 0x4)], .status,
  [⟨31, 0, F.CLK_DOM_RUN, 0, 1, 0, .ro⟩]⟩
def D.CLK_OVR : RegDef := ⟨.CLK_OVR, 0x10030, [(4, 0x4)], .status,
  [⟨31, 0, F.CLK_OVR_OVR, 0, 1, 0, .w1c⟩]⟩
def D.PWR_VIN_LIMIT : RegDef := ⟨.PWR_VIN_LIMIT, 0x20000, [], .setup,
  [⟨7, 0, F.PWR_VIN_LIMIT_LIMIT, 0, 1, 0, .rw⟩]⟩
def D.PWR_CFG : RegDef := ⟨.PWR_CFG, 0x20004, [], .setup,
  [⟨15, 0, F.PWR_CFG_DROWSE_IDLE, 0, 1, 0, .rw⟩]⟩
def D.PWR_CTRL : RegDef := ⟨.PWR_CTRL, 0x20008, [], .owner,
  [⟨0, 0, F.PWR_CTRL_CHIP_RESET, 0, 1, 0, .wo⟩]⟩
def D.PWR_STATUS : RegDef := ⟨.PWR_STATUS, 0x2000c, [], .status,
  [⟨23, 16, F.PWR_STATUS_INOW, 0, 1, 0, .ro⟩,
   ⟨15, 12, F.PWR_STATUS_RAILS, 0, 1, 0, .ro⟩,
   ⟨8, 8, F.PWR_STATUS_PACING, 0, 1, 0, .ro⟩,
   ⟨7, 0, F.PWR_STATUS_IMEAS, 0, 1, 0, .ro⟩]⟩
def D.PWR_REFUSE : RegDef := ⟨.PWR_REFUSE, 0x20010, [], .status,
  [⟨31, 16, F.PWR_REFUSE_COUNT, 0, 1, 0, .ro⟩,
   ⟨11, 10, F.PWR_REFUSE_TARGET, 0, 1, 0, .ro⟩,
   ⟨9, 8, F.PWR_REFUSE_REASON, 0, 1, 0, .ro⟩,
   ⟨3, 0, F.PWR_REFUSE_BLOCK, 0, 1, 0, .ro⟩]⟩
def D.PWR_KEEP : RegDef := ⟨.PWR_KEEP, 0x20014, [], .status,
  [⟨15, 0, F.PWR_KEEP_DIES, 0, 1, 0, .ro⟩]⟩
def D.PWR_FILL : RegDef := ⟨.PWR_FILL, 0x20018, [], .status,
  [⟨15, 0, F.PWR_FILL_DIES, 0, 1, 0, .ro⟩]⟩
def D.GL_MODE : RegDef := ⟨.GL_MODE, 0x4, [], .status,
  [⟨7, 4, F.GL_MODE_PREV, 0, 1, 0, .ro⟩,
   ⟨3, 0, F.GL_MODE_STATE, 0, 1, 0, .ro⟩]⟩
def D.RESET_CAUSE : RegDef := ⟨.RESET_CAUSE, 0x8, [], .status,
  [⟨31, 16, F.RESET_CAUSE_COUNT, 0, 1, 0, .ro⟩,
   ⟨2, 0, F.RESET_CAUSE_CAUSE, 0, 1, 0, .ro⟩]⟩
def D.WAKE_SOURCE : RegDef := ⟨.WAKE_SOURCE, 0xc, [], .status,
  [⟨31, 16, F.WAKE_SOURCE_COUNT, 0, 1, 0, .ro⟩,
   ⟨7, 4, F.WAKE_SOURCE_FROM, 0, 1, 0, .ro⟩,
   ⟨3, 0, F.WAKE_SOURCE_SOURCE, 0, 1, 0, .ro⟩]⟩
def D.RETAIN_STATUS : RegDef := ⟨.RETAIN_STATUS, 0x10, [], .status,
  [⟨31, 16, F.RETAIN_STATUS_DIES, 0, 1, 0, .ro⟩,
   ⟨7, 6, F.RETAIN_STATUS_EVENT, 0, 1, 0, .ro⟩,
   ⟨5, 4, F.RETAIN_STATUS_SES, 0, 1, 0, .ro⟩,
   ⟨1, 1, F.RETAIN_STATUS_FILLING, 0, 1, 0, .ro⟩,
   ⟨0, 0, F.RETAIN_STATUS_RETAINED, 0, 1, 0, .ro⟩]⟩
def D.THM_CFG : RegDef := ⟨.THM_CFG, 0x30000, [], .setup,
  [⟨15, 8, F.THM_CFG_THROTTLE, 0, 1, 0, .rw⟩,
   ⟨7, 0, F.THM_CFG_WARN, 0, 1, 0, .rw⟩]⟩
def D.THM_STEP : RegDef := ⟨.THM_STEP, 0x30004, [], .setup,
  [⟨7, 0, F.THM_STEP_STEP, 0, 1, 0, .rw⟩]⟩
def D.THM_STATUS : RegDef := ⟨.THM_STATUS, 0x30008, [], .status,
  [⟨23, 16, F.THM_STATUS_STEPS, 0, 1, 0, .ro⟩,
   ⟨3, 3, F.THM_STATUS_SAMPLED, 0, 1, 0, .ro⟩,
   ⟨2, 2, F.THM_STATUS_FAST, 0, 1, 0, .ro⟩,
   ⟨1, 1, F.THM_STATUS_THROTTLING, 0, 1, 0, .ro⟩,
   ⟨0, 0, F.THM_STATUS_WARNING, 0, 1, 0, .ro⟩]⟩
def D.THM_MAX : RegDef := ⟨.THM_MAX, 0x3000c, [], .status,
  [⟨21, 16, F.THM_MAX_SENSOR, 0, 1, 0, .ro⟩,
   ⟨10, 0, F.THM_MAX_TEMP, 0, 1, 0, .ro⟩]⟩
def D.THM_HOT : RegDef := ⟨.THM_HOT, 0x30010, [], .status,
  [⟨15, 0, F.THM_HOT_HOT, 0, 1, 0, .ro⟩]⟩
def D.THM_COUNT : RegDef := ⟨.THM_COUNT, 0x30014, [], .status,
  [⟨31, 16, F.THM_COUNT_THROTTLES, 0, 1, 0, .ro⟩,
   ⟨15, 0, F.THM_COUNT_WARNINGS, 0, 1, 0, .ro⟩]⟩
def D.THM_PEAK : RegDef := ⟨.THM_PEAK, 0x30018, [], .status,
  [⟨21, 16, F.THM_PEAK_SENSOR, 0, 1, 0, .ro⟩,
   ⟨10, 0, F.THM_PEAK_TEMP, 0, 1, 0, .ro⟩]⟩
def D.THM_SENSOR : RegDef := ⟨.THM_SENSOR, 0x30100, [(36, 0x4)], .status,
  [⟨31, 31, F.THM_SENSOR_FAILED, 0, 1, 0, .ro⟩,
   ⟨10, 0, F.THM_SENSOR_TEMP, 0, 1, 0, .ro⟩]⟩
def D.REP_RSPARE : RegDef := ⟨.REP_RSPARE, 0x400000, [(65536, 0x8)], .status,
  [⟨29, 16, F.REP_RSPARE_ROW, 0, 1, 0, .ro⟩,
   ⟨15, 12, F.REP_RSPARE_BANK, 0, 1, 0, .ro⟩,
   ⟨11, 6, F.REP_RSPARE_PC, 0, 1, 0, .ro⟩,
   ⟨5, 2, F.REP_RSPARE_DIE, 0, 1, 0, .ro⟩,
   ⟨1, 1, F.REP_RSPARE_PERSIST, 0, 1, 0, .ro⟩,
   ⟨0, 0, F.REP_RSPARE_V, 0, 1, 0, .ro⟩]⟩
def D.REP_RSPARE_HI : RegDef := ⟨.REP_RSPARE_HI, 0x400004, [(65536, 0x8)], .status,
  [⟨3, 0, F.REP_RSPARE_HI_SPARE, 0, 1, 0, .ro⟩]⟩
def D.FUSE_STATUS : RegDef := ⟨.FUSE_STATUS, 0x40000, [], .status,
  [⟨3, 3, F.FUSE_STATUS_PUMP, 0, 1, 0, .ro⟩,
   ⟨2, 2, F.FUSE_STATUS_VFUSE_OK, 0, 1, 0, .ro⟩,
   ⟨1, 1, F.FUSE_STATUS_BUSY, 0, 1, 0, .ro⟩,
   ⟨0, 0, F.FUSE_STATUS_LOADED, 0, 1, 0, .ro⟩]⟩
def D.FUSE_REGION : RegDef := ⟨.FUSE_REGION, 0x40004, [], .status,
  [⟨1, 0, F.FUSE_REGION_STATE, 0, 0, 0, .ro⟩,
   ⟨3, 2, F.FUSE_REGION_STATE, 0, 0, 1, .ro⟩,
   ⟨5, 4, F.FUSE_REGION_STATE, 0, 0, 2, .ro⟩,
   ⟨7, 6, F.FUSE_REGION_STATE, 0, 0, 3, .ro⟩,
   ⟨9, 8, F.FUSE_REGION_STATE, 0, 0, 4, .ro⟩]⟩
def D.FUSE_LOCK : RegDef := ⟨.FUSE_LOCK, 0x40008, [], .owner,
  [⟨12, 8, F.FUSE_LOCK_RL, 0, 1, 0, .rws⟩,
   ⟨4, 0, F.FUSE_LOCK_WL, 0, 1, 0, .rws⟩]⟩
def D.FUSE_FUSED_LOCK : RegDef := ⟨.FUSE_FUSED_LOCK, 0x4000c, [], .status,
  [⟨12, 8, F.FUSE_FUSED_LOCK_RL, 0, 1, 0, .ro⟩,
   ⟨4, 0, F.FUSE_FUSED_LOCK_WL, 0, 1, 0, .ro⟩]⟩
def D.FUSE_MARGINAL : RegDef := ⟨.FUSE_MARGINAL, 0x40010, [], .status,
  [⟨31, 16, F.FUSE_MARGINAL_COUNT, 0, 1, 0, .ro⟩,
   ⟨9, 0, F.FUSE_MARGINAL_LAST, 0, 1, 0, .ro⟩]⟩
def D.FUSE_PROG : RegDef := ⟨.FUSE_PROG, 0x40014, [], .status,
  [⟨31, 16, F.FUSE_PROG_WORDS, 0, 1, 0, .ro⟩,
   ⟨15, 0, F.FUSE_PROG_VERIFY_FAILS, 0, 1, 0, .ro⟩]⟩
def D.FUSE_FREE : RegDef := ⟨.FUSE_FREE, 0x40018, [], .status,
  [⟨22, 16, F.FUSE_FREE_R3, 0, 1, 0, .ro⟩,
   ⟨8, 0, F.FUSE_FREE_R2, 0, 1, 0, .ro⟩]⟩
def D.FUSE_WORD : RegDef := ⟨.FUSE_WORD, 0x41000, [(1024, 0x8)], .status,
  [⟨31, 0, F.FUSE_WORD_DATA, 0, 1, 0, .ro⟩]⟩
def D.FUSE_WORD_HI : RegDef := ⟨.FUSE_WORD_HI, 0x41004, [(1024, 0x8)], .status,
  [⟨31, 31, F.FUSE_WORD_HI_RLOCKED, 0, 1, 0, .ro⟩,
   ⟨30, 30, F.FUSE_WORD_HI_FAILED, 0, 1, 0, .ro⟩,
   ⟨29, 28, F.FUSE_WORD_HI_SENSE, 0, 1, 0, .ro⟩,
   ⟨23, 0, F.FUSE_WORD_DATA, 32, 1, 0, .ro⟩]⟩
def D.BIST_CFG : RegDef := ⟨.BIST_CFG, 0x70000, [], .setup,
  [⟨19, 16, F.BIST_CFG_AGE_LIMIT, 0, 1, 0, .rw⟩,
   ⟨11, 8, F.BIST_CFG_INTERVAL, 0, 1, 0, .rw⟩,
   ⟨6, 0, F.BIST_CFG_BUDGET, 0, 1, 0, .rw⟩]⟩
def D.BIST_STATUS : RegDef := ⟨.BIST_STATUS, 0x70004, [], .status,
  [⟨2, 2, F.BIST_STATUS_WIPING, 0, 1, 0, .ro⟩,
   ⟨1, 1, F.BIST_STATUS_FIELD_ON, 0, 1, 0, .ro⟩,
   ⟨0, 0, F.BIST_STATUS_DONE, 0, 1, 0, .ro⟩]⟩
def D.BIST_SIG : RegDef := ⟨.BIST_SIG, 0x70008, [], .status,
  [⟨5, 0, F.BIST_SIG_PASS, 0, 1, 0, .ro⟩]⟩
def D.BIST_FIELD_CUR : RegDef := ⟨.BIST_FIELD_CUR, 0x7000c, [], .status,
  [⟨31, 31, F.BIST_FIELD_CUR_ACTIVE, 0, 1, 0, .ro⟩,
   ⟨30, 29, F.BIST_FIELD_CUR_KIND, 0, 1, 0, .ro⟩,
   ⟨28, 23, F.BIST_FIELD_CUR_PC, 0, 1, 0, .ro⟩,
   ⟨22, 19, F.BIST_FIELD_CUR_DIE, 0, 1, 0, .ro⟩,
   ⟨18, 15, F.BIST_FIELD_CUR_BANK, 0, 1, 0, .ro⟩,
   ⟨14, 13, F.BIST_FIELD_CUR_GROUP, 0, 1, 0, .ro⟩,
   ⟨6, 0, F.BIST_FIELD_CUR_ROW, 0, 1, 0, .ro⟩]⟩
def D.BIST_FIELD_COUNT : RegDef := ⟨.BIST_FIELD_COUNT, 0x70010, [], .status,
  [⟨31, 16, F.BIST_FIELD_COUNT_SLICES, 0, 1, 0, .ro⟩,
   ⟨15, 8, F.BIST_FIELD_COUNT_FAILS, 0, 1, 0, .ro⟩,
   ⟨7, 0, F.BIST_FIELD_COUNT_ABANDONED, 0, 1, 0, .ro⟩]⟩
def D.BIST_AGE : RegDef := ⟨.BIST_AGE, 0x70014, [], .status,
  [⟨31, 24, F.BIST_AGE_COUNT, 0, 1, 0, .ro⟩,
   ⟨23, 16, F.BIST_AGE_LANE, 0, 1, 0, .ro⟩,
   ⟨5, 0, F.BIST_AGE_PC, 0, 1, 0, .ro⟩]⟩
def D.BIST_UNIT : RegDef := ⟨.BIST_UNIT, 0x70020, [(7, 0x4)], .status,
  [⟨31, 30, F.BIST_UNIT_OUTCOME, 0, 1, 0, .ro⟩,
   ⟨29, 20, F.BIST_UNIT_COVERAGE, 0, 1, 0, .ro⟩,
   ⟨19, 0, F.BIST_UNIT_DURATION, 0, 1, 0, .ro⟩]⟩
def D.CAL_CFG : RegDef := ⟨.CAL_CFG, 0x70100, [], .setup,
  [⟨3, 1, F.CAL_CFG_TOL, 0, 1, 0, .rw⟩,
   ⟨0, 0, F.CAL_CFG_EN, 0, 1, 0, .rw⟩]⟩
def D.CAL_STATUS : RegDef := ⟨.CAL_STATUS, 0x70104, [], .status,
  [⟨31, 16, F.CAL_STATUS_DISAGREE, 0, 1, 0, .ro⟩,
   ⟨15, 8, F.CAL_STATUS_CLAMPS, 0, 1, 0, .ro⟩,
   ⟨7, 0, F.CAL_STATUS_UNSTABLE, 0, 1, 0, .ro⟩]⟩
def D.CAL_TRO : RegDef := ⟨.CAL_TRO, 0x70108, [], .status,
  [⟨9, 0, F.CAL_TRO_TRIM, 0, 1, 0, .ro⟩]⟩
def D.FLT_ROUTE : RegDef := ⟨.FLT_ROUTE, 0x50000, [], .setup,
  [⟨2, 2, F.FLT_ROUTE_SVC, 0, 1, 0, .rw⟩,
   ⟨1, 1, F.FLT_ROUTE_B, 0, 1, 0, .rw⟩,
   ⟨0, 0, F.FLT_ROUTE_A, 0, 1, 0, .rw⟩]⟩
def D.FLT_REACT_LO : RegDef := ⟨.FLT_REACT_LO, 0x50004, [], .setup,
  [⟨4, 0, F.FLT_REACT, 0, 0, 0, .rw⟩,
   ⟨12, 8, F.FLT_REACT, 0, 0, 1, .rw⟩,
   ⟨20, 16, F.FLT_REACT, 0, 0, 2, .rw⟩,
   ⟨28, 24, F.FLT_REACT, 0, 0, 3, .rw⟩]⟩
def D.FLT_REACT_HI : RegDef := ⟨.FLT_REACT_HI, 0x50008, [], .setup,
  [⟨4, 0, F.FLT_REACT, 0, 0, 4, .rw⟩,
   ⟨12, 8, F.FLT_REACT, 0, 0, 5, .rw⟩,
   ⟨20, 16, F.FLT_REACT, 0, 0, 6, .rw⟩,
   ⟨28, 24, F.FLT_REACT, 0, 0, 7, .rw⟩]⟩
def D.FLT_STATUS : RegDef := ⟨.FLT_STATUS, 0x5000c, [], .status,
  [⟨1, 1, F.FLT_STATUS_INJECT_REFUSED, 0, 1, 0, .w1c⟩,
   ⟨0, 0, F.FLT_STATUS_FAULTN, 0, 1, 0, .ro⟩]⟩
def D.FLT_LOG_HEAD : RegDef := ⟨.FLT_LOG_HEAD, 0x50010, [], .status,
  [⟨31, 8, F.FLT_LOG_HEAD_TOTAL, 0, 1, 0, .ro⟩,
   ⟨7, 0, F.FLT_LOG_HEAD_HEAD, 0, 1, 0, .ro⟩]⟩
def D.FLT_LOG_LOST : RegDef := ⟨.FLT_LOG_LOST, 0x50014, [], .status,
  [⟨31, 0, F.FLT_LOG_LOST_COUNT, 0, 1, 0, .ro⟩]⟩
def D.FLT_INJECT : RegDef := ⟨.FLT_INJECT, 0x50018, [], .owner,
  [⟨8, 0, F.FLT_INJECT_SOURCE, 0, 1, 0, .wo⟩]⟩
def D.FLT_OVF_IDX : RegDef := ⟨.FLT_OVF_IDX, 0x5001c, [], .owner,
  [⟨19, 0, F.FLT_OVF_IDX_INDEX, 0, 1, 0, .rw⟩]⟩
def D.FLT_OVF_STATUS : RegDef := ⟨.FLT_OVF_STATUS, 0x50020, [], .status,
  [⟨21, 21, F.FLT_OVF_STATUS_ERR, 0, 1, 0, .ro⟩,
   ⟨20, 1, F.FLT_OVF_STATUS_COUNT, 0, 1, 0, .ro⟩,
   ⟨0, 0, F.FLT_OVF_STATUS_READY, 0, 1, 0, .ro⟩]⟩
def D.FLT_OVF_ENTRY : RegDef := ⟨.FLT_OVF_ENTRY, 0x50030, [(4, 0x4)], .status,
  [⟨31, 0, F.FLT_OVF_ENTRY_DATA, 0, 1, 0, .ro⟩]⟩
def D.FLT_PEND : RegDef := ⟨.FLT_PEND, 0x50040, [(16, 0x4)], .status,
  [⟨31, 0, F.FLT_PEND_PEND, 0, 1, 0, .w1c⟩]⟩
def D.FLT_SEV : RegDef := ⟨.FLT_SEV, 0x50100, [(64, 0x4)], .setup,
  [⟨2, 0, F.FLT_SEV, 0, 8, 0, .rw⟩,
   ⟨6, 4, F.FLT_SEV, 0, 8, 1, .rw⟩,
   ⟨10, 8, F.FLT_SEV, 0, 8, 2, .rw⟩,
   ⟨14, 12, F.FLT_SEV, 0, 8, 3, .rw⟩,
   ⟨18, 16, F.FLT_SEV, 0, 8, 4, .rw⟩,
   ⟨22, 20, F.FLT_SEV, 0, 8, 5, .rw⟩,
   ⟨26, 24, F.FLT_SEV, 0, 8, 6, .rw⟩,
   ⟨30, 28, F.FLT_SEV, 0, 8, 7, .rw⟩]⟩
def D.FLT_LOG : RegDef := ⟨.FLT_LOG, 0x51000, [(256, 0x10), (4, 0x4)], .status,
  [⟨31, 0, F.FLT_LOG_DATA, 0, 1, 0, .ro⟩]⟩
def D.GL_ID : RegDef := ⟨.GL_ID, 0x0, [], .status,
  [⟨31, 16, F.GL_ID_PART, 0, 1, 0, .ro⟩,
   ⟨15, 12, F.GL_ID_BIN, 0, 1, 0, .ro⟩,
   ⟨7, 0, F.GL_ID_REV, 0, 1, 0, .ro⟩]⟩
def D.TEL_ORBIT : RegDef := ⟨.TEL_ORBIT, 0xf0000, [], .status,
  [⟨31, 0, F.TEL_ORBIT, 0, 1, 0, .ro⟩]⟩
def D.TEL_ORBIT_HI : RegDef := ⟨.TEL_ORBIT_HI, 0xf0004, [], .status,
  [⟨15, 0, F.TEL_ORBIT, 32, 1, 0, .ro⟩]⟩
def D.TEL_LOAD : RegDef := ⟨.TEL_LOAD, 0xf0050, [], .status,
  [⟨29, 24, F.TEL_LOAD_QPC, 0, 1, 0, .ro⟩,
   ⟨23, 16, F.TEL_LOAD_IAVG, 0, 1, 0, .ro⟩,
   ⟨8, 0, F.TEL_LOAD_QMAX, 0, 1, 0, .ro⟩]⟩
def D.DB : RegDef := ⟨.DB, 0x200000, [(160, 0x1000), (1024, 0x4)], .own,
  [⟨16, 0, F.DB_PROD, 0, 1, 0, .wo⟩]⟩
def D.CFG_ADDRMAP : RegDef := ⟨.CFG_ADDRMAP, 0x204, [], .setup,
  [⟨0, 0, F.CFG_ADDRMAP_MAP, 0, 1, 0, .rw⟩]⟩
def D.REP_RSPARE_USED : RegDef := ⟨.REP_RSPARE_USED, 0x488014, [], .status,
  [⟨16, 0, F.REP_RSPARE_USED_USED, 0, 1, 0, .ro⟩]⟩
def D.TEL_PA_RD : RegDef := ⟨.TEL_PA_RD, 0xf0010, [], .status,
  [⟨31, 0, F.TEL_PA_RD, 0, 1, 0, .ro⟩]⟩
def D.TEL_PA_RD_HI : RegDef := ⟨.TEL_PA_RD_HI, 0xf0014, [], .status,
  [⟨31, 0, F.TEL_PA_RD, 32, 1, 0, .ro⟩]⟩
def D.TEL_PA_WR : RegDef := ⟨.TEL_PA_WR, 0xf0018, [], .status,
  [⟨31, 0, F.TEL_PA_WR, 0, 1, 0, .ro⟩]⟩
def D.TEL_PA_WR_HI : RegDef := ⟨.TEL_PA_WR_HI, 0xf001c, [], .status,
  [⟨31, 0, F.TEL_PA_WR, 32, 1, 0, .ro⟩]⟩
def D.TEL_PB_RD : RegDef := ⟨.TEL_PB_RD, 0xf0020, [], .status,
  [⟨31, 0, F.TEL_PB_RD, 0, 1, 0, .ro⟩]⟩
def D.TEL_PB_RD_HI : RegDef := ⟨.TEL_PB_RD_HI, 0xf0024, [], .status,
  [⟨31, 0, F.TEL_PB_RD, 32, 1, 0, .ro⟩]⟩
def D.TEL_PB_WR : RegDef := ⟨.TEL_PB_WR, 0xf0028, [], .status,
  [⟨31, 0, F.TEL_PB_WR, 0, 1, 0, .ro⟩]⟩
def D.TEL_PB_WR_HI : RegDef := ⟨.TEL_PB_WR_HI, 0xf002c, [], .status,
  [⟨31, 0, F.TEL_PB_WR, 32, 1, 0, .ro⟩]⟩
def D.TEL_SVC_RD : RegDef := ⟨.TEL_SVC_RD, 0xf0030, [], .status,
  [⟨31, 0, F.TEL_SVC_RD, 0, 1, 0, .ro⟩]⟩
def D.TEL_SVC_RD_HI : RegDef := ⟨.TEL_SVC_RD_HI, 0xf0034, [], .status,
  [⟨31, 0, F.TEL_SVC_RD, 32, 1, 0, .ro⟩]⟩
def D.TEL_SVC_WR : RegDef := ⟨.TEL_SVC_WR, 0xf0038, [], .status,
  [⟨31, 0, F.TEL_SVC_WR, 0, 1, 0, .ro⟩]⟩
def D.TEL_SVC_WR_HI : RegDef := ⟨.TEL_SVC_WR_HI, 0xf003c, [], .status,
  [⟨31, 0, F.TEL_SVC_WR, 32, 1, 0, .ro⟩]⟩
def D.TEL_ARR_RD : RegDef := ⟨.TEL_ARR_RD, 0xf0040, [], .status,
  [⟨31, 0, F.TEL_ARR_RD, 0, 1, 0, .ro⟩]⟩
def D.TEL_ARR_RD_HI : RegDef := ⟨.TEL_ARR_RD_HI, 0xf0044, [], .status,
  [⟨31, 0, F.TEL_ARR_RD, 32, 1, 0, .ro⟩]⟩
def D.TEL_ARR_WR : RegDef := ⟨.TEL_ARR_WR, 0xf0048, [], .status,
  [⟨31, 0, F.TEL_ARR_WR, 0, 1, 0, .ro⟩]⟩
def D.TEL_ARR_WR_HI : RegDef := ⟨.TEL_ARR_WR_HI, 0xf004c, [], .status,
  [⟨31, 0, F.TEL_ARR_WR, 32, 1, 0, .ro⟩]⟩

/-- Every register in address order. -/
def regList0 : List RegDef :=
  [D.GL_ID, D.GL_MODE, D.RESET_CAUSE, D.WAKE_SOURCE, D.RETAIN_STATUS, D.SEM_CLAIM, D.SEM_OWNER, D.SEM_LEASE, D.SEM_SVC_ALLOW, D.SEM_CFG, D.SEM_COUNT, D.CFG_CTRL, D.CFG_ADDRMAP, D.GL_CAPACITY, D.CFG_GROUP, D.CFG_COMMIT, D.CFG_COMMIT_HI, D.CFG_COMMIT_STATUS, D.CFG_STATUS, D.CFG_DIGEST, D.CFG_DIGEST_HI, D.CFG_DIGEST_AT, D.CFG_DIGEST_AT_HI, D.CFG_PEER_DIGEST, D.CFG_PEER_DIGEST_HI, D.CLK_CFG, D.CLK_STATUS, D.CLK_MON, D.CLK_XTAL_FAILS, D.CLK_GATE_REFUSE, D.CLK_XING, D.CLK_DOM, D.CLK_OVR, D.PWR_VIN_LIMIT, D.PWR_CFG, D.PWR_CTRL, D.PWR_STATUS, D.PWR_REFUSE, D.PWR_KEEP, D.PWR_FILL, D.THM_CFG, D.THM_STEP, D.THM_STATUS, D.THM_MAX, D.THM_HOT, D.THM_COUNT, D.THM_PEAK, D.THM_SENSOR, D.FUSE_STATUS, D.FUSE_REGION]
def regList1 : List RegDef :=
  [D.FUSE_LOCK, D.FUSE_FUSED_LOCK, D.FUSE_MARGINAL, D.FUSE_PROG, D.FUSE_FREE, D.FUSE_WORD, D.FUSE_WORD_HI, D.FLT_ROUTE, D.FLT_REACT_LO, D.FLT_REACT_HI, D.FLT_STATUS, D.FLT_LOG_HEAD, D.FLT_LOG_LOST, D.FLT_INJECT, D.FLT_OVF_IDX, D.FLT_OVF_STATUS, D.FLT_OVF_ENTRY, D.FLT_PEND, D.FLT_SEV, D.FLT_LOG, D.ORB_NOW, D.ORB_NOW_HI, D.ORB_PHASE, D.ORB_STATUS, D.ORB_CFG, D.ORB_HOTMAP, D.ORB_SLEEP_AT, D.ORB_SLEEP_AT_HI, D.ORB_SLEPT, D.ORB_SLEPT_HI, D.ORB_EVENTS, D.ORB_STEPS, D.ORB_CATCHUP, D.ORB_BORROW_COMP, D.BIST_CFG, D.BIST_STATUS, D.BIST_SIG, D.BIST_FIELD_CUR, D.BIST_FIELD_COUNT, D.BIST_AGE, D.BIST_UNIT, D.CAL_CFG, D.CAL_STATUS, D.CAL_TRO, D.PA_CTRL, D.PA_STATUS, D.PA_SIDEBAND, D.PA_EYE_CFG, D.PA_EYE_MIN, D.PA_COUNT]
def regList2 : List RegDef :=
  [D.PA_ERR, D.PA_LOSS, D.PA_REQERR, D.PA_LANE, D.PA_WBASE, D.PA_WLIMIT, D.PA_WCTRL, D.SVC_WIN_BASE, D.SVC_WIN_SIZE, D.SVC_VEC, D.SVC_STATUS, D.SVC_ERR, D.SVC_LOSS, D.PL_PHY_CTRL, D.PL_PHY_CFG, D.PL_PHY_LOOP, D.PL_PHY_STATUS, D.PL_LANE, D.PL_FIR, D.PL_FEC_CORR, D.PL_FEC_CORR_HI, D.PL_FEC_FAIL, D.PL_ABORTS, D.PL_LOOP_ERR, D.PL_TRAIN, D.PL_FAB_STATUS, D.PL_PEER_ID, D.PL_PEER_ID_HI, D.PL_DATA_ERR, D.PL_CREPLAY, D.PL_AP_LBASE, D.PL_AP_LLIMIT, D.PL_AP_RBASE, D.PL_AP_CTRL, D.PL_RW_BASE, D.PL_RW_LIMIT, D.PL_RW_CTRL, D.MIR_LBASE, D.MIR_SIZE, D.MIR_RBASE, D.MIR_CTRL, D.MIR_STATUS, D.MIR_COUNT, D.QOS_CFG, D.QOS_FB, D.QOS_ICLASS, D.QOS_IRANK, D.QOS_SVC_LABEL, D.QOS_CAP, D.QOS_RES_ACTIVE]
def regList3 : List RegDef :=
  [D.QOS_RES_STAGED, D.QOS_CUT, D.QOS_SUSP, D.QOS_RESUME, D.QOS_MISS_EXEMPT, D.QOS_REFUSED, D.QOS_HELD, D.QOS_OVERSUB_COMMITS, D.CMT_CFG, D.CMT_STATUS, D.CMT_RDS, D.CMT_ACTS, D.CMT_HITS, D.CMT_STALE, D.CMT_DISCARD, D.CMT_UNUSED, D.CMT_CANCEL, D.RING_BASE, D.RING_BASE_HI, D.RING_CFG, D.RING_CTRL, D.RING_PROD, D.RING_NEXT, D.RING_CONS, D.RING_STATUS, D.MOV_BUSY, D.MOV_DESC, D.MOV_DESC_HI, D.MOV_BYTES, D.MOV_BYTES_HI, D.MOV_HALTS, D.TEL_ORBIT, D.TEL_ORBIT_HI, D.TEL_PA_RD, D.TEL_PA_RD_HI, D.TEL_PA_WR, D.TEL_PA_WR_HI, D.TEL_PB_RD, D.TEL_PB_RD_HI, D.TEL_PB_WR, D.TEL_PB_WR_HI, D.TEL_SVC_RD, D.TEL_SVC_RD_HI, D.TEL_SVC_WR, D.TEL_SVC_WR_HI, D.TEL_ARR_RD, D.TEL_ARR_RD_HI, D.TEL_ARR_WR, D.TEL_ARR_WR_HI, D.TEL_LOAD]
def regList4 : List RegDef :=
  [D.CH_CFG, D.CH_CTRL, D.CH_STATUS, D.CH_RESET_INFO, D.CH_ACT, D.CH_SUSPECT, D.CH_WB, D.CH_WB_HI, D.CH_ACTS, D.CH_ACTS_HI, D.CH_HELD, D.CH_CODE, D.CH_UNCORR, D.CH_REPEAT, D.CH_REMAP, D.CH_SCRUB, D.DB, D.REP_RSPARE, D.REP_RSPARE_HI, D.REP_WTAG, D.REP_WTAG_HI, D.REP_CODE_CFG, D.REP_SCRUB_CFG, D.REP_SCRUB_INTERVAL, D.REP_SCRUB_POS, D.REP_SCRUB_PASSES, D.REP_RSPARE_USED, D.SES_ACT0, D.SES_ACT1, D.SES_STG0, D.SES_STG1, D.SES_STAT, D.SES_REQS, D.SES_MISSES, D.SES_EVENTS]
def regList : List RegDef :=
  regList0 ++ regList1 ++ regList2 ++ regList3 ++ regList4

end Sys2Proof.Machine
end

