-- ==== Sys2Proof/Machine/Sparse.lean ====
section
/-!
DEFINITION. Sparse tables: the operations over `Sparse`, a list of (key, value) pairs with strictly rising keys.
An operation that is given the value an unlisted key reads as keeps that value out of the list, so that equal
tables are equal data.
-/

namespace Sys2Proof

variable {α : Type}

/-- The entry listed at a key. -/
def Sparse.find (t : Sparse α) (k : Nat) : Option α :=
  match t with
  | [] => none
  | (j, v) :: r => if j = k then some v else Sparse.find r k

/-- The value at a key, `d` where nothing is listed. -/
def Sparse.getD (t : Sparse α) (k : Nat) (d : α) : α := (Sparse.find t k).getD d

/-- List a value at a key, in place of what is there. -/
def Sparse.put (t : Sparse α) (k : Nat) (v : α) : Sparse α :=
  match t with
  | [] => [(k, v)]
  | (j, w) :: r =>
    if k < j then (k, v) :: (j, w) :: r else if k = j then (k, v) :: r else (j, w) :: Sparse.put r k v

/-- Take a key out of the table. -/
def Sparse.del (t : Sparse α) (k : Nat) : Sparse α := t.filter fun e => e.1 != k

/-- Set a key of a table whose unlisted keys read as `d`. -/
def Sparse.setD [DecidableEq α] (t : Sparse α) (k : Nat) (v d : α) : Sparse α :=
  if v = d then Sparse.del t k else Sparse.put t k v

/-- Keep the entries that satisfy a test. -/
def Sparse.keep (t : Sparse α) (f : Nat → α → Bool) : Sparse α := t.filter fun e => f e.1 e.2

/-- Change every entry of a table whose unlisted keys read as `d`. -/
def Sparse.mapD [DecidableEq α] (t : Sparse α) (d : α) (f : Nat → α → α) : Sparse α :=
  t.foldr (fun e acc => Sparse.setD acc e.1 (f e.1 e.2) d) []

/-- The canonical form: keys strictly rising. -/
def Sparse.rising (t : Sparse α) : Bool :=
  match t with
  | [] => true
  | (j, _) :: r => (match r with | [] => true | (k, _) :: _ => decide (j < k)) && Sparse.rising r

/-- The canonical form of a table whose unlisted keys read as `d`. -/
def Sparse.wf [DecidableEq α] (t : Sparse α) (d : α) : Bool :=
  Sparse.rising t && t.all fun e => decide (e.2 ≠ d)

end Sys2Proof
end

