-- ==== Sys2Proof/Machine/State.lean ====
section
/-!
DEFINITION. The state of the stack as plain data: the DRAM array, the register fields, and every queue, buffer
and engine the manual names; the faults and refusals; the state right after reset.
All times are in picoseconds since the model started.
-/

namespace Sys2Proof.Machine

/-! ## The array (chapters 1 and 7) -/

/-- The DRAM arrays. `mem` lists bytes at physical addresses (`rowIndex * 1152 + offset`, R11); an unlisted byte
reads 0, as the array initialisation of R401 leaves it. `errs` lists, per physical word (`rowIndex * 36 + slot`),
the bits of its stored codeword that differ from the codeword that was written (R185); `marks` the words stored as
poison marks (R187). With `image` set, the rows of the session-table save hold a table of reset contexts wherever nothing else is
listed (R219, R399). -/
structure Arr where
  mem : List Host.Cell := []
  errs : Sparse (BitVec 272) := []
  marks : Sparse Bool := []
  image : Bool := false
deriving DecidableEq, Repr

/-- One change that a command makes to the array; all of them are applied when the command ends. -/
inductive Edit where
  | bytes (addr : Nat) (bs : List Byte)   -- store bytes from a physical address up
  | word (w : Nat) (err : BitVec 272)     -- the error pattern of a physical word
  | mark (w : Nat) (b : Bool)             -- whether a physical word is a poison mark
  | wipe (lo hi : Nat)                    -- rows with index lo ≤ r < hi return to zeros and valid codes
  | image                                 -- the rows of the session-table save take a table of reset contexts (R399)
deriving DecidableEq, Repr

/-- A word captured by a column read: data as written, its error pattern, and its poison mark. -/
structure Raw where
  data : Nat
  err : BitVec 272 := 0
  mark : Bool := false
deriving DecidableEq, Repr

/-- A bank of a PC on one die: `die * 16 + bank group * 4 + bank`. -/
abbrev BankIx := Nat

/-- A physical row of a bank of a PC. -/
structure Row where
  bank : BankIx
  row : Nat
deriving DecidableEq, Repr

/-- A word of a physical row. -/
structure Loc where
  bank : BankIx
  row : Nat
  word : Nat
deriving DecidableEq, Repr

/-! ## Work (chapters 4 to 9) -/

/-- Kinds of background operation on a row (R198, R441, R207). -/
inductive BgKind where
  | rcw | copy | scrub
deriving DecidableEq, Repr

/-- The agent that an array access belongs to (R139, R132). -/
inductive Who where
  | port (p : Port) (pos : Nat)               -- request at a place in port order
  | svc (tlp : Nat)                           -- BAR2 access
  | link (l : Link) (tag : Nat)               -- remote access or mirror frame from a peer
  | engine (r i gran : Nat) (src : Bool)      -- granule of descriptor i of ring r
  | bg (k : BgKind) (b : BankIx) (row gran : Nat) -- granule of a background operation on a physical row
deriving DecidableEq, Repr

/-- What an entry does to its lines. -/
inductive Access where
  | read | write | press
deriving DecidableEq, Repr

/-- A request or granule held at ingress or in a PC queue (R139, R140). -/
structure Job where
  who : Who
  acc : Access
  addr : Nat
  len : Nat
  data : List Byte := []
  be : Nat := 0                     -- enables, bit b for byte b
  etype : Nat := 0
  src : Option Nat := none          -- ordering source (R131)
  pos : Nat := 0                    -- place in the order of its agent
  label : Nat := 0                  -- session label
  since : Nat := 0                  -- when it reached ingress
  withheld : Option Nat := none     -- when yield feedback withheld it (R230)
  expired : Bool := false           -- HOLD_MAX has passed
  cls : Nat := 0                    -- class fixed at entry (R225)
  arrival : Nat := 0                -- when it entered the queue
  todo : List Nat := []             -- 64 B lines not yet issued, by offset div 64
  out : List Nat := []              -- lines whose data have not returned
  got : Sparse Nat := []            -- words returned, by offset div 32
  merge : Option (Sparse Raw) := none -- words of the column read for a merge or a press; empty while under way
  bads : List Nat := []             -- addresses of words that could not be recovered
  corr : Bool := false
  mates : List Nat := []            -- write granules of the same element, which enter with it (R251, R259)
  old : Bool := false               -- it was queued when a block reset ended (R163 T6)
  heldFrom : Option Nat := none     -- T0 of the block reset that held it at its ingress (R165)
deriving DecidableEq, Repr

/-- A background operation in its PC queue (R198, R209, R441). -/
structure Bg where
  kind : BgKind
  bank : BankIx
  row : Nat
  word : Nat := 0                  -- the word of a read-correct-write
  walk : Bool := false             -- the row is the walk's
  first : Option Nat := none       -- when its first column command issued
  turns : Nat := 0                 -- column slots it has had
deriving DecidableEq, Repr

/-- A column read in flight, with the two words captured. -/
structure Flight where
  who : Who
  line : Nat
  bank : BankIx
  row : Nat
  col : Nat                        -- even word of the column
  raw : List Raw
  merge : Bool := false
  time : Nat := 0                  -- when it issued
deriving DecidableEq, Repr

/-- A page rebuild under way (R193): the word, and who waits for it. -/
structure Rebuild where
  loc : Loc
  who : Who
  line : Nat
  merge : Bool := false
  exch : Bool := false             -- started for an exchange return (R149)
deriving DecidableEq, Repr

/-- An exchange-write whose old contents have not been dealt with (R145). -/
structure Exch where
  row : Nat
  col : Nat
  en : List Bool
  new : List Nat
  old : List Raw
  time : Nat := 0                  -- when it issued
deriving DecidableEq, Repr

/-- States of a page-code entry (R147). -/
inductive PceSt where
  | invalid | clean | dirty
deriving DecidableEq, Repr

/-- A page-code cache entry. Until its load returns, `p0` and `p1` hold the updates to be merged. -/
structure Pce where
  st : PceSt := .invalid
  loading : Bool := false
  p0 : Nat := 0
  p1 : Nat := 0
  seq : Nat := 0                   -- when it last became DIRTY
  loadAt : Nat := 0                -- when its load issued
  err : Sparse (BitVec 72) := []   -- bits wrong in each 8 B with its check bits: P0 in 0 to 3, P1 in 4 to 7
deriving DecidableEq, Repr

/-- A bank of a PC (R144). CLOSING ends tRP after the precharge recorded in the command history; ECLIPSED is the
die's state. -/
structure Bank where
  row : Option Nat := none
  pce : Pce := {}
  rets : List Exch := []
  nref : Option Nat := none        -- neighbour refresh in progress around this row (R157)
  nrefAt : Nat := 0                -- when it issued
  spec : Bool := false             -- opened by a speculative activate
deriving DecidableEq, Repr

/-- A pending neighbour refresh (R156, R157). It waits for an eclipse later than `ecl`. -/
structure Nref where
  row : Row
  ecl : Option Nat := none
deriving DecidableEq, Repr

/-- Commands of the timing table (R138). -/
inductive Cmd where
  | act | pre | rd | wr | xw | load | nref
deriving DecidableEq, Repr

/-- A command issued by a sequencer, kept while a timing parameter can still refer to it. -/
structure Issued where
  cmd : Cmd
  bank : BankIx
  time : Nat
deriving DecidableEq, Repr

/-- A repeat-catcher record (R196). -/
structure Catch where
  loc : Loc
  count : Nat
  pending : Bool
deriving DecidableEq, Repr

/-- A spare word of the word remap (R199): tag, data with its error pattern, flags, orbit at install. -/
structure Spare where
  loc : Loc
  data : Nat := 0
  err : BitVec 272 := 0
  poison : Bool := false
  persist : Bool := false
  orbit : Nat := 0
deriving DecidableEq, Repr

/-- States of a curd entry (R172); FREE entries are not listed. -/
inductive CurdSt where
  | issued | filled | stale
deriving DecidableEq, Repr

/-- A curd entry: a 64 B line of user space. -/
structure Curd where
  line : Nat
  st : CurdSt
  words : List Nat := []
  raw : List Raw := []
  loc : Loc := ⟨0, 0, 0⟩
  time : Nat := 0                  -- when its column read issued
deriving DecidableEq, Repr

/-- A pending target of the comet engine (R171, R174): its lines not yet read, and the stream that asked for it. -/
structure Target where
  lines : List Nat
  port : Port
  session : Nat
  time : Nat := 0                  -- when it was made
deriving DecidableEq, Repr

/-- The TSV bundle of a PC (R14, R15): which spare replaces what, and what has failed. -/
structure Tsv where
  lanes : List (Nat × Nat) := []   -- lanes replaced, each with the spare of its strobe group
  ca : List (Nat × Nat) := []      -- C/A TSVs replaced, each with its spare
  strobes : List (Nat × Nat) := [] -- strobes replaced, each with its spare
  single : List Nat := []          -- C/A signals on a single path
  badHalf : List Nat := []         -- halves with an unrepaired lane
  dead : Bool := false             -- a failure that the ladder cannot repair: the PC is dark
deriving DecidableEq, Repr

/-- A block reset in progress (R163). -/
structure BlockReset where
  since : Nat
  codePath : Bool
  mode : Nat := 0                  -- CH_STATUS.MODE before it
deriving DecidableEq, Repr

/-- A row that waits to be copied to a spare row (R441): the word whose hard fault asked for it (R200), none for a REPAIR. -/
structure CopyReq where
  bank : BankIx
  row : Nat
  word : Option Nat := none
deriving DecidableEq, Repr

/-- A row-spare map entry (R440, R442). -/
structure RSp where
  pc : Nat
  bank : BankIx
  row : Nat
  spare : Nat
  persist : Bool := false
deriving DecidableEq, Repr

/-- One channel sequencer with its queue, banks, codes, speculation and bundle. -/
structure Pc where
  ingress : List Job := []
  queue : List Job := []
  flights : List Flight := []
  rebuilds : List Rebuild := []
  banks : Sparse Bank := []
  hist : List Issued := []
  slotAt : Option Nat := none      -- time of its latest command slot
  fetched : List Job := []         -- finished reads that wait for nothing but delivery
  nrefs : List Nref := []
  nrefDue : List Row := []         -- neighbour refreshes to be issued at once: their banks are stalled (R158)
  suspect : List Row := []
  urgent : List Loc := []          -- words whose rows are queued for scrubbing at once (R210, R211)
  catcher : List Catch := []
  spares : Sparse Spare := []
  unrep : List Loc := []
  overRep : List Loc := []         -- words already reported this pass with the list full (R200)
  curd : List Curd := []
  targets : List Target := []
  tsv : Tsv := {}
  reset : Option BlockReset := none
  scrubbed : Nat := 0              -- rows of the walk that this scrubber has completed in the pass
  rows : List Row := []            -- rows queued by SCRUB_RANGE
  copies : List CopyReq := []      -- rows that wait to be copied to a spare (R441)
  bg : List Bg := []               -- background operations in the queue
  codeErr : Bool := false          -- the code path has failed: a block reset starts when the command ends (R164)
deriving DecidableEq, Repr

/-- A comet entry (R169), most recent first in the table. -/
structure Comet where
  port : Port
  session : Nat
  last : Nat
  stride : Int
  conf : Nat
  ahead : Nat
  size : Nat
deriving DecidableEq, Repr

/-! ## Host ports (chapters 3 and 4) -/

/-- What the transmission of a completion still changes (R120, R222, R223). -/
inductive Sent where
  | fresh (admitted : Bool)        -- not transmitted yet: its TAG is outstanding, and an admitted one counts in OUTST
  | again (sample : Bool)          -- transmitted before; `sample`: its latency sample has not been taken
deriving DecidableEq, Repr

/-- What waits to travel upstream on a group pair: a completion, or an event record. -/
inductive UpItem where
  | cpl (tag status : Nat) (xt : Option Nat) (corr : Bool) (payload : Option (List Byte))
      (session : Nat) (sent : Sent) (accAt : Nat)
  | event (bits : Nat)
  | linkctl (cmd lane : Nat)       -- a link-control command (R98)
deriving DecidableEq, Repr

/-- A sequenced flit of the stack, kept for replay (R86). -/
structure TxFlit where
  typ : Nat
  dv : Nat := 0
  seq : Nat
  hv : Nat := 0
  crRh : Nat := 0
  crWd : Nat := 0
  period : Nat
  body : Nat := 0
  items : List UpItem := []
deriving DecidableEq, Repr

/-- One group pair of a port. -/
structure Grp where
  e : Nat := 0                     -- expected number E (R87)
  taken : Bool := false            -- a flit has been accepted since the last start (R88)
  nak : Bool := false
  recov : Bool := false            -- the stack asks for recovery (R92)
  seq : Nat := 0                   -- SEQ of the next sequenced flit
  period : Nat := 0                -- own period counter (R70)
  rxPeriod : Nat := 0
  buf : List TxFlit := []          -- replay buffer, oldest first (R86)
  again : Nat := 0                 -- flits of the buffer still to be resent
  nakIn : Option Nat := none       -- ACK of a received NAK that has started no replay yet
  nakAck : Option Nat := none      -- ACK of the last replay started by a NAK
  replayAge : Nat := 64            -- periods since the last replay began
  idleAge : Nat := 0               -- periods without a release while flits are unacknowledged
  fromSeq : Nat := 0               -- oldest SEQ of the last replay
  fromCount : Nat := 0             -- consecutive replays from it
  hold : Sparse (List Nat) := []   -- raw data slots of received periods (R80)
  needs : List (Nat × Nat) := []   -- payload queue: place in port order, slots missing (R78)
  rh : Nat := 128                  -- RH credits the host holds
  wd : Nat := 256
  rhDue : Nat := 0                 -- credits to be returned (R84)
  wdDue : Nat := 0
  up : List UpItem := []
  slots : List (Nat × Option (Nat × Nat × Nat)) := [] -- payload slots waiting to be sent; the first of a read carries the
                                                -- session, acceptance time and TAG of its latency sample (R223)
  rxIdle : Bool := false
  txIdle : Bool := false
  ackOnly : Option Nat := none     -- periods sent with the current ACK since a resume made only to acknowledge (R506)
  rxAck : Bool := false            -- the host resumed and has sent no sequenced flit since (R506)
  quiet : Nat := 0                 -- quiet periods with the downstream idle (R507)
deriving DecidableEq, Repr

/-- A header accepted from a control flit, holding its place in port order (R129). -/
structure Hdr where
  pos : Nat
  g : Nat
  bits : Nat
  ext : Option Nat
  rh : Nat
  got : List Nat := []             -- payload slots bound
  wd : Nat := 0                    -- WD credits of these slots
  need : Nat := 0
  cutoff : Bool := false           -- its payload was cut off by a recovery (R93)
  accAt : Nat := 0
  orphan : Bool := false           -- executed without completion (R94, R110)
  reuse : Bool := false            -- its TAG was outstanding when it was accepted (R120)
deriving DecidableEq, Repr

/-- Where a port request stands. -/
inductive ReqSt where
  | data        -- payload slots missing (R81)
  | held        -- at the ingress of its PC
  | queued      -- in its PC queue
  | remote      -- served by a peer
  | waiting     -- a config access, doorbell or fence waiting for its order
  | performed   -- performed; its answer is still on the way
deriving DecidableEq, Repr

/-- A request of a port that is not yet performed (R129, R131). -/
structure Req where
  pos : Nat
  g : Nat
  tag : Nat
  op : Nat
  session : Nat := 0
  addr : Nat := 0
  len : Nat := 0
  be : Nat := 0
  data : List Byte := []
  value : Nat := 0
  st : ReqSt
  admitted : Bool := false
  accAt : Nat := 0
  rh : Nat := 0                    -- credits it takes with it when it leaves ingress
  wd : Nat := 0
  orphan : Bool := false           -- its pair was disabled: no completion, no tag (R94)
  dest : Option Nat := none        -- the peer link that serves it (R321); `none` is local memory or config space
  peer : Nat := 0                  -- its address on that peer
deriving DecidableEq, Repr

/-- A host port. -/
structure PortSt where
  grps : Sparse Grp := []
  hdrs : List Hdr := []
  reqs : List Req := []
  nextPos : Nat := 0
  events : List Nat := []          -- event records waiting for the lowest enabled group (R77)
  poor : Sparse Nat := []          -- consecutive poor measurements of a lane (R96)
  margins : Sparse Nat := []       -- latest margins of a lane: h * 64 + v
  switching : List (Nat × LaneKind × Nat) := []   -- lanes being spared (R96)
  retry : Bool := false            -- the last training reached T6 on no group (R101)
  silent : Option Nat := none      -- whole orbits without a good downstream flit; `none`: one came in this orbit (R109)
  periodAt : Option Nat := none
deriving DecidableEq, Repr

/-! ## Rings and mover (chapter 9) -/

/-- Why a descriptor stops short (R245, R251). -/
structure Stop where
  status : Nat
  addr : Nat := 0
  result : Nat := 0
  remote : Bool := false
deriving DecidableEq, Repr

/-- A granule of a descriptor that has been entered and not yet performed. -/
structure Gran where
  id : Nat
  off : Nat                        -- destination offset in bytes (element number for GATHER and SCATTER)
  len : Nat
  dst : Nat
  part : Nat := 0                  -- byte offset within the element
deriving DecidableEq, Repr

/-- Phases of a descriptor in progress. -/
inductive Phase where
  | waiting                        -- passed the fetch checks; not started
  | running                        -- started; a data or maintenance opcode holds an engine
  | ended                          -- completed, record not yet performed
deriving DecidableEq, Repr

/-- A descriptor in progress (R244). -/
structure Prog where
  idx : Nat
  bytes : List Byte
  phase : Phase := .waiting
  next : Nat := 0                  -- next destination offset (or element) to enter
  part : Nat := 0                  -- next part of the element
  grans : List Gran := []
  bufs : Sparse (List Byte) := []  -- data read for a granule whose write has not been entered: the rest of its element or a
                                   -- free TAG is waited for
  ids : Nat := 0                   -- granules entered so far
  idxs : Sparse Nat := []          -- indices read so far (GATHER, SCATTER); rows left to scrub (SCRUB_RANGE), by row index
  stop : Option Stop := none
  bads : List Nat := []            -- offsets whose granule failed (R251)
  status : Nat := 0
  result : Nat := 0
  linkErr : Bool := false
  others : List (Nat × Nat) := []  -- descriptors of other rings a FENCE waits for (R262)
  armed : Bool := false            -- a COMMIT taken, a SLEEP handshake begun, or a WAIT_ORBIT counting
  count : Nat := 0                 -- orbit boundaries left of a WAIT_ORBIT; 1 once an APPLY has asked for a row copy
  snap : Sparse Nat := []          -- TEL values captured by a SNAPSHOT
  highs : Sparse Nat := []         -- high halves captured by a SNAPSHOT
deriving DecidableEq, Repr

/-- A slot fetched ahead: its bytes once they have come, or the status that its fetch met (R241, R255). -/
structure Pre where
  idx : Nat
  bytes : Option (List Byte) := none
  failed : Option Nat := none
deriving DecidableEq, Repr

/-- A ring: slots fetched ahead from NEXT on, descriptors in progress, records that failed or are ahead of CONS. -/
structure Ring where
  pre : List Pre := []
  prog : List Prog := []
  failed : List Prog := []
  done : List (Nat × Bool) := []   -- records performed beyond CONS, with their NOTIFY flag
deriving DecidableEq, Repr

/-! ## What leaves the stack -/

/-- What the stack sent, drove or answered. -/
inductive Out where
  | flit (p : Port) (g : Nat) (bits : Nat) (slots : List Nat)
  | wakeHost (p : Port) (g : Nat)
  | tlpData (dws : List Nat) (poison : Bool)
  | tlpStatus (code : Nat)                    -- 1 Unsupported Request, 2 Completer Abort, 3 Retry Status
  | aer (code : Nat)                          -- an error report under AER: 1 Unsupported Request, 2 Completer Abort
  | hostWrite (addr : Nat) (bytes : List Byte)
  | hostRead (addr len : Nat)
  | msix (vector : Nat)
  | pair (l : Link) (lane : Nat) (levels : List Level)
  | tone (l : Link)
  | jtag (bits : Nat) (width : Nat)
  | value (v : Nat)                           -- value returned by a register read
deriving DecidableEq, Repr

/-- A fault raised by the command in hand, with what its log entry captures at the raise (R469). -/
structure Raised where
  source : Nat
  info : Nat
  injected : Bool := false
  sev : Nat
  orbit : Nat
  nvalid : Bool
deriving DecidableEq, Repr

/-! ## Service port (chapter 13) -/

/-- A BAR2 request under way, with what its completions will carry (R339, R340). Its granules take the `count` places
from `id` up in the service port's order. -/
structure Tlp where
  id : Nat
  count : Nat
  wr : Bool
  addr : Nat                       -- user address of its first byte
  len : Nat
  left : Nat                       -- granules not yet answered
  got : Sparse Nat := []           -- words returned, by user address div 32
  bads : List Nat := []            -- user addresses of words that could not be recovered
  abort : Bool := false
deriving DecidableEq, Repr

/-- The service port beyond its register fields. -/
structure SvcSt where
  reqs : List Req := []            -- accesses in order, not yet performed (R341)
  nextPos : Nat := 0
  tlps : List Tlp := []
  table : Sparse Nat := []         -- MSI-X table, by DW; vector control DWs reset to 1
  pba : Nat := 0                   -- MSI-X pending bits
  msixOn : Bool := false           -- MSI-X Enable
  msixMask : Bool := false         -- Function Mask
  cfg : Sparse Nat := []           -- configuration header registers written by the service host
deriving DecidableEq, Repr

/-! ## Peer links and mirror regions (chapters 11 and 12) -/

/-- What an outstanding operation of a link is for (R317). -/
inductive OpKind where
  | rdPort (p : Port) (pos : Nat)
  | wrPort (p : Port) (pos : Nat)
  | rdDesc (r i off : Nat)
  | wrDesc (r i off : Nat)
  | mirror (region : Nat) (holder : Option Who)
  | resync (region : Nat)
deriving DecidableEq, Repr

/-- An operation named by a TAG. -/
structure LinkOp where
  tag : Nat
  kind : OpKind
  addr : Nat                       -- the peer's address
  loc : Nat := 0                   -- local address, for mirror operations
  len : Nat
  sent : Nat := 0                  -- orbit boundaries passed when it was sent
  dead : Bool := false             -- ended by timeout: its TAG waits for a late CPL (R323)
deriving DecidableEq, Repr

/-- A frame of a link: a control body, or a data header body with its payload words. -/
inductive Frame where
  | ctl (body : Nat)
  | data (body : Nat) (words : List Nat)
deriving DecidableEq, Repr

/-- A sequenced control frame kept for replay (R316). -/
structure CFrame where
  cseq : Nat
  body : Nat
deriving DecidableEq, Repr

/-- A request from the peer that is not yet answered (R322): a read, a write or a mirror write. -/
structure InOp where
  id : Nat
  tag : Nat
  rd : Bool
  addr : Nat
  len : Nat
  left : Nat
  mirror : Bool := false
  derr : Bool := false
  status : Nat := 0
  got : Sparse Nat := []
  bads : List Nat := []
deriving DecidableEq, Repr

/-- A peer link beyond its register fields. -/
structure LinkSt where
  ops : List LinkOp := []
  ins : List InOp := []
  nextIn : Nat := 0
  cseq : Nat := 0                  -- next CSEQ
  ce : Nat := 0                    -- CSEQ expected
  ctaken : Bool := false
  cnak : Bool := false
  cbuf : List CFrame := []         -- sent and not acknowledged, oldest first
  again : List CFrame := []        -- frames of a replay still to be resent
  nakIn : Bool := false            -- a CNAK has come that has started no replay yet
  fromSeq : Nat := 0
  fromCount : Nat := 0
  tx : List Frame := []            -- frames waiting for a burst; a sequenced one takes its CSEQ when it is sent
  rx : List (Frame × Bool) := []   -- frames entered and not yet acted on; true: from a FAILED pair
  aborts : Sparse Nat := []        -- consecutive bursts aborted by a lane (R306)
  rxDead : Bool := false           -- the latest burst received was aborted
  rxAt : Option Nat := none        -- when the latest pair of a burst came
  trained : Bool := false          -- coefficients of a training are held (R310)
  idAge : Nat := 0                 -- boundaries since the last ID_BEACON (R333)
  sentOrbit : Option Nat := none   -- number sent in the latest ID_BEACON
  sentDig : Option (Nat × Nat) := none   -- digest sent and its boundary (R288)
  idSeen : Bool := false           -- an ID_BEACON has come since the link went UP
  roles : Nat := 0                 -- ROLES of the latest ID_BEACON (R332)
deriving DecidableEq, Repr

/-- A write performed here whose mirror frames are unanswered: how it will complete (R327). -/
structure MirWait where
  who : Who
  status : Nat
  bad : Option Nat                 -- the lowest word that it left poisoned (R127)
  len : Nat
deriving DecidableEq, Repr

/-- A mirror region beyond its register fields. -/
structure Mir where
  dirty : List (Nat × Nat) := []   -- dirty granules, as rising ranges from (including) to (excluding)
  retry : Bool := true             -- a JOIN is due
  walk : Option (Nat × Nat) := none -- the granule being resent, and its next line
  stale : Bool := false            -- the cellar's bitmap is to be written (R329)
deriving DecidableEq, Repr

/-! ## Dies (chapter 2) -/

/-- Where a die stands in its eclipse (R44, R151). -/
inductive EclSt where
  | quiet | cut | lead | refresh
deriving DecidableEq, Repr

/-- A core die as the retention sequencer and the channel sequencers see it. -/
structure Die where
  st : EclSt := .quiet
  catchup : Bool := false          -- the eclipse under way is a catch-up
  transit : Bool := false          -- in its transit (R48)
  debt : Nat := 0                  -- refresh debt in rows (R58)
  row : Nat := 0                   -- refresh counter r (R47)
  leadAt : Option Nat := none      -- when the flush lead begins
  ecl : Option Nat := none         -- boundary count of the orbit of its latest scheduled eclipse (R44)
  hot : Bool := false              -- the eclipse under way has the hot form (R44, R46)
deriving DecidableEq, Repr

/-! ## Clocks (chapter 14) -/

/-- The XTAL monitor, the event crossings and the clock gates beyond their register fields. -/
structure Clk where
  trip : Bool := false             -- an amplitude trip latched before arming (R352)
  seen : Nat := 0                  -- windows since arming, while the latched trip is judged (R354)
  total : Nat := 0                 -- XTAL cycles of the unbroken clean run (R355)
  bads : Nat := 0                  -- consecutive bad windows
  cleans : Nat := 0                -- consecutive clean windows since the last bad one (R359)
  attempt : Nat := 0               -- failed attempts of the start (R356)
  ampOff : Bool := false           -- the amplifier is off between attempts
  trimmed : Bool := false          -- the TRO trim word has been applied
  coarse : Bool := false           -- the TRO trim word failed: COARSE stays (R353)
  asked : List Nat := []           -- domains whose gate closure has been requested (R368)
  gated : List Nat := []           -- domains whose gate is closed
deriving DecidableEq, Repr

/-! ## Orbit (chapter 2) -/

/-- A marker carried by a peer link (R331): where it is placed, and what its BEAT frame said. -/
structure Carried where
  time : Nat                       -- when the marker falls
  k : Nat                          -- frame bit index
  val : Option Bool                -- frame bit; `none` is INVALID
  hop : Nat
  origin : Nat
deriving DecidableEq, Repr

/-- The orbit logic beyond its register fields. -/
structure Orb where
  run : Bool := false              -- the orbit logic runs (R62)
  period : Nat := 3906250          -- length of an orbit by the phase PLL, in ps (R40, R51)
  markAt : Option Nat := none      -- when the latest marker fell, if it opened this orbit or the one before
  seen : Bool := false             -- this orbit's marker has come or counts as missing (R34)
  missed : Nat := 0                -- consecutive missing markers (R35)
  synced : Bool := false           -- the latest frame was accepted, so that the next one's start is known
  align : Option Nat := none       -- boundary count modulo 64 at which frames end, from the latest accepted frame
  frame : List (Option Bool) := [] -- bits of the latest 64 markers, oldest first; `none` is missing or invalid
  diff : Option Nat := none        -- difference recorded by the last disagreeing frame (R38)
  step : Option Nat := none        -- difference by which the number steps at the next boundary (R38)
  runs : Sparse (List Int) := []   -- by source: the run of edges towards a lock or a rejoin (R42, R52), latest first, each
                                   -- in phases from boundary 0
  slew : Int := 0                  -- phases still to slew
  cut : Bool := false              -- the orbit ends at the next marker (R42, R52)
  cutAt : Nat := 0                 -- when that marker is due
  first : Bool := false            -- the next accepted frame is the first after a sleep (R63)
  wakeBnd : Option Nat := none     -- boundaries passed when the latest sleep ended (R42, R385)
  source : Nat := 0                -- source in use: 0 beat, 1 link 0, 2 link 1, 3 free
  sourceAt : Nat := 0              -- source in use at sleep entry (R64)
  hop : Nat := 0                   -- hop count of the borrowed beat
  origin : Nat := 0                -- origin identity of the borrowed beat
  carried : Sparse (List Carried) := [] -- by link: the latest eligible markers it carries, latest first (R56)
deriving DecidableEq, Repr

/-! ## Power (chapter 15) -/

/-- An entry handshake under way (R379). -/
structure EntryReq where
  target : Nat                     -- 1 DROWSE, 2 HIBERNATE, 3 CRESCENT
  desc : Option (Nat × Nat) := none -- the SLEEP that asked
  keep : Nat := 0                  -- dies to retain
  accepted : List EntryBlock := []
  delayed : List EntryBlock := []
deriving DecidableEq, Repr

/-- A commit taken and not yet ended (R280). -/
structure CommitSt where
  orbit : Nat
  judged : Bool                    -- judged against a valid number (R281)
  due : Bool := false              -- acts at the next boundary
  desc : Option (Nat × Nat) := none
  by_ : Nat                        -- the master that took it
deriving DecidableEq, Repr

/-! ## Fuses (chapter 18) -/

/-- An OTP word: the data it was programmed with, and bits set besides those of its codeword (R419). -/
structure FuseWord where
  data : Option Nat := none        -- `none`: nothing programmed
  extra : List Nat := []           -- single bits set on the JTAG path, beyond the codeword
  partly : Bool := false           -- programming of the word was not completed (R433)
deriving DecidableEq, Repr

/-- What a FUSE_PROGRAM or a persisting REPAIR asks of the fuses (R434, R443). -/
inductive FuseReq where
  | word (n data : Nat)
  | seal (region : Nat)
  | lock (region : Nat) (read : Bool)
  | records (all : Bool) (data : List Nat)
deriving DecidableEq, Repr

/-- A fuse operation under way (R432): the word being programmed, the records that follow it, and who asked. -/
structure FuseOp where
  word : Nat
  data : Nat
  desc : Nat × Nat
  repair : Bool := false           -- asked by a REPAIR, and not by a FUSE_PROGRAM
  all : Bool := false              -- asked by PERSIST_ALL
  more : List Nat := []            -- records still to be written (PERSIST_ALL)
  done : Nat := 0                  -- records written
deriving DecidableEq, Repr

/-! ## Self-test (chapter 19) -/

/-- A field BIST slice: its kind (R451) and target. -/
structure Slice where
  kind : Nat
  pc : Nat
  group : Nat := 0
  die : Nat := 0
  bank : Nat := 0
  row : Nat := 0                   -- row of the spare and reserved sub-array
  budget : Nat := 1                -- B in 0.5 us (R450, R455)
  desc : Option (Nat × Nat) := none -- the TEST_SLICE that asked
deriving DecidableEq, Repr

/-- A calibrated trim (R458, R459). The stress gauge of a PC is kept in the same form (R461). -/
structure Trim where
  cur : Int
  target : Int
  base : Option Int := none        -- last agreeing TSV_DELAY result of a TSV lane (R461)
  gaugeAt : Int := 0               -- gauge reading of the PC when it was taken
  bads : Nat := 0                  -- consecutive discarded pairs
  held : Bool := false
deriving DecidableEq, Repr

/-- A spare row of a PC withdrawn from use (R440, R446). -/
structure DeadSpare where
  pc : Nat
  bank : BankIx
  spare : Nat
deriving DecidableEq, Repr


/-- Everything the stack holds but the array and the command queue. -/
structure Ctl where
  now : Nat := 0                              -- time in ps
  free : Nat := 0                             -- counter of free values
  power : Power := .porHeld
  present : Option Bool := none               -- PRESENT_A and PRESENT_B as driven; none: they float (R103)
  flds : Sparse Nat := []                     -- register fields that differ from reset
  staged : Sparse Nat := []                   -- shadows of setup registers that differ from active (R277)
  sesPend : List Nat := []                    -- contexts marked pending (R216)
  caps : Sparse Nat := []                     -- high halves captured by a low read, per master (R364)
  pcs : Sparse Pc := []
  pa : PortSt := {}
  pb : PortSt := {}
  comets : List Comet := []
  rings : Sparse Ring := []
  engines : Sparse (Nat × Nat) := []          -- engine ↦ ring and descriptor
  rrRing : Nat := 0                           -- last ring given an engine (R244)
  edits : List Edit := []                     -- array changes of the command in hand
  raised : List Raised := []                  -- faults of the command in hand
  out : List Out := []                        -- what the latest command sent
  svc : SvcSt := {}
  tel : Sparse Nat := []                      -- live counts behind the TEL registers (R484), in register order
  qmax : Nat × Nat := (0, 0)                  -- highest queue level of the orbit, and its PC
  rmap : List RSp := []                       -- row-spare map, entry 0 first (R442)
  deadSpares : List DeadSpare := []           -- spare rows that failed (R440, R446)
  badReserved : List DeadSpare := []          -- reserved rows that failed a field march (R454)
  held : List (Raised × Option Nat) := []     -- faults whose reactions are held until TRAINING (R402), with their
                                              -- log index where the pending bit was clear
  scrubBnd : Nat := 0                         -- boundaries passed when the scrub pass began (R206)
  ovfNext : Nat := 0                          -- next slot of the fault-log overflow area (R471)
  cellarOk : Bool := false                    -- may the cellar be written (R471)?
  ovfRead : Bool := false                     -- a read of an overflow entry is under way
  links : Sparse LinkSt := []                 -- peer links 0 and 1
  mirs : Sparse Mir := []                     -- mirror regions
  mirWait : List MirWait := []                -- writes performed here whose mirror frames are unanswered
  bnd : Nat := 0                              -- orbit boundaries passed
  dies : Sparse Die := []
  acts : Sparse Nat := []                     -- activations of a row since its last refresh, by row index (R156)
  orbitAt : Nat := 0                          -- when the current orbit began
  pace : Nat := 0                             -- share of slots withheld by pacing, in 1/1024 (R376)
  clk : Clk := {}
  orb : Orb := {}
  entry : Option EntryReq := none             -- the handshake under way
  idle : Nat := 0                             -- consecutive orbits idle for Drowse (R383)
  worked : Bool := false                      -- work has come in this orbit, so that it is not idle (R383)
  wakeHeld : Option WakeSource := none        -- a wake that came at or after the entry point (R382)
  image : Option Nat := none                  -- CRC-32C of the session table saved to the cellar (R399)
  overs : Nat := 0                            -- consecutive VIN measurements above I_now (R376)
  lost : Nat := 0                             -- dies whose contents were lost since the last reset or sleep (R394)
  resetLow : Bool := false                    -- RESET_N is low
  vinBad : Bool := false                      -- VIN outside its range (R496)
  vphyBad : Bool := false                     -- VPHY outside its range (R496)
  stepAge : Option Nat := none                -- boundaries since k last changed (R415)
  warmAge : Nat := 0                          -- boundaries since a sample at or above THROTTLE - 3 degC
  cutOff : Bool := false                      -- the cut of R418 has happened
  shut : Bool := false                        -- QUARANTINE was entered by a thermal shutdown (R417)
  sampleAge : Nat := 0                        -- boundaries since the last sample
  fuse : Sparse FuseWord := []                -- OTP words that differ from the shipped ones
  fuseSeen : Sparse FuseWord := []            -- the same words as the last sense or verify found them
  fuseOp : Option FuseOp := none
  fuseWait : List (FuseReq × (Nat × Nat)) := [] -- later fuse operations and who asked (R432)
  lease : Nat := 0                            -- boundaries left of the lease (R272)
  absent : Nat := 0                           -- boundaries with both host ports absent (R274)
  longAbsent : Bool := false                  -- the absence has lasted a full lease (R274)
  commit : Option CommitSt := none
  commitWait : List CommitSt := []            -- COMMIT descriptors waiting to be taken (R280)
  digestNew : Nat := 0                        -- digest being put in place (R287)
  bistNext : Nat := 0                         -- next unit of SELFTEST (R444)
  bistShort : Bool := false                   -- SELFTEST after a chip reset: units 0 to 2 (R447)
  bistFatal : Bool := false                   -- an element of R446 sends the stack to QUARANTINE
  deadEngines : List Nat := []                -- mover engines not used (R446)
  deadUnits : List Nat := []                  -- units that stay DOWN: 0 PA, 1 PB, 2 PL0, 3 PL1, 4 service (R446)
  cycles : Nat := 0                           -- power-on resets: baselines are taken once in each (R445)
  sliceNo : Nat := 0                          -- automatic slices since the commit that last set BIST_CFG (R450)
  sliceDue : List Slice := []                 -- slices waiting for their transit
  sliceBnd : Nat := 0                         -- boundaries passed when the latest slice came due (R450)
  slices : List Slice := []                   -- slices under way, at most one for a PC
  march : Sparse Nat := []                    -- next march of each PC (R450), and of each bank for TEST_SLICE: 6 * target + element
  trims : Sparse Trim := []                   -- calibrated trims, by kind and index
  factoryReq : Bool := false                  -- FACTORY_REQ latched (R456)
deriving DecidableEq, Repr

/-- The state: the waiting commands, the array and the rest. -/
structure State where
  pending : List Instr := []
  arr : Arr := {}
  ctl : Ctl := {}
deriving DecidableEq, Repr

/-- Why a step stops for good. No command of this part faults: the manual describes what every abnormal condition
does, and the model does it. -/
inductive Fault where
  /-- Never raised; kept so that the type has a name for a stop. Safe. -/
  | none
deriving DecidableEq, Repr

/-- Why a command has no meaning. -/
inductive Refusal where
  /-- A command that the model does not give a meaning. Safe. -/
  | notModelled (mnemonic : String)
  /-- Raised by a command whose operands do not have the form the part's interface can deliver (a list of the
  wrong length): no such command can reach the part. Safe. -/
  | illFormed (mnemonic : String)
deriving DecidableEq, Repr

/-- The state right after reset: VAON is valid and the start-up timer holds power-on reset; every field holds its
reset value, every queue is empty and the array lists nothing. -/
def State.reset : State := {}

end Sys2Proof.Machine
end

