-- ==== Sys2Proof/Machine/Ops.lean ====
section
/-!
DEFINITION. The named operations over the state: register fields, the array, addresses, per-unit tables, and
`run`, the one way a command changes the state.
-/

/-- Put an element ahead of the first one that it may precede. -/
def List.insertSorted {α : Type} (le : α → α → Bool) (x : α) : List α → List α
  | [] => [x]
  | y :: r => if le x y then x :: y :: r else y :: List.insertSorted le x r

/-- Sort a list, keeping the order of equals. -/
def List.sorted {α : Type} (l : List α) (le : α → α → Bool) : List α :=
  l.foldr (fun x acc => List.insertSorted le x acc) []

namespace Sys2Proof.Machine

/-! ## Register fields -/

/-- The key of a field copy in the field table. -/
def fkey (f : Fld) (i : Nat) : Nat := f.id * 1048576 + i

/-- The value of a field (the active value, for a setup register). -/
def Ctl.get (m : Ctl) (f : Fld) (i : Nat := 0) : Nat := Sparse.getD m.flds (fkey f i) (f.reset i)

/-- Is a one-bit field 1? -/
def Ctl.is (m : Ctl) (f : Fld) (i : Nat := 0) : Bool := m.get f i != 0

/-- Write a field; bits beyond its width are lost. -/
def Ctl.set (m : Ctl) (f : Fld) (i v : Nat) : Ctl :=
  { m with flds := Sparse.setD m.flds (fkey f i) (v % 2 ^ f.width) (f.reset i) }

/-- Set a field of a register that has one copy. -/
def Ctl.put (m : Ctl) (f : Fld) (v : Nat) : Ctl := m.set f 0 v

/-- Add to a saturating counter. -/
def Ctl.bump (m : Ctl) (f : Fld) (i : Nat := 0) (n : Nat := 1) : Ctl :=
  m.set f i (min (m.get f i + n) (2 ^ f.width - 1))

/-- Return a field to its reset value. -/
def Ctl.clear (m : Ctl) (f : Fld) (i : Nat := 0) : Ctl := { m with flds := Sparse.del m.flds (fkey f i) }

/-- The shadow of a setup field (R277). -/
def Ctl.shadow (m : Ctl) (f : Fld) (i : Nat := 0) : Nat := Sparse.getD m.staged (fkey f i) (m.get f i)

/-- Write a shadow. A shadow that equals its active value is not listed. -/
def Ctl.stage (m : Ctl) (f : Fld) (i v : Nat) : Ctl :=
  { m with staged := Sparse.setD m.staged (fkey f i) (v % 2 ^ f.width) (m.get f i) }

/-- The field whose copies hold a key of the table. -/
def fldOf (k : Nat) : Option Fld := fldList[k / 1048576]?

/-- Keep the fields whose retention class passes a test; the others return to reset. -/
def Ctl.retain (m : Ctl) (f : Kept → Bool) : Ctl :=
  { m with flds := m.flds.filter fun e => match fldOf e.1 with | some g => f g.kept | none => false }

/-- Return to reset the copies `lo ≤ i < hi` of a field. -/
def Ctl.clearRange (m : Ctl) (f : Fld) (lo hi : Nat) : Ctl :=
  { m with flds := m.flds.filter fun e => !(decide (fkey f lo ≤ e.1) && decide (e.1 < fkey f hi)) }

/-! ## Small helpers -/

/-- Bits `lo` to `lo + n - 1` of a number. -/
def bits (v lo n : Nat) : Nat := (v >>> lo) % 2 ^ n

/-- Bit `i` of a number, as a test. -/
def bit (v i : Nat) : Bool := v.testBit i

/-- A one-bit number. -/
def b2n (b : Bool) : Nat := if b then 1 else 0

/-- Little-endian number of a byte list (R3). -/
def leNat : List Byte → Nat
  | [] => 0
  | b :: r => b.toNat + 256 * leNat r

/-- The low `n` bytes of a number, least significant first. -/
def leBytes : Nat → Nat → List Byte
  | 0, _ => []
  | n + 1, v => BitVec.ofNat 8 v :: leBytes n (v / 256)

/-- Insert or replace the entry that satisfies a test. -/
def upsert {α : Type} (l : List α) (t : α → Bool) (v : α) : List α :=
  if l.any t then l.map fun x => if t x then v else x else l ++ [v]

/-- Take the first entry that satisfies a test out of a list. -/
def takeFirst {α : Type} (t : α → Bool) : List α → Option (α × List α)
  | [] => none
  | x :: r => if t x then some (x, r) else (takeFirst t r).map fun y => (y.1, x :: y.2)

/-- Apply a function to the first entry that satisfies a test. -/
def modFirst {α : Type} (t : α → Bool) (f : α → α) : List α → List α
  | [] => []
  | x :: r => if t x then f x :: r else x :: modFirst t f r

/-! ## Units -/

/-- A host port. -/
def Ctl.port (m : Ctl) : Port → PortSt
  | .a => m.pa
  | .b => m.pb

/-- Replace a host port. -/
def Ctl.setPort (m : Ctl) (p : Port) (x : PortSt) : Ctl :=
  match p with
  | .a => { m with pa := x }
  | .b => { m with pb := x }

/-- A group pair. -/
def PortSt.grp (x : PortSt) (g : Nat) : Grp := Sparse.getD x.grps g {}

/-- Replace a group pair. -/
def PortSt.setGrp (x : PortSt) (g : Nat) (v : Grp) : PortSt := { x with grps := Sparse.setD x.grps g v {} }

/-- A group pair of a port. -/
def Ctl.grp (m : Ctl) (p : Port) (g : Nat) : Grp := (m.port p).grp g

/-- Change a group pair of a port. -/
def Ctl.modGrp (m : Ctl) (p : Port) (g : Nat) (f : Grp → Grp) : Ctl :=
  m.setPort p ((m.port p).setGrp g (f (m.grp p g)))

/-- Change a port. -/
def Ctl.modPort (m : Ctl) (p : Port) (f : PortSt → PortSt) : Ctl := m.setPort p (f (m.port p))

/-- A PC. -/
def Ctl.pc (m : Ctl) (i : Nat) : Pc := Sparse.getD m.pcs i {}

/-- Replace a PC. -/
def Ctl.setPc (m : Ctl) (i : Nat) (x : Pc) : Ctl := { m with pcs := Sparse.setD m.pcs i x {} }

/-- Change a PC. -/
def Ctl.modPc (m : Ctl) (i : Nat) (f : Pc → Pc) : Ctl := m.setPc i (f (m.pc i))

/-- A bank of a PC. -/
def Pc.bank (x : Pc) (b : BankIx) : Bank := Sparse.getD x.banks b {}

/-- Replace a bank of a PC. -/
def Pc.setBank (x : Pc) (b : BankIx) (v : Bank) : Pc := { x with banks := Sparse.setD x.banks b v {} }

/-- A ring. -/
def Ctl.ring (m : Ctl) (r : Nat) : Ring := Sparse.getD m.rings r {}

/-- Replace a ring. -/
def Ctl.setRing (m : Ctl) (r : Nat) (x : Ring) : Ctl := { m with rings := Sparse.setD m.rings r x {} }

/-- Change a ring. -/
def Ctl.modRing (m : Ctl) (r : Nat) (f : Ring → Ring) : Ctl := m.setRing r (f (m.ring r))

/-- Record what leaves the stack. -/
def Ctl.emit (m : Ctl) (o : Out) : Ctl := { m with out := m.out ++ [o] }

/-- Add an array change. -/
def Ctl.edit (m : Ctl) (e : Edit) : Ctl := { m with edits := m.edits ++ [e] }

/-- The mode (R377). -/
def Ctl.mode (m : Ctl) : Nat := m.get F.GL_MODE_STATE

/-- Is the stack in one of the modes listed? -/
def Ctl.inMode (m : Ctl) (l : List Mode) : Bool :=
  m.power = .run && l.any fun x => x.code == m.mode

/-- Enter a mode; `GL_MODE.PREV` keeps the one left. -/
def Ctl.setMode (m : Ctl) (x : Mode) : Ctl := (m.put F.GL_MODE_PREV m.mode).put F.GL_MODE_STATE x.code

/-- Has the part power-on reset released? -/
def Ctl.alive (m : Ctl) : Bool := m.power = .run

/-- The length of a command slot in ps (R137): the speed bin is in `GL_ID.BIN`. -/
def Ctl.slotPs (m : Ctl) : Nat := if m.get F.GL_ID_BIN = 0 then 1000 else 1250

/-- `ORB_STATUS.NUMBER_VALID`. -/
def Ctl.numValid (m : Ctl) : Bool := m.is F.ORB_STATUS_NUMBER_VALID

/-- The current orbit number. -/
def Ctl.orbit (m : Ctl) : Nat := m.get F.ORB_NOW

/-- Judge a target orbit against the current one (R61). -/
inductive OrbitJudge where
  | current | future | past
deriving DecidableEq, Repr

/-- The comparison of R61. -/
def judgeOrbit (n now : Nat) : OrbitJudge :=
  let d := (n + 281474976710656 - now % 281474976710656) % 281474976710656
  if d = 0 then .current else if d < 140737488355328 then .future else .past

/-- The master that owns the stack, as `SEM_OWNER.OWNER` codes it. -/
def Ctl.owner (m : Ctl) : Nat := m.get F.SEM_OWNER_OWNER

/-! ## The array -/

/-- Index of a physical row (R10): PC, bank (die * 16 + bank), row. -/
def rowIx (pc : Nat) (b : BankIx) (row : Nat) : Nat := ((b / 16 * 64 + pc) * 16 + b % 16) * 8272 + row

/-- Physical address of the first byte of a slot of 32 B in a row (R11): words 0-31, P0 at 34, P1 at 35. -/
def slotAddr (pc : Nat) (b : BankIx) (row slot : Nat) : Nat := rowIx pc b row * 1152 + 32 * slot

/-- Key of a physical word. -/
def wordIx (pc : Nat) (b : BankIx) (row slot : Nat) : Nat := rowIx pc b row * 36 + slot

/-- A session context at reset as the 32 B word that a save stores (R3, R215): LIMIT is 4095 in its active and its staged copy. -/
def ctxReset : Nat := 0x0FFF0000 + 0x0FFF0000 * 2 ^ 64

/-- P0 and P1 of a row of reset contexts, which are equal (R189). -/
def ctxPage : Nat := 0x188500000000000018850000

/-- Is a row, by its index, one of the session-table save (R20, R509): reserved rows 0 to 7 of die 0? -/
def imageRow (k : Nat) : Bool := decide (k < 1024 * 8272) && decide (8208 ≤ k % 8272) && decide (k % 8272 < 8216)

/-- The byte at a physical address of a saved table of reset contexts; 0 elsewhere. -/
def imageByte (addr : Nat) : Byte :=
  let o := addr % 1152
  if !imageRow (addr / 1152) then 0
  else if o < 1024 then BitVec.ofNat 8 (ctxReset >>> (8 * (o % 32)))
  else if 1088 ≤ o then BitVec.ofNat 8 (ctxPage >>> (8 * (o % 32)))
  else 0

/-- What an unlisted byte of the array reads as. -/
def Arr.bg (a : Arr) (addr : Nat) : Byte := if a.image then imageByte addr else 0

/-- Drop the cells below an address. -/
def dropBelow (addr : Nat) : List Host.Cell → List Host.Cell
  | [] => []
  | c :: r => if c.1 < addr then dropBelow addr r else c :: r

/-- Read `n` bytes from an address up, out of cells none of which lies below it. -/
def Arr.collect (a : Arr) : Nat → Nat → List Host.Cell → List Byte
  | 0, _, _ => []
  | n + 1, x, [] => a.bg x :: a.collect n (x + 1) []
  | n + 1, x, c :: r => if c.1 = x then c.2 :: a.collect n (x + 1) r else a.bg x :: a.collect n (x + 1) (c :: r)

/-- Read `n` bytes of the array from a physical address. -/
def Arr.read (a : Arr) (addr n : Nat) : List Byte := a.collect n addr (dropBelow addr a.mem)

/-- One byte of the array. -/
def Arr.byte (a : Arr) (addr : Nat) : Byte := Sparse.getD a.mem addr (a.bg addr)

/-- Store one byte. -/
def Arr.setByte (a : Arr) (addr : Nat) (v : Byte) : Arr := { a with mem := Sparse.setD a.mem addr v (a.bg addr) }

/-- Store bytes from an address up. -/
def Arr.setBytes (a : Arr) (addr : Nat) : List Byte → Arr
  | [] => a
  | b :: r => Arr.setBytes (a.setByte addr b) (addr + 1) r

/-- Keep what is listed of the rows that pass a test. -/
def Arr.keepRows (a : Arr) (f : Nat → Bool) (image : Bool) : Arr :=
  { mem := a.mem.filter fun c => f (c.1 / 1152), errs := a.errs.filter fun c => f (c.1 / 36),
    marks := a.marks.filter fun c => f (c.1 / 36), image := image }

/-- Rows return to zeros and valid codes. A save that is wiped as a whole is gone; rows wiped out of one are listed as zeros. -/
def Arr.wipe (a : Arr) (lo hi : Nat) : Arr :=
  let image := a.image && !(lo == 0 && decide (1024 * 8272 ≤ hi))
  let b := a.keepRows (fun k => decide (k < lo) || decide (hi ≤ k)) image
  if image then
    (((List.range (hi - lo)).map (· + lo)).filter imageRow).foldl
      (fun b k => b.setBytes (k * 1152) (List.replicate 1152 (0 : Byte))) b
  else b

/-- Apply one change to the array. -/
def Arr.apply (a : Arr) : Edit → Arr
  | .bytes addr bs => a.setBytes addr bs
  | .word w err => { a with errs := Sparse.setD a.errs w err 0 }
  | .mark w b => { a with marks := Sparse.setD a.marks w b false }
  | .wipe lo hi => a.wipe lo hi
  | .image => a.keepRows (fun k => !imageRow k) true

/-- Apply changes in order. -/
def Arr.applyAll (a : Arr) (l : List Edit) : Arr := l.foldl Arr.apply a

/-- The canonical form of the array: each of its tables lists rising keys, and nothing that an unlisted key reads as. -/
def Memory.wf (a : Arr) : Bool :=
  Sparse.rising a.mem && (a.mem.all fun c => decide (c.2 ≠ a.bg c.1)) && Sparse.wf a.errs 0 && Sparse.wf a.marks false

/-- The array as it stands within a command. -/
def Ctl.see (m : Ctl) (a : Arr) : Arr := a.applyAll m.edits

/-- A word as a column read captures it. -/
def Arr.raw (a : Arr) (pc : Nat) (b : BankIx) (row slot : Nat) : Raw :=
  { data := leNat (a.read (slotAddr pc b row slot) 32)
    err := Sparse.getD a.errs (wordIx pc b row slot) 0
    mark := Sparse.getD a.marks (wordIx pc b row slot) false }

/-- The changes that store a word with its light code (an exchange-write of a word, R145). -/
def wordEdits (pc : Nat) (b : BankIx) (row slot data : Nat) : List Edit :=
  [.bytes (slotAddr pc b row slot) (leBytes 32 data), .word (wordIx pc b row slot) 0,
   .mark (wordIx pc b row slot) false]

/-- Store a word. -/
def Ctl.storeWord (m : Ctl) (pc : Nat) (b : BankIx) (row slot data : Nat) : Ctl :=
  { m with edits := m.edits ++ wordEdits pc b row slot data }

/-- The changes that a flip of cells makes. Slots 34 and 35 hold P0 and P1, which carry no light code (R190); slots 32 and
33 hold the light codes of the words (R11), whose flips the words' own patterns name. -/
def flipEdits (a : Arr) (w : Nat) (e : BitVec 272) : List Edit :=
  if 16 * 64 * 16 * 8272 ≤ w / 36 || w % 36 = 32 || w % 36 = 33 then []
  else if w % 36 < 32 then [.word w (Sparse.getD a.errs w 0 ^^^ e)]
  else
    let addr := w / 36 * 1152 + 32 * (w % 36)
    [.bytes addr (leBytes 32 (leNat (a.read addr 32) ^^^ (e.toNat % 2 ^ 256)))]

/-- Let one upset happen. -/
def Ctl.upset (m : Ctl) (a : Arr) : Upset → Ctl
  | .cell w e => { m with edits := m.edits ++ flipEdits (m.see a) w e }
  | .entry pc b dw e =>
    m.modPc pc.val fun x =>
      let k := x.bank b.val
      if k.pce.st = .invalid && !k.pce.loading then x
      else x.setBank b.val { k with pce := { k.pce with err := Sparse.setD k.pce.err dw.val (Sparse.getD k.pce.err dw.val 0 ^^^ e) 0 } }
  | .spare pc i e =>
    m.modPc pc.val fun x =>
      match Sparse.find x.spares i.val with
      | some s => { x with spares := Sparse.put x.spares i.val { s with err := s.err ^^^ e } }
      | none => x
  | .path pc => m.modPc pc.val fun x => { x with codeErr := true }

/-- Let the upsets of a command happen. -/
def Ctl.noise (m : Ctl) (a : Arr) (n : Noise) : Ctl := n.foldl (fun m u => m.upset a u) m

/-! ## Addresses -/

/-- Where a user address lies (R22, R23). -/
structure Place where
  pc : Nat
  bank : BankIx
  row : Nat                        -- user row
  word : Nat                       -- word in the page
  byte : Nat                       -- byte in the word
deriving DecidableEq, Repr

/-- Map an address under LINEAR (`hash` false) or HASHED. -/
def place (hash : Bool) (a : Nat) : Place :=
  let x := fun i => b2n (bit a i)
  let bk := if hash then (x 16 + x 20 + x 24) % 2 + 2 * ((x 17 + x 21) % 2) else bits a 16 2
  let bg := if hash then (x 18 + x 22) % 2 + 2 * ((x 19 + x 23 + x 24) % 2) else bits a 18 2
  { pc := bits a 8 6, bank := bits a 33 4 * 16 + bg * 4 + bk, row := bits a 20 13,
    word := bits a 14 2 * 8 + bits a 5 3, byte := bits a 0 5 }

/-- Where an address lies under the map in force (R26). -/
def Ctl.place (m : Ctl) (a : Nat) : Place := Machine.place (m.is F.CFG_ADDRMAP_MAP) a

/-- The user address of a word of a user row under the map in force: the inverse of `place`. -/
def addrOf (hash : Bool) (pc : Nat) (b : BankIx) (row word : Nat) : Nat :=
  let die := b / 16
  let bg := b % 16 / 4
  let bk := b % 4
  let r := fun i => b2n (bit row i)
  let bk' := if hash then (bk % 2 + r 0 + r 4) % 2 + 2 * ((bk / 2 + r 1) % 2) else bk
  let bg' := if hash then (bg % 2 + r 2) % 2 + 2 * ((bg / 2 + r 3 + r 4) % 2) else bg
  die * 2 ^ 33 + row * 2 ^ 20 + bg' * 2 ^ 18 + bk' * 2 ^ 16 + (word / 8) * 2 ^ 14 + pc * 2 ^ 8 + (word % 8) * 32

/-- The address that a fault reports for a word of a user row; 0 beyond the user rows. -/
def Ctl.addrOf (m : Ctl) (pc : Nat) (b : BankIx) (row word : Nat) : Nat :=
  if row < 8192 then Machine.addrOf (m.is F.CFG_ADDRMAP_MAP) pc b row word else 0

/-- Where a cellar offset lies (R509): PC, bank, physical row, word, byte. -/
def cellarPlace (off : Nat) : Place :=
  { pc := bits off 8 6, bank := bits off 18 2 * 4 + bits off 16 2, row := 8208 + bits off 20 6,
    word := bits off 14 2 * 8 + bits off 5 3, byte := bits off 0 5 }

/-- Is a PC dark (R17)? -/
def Ctl.dark (m : Ctl) (pc : Nat) : Bool := m.get F.CH_STATUS_MODE pc == 2

/-! ## How a command changes the state -/

/-- Start a command: nothing changed, raised or sent yet. -/
def Ctl.fresh (m : Ctl) : Ctl := { m with edits := [], raised := [], out := [] }

end Sys2Proof.Machine
end

