-- ==== Sys2Proof/Machine/Codes.lean ====
section
/-!
DEFINITION. The codes: the light code and the page code of stored data (chapter 7), the CRCs of flits, descriptors,
digests and orbit frames, and the element addition of PRESS (R258).
-/

namespace Sys2Proof.Machine

/-! ## The light code -/

/-- Outcomes of a light decode (R186). -/
inductive Light where
  | clean | corrected | uncorrectable | poisoned
deriving DecidableEq, Repr

/-- A light outcome by its code. -/
def Light.ofCode : Fin 4 → Light
  | 0 => .clean
  | 1 => .corrected
  | 2 => .uncorrectable
  | 3 => .poisoned

/-- Exactly one bit set? -/
def oneBit (x : Nat) : Bool := x != 0 && (x &&& (x - 1)) == 0

/-- Exactly two bits set? -/
def twoBits (x : Nat) : Bool := oneBit (x &&& (x - 1))

/-- All bits set lie within 4 consecutive positions? -/
def burst4 (x : Nat) : Bool := x != 0 && x / (x ^^^ (x &&& (x - 1))) < 16

/-- The data that a word outside the classes of R185 delivers with an outcome: as stored where it is CLEAN, with one bit
inverted where it is CORRECTED (R186). -/
def lightDeliver (w : Raw) (o : Light) : Light × Nat :=
  let stored := w.data ^^^ w.err.toNat
  match o with
  | .clean => (.clean, stored % 2 ^ 256)
  | .corrected => (.corrected, (stored ^^^ 2 ^ (Config.lightFix w.mark w.err).val) % 2 ^ 256)
  | l => (l, 0)

/-- The light code's verdict on a captured word (R185 to R187), with the data delivered. A pattern outside the
classes of R185 has the outcome and the correction of opaque functions of the pattern. -/
def lightDecode (w : Raw) : Light × Nat :=
  let e := w.err.toNat
  if w.mark then
    if e = 0 || oneBit e then (.poisoned, 0)
    else if twoBits e || burst4 e then lightDeliver w (if Config.lightMarkFixed w.err then .corrected else .uncorrectable)
    else lightDeliver w (Light.ofCode (Config.lightOutcomeMark w.err))
  else if e = 0 then (.clean, w.data)
  else if oneBit e then (.corrected, w.data)
  else if twoBits e || burst4 e then (.uncorrectable, 0)
  else lightDeliver w (Light.ofCode (Config.lightOutcome w.err))

/-- What the SEC-DED code of 8 B of a page-code entry makes of an error (R147): the data bits left wrong, or nothing where it
cannot be corrected. -/
def entryDecode (e : BitVec 72) : Option Nat :=
  if e = 0 || oneBit e.toNat then some 0
  else if twoBits e.toNat || Config.entryCaught e then none
  else some (Config.entryFix e).toNat

/-! ## The page code: 32 interleaves side by side in one 256-bit number -/

/-- 0x01 in each of 32 bytes. -/
def ones32 : Nat := (2 ^ 256 - 1) / 255

/-- Multiply every byte by alpha in GF(2^8) with polynomial 0x11D. -/
def xtime (w : Nat) : Nat := ((w &&& (0x7F * ones32)) <<< 1) ^^^ (((w >>> 7) &&& ones32) * 0x1D)

/-- Multiply every byte by a field constant. -/
def gfMulLoop : Nat → Nat → Nat → Nat
  | 0, _, _ => 0
  | n + 1, c, w => (if c % 2 = 1 then w else 0) ^^^ gfMulLoop n (c / 2) (xtime w)

/-- Multiply every byte of `w` by `c`. -/
def gfMul (c w : Nat) : Nat := gfMulLoop 8 c w

/-- alpha to the power `n`. -/
def alpha : Nat → Nat
  | 0 => 1
  | n + 1 => xtime (alpha n)

/-- A power of a field element. -/
def gfPow (a : Nat) : Nat → Nat
  | 0 => 1
  | n + 1 => gfMul a (gfPow a n)

/-- The inverse of a non-zero field element. -/
def gfInv (a : Nat) : Nat := gfPow a 254

/-- S0 of a list of words at positions from 0 up: their sum. -/
def sumS0 : List Nat → Nat
  | [] => 0
  | w :: r => w ^^^ sumS0 r

/-- S1: the sum of words times alpha to their position. -/
def sumS1 : List Nat → Nat
  | [] => 0
  | w :: r => w ^^^ xtime (sumS1 r)

/-- P0 and P1 of a row's 32 words (R189). -/
def pageEncode (ws : List Nat) : Nat × Nat :=
  let x := sumS0 ws
  let y := sumS1 ws
  let p1 := gfMul (gfInv (alpha 32 ^^^ alpha 33)) (y ^^^ gfMul (alpha 32) x)
  (x ^^^ p1, p1)

/-- The changes of P0 and P1 when word `w` changes by `delta` (R191). -/
def pageUpdate (w delta : Nat) : Nat × Nat :=
  let d1 := gfMul (gfInv (alpha 32 ^^^ alpha 33)) (gfMul (alpha w ^^^ alpha 32) delta)
  (delta ^^^ d1, d1)

/-- The syndromes S0 and S1 of a row: words 0-31 and then P0 and P1. -/
def syndromes (ws : List Nat) (p0 p1 : Nat) : Nat × Nat :=
  (sumS0 (ws ++ [p0, p1]), sumS1 (ws ++ [p0, p1]))

/-- The one position that every non-zero interleave names, if there is one (R189). -/
def locate (s0 s1 : Nat) : Option Nat :=
  (List.range 34).find? fun j => gfMul (alpha j) s0 == s1

/-- Solve for erased words (R193): the words with erasures as 0, and their positions, at most two. The value of the
first erasure; with one erasure the second equation must hold. -/
def pageSolve (ws : List Nat) (p0 p1 : Nat) (erased : List Nat) : Option Nat :=
  let s := syndromes ws p0 p1
  match erased with
  | [e] => if gfMul (alpha e) s.1 == s.2 then some s.1 else none
  | [e, f] =>
    let vf := gfMul (gfInv (alpha e ^^^ alpha f)) (s.2 ^^^ gfMul (alpha e) s.1)
    some (s.1 ^^^ vf)
  | _ => none

/-! ## CRCs -/

/-- One bit of a reflected CRC. -/
def crcRefl (poly : Nat) : Nat → Nat → Nat
  | 0, c => c
  | n + 1, c => crcRefl poly n (if c % 2 = 1 then (c / 2) ^^^ poly else c / 2)

/-- CRC-32C of bytes (R73). -/
def crc32c (bs : List Byte) : Nat :=
  (bs.foldl (fun c b => crcRefl 0x82F63B78 8 (c ^^^ b.toNat)) 0xFFFFFFFF) ^^^ 0xFFFFFFFF

/-- Bits of a CRC that is not reflected, of width `w`. -/
def crcFwd (w poly : Nat) : Nat → Nat → Nat
  | 0, c => c
  | n + 1, c => crcFwd w poly n (if bit c (w - 1) then (c * 2 % 2 ^ w) ^^^ poly else c * 2 % 2 ^ w)

/-- CRC-16/CCITT of bytes (R243). -/
def crc16 (bs : List Byte) : Nat :=
  bs.foldl (fun c b => crcFwd 16 0x1021 8 (c ^^^ (b.toNat <<< 8))) 0xFFFF

/-- CRC-64/ECMA-182 of bytes (R286). -/
def crc64 (bs : List Byte) : Nat :=
  bs.foldl (fun c b => crcFwd 64 0x42F0E1EBA9EA3693 8 (c ^^^ (b.toNat <<< 56))) 0

/-- CRC-8 of bits in transmission order (R36). -/
def crc8 (bs : List Bool) : Nat :=
  bs.foldl (fun c b => if (bit c 7) != b then (c * 2 % 256) ^^^ 0x07 else c * 2 % 256) 0

/-! ## PRESS -/

/-- Add two floating-point numbers of `eb` exponent and `mb` mantissa bits (R258): exact sum, then round to
nearest, ties to even. -/
def floatAdd (eb mb : Nat) (x y : Nat) : Nat :=
  let inf := (2 ^ eb - 1) * 2 ^ mb
  let nan := inf + 2 ^ (mb - 1)
  let sgn := 2 ^ (eb + mb)
  let mx := x % sgn
  let my := y % sgn
  let nx := x / sgn % 2
  let ny := y / sgn % 2
  if inf < mx || inf < my then nan
  else if mx = inf then (if my = inf && nx != ny then nan else x % (2 * sgn))
  else if my = inf then y % (2 * sgn)
  else
    let val := fun (v n : Nat) =>
      let e := v / 2 ^ mb
      let f := v % 2 ^ mb
      let a := if e = 0 then f else (f + 2 ^ mb) * 2 ^ (e - 1)
      if n = 1 then -(a : Int) else (a : Int)
    let s := val mx nx + val my ny
    if s = 0 then (if nx = 1 && ny = 1 then sgn else 0)
    else
      let a := s.natAbs
      let sign := if s < 0 then sgn else 0
      let l := Nat.log2 a
      if l ≤ mb then sign + a
      else
        let sh := l - mb
        let q := a / 2 ^ sh
        let rem := a % 2 ^ sh
        let half := 2 ^ (sh - 1)
        let up := if half < rem || (rem == half && q % 2 == 1) then 1 else 0
        sign + min (sh * 2 ^ mb + q + up) inf

/-- Saturating INT32 addition (R258). -/
def int32Add (x y : Nat) : Nat :=
  let v := fun (n : Nat) => if n < 2 ^ 31 then (n : Int) else (n : Int) - 2 ^ 32
  let s := v x + v y
  if s < -(2 ^ 31) then 2 ^ 31
  else if (2 : Int) ^ 31 ≤ s then 2 ^ 31 - 1
  else (s % 2 ^ 32).toNat

/-- Bytes of an element of an ETYPE (R258). -/
def elemBytes (etype : Nat) : Nat := if etype = 0 || etype = 3 then 4 else 2

/-- Add two elements of an ETYPE. -/
def elemAdd (etype x y : Nat) : Nat :=
  match etype with
  | 0 => floatAdd 8 23 x y
  | 1 => floatAdd 8 7 x y
  | 2 => floatAdd 5 10 x y
  | _ => int32Add x y

/-- Add two byte strings element by element. -/
def pressBytes (etype : Nat) : Nat → List Byte → List Byte → List Byte
  | 0, _, _ => []
  | n + 1, d, s =>
    let k := elemBytes etype
    leBytes k (elemAdd etype (leNat (d.take k)) (leNat (s.take k))) ++ pressBytes etype n (d.drop k) (s.drop k)

end Sys2Proof.Machine
end

