-- ==== Sys2Proof/Machine/Flags.lean ====
section
/-!
DEFINITION. Raising faults (chapter 20): what a raise captures, the fault log and its overflow area, the pending
bits, FAULT_N, and the event records and MSI-X vectors that reactions send.
-/

namespace Sys2Proof.Machine

/-- A fault source by number (R462). -/
abbrev Source := Nat

/-- Severity in force of a source. -/
def Ctl.sevOf (m : Ctl) (s : Source) : Nat := m.get F.FLT_SEV s

/-- Reactions in force of a severity (R463): bit 0 INT, 1 TRAP, 2 BRESET, 3 CRESET, 4 FAULTN. -/
def Ctl.reactOf (m : Ctl) (sev : Nat) : Nat := m.get F.FLT_REACT sev

/-- Raise a fault. The raise is carried out when the command ends, in ascending source number with the others of
the same command (R464); what its log entry shows is captured here. -/
def Ctl.raiseAs (m : Ctl) (s : Source) (info : Nat) (injected : Bool) : Ctl :=
  { m with raised := m.raised ++
      [{ source := s, info := info, injected := injected, sev := m.sevOf s, orbit := m.orbit, nvalid := m.numValid }] }

/-- Raise a fault by its own hardware condition. -/
def Ctl.raise (m : Ctl) (s : Source) (info : Nat := 0) : Ctl := m.raiseAs s info false

/-- INFO of the sources of a PC (R470). -/
def infoPc (pc addr extra : Nat) : Nat := addr + pc * 2 ^ 40 + extra * 2 ^ 48

/-! ## Vectors and events -/

/-- DW `i` of the MSI-X table; vector control (DW 3 of an entry) resets to masked, as PCI Express requires. -/
def SvcSt.tableDw (x : SvcSt) (i : Nat) : Nat := Sparse.getD x.table i (if i % 4 = 3 then 1 else 0)

/-- May a vector be sent now (R344)? -/
def Ctl.vectorOpen (m : Ctl) (v : Nat) : Bool :=
  m.svc.msixOn && !m.svc.msixMask && !bit (m.svc.tableDw (4 * v + 3)) 0 && m.is F.SVC_STATUS_BME &&
    m.get F.SVC_STATUS_DSTATE == 0

/-- Send a vector, or hold it in its pending bit (R344). -/
def Ctl.msix (m : Ctl) (v : Nat) : Ctl :=
  if m.vectorOpen v then m.emit (.msix v) else { m with svc := { m.svc with pba := m.svc.pba ||| 2 ^ v } }

/-- Send every held vector that may be sent now. -/
def Ctl.msixFlush (m : Ctl) : Ctl :=
  (List.range 64).foldl (fun m v =>
    if bit m.svc.pba v && m.vectorOpen v then
      { m with svc := { m.svc with pba := m.svc.pba ^^^ 2 ^ v } }.emit (.msix v)
    else m) m

/-- Code of `PA_STATUS.LINK`. -/
def Ctl.link (m : Ctl) (p : Port) : Nat := m.get F.PA_STATUS_LINK p.idx

/-- Is a port's link up, idle included? -/
def Ctl.linkUp (m : Ctl) (p : Port) : Bool := m.link p == 2 || m.link p == 3

/-- Is a group pair of a port enabled? -/
def Ctl.grpOn (m : Ctl) (p : Port) (g : Nat) : Bool := bit (m.get F.PA_STATUS_GROUPS p.idx) g

/-- The lowest enabled group of a port. -/
def Ctl.lowest (m : Ctl) (p : Port) : Option Nat := (List.range 16).find? fun g => m.grpOn p g

/-- Recompute LINK between UP and IDLE: IDLE when both directions are idle (R106). -/
def Ctl.relink (m : Ctl) (p : Port) : Ctl :=
  if m.linkUp p then
    let on := (List.range 16).filter fun g => m.grpOn p g
    let rx := on.all fun g => (m.grp p g).rxIdle
    let tx := on.all fun g => (m.grp p g).txIdle
    ((m.set F.PA_STATUS_LINK p.idx (if rx && tx then 3 else 2))).set F.PA_SIDEBAND_PARTNER_IDLE p.idx (b2n rx)
  else m

/-- Resume the upstream direction of a pair: wake the host on group `w`, and restart SEQ and PERIOD (R107, R506, R507). The lanes
float in HIBERNATE and CRESCENT (R390). -/
def Ctl.resumeOn (m : Ctl) (p : Port) (g w : Nat) : Ctl :=
  if (m.grp p g).txIdle && !m.inMode [.hibernate, .crescent] then
    ((m.modGrp p g fun x => { x with txIdle := false, seq := 0, period := 0, again := 0, quiet := 0 }).emit
      (.wakeHost p w)).relink p
  else m

/-- Resume the upstream direction of a pair for traffic: the wake is driven on the lowest enabled group (R107, R507). -/
def Ctl.resumeUp (m : Ctl) (p : Port) (g : Nat) : Ctl := m.resumeOn p g ((m.lowest p).getD g)

/-- Queue an event record for a port's lowest enabled group (R77), waking an idle host first (R465). -/
def Ctl.sendEvent (m : Ctl) (p : Port) (rec : Nat) : Ctl :=
  if m.linkUp p then
    let m := m.modPort p fun x => { x with events := x.events ++ [rec] }
    match m.lowest p with
    | some g => m.resumeUp p g
    | none => m
  else m

/-- An INTERRUPT (`kind` 1) or TRAP (2) record (R127). -/
def faultRecord (kind : Nat) (r : Raised) (log : Nat) : Nat :=
  kind + r.source * 2 ^ 8 + r.sev * 2 ^ 17 + log * 2 ^ 20 + r.orbit * 2 ^ 32

/-! ## The log -/

/-- The 128 bits of a log entry (R469). -/
def logEntry (r : Raised) : Nat :=
  r.source + r.sev * 2 ^ 9 + b2n r.nvalid * 2 ^ 12 + b2n r.injected * 2 ^ 13 + r.orbit * 2 ^ 16 + r.info * 2 ^ 64

/-- The 128 bits of log entry `i`. -/
def Ctl.logAt (m : Ctl) (i : Nat) : Nat :=
  m.get F.FLT_LOG_DATA (4 * i) + m.get F.FLT_LOG_DATA (4 * i + 1) * 2 ^ 32 +
    m.get F.FLT_LOG_DATA (4 * i + 2) * 2 ^ 64 + m.get F.FLT_LOG_DATA (4 * i + 3) * 2 ^ 96

/-- Store log entry `i`. -/
def Ctl.setLog (m : Ctl) (i v : Nat) : Ctl :=
  (List.range 4).foldl (fun m k => m.set F.FLT_LOG_DATA (4 * i + k) (v >>> (32 * k))) m

/-- Cellar offset of overflow entry `j` (R471). -/
def ovfOffset (j : Nat) : Nat := 0x0880000 + 16 * j

/-- May log entries be copied to the cellar now (R471)? -/
def Ctl.canCopy (m : Ctl) : Bool :=
  m.cellarOk && !m.inMode [.hibernate, .crescent, .quarantine]

/-! ## Pending bits and FAULT_N -/

/-- Is a source pending? -/
def Ctl.pendOf (m : Ctl) (s : Source) : Bool := bit (m.get F.FLT_PEND_PEND (s / 32)) (s % 32)

/-- Set the pending bit of a source. -/
def Ctl.setPend (m : Ctl) (s : Source) : Ctl :=
  m.set F.FLT_PEND_PEND (s / 32) (m.get F.FLT_PEND_PEND (s / 32) ||| 2 ^ (s % 32))

/-- The sources of R462. -/
def sources : List Source :=
  [0x001, 0x002, 0x003, 0x010, 0x011, 0x012, 0x020, 0x021, 0x022, 0x030, 0x031, 0x032, 0x033, 0x040, 0x041,
   0x060, 0x061, 0x062, 0x063, 0x070, 0x071, 0x072, 0x073, 0x074, 0x075, 0x080, 0x081, 0x082, 0x090, 0x091,
   0x092, 0x0B0, 0x0B1, 0x0B2, 0x0B3, 0x0C0, 0x0C1, 0x0C2, 0x0C3, 0x0B8, 0x0B9, 0x0BA, 0x0D0, 0x0E0, 0x100,
   0x101, 0x102, 0x103, 0x104, 0x105, 0x106, 0x107, 0x108, 0x109, 0x10A]

/-- Is any pending source of a severity that has FAULTN in force? -/
def Ctl.faultPending (m : Ctl) : Bool :=
  sources.any fun s => m.pendOf s && bit (m.reactOf (m.sevOf s)) 4

/-- Send the INT and TRAP reactions of a raise (R465). -/
def Ctl.reactSend (m : Ctl) (r : Raised) (log : Nat) : Ctl :=
  let re := m.reactOf r.sev
  let m :=
    if bit re 0 then
      let m := if m.is F.FLT_ROUTE_A then m.sendEvent .a (faultRecord 1 r log) else m
      let m := if m.is F.FLT_ROUTE_B then m.sendEvent .b (faultRecord 1 r log) else m
      if m.is F.FLT_ROUTE_SVC then m.msix (m.get F.SVC_VEC_FAULT) else m
    else m
  if bit re 1 then
    ((m.sendEvent .a (faultRecord 2 r log)).sendEvent .b (faultRecord 2 r log)).msix (m.get F.SVC_VEC_TRAP)
  else m

end Sys2Proof.Machine
end

