-- ==== Sys2Proof/Machine/Requests.lean ====
section
/-!
DEFINITION. Port requests and sessions as shared operations: order (chapter 4), admission, classes, reservations and
yield feedback (chapter 8), credits and completions.
-/

namespace Sys2Proof.Machine

/-! ## Free values -/

/-- `n` undefined bytes, and the state with its counter of free values advanced. -/
def Ctl.freeBytes (m : Ctl) (n : Nat) : List Byte × Ctl :=
  ((List.range n).map fun i => Config.freeByte (m.free + i), { m with free := m.free + n })

/-! ## Sessions -/

/-- Label mode (R212)? -/
def Ctl.labelMode (m : Ctl) : Bool := m.get F.QOS_CFG_MODE == 0

/-- The urgency level of a port, 0 while HOSTPRES is low (R104, R225). -/
def Ctl.urg (m : Ctl) (p : Port) : Nat :=
  if m.is F.PA_SIDEBAND_HOSTPRES p.idx then m.get F.PA_SIDEBAND_URG p.idx else 0

/-- Does a session stand at or before the cut (R234)? -/
def Ctl.exempt (m : Ctl) (s : Nat) : Bool :=
  let rank := m.get F.SES_ACT1_RANK s
  let cut := m.get F.QOS_CUT_RANK
  m.is F.QOS_CUT_VALID && (decide (cut < rank) || (rank == cut && decide (m.get F.QOS_CUT_LABEL ≤ s)))

/-- The class of label-regulated work at queue entry (R225). -/
def Ctl.entryClass (m : Ctl) (s : Nat) : Nat :=
  let meas := m.get F.SES_STAT_MEAS s
  let target := m.get F.SES_ACT0_TARGET s
  let boost :=
    if target != 0 && m.is F.SES_STAT_MEAS_VALID s && !m.exempt s then
      if target ≤ meas then 3 else if 9 * target ≤ 10 * meas then 2 else if 3 * target ≤ 4 * meas then 1 else 0
    else 0
  let bind := match m.get F.SES_ACT1_BIND s with
    | 1 => m.urg .a
    | 2 => m.urg .b
    | _ => 0
  min (m.get F.SES_ACT0_BASE s + boost + bind) 7

/-- The class of a port's work in port-class mode (R226). -/
def Ctl.portClass (m : Ctl) (p : Port) : Nat :=
  min ((match p with | .a => m.get F.QOS_ICLASS_A | .b => m.get F.QOS_ICLASS_B) + m.urg p) 7

/-- The master of a ring (R235): `none` is the service port. -/
def ringPort (r : Nat) : Option Port := if r < 64 then some .a else if r < 128 then some .b else none

/-- The granule number of a descriptor's completion record (R250). -/
def recordGran : Nat := 2 ^ 32

/-- The granule number of a descriptor's fetch (R241). -/
def fetchGran : Nat := 2 ^ 32 + 1

/-- Is a granule a fetch or a record, and not one of a descriptor's own (R212)? -/
def slotGran (g : Nat) : Bool := g == recordGran || g == fetchGran

/-- The class of a job at queue entry (R212). Background operations have none. -/
def Ctl.jobClass (m : Ctl) (j : Job) : Nat :=
  match j.who with
  | .port p _ => if m.labelMode then m.entryClass j.label else m.portClass p
  | .svc _ => m.get F.QOS_ICLASS_SVC
  | .link .l0 _ => m.get F.QOS_ICLASS_PL0
  | .link .l1 _ => m.get F.QOS_ICLASS_PL1
  | .engine r _ g _ =>
    if slotGran g then
      match ringPort r with
      | some .a => m.get F.QOS_ICLASS_A
      | some .b => m.get F.QOS_ICLASS_B
      | none => m.get F.QOS_ICLASS_SVC
    else if m.labelMode then m.entryClass j.label
    else match ringPort r with
      | some p => m.portClass p
      | none => m.get F.QOS_ICLASS_SVC
  | .bg _ _ _ _ => 0

/-- The yield rank of a port request or mover granule (R230). -/
def Ctl.jobRank (m : Ctl) (j : Job) : Nat :=
  if m.labelMode then m.get F.SES_ACT1_RANK j.label
  else
    match j.who with
    | .port .a _ => m.get F.QOS_IRANK_A
    | .port .b _ => m.get F.QOS_IRANK_B
    | .engine r _ _ _ =>
      match ringPort r with
      | some .a => m.get F.QOS_IRANK_A
      | some .b => m.get F.QOS_IRANK_B
      | none => m.get F.QOS_IRANK_SVC
    | _ => 0

/-- Sessions whose active RESERVE is not 0, with it. -/
def Ctl.reserves (m : Ctl) : List (Nat × Nat) :=
  m.flds.filterMap fun e =>
    if e.1 / 1048576 = F.SES_ACT1_RESERVE.id then some (e.1 % 1048576, e.2) else none

/-- Port requests of a session in a queue (R227). -/
def Pc.held (x : Pc) (s : Nat) : Nat :=
  (x.queue.filter fun j => (match j.who with | .port _ _ => true | _ => false) && j.label == s).length

/-- The unused shares of all reservations in force in a PC (R227). -/
def Ctl.unused (m : Ctl) (x : Pc) : Nat :=
  (m.reserves.map fun e => if m.is F.SES_STAT_SUSP e.1 then 0 else e.2 - x.held e.1).sum

/-- The yield floor of a PC (R229). -/
def Ctl.floor (m : Ctl) (x : Pc) : Nat :=
  let q := x.queue.length
  let hw := max 64 (m.get F.QOS_FB_HIGH_WATER)
  if q < hw then 16 else 15 - (q - hw) * 16 / (256 - hw)

/-- How a job fares at queue entry. -/
inductive Entry where
  | enter (reserved : Bool)
  | withhold                      -- yield feedback (R230)
  | full                          -- no free entry for it (R140, R227)
deriving DecidableEq, Repr

/-- Is a job a port request? -/
def Job.isPort (j : Job) : Bool := match j.who with | .port _ _ => true | _ => false

/-- Is a job subject to yield feedback: a port request or a mover granule (R230)? -/
def Job.yields (j : Job) : Bool := match j.who with | .port _ _ => true | .engine _ _ g _ => !slotGran g | _ => false

/-- Entries of a PC queue that work without a reservation may take (R227, R228). -/
def Ctl.roomFor (m : Ctl) (x : Pc) (n : Nat) : Bool :=
  let free := 256 - x.queue.length
  if m.labelMode then decide (m.unused x + n ≤ free) else decide (n ≤ free)

/-- May a job enter its PC queue now (R140, R227, R230)? -/
def Ctl.judgeEntry (m : Ctl) (x : Pc) (j : Job) : Entry :=
  let free := 256 - x.queue.length
  let r := m.get F.SES_ACT1_RESERVE j.label
  let reserved := m.labelMode && j.isPort && decide (x.held j.label < r) && !m.is F.SES_STAT_SUSP j.label
  if reserved then (if 0 < free then .enter true else .full)
  else if j.yields && !j.expired && decide (m.floor x ≤ m.jobRank j) then .withhold
  else if m.roomFor x 1 then .enter false
  else .full

/-- HOLD_MAX in ps (R230). -/
def Ctl.holdMax (m : Ctl) : Nat := 256000 * 2 ^ min (m.get F.QOS_FB_HOLD_MAX) 6

/-- Take one off a session's outstanding count (R222). -/
def Ctl.outstDec (m : Ctl) (s : Nat) : Ctl := m.set F.SES_STAT_OUTST s (m.get F.SES_STAT_OUTST s - 1)

/-- A latency sample of a session (R223, R224), for work accepted at `accAt`. -/
def Ctl.sample (m : Ctl) (s accAt : Nat) : Ctl :=
  let x := (m.now - accAt) / 4000
  let m :=
    if m.is F.SES_STAT_MEAS_VALID s then
      let meas := m.get F.SES_STAT_MEAS s
      let next : Int := meas + ((x : Int) - meas) / 16
      m.set F.SES_STAT_MEAS s (min next.toNat 0xFFFF)
    else (m.set F.SES_STAT_MEAS s (min x 0xFFFF)).set F.SES_STAT_MEAS_VALID s 1
  let target := m.get F.SES_ACT0_TARGET s
  if target != 0 && decide (target < x) then
    let m := m.bump F.SES_MISSES_COUNT s
    if m.exempt s then m.bump F.QOS_MISS_EXEMPT_COUNT else m
  else m

/-! ## Windows -/

/-- Does an enabled window of a port allow a read (or a write) of the 64 KiB granules from `lo` to `hi` (R134)? -/
def Ctl.windowOk (m : Ctl) (p : Port) (wr : Bool) (addr len : Nat) : Bool :=
  let granules := (List.range ((addr + len - 1) / 65536 - addr / 65536 + 1)).map (· + addr / 65536)
  granules.all fun g =>
    (List.range 16).any fun w =>
      let i := p.idx * 16 + w
      m.is F.PA_WCTRL_EN i && (if wr then m.is F.PA_WCTRL_WR i else m.is F.PA_WCTRL_RD i) &&
        decide (m.get F.PA_WBASE_BASE i ≤ g) && decide (g ≤ m.get F.PA_WLIMIT_LIMIT i)

/-! ## Order -/

/-- Is something of the same ordering source, or a FENCE, still to be performed ahead of a place (R131, R133)? -/
def orderBlocked (l : List Req) (pos session : Nat) : Bool :=
  l.any fun r => decide (r.pos < pos) && r.st != .performed && (r.op == 3 || r.session == session)

/-- Is anything still to be performed ahead of a place (FENCE, R133)? -/
def fenceBlocked (l : List Req) (pos : Nat) : Bool :=
  l.any fun r => decide (r.pos < pos) && r.st != .performed

/-- Is a WRITE or WRITE_MASKED still to be performed ahead of a place (DOORBELL, R119)? -/
def writeBlocked (l : List Req) (pos : Nat) : Bool :=
  l.any fun r => decide (r.pos < pos) && r.st != .performed && (r.op == 1 || r.op == 2)

/-- An accepted header that has not been judged yet, as a request that holds its place in port order (R129). -/
def Hdr.asReq (h : Hdr) : Req :=
  { pos := h.pos, g := h.g, tag := Machine.bits h.bits 6 14, op := h.bits % 16, session := Machine.bits h.bits 20 18, st := .data }

/-- Every request of a port that holds a place in port order. -/
def PortSt.line (x : PortSt) : List Req := x.reqs ++ x.hdrs.map Hdr.asReq

/-- The requests of the agent that a job belongs to. -/
def Ctl.reqsOf (m : Ctl) (j : Job) : List Req :=
  match j.who with
  | .port p _ => (m.port p).line
  | .svc _ => m.svc.reqs.map fun r => { r with session := j.label }
  | _ => []

/-- Does its order let a job's column commands issue now (R131, R133, R341)? -/
def Ctl.orderOk (m : Ctl) (j : Job) : Bool := !orderBlocked (m.reqsOf j) j.pos j.label

/-- Is an earlier request of the same source still short of its PC queue (R230)? -/
def Ctl.ingressBlocked (m : Ctl) (j : Job) : Bool :=
  (m.reqsOf j).any fun r =>
    decide (r.pos < j.pos) && r.session == j.label && (r.st == .data || r.st == .held)

/-! ## Completions -/

/-- Statuses of R123. -/
def stOk : Nat := 0
def stPoison : Nat := 1
def stNotOwner : Nat := 2
def stRefusedLimit : Nat := 3
def stOutOfWindow : Nat := 4
def stChannelUnavailable : Nat := 5
def stRemoteUnreachable : Nat := 6
def stRetired : Nat := 7
def stBadRequest : Nat := 8
def stSplitReadonly : Nat := 9

/-- Of two statuses of one request the one that R124 reports; 0 is OK. -/
def firstStatus (a b : Nat) : Nat :=
  if a = 0 then b
  else if b = 0 then a
  else
    ([stBadRequest, stOutOfWindow, stNotOwner, stRefusedLimit, stRetired, stSplitReadonly, stRemoteUnreachable,
      stChannelUnavailable, stPoison].find? fun s => s == a || s == b).getD a

/-- Add to a live TEL count (R484). -/
def Ctl.count (m : Ctl) (i n : Nat) : Ctl := { m with tel := Sparse.setD m.tel i (Sparse.getD m.tel i 0 + n) 0 }

/-- Queue a completion on the upstream group of its request (R77); a disabled pair discards it (R94). -/
def Ctl.pushCpl (m : Ctl) (p : Port) (g : Nat) (c : UpItem) : Ctl :=
  if m.is F.PA_LANE_DISABLED (p.idx * 16 + g) then
    match c with
    | .cpl _ _ _ _ _ s (.fresh true) _ => m.outstDec s
    | _ => m
  else (m.modGrp p g fun x => { x with up := x.up ++ [c] }).resumeUp p g

/-- Return credits of a group (R84). -/
def Ctl.credit (m : Ctl) (p : Port) (g rh wd : Nat) : Ctl :=
  if rh = 0 && wd = 0 then m
  else m.modGrp p g fun x => { x with rhDue := x.rhDue + rh, wdDue := x.wdDue + wd }

/-- The POISON record of a request (R127). -/
def poisonRecord (tag session addr : Nat) : Nat := 3 + tag * 2 ^ 8 + session * 2 ^ 22 + addr / 32 * 32 * 2 ^ 40

/-- End a port request: its place in order is free, its credits return, and its completion is queued, with a POISON
record ahead of it where a READ or WRITE_MASKED met a bad word (R122, R128). -/
def Ctl.finishReq (m : Ctl) (p : Port) (pos status : Nat) (corr : Bool := false) (xt : Option Nat := none)
    (payload : Option (List Byte) := none) (bad : Option Nat := none) : Ctl :=
  match (m.port p).reqs.find? fun r => r.pos == pos with
  | none => m
  | some r =>
    let m := m.modPort p fun x => { x with reqs := x.reqs.filter fun q => q.pos != pos }
    let m := m.credit p r.g r.rh r.wd
    if r.orphan then m
    else
      let m := match bad with
        | some a => m.sendEvent p (poisonRecord r.tag r.session a)
        | none => m
      let m :=
        if status ≤ 1 && r.op == 0 then m.count (2 * p.idx) r.len
        else if status ≤ 1 && (r.op == 1 || r.op == 2) then m.count (2 * p.idx + 1) r.len
        else m
      m.pushCpl p r.g (.cpl r.tag status xt corr payload r.session (.fresh r.admitted) r.accAt)

/-- Is a tag of a port outstanding (R120)? The first transmission of its completion ends that. -/
def Ctl.tagLive (m : Ctl) (p : Port) (tag : Nat) : Bool :=
  let x := m.port p
  x.reqs.any (fun r => r.tag == tag && !r.orphan) ||
    x.grps.any fun g => g.2.up.any fun u => match u with | .cpl t _ _ _ _ _ (.fresh _) _ => t == tag | _ => false

/-- Is a LINK_IDLE in an upstream queue? -/
def UpItem.idles (u : UpItem) : Bool := match u with | .linkctl 3 _ => true | _ => false

/-- Does traffic wait to be sent on a pair: an item, payload, or an event for the lowest enabled group (R507)? -/
def Ctl.upWaits (m : Ctl) (p : Port) (g : Nat) : Bool :=
  let x := m.grp p g
  x.up.any (fun u => !u.idles) || !x.slots.isEmpty || (m.lowest p == some g && !(m.port p).events.isEmpty)

/-- May the stack send LINK_IDLE on a pair, the 64 periods apart (R507)? -/
def Ctl.mayIdle (m : Ctl) (p : Port) (g : Nat) : Bool :=
  (m.grp p g).rxIdle && (m.grp p g).buf.isEmpty && !m.upWaits p g

/-- The upstream direction of a pair goes idle; traffic that arose meanwhile resumes it first (R106, R507). -/
def Ctl.upIdle (m : Ctl) (p : Port) (g : Nat) : Ctl :=
  let m := (m.modGrp p g fun x => { x with txIdle := true, ackOnly := none }).relink p
  if m.upWaits p g then m.resumeUp p g else m

/-- Change a request of a port. -/
def Ctl.modReq (m : Ctl) (p : Port) (pos : Nat) (f : Req → Req) : Ctl :=
  m.modPort p fun x => { x with reqs := x.reqs.map fun r => if r.pos == pos then f r else r }

end Sys2Proof.Machine
end

