-- ==== Sys2Proof/Machine/Words.lean ====
section
/-!
DEFINITION. Words of the array as the sequencer sees them (chapter 7): row sparing, the word remap, reading a word
through the light code, page rebuilds, the page-code cache, the repeat catcher, and writing a word.
-/

namespace Sys2Proof.Machine

/-! ## Rows and spares -/

/-- The physical row that serves a row of a bank (R440). -/
def Ctl.physRow (m : Ctl) (pc : Nat) (b : BankIx) (row : Nat) : Nat :=
  match m.rmap.find? fun e => e.pc == pc && e.bank == b && e.row == row with
  | some e => 8192 + e.spare
  | none => row

/-- The original row that a physical row serves. -/
def Ctl.origRow (m : Ctl) (pc : Nat) (b : BankIx) (phys : Nat) : Nat :=
  match m.rmap.find? fun e => e.pc == pc && e.bank == b && 8192 + e.spare == phys with
  | some e => e.row
  | none => phys

/-- The user address of a word of a physical row, as faults report it. -/
def Ctl.physAddr (m : Ctl) (pc : Nat) (b : BankIx) (phys word : Nat) : Nat :=
  m.addrOf pc b (m.origRow pc b phys) word

/-- The remap entry of a word (R199). -/
def Pc.spareOf (x : Pc) (l : Loc) : Option (Nat × Spare) := x.spares.find? fun e => decide (e.2.loc = l)

/-- Change a remap entry. -/
def Ctl.setSpare (m : Ctl) (pc i : Nat) (s : Spare) : Ctl :=
  m.modPc pc fun x => { x with spares := Sparse.put x.spares i s }

/-- Is a row on the suspect list (R195)? -/
def Pc.isSuspect (x : Pc) (b : BankIx) (row : Nat) : Bool := x.suspect.contains ⟨b, row⟩

/-- Queue the row of a bad word for scrubbing ahead of the walk (R210, R211). -/
def Ctl.urgentWord (m : Ctl) (pc : Nat) (l : Loc) : Ctl :=
  m.modPc pc fun x => if x.urgent.contains l then x else { x with urgent := x.urgent ++ [l] }

/-- Is a row queued for scrubbing ahead of the walk? -/
def Pc.isUrgent (x : Pc) (b : BankIx) (row : Nat) : Bool := x.urgent.any fun l => l.bank == b && l.row == row

/-! ## The page code of a row -/

/-- DIRTY entries of a die, oldest first. -/
def Pc.dirtyOf (x : Pc) (d : Nat) : List (BankIx × Bank) :=
  (x.banks.filter fun e => e.1 / 16 == d && e.2.pce.st = .dirty).sorted
    fun a b => decide (a.2.pce.seq ≤ b.2.pce.seq)

/-- The data bits that the SEC-DED code of 8 B leaves wrong after every one of an entry's errors: nothing where one cannot be
corrected (R147). -/
def Pce.residue (e : Pce) : Option (Nat × Nat) :=
  e.err.foldl (fun acc x =>
    match acc, entryDecode x.2 with
    | some p, some r => some (if x.1 < 4 then (p.1 ^^^ r * 2 ^ (64 * x.1), p.2) else (p.1, p.2 ^^^ r * 2 ^ (64 * (x.1 - 4))))
    | _, _ => none) (some (0, 0))

/-- Read a bank's page-code entry before it is used: its errors are corrected, or the code path has failed (R147, R164). -/
def Ctl.checkEntry (m : Ctl) (pc : Nat) (b : BankIx) : Ctl :=
  let k := (m.pc pc).bank b
  if k.pce.err.isEmpty then m
  else
    match k.pce.residue with
    | some p => m.modPc pc fun x =>
        x.setBank b { k with pce := { k.pce with err := [], p0 := k.pce.p0 ^^^ p.1, p1 := k.pce.p1 ^^^ p.2 } }
    | none => m.modPc pc fun x => { x with codeErr := true }

/-- Has the use of a bank's entry failed? -/
def Ctl.entryLost (m : Ctl) (pc : Nat) (b : BankIx) : Bool := !((m.pc pc).bank b).pce.err.isEmpty

/-- P0 and P1 of a row: the cache entry where it holds the row's page code, else the array (R147, R193). -/
def Ctl.pageOf (m : Ctl) (a : Arr) (pc : Nat) (b : BankIx) (row : Nat) : Nat × Nat :=
  let bk := (m.pc pc).bank b
  let arr := m.see a
  let p := ((arr.raw pc b row 34).data, (arr.raw pc b row 35).data)
  if bk.row == some row then
    if bk.pce.loading then (p.1 ^^^ bk.pce.p0, p.2 ^^^ bk.pce.p1)
    else if bk.pce.st = .invalid then p
    else (bk.pce.p0, bk.pce.p1)
  else p

/-- Store P0 and P1 of a row, in the entry (which becomes DIRTY) or in the array. -/
def Ctl.setPage (m : Ctl) (pc : Nat) (b : BankIx) (row p0 p1 : Nat) : Ctl :=
  let bk := (m.pc pc).bank b
  if bk.row == some row && (bk.pce.loading || bk.pce.st != .invalid) then
    m.modPc pc fun x =>
      x.setBank b { bk with pce := { bk.pce with st := .dirty, loading := false, p0 := p0, p1 := p1, err := [],
                                                 seq := if bk.pce.st = .dirty then bk.pce.seq else m.now } }
  else
    (m.edit (.bytes (slotAddr pc b row 34) (leBytes 32 p0))).edit (.bytes (slotAddr pc b row 35) (leBytes 32 p1))

/-- Add changes to P0 and P1 of a row (R191). A change of nothing leaves a CLEAN entry CLEAN. -/
def Ctl.addPage (m : Ctl) (a : Arr) (pc : Nat) (b : BankIx) (row d0 d1 : Nat) : Ctl :=
  let bk := (m.pc pc).bank b
  if bk.row == some row && (bk.pce.loading || bk.pce.st != .invalid) then
    m.modPc pc fun x =>
      x.setBank b { bk with pce := { bk.pce with st := .dirty, p0 := bk.pce.p0 ^^^ d0, p1 := bk.pce.p1 ^^^ d1,
                                                 seq := if bk.pce.st = .dirty then bk.pce.seq else m.now } }
  else
    let p := m.pageOf a pc b row
    m.setPage pc b row (p.1 ^^^ d0) (p.2 ^^^ d1)

/-- May a write to a row make its entry DIRTY now (R148)? Where the row is not open no entry is concerned. -/
def Pc.entryRoom (x : Pc) (b : BankIx) (row : Nat) : Bool :=
  let k := x.bank b
  k.row != some row || k.pce.st = .dirty || decide ((x.dirtyOf (b / 16)).length < 2)

/-! ## Rebuilds -/

/-- Does a spare's own storage decode (R192)? -/
def Spare.sound (s : Spare) : Bool :=
  match (lightDecode { data := s.data, err := s.err }).1 with
  | .clean | .corrected => true
  | _ => false

/-- What a captured word enters the page code with (R193): its data, 0 for a mark, or nothing where it is erased. -/
def Raw.known (r : Raw) : Option Nat :=
  let d := lightDecode r
  match d.1 with
  | .clean => some d.2
  | .corrected => some d.2
  | .poisoned => some 0
  | .uncorrectable => none

/-- What a rebuild knows of a word of the row (R193): a value, or nothing where it is erased too. -/
def Ctl.knownWord (m : Ctl) (a : Arr) (pc : Nat) (b : BankIx) (row v : Nat) : Option Nat :=
  match (m.pc pc).spareOf ⟨b, row, v⟩ with
  | some (_, s) =>
    if s.poison then some 0 else if s.sound then some s.data else ((m.see a).raw pc b row v).known
  | none => ((m.see a).raw pc b row v).known

/-- Solve a row for word `w` from what is known of its words and its page code (R193). -/
def Ctl.solveRow (m : Ctl) (a : Arr) (pc : Nat) (b : BankIx) (row w : Nat) (known : Nat → Option Nat) : Option Nat :=
  let ks := (List.range 32).map fun v => if v = w then none else known v
  let erased := w :: (List.range 32).filter fun v => v != w && (ks.getD v none).isNone
  if 2 < erased.length then none
  else
    let p := m.pageOf a pc b row
    pageSolve (ks.map fun k => k.getD 0) p.1 p.2 erased

/-- A page rebuild of word `w` of a row (R193). -/
def Ctl.pageRebuild (m : Ctl) (a : Arr) (pc : Nat) (b : BankIx) (row w : Nat) : Option Nat :=
  m.solveRow a pc b row w fun v => m.knownWord a pc b row v

/-- The contents of a word that the row's page code still stands for (R149): those that the oldest exchange-write of it
captured, where its return has not been taken into the page code, else what it holds. -/
def Ctl.oldWord (m : Ctl) (a : Arr) (pc : Nat) (b : BankIx) (row v : Nat) : Option Nat :=
  let hit := ((m.pc pc).bank b).rets.find? fun e => e.row == row && (e.col == v / 2 * 2) && e.en.getD (v % 2) false
  match hit with
  | some e => (e.old.getD (v % 2) { data := 0 }).known
  | none => m.knownWord a pc b row v

/-! ## The repeat catcher -/

/-- Drop the record that may be replaced (R197): the lowest COUNT that is not PENDING, the oldest of those. -/
def dropCatch (l : List Catch) : Option (List Catch) :=
  match (l.filter fun c => !c.pending).map (·.count) with
  | [] => none
  | n :: r =>
    let low := r.foldl min n
    (takeFirst (fun c => !c.pending && c.count == low) l).map (·.2)

/-- Note a correction of a word: `force` for a rebuild, which sets PENDING at once (R192, R197). -/
def Ctl.noteWord (m : Ctl) (pc : Nat) (l : Loc) (force : Bool) : Ctl :=
  let x := m.pc pc
  let limit := m.get F.REP_CODE_CFG_REPEAT
  if x.unrep.contains l then m
  else
    match x.catcher.find? fun c => decide (c.loc = l) with
    | some c =>
      let n := min (c.count + 1) 255
      m.modPc pc fun x => { x with catcher := x.catcher.map fun d =>
        if d.loc = l then { d with count := n, pending := d.pending || force || decide (limit ≤ n) } else d }
    | none =>
      let rec1 : Catch := { loc := l, count := 1, pending := force || decide (limit ≤ 1) }
      if x.catcher.length < 16 then m.modPc pc fun x => { x with catcher := x.catcher ++ [rec1] }
      else
        match dropCatch x.catcher with
        | some l' => m.modPc pc fun x => { x with catcher := l' ++ [rec1] }
        | none => m

/-! ## Reading a word -/

/-- What a read of a word gives (R192). -/
inductive Got where
  | clean (d : Nat)
  | corrected (d : Nat)
  | poisoned
  | uncorrectable
deriving DecidableEq, Repr

/-- The data of a word that could be read. -/
def Got.data? : Got → Option Nat
  | .clean d => some d
  | .corrected d => some d
  | _ => none

/-- What the light code makes of a captured word (R185, R192). -/
def Got.ofRaw (r : Raw) : Got :=
  let d := lightDecode r
  match d.1 with
  | .clean => .clean d.2
  | .corrected => .corrected d.2
  | .poisoned => .poisoned
  | .uncorrectable => .uncorrectable

/-- A word as an access captures it: the spare of a remapped word, whose data count as clean, else the array's word
(R192, R199, R201). -/
def Ctl.capture (m : Ctl) (a : Arr) (pc : Nat) (l : Loc) : Raw :=
  let arr := (m.see a).raw pc l.bank l.row l.word
  match (m.pc pc).spareOf l with
  | some (_, s) =>
    if s.poison then { data := 0, mark := true } else if s.sound then { data := s.data } else arr
  | none => arr

/-- Is a word held in the remap? -/
def Ctl.remapped (m : Ctl) (pc : Nat) (l : Loc) : Bool := ((m.pc pc).spareOf l).isSome

/-- Refill a spare whose own data are lost from what the read gave (R201). -/
def Ctl.refillSpare (m : Ctl) (pc : Nat) (l : Loc) (g : Got) : Ctl :=
  match (m.pc pc).spareOf l with
  | some (i, s) =>
    if s.sound || s.poison then m
    else
      match g.data? with
      | some d => m.setSpare pc i { s with data := d, err := 0 }
      | none => m
  | none => m

/-- Read a word of the array as it stands, rebuild included, in one action (R192 without the catcher). -/
def Ctl.readWord (m : Ctl) (a : Arr) (pc : Nat) (l : Loc) : Got :=
  match Got.ofRaw (m.capture a pc l) with
  | .uncorrectable =>
    if (m.pc pc).isSuspect l.bank l.row then .uncorrectable
    else
      match m.pageRebuild a pc l.bank l.row l.word with
      | some d => .corrected d
      | none => .uncorrectable
  | g => g

/-! ## Re-encoding and writing -/

/-- A word of a row as a re-encode reads it (R149, R164): one that is uncorrectable enters with undefined bytes, and for the
sequencer a bad word counts and its row is queued for scrubbing (R210). -/
def Ctl.encodeWord (m : Ctl) (a : Arr) (pc : Nat) (l : Loc) (bySeq : Bool) : Nat × Ctl :=
  let bad := if bySeq then (m.bump F.CH_UNCORR_UNCORR pc).urgentWord pc l else m
  match m.knownWord a pc l.bank l.row l.word with
  | some d => (d, if Got.ofRaw (m.capture a pc l) = .poisoned then bad else m)
  | none =>
    let fb := bad.freeBytes 32
    (leNat fb.1, fb.2)

/-- Compute P0 and P1 of a row afresh from its decoded words (R149, R164, R207). What its exchange returns still carry is in
those words; the row is no longer suspect (R195). -/
def Ctl.reencode (m : Ctl) (a : Arr) (pc : Nat) (b : BankIx) (row : Nat) (bySeq : Bool := true) : Ctl :=
  let step := fun (acc : List Nat × Ctl) (v : Nat) =>
    let y := acc.2.encodeWord a pc { bank := b, row := row, word := v } bySeq
    (acc.1 ++ [y.1], y.2)
  let r := (List.range 32).foldl step ([], m)
  let p := pageEncode r.1
  (r.2.setPage pc b row p.1 p.2).modPc pc fun x =>
    { x.setBank b { (x.bank b) with rets := (x.bank b).rets.filter fun e => e.row != row } with
      suspect := x.suspect.filter fun q => q != ({ bank := b, row := row } : Row) }

/-- Bring a spare up to date with a write of its whole word (R201). -/
def Ctl.writeSpare (m : Ctl) (pc : Nat) (l : Loc) (d : Nat) : Ctl :=
  match (m.pc pc).spareOf l with
  | some (i, s) => m.setSpare pc i { s with data := d, err := 0, poison := false }
  | none => m

/-- Write a word in one action: the array, the remap and the page code. The old value is the one that R149 and R191
name; where it cannot be had, the row is re-encoded. -/
def Ctl.writeWord (m : Ctl) (a : Arr) (pc : Nat) (l : Loc) (d : Nat) : Ctl :=
  let old : Option Nat :=
    match m.readWord a pc l with
    | .clean v => some v
    | .corrected v => some v
    | _ => none
  let m1 := (m.storeWord pc l.bank l.row l.word d).writeSpare pc l d
  match old with
  | some v =>
    let u := pageUpdate l.word (v ^^^ d)
    m1.addPage a pc l.bank l.row u.1 u.2
  | none => m1.reencode a pc l.bank l.row

/-! ## Curd buffers: what a write does to them -/

/-- Is a write's line in a curd buffer? It becomes STALE, or FREE at once where it was FILLED (R172, R177). -/
def Ctl.staleLine (m : Ctl) (pc line : Nat) : Ctl :=
  let x := m.pc pc
  if x.curd.any fun c => c.line == line && c.st != .stale then
    let curd := x.curd.filterMap fun c =>
      if c.line == line then (match c.st with | .filled => none | _ => some { c with st := .stale }) else some c
    (m.setPc pc { x with curd := curd }).bump F.CMT_STALE_COUNT
  else m

/-- The 64 B lines of user space that a write of `len` bytes touches become STALE in their PC. -/
def Ctl.staleRange (m : Ctl) (addr len : Nat) : Ctl :=
  ((List.range ((addr + len - 1) / 64 - addr / 64 + 1)).map (· + addr / 64)).foldl
    (fun m l => m.staleLine (m.place (64 * l)).pc l) m

/-! ## Direct accesses of the stack's own agents -/

/-- The place of a 32 B word of user space: its PC and location. -/
def Ctl.wordAt (m : Ctl) (addr : Nat) : Nat × Loc :=
  let p := m.place addr
  (p.pc, { bank := p.bank, row := m.physRow p.pc p.bank p.row, word := p.word })

/-- Report a word that a reader of R210 could not recover: the counter, the fault, and the row queued for scrubbing. -/
def Ctl.reportBad (m : Ctl) (pc : Nat) (l : Loc) (raises : Bool) : Ctl :=
  let m := (m.bump F.CH_UNCORR_UNCORR pc).urgentWord pc l
  if raises then m.raise 0x104 (infoPc pc (m.physAddr pc l.bank l.row l.word) 0) else m

/-! ## The overflow area of the fault log -/

/-- Where a cellar offset lies now: the PC, the word of the row that serves it, and the byte in the word (R440, R509). -/
def Ctl.cellarAt (m : Ctl) (off : Nat) : Nat × Loc × Nat :=
  let c := cellarPlace off
  (c.pc, { bank := c.bank, row := m.physRow c.pc c.bank c.row, word := c.word }, c.byte)

/-- Copy a log entry to the overflow area: dropped and counted where its slot is in a dark PC or its word cannot be
read (R471). -/
def Ctl.copyOut (m : Ctl) (a : Arr) (v : Nat) : Ctl :=
  let j := m.ovfNext
  let c := m.cellarAt (ovfOffset j)
  let m1 := { m with ovfNext := (j + 1) % 1048576 }
  if m.dark c.1 then m1.bump F.FLT_LOG_LOST_COUNT
  else
    match (m1.readWord a c.1 c.2.1).data? with
    | none => m1.bump F.FLT_LOG_LOST_COUNT
    | some old =>
      let sh := 8 * c.2.2
      let new := old % 2 ^ sh + v * 2 ^ sh + old / 2 ^ (sh + 128) * 2 ^ (sh + 128)
      (m1.writeWord a c.1 c.2.1 new).bump F.FLT_OVF_STATUS_COUNT

/-- Write the log entry of a raise (R469, R471). The index the entry took, or would have taken. -/
def Ctl.writeLog (m : Ctl) (a : Arr) (r : Raised) : Ctl × Nat :=
  let h := m.get F.FLT_LOG_HEAD_HEAD
  let full := 256 ≤ m.get F.FLT_LOG_HEAD_TOTAL
  if full && !m.canCopy then (m.bump F.FLT_LOG_LOST_COUNT, h)
  else
    let m1 := if full then m.copyOut a (m.logAt h) else m
    let m2 := m1.setLog h (logEntry r)
    ((m2.put F.FLT_LOG_HEAD_HEAD (h + 1)).bump F.FLT_LOG_HEAD_TOTAL, h)

end Sys2Proof.Machine
end

