-- ==== Sys2Proof/Machine/Mover.lean ====
section
/-!
DEFINITION. Rings and the mover as shared operations (chapter 9): ring geometry, the fields of a descriptor, the
checks at fetch and at start, descriptors in progress and their granules, records, halting and notification.
-/

namespace Sys2Proof.Machine

/-! ## Rings -/

/-- Ring states of `RING_STATUS.STATE`. -/
def rsDisabled : Nat := 0
def rsIdle : Nat := 1
def rsRunning : Nat := 2
def rsHalted : Nat := 3
def rsAborted : Nat := 4

/-- Slots of a ring (R236); 0 for a disabled ring. -/
def Ctl.ringSize (m : Ctl) (r : Nat) : Nat :=
  let s := m.get F.RING_CFG_SIZE r
  if s = 0 then 0 else 2 ^ (min 16 (max 4 s))

/-- Base address of a ring. -/
def Ctl.ringBase (m : Ctl) (r : Nat) : Nat :=
  m.get F.RING_BASE_BASE r * 4096 + m.get F.RING_BASE_HI_BASE_HI r * 2 ^ 32

/-- Address of the slot of an index (R236, R239). -/
def Ctl.slotOf (m : Ctl) (r i : Nat) : Nat := m.ringBase r + 64 * (i % m.ringSize r)

/-- Difference of two 17-bit indices. -/
def ixSub (a b : Nat) : Nat := (a + 131072 - b % 131072) % 131072

/-- The master of a ring, as `SEM_OWNER.OWNER` codes masters. -/
def ringMaster (r : Nat) : Nat := if r < 64 then 1 else if r < 128 then 2 else 3

/-- The state of a ring. -/
def Ctl.ringState (m : Ctl) (r : Nat) : Nat := m.get F.RING_STATUS_STATE r

/-- Descriptors of a ring in progress, those that passed the fetch checks (R244). -/
def Ring.inflight (x : Ring) : Nat := (x.prog.filter fun d => d.status != 0x11 && d.status != 0x12).length

/-- Accept or drop a doorbell (R240). -/
def Ctl.doorbell (m : Ctl) (r v : Nat) : Ctl :=
  let new := v % 131072
  let prod := m.get F.RING_PROD_PROD r
  let cons := m.get F.RING_CONS_CONS r
  let size := m.ringSize r
  if new = prod && m.ringState r != rsDisabled then m
  else if m.ringState r != rsDisabled && decide (ixSub new prod + ixSub prod cons ≤ size) then
    let m := m.set F.RING_PROD_PROD r new
    if m.ringState r == rsIdle then m.set F.RING_STATUS_STATE r rsRunning else m
  else m.set F.RING_STATUS_DB_ERR r 1

/-! ## Descriptors -/

/-- Number held by bytes `o` to `o + n - 1` of a descriptor. -/
def dfield (bs : List Byte) (o n : Nat) : Nat := leNat ((bs.drop o).take n)

def Prog.op (d : Prog) : Nat := dfield d.bytes 0 1
def Prog.flags (d : Prog) : Nat := dfield d.bytes 1 1
def Prog.arg16 (d : Prog) : Nat := dfield d.bytes 2 2
def Prog.length (d : Prog) : Nat := dfield d.bytes 4 4
def Prog.src (d : Prog) : Nat := dfield d.bytes 8 8
def Prog.dst (d : Prog) : Nat := dfield d.bytes 16 8
def Prog.session (d : Prog) : Nat := dfield d.bytes 24 4 % 2 ^ 18
def Prog.arg32 (d : Prog) : Nat := dfield d.bytes 28 4
def Prog.after (d : Prog) : Nat := dfield d.bytes 34 6
def Prog.cookie (d : Prog) : Nat := dfield d.bytes 40 8
/-- ARGX bytes 48 to 53: an index table address or a commit orbit. -/
def Prog.argx6 (d : Prog) : Nat := dfield d.bytes 48 6
/-- Bytes of a GATHER or SCATTER element (R259). -/
def Prog.elem (d : Prog) : Nat := 32 * 2 ^ (d.arg16 % 4)

/-- Data opcodes: COPY to REMOTE_WRITE. -/
def opData (op : Nat) : Bool := decide (1 ≤ op) && decide (op ≤ 7)

/-- Opcodes that hold an engine (R244). -/
def opEngine (op : Nat) : Bool := opData op || (decide (0x10 ≤ op) && decide (op ≤ 0x14))

/-- Opcodes that fence their ring on both sides (R263). -/
def opFence (op : Nat) : Bool := op == 8 || op == 9 || op == 0x18 || op == 0x19

/-- Owner-only opcodes (R256). -/
def opOwner (op : Nat) : Bool := op == 0x11 || op == 0x12 || op == 0x13 || op == 0x18 || op == 0x19

/-- Opcodes with a destination (R251). -/
def opDest (op : Nat) : Bool := opData op || op == 0x14

/-- The step 1 and 2 checks of R245: 0 where both pass. -/
def fetchCheck (bs : List Byte) : Nat :=
  let op := dfield bs 0 1
  let a16 := dfield bs 2 2
  if crc16 (bs.take 62) != dfield bs 62 2 then 0x11
  else if !(decide (op ≤ 9) || (decide (0x10 ≤ op) && decide (op ≤ 0x14)) || op == 0x18 || op == 0x19) then 0x12
  else if op == 0x19 && (a16 % 4 == 0 || a16 % 4 == 3) then 0x12
  else if op == 0x12 && 2 ≤ a16 % 4 then 0x12
  else if op == 0x11 && a16 % 4 == 0 then 0x12
  else if op == 0x13 && 3 ≤ a16 % 4 then 0x12
  else if op == 0x13 && a16 % 4 == 2 && 2 ≤ dfield bs 49 1 then 0x12
  else 0

/-- Is a user range outside user space, or an address with bits above 36 (R25, R242)? -/
def badRange (addr len : Nat) : Bool := decide (2 ^ 37 < addr + len) || decide (2 ^ 37 ≤ addr)

/-- Do two ranges share a byte? -/
def overlap (a la b lb : Nat) : Bool := decide (a < b + lb) && decide (b < a + la)

/-- Is any byte of a config range in an unassigned range, or beyond 16 MiB (R264, R475)? -/
def configGap (lo len : Nat) : Bool :=
  decide (2 ^ 24 < lo + len) || overlap lo len 0x140000 0xC0000 || overlap lo len 0x2A0000 0x160000 ||
    overlap lo len 0x490000 0x370000

/-- The step 5 address check of R245 for an opcode (R257, R259, R264). -/
def badAddress (d : Prog) : Bool :=
  let n := d.length
  let off32 := fun x => x % 32 != 0
  match d.op with
  | 1 => badRange d.src n || badRange d.dst n || off32 d.src || off32 d.dst || off32 n || overlap d.src n d.dst n
  | 2 => badRange d.dst n || off32 d.dst || off32 n
  | 3 => badRange d.src n || badRange d.dst n || off32 d.src || off32 d.dst || off32 n || overlap d.src n d.dst n
  | 4 => decide (2 ^ 37 ≤ d.src) || badRange d.dst (n * d.elem) || d.src % d.elem != 0 || d.dst % d.elem != 0 ||
      off32 d.argx6 || badRange d.argx6 (4 * n)
  | 5 => badRange d.src (n * d.elem) || decide (2 ^ 37 ≤ d.dst) || d.src % d.elem != 0 || d.dst % d.elem != 0 ||
      off32 d.argx6 || badRange d.argx6 (4 * n)
  | 6 => badRange d.src n || badRange d.dst n || off32 d.src || off32 d.dst || off32 n
  | 7 => badRange d.src n || badRange d.dst n || off32 d.src || off32 d.dst || off32 n
  | 0x10 => badRange d.dst n || off32 d.dst || off32 n
  | 0x14 => decide (2 ^ 24 ≤ d.src) || d.src % 4 != 0 || configGap d.src n || badRange d.dst n || off32 d.dst || off32 n
  | _ => false

/-- Do the windows of a ring's master refuse a range (R238)? Service rings are subject to none. -/
def Ctl.windowBad (m : Ctl) (r : Nat) (wr : Bool) (addr len : Nat) : Bool :=
  match ringPort r with
  | some p => !m.windowOk p wr addr len
  | none => false

/-- The step 6 window check of R245, for the contiguous ranges of a descriptor. -/
def Ctl.outOfWindow (m : Ctl) (r : Nat) (d : Prog) : Bool :=
  let n := d.length
  match d.op with
  | 1 => m.windowBad r false d.src n || m.windowBad r true d.dst n
  | 2 => m.windowBad r true d.dst n
  | 3 => m.windowBad r false d.src n || m.windowBad r false d.dst n || m.windowBad r true d.dst n
  | 4 => m.windowBad r false d.argx6 (4 * n) || m.windowBad r true d.dst (n * d.elem)
  | 5 => m.windowBad r false d.argx6 (4 * n) || m.windowBad r false d.src (n * d.elem)
  | 6 => m.windowBad r true d.dst n
  | 7 => m.windowBad r false d.src n
  | 0x10 => m.windowBad r false d.dst n || m.windowBad r true d.dst n
  | 0x14 => m.windowBad r true d.dst n
  | _ => false

/-- Does an opcode use LENGTH or a count (R245 step 4)? -/
def opLength (op : Nat) : Bool := opData op || op == 0x10 || op == 0x14

/-- The statuses of R245 that are judged at start, in order: 0 where none applies. -/
def Ctl.startCheck (m : Ctl) (r : Nat) (d : Prog) : Nat :=
  if opOwner d.op && m.owner != ringMaster r then 0x17
  else if opLength d.op && d.length == 0 then 0x01
  else if badAddress d then 0x1A
  else if m.outOfWindow r d then 0x1B
  else 0

/-- Does a status halt the ring (R253)? -/
def haltsRing (status : Nat) : Bool := decide (0x10 ≤ status)

/-! ## Descriptors in progress -/

/-- A descriptor of a ring in progress. -/
def Ctl.prog? (m : Ctl) (r i : Nat) : Option Prog := (m.ring r).prog.find? fun d => d.idx == i

/-- Change a descriptor in progress. -/
def Ctl.modProg (m : Ctl) (r i : Nat) (f : Prog → Prog) : Ctl :=
  m.modRing r fun x => { x with prog := x.prog.map fun d => if d.idx == i then f d else d }

/-- Free the engine of a descriptor. -/
def Ctl.freeEngine (m : Ctl) (r i : Nat) : Ctl := { m with engines := m.engines.filter fun e => e.2 != (r, i) }

/-- Send a ring's notification (R254). -/
def Ctl.notify (m : Ctl) (r : Nat) : Ctl :=
  let cons := m.get F.RING_CONS_CONS r
  match ringPort r with
  | some p => m.sendEvent p (4 + (r % 64) * 2 ^ 8 + cons % 65536 * 2 ^ 16)
  | none => m.msix (m.get F.RING_CFG_VECTOR r)

/-- Drop the fetches of a ring that are under way. -/
def Ctl.dropFetches (m : Ctl) (r : Nat) : Ctl :=
  let live := fun (w : Who) => match w with | .engine q _ g _ => !(q == r && g == fetchGran) | _ => true
  { m with pcs := Sparse.mapD m.pcs {} fun _ x =>
      { x with ingress := x.ingress.filter fun j => live j.who, queue := x.queue.filter fun j => live j.who,
               flights := x.flights.filter fun f => live f.who, rebuilds := x.rebuilds.filter fun e => live e.who } }

/-- Halt a ring with a cause (R255 steps 1 and 2): descriptors not started and prefetched copies are dropped. -/
def Ctl.haltRing (m : Ctl) (r cause : Nat) : Ctl :=
  let m :=
    if m.ringState r == rsHalted || m.ringState r == rsAborted then m
    else ((m.set F.RING_STATUS_STATE r rsHalted).set F.RING_STATUS_CAUSE r cause).bump F.MOV_HALTS_COUNT
  let waiting := (m.ring r).prog.filter fun d => d.phase = .waiting
  let m := match waiting.head? with
    | some d => m.set F.RING_NEXT_NEXT r d.idx
    | none => m
  (m.dropFetches r).modRing r fun x => { x with pre := [], prog := x.prog.filter fun d => d.phase != .waiting }

/-- When a halted ring has nothing left to complete, its halt is notified (R255 step 4). -/
def Ctl.haltNotify (m : Ctl) (r : Nat) : Ctl :=
  if m.ringState r == rsHalted && (m.ring r).prog.isEmpty then (m.notify r).raise 0x0E0 else m

/-- End a descriptor: its record may now be written. A status that halts halts the ring (R255). -/
def Ctl.endProg (m : Ctl) (r i status result : Nat) : Ctl :=
  match m.prog? r i with
  | none => m
  | some d =>
    if d.phase = .ended then m
    else
      let m := m.modProg r i fun d => { d with phase := .ended, status := status, result := result }
      if haltsRing status then m.haltRing r status else m

/-- The total that a descriptor's `next` runs to: bytes, or elements of GATHER and SCATTER. -/
def Prog.total (d : Prog) : Nat := d.length

/-- PROGRESS of a descriptor (R251). -/
def Prog.progress (d : Prog) : Nat :=
  if !opDest d.op then 0
  else if d.status = 0 then d.total
  else (d.bads ++ d.grans.map (·.off)).foldl min d.next

/-- End a running data descriptor whose granules are all performed, once it is finished or stopped. -/
def Ctl.closeProg (m : Ctl) (r i : Nat) : Ctl :=
  match m.prog? r i with
  | none => m
  | some d =>
    if d.phase = .running && opDest d.op && d.grans.isEmpty then
      match d.stop with
      | some s => m.endProg r i s.status s.result
      | none => if d.total ≤ d.next then m.endProg r i 0 d.result else m
    else m

/-- Granules whose writes have not been entered are given up: they count as not performed (R251, R266 step 1). -/
def Prog.giveUp (d : Prog) : Prog :=
  let out := fun (g : Gran) => (Sparse.find d.bufs g.id).isSome
  { d with grans := d.grans.filter (fun g => !out g), bads := d.bads ++ (d.grans.filter out).map (·.off), bufs := [] }

/-- Stop a descriptor: it enters no further granule, and the first reason stands (R266, R267). -/
def Ctl.stopProg (m : Ctl) (r i : Nat) (s : Stop) : Ctl :=
  m.modProg r i fun d => { d.giveUp with stop := some (d.stop.getD s) }

/-- The data of a granule came back after its descriptor had stopped: its write is not entered (R266 step 1). -/
def Ctl.granSkip (m : Ctl) (r i id : Nat) : Ctl :=
  (m.modProg r i fun d =>
    { d with grans := d.grans.filter (fun g => g.id != id),
             bads := d.bads ++ (d.grans.filter fun g => g.id == id && g.len != 0).map (·.off) }).closeProg r i

/-- A granule has been performed: `len` destination bytes. -/
def Ctl.granDone (m : Ctl) (r i id len : Nat) : Ctl :=
  let m := m.modProg r i fun d => { d with grans := d.grans.filter fun g => g.id != id }
  let m := m.put F.MOV_BYTES (m.get F.MOV_BYTES + len)
  m.closeProg r i

/-- A granule has failed: it counts as not performed, and the descriptor stops. -/
def Ctl.granFail (m : Ctl) (r i id : Nat) (s : Stop) : Ctl :=
  let m := m.modProg r i fun d =>
    match d.grans.find? fun g => g.id == id with
    | some g => { d with grans := d.grans.filter fun g => g.id != id, bads := g.off :: d.bads }
    | none => d
  (m.stopProg r i s).closeProg r i

/-- Bytes 32 to 63 of a slot: the completion record of a descriptor (R250). -/
def recordBytes (m : Ctl) (d : Prog) : List Byte :=
  let addr := match d.stop with | some s => s.addr | none => 0
  let remote := match d.stop with | some s => s.remote | none => false
  let body :=
    [BitVec.ofNat 8 d.status, BitVec.ofNat 8 (128 + 2 * b2n remote + b2n d.linkErr)] ++
      leBytes 6 (if m.numValid then m.orbit else 0) ++ leBytes 8 d.cookie ++ leBytes 4 d.progress ++
      leBytes 4 d.result ++ leBytes 6 addr
  body ++ leBytes 2 (crc16 body)

/-- Advance CONS past every performed record that is next in ring order, and notify once where one of them asked
for it (R254); an ABORTED ring sends no notification (R268). -/
def Ctl.advanceCons : Nat → Ctl → Nat → Bool → Ctl
  | 0, m, r, note => if note && m.ringState r != rsAborted then m.notify r else m
  | n + 1, m, r, note =>
    let cons := m.get F.RING_CONS_CONS r
    match (m.ring r).done.find? fun e => e.1 == cons with
    | some e =>
      let m := m.modRing r fun x => { x with done := x.done.filter fun e => e.1 != cons }
      Ctl.advanceCons n (m.set F.RING_CONS_CONS r (cons + 1)) r (note || e.2)
    | none => if note && m.ringState r != rsAborted then m.notify r else m

/-- The descriptor that a record belongs to: one in progress, or one held for the retry of RESUME (R255). -/
def Ctl.recorded? (m : Ctl) (r i : Nat) : Option Prog :=
  ((m.ring r).prog ++ (m.ring r).failed).find? fun d => d.idx == i

/-- A record has been performed: the descriptor is no longer in progress and CONS advances (R254). -/
def Ctl.recordDone (m : Ctl) (r : Nat) (d : Prog) : Ctl :=
  let m := m.freeEngine r d.idx
  let m := m.modRing r fun x =>
    { x with prog := x.prog.filter fun e => e.idx != d.idx, failed := x.failed.filter fun e => e.idx != d.idx,
             done := x.done ++ [(d.idx, bit d.flags 0)] }
  let m := m.put F.MOV_DESC (m.get F.MOV_DESC + 1)
  let m := Ctl.advanceCons 10 m r false
  let m :=
    if m.ringState r == rsRunning && m.get F.RING_CONS_CONS r == m.get F.RING_PROD_PROD r then
      m.set F.RING_STATUS_STATE r rsIdle
    else m
  m.haltNotify r

/-- A record write has failed: the descriptor is held for RESUME and the ring halts (R255). -/
def Ctl.recordFail (m : Ctl) (r : Nat) (d : Prog) (cause : Nat) : Ctl :=
  let m := m.freeEngine r d.idx
  let m := m.modRing r fun x =>
    { x with prog := x.prog.filter fun e => e.idx != d.idx, failed := (x.failed.filter fun e => e.idx != d.idx) ++ [d] }
  ((m.set F.RING_STATUS_RECORD_FAIL r 1).haltRing r cause).haltNotify r

/-- The fetch of the slot at NEXT has failed: the ring halts (R255). -/
def Ctl.fetchFail (m : Ctl) (r cause : Nat) : Ctl :=
  ((m.set F.RING_STATUS_FETCH_FAIL r 1).haltRing r cause).haltNotify r

/-- A fetch has failed: at NEXT it halts the ring; further ahead it is retried when the slot is at NEXT (R255). -/
def Ctl.fetchLost (m : Ctl) (r i cause : Nat) : Ctl :=
  if !(m.ring r).pre.any fun p => p.idx == i then m
  else if i = m.get F.RING_NEXT_NEXT r then m.fetchFail r cause
  else m.modRing r fun x => { x with pre := x.pre.map fun p => if p.idx == i then { p with failed := some cause } else p }

/-- A fetch has come back with the slot's bytes. -/
def Ctl.fetchDone (m : Ctl) (r i : Nat) (bs : List Byte) : Ctl :=
  m.modRing r fun x => { x with pre := x.pre.map fun p => if p.idx == i then { p with bytes := some bs } else p }

/-- End every descriptor of a ring that is gated on an orbit number with ORBIT_DISCONTINUITY (R39, R246, R262). -/
def Ctl.discontinueRing (m : Ctl) (r : Nat) : Ctl :=
  let gated := (m.ring r).prog.filter fun d =>
    (d.phase = .waiting && d.after != 0) || (d.phase = .running && d.op == 9)
  gated.foldl (fun m d =>
    let m := m.modProg r d.idx fun e => { e with phase := .running }
    m.endProg r d.idx 0x14 0) m

/-- The rings that have anything in progress. -/
def Ctl.busyRings (m : Ctl) : List Nat := m.rings.map (·.1)

/-- End every orbit-gated descriptor (R39). -/
def Ctl.discontinueAll (m : Ctl) : Ctl := m.busyRings.foldl Ctl.discontinueRing m

end Sys2Proof.Machine
end

