-- ==== Sys2Proof/Machine/Fabric.lean ====
section
/-!
DEFINITION. Peer links as shared operations (chapters 11 and 12): frames, TAGs and outstanding operations, the answers
they end with, apertures and ingress windows, mirror regions and their dirty granules, and a link going DOWN.
-/

namespace Sys2Proof.Machine

/-! ## Links -/

/-- A peer link by index. -/
def Ctl.lnk (m : Ctl) (l : Nat) : LinkSt := Sparse.getD m.links l {}

/-- Change a peer link. -/
def Ctl.modLnk (m : Ctl) (l : Nat) (f : LinkSt → LinkSt) : Ctl :=
  { m with links := Sparse.setD m.links l (f (m.lnk l)) {} }

/-- Is a link UP? -/
def Ctl.plUp (m : Ctl) (l : Nat) : Bool := m.get F.PL_PHY_STATUS_STATE l == 2

/-- A link index as an agent. -/
def linkOf (l : Nat) : Link := if l = 0 then .l0 else .l1

/-- Queue a control frame. A sequenced one takes its CSEQ, and its place in the replay buffer, when it is sent (R316). -/
def Ctl.sendCtl (m : Ctl) (l body : Nat) : Ctl :=
  if m.plUp l then m.modLnk l fun x => { x with tx := x.tx ++ [.ctl body] } else m

/-- A received burst is in progress: the next pair of it would come within a pair and a marker of the latest (R298). -/
def Ctl.rxBurst (m : Ctl) (l : Nat) : Bool :=
  match (m.lnk l).rxAt with
  | some t => decide (m.now < t + 203290) && !(m.lnk l).rxDead
  | none => false

/-- Queue a data frame. -/
def Ctl.sendData (m : Ctl) (l body : Nat) (words : List Nat) : Ctl :=
  if m.plUp l then m.modLnk l fun x => { x with tx := x.tx ++ [.data body words] } else m

/-- The body of a DATA_HDR (R318). -/
def dataHdr (kind tag nwords : Nat) (be : Option Nat) (pmask region addr : Nat) : Nat :=
  kind + tag * 2 ^ 4 + (nwords - 1) * 2 ^ 12 + b2n be.isSome * 2 ^ 16 + pmask * 2 ^ 17 + region * 2 ^ 25 +
    addr * 2 ^ 29 + be.getD 0 * 2 ^ 66

/-- The body of a CPL without its CSEQ (R315). -/
def cplBody (tag status : Nat) (derr mirror : Bool) : Nat :=
  2 + tag * 2 ^ 16 + status * 2 ^ 24 + b2n derr * 2 ^ 28 + b2n mirror * 2 ^ 29

/-- The body of a MIR_CTL without its CSEQ. -/
def mirCtl (region cmd : Nat) : Nat := 3 + region * 2 ^ 16 + cmd * 2 ^ 20

/-- A free TAG of a link (R317). -/
def Ctl.freeTag (m : Ctl) (l : Nat) : Option Nat :=
  (List.range 256).find? fun t => !(m.lnk l).ops.any fun o => o.tag == t

/-- Record an outstanding operation. -/
def Ctl.addOp (m : Ctl) (l : Nat) (o : LinkOp) : Ctl :=
  m.modLnk l fun x => { x with ops := x.ops ++ [{ o with sent := m.bnd }] }

/-! ## Mirror regions -/

/-- Mirror regions by number. -/
def Ctl.mir (m : Ctl) (r : Nat) : Mir := Sparse.getD m.mirs r {}

/-- Change a region. -/
def Ctl.modMir (m : Ctl) (r : Nat) (f : Mir → Mir) : Ctl :=
  { m with mirs := Sparse.setD m.mirs r (f (m.mir r)) {} }

/-- State of a region (R329). -/
def Ctl.mirState (m : Ctl) (r : Nat) : Nat := m.get F.MIR_STATUS_STATE r

/-- Granules of a region. -/
def Ctl.mirSize (m : Ctl) (r : Nat) : Nat := m.get F.MIR_SIZE_LAST r + 1

/-- Is a region enabled, in a role (1 PRIMARY, 2 SECONDARY)? -/
def Ctl.mirIs (m : Ctl) (r role : Nat) : Bool :=
  m.get F.MIR_CTRL_ROLE r == role && m.mirState r != 0 && m.mirState r != 5

/-- The region in a role that contains an address. -/
def Ctl.mirAt (m : Ctl) (role addr : Nat) : Option Nat :=
  (List.range 16).find? fun r =>
    m.mirIs r role && decide (m.get F.MIR_LBASE_BASE r ≤ addr / 65536) &&
      decide (addr / 65536 < m.get F.MIR_LBASE_BASE r + m.mirSize r)

/-- Add a granule to rising ranges. -/
def rangeAdd (g : Nat) : List (Nat × Nat) → List (Nat × Nat)
  | [] => [(g, g + 1)]
  | (a, b) :: r =>
    if g + 1 < a then (g, g + 1) :: (a, b) :: r
    else if g + 1 = a then (g, b) :: r
    else if g < b then (a, b) :: r
    else if g = b then (match r with | (c, d) :: r' => if b + 1 = c then (a, d) :: r' else (a, b + 1) :: r | [] => [(a, b + 1)])
    else (a, b) :: rangeAdd g r

/-- Take a granule out of rising ranges. -/
def rangeDel (g : Nat) : List (Nat × Nat) → List (Nat × Nat)
  | [] => []
  | (a, b) :: r =>
    if g < a || b ≤ g then (a, b) :: rangeDel g r
    else (if a < g then [(a, g)] else []) ++ (if g + 1 < b then [(g + 1, b)] else []) ++ r

/-- How many granules rising ranges hold. -/
def rangeCount (l : List (Nat × Nat)) : Nat := (l.map fun e => e.2 - e.1).sum

/-- Change a region's dirty bitmap; its home is the cellar (R329). -/
def Mir.setDirty (x : Mir) (l : List (Nat × Nat)) : Mir := { x with dirty := l, stale := true }

/-- Mark the granule of an address dirty (R327). A SYNCED region has no dirty granule: it is RESYNCING. -/
def Ctl.markDirty (m : Ctl) (r addr : Nat) : Ctl :=
  if m.mirIs r 1 then
    let m := m.modMir r fun x => x.setDirty (rangeAdd (addr / 65536 - m.get F.MIR_LBASE_BASE r) x.dirty)
    if m.mirState r == 1 then m.set F.MIR_STATUS_STATE r 2 else m
  else m

/-- A region becomes BROKEN (R329); `loud` where it left SYNCED or RESYNCING through its link or peer. -/
def Ctl.breakMir (m : Ctl) (r : Nat) (loud : Bool) : Ctl :=
  let s := m.mirState r
  let m := (m.set F.MIR_STATUS_STATE r 3).modMir r fun x =>
    match x.walk with
    | some w => { x.setDirty (rangeAdd w.1 x.dirty) with retry := true, walk := none }
    | none => { x with retry := true }
  let m := if s == 3 then m else m.bump F.MIR_COUNT_BREAKS r
  if loud && (s == 1 || s == 2) then m.raise 0x0B8 r else m

/-- Is the oldest unanswered MIR_WR of a region older than its lag budget (R327)? -/
def Ctl.lagging (m : Ctl) (r : Nat) : Bool :=
  (m.lnk (m.get F.MIR_CTRL_LINK r)).ops.any fun o =>
    match o.kind with
    | .mirror g _ => g == r && !o.dead && decide (m.get F.MIR_CTRL_LAG r < m.bnd - o.sent)
    | _ => false

/-- Does a region act synchronously now (R327)? -/
def Ctl.mirSync (m : Ctl) (r : Nat) : Bool := m.get F.MIR_CTRL_LAG r == 0 || m.lagging r

/-- Does a write into a 64 B line find the TAGs that mirroring it needs (R317)? -/
def Ctl.mirReady (m : Ctl) (addr : Nat) : Bool :=
  match m.mirAt 1 addr with
  | none => true
  | some r =>
    let l := m.get F.MIR_CTRL_LINK r
    !(m.mirState r == 1 || m.mirState r == 2) || !m.plUp l || (m.freeTag l).isSome

/-- Mirror the bytes of a performed write that lies within one 64 B line (R326, R327): send them as a MIR_WR, or mark
the granule dirty. `be` enables bytes of the line from its first 32 B word named by `addr`. -/
def Ctl.mirrorWrite (m : Ctl) (who : Who) (addr : Nat) (words : List Nat) (be : Option Nat) : Ctl :=
  match m.mirAt 1 addr with
  | none => m
  | some r =>
    let l := m.get F.MIR_CTRL_LINK r
    if (m.mirState r == 1 || m.mirState r == 2) && m.plUp l then
      match m.freeTag l with
      | none => m.markDirty r addr
      | some t =>
        let ra := (addr - m.get F.MIR_LBASE_BASE r * 65536 + m.get F.MIR_RBASE_RBASE r * 65536) % 2 ^ 37
        let holder := if m.mirSync r then some who else none
        (m.addOp l { tag := t, kind := .mirror r holder, addr := ra, loc := addr, len := 32 * words.length }).sendData l
          (dataHdr 3 t words.length be 0 r ra) words
    else m.markDirty r addr

/-- Is an address in an enabled SECONDARY region: frozen for every write but its pair's (R328)? -/
def Ctl.frozen (m : Ctl) (addr : Nat) : Bool := (m.mirAt 2 addr).isSome

/-! ## Apertures and ingress windows -/

/-- The aperture that serves a port request: the link and the peer's address (R321), in the 37 bits of a frame's ADDR (R315). -/
def Ctl.aperture (m : Ctl) (addr : Nat) : Option (Nat × Nat) :=
  let hit := (List.range 8).find? fun i =>
    m.is F.PL_AP_CTRL_EN i && decide (m.get F.PL_AP_LBASE_BASE i ≤ addr / 65536) &&
      decide (addr / 65536 ≤ m.get F.PL_AP_LLIMIT_LIMIT i)
  hit.map fun i => (i / 4, (m.get F.PL_AP_RBASE_RBASE i * 65536 + (addr - m.get F.PL_AP_LBASE_BASE i * 65536)) % 2 ^ 37)

/-- Do a link's ingress windows allow an access (R322)? -/
def Ctl.ingressOk (m : Ctl) (l : Nat) (wr : Bool) (addr : Nat) : Bool :=
  (List.range 4).any fun w =>
    let i := l * 4 + w
    m.is F.PL_RW_CTRL_EN i && (if wr then m.is F.PL_RW_CTRL_WR i else m.is F.PL_RW_CTRL_RD i) &&
      decide (m.get F.PL_RW_BASE_BASE i ≤ addr / 65536) && decide (addr / 65536 ≤ m.get F.PL_RW_LIMIT_LIMIT i)

/-! ## Ends of operations -/

/-- End a local write that has been performed here: complete it to whoever asked (R122, R254, R322). -/
def Ctl.finishWrite (m : Ctl) (who : Who) (status : Nat) (bad : Option Nat) (len : Nat) : Ctl :=
  match who with
  | .port p pos => m.finishReq p pos status (bad := bad)
  | .svc id =>
    let m := m.count 5 len
    { m with svc := { m.svc with
        tlps := m.svc.tlps.filterMap fun t =>
          if t.wr && decide (t.id ≤ id) && decide (id < t.id + t.count) then
            (if t.left ≤ 1 then none else some { t with left := t.left - 1 })
          else some t
        reqs := m.svc.reqs.filter fun r => r.pos != id } }
  | .link l id =>
    match (m.lnk l.idx).ins.find? fun o => o.id == id with
    | none => m
    | some o =>
      let st := firstStatus o.status status
      if o.left ≤ 1 then
        (m.modLnk l.idx fun x => { x with ins := x.ins.filter fun q => q.id != id }).sendCtl l.idx
          (cplBody o.tag st o.derr o.mirror)
      else
        m.modLnk l.idx fun x => { x with ins := x.ins.map fun q =>
          if q.id == id then { q with left := q.left - 1, status := st } else q }
  | .engine r i g _ =>
    if g = recordGran then
      match m.recorded? r i with
      | some d => m.recordDone r d
      | none => m
    else
      match bad with
      | some a => m.granFail r i g { status := 0x10, addr := a }
      | none => m.granDone r i g len
  | .bg _ _ _ _ => m

/-- Is a mirror frame of a writer still unanswered? -/
def Ctl.mirHeld (m : Ctl) (who : Who) : Bool :=
  m.links.any fun e => e.2.ops.any fun o =>
    match o.kind with
    | .mirror _ (some h) => decide (h = who) && !o.dead
    | _ => false

/-- A write has been performed here in full: it completes now, or when its mirror frames are answered (R327). -/
def Ctl.writePerformed (m : Ctl) (who : Who) (status : Nat) (bad : Option Nat) (len : Nat) : Ctl :=
  if m.mirHeld who then
    let m := match who with
      | .port p pos => m.modReq p pos fun r => { r with st := .performed }
      | _ => m
    { m with mirWait := m.mirWait ++ [{ who := who, status := status, bad := bad, len := len }] }
  else m.finishWrite who status bad len

/-- After a mirror operation has ended, complete the writer that waited for it, if nothing else holds it. -/
def Ctl.mirRelease (m : Ctl) (holder : Option Who) : Ctl :=
  match holder with
  | none => m
  | some who =>
    if m.mirHeld who then m
    else
      match m.mirWait.find? fun e => decide (e.who = who) with
      | some e => { m with mirWait := m.mirWait.filter fun f => !decide (f.who = who) }.finishWrite who e.status e.bad e.len
      | none => m

/-- How a remote operation ends without data (R323, R261, R327): `status` is the peer's, `reached` is false where the
peer could not be reached in time. -/
def Ctl.endOp (m : Ctl) (l : Nat) (o : LinkOp) (status : Nat) (reached derr : Bool) : Ctl :=
  let m := m.modLnk l fun x =>
    { x with ops := if reached || !m.plUp l then x.ops.filter fun q => q.tag != o.tag
                    else x.ops.map fun q => if q.tag == o.tag then { q with dead := true } else q }
  let port := if reached then status else stRemoteUnreachable
  match o.kind with
  | .rdPort p pos => m.finishReq p pos port
  | .wrPort p pos => m.finishReq p pos port (bad := if port = 1 then some o.loc else none)
  | .rdDesc r i g =>
    m.granFail r i g { status := 0x15, result := if reached then status else 0 }
  | .wrDesc r i g =>
    let m := if derr then m.modProg r i fun d => { d with linkErr := true } else m
    if reached && status = 0 then m.granDone r i g o.len
    else if reached && status = 1 then m.granFail r i g { status := 0x10, addr := o.addr, remote := true }
    else m.granFail r i g { status := 0x15, result := if reached then status else 0 }
  | .mirror r h =>
    let m := if reached && status = 0 then m else m.markDirty r o.loc
    m.mirRelease h
  | .resync r => if reached && status = 0 then m else m.markDirty r o.loc

/-- A link goes DOWN (R323, R329): operations end, regions on it break, and its replay state is cleared. -/
def Ctl.linkDown (m : Ctl) (l : Nat) : Ctl :=
  let was := m.get F.PL_PHY_STATUS_STATE l
  let m := m.set F.PL_PHY_STATUS_STATE l 0
  let m := ((m.set F.PL_PHY_STATUS_STEP l 0).set F.PL_PHY_STATUS_TX_AWAKE l 0).set F.PL_FAB_STATUS_PEER_VALID l 0
  let ops := (m.lnk l).ops.filter fun o => !o.dead
  let m := ops.foldl (fun m o => m.endOp l o 0 false false) m
  let m := m.modLnk l fun x =>
    { x with ops := [], ins := [], tx := [], rx := [], cbuf := [], cseq := 0, ce := 0, ctaken := false, cnak := false,
             again := [], nakIn := false, fromCount := 0, rxAt := none, aborts := [], idSeen := false, idAge := 0, sentOrbit := none, rxDead := false }
  if was = 2 then
    (List.range 16).foldl (fun m r =>
      if m.get F.MIR_CTRL_LINK r != l then m
      else if m.mirState r == 1 || m.mirState r == 2 then m.breakMir r true
      else if m.mirState r == 3 then m.modMir r fun x => { x with retry := true }
      else m) m
  else m

/-- Send the JOINs that are due on a link (R330): of BROKEN PRIMARY regions once the peer's first ID_BEACON has come, and at
an ID_BEACON of those in CONFLICT whose owner has committed a change. -/
def Ctl.joins (m : Ctl) (l : Nat) (conflict : Bool) : Ctl :=
  (List.range 16).foldl (fun m r =>
    if m.get F.MIR_CTRL_LINK r == l && m.mirIs r 1 && (m.mir r).retry && m.plUp l && (m.lnk l).idSeen &&
        (m.mirState r == 3 || (conflict && m.mirState r == 4)) then
      (m.sendCtl l (mirCtl r 1)).modMir r fun x => { x with retry := x.retry && m.mirState r == 4 }
    else m) m

end Sys2Proof.Machine
end

