-- ==== Sys2Proof/Machine/Timing.lean ====
section
/-!
DEFINITION. When a sequencer may issue a command (chapter 5): the timing table of R138, dies in eclipse, the data TSVs,
conflicts and order among queue entries, and what the next command of an entry is.
-/

namespace Sys2Proof.Machine

/-! ## Dies and phases -/

/-- A core die. -/
def Ctl.die (m : Ctl) (d : Nat) : Die := Sparse.getD m.dies d {}

/-- Change a core die. -/
def Ctl.modDie (m : Ctl) (d : Nat) (f : Die → Die) : Ctl :=
  { m with dies := Sparse.setD m.dies d (f (m.die d)) {} }

/-- Is a die hot (R46, R414)? While the orbit runs this is the state latched at its marker, and in QUARANTINE every die is
(R417). Where no marker latches one, in a sleep or before FUSELOAD, it is the state of the latest sample (DESIGN CHOICE, log
entry 128). -/
def Ctl.hotDie (m : Ctl) (d : Nat) : Bool :=
  if m.orb.run || m.inMode [.quarantine] then bit (m.get F.ORB_HOTMAP_HOT) d else bit (m.get F.THM_HOT_HOT) d

/-- The current phase (R40): 4096 phases in a period of the phase PLL from the start of the orbit. -/
def Ctl.phase (m : Ctl) : Nat := min 4095 ((m.now - m.orbitAt) * 4096 / m.orb.period)

/-- Phases in ps, by the phase PLL, rounded up. -/
def Ctl.phasePs (m : Ctl) (p : Nat) : Nat := (p * m.orb.period + 4095) / 4096

/-- When a phase of the current orbit begins. -/
def Ctl.phaseAt (m : Ctl) (p : Nat) : Nat := m.orbitAt + m.phasePs p

/-- Is a die in its transit: the phases from the end of its scheduled eclipse to the end of its slot (R48)? -/
def Ctl.inTransit (m : Ctl) (d : Nat) : Bool :=
  (m.die d).transit && decide (256 * d + 184 ≤ m.phase) && decide (m.phase ≤ 256 * d + 255)

/-- Let the time of an event that has a fixed phase come. -/
def Ctl.reach (m : Ctl) (t : Nat) : Ctl := { m with now := max m.now t }

/-- Is a target die within the span of R175 condition 3? -/
def Ctl.specSpan (m : Ctl) (d : Nat) : Bool :=
  let ahead := (256 * d + 4096 - m.phase) % 4096
  (m.die d).st != .quiet || (decide (0 < ahead) && decide (ahead ≤ 32))

/-! ## Timing -/

/-- Is a PC in narrow mode (R160)? -/
def Ctl.narrow (m : Ctl) (pc : Nat) : Bool := m.get F.CH_STATUS_MODE pc == 1

/-- A column slot of a PC in ps (R137). -/
def Ctl.colSlot (m : Ctl) (pc : Nat) : Nat := if m.narrow pc then 2 * m.slotPs else m.slotPs

/-- A column spacing, rounded up to whole doubled slots in narrow mode (R160). -/
def Ctl.ccd (m : Ctl) (pc ps : Nat) : Nat :=
  let s := m.colSlot pc
  if m.narrow pc then (ps + s - 1) / s * s else ps

/-- A parameter scaled by the PC's IR-drop step (R162). -/
def Ctl.irScale (m : Ctl) (pc ps : Nat) : Nat :=
  match m.get F.CH_STATUS_IRDROP pc with
  | 0 => ps
  | 1 => ps * 3 / 2
  | 2 => ps * 2
  | _ => ps * 4

/-- Is a command a column command? -/
def Cmd.isCol : Cmd → Bool
  | .rd => true | .wr => true | .xw => true | .load => true
  | _ => false

/-- Does a column command write? -/
def Cmd.isWr : Cmd → Bool
  | .wr => true | .xw => true
  | _ => false

/-- The spacing that R138 sets from an issued command to a candidate. -/
def Ctl.minGap (m : Ctl) (pc : Nat) (e : Issued) (c : Cmd) (b : BankIx) : Nat :=
  let sameBank := e.bank == b
  let sameDie := e.bank / 16 == b / 16
  let sameGrp := sameDie && e.bank % 16 / 4 == b % 16 / 4
  if e.cmd.isCol && c.isCol then
    let gap :=
      if sameGrp then m.ccd pc 2000 else if sameDie then m.colSlot pc else m.ccd pc 2000
    let wtr := if e.cmd.isWr && !c.isWr then (if sameGrp then 6000 else if sameDie then 2000 else 0) else 0
    max gap wtr
  else
    match e.cmd, c with
    | .pre, .act => if sameBank then 14000 else 0
    | .act, .act =>
      if sameBank then 42000 else if sameGrp then m.irScale pc 4000 else if sameDie then m.irScale pc 2000 else 0
    | .act, .pre => if sameBank then 28000 else 0
    | .act, _ => if sameBank && c.isCol then 16000 else 0
    | .pre, .nref => if sameBank then 14000 else 0
    | _, .pre => if sameBank && e.cmd.isCol then (if e.cmd.isWr then 4000 else 2000) else 0
    | _, _ => 0

/-- Start of a column command's data on the TSVs, after its issue. -/
def Cmd.dataAt (c : Cmd) : Nat := if c.isWr then 2000 else 14000

/-- Do the data of a candidate keep tTA from those of an issued column command of the other direction? -/
def Ctl.busOk (m : Ctl) (pc : Nat) (e : Issued) (c : Cmd) (t : Nat) : Bool :=
  if e.cmd.isCol && c.isCol && e.cmd.isWr != c.isWr then
    let s := m.colSlot pc
    let a := e.time + e.cmd.dataAt
    let b := t + c.dataAt
    decide (a + s + 2000 ≤ b) || decide (b + s + 2000 ≤ a)
  else true

/-- Does a read keep clear of the data-TSV time that a coming flush lead of another die reserves (R151, R152)? -/
def Ctl.reserveOk (m : Ctl) (pc : Nat) (c : Cmd) (b : BankIx) (t : Nat) : Bool :=
  c.isWr || m.dies.all fun e =>
    match e.2.leadAt with
    | some lead =>
      let k := ((m.pc pc).dirtyOf e.1).length
      if e.2.st = .cut && e.1 != b / 16 && k != 0 then
        let s := m.colSlot pc
        let lo := lead + 2000
        let hi := lead + 2000 + (k - 1) * m.ccd pc 2000 + s
        decide (t + 14000 + s + 2000 ≤ lo) || decide (hi + 2000 ≤ t + 14000)
      else true
    | none => true

/-- Does every timing parameter allow a command at a time (R138)? -/
def Ctl.timeOk (m : Ctl) (pc : Nat) (c : Cmd) (b : BankIx) (t : Nat) : Bool :=
  let h := (m.pc pc).hist
  (h.all fun e => (m.minGap pc e c b == 0 || decide (e.time + m.minGap pc e c b ≤ t)) && m.busOk pc e c t) &&
  (c != .act || decide ((h.filter fun e => decide (e.cmd = .act) && e.bank / 16 == b / 16 &&
    decide (t < e.time + m.irScale pc 12000)).length < 4)) &&
  (!c.isCol || m.reserveOk pc c b t)

/-- The first command slot of `n` from a time on in which a command may issue. -/
def Ctl.soonest (m : Ctl) (pc : Nat) (c : Cmd) (b : BankIx) : Nat → Nat → Nat
  | 0, t => t
  | n + 1, t => if m.timeOk pc c b t then t else Ctl.soonest m pc c b n (t + m.slotPs)

/-- Record an issued command, forgetting those that no parameter can refer to any more. -/
def Ctl.note (m : Ctl) (pc : Nat) (c : Cmd) (b : BankIx) (t : Nat) : Ctl :=
  m.modPc pc fun x =>
    { x with hist := (x.hist.filter fun e => decide (t < e.time + 64000)) ++ [{ cmd := c, bank := b, time := t }] }

/-! ## Entries -/

/-- A line of user space in its PC: bank, physical row, and the even word of its column. -/
def Ctl.lineAt (m : Ctl) (line : Nat) : Loc :=
  let p := m.place (64 * line)
  { bank := p.bank, row := m.physRow p.pc p.bank p.row, word := p.word }

/-- The lines that a range touches. -/
def linesOf (addr len : Nat) : List Nat :=
  if len = 0 then [] else (List.range ((addr + len - 1) / 64 - addr / 64 + 1)).map (· + addr / 64)

/-- Enables of a 32 B word of user space in a job, as a number of 32 bits. -/
def Job.enables (j : Job) (word : Nat) : Nat :=
  let a := 32 * word
  if a < j.addr then (j.be <<< (j.addr - a)) % 2 ^ 32 else (j.be >>> (a - j.addr)) % 2 ^ 32

/-- New bytes of a word of user space in a job, as a number. -/
def Job.newWord (j : Job) (word : Nat) : Nat :=
  let a := 32 * word
  if a < j.addr then (leNat j.data <<< (8 * (j.addr - a))) % 2 ^ 256 else leNat ((j.data.drop (a - j.addr)).take 32)

/-- All 32 enables of a word. -/
def allBe : Nat := 2 ^ 32 - 1

/-- The bytes that enables name, as a mask of 256 bits. -/
def beMask (be : Nat) : Nat :=
  (List.range 32).foldl (fun acc i => if bit be i then acc + 255 * 2 ^ (8 * i) else acc) 0

/-- Must a line of a job be read before it is written: a part-covered word, or a press (R146, R258)? -/
def Job.merges (j : Job) (line : Nat) : Bool :=
  match j.acc with
  | .read => false
  | .press => true
  | .write => [2 * line, 2 * line + 1].any fun w => let e := j.enables w; e != 0 && e != allBe

/-- Does a line of a job await data that are not yet fixed: a read whose word must be rebuilt (R192)? -/
def Pc.unfixed (x : Pc) (who : Who) (line : Nat) : Bool :=
  (x.rebuilds.any fun r => decide (r.who = who) && r.line == line) ||
    x.flights.any fun f => decide (f.who = who) && f.line == line &&
      f.raw.any fun r => decide (Got.ofRaw r = .uncorrectable)

/-- Does a row await a rebuild, so that no write column may issue to it (R194)? -/
def Pc.rebuilding (x : Pc) (b : BankIx) (row : Nat) : Bool :=
  (x.rebuilds.any fun r => r.loc.bank == b && r.loc.row == row) ||
    x.flights.any fun f => f.bank == b && f.row == row && f.raw.any fun r => decide (Got.ofRaw r = .uncorrectable)

/-- Is anything of a job in its queue still to be performed? -/
def Pc.jobOpen (x : Pc) (j : Job) : Bool :=
  !j.todo.isEmpty || (linesOf j.addr j.len).any fun l => x.unfixed j.who l

/-- Has an agent's access anything still to be performed in any PC? -/
def Ctl.whoOpen (m : Ctl) (who : Who) : Bool :=
  m.pcs.any fun e =>
    (e.2.ingress.any fun j => decide (j.who = who)) ||
      e.2.queue.any fun j => decide (j.who = who) && e.2.jobOpen j

/-- Do two entries conflict (R132)? A background operation may write any granule that it names. -/
def conflicts (x : Pc) (older j : Job) (line : Nat) : Bool :=
  (older.acc != .read || j.acc != .read) &&
    (older.todo.contains line || x.unfixed older.who line)

/-- Is a peer request that came earlier on the same link still to be performed (R322)? -/
def Ctl.linkBlocked (m : Ctl) (j : Job) : Bool :=
  match j.who with
  | .link l id => (m.lnk l.idx).ins.any fun o => decide (o.id < id) && m.whoOpen (.link l o.id)
  | _ => false

/-- The class of an entry now (R141): 7 once it is older than the age limit. -/
def Ctl.classNow (m : Ctl) (pc : Nat) (j : Job) (t : Nat) : Nat :=
  if j.arrival + 256000 * 2 ^ min (m.get F.CH_CFG_AGE pc) 6 ≤ t then 7 else j.cls

/-- May a confirming read of this job be served from a curd entry (R178)? -/
def Job.confirms (j : Job) : Bool := decide (j.acc = .read)

/-- The next command of an entry (R142). -/
inductive Move where
  | curd (line : Nat)
  | act (b : BankIx) (row : Nat)
  | pre (b : BankIx)
  | writeBack (b : BankIx) (close : Bool)
  | load (b : BankIx) (row : Nat)
  | read (line : Nat) (merge : Bool)
  | write (line : Nat)
deriving DecidableEq, Repr

/-- May the entry of a bank be written back now (R148)? -/
def Bank.canWriteBack (k : Bank) : Bool := k.rets.isEmpty && !k.pce.loading && k.pce.st = .dirty

/-- Close a bank: by precharge, or by the write-back that a DIRTY entry needs first (R142, R150). -/
def Ctl.closeMove (m : Ctl) (pc : Nat) (b : BankIx) (t : Nat) : Option Move :=
  let k := (m.pc pc).bank b
  if k.pce.st = .dirty || !k.rets.isEmpty || k.pce.loading then
    if k.canWriteBack && m.timeOk pc .wr b t && (m.die (b / 16)).st = .quiet then some (.writeBack b true) else none
  else if m.timeOk pc .pre b t then some (.pre b) else none

/-- The command that brings a row to be open (R142): nothing where it is open, and nothing inside where none may issue now. -/
def Ctl.openMove (m : Ctl) (pc : Nat) (b : BankIx) (row t : Nat) : Option (Option Move) :=
  match ((m.pc pc).bank b).row with
  | some r => if r = row then none else some (m.closeMove pc b t)
  | none => some (if m.timeOk pc .act b t then some (.act b row) else none)

/-- The command that prepares the page-code entry of an open row for a write (R147, R148): its load, or the write-back of the
die's oldest DIRTY entry where the write would make a third. -/
def Ctl.entryMove (m : Ctl) (pc : Nat) (b : BankIx) (row t : Nat) : Option (Option Move) :=
  let x := m.pc pc
  let k := x.bank b
  if k.pce.st = .invalid && !k.pce.loading then some (if m.timeOk pc .load b t then some (.load b row) else none)
  else if x.entryRoom b row then none
  else
    match x.dirtyOf (b / 16) with
    | (c, k') :: _ => some (if k'.canWriteBack && m.timeOk pc .wr c t then some (.writeBack c false) else none)
    | [] => none

/-- Is a bank stalled by a neighbour refresh, under way or due at once (R141, R158)? -/
def Pc.stalled (x : Pc) (b : BankIx) : Bool := (x.bank b).nref.isSome || x.nrefDue.any fun q => q.bank == b

/-- Is a curd entry of a line on its way, so that a confirming read waits for it (R179)? -/
def Pc.curdComing (x : Pc) (line : Nat) : Bool := x.curd.any fun c => c.line == line && c.st = .issued

/-- The next command of a queue entry, if it is eligible at a time (R141). `older` are the entries before it. -/
def Ctl.nextMove (m : Ctl) (pc : Nat) (older : List Job) (j : Job) (t : Nat) : Option Move :=
  let x := m.pc pc
  match j.who, j.todo with
  | .bg _ _ _ _, _ => none
  | _, [] => none
  | _, line :: _ =>
    let l := m.lineAt line
    let writes := j.acc != .read
    let est := (m.die (l.bank / 16)).st
    if est = .lead || est = .refresh || (est = .cut && writes) || x.stalled l.bank || !m.orderOk j || m.linkBlocked j ||
        older.any fun o => conflicts x o j line then none
    else if j.confirms && x.curd.any fun c => c.line == line && c.st = .filled then some (.curd line)
    else if j.confirms && x.curdComing line then none
    else
      match m.openMove pc l.bank l.row t with
      | some v => v
      | none =>
        if !writes then (if m.timeOk pc .rd l.bank t then some (.read line false) else none)
        else if j.merges line && j.merge.isNone then
          (if m.timeOk pc .rd l.bank t then some (.read line true) else none)
        else if j.merge = some [] || x.rebuilding l.bank l.row || !m.mirReady (64 * line) then none
        else
          match m.entryMove pc l.bank l.row t with
          | some v => v
          | none => if m.timeOk pc .xw l.bank t then some (.write line) else none

/-- Is the command one of the column path? -/
def Move.column : Move → Bool
  | .curd _ | .act _ _ | .pre _ => false
  | .writeBack _ _ | .load _ _ | .read _ _ | .write _ => true

/-- Is a field slice of a kind under way on a PC? -/
def Ctl.sliceOn (m : Ctl) (pc kind : Nat) : Bool := m.slices.any fun z => z.pc == pc && z.kind == kind

/-- Does a field march hold a bank of a PC (R451)? -/
def Ctl.sliceBank (m : Ctl) (pc : Nat) (b : BankIx) : Bool :=
  m.slices.any fun z => z.pc == pc && z.kind == 2 && z.die * 16 + z.bank == b

/-- Does a field slice hold a demand command of an entry (R451)? TSV_DELAY holds column commands, ROW_MARCH its bank, and
SEQ_CHECK all of them. -/
def Ctl.sliceStops (m : Ctl) (pc : Nat) (j : Job) (v : Move) : Bool :=
  m.sliceOn pc 3 || (m.sliceOn pc 1 && v.column) ||
    match j.todo with
    | line :: _ => m.sliceBank pc (m.lineAt line).bank
    | [] => false

/-- Every eligible entry with its next command, in queue order. -/
def Ctl.eligible (m : Ctl) (pc t : Nat) : List Job → List Job → List (Job × Move)
  | _, [] => []
  | older, j :: r =>
    let rest := Ctl.eligible m pc t (older ++ [j]) r
    match m.nextMove pc older j t with
    | some v => if m.sliceStops pc j v then rest else (j, v) :: rest
    | none => rest

/-- Does an entry's next line hit its bank's open row? -/
def Ctl.rowHit (m : Ctl) (pc : Nat) (j : Job) : Bool :=
  match j.todo with
  | [] => false
  | line :: _ => let l := m.lineAt line; ((m.pc pc).bank l.bank).row == some l.row

/-- The entry that R141 selects among those whose next command passes a test. While entries wait that a block reset left in the
queue, the first of them that is eligible runs (R163 T6). -/
def Ctl.select (m : Ctl) (pc t : Nat) (ok : Move → Bool) : Option (Job × Move) :=
  let cands := (m.eligible pc t [] (m.pc pc).queue).filter fun e => ok e.2
  if (m.pc pc).queue.any fun j => j.old && !j.todo.isEmpty then cands.find? fun e => e.1.old
  else
    let top := (cands.map fun e => m.classNow pc e.1 t).foldl max 0
    let cands := cands.filter fun e => m.classNow pc e.1 t == top
    let hits := cands.filter fun e => m.rowHit pc e.1
    let pool := if hits.isEmpty then cands else hits
    match pool with
    | [] => none
    | e :: r => some (r.foldl (fun best y => if y.1.arrival < best.1.arrival then y else best) e)

end Sys2Proof.Machine
end

