-- ==== Sys2Proof/Machine/Seq.lean ====
section
/-!
DEFINITION. The channel sequencer at work (chapters 5 to 7): entering jobs, issuing their commands, answering the agents
when data are returned, and the comet engine's targets.
-/

namespace Sys2Proof.Machine

/-! ## Entering work -/

/-- Hand a job to the ingress of its PC. -/
def Ctl.submit (m : Ctl) (pc : Nat) (j : Job) : Ctl :=
  m.modPc pc fun x => { x with ingress := x.ingress ++ [{ j with since := m.now }] }

/-- The enables of a write of whole words. -/
def fullBe (len : Nat) : Nat := 2 ^ len - 1

/-- Hand a granule of a descriptor to the ingress of its PC (R247). -/
def Ctl.submitGran (m : Ctl) (r i id : Nat) (src : Bool) (acc : Access) (addr len : Nat) (data : List Byte)
    (etype label : Nat) (mates : List Nat := []) : Ctl :=
  m.submit (m.place addr).pc
    { who := .engine r i id src, acc := acc, addr := addr, len := len, data := data, be := fullBe len,
      etype := etype, label := label, mates := mates }

/-- Has an agent's access been handed over and not yet been performed? -/
def Ctl.underWay (m : Ctl) (who : Who) : Bool :=
  (m.mirWait.any fun e => decide (e.who = who)) ||
    m.pcs.any fun e => (e.2.ingress ++ e.2.queue).any fun j => decide (j.who = who)

/-- Statuses of R253 that stop a granule, from the port status of R123 (R267). -/
def granStatus (status : Nat) : Nat :=
  if status = stRetired then 0x1C
  else if status = stChannelUnavailable then 0x1D
  else if status = stSplitReadonly then 0x19
  else 0x1C

/-! ## Answers of reads -/

/-- The bytes of a range out of words by address div 32. -/
def wordsBytes (got : Sparse Nat) (addr len : Nat) : List Byte :=
  let ws := (List.range ((addr + len - 1) / 32 - addr / 32 + 1)).map fun k => Sparse.getD got (addr / 32 + k) 0
  (((ws.map (leBytes 32)).flatten).drop (addr % 32)).take len

/-- Completions of a BAR2 read (R340): one up to each 256 B boundary, poisoned where it holds a bad word. -/
def Ctl.svcComplete (m : Ctl) : Nat → Tlp → Nat → Nat → Ctl
  | 0, _, _, _ => m
  | n + 1, t, addr, len =>
    if len = 0 then m
    else
      let here := min len (256 - addr % 256)
      let bs := wordsBytes t.got addr here
      let dws := (List.range ((here + 3) / 4)).map fun k => leNat ((bs.drop (4 * k)).take 4)
      let bad := t.bads.any fun b => decide (addr / 32 * 32 ≤ b) && decide (b < addr + here)
      Ctl.svcComplete (m.emit (.tlpData dws bad)) n t (addr + here) (len - here)

/-- Is a place in the service port's order that of a granule of this request? -/
def Tlp.covers (t : Tlp) (pos : Nat) : Bool := decide (t.id ≤ pos) && decide (pos < t.id + t.count)

/-- A granule of a BAR2 read has been answered: `ok` is false for a Completer Abort (R339). -/
def Ctl.svcRead (m : Ctl) (id : Nat) (got : Sparse Nat) (bads : List Nat) (ok : Bool) : Ctl :=
  match m.svc.tlps.find? fun t => t.covers id with
  | none => m
  | some t =>
    let t := { t with left := t.left - 1, got := got.foldl (fun g e => Sparse.put g e.1 e.2) t.got,
                      bads := t.bads ++ bads, abort := t.abort || !ok }
    if t.left = 0 then
      let m := { m with svc := { m.svc with tlps := m.svc.tlps.filter fun q => q.id != t.id,
                                            reqs := m.svc.reqs.filter fun q => !t.covers q.pos } }
      if t.abort then m.emit (.tlpStatus 2)
      else
        let m := (m.svcComplete 17 t t.addr t.len).count 4 t.len
        if t.bads.isEmpty then m else m.msix (m.get F.SVC_VEC_TRAP)
    else
      { m with svc := { m.svc with tlps := m.svc.tlps.map fun q => if q.id == t.id then t else q } }

/-- A granule of a peer's read has been answered (R322): the whole read answers with RD_DATA, or with the status of
the first granule that was refused. -/
def Ctl.linkRead (m : Ctl) (l id : Nat) (got : Sparse Nat) (bads : List Nat) (status : Nat) : Ctl :=
  match (m.lnk l).ins.find? fun o => o.id == id with
  | none => m
  | some o =>
    let o := { o with left := o.left - 1, got := got.foldl (fun g e => Sparse.put g e.1 e.2) o.got,
                      bads := o.bads ++ bads, status := firstStatus o.status status }
    if o.left = 0 then
      let m := m.modLnk l fun x => { x with ins := x.ins.filter fun q => q.id != id }
      if o.status != 0 then m.sendCtl l (cplBody o.tag o.status false false)
      else
        let n := o.len / 32
        let mask := (List.range n).foldl (fun acc k => if o.bads.contains (o.addr + 32 * k) then acc + 2 ^ k else acc) 0
        m.sendData l (dataHdr 2 o.tag n none mask 0 o.addr)
          ((List.range n).map fun k => Sparse.getD o.got (o.addr / 32 + k) 0)
    else m.modLnk l fun x => { x with ins := x.ins.map fun q => if q.id == id then o else q }

/-- The lowest of a list of addresses. -/
def lowestOf : List Nat → Option Nat
  | [] => none
  | a :: r => some (r.foldl min a)

/-- Keep the data read for a granule whose write is not entered yet. -/
def Ctl.keepData (m : Ctl) (r i id : Nat) (bs : List Byte) : Ctl :=
  m.modProg r i fun d => { d with bufs := Sparse.put d.bufs id bs }

/-- Enter the writes of an element of a GATHER or SCATTER once all of its parts have been read (R251, R259). -/
def Ctl.enterElem (m : Ctl) (r i off : Nat) : Ctl :=
  match m.prog? r i with
  | none => m
  | some d =>
    let parts := d.grans.filter fun g => g.off == off && g.len != 0
    let data := parts.filterMap fun g => (Sparse.find d.bufs g.id).map fun bs => (g, bs)
    if (parts.map (·.len)).sum < d.elem || data.length < parts.length then m
    else
      let ids := parts.map (·.id)
      let m := m.modProg r i fun d => { d with bufs := ids.foldl (fun t k => Sparse.del t k) d.bufs }
      data.foldl (fun m e =>
        m.submitGran r i e.1.id false .write e.1.dst e.1.len e.2 0 d.session (ids.filter fun k => k != e.1.id)) m

/-- Send the data of a REMOTE_WRITE granule to the peer (R260, R319): it waits for a free TAG (R317), and fails where the link is
not UP (R261). -/
def Ctl.sendGran (m : Ctl) (r : Nat) (d : Prog) (g : Gran) (bs : List Byte) : Ctl :=
  let l := d.arg16 % 2
  if !m.plUp l then m.granFail r d.idx g.id { status := 0x15 }
  else
    match m.freeTag l with
    | none => m.keepData r d.idx g.id bs
    | some t =>
      let m := m.modProg r d.idx fun d => { d with bufs := Sparse.del d.bufs g.id }
      (m.addOp l { tag := t, kind := .wrDesc r d.idx g.id, addr := g.dst, len := g.len }).sendData l
        (dataHdr 1 t (g.len / 32) none 0 0 g.dst)
        ((List.range (g.len / 32)).map fun k => leNat ((bs.drop (32 * k)).take 32))

/-- A fetch has been answered: the slot's bytes, or a word that could not be read (R255). -/
def Ctl.fetchRead (m : Ctl) (r i addr len : Nat) (got : Sparse Nat) (bads : List Nat) : Ctl :=
  if bads.isEmpty then m.fetchDone r i (wordsBytes got addr len) else m.fetchLost r i 0x10

/-- A local read of a descriptor has returned: its granule goes on to its destination, unless the descriptor has stopped (R247,
R258, R259, R261, R266). -/
def Ctl.engineRead (m : Ctl) (r i id addr len : Nat) (got : Sparse Nat) (bads : List Nat) : Ctl :=
  match m.prog? r i with
  | none => m
  | some d =>
    match d.grans.find? fun g => g.id == id with
    | none => m
    | some g =>
      match lowestOf bads with
      | some a => m.granFail r i id { status := 0x10, addr := a }
      | none =>
        let bs := wordsBytes got addr len
        if d.stop.isSome then m.granSkip r i id
        else if g.len = 0 then
          let m := m.modProg r i fun d =>
            { d with grans := d.grans.filter fun q => q.id != id,
                     idxs := (List.range (len / 4)).foldl (fun t k =>
                       Sparse.put t (g.off + k) (leNat ((bs.drop (4 * k)).take 4))) d.idxs }
          m.closeProg r i
        else
          match d.op with
          | 3 => m.submitGran r i id false .press g.dst g.len bs (d.arg16 % 4) d.session
          | 4 => (m.keepData r i id bs).enterElem r i g.off
          | 5 => (m.keepData r i id bs).enterElem r i g.off
          | 7 => m.sendGran r d g bs
          | _ => m.submitGran r i id false .write g.dst g.len bs 0 d.session

/-- A completion record could not be written (R255). -/
def Ctl.recordLost (m : Ctl) (r i cause : Nat) : Ctl :=
  match m.recorded? r i with
  | some d => m.recordFail r d cause
  | none => m

/-- Answer a read whose lines have all been returned. -/
def Ctl.answerRead (m : Ctl) (j : Job) : Ctl :=
  match j.who with
  | .port p pos =>
    m.finishReq p pos (if j.bads.isEmpty then stOk else stPoison) (corr := j.corr)
      (payload := some (wordsBytes j.got j.addr j.len)) (bad := lowestOf j.bads)
  | .svc id => m.svcRead id j.got j.bads true
  | .link l id => m.linkRead l.idx id j.got j.bads 0
  | .engine r i g _ => if g = fetchGran then m.fetchRead r i j.addr j.len j.got j.bads else m.engineRead r i g j.addr j.len j.got j.bads
  | .bg _ _ _ _ => m

/-- End a job that never reaches the array, with a port status (R161, R165, R328). -/
def Ctl.failJob (m : Ctl) (j : Job) (status : Nat) : Ctl :=
  match j.who with
  | .port p pos => m.finishReq p pos status
  | .svc id =>
    if j.acc = .read then m.svcRead id [] [] false
    else ((m.put F.SVC_ERR_WR_FAIL 1).emit (.aer 2)).finishWrite j.who 0 none 0
  | .link l id => if j.acc = .read then m.linkRead l.idx id [] [] status else m.finishWrite j.who status none 0
  | .engine r i g _ =>
    if g = fetchGran then m.fetchLost r i (granStatus status)
    else if g = recordGran then m.recordLost r i (granStatus status)
    else m.granFail r i g { status := granStatus status, addr := j.addr }
  | .bg _ _ _ _ => m

/-- Take a job out of its PC queue. -/
def Ctl.dropJob (m : Ctl) (pc : Nat) (who : Who) : Ctl :=
  m.modPc pc fun x => { x with queue := match takeFirst (fun j => decide (j.who = who)) x.queue with
                                        | some y => y.2
                                        | none => x.queue }

/-- Change a job in its PC queue. -/
def Ctl.modJob (m : Ctl) (pc : Nat) (who : Who) (f : Job → Job) : Ctl :=
  m.modPc pc fun x => { x with queue := modFirst (fun j => decide (j.who = who)) f x.queue }

/-- A job of a PC queue. -/
def Ctl.job? (m : Ctl) (pc : Nat) (who : Who) : Option Job := (m.pc pc).queue.find? fun j => decide (j.who = who)

/-- Mark a request performed once nothing of its access is open (R130). -/
def Ctl.performed (m : Ctl) (who : Who) : Ctl :=
  if m.whoOpen who then m
  else
    match who with
    | .port p pos => m.modReq p pos fun r => { r with st := .performed }
    | .svc id => { m with svc := { m.svc with reqs := m.svc.reqs.map fun r =>
        if r.pos == id then { r with st := .performed } else r } }
    | _ => m

/-- Answer a read once every line of it is there. -/
def Ctl.finishRead (m : Ctl) (pc : Nat) (who : Who) : Ctl :=
  match m.job? pc who with
  | none => m
  | some j =>
    if j.acc = .read && j.todo.isEmpty && j.out.isEmpty then (m.dropJob pc who).answerRead j else m

/-- What an uncorrectable or poisoned word does to the rest of the stack, by who reads it (R210). -/
def Ctl.badRead (m : Ctl) (pc : Nat) (l : Loc) (j : Job) : Ctl := m.reportBad pc l (j.acc != .write)

/-- Put a word of a line into a read, or into the merge of a write (R146, R192). `w` counts from the line's first word, and
`loc` is where it was read. -/
def Ctl.giveWord (m : Ctl) (pc : Nat) (who : Who) (line w : Nat) (loc : Loc) (merge : Bool) (g : Got) : Ctl :=
  match m.job? pc who with
  | none => m
  | some j =>
    let word := 2 * line + w
    let inside := decide (j.addr < 32 * word + 32) && decide (32 * word < j.addr + j.len)
    if !inside then m
    else
      match g.data? with
      | some d =>
        if merge then m.modJob pc who fun j => { j with merge := some (Sparse.put (j.merge.getD []) w { data := d }) }
        else m.modJob pc who fun j => { j with got := Sparse.put j.got word d, corr := j.corr || decide (g ≠ .clean d) }
      | none =>
        let m := m.badRead pc loc j
        if merge then
          m.modJob pc who fun j =>
            { j with merge := some (Sparse.put (j.merge.getD []) w { data := 0, mark := true }) }
        else
          let fb := m.freeBytes 32
          fb.2.modJob pc who fun j =>
            { j with got := Sparse.put j.got word (leNat fb.1), bads := j.bads ++ [32 * word] }

/-! ## Issue -/

/-- The activation threshold of a PC (R156). -/
def Ctl.actLimit (m : Ctl) (pc : Nat) : Nat := 512 * (m.get F.CH_CFG_ACT_THRESH pc + 1)

/-- A neighbour refresh is to be issued at once (R158): its bank is stalled from now on. -/
def Ctl.nrefNow (m : Ctl) (pc : Nat) (b : BankIx) (row : Nat) : Ctl :=
  let m := m.modPc pc fun x => { x with nrefs := x.nrefs.filter fun n => n.row != ({ bank := b, row := row } : Row),
                                        nrefDue := x.nrefDue ++ [{ bank := b, row := row }] }
  (m.bump F.CH_ACT_IMMEDIATE pc).raise 0x103 (infoPc pc (m.physAddr pc b row 0) 0)

/-- Is a neighbour refresh around a row pending for a transit? -/
def Pc.nrefPends (x : Pc) (b : BankIx) (row : Nat) : Bool := x.nrefs.any fun n => n.row == ({ bank := b, row := row } : Row)

/-- Count an activation of a row (R156). A pending row that reaches twice the threshold is refreshed at once (R158). -/
def Ctl.countAct (m : Ctl) (pc : Nat) (b : BankIx) (row : Nat) : Ctl :=
  let k := rowIx pc b row
  let m := { m with acts := Sparse.put m.acts k (Sparse.getD m.acts k 0 + 1) }
  if (m.pc pc).nrefPends b row && decide (2 * m.actLimit pc ≤ Sparse.getD m.acts k 0) then m.nrefNow pc b row else m

/-- Activate a row (R142, R147). -/
def Ctl.activate (m : Ctl) (pc : Nat) (b : BankIx) (row t : Nat) (spec : Bool) : Ctl :=
  let m := (m.modPc pc fun x => x.setBank b { (x.bank b) with row := some row, pce := {}, spec := spec }).note pc .act b t
  (if spec then m.bump F.CMT_ACTS_COUNT else m.bump F.CH_ACTS pc).countAct pc b row

/-- Precharge a bank. -/
def Ctl.precharge (m : Ctl) (pc : Nat) (b : BankIx) (t : Nat) : Ctl :=
  (m.modPc pc fun x => x.setBank b { (x.bank b) with row := none, pce := {}, spec := false }).note pc .pre b t

/-- Write P0 and P1 of a bank's DIRTY entry back, with auto-precharge or without (R150). An entry that cannot be read is not
written (R164). -/
def Ctl.writeBack (m : Ctl) (pc : Nat) (b : BankIx) (t : Nat) (close : Bool) : Ctl :=
  let m := m.checkEntry pc b
  let k := (m.pc pc).bank b
  match k.row with
  | none => m
  | some row =>
    if m.entryLost pc b then m
    else
      let m := (m.edit (.bytes (slotAddr pc b row 34) (leBytes 32 k.pce.p0))).edit
        (.bytes (slotAddr pc b row 35) (leBytes 32 k.pce.p1))
      let m := (m.modPc pc fun x => x.setBank b { (x.bank b) with pce := { k.pce with st := .clean } }).bump F.CH_WB pc
      let m := m.note pc .wr b t
      if close then m.precharge pc b (t + 4000) else m

/-- Issue a read column for a line of a job. -/
def Ctl.issueRead (m : Ctl) (a : Arr) (pc : Nat) (j : Job) (line t : Nat) (merge : Bool) : Ctl :=
  let l := m.lineAt line
  let raw := [m.capture a pc l, m.capture a pc { l with word := l.word + 1 }]
  let m := (m.note pc .rd l.bank t).count 6 64
  let m := m.modPc pc fun x =>
    { x with flights := x.flights ++
        [{ who := j.who, line := line, bank := l.bank, row := l.row, col := l.word, raw := raw, merge := merge, time := t }] }
  if merge then m.modJob pc j.who fun j => { j with merge := some [] }
  else
    (m.modJob pc j.who fun j => { j with todo := j.todo.filter fun x => x != line, out := j.out ++ [line] }).performed j.who

/-- The merged word of a job's line, from the word that the merge read gave: `none` where the word stays unwritten
(R126, R211). -/
def Job.mergeWord (j : Job) (word w : Nat) : Option Nat :=
  let e := j.enables word
  let old := Sparse.find (j.merge.getD []) w
  match j.acc with
  | .press =>
    match old with
    | some r => if r.mark then none else some (leNat (pressBytes j.etype 32 (leBytes 32 r.data) (leBytes 32 (j.newWord word))))
    | none => none
  | _ =>
    if e = 0 then none
    else if e = allBe then some (j.newWord word)
    else
      match old with
      | some r =>
        if r.mark then none
        else
          let mask := beMask e
          some ((r.data &&& ((2 ^ 256 - 1) ^^^ mask)) ||| (j.newWord word &&& mask))
      | none => none

/-- Words of a line that a job names and leaves unwritten because they could not be read (R126). DESIGN CHOICE: a word that could not
be read and has all 32 of its enables at 1 is written, and does not make the request end POISON. -/
def Job.unwritten (j : Job) (line : Nat) : List Nat :=
  ([0, 1].filter fun w => j.enables (2 * line + w) != 0 && (j.mergeWord (2 * line + w) w).isNone).map
    fun w => 32 * (2 * line + w)

/-- The exchange-write of a line (R145): new words and light code in, old contents captured for their return. -/
def Ctl.exchange (m : Ctl) (a : Arr) (pc : Nat) (l : Loc) (en : List Bool) (new : List Nat) (t : Nat) : Ctl :=
  let old := [m.capture a pc l, m.capture a pc { l with word := l.word + 1 }]
  let m := [0, 1].foldl (fun m w =>
    if en.getD w false then
      let lw : Loc := { l with word := l.word + w }
      (m.storeWord pc l.bank l.row (l.word + w) (new.getD w 0)).writeSpare pc lw (new.getD w 0)
    else m) m
  let m := m.count 7 (32 * (en.filter id).length)
  let m := m.modPc pc fun x =>
    let k := x.bank l.bank
    x.setBank l.bank { k with
      rets := k.rets ++ [{ row := l.row, col := l.word, en := en, new := new, old := old, time := t }]
      pce := if k.pce.st = .dirty then k.pce else { k.pce with st := .dirty, seq := t } }
  m.note pc .xw l.bank t

/-- The enables with which a line of a write is mirrored: none where every word sent is whole (R326). -/
def Job.mirrorBe (j : Job) (line : Nat) (ws : List Nat) : Option Nat :=
  if j.acc = .press || ws.all fun w => j.enables (2 * line + w) == allBe then none
  else some ((ws.zipIdx.map fun e => j.enables (2 * line + e.1) * 2 ^ (32 * e.2)).sum)

/-- Issue the write column of a line of a job, and end the job with its last line. -/
def Ctl.issueWrite (m : Ctl) (a : Arr) (pc : Nat) (j : Job) (line t : Nat) : Ctl :=
  let l := m.lineAt line
  let bad := j.unwritten line
  let words := [0, 1].map fun w => j.mergeWord (2 * line + w) w
  let pressBad := decide (j.acc = .press) && !bad.isEmpty
  let en := words.map fun w => w.isSome && !pressBad
  let m := if en.any id then m.exchange a pc l en (words.map fun w => w.getD 0) t else m
  let sent := [0, 1].filter fun w => en.getD w false
  let m :=
    match sent with
    | [] => m
    | w :: _ => m.mirrorWrite j.who (32 * (2 * line + w)) (sent.map fun w => (words.getD w none).getD 0) (j.mirrorBe line sent)
  let m := m.modJob pc j.who fun j =>
    { j with todo := j.todo.filter fun x => x != line, merge := none, bads := j.bads ++ bad }
  match m.job? pc j.who with
  | none => m
  | some j =>
    if j.todo.isEmpty then
      let m := (m.dropJob pc j.who).performed j.who
      let m := match j.who with
        | .svc _ => if j.bads.isEmpty then m else m.put F.SVC_ERR_PART_POISON 1
        | _ => m
      m.writePerformed j.who (if j.bads.isEmpty then 0 else stPoison) (lowestOf j.bads) j.len
    else m

/-- Serve a line of a read from its curd entry (R180). -/
def Ctl.serveCurd (m : Ctl) (pc : Nat) (j : Job) (line : Nat) : Ctl :=
  match (m.pc pc).curd.find? fun c => c.line == line with
  | none => m
  | some c =>
    let m := (m.modPc pc fun x => { x with curd := x.curd.filter fun q => q.line != line }).bump F.CMT_HITS_COUNT
    let m := [0, 1].foldl (fun m w =>
      m.giveWord pc j.who line w { c.loc with word := c.loc.word + w } false (.clean (c.words.getD w 0))) m
    ((m.modJob pc j.who fun j => { j with todo := j.todo.filter fun x => x != line }).performed j.who).finishRead pc j.who

/-- Issue a page-code load (R147). -/
def Ctl.loadIssue (m : Ctl) (pc : Nat) (b : BankIx) (row t : Nat) : Ctl :=
  (m.modPc pc fun x =>
    let k := x.bank b
    if k.row == some row then x.setBank b { k with pce := { k.pce with loading := true, p0 := 0, p1 := 0, loadAt := t } }
    else x).note pc .load b t

/-- Carry out the command chosen for an entry. -/
def Ctl.issue (m : Ctl) (a : Arr) (pc : Nat) (j : Job) (v : Move) (t : Nat) : Ctl :=
  match v with
  | .curd line => m.serveCurd pc j line
  | .act b row => m.activate pc b row t false
  | .pre b => m.precharge pc b t
  | .writeBack b close => m.writeBack pc b t close
  | .load b row => m.loadIssue pc b row t
  | .read line merge => m.issueRead a pc j line t merge
  | .write line => m.issueWrite a pc j line t

/-! ## Speculation (chapter 6) -/

/-- Is speculation held by the throttle (R175 condition 4)? -/
def Ctl.specHeld (m : Ctl) : Bool := decide (3 ≤ m.get F.THM_STATUS_STEPS)

/-- When a die last entered its span of R175 condition 3, 32 phases before its flush lead: nothing while no orbit runs. -/
def Ctl.spanAt (m : Ctl) (d : Nat) : Option Nat :=
  let e := m.phaseAt ((256 * d + 4064) % 4096)
  if !m.orb.run then none else if e ≤ m.now then some e else if m.orb.period ≤ e then some (e - m.orb.period) else none

/-- Was a target pending when its die entered its span (R183)? -/
def Ctl.outrun (m : Ctl) (g : Target) : Bool :=
  match g.lines with
  | n :: _ => (match m.spanAt ((m.lineAt n).bank / 16) with | some e => decide (g.time < e) | none => false)
  | [] => true

/-- Drop the pending targets whose die has entered its span since they were made (R183). -/
def Ctl.pruneTargets (m : Ctl) (pc : Nat) : Ctl :=
  let gone := ((m.pc pc).targets.filter m.outrun).length
  if gone = 0 then m
  else (m.modPc pc fun x => { x with targets := x.targets.filter fun g => !m.outrun g }).bump F.CMT_CANCEL_COUNT 0 gone

/-- Is a line already in the curd buffer, or in the queue as a demand read (R171)? -/
def Pc.fetching (x : Pc) (line : Nat) : Bool :=
  (x.curd.any fun c => c.line == line) || x.queue.any fun j => decide (j.acc = .read) && (linesOf j.addr j.len).contains line

/-- Add a target block to its PC, or drop it (R171, R183). -/
def Ctl.target (m : Ctl) (p : Port) (session : Nat) (line : Nat) (n : Nat) : Ctl :=
  let pc := (m.place (64 * line)).pc
  let m := m.pruneTargets pc
  if m.specHeld then m
  else if decide (2 ^ 31 < line + n) || m.dark pc || 16 ≤ (m.pc pc).targets.length then m.bump F.CMT_CANCEL_COUNT
  else
    let fresh := ((List.range n).map (· + line)).filter fun l => !(m.pc pc).fetching l
    if fresh.isEmpty then m
    else m.modPc pc fun x => { x with targets := x.targets ++ [{ lines := fresh, port := p, session := session, time := m.now }] }

/-- A training READ of a port (R170). The entry of the pair moves to the front of the table. -/
def Ctl.train (m : Ctl) (p : Port) (session addr len : Nat) : Ctl :=
  let depth := m.get F.SES_ACT1_COMET session
  if depth = 0 || !m.is F.CMT_CFG_EN then m
  else
    let line := addr / 64
    let size := len
    match takeFirst (fun c => decide (c.port = p) && c.session == session) m.comets with
    | none =>
      { m with comets := ({ port := p, session := session, last := line, stride := 0, conf := 0, ahead := 0, size := size } : Comet)
                 :: m.comets.take 4095 }
    | some (e, rest) =>
      let d : Int := (line : Int) - e.last
      let e :=
        if d = e.stride && d ≠ 0 then { e with conf := min (e.conf + 1) 3, ahead := e.ahead - 1 }
        else if d.natAbs ≤ 2047 && d ≠ 0 then { e with stride := d, conf := 1, ahead := 0 }
        else { e with stride := 0, conf := 0, ahead := 0 }
      let need := max 1 (m.get F.CMT_CFG_CONF)
      let go := decide (need ≤ e.conf) && !decide (e.stride = (0 : Int))
      let blk := max 1 (len / 64)
      let ks := if go then (List.range (depth - e.ahead)).map (· + e.ahead + 1) else []
      let e' : Comet := { e with last := line, size := size, ahead := if go then depth else e.ahead }
      ks.foldl (fun m k =>
        let t : Int := Int.ofNat line + Int.ofNat k * e.stride
        if t < 0 then (if m.specHeld then m else m.bump F.CMT_CANCEL_COUNT)
        else m.target p session (t.toNat / blk * blk) blk) { m with comets := e' :: rest }

/-- Take a line out of the pending targets; a target without lines is done. -/
def Ctl.dropTarget (m : Ctl) (pc line : Nat) : Ctl :=
  m.modPc pc fun x =>
    let ts := x.targets.map fun t => { t with lines := t.lines.filter fun q => q != line }
    { x with targets := ts.filter fun t => !t.lines.isEmpty }

/-- What speculation may do for a target line in a slot that neither demand nor background work can use (R175), if anything. A line
that has come into the queue as a demand read is not fetched (R171). -/
def Ctl.specMove (m : Ctl) (pc : Nat) (line t : Nat) : Option Move :=
  let x := m.pc pc
  let l := m.lineAt line
  let k := x.bank l.bank
  if m.specSpan (l.bank / 16) || x.stalled l.bank || m.sliceBank pc l.bank || x.fetching line then none
  else
    match k.row with
    | some row =>
      if row != l.row then none
      else if x.queue.any fun j => j.acc != .read && (linesOf j.addr j.len).contains line then none
      else if m.timeOk pc .rd l.bank t && (decide (x.curd.length < 64) || x.curd.any fun c => decide (c.st = .filled)) then
        some (.read line false)
      else none
    | none =>
      if x.queue.any fun j => (linesOf j.addr j.len).any fun q => (m.lineAt q).bank == l.bank then none
      else if m.timeOk pc .act l.bank t then some (.act l.bank l.row) else none

/-- Issue one speculative command, if one may issue (R175). -/
def Ctl.speculate (m : Ctl) (a : Arr) (pc t : Nat) : Ctl :=
  if !m.is F.CMT_CFG_EN || m.specHeld then m
  else
    let found : Option (Nat × Move) := (m.pc pc).targets.findSome? fun g =>
      g.lines.findSome? fun line => (m.specMove pc line t).map fun v => (line, v)
    match found with
    | none => m
    | some (_, .act b row) => m.activate pc b row t true
    | some (line, _) =>
      let l := m.lineAt line
      let raw := [m.capture a pc l, m.capture a pc { l with word := l.word + 1 }]
      let m :=
        if (m.pc pc).curd.length < 64 then m
        else
          match takeFirst (fun c : Curd => decide (c.st = .filled)) (m.pc pc).curd with
          | some (_, rest) => (m.modPc pc fun x => { x with curd := rest }).bump F.CMT_UNUSED_COUNT
          | none => m
      let m := (m.note pc .rd l.bank t).dropTarget pc line
      (m.modPc pc fun x => { x with curd := x.curd ++ [{ line := line, st := .issued, raw := raw, loc := l, time := t }] }).bump
        F.CMT_RDS_COUNT

/-! ## Neighbour refreshes -/

/-- Issue a neighbour refresh of a closed bank (R157). -/
def Ctl.startNref (m : Ctl) (pc : Nat) (q : Row) (t : Nat) : Ctl :=
  (m.modPc pc fun x =>
    ({ x with nrefs := x.nrefs.filter (fun n => n.row != q), nrefDue := x.nrefDue.filter (fun z => z != q) }).setBank q.bank
      { (x.bank q.bank) with nref := some q.row, nrefAt := t, row := none, pce := {} }).note pc .nref q.bank t

/-- Neighbour refreshes in progress on a die. -/
def Pc.nrefsOn (x : Pc) (d : Nat) : Nat := (x.banks.filter fun e => e.1 / 16 == d && e.2.nref.isSome).length

/-- When a die must be closed for its next scheduled refresh: the end of its flush lead (R152). -/
def Ctl.closedBy (m : Ctl) (d : Nat) : Nat :=
  m.phaseAt ((if m.phase < 256 * d then 256 * d else 4096 + 256 * d) + 24)

/-- May a neighbour refresh run on a die from a time on (R157, R158): at most 4 at once, and done before the die must be closed? -/
def Ctl.nrefFits (m : Ctl) (pc d t : Nat) : Bool :=
  (m.die d).st = .quiet && decide ((m.pc pc).nrefsOn d < 4) && (!m.orb.run || decide (t + 60000 ≤ m.closedBy d))

/-- Is the transit of a pending neighbour refresh under way, with room for it (R157)? -/
def Ctl.nrefTransit (m : Ctl) (n : Nref) (t : Nat) : Bool :=
  let d := n.row.bank / 16
  m.inTransit d && (n.ecl.isNone || n.ecl != (m.die d).ecl) && decide (t + 60000 ≤ m.phaseAt (256 * d + 256))

/-- The next command of a neighbour refresh of a row: its bank is closed first (R157); `.act` stands for the refresh itself. -/
def Ctl.nrefStep (m : Ctl) (pc : Nat) (q : Row) (t : Nat) : Option Move :=
  let k := (m.pc pc).bank q.bank
  if k.nref.isSome then none
  else
    match k.row with
    | some _ => m.closeMove pc q.bank t
    | none => if m.timeOk pc .nref q.bank t then some (.act q.bank q.row) else none

/-- The command that a neighbour refresh can use now: one that is due at once (R158), else a pending one in its transit (R157). -/
def Ctl.nrefMove (m : Ctl) (pc t : Nat) : Option (Row × Move) :=
  let x := m.pc pc
  let try_ := fun (q : Row) => if m.nrefFits pc (q.bank / 16) t then (m.nrefStep pc q t).map fun v => (q, v) else none
  match x.nrefDue.findSome? try_ with
  | some v => some v
  | none => x.nrefs.findSome? fun n => if m.nrefTransit n t then try_ n.row else none

/-! ## Background work -/

/-- Is a slot one of the background share (R50)? -/
def Ctl.bgTurn (m : Ctl) (pc t : Nat) : Bool := t / m.colSlot pc % 64 == 0

/-- Does pacing withhold a slot from demand and speculative work (R376)? -/
def Ctl.paced (m : Ctl) (t : Nat) : Bool :=
  let k := t / m.slotPs
  decide (k * m.pace / 1024 ≠ (k + 1) * m.pace / 1024)

/-- May a kind of background operation be at work on a die at all: in its transit, and by the share a scrub always, the others
while the die is hot (R50, R198, R207, R441)? -/
def Ctl.bgOpen (m : Ctl) (k : BgKind) (d : Nat) : Bool :=
  (m.die d).st = .quiet && (m.inTransit d || decide (k = .scrub) || m.hotDie d)

/-- May it use a column slot now? -/
def Ctl.bgSlot (m : Ctl) (pc : Nat) (k : BgKind) (d t : Nat) : Bool :=
  m.bgOpen k d && (m.inTransit d || m.bgTurn pc t)

/-- Column slots that a background operation takes: read, rewrite and verify; a row's 16 columns; a row's 16 columns and the
spare's 17 (R198, R207, R441). -/
def BgKind.slots : BgKind → Nat
  | .rcw => 3
  | .scrub => 16
  | .copy => 33

/-- The granules that a background operation holds in the queue: that of its word, or every one of its row. -/
def Bg.grans (g : Bg) : List Nat := match g.kind with | .rcw => [g.word / 2] | _ => List.range 16

/-- Is a queue entry a granule of this operation? -/
def Bg.holds (g : Bg) (j : Job) : Bool :=
  match j.who with
  | .bg k b row gran => decide (k = g.kind) && b == g.bank && row == g.row && g.grans.contains gran
  | _ => false

/-- Is an older entry in the way of one of an operation's granules (R132)? `older` are the entries before those at hand. -/
def Pc.bgBlocked (x : Pc) (g : Bg) : List Job → List Job → Bool
  | _, [] => false
  | older, j :: r =>
    (g.holds j && older.any fun o => match j.todo with | line :: _ => conflicts x o j line | [] => false) ||
      Pc.bgBlocked x g (if g.holds j then older else older ++ [j]) r

/-- Is a row quiet: no return, rebuild or unfixed read of it is under way? -/
def Pc.rowQuiet (x : Pc) (b : BankIx) (row : Nat) : Bool :=
  !((x.bank b).rets.any fun e => e.row == row) && !x.rebuilding b row

/-- What an operation can do in a slot: a command that opens its row or prepares its page-code entry, or (nothing inside) one of
its own columns (R141, R147, R148). -/
def Ctl.bgMove (m : Ctl) (pc : Nat) (g : Bg) (t : Nat) : Option (Option Move) :=
  let x := m.pc pc
  if !m.bgSlot pc g.kind (g.bank / 16) t || x.stalled g.bank || m.sliceBank pc g.bank || x.bgBlocked g [] x.queue ||
      !x.rowQuiet g.bank g.row || g.kind.slots ≤ g.turns then none
  else
    match m.openMove pc g.bank g.row t with
    | some v => v.map some
    | none =>
      match m.entryMove pc g.bank g.row t with
      | some v => v.map some
      | none => if (x.bank g.bank).pce.loading || !m.timeOk pc .rd g.bank t then none else some none

/-- The operation that uses a slot, with what it does. -/
def Ctl.bgPick (m : Ctl) (pc t : Nat) : Option (Bg × Option Move) :=
  if m.sliceOn pc 1 || m.sliceOn pc 3 then none
  else (m.pc pc).bg.findSome? fun g => (m.bgMove pc g t).map fun v => (g, v)

/-- Give an operation a column slot. -/
def Ctl.bgColumn (m : Ctl) (pc : Nat) (g : Bg) (t : Nat) : Ctl :=
  (m.modPc pc fun x => { x with bg := x.bg.map fun q =>
    if q = g then { q with turns := q.turns + 1, first := some (q.first.getD t) } else q }).note pc .rd g.bank t

/-- Take an operation and its granules out of the queue. -/
def Ctl.bgDrop (m : Ctl) (pc : Nat) (g : Bg) : Ctl :=
  m.modPc pc fun x => { x with queue := x.queue.filter fun j => !g.holds j, bg := x.bg.filter fun q => q != g }

/-- The operation of a kind that has had all of its column slots. -/
def Pc.bgReady (x : Pc) (k : BgKind) : Option Bg := x.bg.find? fun g => decide (g.kind = k) && decide (k.slots ≤ g.turns)

/-- Background operations on a die are abandoned at its write cut-off, and start again later (R151, R441). -/
def Ctl.bgAbandon (m : Ctl) (d : Nat) : Ctl :=
  m.pcs.foldl (fun m e => (e.2.bg.filter fun g => g.bank / 16 == d).foldl (fun m g => m.bgDrop e.1 g) m) m

end Sys2Proof.Machine
end

