-- ==== Sys2Proof/Machine/Setup.lean ====
section
/-!
DEFINITION. Ownership and configuration (chapter 10) and the capacity of reservations (chapter 8): the semaphore,
staging, taking and ending commits, the digest, and run-time oversubscription.
-/

namespace Sys2Proof.Machine

/-! ## Currents and capacity -/

/-- I_set in 0.25 A from a LIMIT code (R375). -/
def iSetOf (limit : Nat) : Nat := max 48 (min 192 limit)

/-- I_now in 0.25 A (R415). -/
def iNowOf (limit step k : Nat) : Nat := max 48 (iSetOf limit - k * max 1 step)

/-- I_now with the values in force. -/
def Ctl.iNow (m : Ctl) : Nat :=
  iNowOf (m.get F.PWR_VIN_LIMIT_LIMIT) (m.get F.THM_STEP_STEP) (m.get F.THM_STATUS_STEPS)

/-- How many dies are hot in this orbit. -/
def Ctl.hotCount (m : Ctl) : Nat := ((List.range 16).filter fun d => m.hotDie d).length

/-- The capacity C (R231) for a limit and a step size. -/
def Ctl.capWith (m : Ctl) (limit step : Nat) : Nat :=
  192 * iNowOf limit step (m.get F.THM_STATUS_STEPS) / iSetOf limit - 2 * m.hotCount

/-- Recompute I_now and C (R416 step 5). -/
def Ctl.capacity (m : Ctl) : Ctl :=
  (m.put F.PWR_STATUS_INOW m.iNow).put F.QOS_CAP_CAP (m.capWith (m.get F.PWR_VIN_LIMIT_LIMIT) (m.get F.THM_STEP_STEP))

/-- Sum of all committed reservations. -/
def Ctl.resSum (m : Ctl) : Nat := (m.reserves.map (·.2)).sum

/-- Sum of the reservations in force (R228). -/
def Ctl.resInForce (m : Ctl) : Nat := (m.reserves.map fun e => if m.is F.SES_STAT_SUSP e.1 then 0 else e.2).sum

/-- The sum that a commit of the present staged state would reach (R232). -/
def Ctl.resStaged (m : Ctl) : Nat :=
  ((m.reserves.filter fun e => !m.sesPend.contains e.1).map (·.2)).sum +
    (m.sesPend.map fun s => m.get F.SES_STG1_RESERVE s).sum

/-- Show the reservation sums in QOS_RES_ACTIVE. -/
def Ctl.showRes (m : Ctl) : Ctl :=
  (m.put F.QOS_RES_ACTIVE_SUM m.resSum).put F.QOS_RES_ACTIVE_INFORCE m.resInForce

/-- Does session (rank, label) come before another in suspension order (R233)? -/
def suspBefore (a b : Nat × Nat) : Bool := decide (b.1 < a.1) || (a.1 == b.1 && decide (b.2 < a.2))

/-- Sessions with a reservation, in suspension order: (rank, label). -/
def Ctl.suspOrder (m : Ctl) : List (Nat × Nat) :=
  (m.reserves.map fun e => (m.get F.SES_ACT1_RANK e.1, e.1)).sorted suspBefore

/-- The cut from the suspended sessions (R234). -/
def Ctl.setCut (m : Ctl) : Ctl :=
  match (m.suspOrder.filter fun e => m.is F.SES_STAT_SUSP e.2).getLast? with
  | some (rank, label) => ((m.put F.QOS_CUT_VALID 1).put F.QOS_CUT_RANK rank).put F.QOS_CUT_LABEL label
  | none => ((m.put F.QOS_CUT_VALID 0).put F.QOS_CUT_RANK 0).put F.QOS_CUT_LABEL 0

/-- Suspend reservations in order until the sum fits (R233). -/
def Ctl.suspendFrom (m : Ctl) (cap : Nat) : List (Nat × Nat) → Ctl
  | [] => m
  | e :: r =>
    if m.resInForce ≤ cap then m
    else if m.is F.SES_STAT_SUSP e.2 then m.suspendFrom cap r
    else
      ((((m.set F.SES_STAT_SUSP e.2 1).bump F.SES_EVENTS_SUSPENDS e.2).bump F.QOS_SUSP_COUNT).raise 0x0D0).suspendFrom cap r

/-- Resume reservations in reverse order while the next one fits (R233). -/
def Ctl.resumeFrom (m : Ctl) (cap : Nat) : List (Nat × Nat) → Ctl
  | [] => m
  | e :: r =>
    if !m.is F.SES_STAT_SUSP e.2 then m.resumeFrom cap r
    else if m.resInForce + m.get F.SES_ACT1_RESERVE e.2 ≤ cap then
      ((m.set F.SES_STAT_SUSP e.2 0).bump F.QOS_RESUME_COUNT).resumeFrom cap r
    else m

/-- Suspend or resume reservations at a boundary (R233, R234). -/
def Ctl.oversub (m : Ctl) : Ctl :=
  let cap := m.get F.QOS_CAP_CAP
  let order := m.suspOrder
  let m := if cap < m.resInForce then m.suspendFrom cap order else m.resumeFrom cap order.reverse
  m.setCut.showRes

/-! ## Staging -/

/-- Throw away every staged value (R279). -/
def Ctl.discard (m : Ctl) : Ctl :=
  let m := m.sesPend.foldl (fun m s =>
    let m := ((m.set F.SES_STG0_BASE s (m.get F.SES_ACT0_BASE s)).set F.SES_STG0_LIMIT s
      (m.get F.SES_ACT0_LIMIT s)).set F.SES_STG0_TARGET s (m.get F.SES_ACT0_TARGET s)
    (((m.set F.SES_STG1_COMET s (m.get F.SES_ACT1_COMET s)).set F.SES_STG1_BIND s (m.get F.SES_ACT1_BIND s)).set
      F.SES_STG1_RANK s (m.get F.SES_ACT1_RANK s)).set F.SES_STG1_RESERVE s (m.get F.SES_ACT1_RESERVE s)) m
  { m with staged := [], sesPend := [] }.put F.CFG_STATUS_STAGED 0

/-! ## Commits -/

/-- Result codes of R283. -/
def crDone : Nat := 0
def crLate : Nat := 0x13
def crDiscontinuity : Nat := 0x14
def crAborted : Nat := 0x16
def crNotOwner : Nat := 0x17
def crOversubscribed : Nat := 0x18

/-- Place a commit's result, without taking the next one. -/
def Ctl.commitResult (m : Ctl) (c : CommitSt) (result : Nat) : Ctl :=
  let m := m.put F.CFG_COMMIT_STATUS_RESULT (if result = crAborted then crNotOwner else result)
  let m := if result = crDone then m else m.raise 0x002 (if result = crAborted then crNotOwner else result)
  match c.desc with
  | some (r, i) => m.endProg r i result 0
  | none => m

/-- Take a commit that nothing stands in the way of (R280, R281). -/
def Ctl.commitTake (m : Ctl) (c : CommitSt) : Ctl :=
  let m := (m.put F.CFG_COMMIT_STATUS_BY c.by_).put F.CFG_COMMIT_STATUS_PATH (b2n c.desc.isSome)
  let arm := fun (m : Ctl) (c : CommitSt) => { m with commit := some c }.put F.CFG_COMMIT_STATUS_ARMED 1
  if c.orbit = 0 then arm m { c with judged := true, due := true }
  else if !m.numValid then arm m { c with judged := false }
  else
    match judgeOrbit c.orbit m.orbit with
    | .current => arm m { c with judged := true, due := true }
    | .future => arm m { c with judged := true }
    | .past => m.commitResult c crLate

/-- Take the COMMIT descriptors that waited, until one is armed (R280). -/
def Ctl.commitNext : Nat → Ctl → Ctl
  | 0, m => m
  | n + 1, m =>
    if m.commit.isSome then m
    else
      match m.commitWait with
      | [] => m
      | c :: r => Ctl.commitNext n ({ m with commitWait := r }.commitTake c)

/-- End the armed commit. -/
def Ctl.commitEnd (m : Ctl) (result : Nat) : Ctl :=
  match m.commit with
  | none => m
  | some c => Ctl.commitNext 200 (({ m with commit := none }.put F.CFG_COMMIT_STATUS_ARMED 0).commitResult c result)

/-- Judge a commit that was taken while the number was not valid (R281). -/
def Ctl.commitJudge (m : Ctl) : Ctl :=
  match m.commit with
  | some c =>
    if c.judged then m
    else
      match judgeOrbit c.orbit m.orbit with
      | .current => { m with commit := some { c with judged := true, due := true } }
      | .future => { m with commit := some { c with judged := true } }
      | .past => m.commitEnd crLate
  | none => m

/-- A step of the number, or an unknown sleep, ends every commit gated on an orbit (R39, R281): those that wait to be taken, and
the armed one. -/
def Ctl.commitDiscontinuity (m : Ctl) : Ctl :=
  let gone := m.commitWait.filter fun c => c.orbit != 0
  let m := { m with commitWait := m.commitWait.filter fun c => c.orbit == 0 }
  let m := gone.foldl (fun m c => m.commitResult c crDiscontinuity) m
  match m.commit with
  | some c => if c.orbit = 0 then m else m.commitEnd crDiscontinuity
  | none => m

/-- Cancel the armed commit and those that wait (R275). A descriptor of an aborted ring ends with the partner's loss
(R268). -/
def Ctl.commitCancel (m : Ctl) (lost : Nat → Bool) : Ctl :=
  let all := m.commit.toList ++ m.commitWait
  let m := { m with commit := none, commitWait := [] }.put F.CFG_COMMIT_STATUS_ARMED 0
  all.foldl (fun m c =>
    let aborted := match c.desc with | some (r, _) => lost r | none => false
    m.commitResult c (if aborted then crAborted else crNotOwner)) m

/-! ## The semaphore -/

/-- Boundaries of a full lease (R272). -/
def Ctl.leaseLen (m : Ctl) : Nat := 2 ^ (m.get F.SEM_CFG_LEASE + 10)

/-- Is a host port absent (R274)? -/
def Ctl.portAbsent (m : Ctl) (p : Port) : Bool :=
  !m.is F.PA_SIDEBAND_HOSTPRES p.idx || m.link p == 0 || m.link p == 4

/-- May the service port claim (R274)? -/
def Ctl.svcEligible (m : Ctl) : Bool :=
  m.is F.SEM_SVC_ALLOW_ALLOW ||
    (m.longAbsent && decide (m.leaseLen ≤ m.absent) && m.portAbsent .a && m.portAbsent .b)

/-- The absence of the host ports starts again when either is present (R274). -/
def Ctl.notePresent (m : Ctl) : Ctl :=
  if m.portAbsent .a && m.portAbsent .b then m else { m with absent := 0, longAbsent := false }

/-- Give the semaphore to a master (R270, R271). -/
def Ctl.grant (m : Ctl) (x : Master) : Ctl :=
  let m := { (m.put F.SEM_OWNER_OWNER x.code).bump F.SEM_COUNT_GRANTS with lease := m.leaseLen }
  match x with
  | .a => m.put F.SEM_OWNER_ALT 1
  | .b => m.put F.SEM_OWNER_ALT 0
  | .svc => m

/-- Is the stack in a mode in which leases and the absence of the host ports count (R272, R274, R406)? -/
def Ctl.leaseRuns (m : Ctl) : Bool := m.inMode [.ready, .active, .drowse]

/-- A claim read by one master: it becomes owner where it may (R270). In FACTORY only the test access port reads, and nothing is
claimed. -/
def Ctl.claim (m : Ctl) (x : Master) : Ctl :=
  if m.owner = 0 && !m.inMode [.factory] && (decide (x ≠ .svc) || m.svcEligible) then m.grant x else m

/-- What a claim read returns (R270): OWNER, and GRANTED, which is 0 in FACTORY. -/
def Ctl.claimValue (m : Ctl) (x : Master) : Nat := 2 * m.owner + b2n (m.owner == x.code && !m.inMode [.factory])

/-- Release the semaphore (R273, R275). -/
def Ctl.release (m : Ctl) (lost : Nat → Bool) : Ctl :=
  if m.owner = 0 then m
  else
    let m := (({ m with lease := 0 }.put F.SEM_OWNER_OWNER 0).put F.SEM_SVC_ALLOW_ALLOW 0).commitCancel lost
    m.discard

/-! ## The digest -/

/-- The active value of a register copy. -/
def RegDef.active (d : RegDef) (m : Ctl) (i : Nat) : Nat :=
  (d.parts.map fun p => (m.get p.fld (i * p.mul + p.add) >>> p.vlo) % 2 ^ (p.hi - p.lo + 1) * 2 ^ p.lo).sum

/-- The copies of a register with their addresses, in index order. -/
def RegDef.copies (d : RegDef) : List (Nat × Nat) :=
  let addrs := d.dims.foldl (fun l n => (l.map fun b => (List.range n.1).map fun k => b + k * n.2).flatten) [d.base]
  addrs.zipIdx.map fun e => (e.1, e.2)

/-- The digest message (R285): active values of every digest setup register in address order, then the sum. -/
def Ctl.digestWords (m : Ctl) : List Nat :=
  let all := ((regList.filter fun d => match d.kind with | .setup => true | _ => false).map fun d =>
    d.copies.map fun c => (c.1, d.active m c.2)).flatten
  ((all.sorted fun a b => decide (a.1 ≤ b.1)).map (·.2)) ++ [m.get F.QOS_RES_ACTIVE_SUM % 256]

/-- Start the computation of a digest (R286, R287). -/
def Ctl.digestStart (m : Ctl) : Ctl :=
  { m with digestNew := crc64 ((m.digestWords.map fun w => leBytes 4 w).flatten) }.put F.CFG_STATUS_DIGEST_BUSY 1

/-- The new digest is in place (R287). -/
def Ctl.digestDone (m : Ctl) : Ctl :=
  if m.is F.CFG_STATUS_DIGEST_BUSY then (m.put F.CFG_DIGEST m.digestNew).put F.CFG_STATUS_DIGEST_BUSY 0 else m

end Sys2Proof.Machine
end

