-- ==== Sys2Proof/Machine/Chan.lean ====
section
/-!
DEFINITION. The steps of a channel sequencer (chapters 5 to 7): queue entry, one command slot, the returns of column
commands, rebuilds, read-correct-writes, scrubs, spare copies, neighbour refreshes and the TSV repair ladder.
-/

namespace Sys2Proof.Machine

/-! ## Queue entry -/

/-- The rank of an agent in the order of entry (R132). -/
def Job.agent (j : Job) : Nat :=
  match j.who with
  | .port .a _ => 0
  | .port .b _ => 1
  | .svc _ => 2
  | .link .l0 _ => 3
  | .link .l1 _ => 4
  | .engine _ _ _ _ => 5
  | .bg _ _ _ _ => 6

/-- Must a write granule wait for an earlier descriptor's granules of the same line (R248)? -/
def Ctl.serialBlocked (m : Ctl) (j : Job) : Bool :=
  match j.who with
  | .engine r i g false =>
    !slotGran g && m.is F.RING_CFG_SERIAL r &&
      (m.ring r).prog.any fun d =>
        decide (d.phase = .running) && decide (0 < ixSub i d.idx) && decide (ixSub i d.idx < 65536) &&
          d.grans.any fun g => g.dst / 64 == j.addr / 64 && g.len != 0
  | _ => false

/-- Is a die still to be filled (R388)? -/
def Ctl.filling (m : Ctl) (addr : Nat) : Bool := bit (m.get F.PWR_FILL_DIES) (addr / 2 ^ 33)

/-- What ends a job before it reaches its queue: a dark PC, a frozen mirror secondary, a die being filled. -/
def Ctl.refusal (m : Ctl) (pc : Nat) (j : Job) : Option Nat :=
  let mir := match j.who with
    | .link l id => (m.lnk l.idx).ins.any fun o => o.id == id && o.mirror
    | _ => false
  if m.dark pc then some stRetired
  else if j.acc != .read && !mir && m.frozen j.addr then some stSplitReadonly
  else if m.filling j.addr then some stChannelUnavailable
  else none

/-- The credits of a request are due once it has left ingress (R84). -/
def Ctl.creditEntered (m : Ctl) (j : Job) : Ctl :=
  match j.who with
  | .port p pos =>
    match (m.port p).reqs.find? fun r => r.pos == pos with
    | some r => (m.credit p r.g r.rh r.wd).modReq p pos fun r => { r with rh := 0, wd := 0, st := .queued }
    | none => m
  | .svc id => { m with svc := { m.svc with reqs := m.svc.reqs.map fun r => if r.pos == id then { r with st := .queued } else r } }
  | _ => m

/-- Keep the highest queue level of the orbit (R484). -/
def Ctl.markLevel (m : Ctl) (pc : Nat) : Ctl :=
  { m with qmax := if m.qmax.1 < (m.pc pc).queue.length then ((m.pc pc).queue.length, pc) else m.qmax }

/-- Put a job into its PC queue (R139, R225, R177). -/
def Ctl.enqueue (m : Ctl) (pc : Nat) (j : Job) : Ctl :=
  let m := m.creditEntered j
  let j := { j with cls := m.jobClass j, arrival := m.now, todo := linesOf j.addr j.len }
  let m := (m.modPc pc fun x => { x with queue := x.queue ++ [j] }).markLevel pc
  if j.acc = .read then
    match j.who with
    | .port p _ => m.train p j.label j.addr j.len
    | _ => m
  else m.staleRange j.addr j.len

/-- The held jobs that enter together with one: the writes of the same element of a GATHER or SCATTER. -/
def Pc.matesOf (x : Pc) (j : Job) : List Job :=
  match j.who with
  | .engine r i _ _ => x.ingress.filter fun q => j.mates.any fun k => decide (q.who = .engine r i k false)
  | _ => []

/-- Walk the held jobs in the order of R132 and let the first that may enter do so, with the rest of its element. -/
def Ctl.enterFirst (m : Ctl) (pc : Nat) : List Job → Ctl
  | [] => m
  | j :: r =>
    let group := j :: (m.pc pc).matesOf j
    if m.ingressBlocked j || group.any m.serialBlocked || !(group.length == 1 || m.roomFor (m.pc pc) group.length) then
      m.enterFirst pc r
    else
      match m.judgeEntry (m.pc pc) j with
      | .enter _ =>
        group.foldl (fun m j => m.enqueue pc j)
          (m.modPc pc fun x => { x with ingress := x.ingress.filter fun q => !group.any fun z => decide (q.who = z.who) })
      | .withhold =>
        let m :=
          if j.withheld.isSome then m
          else
            (m.modPc pc fun x => { x with ingress := x.ingress.map fun q =>
              if q.who = j.who then { q with withheld := some m.now } else q }).bump F.QOS_HELD_COUNT
        m.enterFirst pc r
      | .full => m.enterFirst pc r

/-! ## Entry of background operations -/

/-- The line of user space that a granule of a physical row holds now, if any. -/
def Ctl.rowLine (m : Ctl) (pc : Nat) (b : BankIx) (row gran : Nat) : Option Nat :=
  let orig := m.origRow pc b row
  if decide (orig < 8192) && m.physRow pc b orig == row then some (m.addrOf pc b orig (2 * gran) / 64) else none

/-- A granule of a background operation as a queue entry (R139): it may write its line. -/
def Ctl.bgJob (m : Ctl) (pc : Nat) (g : Bg) (gran : Nat) : Job :=
  let line := m.rowLine pc g.bank g.row gran
  { who := .bg g.kind g.bank g.row gran, acc := .write, addr := 64 * line.getD 0, len := if line.isSome then 64 else 0
    arrival := m.now, since := m.now, todo := line.toList }

/-- Let a background operation enter the queue, where there is room for its granules. -/
def Ctl.bgEnter (m : Ctl) (pc : Nat) (g : Bg) : Ctl :=
  if m.roomFor (m.pc pc) g.grans.length then
    (m.modPc pc fun x => { x with queue := x.queue ++ g.grans.map (m.bgJob pc g), bg := x.bg ++ [g] }).markLevel pc
  else m

/-- The row that step n of the walk visits (R205). -/
def walkRow (n : Nat) : Row := { bank := n / 16 % 16 * 16 + n % 16, row := n / 256 }

/-- The row a scrubber takes next: a suspect row, a row queued at once, a row of SCRUB_RANGE, or the walk's, the last that is due
being that of `REP_SCRUB_POS.STEP` (R206, R211). -/
def Ctl.scrubNext (m : Ctl) (pc : Nat) : Option Bg :=
  let x := m.pc pc
  let of := fun (w : Bool) (q : Row) => ({ kind := .scrub, bank := q.bank, row := q.row, walk := w } : Bg)
  let due := if x.scrubbed ≤ m.get F.REP_SCRUB_POS_STEP then [walkRow x.scrubbed] else []
  let all := x.suspect.map (of false) ++ (x.urgent.map fun l => of false { bank := l.bank, row := l.row }) ++
    x.rows.map (of false) ++ due.map (of true)
  all.find? fun g => m.bgOpen .scrub (g.bank / 16) && !bit (m.get F.PWR_FILL_DIES) (g.bank / 16)

/-- The background operation of a kind that a PC takes up next. -/
def Ctl.bgNext (m : Ctl) (pc : Nat) (k : BgKind) : Option Bg :=
  let x := m.pc pc
  if x.bg.any fun g => decide (g.kind = k) then none
  else
    match k with
    | .rcw => (x.catcher.find? fun c => c.pending && m.bgOpen .rcw (c.loc.bank / 16)).map fun c =>
        { kind := .rcw, bank := c.loc.bank, row := c.loc.row, word := c.loc.word }
    | .copy => (x.copies.find? fun c => m.bgOpen .copy (c.bank / 16) && !x.isUrgent c.bank c.row).map fun c =>
        { kind := .copy, bank := c.bank, row := c.row }
    | .scrub => m.scrubNext pc

/-- INGRESS_ENTRY: end the held jobs that cannot run, then let one enter, and after it the background operations, last in the order
of R132 (R140, R227, R230). Nothing enters while a block reset holds admission, nor until the entries that it left in the queue
have run (R163). -/
def Ctl.ingressEntry (m : Ctl) (pc : Nat) : Ctl :=
  let gone := (m.pc pc).ingress.filter fun j => (m.refusal pc j).isSome
  let m := gone.foldl (fun m j =>
    match m.refusal pc j with
    | some st =>
      let m := m.modPc pc fun x => { x with ingress := x.ingress.filter fun q => !decide (q.who = j.who) }
      m.failJob j st
    | none => m) m
  if (m.pc pc).reset.isSome || m.dark pc || (m.pc pc).queue.any fun j => j.old && !j.todo.isEmpty then m
  else
    let m := m.enterFirst pc ((m.pc pc).ingress.sorted fun a b => decide (a.agent ≤ b.agent))
    [BgKind.rcw, .copy, .scrub].foldl (fun m k =>
      match m.bgNext pc k with
      | some g => m.bgEnter pc g
      | none => m) m

/-- HOLD_MAX_EXPIRY: the job withheld longest is free to enter (R230). -/
def Ctl.holdExpiry (m : Ctl) (pc : Nat) : Ctl :=
  let held := ((m.pc pc).ingress.filter fun j => j.withheld.isSome && !j.expired).sorted fun x y =>
    decide (x.withheld.getD 0 ≤ y.withheld.getD 0)
  match held with
  | [] => m
  | j :: _ =>
    let t := (j.withheld.getD 0) + m.holdMax
    (m.reach t).modPc pc fun x => { x with ingress := x.ingress.map fun q =>
      if q.who = j.who then { q with expired := true } else q }

/-- HELD_TIMEOUT: a job, with the rest of its element, that a block reset held has not entered its queue within 64 us of the reset's
start, whether or not the reset has ended (R165). -/
def Ctl.heldTimeout (m : Ctl) (pc : Nat) : Ctl :=
  let x := m.pc pc
  let from_ := fun (j : Job) => match x.reset with | some s => some (j.heldFrom.getD s.since) | none => j.heldFrom
  match x.ingress.find? fun j => (from_ j).isSome with
  | some j =>
    let group := j :: x.matesOf j
    let m := (m.reach ((from_ j).getD 0 + 64000000)).modPc pc fun x =>
      { x with ingress := x.ingress.filter fun q => !group.any fun z => decide (q.who = z.who) }
    group.foldl (fun m j => (m.bump F.CH_HELD_HELD pc).failJob j stChannelUnavailable) m
  | none => m

/-! ## Returns -/

/-- Handle one word of a returned column for its reader (R192, R197). -/
def Ctl.takeWord (m : Ctl) (pc : Nat) (f : Flight) (w : Nat) (r : Raw) : Ctl :=
  match m.job? pc f.who with
  | none => m
  | some j =>
    let word := 2 * f.line + w
    if !(decide (j.addr < 32 * word + 32) && decide (32 * word < j.addr + j.len)) then m
    else
      let loc : Loc := { bank := f.bank, row := f.row, word := f.col + w }
      let demand := j.acc != .write
      let g := Got.ofRaw r
      let m := m.refillSpare pc loc g
      match g with
      | .clean d => m.giveWord pc f.who f.line w loc f.merge (.clean d)
      | .corrected d =>
        let m := if demand then m.bump F.CH_CODE_CORRECTED pc else m
        let m := if demand && !m.remapped pc loc then m.noteWord pc loc false else m
        m.giveWord pc f.who f.line w loc f.merge (.corrected d)
      | .poisoned => m.giveWord pc f.who f.line w loc f.merge .poisoned
      | .uncorrectable =>
        if (m.pc pc).isSuspect f.bank f.row then m.giveWord pc f.who f.line w loc f.merge .uncorrectable
        else m.modPc pc fun x => { x with rebuilds := x.rebuilds ++
          [{ loc := loc, who := f.who, line := f.line, merge := f.merge }] }

/-- A line of a read is complete unless a word of it waits for a rebuild. -/
def Ctl.lineBack (m : Ctl) (pc : Nat) (who : Who) (line : Nat) : Ctl :=
  if (m.pc pc).rebuilds.any fun r => decide (r.who = who) && r.line == line then m
  else
    ((m.modJob pc who fun j => { j with out := j.out.filter fun q => q != line }).performed who).finishRead pc who

/-- READ_DATA: the oldest column read returns (R192). -/
def Ctl.readData (m : Ctl) (pc : Nat) : Ctl :=
  match (m.pc pc).flights with
  | [] => m
  | f :: rest =>
    let m := (m.reach (f.time + 14000)).modPc pc fun x => { x with flights := rest }
    let m := m.takeWord pc f 0 (f.raw.getD 0 { data := 0 })
    let m := m.takeWord pc f 1 (f.raw.getD 1 { data := 0 })
    m.lineBack pc f.who f.line

/-- Is any exchange-write of a row still to return its old contents? -/
def Pc.retsOf (x : Pc) (b : BankIx) (row : Nat) : Bool := (x.bank b).rets.any fun e => e.row == row

/-- Give the word of one rebuild to its reader: the solved value, or nothing. A spare that lost its data is refilled (R201). -/
def Ctl.rebuiltWord (m : Ctl) (pc : Nat) (r : Rebuild) (v : Option Nat) : Ctl :=
  let demand := match m.job? pc r.who with | some j => j.acc != .write | none => false
  let m :=
    match v with
    | some d =>
      let m := if demand && !m.remapped pc r.loc then m.noteWord pc r.loc true else m
      (m.refillSpare pc r.loc (.corrected d)).giveWord pc r.who r.line (r.loc.word % 2) r.loc r.merge (.corrected d)
    | none => m.giveWord pc r.who r.line (r.loc.word % 2) r.loc r.merge .uncorrectable
  m.lineBack pc r.who r.line

/-- PAGE_REBUILD: the rebuild of one row ends, for every read that shares it (R193, R194). It waits for the row's exchange returns
and for its die. -/
def Ctl.pageRebuildDone (m : Ctl) (a : Arr) (pc : Nat) : Ctl :=
  let x := m.pc pc
  match x.rebuilds.find? fun r =>
    !x.retsOf r.loc.bank r.loc.row && (let s := (m.die (r.loc.bank / 16)).st; s = .quiet || s = .cut) with
  | none => m
  | some r0 =>
    let m := if (x.bank r0.loc.bank).row == some r0.loc.row then m.checkEntry pc r0.loc.bank else m
    if (m.pc pc).codeErr then m
    else
      let same := fun (r : Rebuild) => r.loc.bank == r0.loc.bank && r.loc.row == r0.loc.row
      let suspect := (m.pc pc).isSuspect r0.loc.bank r0.loc.row
      let mine := (x.rebuilds.filter same).map fun r =>
        (r, if suspect then none else m.pageRebuild a pc r.loc.bank r.loc.row r.loc.word)
      let m := (m.modPc pc fun x => { x with rebuilds := x.rebuilds.filter fun r => !same r }).count 6 960
      let m := if mine.any fun e => e.2.isSome then m.bump F.CH_CODE_REBUILT pc else m
      mine.foldl (fun m e => m.rebuiltWord pc e.1 e.2) m

/-- Take an exchange-write out of its bank's list. -/
def Ctl.dropRet (m : Ctl) (pc : Nat) (b : BankIx) (e : Exch) : Ctl :=
  m.modPc pc fun x => x.setBank b { (x.bank b) with rets := ((takeFirst (fun q => decide (q = e)) (x.bank b).rets).map (·.2)).getD [] }

/-- The old value of an enabled word of an exchange-write (R149): as captured, or rebuilt from what the row's page code still
stands for; nothing for a mark, or where the rebuild fails. -/
def Ctl.oldValue (m : Ctl) (a : Arr) (pc : Nat) (b : BankIx) (e : Exch) (w : Nat) : Option Nat :=
  match Got.ofRaw (e.old.getD w { data := 0 }) with
  | .clean d => some d
  | .corrected d => some d
  | .poisoned => none
  | .uncorrectable =>
    if (m.pc pc).isSuspect b e.row then none
    else m.solveRow a pc b e.row (e.col + w) fun v => m.oldWord a pc b e.row v

/-- Carry the old contents of one exchange-write, which is in its bank's list, into the page code (R149, R191). -/
def Ctl.absorb (m : Ctl) (a : Arr) (pc : Nat) (b : BankIx) (e : Exch) : Ctl :=
  let m := m.checkEntry pc b
  if m.entryLost pc b then m.dropRet pc b e
  else
    let ws := ([0, 1].filter fun w => e.en.getD w false).map fun w => (w, m.oldValue a pc b e w)
    let lost := (ws.filter fun x => x.2.isNone).length
    let rebuilt := (ws.filter fun x => x.2.isSome && decide (Got.ofRaw (e.old.getD x.1 { data := 0 }) = .uncorrectable)).length
    let m := if rebuilt = 0 then m else m.bump F.CH_CODE_REBUILT pc rebuilt
    if lost != 0 then (m.bump F.CH_UNCORR_UNCORR pc lost).reencode a pc b e.row
    else
      (ws.foldl (fun m x =>
        let u := pageUpdate (e.col + x.1) (x.2.getD 0 ^^^ e.new.getD x.1 0)
        m.addPage a pc b e.row u.1 u.2) m).dropRet pc b e

/-- The exchange-write that has waited longest for its return, with its bank. -/
def Pc.oldestRet (x : Pc) : Option (BankIx × Exch) :=
  let all := (x.banks.map fun e => e.2.rets.map fun r => (e.1, r)).flatten
  match all with
  | [] => none
  | e :: r => some (r.foldl (fun b y => if y.2.time < b.2.time then y else b) e)

/-- EXCHANGE_RETURN: old contents arrive (R145, R149). -/
def Ctl.exchangeReturn (m : Ctl) (a : Arr) (pc : Nat) : Ctl :=
  match (m.pc pc).oldestRet with
  | none => m
  | some (b, e) => (m.reach (e.time + 4000)).absorb a pc b e

/-- A bank's page-code column arrives and takes the updates that waited for it (R147). -/
def Ctl.loadBank (m : Ctl) (a : Arr) (pc : Nat) (b : BankIx) : Ctl :=
  let m := m.checkEntry pc b
  let k := (m.pc pc).bank b
  match k.row with
  | none => m
  | some row =>
    let p := m.pageOf a pc b row
    m.modPc pc fun x => x.setBank b { k with pce :=
      { k.pce with loading := false, p0 := p.1, p1 := p.2, st := if k.pce.st = .dirty then .dirty else .clean } }

/-- The bank whose page-code load issued first of those under way. -/
def Pc.oldestLoad (x : Pc) : Option (BankIx × Bank) :=
  match x.banks.filter fun e => e.2.pce.loading with
  | [] => none
  | e :: r => some (r.foldl (fun b y => if y.2.pce.loadAt < b.2.pce.loadAt then y else b) e)

/-- PAGE_CODE_LOAD_RETURN (R147): the oldest load returns, tCL after its command. -/
def Ctl.loadReturn (m : Ctl) (a : Arr) (pc : Nat) : Ctl :=
  match (m.pc pc).oldestLoad with
  | none => m
  | some (b, k) => (m.reach (k.pce.loadAt + 14000)).loadBank a pc b

/-- SPECULATIVE_DATA_ARRIVAL: the oldest speculative read returns, tCL after its command (R172, R182). -/
def Ctl.specArrival (m : Ctl) (pc : Nat) : Ctl :=
  match (m.pc pc).curd.find? fun c => decide (c.st ≠ .filled) with
  | none => m
  | some c =>
    let m := m.reach (c.time + 14000)
    let ws := c.raw.map Got.ofRaw
    let clean := ws.all fun g => match g with | .clean _ => true | _ => false
    let drop := m.modPc pc fun x => { x with curd := x.curd.filter fun q => q.line != c.line }
    if c.st = .stale then drop
    else if clean then
      m.modPc pc fun x => { x with curd := x.curd.map fun q =>
        if q.line == c.line then { q with st := .filled, words := ws.map fun g => (g.data?).getD 0, raw := [] } else q }
    else drop.bump F.CMT_DISCARD_COUNT

/-! ## A command slot -/

/-- May a PC issue commands: its clock runs, it is neither dark nor in a reset? -/
def Ctl.pcRuns (m : Ctl) (pc : Nat) : Bool :=
  m.inMode [.training, .ready, .active, .drowse, .factory] && !m.dark pc && (m.pc pc).reset.isNone

/-- What demand and speculation do with a slot, or with its column half alone where a neighbour refresh has used the row half
(R137, R141, R175). -/
def Ctl.demandSlot (m : Ctl) (a : Arr) (pc t : Nat) (colOnly : Bool) : Ctl :=
  if m.paced t then m
  else
    match m.select pc t fun v => !colOnly || v.column with
    | some (j, v) => m.issue a pc j v t
    | none => if colOnly || m.sliceOn pc 1 || m.sliceOn pc 3 then m else m.speculate a pc t

/-- COMMAND_SLOT: background work that can use the slot goes first, then the entry that R141 selects, then speculation (R49, R50,
R142, R175). -/
def Ctl.commandSlot (m : Ctl) (a : Arr) (pc : Nat) : Ctl :=
  if !m.pcRuns pc then m
  else
    let x := m.pc pc
    let t := match x.slotAt with | some s => max m.now (s + m.slotPs) | none => m.now
    let m := (((m.reach t).modPc pc fun x => { x with slotAt := some t })).pruneTargets pc
    match m.nrefMove pc t with
    | some (q, .act _ _) => (m.startNref pc q t).demandSlot a pc t true
    | some (_, .pre b) => (m.precharge pc b t).demandSlot a pc t true
    | some (_, .writeBack b c) => if m.sliceOn pc 1 then m else m.writeBack pc b t c
    | _ =>
      match m.bgPick pc t with
      | some (g, none) => m.bgColumn pc g t
      | some (_, some (.act b row)) => m.activate pc b row t false
      | some (_, some (.pre b)) => m.precharge pc b t
      | some (_, some (.writeBack b c)) => m.writeBack pc b t c
      | some (_, some (.load b row)) => m.loadIssue pc b row t
      | _ => m.demandSlot a pc t false

/-! ## Disturbance -/

/-- Close a bank from a time on, as soon as its timing allows, bringing its page code back first (R142, R152). -/
def Ctl.forceClose (m : Ctl) (a : Arr) (pc : Nat) (b : BankIx) (t : Nat) : Ctl :=
  let k := (m.pc pc).bank b
  match k.row with
  | none => m
  | some _ =>
    let m := if k.pce.loading then m.loadBank a pc b else m
    let m := k.rets.foldl (fun m e => m.absorb a pc b e) m
    if ((m.pc pc).bank b).pce.st = .dirty then m.writeBack pc b (m.soonest pc .wr b 64 t) true
    else m.precharge pc b (m.soonest pc .pre b 64 t)

/-- ACTIVATION_ALERT (R156, R158, R159): a row whose count has reached the threshold, and which no neighbour refresh is pending
for. An alert in a write cut-off looks to the eclipse that it precedes, any other to the one after the latest. -/
def Ctl.alert (m : Ctl) (pc : Nat) (b : BankIx) (row : Nat) : Ctl :=
  let x := m.pc pc
  let q : Row := { bank := b, row := row }
  let n := Sparse.getD m.acts (rowIx pc b row) 0
  if decide (n < m.actLimit pc) || x.nrefPends b row || x.nrefDue.contains q || (x.bank b).nref == some row then m
  else
    let m := m.bump F.CH_ACT_ALERTS pc
    let d := m.die (b / 16)
    if decide (2 * m.actLimit pc ≤ n) || m.hotDie (b / 16) || decide (64 ≤ x.nrefs.length) then m.nrefNow pc b row
    else m.modPc pc fun x => { x with nrefs := x.nrefs ++ [{ row := q, ecl := if d.st = .cut then none else d.ecl }] }

/-- NREF_COMPLETE (R157): tNREF after the refresh issued. -/
def Ctl.nrefDone (m : Ctl) (pc : Nat) (b : BankIx) (row : Nat) : Ctl :=
  let k := (m.pc pc).bank b
  if k.nref == some row then
    let m := (m.reach (k.nrefAt + 60000)).modPc pc fun x => x.setBank b { (x.bank b) with nref := none, nrefAt := 0 }
    { m with acts := Sparse.del m.acts (rowIx pc b row) }
  else m

/-- Pending neighbour refreshes of dies that are hot now are issued at once (R157, R158). -/
def Ctl.hotNrefs (m : Ctl) : Ctl :=
  m.pcs.foldl (fun m e =>
    (e.2.nrefs.filter fun n => m.hotDie (n.row.bank / 16)).foldl (fun m n => m.nrefNow e.1 n.row.bank n.row.row) m) m

/-! ## Read-correct-write, remap and spare rows -/

/-- Raise the fault of a word that stays unrepaired: once for a listed word, once in a pass for a further one (R200). -/
def Ctl.unrepaired (m : Ctl) (pc : Nat) (l : Loc) : Ctl :=
  let x := m.pc pc
  let info := infoPc pc (m.physAddr pc l.bank l.row l.word) 0
  if x.unrep.contains l then m
  else if x.unrep.length < 16 then (m.modPc pc fun x => { x with unrep := x.unrep ++ [l] }).raise 0x107 info
  else if x.overRep.contains l then m
  else (m.modPc pc fun x => { x with overRep := x.overRep ++ [l] }).raise 0x107 info

/-- A free spare word of a PC. -/
def Pc.freeSpare (x : Pc) : Option Nat := (List.range 64).find? fun i => (Sparse.find x.spares i).isNone

/-- Install a word in a spare (R200 step 1, R199). -/
def Ctl.install (m : Ctl) (pc : Nat) (l : Loc) (d i : Nat) : Ctl :=
  let m := m.setSpare pc i { loc := l, data := d, orbit := m.orbit % 2 ^ 32 }
  let m := (m.bump F.CH_REMAP_INSTALLS pc).staleRange (m.physAddr pc l.bank l.row l.word) 32
  m.raise 0x106 (infoPc pc (m.physAddr pc l.bank l.row l.word) 0)

/-- The bank (die * 16 + bank) and the row of the spare and reserved sub-array that a march target of a PC names: targets run
through dies, then banks, then rows (R450). -/
def marchIdx (k : Nat) : Nat × Nat := (k % 16 * 16 + k / 16 % 16, k / 256 % 80)

/-- Is a row of the spare and reserved sub-array taken by a field march that has not completed (R451)? -/
def Ctl.marching (m : Ctl) (pc : Nat) (b : BankIx) (s : Nat) : Bool :=
  let v := Sparse.getD m.march pc 0
  let w := Sparse.getD m.march (64 + pc * 256 + b) 0
  (m.slices.any fun z => z.kind == 2 && z.pc == pc && z.die * 16 + z.bank == b && z.row == s) ||
    (v % 6 != 0 && marchIdx (v / 6) == (b, s)) || (w % 6 != 0 && w / 6 == s)

/-- The lowest free spare row of a bank: not in the map, not failed, not taken by a field march (R440). -/
def Ctl.freeRow (m : Ctl) (pc : Nat) (b : BankIx) : Option Nat :=
  (List.range 16).find? fun s =>
    !(m.rmap.any fun e => e.pc == pc && e.bank == b && e.spare == s) &&
      !(m.deadSpares.any fun e => e.pc == pc && e.bank == b && e.spare == s) &&
      !m.marching pc b s

/-- Can a row be spared now (R440, R441 step 1)? -/
def Ctl.canSpare (m : Ctl) (pc : Nat) (b : BankIx) : Bool := (m.freeRow pc b).isSome && decide (m.rmap.length < 65536)

/-- Handle a hard fault: a spare word, else a copy of the row, else the unrepaired list (R200). -/
def Ctl.hardFault (m : Ctl) (pc : Nat) (l : Loc) (d : Nat) : Ctl :=
  match (m.pc pc).freeSpare with
  | some i => m.install pc l d i
  | none =>
    if m.canSpare pc l.bank && (m.origRow pc l.bank l.row == l.row && !(decide (8192 ≤ l.row ∧ l.row < 8208))
        || decide (8192 ≤ l.row ∧ l.row < 8208)) then
      m.modPc pc fun x => { x with copies := x.copies ++ [{ bank := l.bank, row := l.row, word := some l.word }] }
    else m.unrepaired pc l

/-- Use the entry of a row that is about to be read or written as a whole: `true` where the code path holds and a write may make
the entry DIRTY (R147, R148). -/
def Ctl.rowReady (m : Ctl) (pc : Nat) (b : BankIx) (row : Nat) : Bool × Ctl :=
  let k := (m.pc pc).bank b
  if !(m.pc pc).rowQuiet b row || !(m.pc pc).entryRoom b row || (k.row == some row && k.pce.loading) then (false, m)
  else
    let m := if k.row == some row then m.checkEntry pc b else m
    (!(m.pc pc).codeErr, m)

/-- READ_CORRECT_WRITE (R198): the PENDING word whose operation has had its column slots. `verify` are the cells that flip between
the rewrite and the verify read. -/
def Ctl.readCorrectWrite (m : Ctl) (a : Arr) (pc : Nat) (verify : Noise) : Ctl :=
  match (m.pc pc).bgReady .rcw with
  | none => m
  | some g =>
    let l : Loc := { bank := g.bank, row := g.row, word := g.word }
    let y := m.rowReady pc g.bank g.row
    if !y.1 then y.2
    else
      let m := (y.2.bgDrop pc g).bump F.CH_REPEAT_RCW pc
      let free := fun (m : Ctl) => m.modPc pc fun x => { x with catcher := x.catcher.filter fun q => !decide (q.loc = l) }
      let raw := Got.ofRaw (m.capture a pc l)
      let v := m.readWord a pc l
      let m := if decide (raw = .uncorrectable) && v.data?.isSome then m.bump F.CH_CODE_REBUILT pc else m
      match v.data? with
      | none => (((free m).bump F.CH_UNCORR_UNCORR pc).count 6 64)
      | some d =>
        let m := (m.writeWord a pc l d).staleRange (m.physAddr pc l.bank l.row l.word) 32
        let m := ((m.count 6 128).count 7 32).noise a verify
        match Got.ofRaw (m.capture a pc l) with
        | .clean _ => free m
        | _ => ((free m).bump F.CH_REPEAT_HARD pc).hardFault pc l d

/-- Words of a row as a copy reads them: data or a mark, or nothing where one cannot be decoded (R441 step 3). -/
def Ctl.copyWord (m : Ctl) (a : Arr) (pc : Nat) (l : Loc) : Option (Option Nat) :=
  match m.readWord a pc l with
  | .clean d => some (some d)
  | .corrected d => some (some d)
  | .poisoned => some none
  | .uncorrectable => none

/-- Copy a row to spare row `s` and make the map entry valid (R441 steps 2 to 5). `false` where it must wait for a
scrub. -/
def Ctl.copyRow (m : Ctl) (a : Arr) (pc : Nat) (b : BankIx) (row s : Nat) : Bool × Ctl :=
  let ws := (List.range 32).map fun w => m.copyWord a pc { bank := b, row := row, word := w }
  if ws.any (·.isNone) then
    (false, ws.zipIdx.foldl (fun m e => if e.1.isNone then (m.bump F.CH_UNCORR_UNCORR pc).urgentWord pc { bank := b, row := row, word := e.2 } else m) m)
  else
    let phys := 8192 + s
    let put := fun (m : Ctl) (e : Option (Option Nat) × Nat) =>
      match e.1 with
      | some (some d) => m.storeWord pc b phys e.2 d
      | _ => (m.storeWord pc b phys e.2 0).edit (.mark (wordIx pc b phys e.2) true)
    let m := ws.zipIdx.foldl put m
    let p := pageEncode (ws.map fun e => match e with | some (some d) => d | _ => 0)
    let m := (m.edit (.bytes (slotAddr pc b phys 34) (leBytes 32 p.1))).edit (.bytes (slotAddr pc b phys 35) (leBytes 32 p.2))
    let m := (m.count 6 1024).count 7 1024
    let orig := m.origRow pc b row
    let m : Ctl :=
      if orig != row then
        let repoint := fun (e : RSp) => if e.pc == pc && e.bank == b && e.row == orig then ({ e with spare := s, persist := false } : RSp) else e
        ({ m with rmap := m.rmap.map repoint, deadSpares := m.deadSpares ++ [{ pc := pc, bank := b, spare := row - 8192 }] } : Ctl)
      else { m with rmap := m.rmap ++ [{ pc := pc, bank := b, row := row, spare := s }] }
    let m := (List.range 16).foldl (fun m k => m.staleLine pc (m.addrOf pc b orig (2 * k) / 64)) m
    (true, m.modPc pc fun x =>
      { x with spares := x.spares.filter fun e => !(e.2.loc.bank == b && e.2.loc.row == row),
               unrep := x.unrep.filter fun l => !(l.bank == b && l.row == row),
               copies := x.copies.filter fun c => !(c.bank == b && c.row == row) })

/-- No spare row is left for a row that waits for a copy: its words stay unrepaired (R200 step 3, R441 step 1). -/
def Ctl.copyFails (m : Ctl) (pc : Nat) (b : BankIx) (row : Nat) : Ctl :=
  let mine := (m.pc pc).copies.filter fun c => c.bank == b && c.row == row
  let m := m.modPc pc fun x => { x with copies := x.copies.filter fun c => !(c.bank == b && c.row == row) }
  mine.foldl (fun m c => match c.word with | some w => m.unrepaired pc { bank := b, row := row, word := w } | none => m) m

/-- ROW_SPARE_COPY (R441): the copy that has had its column slots. The old row is closed with its page code, and the spare row is
opened for the writes and closed again. -/
def Ctl.rowSpareCopy (m : Ctl) (a : Arr) (pc : Nat) : Ctl :=
  match (m.pc pc).bgReady .copy with
  | none => m
  | some g =>
    let y := m.rowReady pc g.bank g.row
    if !y.1 then y.2
    else
      let m := y.2.bgDrop pc g
      if !m.canSpare pc g.bank then m.copyFails pc g.bank g.row
      else
        let s := (m.freeRow pc g.bank).getD 0
        let z := m.copyRow a pc g.bank g.row s
        if !z.1 then z.2
        else
          let m := z.2.forceClose a pc g.bank m.now
          let m := m.activate pc g.bank (8192 + s) (m.soonest pc .act g.bank 64 m.now) false
          m.precharge pc g.bank (m.soonest pc .pre g.bank 64 m.now)

/-! ## Scrubbing -/

/-- Exchange-write a word for the scrubber: the array and a spare. Its old contents, decoded or rebuilt, were the same data, so P0
and P1 do not change, but an entry becomes DIRTY. -/
def Ctl.scrubWrite (m : Ctl) (a : Arr) (pc : Nat) (l : Loc) (d : Nat) : Ctl :=
  let m := ((m.storeWord pc l.bank l.row l.word d).writeSpare pc l d).addPage a pc l.bank l.row 0 0
  ((m.bump F.CH_SCRUB_CORRECTED pc).count 7 32).staleLine pc (m.physAddr pc l.bank l.row l.word / 64)

/-- Write a poison mark (R211): a mark in the array with data 0, or the POISON bit of a remap entry. The row is re-encoded once
all of its marks stand. -/
def Ctl.poisonMark (m : Ctl) (pc : Nat) (l : Loc) : Ctl :=
  let m :=
    match (m.pc pc).spareOf l with
    | some (i, s) => m.setSpare pc i { s with poison := true }
    | none => (m.storeWord pc l.bank l.row l.word 0).edit (.mark (wordIx pc l.bank l.row l.word) true)
  let m := (m.bump F.CH_UNCORR_MARKED pc).bump F.CH_UNCORR_UNCORR pc
  let info := infoPc pc (m.physAddr pc l.bank l.row l.word) 0
  ((m.raise 0x104 info).raise 0x105 info).staleLine pc (m.physAddr pc l.bank l.row l.word / 64)

/-- What a scrub does with a word (R207 steps 2 to 5, R211). -/
inductive ScrubAct where
  | good                           -- CLEAN: left as it is
  | rewrite (d : Nat)              -- CORRECTED, or a word queued as bad that decodes again
  | rebuilt (d : Nat)
  | marked                         -- POISONED: left as it is
  | lost                           -- UNCORRECTABLE and not rebuilt
deriving DecidableEq, Repr

/-- Judge a word of a scrubbed row. -/
def Ctl.scrubJudge (m : Ctl) (a : Arr) (pc : Nat) (l : Loc) : ScrubAct :=
  let x := m.pc pc
  match Got.ofRaw (m.capture a pc l) with
  | .clean d => if x.urgent.contains l then .rewrite d else .good
  | .corrected d => .rewrite d
  | .poisoned => .marked
  | .uncorrectable =>
    if x.isSuspect l.bank l.row then .lost
    else
      match m.pageRebuild a pc l.bank l.row l.word with
      | some d => .rebuilt d
      | none => .lost

/-- Carry out what was judged for a word. -/
def Ctl.scrubWord (m : Ctl) (a : Arr) (pc : Nat) (l : Loc) : ScrubAct → Ctl
  | .good => m
  | .rewrite d => m.scrubWrite a pc l d
  | .rebuilt d => (m.scrubWrite a pc l d).bump F.CH_CODE_REBUILT pc
  | .marked => m
  | .lost => m.poisonMark pc l

/-- The value of a word as the page code has it: a mark counts as 0 (R193). -/
def Ctl.codeValue (m : Ctl) (a : Arr) (pc : Nat) (l : Loc) : Nat := (m.knownWord a pc l.bank l.row l.word).getD 0

/-- The check of S0 and S1 (R208). -/
def Ctl.scrubCheck (m : Ctl) (a : Arr) (pc : Nat) (b : BankIx) (row : Nat) : Ctl :=
  let ws := (List.range 32).map fun w => m.codeValue a pc { bank := b, row := row, word := w }
  let p := m.pageOf a pc b row
  let s := syndromes ws p.1 p.2
  if s.1 = 0 ∧ s.2 = 0 then m
  else
    let info := infoPc pc (m.physAddr pc b row 0) 0
    match locate s.1 s.2 with
    | some w =>
      if w < 32 then
        let l : Loc := { bank := b, row := row, word := w }
        let d := ws.getD w 0 ^^^ s.1
        let m := ((m.storeWord pc b row w d).writeSpare pc l d).bump F.CH_CODE_REBUILT pc
        ((m.bump F.CH_SCRUB_CORRECTED pc).staleLine pc (m.physAddr pc b row w / 64)).raise 0x108 info
      else (m.reencode a pc b row false).raise 0x108 info
    | none => (m.reencode a pc b row false).raise 0x108 info

/-- Scrub one row (R207). The row's exchange returns have all come back. `skip` where a write to the row was accepted between the
scrub's reads (R209). -/
def Ctl.scrubOne (m : Ctl) (a : Arr) (pc : Nat) (b : BankIx) (row : Nat) (skip : Bool) : Ctl :=
  let suspect := (m.pc pc).isSuspect b row
  let acts := (List.range 32).map fun w =>
    let l : Loc := { bank := b, row := row, word := w }
    (l, m.scrubJudge a pc l)
  let m := acts.foldl (fun m e => m.scrubWord a pc e.1 e.2) (m.count 6 1024)
  let sound := acts.all fun e => match e.2 with | .good | .rewrite _ => true | _ => false
  let m :=
    if suspect || acts.any fun e => decide (e.2 = .lost) then m.reencode a pc b row false
    else if !sound then m
    else if skip then m.bump F.CH_SCRUB_SKIP pc
    else m.scrubCheck a pc b row
  m.modPc pc fun x =>
    { x with urgent := x.urgent.filter fun l => !(l.bank == b && l.row == row),
             rows := x.rows.filter fun q => q != ({ bank := b, row := row } : Row) }

/-- Words rewritten by a scrubber, to see how many a scrub adds. -/
def Ctl.scrubCount (m : Ctl) (pc : Nat) : Nat := m.get F.CH_SCRUB_CORRECTED pc

/-- A row has been scrubbed: every SCRUB_RANGE that waits for it counts it off, with the words rewritten (R264). -/
def Ctl.scrubCredit (m : Ctl) (pc : Nat) (q : Row) (n : Nat) : Ctl :=
  let k := rowIx pc q.bank q.row
  let tick := fun (d : Prog) =>
    if d.op == 0x10 && (Sparse.find d.idxs k).isSome then { d with idxs := Sparse.del d.idxs k, result := d.result + n } else d
  { m with rings := Sparse.mapD m.rings {} fun _ x => { x with prog := x.prog.map tick } }

/-- Was a write to a row accepted since a scrub's first column read (R209)? -/
def Ctl.wroteSince (m : Ctl) (pc : Nat) (g : Bg) : Bool :=
  (m.pc pc).queue.any fun j => !g.holds j && j.acc != .read && decide (g.first.getD 0 ≤ j.arrival) && (linesOf j.addr j.len).any fun n =>
    let l := m.lineAt n; l.bank == g.bank && l.row == g.row

/-- SCRUB_ROW (R207, R209): the row whose scrub has had its column slots. -/
def Ctl.scrubRow (m : Ctl) (a : Arr) (pc : Nat) : Ctl :=
  match (m.pc pc).bgReady .scrub with
  | none => m
  | some g =>
    let y := m.rowReady pc g.bank g.row
    if !y.1 then y.2
    else
      let m := y.2
      let skip := m.wroteSince pc g
      let before := m.scrubCount pc
      let m := (m.bgDrop pc g).scrubOne a pc g.bank g.row skip
      (m.scrubCredit pc { bank := g.bank, row := g.row } (m.scrubCount pc - before)).modPc pc fun x =>
        { x with scrubbed := if g.walk then x.scrubbed + 1 else x.scrubbed }

/-! ## The TSV ladder -/

/-- Drop every curd entry and pending target of a PC (R183). -/
def Ctl.dropSpec (m : Ctl) (pc : Nat) : Ctl :=
  let x := m.pc pc
  (m.bump F.CMT_CANCEL_COUNT 0 (x.curd.length + x.targets.length)).modPc pc fun x => { x with curd := [], targets := [] }

/-- Number of dark PCs. -/
def Ctl.darkCount (m : Ctl) : Nat := ((List.range 64).filter fun p => m.dark p).length

/-- Slices abandoned: the descriptor of a TEST_SLICE completes ABANDONED (R453, R455). -/
def Ctl.abandonSlices (m : Ctl) (gone : List Slice) : Ctl :=
  let m := { m with slices := m.slices.filter fun z => !gone.contains z }
  let m := if m.slices.isEmpty && !gone.isEmpty then m.put F.BIST_FIELD_CUR_ACTIVE 0 else m
  gone.foldl (fun m z =>
    let m := m.bump F.BIST_FIELD_COUNT_ABANDONED
    match z.desc with
    | some (r, i) => m.endProg r i 0 3
    | none => m) m

/-- Drop the slice of a PC without re-initialisation (R453). -/
def Ctl.abandonSlice (m : Ctl) (pc : Nat) : Ctl := m.abandonSlices (m.slices.filter fun z => z.pc == pc)

/-- The change that leaves a marched row re-initialised (R451). -/
def marchWipe (pc : Nat) (b : BankIx) (s : Nat) : Edit :=
  .wipe (rowIx pc b (8192 + s)) (rowIx pc b (8192 + s) + 1)

/-- Re-initialise the target of a slice (R451): a marched row is written with zeros and valid codes. -/
def Ctl.reinit (m : Ctl) (z : Slice) : Ctl :=
  if z.kind = 2 then m.edit (marchWipe z.pc (z.die * 16 + z.bank) z.row) else m

/-- A PC goes dark (R17, R161, R509): everything that waits for it ends RETIRED, and the dirty bitmaps lose what they held in it. -/
def Ctl.goDark (m : Ctl) (pc : Nat) : Ctl :=
  if m.dark pc then m
  else
    let m := (m.dropSpec pc).abandonSlice pc
    let x := m.pc pc
    let m := (m.set F.CH_STATUS_MODE pc 2).setPc pc
      { x with ingress := [], queue := [], flights := [], rebuilds := [], banks := [], nrefs := [], nrefDue := [], bg := [], codeErr := false,
               reset := none, suspect := [], urgent := [], rows := [], copies := [], catcher := [], tsv := { x.tsv with dead := true } }
    let m := (x.queue ++ x.ingress).foldl (fun m j => (m.performed j.who).failJob j stRetired) m
    let m := { m with mirs := Sparse.mapD m.mirs {} fun _ y => { y with stale := true } }
    m.raise 0x101 (infoPc pc 0 (64 - m.darkCount))

/-- A PC enters narrow mode on a half, 0 or 1 (R16, R160). -/
def Ctl.goNarrow (m : Ctl) (pc half : Nat) : Ctl :=
  let m := if (m.pc pc).reset.isSome then m.modPc pc fun x => { x with reset := x.reset.map fun r => { r with mode := 1 } }
           else m.set F.CH_STATUS_MODE pc 1
  (m.set F.CH_STATUS_HALF pc half).raise 0x100 (infoPc pc 0 half)

/-- The strobe group of a lane (R14). -/
def groupOf (n : Nat) : Nat := if n < 128 then n / 32 else (n - 128) / 2

/-- A free spare lane of a strobe group (R14). DESIGN CHOICE: group `g` has the spare lanes `2g` and `2g + 1`, and the lower free one
is taken. -/
def Tsv.spareLane (t : Tsv) (g : Nat) : Option Nat := [2 * g, 2 * g + 1].find? fun s => !t.lanes.any fun e => e.2 == s

/-- A free spare C/A TSV (R15). DESIGN CHOICE: the lowest. -/
def Tsv.spareCa (t : Tsv) : Option Nat := (List.range 4).find? fun s => !t.ca.any fun e => e.2 == s

/-- Map a spare C/A TSV in for one. -/
def Tsv.mapCa (t : Tsv) (n : Nat) : Tsv :=
  match t.spareCa with
  | some s => { t with ca := t.ca ++ [(n, s)] }
  | none => t

/-- Handle a TSV failure by the ladder (R15, R16). DESIGN CHOICE: of the spare strobes the lowest free one is taken; and where one
spare C/A TSV is left for a signal with both of its TSVs failed, it replaces TSV `2s`. -/
def Ctl.tsvFault (m : Ctl) (pc : Nat) (e : TsvElem) : Ctl :=
  if m.dark pc then m
  else
    let setT := fun (m : Ctl) (t : Tsv) => m.modPc pc fun x => { x with tsv := t }
    let t := (m.pc pc).tsv
    let free := 4 - t.ca.length
    match e with
    | .lane n =>
      let g := groupOf n
      match t.spareLane g with
      | some s => setT m { t with lanes := t.lanes ++ [(n.val, s)] }
      | none =>
        let h := g / 2
        let bad := if t.badHalf.contains h then t.badHalf else t.badHalf ++ [h]
        let m := setT m { t with badHalf := bad }
        if 2 ≤ bad.length then m.goDark pc
        else if t.badHalf.contains h then m
        else m.goNarrow pc (1 - h)
    | .caTsv n =>
      let s := n.val / 2
      if 0 < free then setT m (t.mapCa n)
      else if t.single.contains s then m.goDark pc
      else (setT m { t with single := t.single ++ [s] }).raise 0x10A (infoPc pc 0 s)
    | .caSignal s =>
      if 2 ≤ free then setT m ((t.mapCa (2 * s.val)).mapCa (2 * s.val + 1))
      else if free = 1 ∧ !t.single.contains s.val then
        (setT m { t.mapCa (2 * s.val) with single := t.single ++ [s.val] }).raise 0x10A (infoPc pc 0 s)
      else m.goDark pc
    | .strobe n =>
      match [0, 1].find? fun s => !t.strobes.any fun e => e.2 == s with
      | some s => setT m { t with strobes := t.strobes ++ [(n.val, s)] }
      | none => m.goDark pc

/-- Raise a PC's IR-drop step (R162). -/
def Ctl.irStep (m : Ctl) (pc : Nat) : Ctl :=
  let k := m.get F.CH_STATUS_IRDROP pc
  if k < 3 then (m.set F.CH_STATUS_IRDROP pc (k + 1)).raise 0x102 (infoPc pc 0 (k + 1)) else m

end Sys2Proof.Machine
end

