-- ==== Sys2Proof/Machine/Resets.lean ====
section
/-!
DEFINITION. Resets and losses: the block reset of a PC (R163), partner loss (R110, R268), loss of the service host
(R345), chip and power-on resets (R392, R393, R395), quarantine (R417), and the entry handshake's end (R381, R382).
-/

namespace Sys2Proof.Machine

/-! ## PCs -/

/-- Add a row to the suspect list of a PC (R164). -/
def Ctl.addSuspect (m : Ctl) (pc : Nat) (b : BankIx) (row : Nat) : Ctl :=
  if (m.pc pc).isSuspect b row then m
  else (m.modPc pc fun x => { x with suspect := x.suspect ++ [{ bank := b, row := row }] }).bump F.CH_SUSPECT_TOTAL pc

/-- A neighbour refresh that was under way waits again (R163 T4), at once where the list of 64 is full (R159). -/
def Pc.requeueNref (x : Pc) (q : Row) : Pc :=
  if x.nrefs.length < 64 then { x with nrefs := x.nrefs ++ [{ row := q }] } else { x with nrefDue := x.nrefDue ++ [q] }

/-- The page-code cache flush (R164): DIRTY entries are written back, or their rows become suspect where the cause is the code path,
an entry that cannot be read being such a cause. -/
def Ctl.flushCache (m : Ctl) (pc : Nat) (codePath : Bool) : Ctl :=
  let dirty := ((m.pc pc).banks.filter fun e => e.2.pce.st = .dirty).map (·.1)
  let m := dirty.foldl (fun m b => m.checkEntry pc b) m
  let found := (m.pc pc).codeErr
  let m := if found && (m.pc pc).reset.isSome then m.set F.CH_RESET_INFO_CAUSE pc 3 else m
  let m := m.modPc pc fun x => { x with codeErr := false }
  dirty.foldl (fun m b =>
    if codePath || found then (match ((m.pc pc).bank b).row with | some r => m.addSuspect pc b r | none => m)
    else m.writeBack pc b m.now false) m

/-- T1 to T3 of R163: bursts finish, the page-code cache is flushed (R164), and every bank is precharged. Background operations
begin again. -/
def Ctl.drainPc (m : Ctl) (a : Arr) (pc : Nat) (codePath : Bool) : Ctl :=
  let m := (m.pc pc).flights.foldl (fun m _ => m.readData pc) m
  let m := (m.pc pc).banks.foldl (fun m e => if e.2.pce.loading then m.loadReturn a pc else m) m
  let rets := ((m.pc pc).banks.map fun e => e.2.rets).flatten
  let m := rets.foldl (fun m _ => m.exchangeReturn a pc) m
  let m := m.flushCache pc codePath
  m.modPc pc fun x =>
    let runs := x.banks.filterMap fun e => e.2.nref.map fun r => ({ bank := e.1, row := r } : Row)
    { runs.foldl Pc.requeueNref x with banks := [], bg := x.bg.map fun g => { g with first := none, turns := 0 } }

/-- Start a block reset of a PC, or merge its cause into the one running (R163 T0, R166, R183). -/
def Ctl.blockReset (m : Ctl) (pc cause : Nat) (codePath : Bool) : Ctl :=
  if m.dark pc then m
  else
    let m := m.set F.CH_RESET_INFO_CAUSE pc cause
    match (m.pc pc).reset with
    | some r => m.modPc pc fun x => { x with reset := some { r with codePath := r.codePath || codePath } }
    | none =>
      let m := ((m.bump F.CH_RESET_INFO_COUNT pc).dropSpec pc).abandonSlice pc
      let mode := m.get F.CH_STATUS_MODE pc
      (m.set F.CH_STATUS_MODE pc 3).modPc pc fun x =>
        { x with reset := some { since := m.now, codePath := codePath, mode := mode } }

/-- The code path of a PC failed in the command in hand: a block reset of cause CODE_PATH starts (R164). -/
def Ctl.codeResets (m : Ctl) : Ctl :=
  m.pcs.foldl (fun m e =>
    if e.2.codeErr then (m.modPc e.1 fun x => { x with codeErr := false }).blockReset e.1 3 true else m) m

/-- Re-encode the oldest suspect rows until the list holds no more than 32 (R164). -/
def Ctl.trimSuspects (m : Ctl) (a : Arr) (pc : Nat) : Ctl :=
  let extra := (m.pc pc).suspect.take ((m.pc pc).suspect.length - 32)
  extra.foldl (fun m q => m.reencode a pc q.bank q.row) m

/-- PC_BLOCK_RESET: T1 to T6 of R163 for the reset under way. `fails` are the failures that retraining found (R15). At its end the
dies leave self-refresh, tXS before the first command, the entries in the queue are to run first, and the work still held at the
ingress keeps its 64 us from T0 (R165). -/
def Ctl.blockResetRun (m : Ctl) (a : Arr) (pc : Nat) (fails : List TsvElem) : Ctl :=
  match (m.pc pc).reset with
  | none => m
  | some r =>
    let m := m.drainPc a pc r.codePath
    let m := fails.foldl (fun m e => m.tsvFault pc e) m
    match (m.pc pc).reset with
    | none => m
    | some r =>
      let m := m.trimSuspects a pc
      (m.set F.CH_STATUS_MODE pc r.mode).modPc pc fun x =>
        { x with reset := none, hist := [], slotAt := some (m.now + 160000 - m.slotPs),
                 queue := x.queue.map fun j => { j with old := (match j.who with | .bg _ _ _ _ => false | _ => true) },
                 ingress := x.ingress.map fun j => { j with heldFrom := some (j.heldFrom.getD r.since) } }

/-- T1 to T3 of R163 in every PC that is not dark. -/
def Ctl.drainAll (m : Ctl) (a : Arr) : Ctl :=
  (List.range 64).foldl (fun m pc =>
    if m.dark pc || (Sparse.find m.pcs pc).isNone then m else (m.drainPc a pc false).dropSpec pc) m

/-! ## Rings -/

/-- Complete everything a ring has in progress ABORTED_PARTNER_LOST and set it ABORTED (R268). -/
def Ctl.ringAbort (m : Ctl) (r : Nat) : Ctl :=
  if m.ringState r == rsDisabled then m
  else
    let was := (m.ring r).prog
    let m := ((m.dropFetches r).set F.RING_STATUS_STATE r rsAborted).modRing r fun x =>
      { x with pre := [], prog := x.prog.map fun d =>
          if d.phase = .waiting then { d with phase := .ended, status := 0x16 }
          else if d.phase = .running then { d.giveUp with stop := some { status := 0x16 } } else d }
    let m := (was.filter fun d => decide (d.phase = .running)).foldl (fun m d =>
      if opDest d.op then m.closeProg r d.idx else m.endProg r d.idx 0x16 0) m
    if 128 ≤ r && !was.isEmpty then m.set F.RING_STATUS_RECORD_FAIL r 1 else m

/-- Abort the rings `lo` to `lo + n - 1`. -/
def Ctl.ringsAbort (m : Ctl) (lo n : Nat) : Ctl :=
  (List.range n).foldl (fun m k => m.ringAbort (lo + k)) m

/-! ## The mode with links coming and going -/

/-- Is a host-port or service-port link up? -/
def Ctl.anyLink (m : Ctl) : Bool := m.linkUp .a || m.linkUp .b || m.is F.SVC_STATUS_LINK

/-- READY and ACTIVE follow the links (R378). -/
def Ctl.readyOrActive (m : Ctl) : Ctl :=
  if m.inMode [.ready] && m.anyLink then m.setMode .active
  else if m.inMode [.active] && !m.anyLink then m.setMode .ready
  else m

/-! ## Host ports -/

/-- Opcode of an accepted header (R112). -/
def Hdr.op (h : Hdr) : Nat := h.bits % 16

/-- Has a header all of its payload? -/
def Hdr.whole (h : Hdr) : Bool := !h.cutoff && decide (h.need ≤ h.got.length)

/-- Is a request executed after its port or pair is lost (R94, R110): a whole write, a CONFIG_WRITE or a DOORBELL? -/
def Req.outlives (r : Req) : Bool := r.st != .data && (r.op == 1 || r.op == 2 || r.op == 5 || r.op == 6)

/-- Take away a port request's share of its session's outstanding count. -/
def Ctl.forget (m : Ctl) (r : Req) : Ctl := if r.admitted && !r.orphan then m.outstDec r.session else m

/-- Discard the queued completions of a pair. -/
def Ctl.dropUp (m : Ctl) (up : List UpItem) : Ctl :=
  up.foldl (fun m u => match u with | .cpl _ _ _ _ _ s (.fresh true) _ => m.outstDec s | _ => m) m

/-- Remove the jobs of discarded port requests from every PC. -/
def Ctl.dropJobs (m : Ctl) (p : Port) (gone : List Nat) : Ctl :=
  let live := fun (j : Job) => match j.who with | .port q pos => !(decide (q = p) && gone.contains pos) | _ => true
  { m with pcs := Sparse.mapD m.pcs {} fun _ x => { x with ingress := x.ingress.filter live, queue := x.queue.filter live } }

/-- A request that goes on without a port or pair: it has no completion, no tag, and no credit to return (R94, R110). -/
def Req.orphaned (r : Req) : Req := { r with orphan := true, rh := 0, wd := 0 }

/-- An accepted header that goes on without its port or pair. -/
def Hdr.orphaned (h : Hdr) : Hdr := { h with orphan := true, rh := 0, wd := 0 }

/-- The actions of R110 on a port's traffic, rings and ownership, and the reset of its block. DESIGN CHOICE: `LINK` reads LOST until
the next training, and a CONFIG_WRITE that still waits for its order is judged after the semaphore is released. -/
def Ctl.portReset (m : Ctl) (p : Port) : Ctl :=
  let x := m.port p
  let m := x.reqs.foldl Ctl.forget m
  let m := x.grps.foldl (fun m e => m.dropUp e.2.up) m
  let m := m.dropJobs p ((x.reqs.filter fun r => !r.outlives).map (·.pos))
  let m := m.setPort p
    { reqs := (x.reqs.filter Req.outlives).map Req.orphaned,
      hdrs := (x.hdrs.filter fun h => h.whole && (h.op == 1 || h.op == 2 || h.op == 5 || h.op == 6)).map
        Hdr.orphaned,
      nextPos := x.nextPos }
  let m := m.ringsAbort (64 * p.idx) 64
  let m := if m.owner = p.master.code then m.release fun r => r / 64 == p.idx && decide (r < 128) else m
  let i := p.idx
  let m := ((m.clear F.PA_STATUS_GROUPS i).clear F.PA_STATUS_RATE i).set F.PA_STATUS_LINK i 4
  let m := ((m.clear F.PA_SIDEBAND_PARTNER_IDLE i).clear F.PA_SIDEBAND_URG i)
  m.readyOrActive

/-- PARTNER_LOSS: cause 1 HOSTPRES low, 2 clock loss, 3 flit silence (R109, R110). -/
def Ctl.partnerLost (m : Ctl) (p : Port) (cause : Nat) : Ctl :=
  let m := m.portReset p
  let m := (m.set F.PA_LOSS_CAUSE p.idx cause).bump F.PA_LOSS_COUNT p.idx
  m.raise (match p with | .a => 0x082 | .b => 0x092) (cause * 2 ^ 12)

/-! ## The service port -/

/-- Loss of the service host (R345): 1 PERST_N, 2 DL_Down, 3 a hot or function-level reset. -/
def Ctl.svcLost (m : Ctl) (cause : Nat) : Ctl :=
  let x := m.svc
  let readAt := fun (pos : Nat) => (x.tlps.any fun t => !t.wr && t.covers pos) || x.reqs.any fun r => r.pos == pos && r.op == 4
  let live := fun (j : Job) => match j.who with | .svc id => !readAt id | _ => true
  let m := { m with
    pcs := Sparse.mapD m.pcs {} fun _ x => { x with ingress := x.ingress.filter live, queue := x.queue.filter live }
    svc := { reqs := x.reqs.filter fun r => !readAt r.pos, nextPos := x.nextPos, tlps := x.tlps.filter (·.wr) } }
  let m := m.ringsAbort 128 32
  let m := if m.owner = Master.svc.code then m.release fun r => decide (128 ≤ r) else m
  let m := ((m.clear F.SVC_STATUS_DSTATE).clear F.SVC_STATUS_BME).clear F.SVC_STATUS_WIDTH
  let m := (m.clear F.SVC_STATUS_SPEED).clear F.SVC_STATUS_LINK
  let m := if cause = 1 then m.put F.SVC_STATUS_PERST 0 else m
  ((m.put F.SVC_LOSS_CAUSE cause).bump F.SVC_LOSS_COUNT).readyOrActive

/-! ## The entry handshake -/

/-- Abandon the handshake under way (R381, R382): block, reason and target are recorded, and a SLEEP completes
REFUSED. -/
def Ctl.entryRefused (m : Ctl) (block reason : Nat) : Ctl :=
  match m.entry with
  | none => m
  | some e =>
    let m := { m with entry := none, idle := 0 }
    let m := ((m.put F.PWR_REFUSE_BLOCK block).put F.PWR_REFUSE_REASON reason).put F.PWR_REFUSE_TARGET e.target
    let m := m.bump F.PWR_REFUSE_COUNT
    match e.desc with
    | some (r, i) => m.endProg r i 0x1E (block + reason * 2 ^ 8)
    | none => m

/-- A wake or new work before the entry point abandons the handshake with block PWR and reason WAKE (R382). -/
def Ctl.entryWake (m : Ctl) : Ctl := m.entryRefused 10 1

/-! ## Fuses -/

/-- A reset in the middle of a word leaves it partly programmed (R433). -/
def Ctl.fuseCut (m : Ctl) : Ctl :=
  match m.fuseOp with
  | none => { m with fuseWait := [] }
  | some f =>
    let w := Sparse.getD m.fuse f.word {}
    { m with fuse := Sparse.put m.fuse f.word { w with data := some f.data, partly := true }, fuseOp := none, fuseWait := [] }

/-! ## Chip reset -/

/-- Is a bank's entry DIRTY with every update in it, so that it can be written back after a chip reset (R393)? -/
def Bank.heldEntry (k : Bank) : Bool := k.pce.st = .dirty && k.row.isSome && k.rets.isEmpty && !k.pce.loading

/-- What a PC keeps over a chip reset (R395): repairs, suspect rows, its TSV bundle, and the page-code entries that could not be
written back (R393). An entry whose exchange returns or load were lost with the logic no longer covers its row: the row is
suspect. -/
def Pc.afterReset (x : Pc) : Pc :=
  let broken := x.banks.filterMap fun e =>
    match e.2.row with
    | some r => if e.2.pce.st = .dirty && !e.2.heldEntry then some ({ bank := e.1, row := r } : Row) else none
    | none => none
  { spares := x.spares, unrep := x.unrep, tsv := x.tsv,
    suspect := x.suspect ++ broken.filter fun q => !x.suspect.contains q,
    banks := (x.banks.filter fun e => e.2.heldEntry).map fun e => (e.1, { row := e.2.row, pce := e.2.pce }) }

/-- A chip reset (R392, R393): causes as `RESET_CAUSE.CAUSE` codes them. The stack is in POWERED at its end, and leaves
it by FUSE_SENSE. FACTORY is left only by power-on reset (R378): there it is not taken. -/
def Ctl.chipReset (m : Ctl) (a : Arr) (cause : Nat) : Ctl :=
  if m.inMode [.factory] then m else
  let m := m.fuseCut
  let m := if cause = 2 || m.inMode [.powered, .hibernate, .crescent, .quarantine] then m else m.drainAll a
  let k := m.retain fun c => decide (c = .always) || decide (c = .sticky)
  let pcs := Sparse.mapD m.pcs {} fun _ x => x.afterReset
  let dies := Sparse.mapD m.dies {} fun _ x => { debt := x.debt, row := x.row }
  let n : Ctl :=
    { now := m.now, free := m.free, power := m.power, present := m.present, flds := k.flds, edits := m.edits, raised := m.raised, out := m.out,
      pcs := pcs, rmap := m.rmap, deadSpares := m.deadSpares, badReserved := m.badReserved, held := m.held, ovfNext := m.ovfNext,
      bnd := m.bnd, dies := dies, acts := m.acts, clk := m.clk, lost := m.lost ||| m.get F.PWR_FILL_DIES, resetLow := m.resetLow, vinBad := m.vinBad,
      vphyBad := m.vphyBad, fuseSeen := m.fuseSeen, fuse := m.fuse, cycles := m.cycles, march := m.march,
      sliceBnd := m.bnd, scrubBnd := m.bnd, factoryReq := m.factoryReq && !m.is F.BIST_STATUS_WIPING }
  let n := (n.setMode .powered).put F.RESET_CAUSE_CAUSE cause
  let n := (n.bump F.RESET_CAUSE_COUNT).put F.RETAIN_STATUS_EVENT 1
  let n := (n.put F.CLK_STATUS_TRO_STARTED 1).put F.CLK_STATUS_MON_ARMED 1
  let n := { n with bistShort := true }
  let n : Ctl := { n with clk := { n.clk with gated := [], asked := [] } }
  let n : Ctl :=
    if m.is F.CLK_STATUS_XTAL_GOOD then n
    else { n with clk := { n.clk with total := 0, bads := 0, cleans := 0, attempt := 0, ampOff := false } }
  let n := [Port.a, Port.b].foldl (fun n p => n.set F.PA_SIDEBAND_HOSTPRES p.idx (m.get F.PA_SIDEBAND_HOSTPRES p.idx)) n
  let n := (n.put F.SVC_STATUS_PERST (m.get F.SVC_STATUS_PERST)).put F.FUSE_STATUS_VFUSE_OK (m.get F.FUSE_STATUS_VFUSE_OK)
  ((n.put F.CLK_STATUS_XTAL_GOOD (m.get F.CLK_STATUS_XTAL_GOOD)).put F.CLK_STATUS_MON_RANGE
    (m.get F.CLK_STATUS_MON_RANGE)).put F.CLK_STATUS_RS_SRC (m.get F.CLK_STATUS_RS_SRC)

/-- Power-on reset (R350, R351, R392): everything takes its reset value but the fuses and the pins. -/
def Ctl.powerOn (m : Ctl) (p : Power) : Ctl :=
  { now := m.now, free := m.free, power := p, fuse := m.fuseCut.fuse, cycles := m.cycles + 1, resetLow := m.resetLow,
    vinBad := m.vinBad, vphyBad := m.vphyBad, edits := m.edits, out := m.out }

/-! ## Quarantine -/

/-- Drop every link and everything queued, without completion (R417, R122). -/
def Ctl.dropWork (m : Ctl) : Ctl :=
  let m := (m.linkDown 0).linkDown 1
  let m := { m with pa := {}, pb := {}, comets := [], engines := [], mirWait := [],
                    rings := [],
                    pcs := Sparse.mapD m.pcs {} fun _ x =>
                      { x with ingress := [], queue := [], flights := [], rebuilds := [], curd := [], targets := [], reset := none, bg := [] },
                    svc := { m.svc with reqs := [], tlps := [] }, slices := [], sliceDue := [] }
  let m := [Port.a, Port.b].foldl (fun m p =>
    ((m.clear F.PA_STATUS_GROUPS p.idx).clear F.PA_STATUS_RATE p.idx).clear F.PA_STATUS_LINK p.idx) m
  m.clearRange F.SES_STAT_OUTST 0 262144

/-- Enter QUARANTINE (R417, R378): every die in self-refresh, with hot refresh on every die. -/
def Ctl.quarantine (m : Ctl) (a : Arr) (reason : Nat) : Ctl :=
  let m := m.entryRefused 11 reason
  let m := if m.inMode [.hibernate, .crescent] then m else m.drainAll a
  let m := (m.dropWork).put F.ORB_HOTMAP_HOT 0xFFFF
  let m := { m with dies := Sparse.mapD m.dies {} fun _ x => { x with st := .quiet, transit := false, catchup := false, leadAt := none } }
  let m := { m with orb := { m.orb with run := false } }
  (m.setMode .quarantine).put F.FLT_STATUS_FAULTN 0

end Sys2Proof.Machine
end

