-- ==== Sys2Proof/Machine/Commit.lean ====
section
/-!
DEFINITION. The act of a commit at its boundary (R282), with what the committed values do at once in other chapters:
mirror regions (R325, R329), the scrub pass (R206), speculation (R183), the service window (R338), disabled ports and
links, and field tests (R450).
-/

namespace Sys2Proof.Machine

/-! ## The scrub pass -/

/-- Orbits between row starts for a PERIOD_H code (R206). -/
def scrubInterval (code : Nat) : Nat := max 1 (min 168 code) * 921600000 / 2117632

/-- Start a pass of every scrubber (R206): its first row is due at once. Words reported in the pass may be reported again (R200),
and the catcher counts afresh (R197). -/
def Ctl.scrubPass (m : Ctl) : Ctl :=
  let fresh := fun (x : Pc) =>
    { x with scrubbed := 0, overRep := [], catcher := x.catcher.map fun c => { c with count := 0 } }
  ({ m with scrubBnd := m.bnd, pcs := Sparse.mapD m.pcs {} fun _ x => fresh x } : Ctl).put F.REP_SCRUB_POS_STEP 0

/-! ## Applying staged values -/

/-- Copy one shadow to its active value. -/
def Ctl.applyShadow (m : Ctl) (e : Nat × Nat) : Ctl :=
  match fldOf e.1 with
  | some f => m.set f (e.1 % 1048576) e.2
  | none => m

/-- Copy the staged words of a pending context to its active words (R217). -/
def Ctl.applyContext (m : Ctl) (s : Nat) : Ctl :=
  let m := ((m.set F.SES_ACT0_BASE s (m.get F.SES_STG0_BASE s)).set F.SES_ACT0_LIMIT s (m.get F.SES_STG0_LIMIT s)).set
    F.SES_ACT0_TARGET s (m.get F.SES_STG0_TARGET s)
  (((m.set F.SES_ACT1_COMET s (m.get F.SES_STG1_COMET s)).set F.SES_ACT1_BIND s (m.get F.SES_STG1_BIND s)).set
    F.SES_ACT1_RANK s (m.get F.SES_STG1_RANK s)).set F.SES_ACT1_RESERVE s (m.get F.SES_STG1_RESERVE s)

/-- Was a field of the register file staged in a table of shadows? -/
def stagedFld (t : Sparse Nat) (f : Fld) : Bool := t.any fun e => e.1 / 1048576 == f.id

/-! ## Speculation -/

/-- Invalidate the comet entries of a test, and cancel the pending targets that they asked for (R183). -/
def Ctl.cancelComets (m : Ctl) (t : Port → Nat → Bool) : Ctl :=
  let gone := (m.pcs.map fun e => (e.2.targets.filter fun g => t g.port g.session).length).sum
  ({ m with comets := m.comets.filter fun c => !t c.port c.session
            pcs := Sparse.mapD m.pcs {} fun _ x =>
              { x with targets := x.targets.filter fun g => !t g.port g.session } } : Ctl).bump F.CMT_CANCEL_COUNT 0 gone

/-- Drop every pending target (R183, the throttle). -/
def Ctl.cancelTargets (m : Ctl) : Ctl :=
  let gone := (m.pcs.map fun e => e.2.targets.length).sum
  ({ m with pcs := Sparse.mapD m.pcs {} fun _ x => { x with targets := [] } } : Ctl).bump F.CMT_CANCEL_COUNT 0 gone

/-- Drop every curd entry and pending target: a new address map gives their lines other contents (R28). -/
def Ctl.cancelCurd (m : Ctl) : Ctl :=
  m.pcs.foldl (fun m e => m.dropSpec e.1) m

/-! ## Mirror regions -/

/-- What a region was before a commit: its role (OFF where it acted as OFF) and its settings. -/
structure MirWas where
  role : Nat
  cfg : Nat × Nat × Nat × Nat      -- LBASE, LAST, RBASE, LINK
  lag : Nat
deriving DecidableEq, Repr

/-- The settings of a region now. -/
def Ctl.mirWas (m : Ctl) (r : Nat) : MirWas :=
  let role := m.get F.MIR_CTRL_ROLE r
  { role := if m.mirState r == 5 || role == 3 then 0 else role
    cfg := (m.get F.MIR_LBASE_BASE r, m.get F.MIR_SIZE_LAST r, m.get F.MIR_RBASE_RBASE r, m.get F.MIR_CTRL_LINK r)
    lag := m.get F.MIR_CTRL_LAG r }

/-- Does region `r` end beyond 128 GiB, or overlap one of the enabled regions below it (R325)? -/
def Ctl.mirBad (m : Ctl) (r : Nat) (enabled : List Nat) : Bool :=
  let lo := m.get F.MIR_LBASE_BASE r
  decide (2 ^ 21 < lo + m.mirSize r) ||
    enabled.any fun q => overlap lo (m.mirSize r) (m.get F.MIR_LBASE_BASE q) (m.mirSize q)

/-- Let a commit act on one region (R325, R329): the state after it, and the enabled regions so far. -/
def Ctl.mirCommit (acc : Ctl × List Nat) (e : Nat × MirWas) : Ctl × List Nat :=
  let m := acc.1
  let r := e.1
  let was := e.2
  let now := m.mirWas r
  let role := if m.get F.MIR_CTRL_ROLE r == 3 then 0 else m.get F.MIR_CTRL_ROLE r
  if role = 0 then
    ((m.set F.MIR_STATUS_STATE r 0).modMir r fun _ => {}, acc.2)
  else if m.mirBad r acc.2 then ((m.set F.MIR_STATUS_STATE r 5).modMir r fun _ => {}, acc.2)
  else
    let all := [(0, m.mirSize r)]
    let m :=
      if was.role = role then
        if was.cfg = now.cfg then
          if m.mirState r == 4 then m.modMir r fun x => { x with retry := x.retry || decide (was ≠ now) } else m
        else if role = 1 then (m.breakMir r false).modMir r fun x => x.setDirty all
        else (m.set F.MIR_STATUS_VALID_COPY r 0).breakMir r false
      else if role = 1 then
        (m.breakMir r false).modMir r fun x => x.setDirty (if was.role = 2 then [] else all)
      else ((m.set F.MIR_STATUS_VALID_COPY r 0).breakMir r false).modMir r fun x => { x with dirty := [], stale := false }
    (m, acc.2 ++ [r])

/-! ## The act -/

/-- Is the committed service window one that acts as closed (R338)? -/
def Ctl.svcWindowBad (m : Ctl) : Bool := decide (2 ^ 21 < m.get F.SVC_WIN_BASE_BASE + min 16384 (m.get F.SVC_WIN_SIZE_SIZE))

/-- What committed values do at once in other blocks. `st` are the shadows that were applied. -/
def Ctl.commitEffects (m : Ctl) (st : Sparse Nat) (was : List (Nat × MirWas)) (oldPeriod : Nat) : Ctl :=
  let m := (was.foldl Ctl.mirCommit (m, [])).1
  let m :=
    if m.get F.REP_SCRUB_CFG_PERIOD_H = oldPeriod then m
    else m.scrubPass.put F.REP_SCRUB_INTERVAL_I (scrubInterval (m.get F.REP_SCRUB_CFG_PERIOD_H))
  let m := if stagedFld st F.CFG_ADDRMAP_MAP then m.cancelCurd else m
  let m := if m.is F.CMT_CFG_EN then m.cancelComets fun _ s => m.get F.SES_ACT1_COMET s == 0 else m.cancelComets fun _ _ => true
  let m := if (stagedFld st F.SVC_WIN_BASE_BASE || stagedFld st F.SVC_WIN_SIZE_SIZE) && m.svcWindowBad then
      m.put F.SVC_ERR_WIN_INVALID 1 else m
  let m := if stagedFld st F.BIST_CFG_BUDGET || stagedFld st F.BIST_CFG_INTERVAL || stagedFld st F.BIST_CFG_AGE_LIMIT then
      { m with sliceNo := 0, sliceBnd := m.bnd, sliceDue := [] } else m
  let m := [Port.a, Port.b].foldl (fun m p =>
    if !m.is F.PA_CTRL_ENABLE p.idx && m.linkUp p then m.partnerLost p 0 else m) m
  [0, 1].foldl (fun m l => if !m.is F.PL_PHY_CTRL_ENABLE l && m.get F.PL_PHY_STATUS_STATE l != 0 then m.linkDown l else m) m

/-- The armed commit acts at this boundary (R282). -/
def Ctl.commitAct (m : Ctl) : Ctl :=
  let cap := m.capWith (m.shadow F.PWR_VIN_LIMIT_LIMIT) (m.shadow F.THM_STEP_STEP)
  if cap < m.resStaged then (m.bump F.QOS_OVERSUB_COMMITS_COUNT).commitEnd crOversubscribed
  else
    let was := (List.range 16).map fun r => (r, m.mirWas r)
    let oldPeriod := m.get F.REP_SCRUB_CFG_PERIOD_H
    let st := m.staged
    let m := st.foldl Ctl.applyShadow m
    let m := m.sesPend.foldl Ctl.applyContext m
    let m := { m with staged := [], sesPend := [] }.put F.CFG_STATUS_STAGED 0
    let m := ((m.clearRange F.SES_STAT_SUSP 0 262144).clearRange F.SES_STAT_EXEMPT 0 262144).put F.QOS_CUT_VALID 0
    let m := (m.showRes.capacity).put F.CFG_DIGEST_AT m.orbit
    ((m.commitEffects st was oldPeriod).digestStart).commitEnd crDone

/-- At an orbit boundary: the armed commit acts where its orbit has come (R281, R416 step 4). -/
def Ctl.commitBoundary (m : Ctl) : Ctl :=
  match m.commit with
  | some c => if c.judged && (c.due || (m.numValid && c.orbit == m.orbit)) then m.commitAct else m
  | none => m

end Sys2Proof.Machine
end

