-- ==== Sys2Proof/Machine/Rings.lean ====
section
/-!
DEFINITION. Ring registers and completion records: writing a record (R250, R254, R255, R342), writing a ring's setup
registers (R237), and RESUME (R255).
-/

namespace Sys2Proof.Machine

/-- Why the record of a ring cannot be written at its slot, as a status of R253 (R238, R255). -/
def Ctl.recordRefusal (m : Ctl) (r addr : Nat) : Option Nat :=
  if badRange addr 32 then some 0x1A else if m.windowBad r true addr 32 then some 0x1B else none

/-- A service ring's record leaves as a write of the service host's memory, while Bus Master Enable is 1 (R342, R343). -/
def Ctl.hostRecord (m : Ctl) (r : Nat) (d : Prog) : Ctl :=
  if m.is F.SVC_STATUS_BME then (m.emit (.hostWrite (m.slotOf r d.idx + 32) (recordBytes m d))).recordDone r d else m

/-- Send the record of a descriptor to its PC as one write of its slot's second word (R139, R212, R250), unless it is under way. -/
def Ctl.writeRecord (m : Ctl) (r : Nat) (d : Prog) : Ctl :=
  let addr := m.slotOf r d.idx + 32
  let who : Who := .engine r d.idx recordGran false
  if 128 ≤ r then m.hostRecord r d
  else if m.underWay who then m
  else
    match m.recordRefusal r addr with
    | some cause => m.recordFail r d cause
    | none =>
      m.submit (m.place addr).pc
        { who := who, acc := .write, addr := addr, len := 32, data := recordBytes m d, be := fullBe 32 }

/-- Write a record in one action: that of a SLEEP, which no other work of the stack is left to meet (R384 T0). -/
def Ctl.recordNow (m : Ctl) (a : Arr) (r : Nat) (d : Prog) : Ctl :=
  let addr := m.slotOf r d.idx + 32
  if 128 ≤ r then m.hostRecord r d
  else
    match m.recordRefusal r addr with
    | some cause => m.recordFail r d cause
    | none =>
      let w := m.wordAt addr
      if m.dark w.1 then m.recordFail r d 0x1C
      else if m.frozen addr then m.recordFail r d 0x19
      else
        let who : Who := .engine r d.idx recordGran false
        let v := leNat (recordBytes m d)
        let m := ((m.writeWord a w.1 w.2 v).staleRange addr 32).count 7 32
        (m.mirrorWrite who addr [v] none).writePerformed who 0 none 32

/-- May a ring's setup registers be written (R237)? -/
def Ctl.ringQuiet (m : Ctl) (r : Nat) : Bool := m.ringState r != rsRunning && (m.ring r).inflight == 0

/-- What an accepted write of a ring's setup registers does besides storing its value (R237). -/
def Ctl.ringSetUp (m : Ctl) (r : Nat) : Ctl :=
  let m := ((m.set F.RING_PROD_PROD r 0).set F.RING_NEXT_NEXT r 0).set F.RING_CONS_CONS r 0
  let m := ((m.set F.RING_STATUS_CAUSE r 0).set F.RING_STATUS_FETCH_FAIL r 0).set F.RING_STATUS_RECORD_FAIL r 0
  let m := m.setRing r {}
  let wrong := decide (r < 128) &&
    (decide (32 ≤ m.get F.RING_BASE_HI_BASE_HI r) || decide (2 ^ 37 < m.ringBase r + 64 * m.ringSize r))
  if m.get F.RING_CFG_SIZE r = 0 then m.set F.RING_STATUS_STATE r rsDisabled
  else if wrong then (m.set F.RING_STATUS_STATE r rsDisabled).set F.RING_STATUS_CFG_ERR r 1
  else m.set F.RING_STATUS_STATE r rsIdle

/-- A write of 1 to `RING_CTRL.RESUME` (R255): the failed records are sent again, in ring order. -/
def Ctl.ringResume (m : Ctl) (r : Nat) : Ctl :=
  if (m.ringState r == rsHalted || m.ringState r == rsAborted) && (m.ring r).inflight == 0 then
    let m := ((m.set F.RING_STATUS_CAUSE r 0).set F.RING_STATUS_FETCH_FAIL r 0).set F.RING_STATUS_RECORD_FAIL r 0
    let m := m.set F.RING_STATUS_STATE r
      (if m.get F.RING_CONS_CONS r == m.get F.RING_PROD_PROD r then rsIdle else rsRunning)
    let cons := m.get F.RING_CONS_CONS r
    let held := (m.ring r).failed.sorted fun x y => decide (ixSub x.idx cons ≤ ixSub y.idx cons)
    held.foldl (fun m d => m.writeRecord r d) m
  else m.set F.RING_STATUS_CFG_ERR r 1

end Sys2Proof.Machine
end

