-- ==== Sys2Proof/Machine/Thermal.lean ====
section
/-!
DEFINITION. Thermal control (chapter 17): samples, the judgements of R413 and R414, the step walk of R415, shutdown and
the cut. Temperatures are in 0.25 degC.
-/

namespace Sys2Proof.Machine

/-- A temperature as the 11-bit two's complement of the registers. -/
def tempCode (t : Int) : Nat := (t + 2048).toNat % 2048

/-- The temperature that 11 bits show. -/
def tempOf (c : Nat) : Int := if c % 2048 < 1024 then (c % 2048 : Nat) else (c % 2048 : Nat) - 2048

/-- A point of `THM_CFG`, limited to 60 to 105 degC. -/
def pointOf (code : Nat) : Int := 4 * ((max 60 (min 105 code) : Nat) : Int)

/-- The warning point. -/
def Ctl.warnAt (m : Ctl) : Int := pointOf (m.get F.THM_CFG_WARN)

/-- The throttle point. -/
def Ctl.throttleAt (m : Ctl) : Int := pointOf (m.get F.THM_CFG_THROTTLE)

/-- Does a sensor count: not failed, and not in a core die that the cut switched off (R411, R418)? -/
def Ctl.sensorWorks (m : Ctl) (s : Nat) : Bool := !m.is F.THM_SENSOR_FAILED s && !(m.cutOff && decide (4 ≤ s))

/-- The latest reading of a sensor. -/
def Ctl.tempAt (m : Ctl) (s : Nat) : Int := tempOf (m.get F.THM_SENSOR_TEMP s)

/-- Readings of the sensors that count: sensor and temperature. -/
def Ctl.readings (m : Ctl) : List (Nat × Int) :=
  ((List.range 36).filter fun s => m.sensorWorks s).map fun s => (s, m.tempAt s)

/-- Take one reading (R411). -/
def Ctl.takeReading (m : Ctl) (e : Fin 36 × Option Int) : Ctl :=
  let s := e.1.val
  if m.is F.THM_SENSOR_FAILED s || (m.cutOff && decide (4 ≤ s)) then m
  else
    match e.2 with
    | some t =>
      if -160 ≤ t ∧ t ≤ 600 then m.set F.THM_SENSOR_TEMP s (tempCode t)
      else (m.set F.THM_SENSOR_FAILED s 1).raise 0x033 (tempCode t + s * 2 ^ 16)
    | none => (m.set F.THM_SENSOR_FAILED s 1).raise 0x033 (m.get F.THM_SENSOR_TEMP s + s * 2 ^ 16)

/-- The higher of two readings; the first of equals. -/
def hotter (x y : Nat × Int) : Nat × Int := if x.2 < y.2 then y else x

/-- Tmax and its sensor (R413); 63 names the value that stands in for the base die (R411). -/
def Ctl.tmax (m : Ctl) : Option (Nat × Int) :=
  let base := if (List.range 4).any fun s => m.sensorWorks s then [] else [(63, m.throttleAt)]
  match m.readings ++ base with
  | [] => none
  | e :: r => some (r.foldl hotter e)

/-- The hot state of a core die after a sample (R414, R411). -/
def Ctl.dieHot (m : Ctl) (d : Nat) : Bool :=
  let ss := [4 + 2 * d, 5 + 2 * d].filter fun s => m.sensorWorks s
  if ss.isEmpty then true
  else if ss.any fun s => decide (340 < m.tempAt s) then true
  else if ss.all fun s => decide (m.tempAt s ≤ 328) then false
  else bit (m.get F.THM_HOT_HOT) d

/-- Is any working sensor within 5 degC of a point, so that every orbit is sampled (R412)? -/
def Ctl.fastSample (m : Ctl) : Bool :=
  let w := m.warnAt
  let t := m.throttleAt
  m.readings.any fun e => [w, w - 12, t, t - 12, 340, 328, 460, 420, 480].any fun p => decide ((e.2 - p).natAbs ≤ 20)

/-- Judge the warning point (R413). -/
def Ctl.judgeWarning (m : Ctl) (s : Nat) (t : Int) : Ctl :=
  if m.warnAt ≤ t then
    if m.is F.THM_STATUS_WARNING then m
    else ((m.put F.THM_STATUS_WARNING 1).bump F.THM_COUNT_WARNINGS).raise 0x030 (tempCode t + s * 2 ^ 16)
  else if t < m.warnAt - 12 then m.put F.THM_STATUS_WARNING 0
  else m

/-- Judge shutdown and the cut (R417, R418), and the exit from QUARANTINE. `was` is Tmax before the sample. -/
def Ctl.judgeShutdown (m : Ctl) (a : Arr) (s : Nat) (t : Int) (was : Option Int) : Ctl :=
  let info := tempCode t + s * 2 ^ 16
  let rising := match was with | some w => decide (w < 460) | none => true
  let m :=
    if 480 < t && !m.cutOff then
      let m := if m.inMode [.quarantine] then m else m.quarantine a 2
      { m with cutOff := true, shut := true, lost := 0xFFFF }
    else if 460 ≤ t && !m.inMode [.factory, .quarantine] then { m.quarantine a 2 with shut := true }
    else if 460 ≤ t && m.inMode [.quarantine] then { m with shut := true }
    else m
  let m := if 460 ≤ t && rising then m.raise 0x032 info else m
  if m.inMode [.quarantine] && m.shut && !m.resetLow && m.readings.all fun e => decide (e.2 < 420) then
    { m.chipReset a 4 with cutOff := false, shut := false }
  else m

/-- A sample completes: readings, Tmax, hot state, and the judgements of R413 (R412, R505). -/
def Ctl.takeSample (m : Ctl) (a : Arr) (l : Sample) : Ctl :=
  let was := if m.is F.THM_STATUS_SAMPLED then some (tempOf (m.get F.THM_MAX_TEMP)) else none
  let m := l.foldl Ctl.takeReading m
  let m := m.put F.THM_STATUS_SAMPLED 1
  let hot := ((List.range 16).map fun d => b2n (m.dieHot d) * 2 ^ d).sum
  let m := m.put F.THM_HOT_HOT hot
  let m := { m.put F.THM_STATUS_FAST (b2n m.fastSample) with sampleAge := 0 }
  match m.tmax with
  | none => m
  | some (s, t) =>
    let m := (m.put F.THM_MAX_TEMP (tempCode t)).put F.THM_MAX_SENSOR s
    let m :=
      match m.readings with
      | [] => m
      | e :: r =>
        let p := r.foldl hotter e
        if tempOf (m.get F.THM_PEAK_TEMP) < p.2 then (m.put F.THM_PEAK_TEMP (tempCode p.2)).put F.THM_PEAK_SENSOR p.1 else m
    let m := if m.throttleAt - 12 ≤ t then { m with warmAge := 0 } else m
    (m.judgeWarning s t).judgeShutdown a s t was

/-- A boundary passes for the counts of R415. -/
def Ctl.stepAges (m : Ctl) : Ctl := { m with stepAge := m.stepAge.map (· + 1), warmAge := m.warmAge + 1 }

/-- The step walk at an orbit boundary (R415), with what k = 3 does to speculation (R183). -/
def Ctl.stepWalk (m : Ctl) : Ctl :=
  if !m.is F.THM_STATUS_SAMPLED then m
  else
    let t := tempOf (m.get F.THM_MAX_TEMP)
    let k := m.get F.THM_STATUS_STEPS
    let age := fun (n : Nat) => match m.stepAge with | some x => decide (n ≤ x) | none => true
    if m.throttleAt ≤ t && age 16 && decide (48 < m.iNow) then
      let m := { (m.put F.THM_STATUS_STEPS (k + 1)).put F.THM_STATUS_THROTTLING 1 with stepAge := some 0 }
      let m := if k = 0 then
          (m.bump F.THM_COUNT_THROTTLES).raise 0x031 (m.get F.THM_MAX_TEMP + m.get F.THM_MAX_SENSOR * 2 ^ 16)
        else m
      if k + 1 = 3 then m.cancelTargets else m
    else if 0 < k && decide (t < m.throttleAt - 12) && age 32 && decide (32 ≤ m.warmAge) then
      { (m.put F.THM_STATUS_STEPS (k - 1)).put F.THM_STATUS_THROTTLING (b2n (decide (1 < k))) with stepAge := some 0 }
    else m

end Sys2Proof.Machine
end

