-- ==== Sys2Proof/Machine/Fuses.lean ====
section
/-!
DEFINITION. Fuses and repair records (chapter 18): what a sense finds, region states and locks, the records that a sense
applies, and programming.
-/

namespace Sys2Proof.Machine

/-! ## Words -/

/-- An OTP word of a table of words. -/
def fuseAt (t : Sparse FuseWord) (n : Nat) : FuseWord := Sparse.getD t n {}

/-- Must the vendor have programmed a word so that it never reads blank (R504)? -/
def neverBlank (n : Nat) : Bool := decide (n < 96) || (decide (97 ≤ n) && decide (n < 108) && n % 2 == 1)

/-- Data of a word that the vendor shipped (R504). -/
def fuseShipped (n : Nat) : Nat :=
  if neverBlank n then (Config.fuseRom n ||| BitVec.ofNat 56 (2 ^ 55)).toNat else (Config.fuseRom n).toNat

/-- Is anything programmed in a word? -/
def fuseUsed (t : Sparse FuseWord) (n : Nat) : Bool :=
  let w := fuseAt t n
  decide (n < 108) || w.data.isSome || !w.extra.isEmpty

/-- The data a word was programmed with; 0 for a blank word. -/
def fuseBase (t : Sparse FuseWord) (n : Nat) : Nat :=
  match (fuseAt t n).data with
  | some d => d
  | none => if n < 108 then fuseShipped n else 0

/-- The bits of a word that are set besides its codeword, as a mask. -/
def fuseExtra (t : Sparse FuseWord) (n : Nat) : BitVec 64 :=
  BitVec.ofNat 64 (((fuseAt t n).extra.map fun b => 2 ^ b).sum)

/-- What a sense finds (R423): 0 BLANK, 1 GOOD, 2 CORRECTED, 3 MARGINAL. -/
def fuseOutcome (fx : SenseFx) (t : Sparse FuseWord) (n : Fin 1024) : Nat :=
  let w := fuseAt t n
  if fx.marginal.contains n then 3
  else if !fuseUsed t n then 0
  else if w.partly then (if Config.fusePartGood (BitVec.ofNat 56 (fuseBase t n)) then 1 else 3)
  else
    match w.extra.length with
    | 0 => if fx.corrected.contains n then 2 else 1
    | 1 => if fx.corrected.contains n then 3 else 2
    | 2 => 3
    | _ => (Config.fuseOutcome (BitVec.ofNat 56 (fuseBase t n)) (fuseExtra t n)).val

/-- The data that a readable word gives. -/
def fuseValue (t : Sparse FuseWord) (n : Nat) : Nat :=
  let w := fuseAt t n
  if w.partly || decide (3 ≤ w.extra.length) then
    (Config.fuseData (BitVec.ofNat 56 (fuseBase t n)) (fuseExtra t n)).toNat
  else fuseBase t n

/-- The region of a word (R420). -/
def fuseRegion (n : Nat) : Nat :=
  if n < 128 then 0 else if n < 640 then 1 else if n < 896 then 2 else if n < 992 then 3 else 4

/-- First word and length of a region. -/
def regionSpan (r : Nat) : Nat × Nat :=
  match r with
  | 0 => (0, 128) | 1 => (128, 512) | 2 => (640, 256) | 3 => (896, 96) | _ => (992, 32)

/-- SENSE of a word. -/
def Ctl.senseOf (m : Ctl) (n : Nat) : Nat := m.get F.FUSE_WORD_HI_SENSE n

/-- Does a word fail by itself (R424, R504)? -/
def Ctl.wordBad (m : Ctl) (n : Nat) : Bool :=
  m.is F.FUSE_WORD_HI_FAILED n || m.senseOf n == 3 || (m.senseOf n == 0 && neverBlank n)

/-- State of a region (R427). -/
def Ctl.regionState (m : Ctl) (r : Nat) : Nat := m.get F.FUSE_REGION_STATE r

/-- Is a word treated as failed (R424, R427)? -/
def Ctl.wordFailed (m : Ctl) (n : Nat) : Bool := m.wordBad n || m.regionState (fuseRegion n) == 2

/-- The CRC of a seal (R426). -/
def Ctl.regionCrc (m : Ctl) (r : Nat) : Nat :=
  let s := regionSpan r
  crc32c (((List.range s.2).map fun k =>
    leBytes 7 (if m.senseOf (s.1 + k) = 0 then 0 else fuseValue m.fuseSeen (s.1 + k))).flatten)

/-- The data of a good seal of a region. -/
def Ctl.sealData (m : Ctl) (r : Nat) : Nat := m.regionCrc r + r * 2 ^ 32 + 0x5A * 2 ^ 48

/-- Is a lock word set (R422, R425)? `k` counts WL_0 to WL_4, then RL_0 to RL_4. -/
def Ctl.lockWord (m : Ctl) (k : Nat) : Bool := m.senseOf (996 + k) != 0 || m.is F.FUSE_WORD_HI_FAILED (996 + k)

/-- Judge a region after a sense (R427). -/
def Ctl.judgeRegion (m : Ctl) (r : Nat) : Nat :=
  let s := 992 + r
  if m.wordBad s then 2
  else if m.senseOf s = 0 then (if m.lockWord r then 2 else 0)
  else if fuseValue m.fuseSeen s = m.sealData r then 1
  else 2

/-- Does any trim word of a kind fail (R425)? -/
def Ctl.trimFailed (m : Ctl) (t : Nat → Bool) : Bool :=
  ((List.range 92).map (· + 4)).any fun n => m.wordFailed n && t n

/-- Does the restrictive default of its trims hold a port to the 8 Gb/s rate (R425)? -/
def Ctl.portTrimFailed (m : Ctl) (p : Port) : Bool := m.trimFailed fun n => Config.isPortTrim p.idx n

/-- Have the identity words failed? -/
def Ctl.identityFailed (m : Ctl) : Bool := [0, 1, 2, 3].any fun n => m.wordFailed n

/-- Data of a word as bits. -/
def Ctl.fuseBits (m : Ctl) (n : Nat) : BitVec 56 := BitVec.ofNat 56 (fuseValue m.fuseSeen n)

/-- The serial number (R425). -/
def Ctl.serial (m : Ctl) : Nat :=
  if m.wordFailed 0 || m.wordFailed 1 then 0 else (Config.serialOf (m.fuseBits 0) (m.fuseBits 1)).toNat

/-! ## Repair records (R436) -/

/-- A decoded repair record. -/
inductive Record where
  | lane (pc lane spare : Nat)
  | ca (pc tsv spare : Nat)
  | strobe (pc strobe spare : Nat)
  | port (p g dir kind lane : Nat)
  | row (pc : Nat) (b : BankIx) (row spare : Nat)
  | word (pc : Nat) (l : Loc)
deriving DecidableEq, Repr

/-- May a physical row be spared (R440)? -/
def canBeSpared (row : Nat) : Bool := decide (row < 8192) || (decide (8208 ≤ row) && decide (row < 8272))

/-- Decode a record; nothing where its KIND is reserved or a field is out of range. -/
def decodeRecord (d : Nat) : Option Record :=
  match d % 16 with
  | 1 =>
    let n := bits d 10 8
    let s := bits d 18 3
    if decide (n < 136) && s / 2 == groupOf n then some (.lane (bits d 4 6) n s) else none
  | 2 => if bits d 10 6 < 48 then some (.ca (bits d 4 6) (bits d 10 6) (bits d 16 2)) else none
  | 3 => some (.strobe (bits d 4 6) (bits d 10 2) (bits d 12 1))
  | 4 =>
    let n := bits d 11 6
    if bits d 10 1 = 0 || decide (n < 16) then some (.port (bits d 4 1) (bits d 5 4) (bits d 9 1) (bits d 10 1) n) else none
  | 5 =>
    if canBeSpared (bits d 18 14) then
      some (.row (bits d 8 6) (bits d 4 4 * 16 + bits d 14 4) (bits d 18 14) (bits d 32 4))
    else none
  | 6 =>
    if bits d 18 14 < 8272 then
      some (.word (bits d 8 6) { bank := bits d 4 4 * 16 + bits d 14 4, row := bits d 18 14, word := bits d 32 5 })
    else none
  | _ => none

/-- The data bits of a record. -/
def encodeRecord : Record → Nat
  | .lane pc n s => 1 + pc * 2 ^ 4 + n * 2 ^ 10 + s * 2 ^ 18
  | .ca pc n s => 2 + pc * 2 ^ 4 + n * 2 ^ 10 + s * 2 ^ 16
  | .strobe pc n s => 3 + pc * 2 ^ 4 + n * 2 ^ 10 + s * 2 ^ 12
  | .port p g d k n => 4 + p * 2 ^ 4 + g * 2 ^ 5 + d * 2 ^ 9 + k * 2 ^ 10 + n * 2 ^ 11
  | .row pc b r s => 5 + b / 16 * 2 ^ 4 + pc * 2 ^ 8 + b % 16 * 2 ^ 14 + r * 2 ^ 18 + s * 2 ^ 32
  | .word pc l => 6 + l.bank / 16 * 2 ^ 4 + pc * 2 ^ 8 + l.bank % 16 * 2 ^ 14 + l.row * 2 ^ 18 + l.word * 2 ^ 32

/-- Set a mapping, in place of an earlier one of the same element. -/
def remap (l : List (Nat × Nat)) (n s : Nat) : List (Nat × Nat) := l.filter (fun e => e.1 != n) ++ [(n, s)]

/-- Show a lane of a port as spared in `PA_LANE_g`: direction 0 downstream, 1 upstream; kind 0 data, 1 control. -/
def Ctl.setPortLane (m : Ctl) (p g dir kind lane : Nat) : Ctl :=
  let i := p * 16 + g
  match dir, kind with
  | 0, 0 => (m.set F.PA_LANE_RX_DUSED i 1).set F.PA_LANE_RX_DLANE i lane
  | 0, _ => (m.set F.PA_LANE_RX_CUSED i 1).set F.PA_LANE_RX_CLANE i lane
  | _, 0 => (m.set F.PA_LANE_TX_DUSED i 1).set F.PA_LANE_TX_DLANE i lane
  | _, _ => (m.set F.PA_LANE_TX_CUSED i 1).set F.PA_LANE_TX_CLANE i lane

/-- The lane that a port spare replaces, if it is in use. -/
def Ctl.portLane (m : Ctl) (p g dir kind : Nat) : Option Nat :=
  let i := p * 16 + g
  match dir, kind with
  | 0, 0 => if m.is F.PA_LANE_RX_DUSED i then some (m.get F.PA_LANE_RX_DLANE i) else none
  | 0, _ => if m.is F.PA_LANE_RX_CUSED i then some (m.get F.PA_LANE_RX_CLANE i) else none
  | _, 0 => if m.is F.PA_LANE_TX_DUSED i then some (m.get F.PA_LANE_TX_DLANE i) else none
  | _, _ => if m.is F.PA_LANE_TX_CUSED i then some (m.get F.PA_LANE_TX_CLANE i) else none

/-- Apply a record at a power-on reset (R437). -/
def Ctl.applyRecord (m : Ctl) (r : Record) : Ctl :=
  match r with
  | .lane pc n s => m.modPc pc fun x => { x with tsv := { x.tsv with lanes := remap x.tsv.lanes n s } }
  | .ca pc n s => m.modPc pc fun x => { x with tsv := { x.tsv with ca := remap x.tsv.ca n s } }
  | .strobe pc n s => m.modPc pc fun x => { x with tsv := { x.tsv with strobes := remap x.tsv.strobes n s } }
  | .port p g d k n => m.setPortLane p g d k n
  | .row pc b row s =>
    let rest := m.rmap.filter fun e => !(e.pc == pc && e.bank == b && e.row == row)
    { m with rmap := rest ++ [{ pc := pc, bank := b, row := row, spare := s, persist := true }] }
  | .word pc l =>
    match (m.pc pc).spareOf l, (m.pc pc).freeSpare with
    | some _, _ => m
    | none, some i => m.setSpare pc i { loc := l, persist := true }
    | none, none => m

/-- The records of regions 1 and 2, in the order of R437, with their words. -/
def recordWords : List Nat := (List.range 768).map (· + 128)

/-- The record that a word holds, where the word may be used. -/
def Ctl.recordOf (m : Ctl) (n : Nat) : Option Record :=
  if m.senseOf n = 0 || m.wordFailed n then none else decodeRecord (fuseValue m.fuseSeen n)

/-- Clear PERSIST of the entry that a record made (R438). -/
def Ctl.softenRecord (m : Ctl) (r : Record) : Ctl :=
  match r with
  | .row pc b row _ => { m with rmap := m.rmap.map fun e =>
      if e.pc == pc && e.bank == b && e.row == row then { e with persist := false } else e }
  | .word pc l =>
    match (m.pc pc).spareOf l with
    | some (i, s) => m.setSpare pc i { s with persist := false }
    | none => m
  | _ => m

/-- Set PERSIST of the entry that a record names (R443). -/
def Ctl.hardenRecord (m : Ctl) (r : Record) : Ctl :=
  match r with
  | .row pc b row _ => { m with rmap := m.rmap.map fun e =>
      if e.pc == pc && e.bank == b && e.row == row then { e with persist := true } else e }
  | .word pc l =>
    match (m.pc pc).spareOf l with
    | some (i, s) => m.setSpare pc i { s with persist := true }
    | none => m
  | _ => m

/-- Is a repair held by a record of region 1 or 2 that may be used? -/
def Ctl.recorded (m : Ctl) (r : Record) : Bool :=
  recordWords.any fun n => m.senseOf n != 0 && decide (m.recordOf n = some r)

/-! ## Sensing -/

/-- INFO of `FS_FUSE_MARGINAL` (R424, R470). -/
def Ctl.fuseInfo (m : Ctl) (n : Nat) : Nat := m.get F.THM_MAX_TEMP + n * 2 ^ 16 + fuseRegion n * 2 ^ 28

/-- Judge one word in a sense. -/
def Ctl.senseWord (m : Ctl) (fx : SenseFx) (n : Fin 1024) : Ctl :=
  let o := fuseOutcome fx m.fuseSeen n
  let m := m.set F.FUSE_WORD_HI_SENSE n.val o
  if o = 3 then
    ((m.set F.FUSE_WORD_HI_FAILED n.val 1).bump F.FUSE_MARGINAL_COUNT).put F.FUSE_MARGINAL_LAST n.val |>.raise 0x040 (m.fuseInfo n.val)
  else if o = 0 && neverBlank n.val then m.raise 0x040 (m.fuseInfo n.val)
  else m

/-- Set the sticky locks that a sense gives (R429). -/
def Ctl.senseLocks (m : Ctl) : Ctl :=
  let wl := ((List.range 5).map fun r => b2n (m.lockWord r) * 2 ^ r).sum
  let rl := ((List.range 5).map fun r => b2n (m.lockWord (5 + r)) * 2 ^ r).sum
  let sealed := ((List.range 4).map fun r => b2n (m.regionState r == 1) * 2 ^ r).sum
  let boot := if m.inMode [.factory] then 0 else 3
  let m := (m.put F.FUSE_FUSED_LOCK_WL wl).put F.FUSE_FUSED_LOCK_RL rl
  (m.put F.FUSE_LOCK_WL (m.get F.FUSE_LOCK_WL ||| wl ||| boot ||| sealed)).put F.FUSE_LOCK_RL (m.get F.FUSE_LOCK_RL ||| rl)

/-- A full sense of the fuses (R423 to R430, R438): outcomes, region states, locks, and the F fields. -/
def Ctl.sense (m : Ctl) (fx : SenseFx) : Ctl :=
  let m := { m with fuseSeen := m.fuse }
  let m := (List.finRange 1024).foldl (fun m n => m.senseWord fx n) m
  let m := (List.range 4).foldl (fun m r =>
    let s := m.judgeRegion r
    let m := m.set F.FUSE_REGION_STATE r s
    if s = 2 then m.raise 0x041 (r * 2 ^ 28) else m) m
  let m := m.senseLocks
  let m := m.put F.GL_ID_BIN (if m.identityFailed then 1
    else b2n (Config.binOf (m.fuseBits 0) (m.fuseBits 1) (m.fuseBits 2) (m.fuseBits 3)))
  let soft := recordWords.filter fun n => m.senseOf n != 0 && m.wordFailed n
  let m := soft.foldl (fun m n => match decodeRecord (fuseBase m.fuseSeen n) with | some r => m.softenRecord r | none => m) m
  m.put F.FUSE_STATUS_LOADED 1

/-- The trims that a start takes from the fuses (R425, R458). -/
def Ctl.senseTrims (m : Ctl) : Ctl :=
  let bad := m.trimFailed Config.isTroTrim
  let words := ((List.range 92).map (· + 4)).map fun n => fuseValue m.fuseSeen n
  { m with trims := [], clk := { m.clk with trimmed := true, coarse := bad } }.put F.CAL_TRO_TRIM
    (if bad then 512 else (Config.troTrimOf words).toNat)

/-- Apply every record at a power-on reset (R437). -/
def Ctl.applyRecords (m : Ctl) : Ctl :=
  recordWords.foldl (fun m n => match m.recordOf n with | some r => m.applyRecord r | none => m) m

/-! ## Programming (R432 to R435) -/

/-- Refusal causes of R435. -/
def rfNoResource : Nat := 1
def rfRegionFull : Nat := 2
def rfLocked : Nat := 3
def rfInterlock : Nat := 4
def rfNotBlank : Nat := 5
def rfNotInUse : Nat := 6
def rfTemp : Nat := 7
def rfBadTarget : Nat := 8

/-- Is a word blank, so that it may be programmed? -/
def Ctl.fuseBlank (m : Ctl) (n : Nat) : Bool := m.senseOf n == 0 && !fuseUsed m.fuse n && !m.is F.FUSE_WORD_HI_FAILED n

/-- Does a write-lock block descriptors from a region (R429)? -/
def Ctl.fuseLocked (m : Ctl) (r : Nat) : Bool := bit (m.get F.FUSE_LOCK_WL) r

/-- Judge the programming of one word: a cause of R435, or nothing. -/
def Ctl.fuseRefuse (m : Ctl) (n : Nat) : Option Nat :=
  let r := fuseRegion n
  if decide (r < 4) && m.regionState r == 2 then some rfBadTarget
  else if m.fuseLocked r then some rfLocked
  else if !m.fuseBlank n then some rfNotBlank
  else if m.is F.THM_STATUS_WARNING then some rfTemp
  else none

/-- Start programming a word, on VFUSE or on the pump. -/
def Ctl.fusePulse (m : Ctl) (op : FuseOp) : Ctl :=
  { m with fuseOp := some op }.put F.FUSE_STATUS_PUMP (b2n (!m.is F.FUSE_STATUS_VFUSE_OK))

/-- The lowest blank word of region 2. -/
def Ctl.freeRecord (m : Ctl) : Option Nat := ((List.range 256).map (· + 640)).find? fun n => m.fuseBlank n

/-- End a descriptor REFUSED with a cause of R435. -/
def Ctl.refuse (m : Ctl) (desc : Nat × Nat) (cause : Nat) : Ctl := m.endProg desc.1 desc.2 0x1E cause

/-- Write the next record of a REPAIR, or end it. -/
def Ctl.fuseRecord (m : Ctl) (desc : Nat × Nat) (all : Bool) (done : Nat) : List Nat → Ctl
  | [] => m.endProg desc.1 desc.2 0 (if all then done else 0)
  | d :: more =>
    if m.regionState 2 == 2 then m.refuse desc rfBadTarget
    else if m.fuseLocked 2 then m.refuse desc rfLocked
    else
      match m.freeRecord with
      | none => m.refuse desc rfRegionFull
      | some n =>
        match m.fuseRefuse n with
        | some c => m.refuse desc c
        | none => m.fusePulse { word := n, data := d, desc := desc, repair := true, all := all, more := more, done := done }

/-- Start a fuse operation: judge it, and program its first word (R431, R434). -/
def Ctl.fuseStart (m : Ctl) (q : FuseReq) (desc : Nat × Nat) : Ctl :=
  let program := fun (m : Ctl) (n d : Nat) =>
    match m.fuseRefuse n with
    | some c => m.refuse desc c
    | none => m.fusePulse { word := n, data := d, desc := desc }
  match q with
  | .word n d => if fuseRegion n = 3 then program m n (d % 2 ^ 56) else m.refuse desc rfBadTarget
  | .seal r =>
    if !(r == 2 || r == 3) || m.regionState r == 2 then m.refuse desc rfBadTarget
    else
      let s := regionSpan r
      if (List.range s.2).any fun k => m.wordBad (s.1 + k) then m.refuse desc rfInterlock
      else program m (992 + r) (m.sealData r)
  | .lock r rl =>
    if 5 ≤ r then m.refuse desc rfBadTarget
    else
      let k := if rl then 5 + r else r
      if m.lockWord k then m.endProg desc.1 desc.2 0 0xFFFFFFFF
      else if !rl && decide (r < 4) && m.judgeRegion r != 1 then m.refuse desc rfInterlock
      else if !rl && r == 4 && !((List.range 4).all fun q => m.lockWord q) then m.refuse desc rfInterlock
      else program m (996 + k) 0xFF
  | .records all ds => m.fuseRecord desc all 0 ds

/-- Start a fuse operation, or let it wait for the one that runs (R432). -/
def Ctl.fuseAsk (m : Ctl) (q : FuseReq) (desc : Nat × Nat) : Ctl :=
  if m.fuseOp.isSome then { m with fuseWait := m.fuseWait ++ [(q, desc)] } else m.fuseStart q desc

/-- Start the operations that waited, until one of them programs a word. -/
def Ctl.fuseNext : Nat → Ctl → Ctl
  | 0, m => m
  | n + 1, m =>
    if m.fuseOp.isSome then m
    else
      match m.fuseWait with
      | [] => m
      | (q, desc) :: r => Ctl.fuseNext n ({ m with fuseWait := r }.fuseStart q desc)

/-- The end of a word's programming (R432 steps 4 to 6): `good` where every reading equals the codeword. -/
def Ctl.fuseVerified (m : Ctl) (good : Bool) : Ctl :=
  match m.fuseOp with
  | none => m
  | some f =>
    let m := { m with fuseOp := none }.put F.FUSE_STATUS_PUMP 0
    let m :=
      if good then
        let w : FuseWord := { data := some f.data }
        let m := { m with fuse := Sparse.put m.fuse f.word w, fuseSeen := Sparse.put m.fuseSeen f.word w }
        let m := (m.set F.FUSE_WORD_HI_SENSE f.word 1).bump F.FUSE_PROG_WORDS
        if f.repair then
          let m := match decodeRecord f.data with | some r => m.hardenRecord r | none => m
          m.fuseRecord f.desc f.all (f.done + 1) f.more
        else m.endProg f.desc.1 f.desc.2 0 f.word
      else
        let w : FuseWord := { data := some f.data, partly := true }
        let m := { m with fuse := Sparse.put m.fuse f.word w }.bump F.FUSE_PROG_VERIFY_FAILS
        m.endProg f.desc.1 f.desc.2 0x1F f.word
    Ctl.fuseNext 200 m

end Sys2Proof.Machine
end

