-- ==== Sys2Proof/Machine/Access.lean ====
section
/-!
DEFINITION. Config space (chapters 10 and 21): finding a register, the fields that show what other parts of the state
hold, a read by a master, and a write by a master with what it does at once.
-/

namespace Sys2Proof.Machine

/-! ## Finding a register -/

/-- The copy of a register that lies at an offset from its first address. -/
def copyAt : List (Nat × Nat) → Nat → Nat → Option Nat
  | [], off, i => if off = 0 then some i else none
  | (count, stride) :: r, off, i =>
    if off / stride < count then copyAt r (off % stride) (i * count + off / stride) else none

/-- Does a register have a copy at an address? -/
def RegDef.at? (d : RegDef) (addr : Nat) : Option Nat :=
  if addr < d.base then none else copyAt d.dims (addr - d.base) 0

/-- The register and copy at an address. -/
def findReg (addr : Nat) : Option (RegDef × Nat) := regList.findSome? fun d => (d.at? addr).map fun i => (d, i)

/-- The ring of a doorbell page (R485), for an address in the doorbell pages. -/
def doorbellRing (addr : Nat) : Option Nat :=
  if 0x200000 ≤ addr && addr < 0x2A0000 then some ((addr - 0x200000) / 0x1000) else none

/-- Does an address lie in the MSI-X structures, which only BAR0 reaches (R482)? -/
def inMsix (addr : Nat) : Bool := decide (0xA8000 ≤ addr) && decide (addr < 0xAA000)

/-- Registers read as a low and high pair (R364), by the low one. -/
def isPairLow : Reg → Bool
  | .ORB_NOW | .ORB_SLEEP_AT | .ORB_SLEPT | .CH_WB | .CH_ACTS | .REP_WTAG | .REP_RSPARE | .RING_BASE | .MOV_DESC
  | .MOV_BYTES | .CFG_COMMIT | .CFG_DIGEST | .CFG_DIGEST_AT | .CFG_PEER_DIGEST | .PL_FEC_CORR | .PL_PEER_ID | .FUSE_WORD
  | .TEL_ORBIT | .TEL_PA_RD | .TEL_PA_WR | .TEL_PB_RD | .TEL_PB_WR | .TEL_SVC_RD | .TEL_SVC_WR | .TEL_ARR_RD
  | .TEL_ARR_WR => true
  | _ => false

/-- The high registers of those pairs. -/
def isPairHigh : Reg → Bool
  | .ORB_NOW_HI | .ORB_SLEEP_AT_HI | .ORB_SLEPT_HI | .CH_WB_HI | .CH_ACTS_HI | .REP_WTAG_HI | .REP_RSPARE_HI
  | .RING_BASE_HI | .MOV_DESC_HI | .MOV_BYTES_HI | .CFG_COMMIT_HI | .CFG_DIGEST_HI | .CFG_DIGEST_AT_HI
  | .CFG_PEER_DIGEST_HI | .PL_FEC_CORR_HI | .PL_PEER_ID_HI | .FUSE_WORD_HI | .TEL_ORBIT_HI | .TEL_PA_RD_HI
  | .TEL_PA_WR_HI | .TEL_PB_RD_HI | .TEL_PB_WR_HI | .TEL_SVC_RD_HI | .TEL_SVC_WR_HI | .TEL_ARR_RD_HI
  | .TEL_ARR_WR_HI => true
  | _ => false

/-! ## Fields that show what other parts of the state hold -/

/-- A remap entry as `REP_WTAG` numbers it. -/
def Ctl.wtag (m : Ctl) (i : Nat) : Option Spare := Sparse.find (m.pc (i / 64)).spares (i % 64)

/-- A number out of a remap entry; 0 for a free one. -/
def Ctl.wtagNum (m : Ctl) (i : Nat) (f : Spare → Nat) : Nat := match m.wtag i with | some s => f s | none => 0

/-- A number out of a row-spare entry; 0 for a free one. -/
def Ctl.rspareNum (m : Ctl) (i : Nat) (f : RSp → Nat) : Nat := match m.rmap[i]? with | some e => f e | none => 0

/-- PCs in a mode of `CH_STATUS.MODE`. -/
def Ctl.modeCount (m : Ctl) (k : Nat) : Nat :=
  ((List.range 64).filter fun p => m.get F.CH_STATUS_MODE p == k || (match (m.pc p).reset with
    | some r => m.get F.CH_STATUS_MODE p == 3 && r.mode == k
    | none => false)).length

/-- Is the domain's clock source running (R357, R360, R377)? Domains: AON, PWR and FUSE on TRO; receive clocks with
their links; PE on the service link; the rest on XTAL. -/
def Ctl.domRuns (m : Ctl) (n : Nat) : Bool :=
  let xtal := m.is F.CLK_STATUS_XTAL_GOOD && m.inMode [.fuseload, .selftest, .training, .ready, .active, .drowse,
    .quarantine, .factory]
  let src :=
    if n = 96 || n = 99 || n = 101 then m.alive
    else if 2 ≤ n && n ≤ 5 then xtal && m.linkUp .a
    else if 7 ≤ n && n ≤ 10 then xtal && m.linkUp .b
    else if 76 ≤ n && n ≤ 83 then xtal && m.plUp 0
    else if 85 ≤ n && n ≤ 92 then xtal && m.plUp 1
    else if n = 93 || n = 94 then m.is F.SVC_STATUS_LINK && m.alive
    else decide (n < 102) && xtal
  src && !m.clk.gated.contains n

/-- `FUSE_WORD_n` shows no data where the word failed or is read-locked (R424, R429). -/
def Ctl.fuseShown (m : Ctl) (n : Nat) : Nat :=
  if m.is F.FUSE_WORD_HI_FAILED n || bit (m.get F.FUSE_LOCK_RL) (fuseRegion n) || m.senseOf n == 0 then 0
  else fuseValue m.fuseSeen n

/-- Blank words of a region (R434). -/
def Ctl.blankWords (m : Ctl) (lo n : Nat) : Nat := ((List.range n).filter fun k => m.fuseBlank (lo + k)).length

/-- `PWR_STATUS.RAILS` (R373): bit 0 VCORE, 1 VRET, 2 VARRAY, 3 VTSV. -/
def Ctl.railsUp (m : Ctl) : Nat :=
  if !m.alive then 0
  else
    let core := !m.inMode [.hibernate, .crescent] && !m.cutOff && !m.vinBad
    9 * b2n core + 2 + 4 * b2n (!m.cutOff && !m.vinBad)

/-- The fields that are shown from elsewhere in the state, by field number. -/
def views : List (Nat × (Ctl → Nat → Nat)) :=
  [(F.ORB_PHASE_PHASE.id, fun m _ => if m.orb.run then m.phase else 0),
   (F.ORB_PHASE_IN_ECLIPSE.id, fun m _ =>
     let d := m.die (m.phase / 256)
     b2n (m.orb.run && (decide (d.st = .lead) || decide (d.st = .refresh)) && !d.catchup)),
   (F.CH_STATUS_QLEVEL.id, fun m i => (m.pc i).queue.length),
   (F.CH_STATUS_DIRTY.id, fun m i => ((m.pc i).banks.filter fun e => decide (e.2.pce.st = .dirty)).length),
   (F.CH_SUSPECT_PENDING.id, fun m i => (m.pc i).suspect.length),
   (F.GL_CAPACITY_LIVE.id, fun m _ => 64 - m.darkCount),
   (F.GL_CAPACITY_NARROW.id, fun m _ => m.modeCount 1),
   (F.GL_CAPACITY_DARK.id, fun m _ => m.darkCount),
   (F.CMT_STATUS_STREAMS.id, fun m _ => (m.comets.filter fun c => decide (max 1 (m.get F.CMT_CFG_CONF) ≤ c.conf)).length),
   (F.CMT_STATUS_THROTTLED.id, fun m _ => b2n m.specHeld),
   (F.REP_WTAG_V.id, fun m i => b2n (m.wtag i).isSome),
   (F.REP_WTAG_POISON.id, fun m i => m.wtagNum i fun s => b2n s.poison),
   (F.REP_WTAG_PERSIST.id, fun m i => m.wtagNum i fun s => b2n s.persist),
   (F.REP_WTAG_DIE.id, fun m i => m.wtagNum i fun s => s.loc.bank / 16),
   (F.REP_WTAG_BANK.id, fun m i => m.wtagNum i fun s => s.loc.bank % 16),
   (F.REP_WTAG_ROW.id, fun m i => m.wtagNum i fun s => s.loc.row),
   (F.REP_WTAG_WORD.id, fun m i => m.wtagNum i fun s => s.loc.word),
   (F.REP_WTAG_HI_ORBIT.id, fun m i => m.wtagNum i fun s => s.orbit % 2 ^ 32),
   (F.REP_RSPARE_V.id, fun m i => m.rspareNum i fun _ => 1),
   (F.REP_RSPARE_PERSIST.id, fun m i => m.rspareNum i fun e => b2n e.persist),
   (F.REP_RSPARE_DIE.id, fun m i => m.rspareNum i fun e => e.bank / 16),
   (F.REP_RSPARE_PC.id, fun m i => m.rspareNum i fun e => e.pc),
   (F.REP_RSPARE_BANK.id, fun m i => m.rspareNum i fun e => e.bank % 16),
   (F.REP_RSPARE_ROW.id, fun m i => m.rspareNum i fun e => e.row),
   (F.REP_RSPARE_HI_SPARE.id, fun m i => m.rspareNum i fun e => e.spare),
   (F.REP_RSPARE_USED_USED.id, fun m _ => m.rmap.length),
   (F.CH_REMAP_USED.id, fun m i => (m.pc i).spares.length),
   (F.CH_REMAP_UNREP.id, fun m i => (m.pc i).unrep.length),
   (F.SES_STAT_EXEMPT.id, fun m i => b2n (m.exempt i)),
   (F.QOS_RES_STAGED_SUM.id, fun m _ => m.resStaged),
   (F.RING_STATUS_INFLIGHT.id, fun m i => (m.ring i).inflight),
   (F.MOV_BUSY_ENGINES.id, fun m _ => m.engines.length),
   (F.SEM_OWNER_REMAIN.id, fun m _ => (m.lease + 1023) / 1024),
   (F.SEM_OWNER_SVC_ELIG.id, fun m _ => b2n m.svcEligible),
   (F.PL_PHY_STATUS_RX_BURST.id, fun m i => b2n (m.rxBurst i)),
   (F.PL_FAB_STATUS_OUTST.id, fun m i => ((m.lnk i).ops.filter fun o => !o.dead).length),
   (F.MIR_STATUS_DIRTY.id, fun m i => if m.mirIs i 1 then min 262143 (rangeCount (m.mir i).dirty) else 0),
   (F.CLK_DOM_RUN.id, fun m i => ((List.range 32).map fun k => b2n (m.domRuns (32 * i + k)) * 2 ^ k).sum),
   (F.FUSE_WORD_DATA.id, fun m i => m.fuseShown i),
   (F.FUSE_WORD_HI_RLOCKED.id, fun m i => b2n (bit (m.get F.FUSE_LOCK_RL) (fuseRegion i))),
   (F.FUSE_FREE_R2.id, fun m _ => m.blankWords 640 256),
   (F.FUSE_FREE_R3.id, fun m _ => m.blankWords 896 96),
   (F.FUSE_STATUS_BUSY.id, fun m _ => b2n (m.fuseOp.isSome || !m.fuseWait.isEmpty)),
   (F.PWR_STATUS_RAILS.id, fun m _ => m.railsUp),
   (F.BIST_STATUS_FIELD_ON.id, fun m _ => b2n (m.get F.BIST_CFG_BUDGET != 0))]

/-- The value that a field shows: a view, or the shadow of a setup field, or the field. -/
def Ctl.shown (m : Ctl) (f : Fld) (i : Nat) : Nat :=
  match views.find? fun e => e.1 == f.id with
  | some e => e.2 m i
  | none => m.shadow f i

/-- The bits of a part that a read shows. Write-only bits read 0 (R7). -/
def Ctl.partValue (m : Ctl) (p : Part) (i : Nat) : Nat :=
  match p.acc with
  | .wo => 0
  | _ => (m.shown p.fld (i * p.mul + p.add) >>> p.vlo) % 2 ^ (p.hi - p.lo + 1) * 2 ^ p.lo

/-- The value of a register copy, as a read shows it. -/
def Ctl.regValue (m : Ctl) (d : RegDef) (i : Nat) : Nat := (d.parts.map fun p => m.partValue p i).sum

/-! ## Reading -/

/-- Who reads: a master, or the mover for a SNAPSHOT of that master's ring (R265), which has its own capture. -/
structure Reader where
  master : Master
  snap : Bool := false
deriving DecidableEq, Repr

/-- The capture register of a reader (R364). -/
def Reader.cap (x : Reader) : Nat := if x.snap then 0 else x.master.code

/-- Read the register at an address, with the side effects of a read (R270, R364). -/
def Ctl.readAt (m : Ctl) (x : Reader) (addr : Nat) : Nat × Ctl :=
  match findReg addr with
  | none => (0, m)
  | some (d, i) =>
    if d.reg = .SEM_CLAIM then
      let m := m.claim x.master
      (m.claimValue x.master, m)
    else if isPairLow d.reg then
      let hi := match findReg (addr + 4) with | some (e, j) => m.regValue e j | none => 0
      (m.regValue d i, { m with caps := Sparse.put m.caps x.cap ((addr + 4) * 2 ^ 32 + hi) })
    else if isPairHigh d.reg then
      match Sparse.find m.caps x.cap with
      | some c => (if c / 2 ^ 32 = addr then c % 2 ^ 32 else m.regValue d i, m)
      | none => (m.regValue d i, m)
    else (m.regValue d i, m)

/-- A read of an aligned address in an assigned range. Ports and the mover see the MSI-X structures as 0 (R482). -/
def Ctl.regRead (m : Ctl) (x : Reader) (addr : Nat) : Nat × Ctl :=
  if inMsix addr then
    match x.master, x.snap with
    | .svc, false =>
      if addr < 0xA8400 then (m.svc.tableDw ((addr - 0xA8000) / 4), m)
      else if addr = 0xA9000 then (m.svc.pba % 2 ^ 32, m)
      else if addr = 0xA9004 then (m.svc.pba / 2 ^ 32 % 2 ^ 32, m)
      else (0, m)
    | _, _ => (0, m)
  else m.readAt x addr

/-! ## Writing -/

/-- A field with the bits of a part replaced by those of a written value. -/
def partNew (p : Part) (old v : Nat) : Nat :=
  let n := p.hi - p.lo + 1
  old - (old >>> p.vlo) % 2 ^ n * 2 ^ p.vlo + bits v p.lo n * 2 ^ p.vlo

/-- Store the writable parts of a register by their access codes (R7). -/
def Ctl.storeParts (m : Ctl) (i v : Nat) : List Part → Ctl
  | [] => m
  | p :: r =>
    let k := i * p.mul + p.add
    let old := m.get p.fld k
    let m := match p.acc with
      | .rw => m.set p.fld k (partNew p old v)
      | .rws => m.set p.fld k (old ||| (bits v p.lo (p.hi - p.lo + 1) * 2 ^ p.vlo))
      | .w1c => m.set p.fld k (old &&& (2 ^ p.fld.width - 1 ^^^ (bits v p.lo (p.hi - p.lo + 1) * 2 ^ p.vlo)))
      | .ro | .wo => m
    Ctl.storeParts m i v r

/-- Write the shadows of a setup register (R277). -/
def Ctl.stageParts (m : Ctl) (i v : Nat) : List Part → Ctl
  | [] => m
  | p :: r =>
    let k := i * p.mul + p.add
    let m := match p.acc with
      | .rw => m.stage p.fld k (partNew p (m.shadow p.fld k) v)
      | _ => m
    Ctl.stageParts m i v r

/-- Is a register a staged word of a session context, which is held beside its active word (R215, R216)? -/
def isSession (r : Reg) : Bool := r == .SES_STG0 || r == .SES_STG1

/-- The owner's write of a setup register (R277, R216). -/
def Ctl.setupStore (m : Ctl) (d : RegDef) (i v : Nat) : Ctl :=
  let m :=
    if isSession d.reg then
      let m := m.storeParts i v d.parts
      { m with sesPend := if m.sesPend.contains i then m.sesPend else m.sesPend ++ [i] }
    else m.stageParts i v d.parts
  m.put F.CFG_STATUS_STAGED 1

/-- `SEM_LEASE` (R272, R273): RELEASE wins over RENEW. -/
def Ctl.leaseWrite (m : Ctl) (v : Nat) : Ctl :=
  if bit v 1 then m.release fun _ => false
  else if bit v 0 then { m with lease := m.leaseLen }
  else m

/-- `CFG_CTRL.DISCARD` (R279). -/
def Ctl.discardWrite (m : Ctl) (v : Nat) : Ctl :=
  if !bit v 0 then m
  else if m.commit.isSome then m.put F.CFG_COMMIT_STATUS_BUSY_ERR 1
  else m.discard

/-- `CFG_COMMIT_HI` (R280): the ARM write uses the orbit bits that it carries. -/
def Ctl.commitHiWrite (m : Ctl) (x : Master) (v : Nat) : Ctl :=
  let hi := fun (m : Ctl) => m.put F.CFG_COMMIT_ORBIT (m.get F.CFG_COMMIT_ORBIT % 2 ^ 32 + v % 2 ^ 16 * 2 ^ 32)
  if !bit v 31 then hi m
  else if m.commit.isSome then m.put F.CFG_COMMIT_STATUS_BUSY_ERR 1
  else
    let m := hi m
    m.commitTake { orbit := m.get F.CFG_COMMIT_ORBIT, judged := false, by_ := x.code }

/-- `FLT_INJECT` (R472). -/
def Ctl.injectWrite (m : Ctl) (v : Nat) : Ctl :=
  let s := v % 512
  if !m.inMode [.factory] then m.put F.FLT_STATUS_INJECT_REFUSED 1
  else if sources.contains s then m.raiseAs s 0 true
  else m

/-- `FLT_OVF_IDX` (R471): a new write abandons a read under way. -/
def Ctl.ovfWrite (m : Ctl) (v : Nat) : Ctl :=
  { (m.put F.FLT_OVF_IDX_INDEX (v % 2 ^ 20)).put F.FLT_OVF_STATUS_READY 0 with ovfRead := true }

/-- `PL_PHY_LOOP.MODE` of a link (R310). -/
def Ctl.loopWrite (m : Ctl) (l v : Nat) : Ctl :=
  let k := v % 8
  let st := m.get F.PL_PHY_STATUS_STATE l
  if k = 0 then (m.set F.PL_PHY_LOOP_MODE l 0).set F.PL_PHY_STATUS_STATE l (if st = 3 then 0 else st)
  else if st ≠ 0 then m.set F.PL_PHY_STATUS_LOOP_REFUSED l 1
  else
    let m := m.set F.PL_PHY_LOOP_MODE l k
    if k = 1 || k = 2 then m.set F.PL_PHY_STATUS_STATE l 3
    else if (k = 3 || k = 4) && (m.lnk l).trained then m.set F.PL_PHY_STATUS_STATE l 3
    else if k = 3 || k = 4 then m.set F.PL_PHY_STATUS_LOOP_REFUSED l 1
    else m

/-- The owner's write of an owner control register, which acts at once (R276). -/
def Ctl.ownerStore (m : Ctl) (a : Arr) (x : Master) (d : RegDef) (i v : Nat) : Ctl :=
  match d.reg with
  | .SEM_LEASE => m.leaseWrite v
  | .CFG_CTRL => m.discardWrite v
  | .CFG_COMMIT_HI => m.commitHiWrite x v
  | .PWR_CTRL => if bit v 0 then m.chipReset a 5 else m
  | .FLT_INJECT => m.injectWrite v
  | .FLT_OVF_IDX => m.ovfWrite v
  | .CH_CTRL => if bit v 0 then m.blockReset i 1 false else m
  | .PL_PHY_LOOP => m.loopWrite i v
  | _ => m.storeParts i v d.parts

/-- A write of a ring register by the ring's master (R237, R255). -/
def Ctl.ringStore (m : Ctl) (d : RegDef) (r v : Nat) : Ctl :=
  match d.reg with
  | .RING_CTRL => if bit v 0 then m.ringResume r else m
  | .RING_BASE | .RING_BASE_HI | .RING_CFG =>
    if m.ringQuiet r then (m.storeParts r v d.parts).ringSetUp r else m.set F.RING_STATUS_CFG_ERR r 1
  | _ => m.storeParts r v d.parts

/-- Is a register one of a ring's (R237)? -/
def isRing (r : Reg) : Bool :=
  r == .RING_BASE || r == .RING_BASE_HI || r == .RING_CFG || r == .RING_CTRL || r == .RING_PROD || r == .RING_NEXT ||
    r == .RING_CONS || r == .RING_STATUS

/-- Is a write of `SEM_LEASE` a RENEW that comes when the lease count has reached 0: too late (R273)? -/
def Ctl.lateRenew (m : Ctl) (r : Reg) (v : Nat) : Bool :=
  r == .SEM_LEASE && m.lease == 0 && m.leaseRuns && bit v 0 && !bit v 1

/-- Write the register at an address: the port status of R123 and the state (R273, R276, R476). -/
def Ctl.writeAt (m : Ctl) (a : Arr) (x : Master) (addr v : Nat) : Nat × Ctl :=
  match findReg addr with
  | none => (stOk, m)
  | some (d, i) =>
    if isRing d.reg then
      if ringMaster i = x.code then (stOk, m.ringStore d i v) else (stNotOwner, m)
    else
      match d.kind with
      | .setup | .setupLocal => if m.owner = x.code then (stOk, m.setupStore d i v) else (stNotOwner, m)
      | .owner => if m.owner = x.code && !m.lateRenew d.reg v then (stOk, m.ownerStore a x d i v) else (stNotOwner, m)
      | .own | .claim => (stOk, m)
      | .status => (stOk, m.storeParts i v d.parts)

/-- A write of the MSI-X table by the service host (R344). -/
def Ctl.msixWrite (m : Ctl) (addr v : Nat) : Ctl :=
  if addr < 0xA8400 then
    let i := (addr - 0xA8000) / 4
    ({ m with svc := { m.svc with table := Sparse.setD m.svc.table i (v % 2 ^ 32) (if i % 4 = 3 then 1 else 0) } }).msixFlush
  else m

/-- A write of an aligned address in an assigned range: a doorbell page acts as its doorbell (R119, R485). -/
def Ctl.regWrite (m : Ctl) (a : Arr) (x : Master) (addr v : Nat) : Nat × Ctl :=
  match doorbellRing addr with
  | some r => if ringMaster r = x.code then (stOk, m.doorbell r v) else (stNotOwner, m)
  | none =>
    if inMsix addr then (stOk, match x with | .svc => m.msixWrite addr v | _ => m)
    else m.writeAt a x addr v

end Sys2Proof.Machine
end

