-- ==== Sys2Proof/Machine/Cellar.lean ====
section
/-!
DEFINITION. What the stack keeps in the cellar besides the fault log (R20, R509): the session-table save with its CRC (R219,
R399), and the mirror dirty bitmaps (R329).
-/

namespace Sys2Proof.Machine

/-- Store a 32 B word at a cellar offset. A dark PC takes nothing (R509). -/
def Ctl.cellarPut (m : Ctl) (a : Arr) (off v : Nat) : Ctl :=
  let c := m.cellarAt off
  if m.dark c.1 then m else m.writeWord a c.1 c.2.1 v

/-- Read a 32 B word at a cellar offset: nothing in a dark PC, or where the word cannot be read. -/
def Ctl.cellarGet (m : Ctl) (a : Arr) (off : Nat) : Option Nat :=
  let c := m.cellarAt off
  if m.dark c.1 then none else (m.readWord a c.1 c.2.1).data?

/-- Keys without repeats, in rising order. -/
def keysOf (l : List Nat) : List Nat := (l.foldl (fun (t : Sparse Unit) k => Sparse.put t k ()) []).map (·.1)

/-! ## The session table as words -/

/-- Is a field part of a session context? -/
def isSesKey (k : Nat) : Bool :=
  decide (F.SES_ACT0_BASE.id ≤ k / 1048576) && decide (k / 1048576 ≤ F.SES_EVENTS_REFUSED.id)

/-- The eight words of a context, in the order of R215. -/
def ctxRegs : List RegDef :=
  [D.SES_ACT0, D.SES_ACT1, D.SES_STG0, D.SES_STG1, D.SES_STAT, D.SES_REQS, D.SES_MISSES, D.SES_EVENTS]

/-- A context as a little-endian 32 B word (R3, R215). -/
def Ctl.ctxWord (m : Ctl) (s : Nat) : Nat := (ctxRegs.zipIdx.map fun e => e.1.active m s * 2 ^ (32 * e.2)).sum

/-- Load one field of a register copy from the register's value. -/
def Ctl.loadPart (m : Ctl) (i v : Nat) (p : Part) : Ctl := m.set p.fld (i * p.mul + p.add) (bits v p.lo (p.hi - p.lo + 1))

/-- Load a context from its 32 B word. -/
def Ctl.ctxLoad (m : Ctl) (s v : Nat) : Ctl :=
  ctxRegs.zipIdx.foldl (fun m e => e.1.parts.foldl (fun m p => m.loadPart s (bits v (32 * e.2) 32) p) m) m

/-- The contexts that differ from reset. -/
def Ctl.ctxListed (m : Ctl) : List Nat := keysOf ((m.flds.filter fun e => isSesKey e.1).map fun e => e.1 % 1048576)

/-! ## The CRC of the image -/

/-- Carry the CRC-32C register of R73 over the 32 bytes of a word. -/
def crcWord (c v : Nat) : Nat := (leBytes 32 v).foldl (fun c b => crcRefl 0x82F63B78 8 (c ^^^ b.toNat)) c

/-- What a run of words does to the CRC register: the register is linear in it, so the images of its 32 bits and of 0 say all. -/
structure CrcMap where
  cols : List Nat
  base : Nat
deriving DecidableEq, Repr

/-- The register that a run makes of one. -/
def CrcMap.apply (f : CrcMap) (c : Nat) : Nat :=
  f.cols.zipIdx.foldl (fun acc e => if bit c e.2 then acc ^^^ e.1 else acc) f.base

/-- A run twice over. -/
def CrcMap.twice (f : CrcMap) : CrcMap :=
  { cols := f.cols.map fun c => f.apply c ^^^ f.base, base := f.apply f.base }

/-- The run of one reset context. -/
def crcReset : CrcMap :=
  { cols := (List.range 32).map fun i => crcWord (2 ^ i) 0, base := crcWord 0 ctxReset }

/-- Carry the register over `n` reset contexts, by the bits of `n`. -/
def crcRun : Nat → CrcMap → Nat → Nat → Nat
  | 0, _, _, c => c
  | k + 1, f, n, c => crcRun k f.twice (n / 2) (if n % 2 = 1 then f.apply c else c)

/-- CRC-32C (R73) of a table image: the contexts listed by rising label, every other one at reset. -/
def imageCrc (l : List (Nat × Nat)) : Nat :=
  let r := l.foldl (fun (acc : Nat × Nat) e => (e.1 + 1, crcWord (crcRun 18 crcReset (e.1 - acc.1) acc.2) e.2)) (0, 0xFFFFFFFF)
  crcRun 19 crcReset (262144 - r.1) r.2 ^^^ 0xFFFFFFFF

/-! ## The save and its restore -/

/-- Is a row of a bank one of the save, as an original row (R20, R440)? -/
def imageLoc (b : BankIx) (row : Nat) : Bool := decide (b < 16) && decide (8208 ≤ row) && decide (row < 8216)

/-- The label whose context a word of the save holds (R509). -/
def labelAt (pc : Nat) (b : BankIx) (row word : Nat) : Nat :=
  (pc * 2 ^ 8 + word / 8 * 2 ^ 14 + b % 4 * 2 ^ 16 + b / 4 * 2 ^ 18 + (row - 8208) * 2 ^ 20 + word % 8 * 32) / 32

/-- Store a row of reset contexts in a spare row that serves a row of the save. -/
def Ctl.imageSpareRow (m : Ctl) (e : RSp) : Ctl :=
  let phys := 8192 + e.spare
  let m := (List.range 32).foldl (fun m w => m.storeWord e.pc e.bank phys w ctxReset) m
  (m.edit (.bytes (slotAddr e.pc e.bank phys 34) (leBytes 32 ctxPage))).edit
    (.bytes (slotAddr e.pc e.bank phys 35) (leBytes 32 ctxPage))

/-- Lay a table of reset contexts into the cellar: spare rows and remapped words that serve it follow. -/
def Ctl.imageBase (m : Ctl) : Ctl :=
  let m := (m.rmap.filter fun e => imageLoc e.bank e.row).foldl Ctl.imageSpareRow (m.edit .image)
  let mine := fun (pc : Nat) (b : BankIx) (row : Nat) => imageLoc b (m.origRow pc b row)
  { m with pcs := Sparse.mapD m.pcs {} fun pc x =>
      { x with
        spares := x.spares.map fun s =>
          if mine pc s.2.loc.bank s.2.loc.row then (s.1, { s.2 with data := ctxReset, err := 0, poison := false }) else s
        suspect := x.suspect.filter fun q => !mine pc q.bank q.row } }

/-- Save the session table to the cellar, and keep the CRC of the image (R219, R399). The table itself is lost with its supply. -/
def Ctl.saveTable (m : Ctl) (a : Arr) : Ctl :=
  let ws := m.ctxListed.map fun s => (s, m.ctxWord s)
  let m := ws.foldl (fun m e => m.cellarPut a (32 * e.1) e.2) m.imageBase
  { m with image := some (imageCrc ws), flds := m.flds.filter fun e => !isSesKey e.1 }

/-- The labels whose stored contexts may differ from reset: those with something listed in the array or the repairs. -/
def Ctl.ctxTouched (m : Ctl) (a : Arr) : List Nat :=
  let arr := m.see a
  let slots := arr.mem.map (fun c => (c.1 / 1152, c.1 % 1152 / 32)) ++ arr.errs.map (fun c => (c.1 / 36, c.1 % 36)) ++
    arr.marks.map fun c => (c.1 / 36, c.1 % 36)
  let words := (slots.filter fun e => decide (e.1 < 1024 * 8272) && decide (e.2 < 32)).map fun e =>
    (e.1 / 8272 / 16, e.1 / 8272 % 16, e.1 % 8272, e.2)
  let spares := (m.pcs.map fun e => e.2.spares.map fun s => (e.1, s.2.loc.bank, s.2.loc.row, s.2.loc.word)).flatten
  let rows := (m.rmap.map fun e => (List.range 32).map fun w => (e.pc, e.bank, 8192 + e.spare, w)).flatten
  keysOf (((words ++ spares ++ rows).filter fun q => imageLoc q.2.1 (m.origRow q.1 q.2.1 q.2.2.1)).map fun q =>
    labelAt q.1 q.2.1 (m.origRow q.1 q.2.1 q.2.2.1) q.2.2.2)

/-- Restore the session table at a sleep exit (R399): every word of the image must decode, none may lie in a dark PC, and the CRC
must be that of the save. -/
def Ctl.restoreTable (m : Ctl) (a : Arr) : Ctl :=
  let ws := (m.ctxTouched a).map fun s => (s, m.cellarGet a (32 * s))
  let got := ws.map fun e => (e.1, e.2.getD 0)
  let good := m.darkCount == 0 && (ws.all fun e => e.2.isSome) && decide (m.image = some (imageCrc got))
  let m := { m with image := none }
  if !good then (m.put F.RETAIN_STATUS_SES 3).raise 0x022
  else
    let m := got.foldl (fun m e => m.ctxLoad e.1 e.2) m
    ((m.clearRange F.SES_STAT_MEAS 0 262144).clearRange F.SES_STAT_MEAS_VALID 0 262144).put F.RETAIN_STATUS_SES 1

/-! ## The dirty bitmaps -/

/-- The cellar offset of a region's dirty bitmap (R329). -/
def bitmapAt (r : Nat) : Nat := 0x0800000 + 0x8000 * r

/-- The 256 bits of a bitmap from bit `256 * w` on, out of its rising ranges. -/
def bitmapWord (l : List (Nat × Nat)) (w : Nat) : Nat :=
  (l.map fun e =>
    let lo := max e.1 (256 * w) - 256 * w
    let hi := min e.2 (256 * w + 256) - 256 * w
    if lo < hi then 2 ^ hi - 2 ^ lo else 0).sum

/-- Is the bit of a granule in a dark PC, which takes 256 B out of every 16 KiB of a bitmap (R509)? -/
def Ctl.bitmapDark (m : Ctl) (r g : Nat) : Bool := m.dark (cellarPlace (bitmapAt r + g / 8)).pc

/-- Join rising ranges that meet. -/
def rangeJoin : List (Nat × Nat) → List (Nat × Nat)
  | [] => []
  | e :: r =>
    match rangeJoin r with
    | f :: q => if e.2 = f.1 then (e.1, f.2) :: q else e :: f :: q
    | [] => [e]

/-- The granules that a region's bitmap can hold: a dark PC removes those whose bits it would hold (R509). -/
def Ctl.bitmapKeep (m : Ctl) (r : Nat) (l : List (Nat × Nat)) : List (Nat × Nat) :=
  if m.darkCount = 0 then l
  else
    rangeJoin ((l.map fun e => ((List.range ((e.2 + 2047) / 2048 - e.1 / 2048)).map fun k =>
      (max e.1 (2048 * (e.1 / 2048 + k)), min e.2 (2048 * (e.1 / 2048 + k + 1)))).filter fun f => !m.bitmapDark r f.1).flatten)

/-- Write a region's dirty bitmap to the cellar where it differs from what is there (R329). -/
def Ctl.bitmapFlush (m : Ctl) (a : Arr) (r : Nat) : Ctl :=
  let keep := m.bitmapKeep r (m.mir r).dirty
  let m := m.modMir r fun x => { x with dirty := keep, stale := false }
  (List.range ((m.mirSize r + 255) / 256)).foldl (fun m w =>
    let v := bitmapWord keep w
    let off := bitmapAt r + 32 * w
    if m.cellarGet a off = some v then m else m.cellarPut a off v) m

/-- Bring the cellar's bitmaps up to date, once the cellar may be written. -/
def Ctl.bitmaps (m : Ctl) (a : Arr) : Ctl :=
  if m.cellarOk then ((m.mirs.filter fun e => e.2.stale).map (·.1)).foldl (fun m r => m.bitmapFlush a r) m else m

end Sys2Proof.Machine
end

