-- ==== Sys2Proof/Machine/Settle.lean ====
section
/-!
DEFINITION. How every command ends: requests that only waited for their order are performed (R118, R119, R133, R324), the
faults it raised are logged and take their reactions (R464 to R468, R402), and FAULT_N is driven. `run` is the one way
that a command changes the state.
-/

namespace Sys2Proof.Machine

/-! ## Requests that waited for their order -/

/-- May a waiting config access, doorbell or fence of a port be performed now (R119, R131, R133)? -/
def reqReady (l : List Req) (r : Req) : Bool :=
  r.st == .waiting &&
    match r.op with
    | 2 => r.dest.isNone && !orderBlocked l r.pos r.session
    | 3 => !fenceBlocked l r.pos
    | 4 => !orderBlocked l r.pos r.session
    | 5 => !orderBlocked l r.pos r.session && ((doorbellRing r.addr).isNone || !writeBlocked l r.pos)
    | 6 => !orderBlocked l r.pos r.session && !writeBlocked l r.pos
    | _ => false

/-- May a remote request of a port be sent now (R131, R133, R324)? Earlier requests of its source to other destinations
have completed, and earlier fences are performed. -/
def remoteReady (l : List Req) (r : Req) : Bool :=
  r.st == .waiting && decide (r.op ≤ 2) && r.dest.isSome &&
    !l.any fun q => decide (q.pos < r.pos) &&
      ((q.session == r.session && q.op != 3 && decide (q.dest ≠ r.dest)) || (q.op == 3 && q.st != .performed) ||
        (q.session == r.session && q.dest == r.dest && (q.st == .waiting || q.st == .data)))

/-- Perform a config access, a doorbell, a fence or a masked write without enabled bytes, and complete it. -/
def Ctl.performReq (m : Ctl) (a : Arr) (p : Port) (r : Req) : Ctl :=
  match r.op with
  | 2 | 3 => m.finishReq p r.pos stOk
  | 4 =>
    let v := m.regRead { master := p.master } r.addr
    v.2.finishReq p r.pos stOk (xt := some v.1)
  | _ =>
    let v := m.regWrite a p.master r.addr r.value
    v.2.finishReq p r.pos v.1

/-- The lowest word that a WRITE_MASKED which ended POISON at its peer can have left poisoned: the first one with some of its enables
at 1 and not all (R126, R127). -/
def Req.poisonAt (r : Req) : Nat :=
  let part := fun (k : Nat) => r.be / 2 ^ (32 * k) % 2 ^ 32 != 0 && r.be / 2 ^ (32 * k) % 2 ^ 32 != 2 ^ 32 - 1
  r.addr + 32 * ((List.range (r.len / 32)).find? part).getD 0

/-- Send a remote request of a port (R321), or end it where its link is not UP (R323). It waits for a free TAG. -/
def Ctl.sendRemote (m : Ctl) (p : Port) (r : Req) : Option Ctl :=
  let l := r.dest.getD 0
  if !m.plUp l then some (m.finishReq p r.pos stRemoteUnreachable)
  else
    (m.freeTag l).map fun t =>
      let m := m.modReq p r.pos fun q => { q with st := .remote }
      let m := m.credit p r.g r.rh r.wd
      let m := m.modReq p r.pos fun q => { q with rh := 0, wd := 0 }
      if r.op = 0 then
        let size := if r.len = 32 then 0 else if r.len = 64 then 1 else if r.len = 128 then 2 else 3
        (m.addOp l { tag := t, kind := .rdPort p r.pos, addr := r.peer, loc := r.addr, len := r.len }).sendCtl l
          (1 + t * 2 ^ 16 + size * 2 ^ 24 + r.peer * 2 ^ 26)
      else
        let n := r.len / 32
        (m.addOp l { tag := t, kind := .wrPort p r.pos, addr := r.peer, loc := r.poisonAt, len := r.len }).sendData l
          (dataHdr 1 t n (if r.op = 2 then some r.be else none) 0 0 r.peer)
          ((List.range n).map fun k => leNat ((r.data.drop (32 * k)).take 32))

/-- Perform one waiting request of a port, if one may be performed. -/
def Ctl.drainPort (m : Ctl) (a : Arr) (p : Port) : Option Ctl :=
  let l := (m.port p).line
  match (m.port p).reqs.find? fun r => reqReady l r with
  | some r => some (m.performReq a p r)
  | none => (m.port p).reqs.findSome? fun r => if remoteReady l r then m.sendRemote p r else none

/-- The status of a BAR0 write as the service port reports it (R337). -/
def Ctl.bar0Done (m : Ctl) (status : Nat) : Ctl :=
  if status = stNotOwner then m.put F.SVC_ERR_NOT_OWNER 1 else m

/-- Perform a BAR0 access: a read answers with one DW (R336). -/
def Ctl.performBar0 (m : Ctl) (a : Arr) (r : Req) : Ctl :=
  let m := { m with svc := { m.svc with reqs := m.svc.reqs.filter fun q => q.pos != r.pos } }
  if r.op = 4 then
    let v := m.regRead { master := .svc } r.addr
    v.2.emit (.tlpData [v.1] false)
  else
    let v := m.regWrite a .svc r.addr r.value
    v.2.bar0Done v.1

/-- Perform one waiting BAR0 access, if one may be performed: the service host is one ordering source (R341). -/
def Ctl.drainSvc (m : Ctl) (a : Arr) : Option Ctl :=
  let l := m.svc.reqs.map fun r => { r with session := 0 }
  (l.find? fun r => reqReady l r).map fun r => m.performBar0 a r

/-- Perform one waiting request of the ports and the service host. -/
def Ctl.drainOne (m : Ctl) (a : Arr) : Option Ctl :=
  match m.drainPort a .a with
  | some x => some x
  | none =>
    match m.drainPort a .b with
    | some x => some x
    | none => m.drainSvc a

/-- How many requests wait. -/
def Ctl.waitCount (m : Ctl) : Nat := m.pa.reqs.length + m.pb.reqs.length + m.svc.reqs.length

/-! ## Reactions -/

/-- What a block-reset reaction resets (R462, R466). -/
inductive Block where
  | port (p : Port)
  | link (l : Nat)
  | ch
deriving DecidableEq, Repr

/-- The block of a source (R462). -/
def blockOf (s : Source) : Option Block :=
  if s = 0x080 ∨ s = 0x081 then some (.port .a)
  else if s = 0x090 ∨ s = 0x091 then some (.port .b)
  else if s = 0x0B1 ∨ s = 0x0B3 then some (.link 0)
  else if s = 0x0C1 ∨ s = 0x0C3 then some (.link 1)
  else if s = 0x100 ∨ (0x102 ≤ s ∧ s ≤ 0x105) ∨ s = 0x108 ∨ s = 0x10A then some .ch
  else none

/-- The class B fields of a peer link (R8). -/
def linkBlockFields : List Fld :=
  [F.PL_PHY_STATUS_LOOP_REFUSED, F.PL_PHY_STATUS_ROLE_CLASH, F.PL_PHY_STATUS_RX_BURST, F.PL_PHY_STATUS_TX_AWAKE,
   F.PL_PHY_STATUS_STEP, F.PL_PHY_STATUS_HALF, F.PL_PHY_STATUS_WIDTH, F.PL_PHY_STATUS_STATE, F.PL_LOOP_ERR_COUNT,
   F.PL_FAB_STATUS_OUTST, F.PL_FAB_STATUS_PEER_BORROWS, F.PL_FAB_STATUS_PEER_VALID, F.PL_PEER_ID]

/-- The block reset of a peer link (R392, R466): it goes DOWN, to be trained again, and its class B fields clear. -/
def Ctl.linkReset (m : Ctl) (l : Nat) : Ctl := linkBlockFields.foldl (fun m f => m.clear f l) (m.linkDown l)

/-- A block-reset reaction (R466): not in QUARANTINE (R467). -/
def Ctl.blockReact (m : Ctl) (r : Raised) : Ctl :=
  if m.inMode [.quarantine] then m
  else
    match blockOf r.source with
    | some (.port p) => m.portReset p
    | some (.link l) => m.linkReset l
    | some .ch => m.blockReset (bits r.info 40 6) 2 false
    | none => m

/-- The reactions of one raise but the chip reset: INT and TRAP where its pending bit was clear, and BRESET. -/
def Ctl.react (m : Ctl) (r : Raised) (log : Option Nat) : Ctl :=
  let m := match log with | some i => m.reactSend r i | none => m
  if bit (m.reactOf r.sev) 2 then m.blockReact r else m

/-- Does a raise ask for a chip reset that is taken in this mode (R467, R402)? -/
def Ctl.wantsReset (m : Ctl) (r : Raised) : Bool :=
  bit (m.reactOf r.sev) 3 && !m.inMode [.powered, .fuseload, .selftest, .training, .quarantine, .factory]

/-- Log one raise, set its pending bit, and take or hold its reactions (R464, R402). -/
def Ctl.handle (m : Ctl) (a : Arr) (r : Raised) : Ctl :=
  let was := m.pendOf r.source
  let w := m.writeLog a r
  let m := w.1.setPend r.source
  let log := if was then none else some w.2
  if m.inMode [.powered, .fuseload, .selftest] then { m with held := m.held ++ [(r, log)] }
  else m.react r log

/-- Handle every raise so far, in ascending source number; one chip reset serves them all (R464). -/
def Ctl.reactAll (m : Ctl) (a : Arr) : Ctl :=
  let l := m.raised.sorted fun x y => decide (x.source ≤ y.source)
  let m := { m with raised := [] }
  let cr := l.any fun r => m.wantsReset r
  let m := l.foldl (fun m r => m.handle a r) m
  if cr then m.chipReset a 3 else m

/-- Apply the reactions that were held, at TRAINING entry (R402). -/
def Ctl.applyHeld (m : Ctl) : Ctl := m.held.foldl (fun m e => m.react e.1 e.2) { m with held := [] }

/-- Drive FAULT_N (R468, R390): it holds its level in HIBERNATE and CRESCENT. -/
def Ctl.drive (m : Ctl) : Ctl :=
  if m.inMode [.training, .ready, .active, .drowse] then m.put F.FLT_STATUS_FAULTN (b2n (!m.faultPending))
  else if m.inMode [.powered, .fuseload, .selftest, .quarantine] then m.put F.FLT_STATUS_FAULTN 0
  else m

/-! ## The end of a command -/

/-- Perform what may be performed and handle what was raised, until neither is left. -/
def Ctl.settleLoop : Nat → Arr → Ctl → Ctl
  | 0, _, m => m
  | n + 1, a, m =>
    match m.drainOne a with
    | some x => Ctl.settleLoop n a x
    | none => if m.raised.isEmpty then m else Ctl.settleLoop n a (m.reactAll a)

/-- The end of a command. -/
def Ctl.settle (m : Ctl) (a : Arr) : Ctl := ((Ctl.settleLoop (m.waitCount + 64) a m.codeResets).bitmaps a).drive

/-- Carry out a command: its effect, then the end that every command has. -/
def run (s : State) (g : Arr → Ctl → Ctl) : State :=
  let m := (g s.arr s.ctl.fresh).settle s.arr
  { s with arr := s.arr.applyAll m.edits, ctl := { m with edits := [], raised := [] } }

end Sys2Proof.Machine
end

