-- ==== Sys2Proof/Machine/Power.lean ====
section
/-!
DEFINITION. Low power as shared operations (chapter 15): wakes, new work, the entry handshake, entering and leaving
HIBERNATE and CRESCENT, what was retained, and die fills.
-/

namespace Sys2Proof.Machine

/-! ## Wakes -/

/-- Codes of R389. -/
def wakeCode : WakeSource → Nat
  | .portA => 1
  | .portB => 2
  | .pl0 => 3
  | .pl1 => 4
  | .service => 5
  | .resetN => 6

/-- Record a wake (R389). -/
def Ctl.recordWake (m : Ctl) (src : WakeSource) : Ctl :=
  ((m.put F.WAKE_SOURCE_SOURCE (wakeCode src)).put F.WAKE_SOURCE_FROM m.mode).bump F.WAKE_SOURCE_COUNT

/-- The mode that an exit ends in (R378). -/
def Ctl.exitMode (m : Ctl) : Mode := if m.anyLink then .active else .ready

/-- Leave DROWSE (R378, R383): the gates open. The lease runs on, since R272 counts in DROWSE too. -/
def Ctl.leaveDrowse (m : Ctl) (src : WakeSource) : Ctl :=
  let m := m.recordWake src
  { m.setMode m.exitMode with clk := { m.clk with gated := [], asked := [] }, idle := 0 }

/-- The wake source of a block's traffic. -/
def workSource : EntryBlock → WakeSource
  | .pa => .portA
  | .pb => .portB
  | .pl0 => .pl0
  | .pl1 => .pl1
  | _ => .service

/-- New work at the ingress of a block: it ends DROWSE, and a handshake whose block has accepted is abandoned (R382,
R383). -/
def Ctl.newWork (m : Ctl) (b : EntryBlock) : Ctl :=
  let m := { m with worked := true }
  if m.inMode [.drowse] then m.leaveDrowse (workSource b)
  else
    match m.entry with
    | some e => if e.accepted.contains b then m.entryWake else m
    | none => m

/-- A wake event (R382, R389): it ends DROWSE, abandons a handshake before its entry point, and is held in HIBERNATE and
CRESCENT for the exit. -/
def Ctl.wakeUp (m : Ctl) (src : WakeSource) : Ctl :=
  if m.inMode [.drowse] then m.leaveDrowse src
  else if m.inMode [.hibernate, .crescent] then
    { m with wakeHeld := some (match m.wakeHeld with | some s => s | none => src) }
  else m.entryWake

/-- The downstream direction of an idle pair resumes: it restarts at SEQ 0 and keeps its credits (R102, R108, R506). -/
def Ctl.resumePair (m : Ctl) (p : Port) (g : Nat) : Ctl :=
  if m.grpOn p g && (m.grp p g).rxIdle then
    m.modGrp p g fun x =>
      { x with rxIdle := false, e := 0, taken := false, rxPeriod := 0, hold := [], nak := false, rxAck := true }
  else m

/-- A host wakes its downstream direction: every idle pair of the port resumes (R102, R107). -/
def Ctl.resumeDown (m : Ctl) (p : Port) : Ctl := ((List.range 16).foldl (fun m g => m.resumePair p g) m).relink p

/-- A wake on the forwarded clock lanes of a group: on the lowest enabled group it resumes the port, and on another that pair
(R107, R506). In HIBERNATE and CRESCENT the port resumes with the exit (R385). -/
def Ctl.wakeGroup (m : Ctl) (p : Port) (g : Nat) : Ctl :=
  if m.inMode [.hibernate, .crescent] then m
  else if m.lowest p == some g then m.resumeDown p
  else (m.resumePair p g).relink p

/-- The host ports at the exit from a sleep (R102). From HIBERNATE a port has its initial credits, and the port that woke the stack
resumes both of its directions; from CRESCENT a port needs full training. -/
def Ctl.portAwake (m : Ctl) (p : Port) (crescent waking : Bool) : Ctl :=
  if !m.linkUp p then m
  else if crescent then
    let m := ((m.clear F.PA_STATUS_GROUPS p.idx).clear F.PA_STATUS_RATE p.idx).clear F.PA_STATUS_LINK p.idx
    (m.clear F.PA_SIDEBAND_PARTNER_IDLE p.idx).modPort p fun x => { x with grps := [], switching := [], periodAt := none }
  else
    (m.modPort p fun x =>
      { x with grps := ((List.range 16).filter fun g => m.grpOn p g).map fun g => (g, { rxIdle := !waking, txIdle := !waking }) }).relink p

/-- The wake source of a host port. -/
def portWake : Port → WakeSource
  | .a => .portA
  | .b => .portB

/-! ## The handshake -/

/-- Codes of the blocks (R379). -/
def blockCode : EntryBlock → Nat
  | .pa => 1
  | .pb => 2
  | .svc => 3
  | .pl0 => 4
  | .pl1 => 5
  | .mov => 6
  | .ch => 7
  | .cfg => 8
  | .mir => 9

/-- The blocks asked for a target (R379): 1 DROWSE, 2 HIBERNATE, 3 CRESCENT. -/
def asked (target : Nat) : List EntryBlock :=
  if target = 1 then [.pa, .pb, .svc, .mov, .ch]
  else if target = 2 then [.pa, .pb, .svc, .pl0, .pl1, .mov, .ch, .cfg]
  else [.pa, .pb, .svc, .pl0, .pl1, .mov, .ch, .cfg, .mir]

/-- Are both directions of a port idle, or is its host absent? -/
def Ctl.portQuiet (m : Ctl) (p : Port) : Bool := m.link p == 3 || !m.is F.PA_SIDEBAND_HOSTPRES p.idx

/-- Is there any demand work in or before a PC queue? -/
def Ctl.demandWaits (m : Ctl) : Bool := m.pcs.any fun e =>
  !e.2.ingress.isEmpty || e.2.queue.any fun j => match j.who with | .bg _ _ _ _ => false | _ => true

/-- Dies that a mirror region's granules lie on (R379, MIR). -/
def Ctl.mirOnDie (m : Ctl) (r d : Nat) : Bool :=
  let lo := m.get F.MIR_LBASE_BASE r
  overlap lo (m.mirSize r) (d * 131072) 131072

/-- Does a block's acceptance condition hold (R379)? The low-power states of the service link are the service port's own
to judge (R346). -/
def Ctl.blockReady (m : Ctl) (keep : Nat) : EntryBlock → Bool
  | .pa => m.portQuiet .a
  | .pb => m.portQuiet .b
  | .svc => m.svc.tlps.isEmpty && m.svc.reqs.isEmpty
  | .pl0 => !m.plUp 0 || (!m.is F.PL_PHY_STATUS_TX_AWAKE 0 && !m.rxBurst 0)
  | .pl1 => !m.plUp 1 || (!m.is F.PL_PHY_STATUS_TX_AWAKE 1 && !m.rxBurst 1)
  | .mov => m.engines.isEmpty
  | .ch => !m.demandWaits
  | .cfg => m.commit.isNone
  | .mir => (List.range 16).all fun r =>
      m.mirState r == 0 || m.mirState r == 5 || (List.range 16).all fun d => bit keep d || !m.mirOnDie r d

/-- Does the stack count as idle for Drowse now (R383)? -/
def Ctl.drowseQuiet (m : Ctl) : Bool := (asked 1).all fun b => m.blockReady 0 b

/-- Start a handshake (R379, R382): only one runs at a time. -/
def Ctl.startEntry (m : Ctl) (e : EntryReq) : Ctl := if m.entry.isSome then m else { m with entry := some e }

/-- A block accepts (R380). -/
def Ctl.entryAccept (m : Ctl) (b : EntryBlock) : Ctl :=
  match m.entry with
  | none => m
  | some e =>
    if (asked e.target).contains b && m.blockReady e.keep b && !e.accepted.contains b then
      { m with entry := some { e with accepted := e.accepted ++ [b], delayed := e.delayed.filter fun q => q != b } }
    else m

/-- The reason code of a block's refusal: CFG and MIR refuse by RULE. -/
def refuseReason : EntryBlock → Nat
  | .cfg => 3
  | .mir => 3
  | _ => 0

/-- Has every block asked accepted, so that the next boundary is the entry point (R380)? -/
def Ctl.entryReady (m : Ctl) (target : Nat) : Bool :=
  match m.entry with
  | some e => e.target == target && (asked target).all fun b => e.accepted.contains b
  | none => false

/-! ## Sleep -/

/-- Write the records that a SLEEP leaves, DONE, before the entry (R384 T0). -/
def Ctl.sleepRecord (m : Ctl) (a : Arr) (desc : Option (Nat × Nat)) : Ctl :=
  match desc with
  | none => m
  | some (r, i) =>
    let m := m.endProg r i 0 0
    match m.prog? r i with
    | some d => m.recordNow a r d
    | none => m

/-- Enter HIBERNATE, or CRESCENT keeping the dies of `keep` (R384, R386, R62, R359, R395). -/
def Ctl.sleepEntry (m : Ctl) (a : Arr) (target keep : Nat) (desc : Option (Nat × Nat)) : Ctl :=
  let m := m.sleepRecord a desc
  let m := (m.slices.foldl Ctl.reinit m).abandonSlices m.slices
  let m := { (m.put F.ORB_SLEEP_AT m.orbit).put F.CLK_STATUS_RS_SRC 1 with entry := none, idle := 0 }
  let m := { m with orb := { m.orb with run := false, sourceAt := m.orb.source } }
  let m := (m.saveTable a).drainAll a
  let m := m.retain fun c => decide (c ≠ .lowPower)
  let m := { m with pcs := Sparse.mapD m.pcs {} fun _ x => { x with catcher := [] } }
  let m := { m with comets := [], caps := [], clk := { m.clk with gated := [], asked := [] } }
  let dies := (List.range 16).filterMap fun d =>
    let x := m.die d
    let y : Die := if bit keep d then { debt := x.debt, row := x.row } else { row := x.row }
    if y = {} then none else some (d, y)
  let m := { m with dies := dies, lost := if target = 3 then 0xFFFF ^^^ keep else 0 }
  let m := if target = 3 then m.put F.PWR_KEEP_DIES keep else m
  m.setMode (if target = 3 then .crescent else .hibernate)

/-- Set `RETAIN_STATUS` after a chip reset or a sleep exit (R394): `must` are the dies that were to be kept. -/
def Ctl.setRetain (m : Ctl) (event must : Nat) : Ctl :=
  let kept := 0xFFFF - m.lost % 65536
  ((m.put F.RETAIN_STATUS_DIES kept).put F.RETAIN_STATUS_RETAINED (b2n (must &&& kept == must))).put
    F.RETAIN_STATUS_EVENT event

/-- Mark dies for fill (R387, R409): their debt is dropped. -/
def Ctl.markFill (m : Ctl) (dies : Nat) : Ctl :=
  if dies = 0 then m
  else
    let m := (List.range 16).foldl (fun m d => if bit dies d then m.modDie d fun x => { x with debt := 0 } else m) m
    (m.put F.PWR_FILL_DIES (m.get F.PWR_FILL_DIES ||| dies)).put F.RETAIN_STATUS_FILLING 1

/-- The orbit logic starts again after a sleep (R63, R385 W1). -/
def Ctl.orbitRestart (m : Ctl) : Ctl :=
  let m := ((m.put F.ORB_STATUS_NUMBER_VALID 0).put F.ORB_STATUS_PHASE_LOCKED 0).put F.ORB_STATUS_STATE 0
  let m := m.put F.ORB_HOTMAP_HOT (m.get F.THM_HOT_HOT)
  { m with orbitAt := m.now
           orb := { sourceAt := m.orb.sourceAt, source := m.orb.source, run := true, first := true, wakeBnd := some m.bnd } }

/-- An IR-drop step measured in training: it can raise a step and never lowers one (R162, R447). -/
def Ctl.measureDrop (m : Ctl) (e : Fin 64 × Fin 4) : Ctl :=
  if m.get F.CH_STATUS_IRDROP e.1.val < e.2.val then
    (m.set F.CH_STATUS_IRDROP e.1.val e.2.val).raise 0x102 (infoPc e.1.val 0 e.2.val)
  else m

/-- The retention sequencer returns to XTAL outside the sleeps, 256 clean windows after the last bad one (R359). -/
def Ctl.retentionBack (m : Ctl) : Ctl :=
  if 256 ≤ m.clk.cleans && m.is F.CLK_STATUS_XTAL_GOOD && !m.inMode [.hibernate, .crescent] then m.put F.CLK_STATUS_RS_SRC 0 else m

/-- The peer links at the exit from a sleep: one that was UP trains again (R309), and is DOWN until then (DEDUCED, log entry
167). -/
def Ctl.linksAwake (m : Ctl) : Ctl := [0, 1].foldl (fun m l => if m.plUp l then m.linkDown l else m) m

/-- Leave HIBERNATE or CRESCENT (R162, R385, R387): the fuse sense, the TSV failures that retraining finds, and the IR drop measured
on the exit from HIBERNATE. -/
def Ctl.sleepExit (m : Ctl) (a : Arr) (src : WakeSource) (fx : SenseFx) (tsv : TsvTrain) : Ctl :=
  let crescent := m.inMode [.crescent]
  let src := match m.wakeHeld with | some s => s | none => src
  let m := m.recordWake src
  let m := { m with wakeHeld := none }.orbitRestart
  let m := if crescent then m else m.sense fx
  let m := tsv.fails.foldl (fun m e => m.tsvFault e.1 e.2) m
  let m := if crescent then m else tsv.droop.foldl Ctl.measureDrop m
  let m := m.restoreTable a
  let m := (m.portAwake .a crescent (decide (src = .portA))).portAwake .b crescent (decide (src = .portB))
  let keep := m.get F.PWR_KEEP_DIES
  let m := if crescent then m.markFill (0xFFFF ^^^ keep) else m
  let m := m.setRetain (if crescent then 3 else 2) (if crescent then keep else 0xFFFF)
  let m := { m with lost := 0, lease := if m.owner = 0 then 0 else m.leaseLen }
  (m.setMode m.exitMode).retentionBack.linksAwake

/-! ## Fills -/

/-- Write zeros with valid codes to every row of a die (R387): remap spares follow, and their POISON bits clear. -/
def Ctl.wipeDie (m : Ctl) (d : Nat) : Ctl :=
  let m := m.edit (.wipe (d * 64 * 16 * 8272) ((d + 1) * 64 * 16 * 8272))
  { m with pcs := Sparse.mapD m.pcs {} fun _ x =>
    { x with
      spares := x.spares.map fun s =>
        if s.2.loc.bank / 16 = d then (s.1, { s.2 with data := 0, err := 0, poison := false }) else s
      suspect := x.suspect.filter fun q => q.bank / 16 != d
      curd := x.curd.filter fun c => (64 * c.line) / 2 ^ 33 != d } }

/-- DIE_FILL: the lowest die that awaits its fill is filled (R387, R388, R409). -/
def Ctl.dieFill (m : Ctl) : Ctl :=
  match (List.range 16).find? fun d => bit (m.get F.PWR_FILL_DIES) d with
  | none => m
  | some d =>
    let m := m.wipeDie d
    let left := m.get F.PWR_FILL_DIES - 2 ^ d
    let m := m.put F.PWR_FILL_DIES left
    let m := if d = 0 then { m with cellarOk := true } else m
    if left = 0 then m.put F.RETAIN_STATUS_FILLING 0 else m

end Sys2Proof.Machine
end

