-- ==== Sys2Proof/Machine/Ports.lean ====
section
/-!
DEFINITION. Host ports as shared operations (chapters 3 and 4): judging request headers, payload, control flits in both
directions, replay and recovery of a group pair, training, and lane sparing.
-/

namespace Sys2Proof.Machine

/-! ## Requests -/

/-- A user request as work of its PC. -/
def Req.job (p : Port) (r : Req) : Job :=
  { who := .port p r.pos, acc := if r.op = 0 then .read else .write, addr := r.addr, len := r.len, data := r.data,
    be := if r.op = 2 then r.be else fullBe r.len, pos := r.pos, label := r.session }

/-- Hand a request whose payload is there to its destination: a peer link, or the ingress of its PC. A masked write
without enabled bytes writes nothing (R116), and is performed in its order (R131, R133). -/
def Ctl.startReq (m : Ctl) (p : Port) (r : Req) : Ctl :=
  let wait := fun (m : Ctl) => m.modReq p r.pos fun q => { q with st := .waiting }
  if r.dest.isSome then wait m
  else
    let pc := (m.place r.addr).pc
    match m.refusal pc (r.job p) with
    | some st => m.finishReq p r.pos st
    | none =>
      if r.op = 2 && r.be % 2 ^ r.len = 0 then wait m
      else (m.modReq p r.pos fun q => { q with st := .held }).submit pc (r.job p)

/-- Complete an admitted write whose payload a recovery cut off: CHANNEL_UNAVAILABLE, unless a status before it in the order of R124
applies (R93). -/
def Ctl.cutReq (m : Ctl) (p : Port) (r : Req) : Ctl :=
  m.finishReq p r.pos <|
    match r.dest with
    | some l => if m.plUp l then stChannelUnavailable else stRemoteUnreachable
    | none => (m.refusal (m.place r.addr).pc (r.job p)).getD stChannelUnavailable

/-- Judge a READ, WRITE or WRITE_MASKED against its session (R221): `none` where it is refused. -/
def Ctl.admission (m : Ctl) (p : Port) (r : Req) : Option Ctl :=
  if !m.labelMode || r.orphan then some m
  else if m.get F.SES_ACT0_LIMIT r.session ≤ m.get F.SES_STAT_OUTST r.session then none
  else
    some (((m.set F.SES_STAT_OUTST r.session (m.get F.SES_STAT_OUTST r.session + 1)).bump F.SES_REQS_COUNT
      r.session).modReq p r.pos fun q => { q with admitted := true })

/-- Bytes of a user request by its SIZE code (R114). -/
def sizeOf (code : Nat) : Nat := 32 * 2 ^ (code % 4)

/-- Every cause of BAD_REQUEST that a header has (R136): `reuse` is an outstanding TAG, `masked` an extension. -/
def Req.faults (r : Req) (reuse masked : Bool) : List Fld :=
  let user := if r.op = 2 && (!masked || 64 < r.len) then [F.PA_REQERR_MASK_FORM] else []
  let user := if badRange r.addr r.len then F.PA_REQERR_RANGE :: user else user
  let user := if r.addr % r.len != 0 then F.PA_REQERR_ALIGN :: user else user
  let config := if r.op = 6 then (if (doorbellRing r.addr).isNone then [F.PA_REQERR_DB_ADDR] else [])
    else if configGap r.addr 4 then [F.PA_REQERR_CFG_BLOCK] else []
  let config := if r.addr % 4 != 0 then F.PA_REQERR_ALIGN :: config else config
  let own := if 7 ≤ r.op then [F.PA_REQERR_OPCODE] else if r.op ≤ 2 then user else if r.op = 3 then [] else config
  if reuse then F.PA_REQERR_TAG_REUSE :: own else own

/-- Judge a well-formed header of a user access and start it (R114 to R116, R124, R134, R321). -/
def Ctl.userReq (m : Ctl) (p : Port) (r : Req) (cutoff : Bool) : Ctl :=
  if !m.windowOk p (r.op != 0) r.addr r.len then m.finishReq p r.pos stOutOfWindow
  else
    match m.admission p r with
    | none => ((m.bump F.SES_EVENTS_REFUSED r.session).bump F.QOS_REFUSED_COUNT).finishReq p r.pos stRefusedLimit
    | some m =>
      let ap := m.aperture r.addr
      let m := m.modReq p r.pos fun q => { q with dest := ap.map (·.1), peer := (ap.map (·.2)).getD 0 }
      match (m.port p).reqs.find? fun q => q.pos == r.pos with
      | some q => if cutoff then m.cutReq p q else if q.st == .data then m else m.startReq p q
      | none => m

/-- Judge an accepted header and carry it out as far as it may go: the request takes its place in port order. A config access, a
doorbell or a fence (R118, R119) waits for its order, and is performed at the end of the command where it may be. -/
def Ctl.judge (m : Ctl) (p : Port) (h : Hdr) (payload : Option (List Byte)) (be : Option Nat) : Ctl :=
  let op := h.op
  let user := decide (op ≤ 2)
  let len := if user then sizeOf (bits h.bits 4 2) else 0
  let data : List Byte :=
    match payload with
    | some d => d
    | none => ((h.got.map fun s => leBytes 64 s).flatten).take len
  let whole := payload.isSome || h.whole
  let r : Req :=
    { pos := h.pos, g := h.g, tag := bits h.bits 6 14, op := op, session := if op = 3 then 0 else bits h.bits 20 18,
      addr := if user then bits h.bits 38 37 else if op = 3 then 0 else bits h.bits 38 24, len := len, be := be.getD 0,
      data := data, value := bits h.bits 64 32,
      st := if user && op != 0 && !whole then .data else .waiting,
      accAt := h.accAt, rh := h.rh, wd := h.wd, orphan := h.orphan }
  let m := m.modPort p fun x => { x with hdrs := x.hdrs.filter fun q => q.pos != h.pos, reqs := x.reqs ++ [r] }
  match r.faults h.reuse be.isSome with
  | [] => if user then m.userReq p r h.cutoff else m
  | fs => (fs.foldl (fun m f => m.set f p.idx 1) m).finishReq p h.pos stBadRequest

/-- Is a tag of a port outstanding, counting headers accepted and not yet judged (R120)? -/
def Ctl.tagOpen (m : Ctl) (p : Port) (tag : Nat) : Bool :=
  m.tagLive p tag || (m.port p).hdrs.any fun h => bits h.bits 6 14 == tag && !h.orphan

/-- May a header reach the stack on a pair: its link is up, and the pair is enabled and not idle? -/
def Ctl.pairOpen (m : Ctl) (p : Port) (g : Nat) : Bool := m.linkUp p && m.grpOn p g && !(m.grp p g).rxIdle

/-- A header without its reserved bits (R112, R117). -/
def headerKey (v : Nat) : Nat :=
  let low := v % 16 + bits v 6 14 * 2 ^ 6
  match v % 16 with
  | 0 | 1 | 2 => v % 2 ^ 75
  | 3 => low
  | 4 => low + bits v 20 42 * 2 ^ 20
  | _ => low + bits v 20 42 * 2 ^ 20 + bits v 64 32 * 2 ^ 64

/-- A header command: it judges the accepted header that it names; where no flit brought that header, the command is its
arrival as well. `hb` are the header's bits. -/
def Ctl.header (m : Ctl) (p : Port) (g hb : Nat) (payload : Option (List Byte)) (be : Option Nat) : Ctl :=
  match (m.port p).hdrs.find? fun h => h.g == g && headerKey h.bits == hb with
  | some h => m.judge p h none (if h.ext.isSome then h.ext.map fun e => e % 2 ^ 64 else none)
  | none =>
    if !m.pairOpen p g then m
    else
      let m := m.newWork (match p with | .a => .pa | .b => .pb)
      let x := m.port p
      let reuse := m.tagOpen p (bits hb 6 14)
      let h : Hdr := { pos := x.nextPos, g := g, bits := hb, ext := be, rh := 0, accAt := m.now, reuse := reuse }
      (m.modPort p fun x => { x with nextPos := x.nextPos + 1, silent := none }).judge p h
        (some (payload.getD [])) be

/-- The bits of a READ, WRITE or WRITE_MASKED header (R112). -/
def userHeader (op : Nat) (size : ReqSize) (tag session addr : Nat) : Nat :=
  let code := match size with | .s32 => 0 | .s64 => 1 | .s128 => 2 | .s256 => 3
  op + code * 2 ^ 4 + tag * 2 ^ 6 + session * 2 ^ 20 + addr * 2 ^ 38

/-- The bits of a config, doorbell or fence header (R117). -/
def configHeader (op tag session caddr data : Nat) : Nat :=
  op + tag * 2 ^ 6 + session * 2 ^ 20 + caddr * 2 ^ 38 + data * 2 ^ 64

/-! ## Payload -/

/-- Bind one data slot to the write that needs it (R78): a write that is whole goes on. -/
def Ctl.bindSlot (m : Ctl) (p : Port) (g pos slot : Nat) : Ctl :=
  let x := m.port p
  match x.hdrs.find? fun h => h.pos == pos with
  | some _ => m.setPort p { x with hdrs := x.hdrs.map fun h => if h.pos == pos then { h with got := h.got ++ [slot], wd := h.wd + 1 } else h }
  | none =>
    match x.reqs.find? fun r => r.pos == pos && r.st == .data with
    | none => m.credit p g 0 1
    | some r =>
      let data := (r.data ++ leBytes 64 slot).take r.len
      let r := { r with data := data, wd := r.wd + 1, st := if data.length = r.len then .waiting else .data }
      let m := m.modReq p pos fun _ => r
      if r.st == .waiting then m.startReq p r else m

/-- Assign data slots to the needs at the head of a pair's payload queue (R78). -/
def Ctl.bindSlots (m : Ctl) (p : Port) (g : Nat) : List Nat → Ctl
  | [] => m
  | s :: r =>
    match (m.grp p g).needs with
    | [] => m
    | (pos, n) :: rest =>
      let m := m.modGrp p g fun x => { x with needs := if n ≤ 1 then rest else (pos, n - 1) :: rest }
      (m.bindSlot p g pos s).bindSlots p g r

/-! ## Downstream flits -/

/-- Fields of a control flit (R71, R73): body bits, and the link field. -/
structure Flit where
  body : Nat
  typ : Nat
  dv : Nat
  seq : Nat
  ack : Nat
  ackv : Bool
  nak : Bool
  recov : Bool
  hv : Nat
  period : Nat
  crcOk : Bool
deriving DecidableEq, Repr

/-- Take a flit apart. -/
def flitOf (v : Nat) : Flit :=
  let k := v / 2 ^ 384
  { body := v % 2 ^ 384, typ := bits k 0 4, dv := bits k 4 4, seq := bits k 8 12, ack := bits k 20 12, ackv := bit k 32,
    nak := bit k 33, recov := bit k 34, hv := bits k 40 8, period := bits k 64 12,
    crcOk := crc32c (leBytes 60 v) == bits k 96 32 }

/-- Difference of two 12-bit numbers. -/
def seqSub (a b : Nat) : Nat := (a + 4096 - b % 4096) % 4096

/-- Does a flit of the replay buffer carry a LINK_IDLE? -/
def TxFlit.idles (f : TxFlit) : Bool := f.items.any UpItem.idles

/-- Take the acknowledgement of a flit (R89): the flits up to ACK are released. An acknowledged LINK_IDLE idles the
upstream direction (R106). -/
def Ctl.takeAck (m : Ctl) (p : Port) (g : Nat) (f : Flit) : Ctl :=
  let x := m.grp p g
  let m :=
    match x.buf with
    | [] => m
    | o :: _ =>
      let n := seqSub f.ack o.seq + 1
      if f.ackv && n ≤ x.buf.length then
        let rest := x.buf.drop n
        let m := m.modGrp p g fun x => { x with buf := rest, again := min x.again rest.length, idleAge := 0 }
        if (x.buf.take n).any TxFlit.idles then m.upIdle p g else m
      else m
  let m := if f.nak then m.modGrp p g fun x => { x with nakIn := some f.ack } else m
  if f.recov then m.modGrp p g fun x => { x with recov := true } else m

/-- A request header of a REQ flit: its position, bits and extension (R111, R116). -/
def reqHeaders (body hv : Nat) : Nat → Nat → List (Nat × Option Nat)
  | 0, _ => []
  | n + 1, h =>
    if 4 ≤ h then []
    else if !bit hv h then reqHeaders body hv n (h + 1)
    else
      let b := bits body (96 * h) 96
      if b % 16 = 2 && h < 3 && bit hv (h + 1) then (b, some (bits body (96 * (h + 1)) 96)) :: reqHeaders body hv n (h + 2)
      else (b, none) :: reqHeaders body hv n (h + 1)

/-- Data slots that a header needs (R115). -/
def slotNeed (hb : Nat) : Nat := if hb % 16 = 1 || hb % 16 = 2 then (sizeOf (bits hb 4 2) + 63) / 64 else 0

/-- RH credits that a header takes (R116). -/
def rhCost (e : Nat × Option Nat) : Nat := if e.2.isSome then 2 else 1

/-- What makes a flit a protocol error (R80). -/
inductive FlitErr where
  | holdMiss | orphan | type | credit
deriving DecidableEq, Repr

/-- The protocol errors of a sequenced flit with a good CRC and SEQ = E (R80, R83, R72): every one that it has. -/
def judgeFlit (x : Grp) (f : Flit) (hs : List (Nat × Option Nat)) : List FlitErr :=
  let slots := ((List.range 4).filter fun s => bit f.dv s).length
  let needs := (x.needs.map (·.2)).sum + (hs.map fun h => slotNeed h.1).sum
  [(FlitErr.type, f.typ != 1 && f.typ != 2 && f.typ != 5), (.holdMiss, f.dv != 0 && decide (63 < seqSub x.rxPeriod f.period)),
    (.orphan, decide (needs < slots)),
    (.credit, decide (x.rh < (hs.map rhCost).sum) || decide (x.wd < slots))].filterMap fun e => if e.2 then some e.1 else none

/-- Show a protocol error. -/
def Ctl.flitError (m : Ctl) (p : Port) : FlitErr → Ctl
  | .holdMiss => m.set F.PA_ERR_HOLD_MISS p.idx 1
  | .orphan => m.set F.PA_ERR_ORPHAN p.idx 1
  | .credit => m.set F.PA_ERR_CREDIT_OVERRUN p.idx 1
  | .type => m

/-- Accept the headers of a flit in position order (R129). A reserved OP completes at once (R113). -/
def Ctl.takeHeaders (m : Ctl) (p : Port) (g : Nat) : List (Nat × Option Nat) → Ctl
  | [] => m
  | e :: r =>
    let x := m.port p
    let need := slotNeed e.1
    let h : Hdr :=
      { pos := x.nextPos, g := g, bits := e.1, ext := e.2, rh := rhCost e, need := need, accAt := m.now,
        reuse := m.tagOpen p (bits e.1 6 14) }
    let m := m.setPort p { x with hdrs := x.hdrs ++ [h], nextPos := x.nextPos + 1 }
    let m := if need = 0 then m else m.modGrp p g fun y => { y with needs := y.needs ++ [(h.pos, need)] }
    let m := if 7 ≤ e.1 % 16 then m.judge p h none none else m
    m.takeHeaders p g r

/-- Codes of a direction and of a kind of lane in `PA_LANE_g`. -/
def dirCode : Dir → Nat
  | .down => 0
  | .up => 1

/-- The code of a kind of lane. -/
def laneCode : LaneKind → Nat
  | .data => 0
  | .ctrl => 1

/-- SPARE_DATA or SPARE_CTRL from the host: the stack drives a duplicate of an upstream lane (R97, R99). -/
def Ctl.spareUp (m : Ctl) (p : Port) (g : Nat) (k : LaneKind) (lane : Nat) : Ctl :=
  let limit := match k with | .data => 64 | .ctrl => 16
  if limit ≤ lane then m.set F.PA_ERR_LINKCTL_BAD p.idx 1
  else
    match m.portLane p.idx g 1 (laneCode k) with
    | some n => if n = lane then m else m.set F.PA_ERR_LINKCTL_BAD p.idx 1
    | none => m.setPortLane p.idx g 1 (laneCode k) lane

/-- A side that accepted a flit while its own direction is idle resumes it to acknowledge (R506). -/
def Ctl.resumeToAck (m : Ctl) (p : Port) (g : Nat) : Ctl :=
  if (m.grp p g).txIdle then (m.resumeOn p g g).modGrp p g fun x => { x with ackOnly := some 0 } else m

/-- A sequenced flit of a pair has been accepted (R87, R88). -/
def Ctl.tookFlit (m : Ctl) (p : Port) (g : Nat) : Ctl :=
  (m.modGrp p g fun x =>
    { x with e := (x.e + 1) % 4096, taken := true, nak := false, rxAck := false, ackOnly := x.ackOnly.map fun _ => 0 }).modPort p
    fun x => { x with silent := none }

/-- The host's direction of a pair goes idle (R106). -/
def Ctl.downIdle (m : Ctl) (p : Port) (g : Nat) : Ctl :=
  ((m.modGrp p g fun x => { x with rxIdle := true }).resumeToAck p g).relink p

/-- Act on a LINKCTL body (R98). -/
def Ctl.linkctl (m : Ctl) (p : Port) (g body : Nat) : Ctl :=
  match body % 256 with
  | 1 => m.spareUp p g .data (bits body 8 8)
  | 2 => m.spareUp p g .ctrl (bits body 8 8)
  | 3 => m.downIdle p g
  | _ => m.set F.PA_ERR_LINKCTL_BAD p.idx 1

/-- A LINKCTL flit arrives by a command of its own: it is accepted, and acted on (R87, R98). -/
def Ctl.linkctlFlit (m : Ctl) (p : Port) (g body : Nat) : Ctl :=
  if m.pairOpen p g then
    (((m.newWork (match p with | .a => .pa | .b => .pb)).tookFlit p g).resumeToAck p g).linkctl p g body
  else m

/-- Accept a flit (R87): headers, then payload, then a link-control command. -/
def Ctl.acceptFlit (m : Ctl) (p : Port) (g : Nat) (f : Flit) (hs : List (Nat × Option Nat)) : Ctl :=
  let m := m.newWork (match p with | .a => .pa | .b => .pb)
  let picked := (List.range 4).filter fun s => bit f.dv s
  let m := (m.tookFlit p g).modGrp p g fun x => { x with rh := x.rh - (hs.map rhCost).sum, wd := x.wd - picked.length }
  let raw := Sparse.getD (m.grp p g).hold f.period []
  let m := m.takeHeaders p g hs
  let m := m.bindSlots p g (picked.map fun s => raw.getD s 0)
  let m := m.resumeToAck p g
  if f.typ = 5 then m.linkctl p g f.body else m

/-- CONTROL_FLIT (R68, R74, R80, R87): one period of a downstream group, with its raw data slots. -/
def Ctl.controlFlit (m : Ctl) (p : Port) (g v : Nat) (slots : List Nat) : Ctl :=
  if !m.linkUp p || !m.grpOn p g then m
  else if (m.grp p g).rxIdle then (m.wakeGroup p g).wakeUp (portWake p)
  else
    let n := (m.grp p g).rxPeriod
    let m := m.modGrp p g fun x =>
      { x with hold := (x.hold.filter fun e => decide (seqSub n e.1 < 64)) |> fun h => Sparse.put h n slots }
    let f := flitOf v
    let m :=
      if !f.crcOk then (m.set F.PA_ERR_CRC p.idx 1).modGrp p g fun x => { x with nak := true }
      else
        let m := (m.modPort p fun x => { x with silent := none }).takeAck p g f
        let x := m.grp p g
        if f.typ = 0 || f.seq != x.e then m
        else
          let hs := if f.typ = 2 then reqHeaders f.body f.hv 4 0 else []
          match judgeFlit x f hs with
          | [] => m.acceptFlit p g f hs
          | es => (es.foldl (fun m e => m.flitError p e) m).modGrp p g fun x => { x with recov := true }
    m.modGrp p g fun x => if x.rxIdle then x else { x with rxPeriod := (n + 1) % 4096 }

/-! ## Upstream flits -/

/-- Positions of a completion in a CPL flit (R121). -/
def cplSize : UpItem → Nat
  | .cpl _ _ (some _) _ _ _ _ _ => 2
  | _ => 1

/-- Bits of a completion at a position of a CPL flit, its extension included. -/
def cplBits (h : Nat) : UpItem → Nat
  | .cpl tag status xt corr _ _ _ _ =>
    (tag + status * 2 ^ 14 + b2n xt.isSome * 2 ^ 18 + b2n corr * 2 ^ 19 + xt.getD 0 * 2 ^ 48) * 2 ^ (48 * h)
  | _ => 0

/-- HV bits of a completion at a position. -/
def cplHv (h : Nat) (u : UpItem) : Nat := (2 ^ cplSize u - 1) * 2 ^ h

/-- Completions from the front of a queue that fit from position `h` on: a CONFIG_READ's never starts at position 7, and
one that met a bad word waits for its POISON record (`held`, R128). -/
def takeCpls (held : Nat → Bool) : Nat → List UpItem → List UpItem
  | _, [] => []
  | h, u :: r =>
    match u with
    | .cpl tag status _ _ _ _ _ _ =>
      if h + cplSize u ≤ 8 && !(status == 1 && held tag) then u :: takeCpls held (h + cplSize u) r else []
    | _ => []

/-- Event records from the front of a queue, at most four. -/
def takeEvents : Nat → List UpItem → List UpItem
  | 0, _ => []
  | n + 1, .event b :: r => .event b :: takeEvents n r
  | _, _ => []

/-- Body and HV of a list of completions. -/
def cplBody' : Nat → List UpItem → Nat × Nat
  | _, [] => (0, 0)
  | h, u :: r => let y := cplBody' (h + cplSize u) r; (cplBits h u + y.1, cplHv h u + y.2)

/-- Body and HV of a list of events. -/
def eventBody (h : Nat) : List UpItem → Nat × Nat
  | [] => (0, 0)
  | .event b :: r => let y := eventBody (h + 1) r; (b * 2 ^ (96 * h) + y.1, 2 ^ h + y.2)
  | _ :: r => eventBody h r

/-- What a new flit of a pair carries: type, items, body and HV. -/
def chooseFlit (held : Nat → Bool) (up : List UpItem) : Nat × List UpItem × Nat × Nat :=
  match up with
  | .event _ :: _ => let l := takeEvents 4 up; let b := eventBody 0 l; (4, l, b.1, b.2)
  | .linkctl c n :: _ => (5, [.linkctl c n], c + n * 256, 0)
  | .cpl _ _ _ _ _ _ _ _ :: _ =>
    let l := takeCpls held 0 up
    let b := cplBody' 0 l
    (if l.isEmpty then 1 else 3, l, b.1, b.2)
  | [] => (1, [], 0, 0)

/-- The payload slots of a completion, the first with its latency sample (R223). -/
def payloadSlots : UpItem → List (Nat × Option (Nat × Nat × Nat))
  | .cpl tag _ _ _ (some bs) s sent at_ =>
    let n := (bs.length + 63) / 64
    (List.range n).map fun k =>
      (leNat ((bs.drop (64 * k)).take 64), if k = 0 && decide (sent = .fresh true) then some (s, at_, tag) else none)
  | _ => []

/-- Outstanding counts and samples when completion headers are transmitted (R222, R223). -/
def Ctl.sentCpl (m : Ctl) : UpItem → Ctl
  | .cpl _ _ _ _ payload s (.fresh true) at_ =>
    let m := m.outstDec s
    if payload.isNone && m.labelMode then m.sample s at_ else m
  | .cpl _ _ _ _ _ s (.again true) at_ => if m.labelMode then m.sample s at_ else m
  | _ => m

/-- An item as the replay buffer keeps it: it no longer counts as outstanding. -/
def UpItem.kept : UpItem → UpItem
  | .cpl t st xt c pl s _ at_ => .cpl t st xt c pl s (.again false) at_
  | u => u

/-- The bits of an upstream flit with current acknowledgements. -/
def flitBits (x : Grp) (t : TxFlit) : Nat :=
  let k := t.typ + t.dv * 2 ^ 4 + t.seq * 2 ^ 8 + (x.e + 4095) % 4096 * 2 ^ 20 + b2n x.taken * 2 ^ 32 + b2n x.nak * 2 ^ 33 +
    b2n x.recov * 2 ^ 34 + t.hv * 2 ^ 40 + t.crRh * 2 ^ 48 + t.crWd * 2 ^ 56 + t.period * 2 ^ 64
  let v := t.body + k * 2 ^ 384
  v + crc32c (leBytes 60 v) * 2 ^ 480

/-- Samples due with the first data slots of reads (R223). -/
def Ctl.sentSlots (m : Ctl) (l : List (Nat × Option (Nat × Nat × Nat))) : Ctl :=
  l.foldl (fun m e => match e.2 with | some (s, at_, _) => if m.labelMode then m.sample s at_ else m | none => m) m

/-- Send a new flit of a pair: a sequenced one where there is something to carry, else NULL (R68, R79, R84, R86). After a LINK_IDLE
only NULL follows until it is acknowledged (R106). -/
def Ctl.sendNew (m : Ctl) (p : Port) (g : Nat) (held : Nat → Bool) : Ctl :=
  let x := m.grp p g
  let idle := x.up.isEmpty && x.slots.isEmpty && x.rhDue = 0 && x.wdDue = 0
  if idle || 512 ≤ x.buf.length || x.buf.any TxFlit.idles then
    m.emit (.flit p g (flitBits x { typ := 0, seq := 0, period := x.period }) [])
  else
    let c := chooseFlit held x.up
    let slots := x.slots ++ (c.2.1.map payloadSlots).flatten
    let far := match x.buf with | [] => false | o :: _ => decide (24 < seqSub x.seq o.seq)
    let now := if far then [] else slots.take 4
    let rh := min 255 x.rhDue
    let wd := min 255 x.wdDue
    let t : TxFlit :=
      { typ := c.1, dv := 2 ^ now.length - 1, seq := x.seq, hv := c.2.2.2, crRh := rh, crWd := wd, period := x.period,
        body := c.2.2.1, items := c.2.1.map UpItem.kept }
    let m := m.modGrp p g fun x =>
      { x with up := x.up.drop c.2.1.length, slots := slots.drop now.length, seq := (x.seq + 1) % 4096,
               buf := x.buf ++ [t], rhDue := x.rhDue - rh, wdDue := x.wdDue - wd, rh := x.rh + rh, wd := x.wd + wd,
               ackOnly := none }
    let m := c.2.1.foldl Ctl.sentCpl m
    (m.sentSlots now).emit (.flit p g (flitBits x t) (now.map (·.1)))

/-- Does the completion of a TAG wait for its POISON record, which has not left yet (R128)? -/
def Ctl.recordWaits (m : Ctl) (p : Port) (tag : Nat) : Bool :=
  let ofTag := fun (e : Nat) => e % 16 == 3 && bits e 8 14 == tag
  (m.port p).events.any ofTag ||
    (m.port p).grps.any fun e => e.2.up.any fun u => match u with | .event b => ofTag b | _ => false

/-- One control period of a pair (R68, R90): the next flit of a replay, or a new one. A LINK_IDLE that has not left is withdrawn
where traffic has arisen or the host has resumed (R507). -/
def Ctl.pairPeriod (m : Ctl) (p : Port) (g : Nat) : Ctl :=
  let x := m.grp p g
  if x.txIdle then m
  else
    let m := if m.mayIdle p g || !x.up.any UpItem.idles then m
      else m.modGrp p g fun x => { x with up := x.up.filter fun u => !u.idles }
    let m :=
      if x.again = 0 then m.sendNew p g (m.recordWaits p)
      else
        match x.buf[x.buf.length - x.again]? with
        | some t => (m.modGrp p g fun x => { x with again := x.again - 1 }).emit (.flit p g (flitBits x t) [])
        | none => m.modGrp p g fun x => { x with again := 0 }
    let still := m.mayIdle p g
    m.modGrp p g fun x =>
      { x with period := (x.period + 1) % 4096, replayAge := min 64 (x.replayAge + 1),
               idleAge := if x.buf.isEmpty then 0 else min 256 (x.idleAge + 1),
               ackOnly := x.ackOnly.map (· + 1), quiet := if still then min 64 (x.quiet + 1) else 0 }

/-- Move waiting event records to the lowest enabled pair (R77), at most four in a period; an idle pair resumes first (R507). -/
def Ctl.placeEvents (m : Ctl) (p : Port) : Ctl :=
  match m.lowest p with
  | none => m
  | some g =>
    let evs := (m.port p).events
    if evs.isEmpty || (m.grp p g).again != 0 then m
    else
      let m := m.resumeUp p g
      let front := (m.grp p g).up.takeWhile fun u => match u with | .event _ => true | _ => false
      let room := 4 - front.length
      let m := m.modGrp p g fun x =>
        { x with up := front ++ (evs.take room).map UpItem.event ++ x.up.drop front.length }
      m.modPort p fun x => { x with events := evs.drop room }

/-- A control period of a port in ps (R66). -/
def Ctl.periodPs (m : Ctl) (p : Port) : Nat :=
  match m.get F.PA_STATUS_RATE p.idx with
  | 0 => 2000
  | 1 => 2500
  | _ => 4000

/-- CONTROL_PERIOD (R68): every enabled pair whose transmitter is not idle sends one flit. -/
def Ctl.controlPeriod (m : Ctl) (p : Port) : Ctl :=
  if !m.linkUp p then m
  else
    let t := match (m.port p).periodAt with | some s => max m.now (s + m.periodPs p) | none => m.now
    let m := (m.reach t).modPort p fun x => { x with periodAt := some t }
    (List.range 16).foldl (fun m g => if m.grpOn p g then m.pairPeriod p g else m) (m.placeEvents p)

/-- Does a case of R90 hold: a NAK with a new ACK or 64 periods after the last replay began, or 256 periods without a release? -/
def Grp.replayDue (x : Grp) : Bool :=
  (x.nakIn.isSome && (x.nakIn != x.nakAck || decide (64 ≤ x.replayAge))) || decide (256 ≤ x.idleAge)

/-- REPLAY (R90, R91): every unacknowledged flit is resent; a fourth consecutive replay from one SEQ asks for recovery
instead. -/
def Ctl.replay (m : Ctl) (p : Port) (g : Nat) : Ctl :=
  let x := m.grp p g
  match x.buf with
  | [] => m.modGrp p g fun x => { x with nakIn := none }
  | o :: _ =>
    if !m.linkUp p || !m.grpOn p g || x.txIdle then m
    else if !x.replayDue then m
    else
      let n := if x.fromCount != 0 && x.fromSeq = o.seq then x.fromCount + 1 else 1
      if 4 ≤ n then m.modGrp p g fun x => { x with recov := true, nakIn := none, fromCount := 0 }
      else
        (m.modGrp p g fun x =>
          { x with again := x.buf.length, nakAck := if x.nakIn.isSome then x.nakIn else x.nakAck, nakIn := none,
                   replayAge := 0, idleAge := 0, fromSeq := o.seq, fromCount := n }).bump F.PA_COUNT_REPLAYS p.idx

/-! ## Recovery and loss of a pair -/

/-- An item that the host did not accept, as it is sent again after a recovery (R93): a completion with payload becomes
CHANNEL_UNAVAILABLE, and gives its latency sample where its first data slot had not left (R223). -/
def UpItem.again (left : List (Nat × Option (Nat × Nat × Nat))) : UpItem → UpItem
  | .cpl t _ _ _ (some _) s _ at_ =>
    .cpl t stChannelUnavailable none false none s (.again (left.any fun e => e.2 == some (s, at_, t))) at_
  | u => u

/-- Complete the accepted writes of a pair whose payload was cut off, and mark those not judged yet (R93). -/
def Ctl.cutPayload (m : Ctl) (p : Port) (g : Nat) : Ctl :=
  let m := m.modPort p fun x => { x with
    hdrs := x.hdrs.map fun h => if h.g == g then { h with cutoff := decide (h.got.length < h.need), rh := 0, wd := 0 } else h
    reqs := x.reqs.map fun r => if r.g == g then { r with rh := 0, wd := 0 } else r }
  ((m.port p).reqs.filter fun r => r.g == g && r.st == .data).foldl (fun m r => m.cutReq p r) m

/-- Raise `FS_PORT_GROUP_DOWN` for a group. -/
def Ctl.groupDown (m : Ctl) (p : Port) (g : Nat) : Ctl := m.raise (match p with | .a => 0x080 | .b => 0x090) g

/-- The event records that a pair still held, in order. -/
def Grp.events (x : Grp) : List Nat :=
  ((x.buf.map TxFlit.items).flatten ++ x.up).filterMap fun u => match u with | .event b => some b | _ => none

/-- Disable a group pair (R94): its headers are executed without completion, and its tags are free. DESIGN CHOICE: the event records
that the pair held go to the lowest enabled group, those of unacknowledged flits included. -/
def Ctl.disablePair (m : Ctl) (p : Port) (g : Nat) : Ctl :=
  let i := p.idx * 16 + g
  let x := m.grp p g
  let m := (m.set F.PA_LANE_DISABLED i 1).set F.PA_STATUS_GROUPS p.idx (m.get F.PA_STATUS_GROUPS p.idx &&& (0xFFFF ^^^ 2 ^ g))
  let m := ((m.port p).reqs.filter fun r => r.g == g).foldl Ctl.forget m
  let m := (m.dropUp x.up).modPort p fun y => { y with
    grps := Sparse.del y.grps g
    hdrs := (y.hdrs.filter fun h => !(h.g == g && !h.whole)).map fun h => if h.g == g then h.orphaned else h
    reqs := (y.reqs.filter fun r => !(r.g == g && r.st == .data)).map fun r => if r.g == g then r.orphaned else r
    switching := y.switching.filter fun s => s.1 != g
    events := x.events ++ y.events }
  let m := if m.lowest p = none then (m.set F.PA_STATUS_LINK p.idx 0).readyOrActive else m.relink p
  m.groupDown p g

/-- Map the spare of a failed lane of a group: `none` where it replaces another lane already (R100). -/
def Ctl.takeSpare (m : Ctl) (p : Port) (g : Nat) (l : Dir × LaneKind × Fin 64) : Option Ctl :=
  if l.2.1 = .ctrl && 16 ≤ l.2.2.val then some m
  else
    match m.portLane p.idx g (dirCode l.1) (laneCode l.2.1) with
    | some n => if n = l.2.2.val then some m else none
    | none => some (m.setPortLane p.idx g (dirCode l.1) (laneCode l.2.1) l.2.2.val)

/-- Map the spares of the lanes of one group in turn: `none` with the second failure of one kind (R100). -/
def Ctl.takeSpares (m : Ctl) (p : Port) (g : Nat) : List (Dir × LaneKind × Fin 64) → Option Ctl
  | [] => some m
  | l :: r => (m.takeSpare p g l).bind fun m => m.takeSpares p g r

/-- GROUP_RECOVERY (R92 to R94): `hostE` is the host's expected number, and `trained` the lanes that fell short at T4, or nothing where
T6 was not reached. DESIGN CHOICE: the first period after T6 has number 0. -/
def Ctl.groupRecovery (m : Ctl) (p : Port) (g hostE : Nat) (trained : Option (List (Dir × LaneKind × Fin 64))) : Ctl :=
  if !m.linkUp p || !m.grpOn p g then m
  else
    let m := m.bump F.PA_COUNT_RECOVERIES p.idx
    match trained.bind (m.takeSpares p g) with
    | none => m.disablePair p g
    | some m =>
      let x := m.grp p g
      let lost := match x.buf with
        | [] => []
        | o :: _ => x.buf.drop (min x.buf.length (seqSub hostE o.seq))
      let again := ((lost.map TxFlit.items).flatten).map (UpItem.again x.slots)
      (m.modGrp p g fun x => { up := again ++ x.up.filter fun u => !u.idles }).cutPayload p g |>.relink p

/-! ## Training -/

/-- The fastest rate that a port may take (R66, R101): the highest of the code of `RATE_MAX`, the part's bin, and the
restrictive default of the port's trims. -/
def Ctl.rateFloor (m : Ctl) (p : Port) : Nat :=
  max (min 2 (m.get F.PA_CTRL_RATE_MAX p.idx)) (max (m.get F.GL_ID_BIN) (if m.portTrimFailed p then 2 else 0))

/-- Does a port train now (R101)? -/
def Ctl.mayTrain (m : Ctl) (p : Port) : Bool :=
  m.inMode [.training, .ready, .active] && m.is F.PA_CTRL_ENABLE p.idx && !m.linkUp p && m.link p != 1 &&
    !m.deadUnits.contains p.idx

/-- Show which groups of a port a training disabled, and raise `FS_PORT_GROUP_DOWN` for each that was not disabled before
(R94, R100, R101). -/
def Ctl.trainedGroups (m : Ctl) (p : Port) (groups : Nat) : Ctl :=
  (List.range 16).foldl (fun m g =>
    let i := p.idx * 16 + g
    if bit groups g then m.set F.PA_LANE_DISABLED i 0
    else if m.is F.PA_LANE_DISABLED i then m
    else (m.set F.PA_LANE_DISABLED i 1).groupDown p g) m

/-- Full training of a port (R101, R82, R94). A group that needs a spare in use for another lane is disabled. Before READY the port
holds at T6 with LINK at TRAINING (R404). DESIGN CHOICE: a spare taken under R96 or R97 stays in use, and the first period after T6
has number 0. -/
def Ctl.portTrain (m : Ctl) (p : Port) (r : PortTrain) : Ctl :=
  let i := p.idx
  let y := (List.range 16).foldl (fun (y : Ctl × Nat) g =>
    if r.groups.getLsbD g then
      match y.1.takeSpares p g ((r.spared.filter fun e => e.1.val == g).map (·.2)) with
      | some m => (m, y.2 + 2 ^ g)
      | none => y
    else y) (m, 0)
  let m := y.1.trainedGroups p y.2
  if y.2 = 0 then
    ((m.set F.PA_STATUS_LINK i 0).set F.PA_ERR_TRAIN_FAIL i 1).modPort p fun x => { x with retry := true }
  else
    let m := m.modPort p fun x => { x with grps := [], switching := [], periodAt := none, retry := false, silent := none }
    let m := ((m.set F.PA_STATUS_GROUPS i y.2).set F.PA_STATUS_RATE i (max r.rate.val (m.rateFloor p))).set
      F.PA_STATUS_LINK i (if m.inMode [.training] then 1 else 2)
    (m.set F.PA_SIDEBAND_PARTNER_IDLE i 0).readyOrActive

/-! ## Lane health -/

/-- Margins of the worst lane (R95): least horizontal, then least vertical margin. -/
def worstLane (t : Sparse Nat) : Option (Nat × Nat) :=
  t.foldl (fun acc e =>
    match acc with
    | none => some e
    | some b => if e.2 < b.2 then some e else acc) none

/-- EYE_MEASUREMENT (R95, R96): four poor measurements start pre-emptive sparing. -/
def Ctl.eye (m : Ctl) (p : Port) (g lane h v : Nat) : Ctl :=
  if !m.linkUp p || !m.grpOn p g then m
  else
    let k := g * 128 + lane
    let poor := decide (h < m.get F.PA_EYE_CFG_H_MIN p.idx) || decide (v < m.get F.PA_EYE_CFG_V_MIN p.idx)
    let n := if poor then min 4 (Sparse.getD (m.port p).poor k 0 + 1) else 0
    let m := m.modPort p fun x => { x with margins := Sparse.put x.margins k (h * 64 + v), poor := Sparse.setD x.poor k n 0 }
    let m := match worstLane (m.port p).margins with
      | some (w, hv) =>
        (((m.set F.PA_EYE_MIN_LANE p.idx (w % 128)).set F.PA_EYE_MIN_GROUP p.idx (w / 128)).set F.PA_EYE_MIN_H p.idx
          (hv / 64)).set F.PA_EYE_MIN_V p.idx (hv % 64)
      | none => m
    let kind : LaneKind := if lane < 64 then .data else .ctrl
    let kcode := if lane < 64 then 0 else 1
    if 4 ≤ n && lane < 80 && m.is F.PA_CTRL_SPARE_EN p.idx && (m.portLane p.idx g 0 kcode).isNone &&
        !((m.port p).switching.any fun s => s.1 == g && decide (s.2.1 = kind)) then
      let no := if lane < 64 then lane else lane - 64
      let m := m.modPort p fun x => { x with switching := x.switching ++ [(g, kind, no)] }
      (m.modGrp p g fun x => { x with up := x.up ++ [.linkctl (kcode + 1) no] }).resumeUp p g
    else m

/-- SPARE_SWITCH (R96): the lane switches to its trained spare. -/
def Ctl.spareSwitch (m : Ctl) (p : Port) (g : Nat) (k : LaneKind) : Ctl :=
  match (m.port p).switching.find? fun s => s.1 == g && decide (s.2.1 = k) with
  | none => m
  | some s =>
    let kcode := laneCode k
    let m := m.modPort p fun x => { x with switching := x.switching.filter fun t => !(t.1 == g && decide (t.2.1 = k)) }
    (m.setPortLane p.idx g 0 kcode s.2.2).raise (match p with | .a => 0x081 | .b => 0x091)
      (g + (s.2.2 + 64 * kcode) * 2 ^ 4)

end Sys2Proof.Machine
end

