-- ==== Sys2Proof/Machine/Clocks.lean ====
section
/-!
DEFINITION. The meanings of the clock commands (chapter 14): the TRO start, the XTAL monitor, event crossings and clock
gates.
-/

namespace Sys2Proof.Machine

/-- Does the stack leave POWERED for FUSELOAD (R378, R408, R495): XTAL is stable, the supplies are in range and
`RESET_N` is high. The orbit logic begins acquisition (R403); until a sample completes every die is hot (R505). The reset has
ended, and the digest of the active setup is computed (R287, DEDUCED, log entry 166). -/
def Ctl.leavePowered (m : Ctl) : Ctl :=
  if m.inMode [.powered] && m.is F.CLK_STATUS_XTAL_GOOD && !m.vinBad && !m.vphyBad && !m.resetLow then
    { ((m.setMode .fuseload).put F.ORB_HOTMAP_HOT (m.get F.THM_HOT_HOT)).digestStart with orbitAt := m.now, orb := { run := true } }
  else m

/-- VAON_VALID (R350, R352): power-on reset is held, TRO and the XTAL amplifier start. -/
def execVaonValid (s : State) : Host.Outcome State Fault Refusal :=
  .next (run s fun _ m => if m.power = .off then m.powerOn .porHeld else m)

/-- TRO_START (R103, R350, R352): power-on reset is released, PRESENT_A and PRESENT_B are driven high, the mode is POWERED and the
monitor arms. -/
def execTroStart (s : State) : Host.Outcome State Fault Refusal :=
  .next (run s fun _ m =>
    if m.power = .porHeld then
      (({ m with power := .run, present := some true }.put F.CLK_STATUS_TRO_STARTED 1).put F.CLK_STATUS_MON_ARMED 1).put F.GL_MODE_STATE
        Mode.powered.code
    else m)

/-- TRO_START_TIMEOUT (R350): the timer restarts the oscillator and goes on holding power-on reset. -/
def execTroStartTimeout (s : State) : Host.Outcome State Fault Refusal := .next (run s fun _ m => m)

/-- TRO_AMPLITUDE_LOSS (R351). -/
def execTroAmplitudeLoss (s : State) : Host.Outcome State Fault Refusal :=
  .next (run s fun _ m => if m.alive then m.powerOn .porHeld else m)

/-! ## The XTAL monitor -/

/-- Is a window's count in the range in force (R353)? -/
def Ctl.countOk (m : Ctl) (count : Nat) : Bool :=
  if m.get F.CLK_STATUS_MON_RANGE = 0 then decide (192 ≤ count ∧ count ≤ 344) else decide (240 ≤ count ∧ count ≤ 272)

/-- An attempt of the start fails (R356). -/
def Ctl.attemptFails (m : Ctl) : Ctl :=
  { m.put F.CLK_STATUS_ATTEMPTS (min 15 m.clk.attempt) with
    clk := { m.clk with attempt := m.clk.attempt + 1, ampOff := true, trip := false, seen := 0, total := 0, bads := 0 } }

/-- XTAL is judged stable (R355, R357, R359). -/
def Ctl.xtalStable (m : Ctl) : Ctl :=
  let m := (m.put F.CLK_STATUS_XTAL_GOOD 1).put F.CLK_STATUS_ATTEMPTS (min 15 m.clk.attempt)
  ({ m.put F.CLK_STATUS_RS_SRC 0 with clk := { m.clk with cleans := 256 } } : Ctl).leavePowered

/-- A clean window (R354, R355, R359). -/
def Ctl.cleanWindow (m : Ctl) (count : Nat) : Ctl :=
  let total := if m.is F.CLK_STATUS_XTAL_GOOD then 0 else m.clk.total + count
  let m := { m with clk := { m.clk with trip := false, seen := 0, total := total, bads := 0, cleans := min 256 (m.clk.cleans + 1) } }
  let m := m.retentionBack
  if !m.is F.CLK_STATUS_XTAL_GOOD && decide (65536 ≤ total) then m.xtalStable else m

/-- A bad window: four in a row fail the attempt, or are a source failure once XTAL is good (R354, R355, R358, R359). -/
def Ctl.badWindow (m : Ctl) (a : Arr) : Ctl :=
  let n := m.clk.bads + 1
  let m := (m.bump F.CLK_MON_BAD_WINDOWS).put F.CLK_STATUS_RS_SRC 1
  let m := { m with clk := { m.clk with total := 0, bads := n, cleans := 0, seen := m.clk.seen + 1 } }
  if n < 4 then m
  else if m.is F.CLK_STATUS_XTAL_GOOD then
    (((m.raise 0x010).bump F.CLK_XTAL_FAILS_COUNT).put F.CLK_STATUS_XTAL_GOOD 0).chipReset a 2
  else m.attemptFails

/-- XTAL_WINDOW (R353 to R359). Before the monitor arms, an amplitude failure is latched as a trip (R352). The FINE range
is in force from the first window boundary after the TRO trim word is applied. -/
def execXtalWindow (count : Nat) (ampFail : Bool) (s : State) : Host.Outcome State Fault Refusal :=
  .next (run s fun a m =>
    match m.power with
    | .off => m
    | .porHeld => if ampFail then { m with clk := { m.clk with trip := true } } else m
    | .run =>
      if m.clk.ampOff then m
      else
        let clean := m.countOk count && !ampFail
        let m := m.put F.CLK_MON_LAST (min count 511)
        let m := if m.clk.trimmed && !m.clk.coarse then m.put F.CLK_STATUS_MON_RANGE 1 else m
        if clean then m.cleanWindow count else m.badWindow a)

/-- XTAL_RETRY (R356): the next attempt starts, up to 16 in all. -/
def execXtalRetry (s : State) : Host.Outcome State Fault Refusal :=
  .next (run s fun _ m =>
    if m.alive && m.clk.ampOff && decide (m.clk.attempt < 16) then { m with clk := { m.clk with ampOff := false } } else m)

/-! ## Event crossings -/

/-- CROSSING_OVERRUN (R366): the event is lost. -/
def execCrossingOverrun (dom : Fin 102) (s : State) : Host.Outcome State Fault Refusal :=
  .next (run s fun _ m =>
    if m.alive then
      let k := dom.val / 32
      ((m.set F.CLK_OVR_OVR k (m.get F.CLK_OVR_OVR k ||| 2 ^ (dom.val % 32))).bump F.CLK_XING_OVERRUNS).raise 0x011 dom.val
    else m)

/-- CROSSING_TIMEOUT (R367): the crossing is reset. -/
def execCrossingTimeout (dom : Fin 102) (s : State) : Host.Outcome State Fault Refusal :=
  .next (run s fun _ m => if m.alive then (m.bump F.CLK_XING_TIMEOUTS).raise 0x012 dom.val else m)

/-! ## Clock gates -/

/-- The domains that are never gated (R368): MGMT, AON, PWR and ORB. -/
def neverGated (d : Nat) : Bool := d == 95 || d == 96 || d == 99 || d == 100

/-- GATE_REQUEST (R368): an idle count has expired. -/
def execGateRequest (dom : Fin 102) (s : State) : Host.Outcome State Fault Refusal :=
  .next (run s fun _ m =>
    if m.alive && m.is F.CLK_CFG_GATE_EN && !neverGated dom.val && !m.clk.gated.contains dom.val &&
        !m.clk.asked.contains dom.val then
      { m with clk := { m.clk with asked := m.clk.asked ++ [dom.val] } }
    else m)

/-- GATE_CLOSE (R368): the block acknowledges, and its gate closes. -/
def execGateClose (dom : Fin 102) (s : State) : Host.Outcome State Fault Refusal :=
  .next (run s fun _ m =>
    if m.clk.asked.contains dom.val then
      { m with clk := { m.clk with asked := m.clk.asked.filter fun d => d != dom.val, gated := m.clk.gated ++ [dom.val] } }
    else m)

/-- GATE_REFUSE (R369): the request is withdrawn and counted. -/
def execGateRefuse (dom : Fin 102) (s : State) : Host.Outcome State Fault Refusal :=
  .next (run s fun _ m =>
    if m.clk.asked.contains dom.val then
      { m with clk := { m.clk with asked := m.clk.asked.filter fun d => d != dom.val } }.bump F.CLK_GATE_REFUSE_COUNT
    else m)

/-- GATE_REOPEN (R370): a gated block runs again; a request that is pending is withdrawn and not counted. -/
def execGateReopen (dom : Fin 102) (s : State) : Host.Outcome State Fault Refusal :=
  .next (run s fun _ m =>
    { m with clk := { m.clk with asked := m.clk.asked.filter fun d => d != dom.val
                                 gated := m.clk.gated.filter fun d => d != dom.val } })

end Sys2Proof.Machine
end

