-- ==== Sys2Proof/Machine/Orbit.lean ====
section
/-!
DEFINITION. The orbit logic as shared operations (chapter 2): markers and frames, lock, loss, borrowing and rejoining, the
number and its steps, sleeps, and what happens at an orbit boundary (R416).
-/

namespace Sys2Proof.Machine

/-! ## States of `ORB_STATUS.STATE` -/

def osAcquire : Nat := 0
def osLocked : Nat := 1
def osFree : Nat := 2
def osBorrowed : Nat := 3

/-- The orbit state. -/
def Ctl.orbState (m : Ctl) : Nat := m.get F.ORB_STATUS_STATE

/-- Change the orbit logic. -/
def Ctl.modOrb (m : Ctl) (f : Orb → Orb) : Ctl := { m with orb := f m.orb }

/-- May a source be used under `ORB_CFG.SOURCE` (R55)? 0 is the beat input, 1 and 2 the peer links. -/
def Ctl.sourceOk (m : Ctl) (src : Nat) : Bool := m.get F.ORB_CFG_SOURCE == 3 || m.get F.ORB_CFG_SOURCE == src

/-- May a first lock step the phase now (R42)? A sleep is being left until W6 of R385, 900 us or 230 boundaries after the
wake (DESIGN CHOICE, log entry 129). -/
def Ctl.lockStep (m : Ctl) : Bool :=
  m.inMode [.fuseload, .selftest, .training, .factory] ||
    match m.orb.wakeBnd with | some w => decide (m.bnd < w + 230) | none => false

/-! ## Frames -/

/-- Number held by bits `lo` to `lo + n - 1` of a frame. -/
def frameNum (l : List Bool) (lo n : Nat) : Nat :=
  ((l.drop lo).take n).foldr (fun b acc => b2n b + 2 * acc) 0

/-- Is a list of bits an acceptable frame (R36, R37)? -/
def frameOk (l : List (Option Bool)) : Option (List Bool) :=
  let bs := l.filterMap id
  if l.length = 64 && bs.length = 64 && crc8 (bs.take 56) == frameNum bs 56 8 && frameNum bs 0 6 == 0 then some bs else none

/-- A sleep has ended with a number (R63, R64). Where the time slept is unknown, that counts as a step of the number. -/
def Ctl.slept (m : Ctl) (flags : Nat) : Ctl :=
  let d := (m.orbit + 281474976710656 - m.get F.ORB_SLEEP_AT % 281474976710656) % 281474976710656
  let unknown := decide (2 ^ 47 ≤ d) || bit flags 0 || m.orb.source != m.orb.sourceAt
  let m := (m.put F.ORB_SLEPT d).put F.ORB_SLEPT_HI_UNKNOWN (b2n unknown)
  let m := m.modOrb fun o => { o with first := false }
  if unknown then (((m.bump F.ORB_STEPS_STEPS).raise 0x061).discontinueAll).commitDiscontinuity else m

/-- Accept a frame that ends in the current orbit (R37, R38, R42, R53). Frames to come end 64 boundaries apart from it. -/
def Ctl.acceptFrame (m : Ctl) (bs : List Bool) : Ctl :=
  let n := (frameNum bs 0 48 + 63) % 2 ^ 48
  let flags := frameNum bs 48 8
  let m := (m.put F.ORB_STATUS_FLAGS flags).modOrb fun o => { o with synced := true, align := some (m.bnd % 64) }
  if !m.numValid then
    let m := (m.put F.ORB_NOW n).put F.ORB_STATUS_NUMBER_VALID 1
    let m := if m.orb.first then m.slept flags else m
    m.commitJudge
  else
    let d := (n + 281474976710656 - m.orbit) % 281474976710656
    if d = 0 then m.modOrb fun o => { o with diff := none }
    else if m.orb.diff = some d then m.modOrb fun o => { o with diff := none, step := some d }
    else m.modOrb fun o => { o with diff := some d }

/-- Record the bit of a marker, and accept or discard the frame that it ends (R36, R37). `last` tells whether the marker
is the last of its frame, where the source says so; else the latest accepted frame does. While no frame's start is
known every run of 64 markers is tried. A frame whose first markers came before the lock is not counted. -/
def Ctl.pushBit (m : Ctl) (b : Option Bool) (last : Option Bool) : Ctl :=
  let f := (m.orb.frame ++ [b])
  let f := f.drop (f.length - 64)
  let m := m.modOrb fun o => { o with frame := f }
  let ends := last.getD (m.orb.align == some (m.bnd % 64))
  match frameOk f with
  | some bs => if ends || !m.orb.synced then m.acceptFrame bs else m
  | none =>
    if !ends then m
    else
      let m := if f.length = 64 then m.bump F.ORB_EVENTS_BAD_FRAME else m
      m.modOrb fun o => { o with synced := false }

/-- The bit of a marker by its high time (R33). -/
def bitOf (highNs : Nat) : Option Bool :=
  if 120 ≤ highNs ∧ highNs ≤ 320 then some false else if 480 ≤ highNs ∧ highNs ≤ 800 then some true else none

/-! ## Beats to neighbours -/

/-- Send a BEAT frame for a marker on every UP link (R331, R56). OFFSET depends on when the pair leaves: a free value. -/
def Ctl.sendBeats (m : Ctl) (b : Option Bool) : Ctl :=
  let st := m.orbState
  if !(st == osLocked || st == osBorrowed) || (st == osBorrowed && decide (3 ≤ m.orb.hop)) then m
  else
    let code := match b with | some false => 0 | some true => 1 | none => 2
    let hop := if st = osLocked then 0 else m.orb.hop + 1
    let origin := if st = osLocked then m.serial else m.orb.origin
    [0, 1].foldl (fun m l =>
      if m.plUp l then
        let off := (Config.beatOffset m.free).toNat
        ({ m with free := m.free + 1 }).sendCtl l (8 + code * 2 ^ 16 + m.orbit % 64 * 2 ^ 18 + st * 2 ^ 24 + hop * 2 ^ 26 +
          off * 2 ^ 28 + origin * 2 ^ 44)
      else m) m

/-! ## Lock and rejoining

Edges are given by their offset in phases from the start of the current orbit as the stack predicts it. Over several orbits an
edge has a position: phases from boundary 0 of the model. -/

/-- When an edge at an offset from the start of the current orbit comes. -/
def Ctl.offTime (m : Ctl) (off : Int) : Nat := ((m.orbitAt : Int) + off * (m.orb.period : Int) / 4096).toNat

/-- The offset of a time from the start of the current orbit, to the nearest phase. -/
def Ctl.offOf (m : Ctl) (time : Nat) : Int :=
  (((time : Int) - (m.orbitAt : Int)) * 8192 + (m.orb.period : Int)) / (2 * (m.orb.period : Int))

/-- An offset brought into -2048 to 2047. -/
def wrapPhase (x : Int) : Int := (x + 2048) % 4096 - 2048

/-- The phase is locked to a source: 0 the beat, 1 and 2 the peer links. -/
def Ctl.locked (m : Ctl) (src : Nat) : Ctl :=
  let m := (m.put F.ORB_STATUS_PHASE_LOCKED 1).put F.ORB_STATUS_STATE (if src = 0 then osLocked else osBorrowed)
  let m := if src = 0 then m else m.put F.ORB_STATUS_BORROW_LINK (src - 1)
  m.modOrb fun o => { o with source := src, missed := 0, runs := [], slew := 0 }

/-- The orbit is to end at the next marker of a source, one period after an edge (R42, R52). -/
def Ctl.cutNext (m : Ctl) (src : Nat) (off : Int) : Ctl :=
  m.modOrb fun o => { o with source := src, cut := true, cutAt := m.offTime off + o.period, runs := [] }

/-- The run of edges of a source with one more at its end (R42, R52): an edge that does not come one period after the one
before, within 2 phases, begins a new run. -/
def Ctl.edgeRun (m : Ctl) (src : Nat) (off : Int) : List Int :=
  let pos := (m.bnd : Int) * 4096 + off
  match Sparse.getD m.orb.runs src [] with
  | e :: r => if (pos - e - 4096).natAbs ≤ 2 then pos :: e :: r else [pos]
  | [] => [pos]

/-- Mean offset of the four latest edges of a run from the stack's own boundaries (R52). -/
def meanOff : List Int → Int
  | [] => 0
  | e :: r => wrapPhase (e + (((e :: r).take 4).map fun x => wrapPhase (x - e)).sum / 4)

/-- Bring the phase to a source whose boundaries lie at an offset from the stack's own (R52): nothing, a slew, or an orbit
that ends at the next marker. -/
def Ctl.moveTo (m : Ctl) (src : Nat) (mean off : Int) : Ctl :=
  if mean = 0 then m.locked src
  else if mean.natAbs ≤ 64 then m.modOrb fun o => { o with source := src, slew := mean, runs := [] }
  else m.cutNext src off

/-- An edge of a source that the phase is not locked to (R42, R52). The sixteenth of a run locks the phase: by a step at the
next marker where `step`, else by R52. -/
def Ctl.edge (m : Ctl) (src : Nat) (off : Int) (step : Bool) : Ctl :=
  let es := m.edgeRun src off
  if es.length < 16 then m.modOrb fun o => { o with runs := Sparse.put o.runs src es }
  else
    let m := m.modOrb fun o => { o with frame := [], synced := false, missed := 0 }
    if step then m.cutNext src off else m.moveTo src (meanOff es) off

/-- Is the phase locked to a source, and neither slewed nor about to be stepped? -/
def Ctl.follows (m : Ctl) (src : Nat) : Bool :=
  (m.orbState == osLocked || m.orbState == osBorrowed) && m.orb.source == src && m.orb.slew == 0 && !m.orb.cut

/-- The marker of the current orbit has come: the orbit began with it (R32, R40), and with it the eclipse of die 0. The period
runs from the marker before it, where that came too. -/
def Ctl.follow (m : Ctl) (time : Nat) : Ctl :=
  let period := match m.orb.markAt with
    | some t => if t < time then time - t else m.orb.period
    | none => m.orb.period
  let late := fun (x : Die) => x.leadAt.isSome && !x.catchup && decide (x.ecl = some m.bnd)
  { (m.reach time).modDie 0 fun x => if late x then { x with leadAt := some time } else x with
    orbitAt := time
    orb := { m.orb with period := period, markAt := some time, seen := true, missed := 0 } }

/-- A marker of the source in use, in its window (R34): its bit is recorded and carried on (R331). A second edge in one window
is none. -/
def Ctl.inWindow (m : Ctl) (off : Int) (time : Nat) (b : Option Bool) (last : Option Bool) : Ctl :=
  if decide (off.natAbs ≤ 8) && !m.orb.seen then ((m.follow time).pushBit b last).sendBeats b else m

/-- Phases of a marker that link `l` carries: where the stack runs on that link, it is the marker of the current orbit if it falls
in its window (R54). -/
def Ctl.takeCarried (m : Ctl) (l : Nat) : Ctl :=
  if !m.orb.run || !m.follows (l + 1) then m
  else
    match (Sparse.getD m.orb.carried l []).find? fun c => decide ((m.offOf c.time).natAbs ≤ 8) with
    | some c =>
      (m.modOrb fun o => { o with hop := c.hop, origin := c.origin }).inWindow (m.offOf c.time) c.time c.val (some (c.k == 63))
    | none => m

/-- A marker that link `l` carries (R331, R56): it is kept, it is an edge towards a first lock where the link may be the source
(R42), and it may be the marker of the current orbit. In free orbit the phase never moves to a peer's beat (R57). -/
def Ctl.carriedMarker (m : Ctl) (l : Nat) (c : Carried) : Ctl :=
  let m := m.modOrb fun o => { o with carried := Sparse.put o.carried l ((c :: Sparse.getD o.carried l []).take 3) }
  if m.orb.run && m.sourceOk (l + 1) && m.orbState == osAcquire && m.orb.slew == 0 && !m.orb.cut then
    m.edge (l + 1) (m.offOf c.time) m.lockStep
  else m.takeCarried l

/-- Does link `l` carry an eligible beat now (R55, R56): one whose latest marker is not older than an orbit? -/
def Ctl.offers (m : Ctl) (l : Nat) : Bool :=
  match Sparse.getD m.orb.carried l [] with
  | c :: _ => m.plUp l && decide (m.now ≤ c.time + m.orb.period)
  | [] => false

/-- The link that a stack about to enter free orbit borrows from (R55). -/
def Ctl.borrowFrom (m : Ctl) : Option Nat :=
  if m.get F.ORB_CFG_SOURCE = 3 then [0, 1].find? fun l => m.offers l && m.orb.source != l + 1 else none

/-- Borrow the beat of a link. A phase further than a window from the carried one is brought to it as R52 brings it to a
returned beat (DESIGN CHOICE, log entry 130). -/
def Ctl.borrow (m : Ctl) (l : Nat) : Ctl :=
  let m := (m.locked (l + 1)).modOrb fun x => { x with synced := false, frame := [], markAt := none }
  match Sparse.getD m.orb.carried l [] with
  | [] => m
  | c :: _ =>
    let m := m.modOrb fun x => { x with hop := c.hop, origin := c.origin }
    let w := wrapPhase (m.offOf c.time)
    if w.natAbs ≤ 8 then m else m.moveTo (l + 1) w (if m.now < c.time then m.offOf c.time - 4096 else m.offOf c.time)

/-- A frame that is under way when its markers are lost is discarded and counted (R37). -/
def Ctl.cutFrame (m : Ctl) : Ctl :=
  match m.orb.align with
  | some k => if k = m.bnd % 64 then m else m.bump F.ORB_EVENTS_BAD_FRAME
  | none => m

/-- The markers of the source in use are lost (R35, R51, R55): borrow, or enter free orbit. -/
def Ctl.loseBeat (m : Ctl) : Ctl :=
  let m := m.cutFrame
  match m.borrowFrom with
  | some l => m.borrow l
  | none =>
    (((m.put F.ORB_STATUS_STATE osFree).put F.ORB_STATUS_PHASE_LOCKED 0).modOrb fun o =>
      { o with source := 3, missed := 0, runs := [], frame := [], synced := false, markAt := none }).raise 0x060

/-- A predicted marker is missing (R34, R35). -/
def Ctl.missing (m : Ctl) : Ctl :=
  if !m.orb.run || !m.follows m.orb.source || m.orb.seen then m
  else
    let m := ((m.bump F.ORB_EVENTS_MISSED).modOrb fun o => { o with seen := true, markAt := none }).pushBit none none
    let n := m.orb.missed + 1
    if n < 2 then m.modOrb fun o => { o with missed := n } else m.loseBeat

/-! ## The boundary -/

/-- The orbit number steps (R38, R39). -/
def Ctl.numberStep (m : Ctl) : Ctl :=
  match m.orb.step with
  | none => m
  | some d =>
    let m := (m.put F.ORB_NOW ((m.orbit + d) % 2 ^ 48)).modOrb fun o => { o with step := none }
    (((m.bump F.ORB_STEPS_STEPS).raise 0x061).discontinueAll).commitDiscontinuity

/-- Length of the orbit that ends, in ps: one phase more or less while the phase is slewed (R52). -/
def Ctl.orbitPs (m : Ctl) : Nat :=
  if m.orb.slew = 0 then m.orb.period
  else if 0 < m.orb.slew then m.orb.period * 4097 / 4096 else m.orb.period * 4095 / 4096

/-- A die at a boundary. Its transit is over. An eclipse that had not begun in its slot is not run (R52); that of die 0 begins
with the orbit. -/
def Die.atBoundary (x : Die) (d now : Nat) : Die :=
  let y := { x with transit := false }
  if decide (x.st = .cut) && !x.catchup then
    if d = 0 then { y with leadAt := some now } else { y with st := .quiet, leadAt := none }
  else y

/-- The phase at a boundary: a slewed orbit moves it one phase nearer, and an orbit that was to be cut ends (R52, R42). -/
def Ctl.phaseBoundary (m : Ctl) : Ctl :=
  let cut := m.orb.cut
  let m := m.reach (if cut then m.orb.cutAt else m.orbitAt + m.orbitPs)
  let m := { (List.range 16).foldl (fun m d => m.modDie d fun x => x.atBoundary d m.now) m with
    orbitAt := m.now
    orb := { m.orb with markAt := if m.orb.seen then m.orb.markAt else none, seen := false } }
  if cut then (m.modOrb fun o => { o with cut := false, markAt := none }).locked m.orb.source
  else if m.orb.slew = 0 then m
  else
    let s := if 0 < m.orb.slew then m.orb.slew - 1 else m.orb.slew + 1
    if s = 0 then m.locked m.orb.source else m.modOrb fun o => { o with slew := s }

/-- Every TEL register takes the value of its live count (R484). -/
def Ctl.telCapture (m : Ctl) (iavg : Nat) : Ctl :=
  let m := m.put F.TEL_ORBIT m.orbit
  let m := [F.TEL_PA_RD, F.TEL_PA_WR, F.TEL_PB_RD, F.TEL_PB_WR, F.TEL_SVC_RD, F.TEL_SVC_WR, F.TEL_ARR_RD,
    F.TEL_ARR_WR].zipIdx.foldl (fun m e => m.put e.1 (Sparse.getD m.tel e.2 0)) m
  let m := ((m.put F.TEL_LOAD_IAVG iavg).put F.TEL_LOAD_QMAX m.qmax.1).put F.TEL_LOAD_QPC m.qmax.2
  let level := (List.range 64).foldl (fun (b : Nat × Nat) p =>
    if b.1 < (m.pc p).queue.length then ((m.pc p).queue.length, p) else b) (0, 0)
  { m with qmax := level }

/-- Every calibrated trim moves one step towards its target (R460). The field `CAL_TRO_TRIM` follows its trim. -/
def Trim.walk (t : Trim) : Trim :=
  { t with cur := if t.cur < t.target then t.cur + 1 else if t.target < t.cur then t.cur - 1 else t.cur }

/-- Is a trim that of a TSV lane which a spare has replaced? It carries no traffic, and its trim no longer walks (R460, worked example
of chapter 19). -/
def Ctl.laneOut (m : Ctl) (key : Nat) : Bool :=
  key / 65536 == 3 && (m.pc (key % 65536 / 136)).tsv.lanes.any fun e => e.1 == key % 65536 % 136

/-- Count the whole orbits in which a port has received no good flit (R109). -/
def Ctl.countSilence (m : Ctl) (p : Port) : Ctl :=
  m.modPort p fun x => { x with silent := if m.link p == 2 then some (min 64 ((x.silent.map (· + 1)).getD 0)) else none }

/-- Leases, the absence count, WAIT_ORBIT counts, silent ports and the idle count at a boundary (R109, R262, R272, R274, R383). -/
def Ctl.countOrbit (m : Ctl) : Ctl :=
  let m := (m.countSilence .a).countSilence .b
  let m :=
    if m.leaseRuns then
      { m.notePresent with lease := m.lease - 1
                           absent := if m.portAbsent .a && m.portAbsent .b then m.absent + 1 else 0 }
    else m
  let tick := fun (d : Prog) => if d.op == 9 && d.armed then { d with count := d.count - 1 } else d
  let m := { m with rings := Sparse.mapD m.rings {} fun _ x => { x with prog := x.prog.map tick } }
  { m with idle := if m.inMode [.ready, .active] && m.entry.isNone && m.drowseQuiet && !m.worked then m.idle + 1 else 0
           worked := false }

/-- The roles of the mirror regions as an ID_BEACON carries them (R332). -/
def Ctl.roles (m : Ctl) : Nat :=
  ((List.range 16).map fun r => (if m.mirIs r 1 then 1 else if m.mirIs r 2 then 2 else 0) * 4 ^ r).sum

/-- Send an ID_BEACON on an UP link (R332). -/
def Ctl.sendId (m : Ctl) (l : Nat) : Ctl :=
  if m.plUp l then
    (m.sendCtl l (9 + m.serial * 2 ^ 16 + m.orbit * 2 ^ 80 + m.orbState * 2 ^ 128 + b2n m.numValid * 2 ^ 131 +
      b2n (m.orbState == osBorrowed && m.orb.source == l + 1) * 2 ^ 132 + m.roles * 2 ^ 133)).modLnk l fun x =>
        { x with sentOrbit := if m.numValid then some m.orbit else none }
  else m

/-- Send a DIG_BEACON on an UP link (R288, R334). -/
def Ctl.sendDig (m : Ctl) (l : Nat) : Ctl :=
  if m.plUp l && m.get F.CFG_GROUP_GROUP != 0 then
    let d := if m.is F.CFG_STATUS_DIGEST_BUSY then m.digestNew else m.get F.CFG_DIGEST
    (m.sendCtl l (10 + m.get F.CFG_GROUP_GROUP * 2 ^ 16 + d * 2 ^ 32 + m.orbit * 2 ^ 96)).modLnk l fun x =>
      { x with sentDig := some (d, m.orbit) }
  else m

/-- Beacons at a boundary, and the count of boundaries since a peer's ID_BEACON (R332 to R334). -/
def Ctl.beacons (m : Ctl) : Ctl :=
  [0, 1].foldl (fun m l =>
    let m := if m.plUp l then m.modLnk l fun x => { x with idAge := x.idAge + 1 } else m
    let m := if m.orbit % 64 = 0 then m.sendId l else m
    let m := if m.orbit % 1024 = 0 then m.sendDig l else m
    m.joins l false) m

/-- Rows of a pass (R205). -/
def passRows : Nat := 2117632

/-- Does the scrub walk run (R206)? -/
def Ctl.scrubRuns (m : Ctl) : Bool := m.inMode [.training, .ready, .active, .drowse]

/-- When row n of the pass is due, in boundaries passed (R206). -/
def Ctl.rowDue (m : Ctl) (n : Nat) : Nat := m.scrubBnd + n * m.get F.REP_SCRUB_INTERVAL_I

/-- Row starts of a scrubber that are behind, once the orbit of the latest one has passed (R209). -/
def Ctl.scrubBehind (m : Ctl) (pc : Nat) : Nat :=
  if m.dark pc then 0 else m.get F.REP_SCRUB_POS_STEP + 1 - (m.pc pc).scrubbed

/-- The orbit of the latest row start has just passed: a scrubber that comes to have more than 16 row starts behind is late
(R209). -/
def Ctl.scrubLate (m : Ctl) : Ctl :=
  if m.scrubRuns && m.bnd == m.rowDue (m.get F.REP_SCRUB_POS_STEP) + 1 then
    (List.range 64).foldl (fun m p =>
      if m.scrubBehind p = 17 then
        let q := walkRow (m.pc p).scrubbed
        m.raise 0x109 (infoPc p (m.physAddr p q.bank q.row 0) 0)
      else m) m
  else m

/-- ORBIT_BOUNDARY (R416): the phase and the number, then sample, hot state, throttle step, commit, I_now and C, and
reservations, in that order; then what counts boundaries. -/
def Ctl.boundary (m : Ctl) (a : Arr) (l : Sample) (iavg : Nat) : Ctl :=
  let m := m.phaseBoundary
  let m := { m.put F.ORB_NOW ((m.orbit + 1) % 2 ^ 48) with bnd := m.bnd + 1 }
  let m := m.numberStep
  let m := ((m.takeCarried 0).takeCarried 1).stepAges
  let m :=
    if m.is F.THM_STATUS_SAMPLED && (m.is F.THM_STATUS_FAST || m.orbit % 64 = 0) then m.takeSample a l
    else { m with sampleAge := m.sampleAge + 1 }
  if !m.orb.run then m
  else
    let m := (m.put F.ORB_HOTMAP_HOT (m.get F.THM_HOT_HOT)).hotNrefs.scrubLate
    let m := (m.stepWalk.commitBoundary).capacity.oversub
    let m := { m with trims := m.trims.map fun (e : Nat × Trim) => if m.laneOut e.1 then e else (e.1, e.2.walk) }
    let m := match Sparse.find m.trims (5 * 65536) with
      | some t => m.put F.CAL_TRO_TRIM t.cur.toNat
      | none => m
    m.countOrbit.beacons.telCapture iavg

/-! ## Dies -/

/-- Drop the pending speculative targets of a die that enters its eclipse span (R183). -/
def Ctl.dropTargetsOf (m : Ctl) (d : Nat) : Ctl :=
  let hit := fun (t : Target) => t.lines.any fun n => (m.lineAt n).bank / 16 == d
  (List.range 64).foldl (fun m p =>
    let gone := ((m.pc p).targets.filter hit).length
    if gone = 0 then m
    else (m.modPc p fun x => { x with targets := x.targets.filter fun t => !hit t }).bump F.CMT_CANCEL_COUNT 0 gone) m

/-- The open banks of a die in the order in which a flush lead closes them: those with a DIRTY entry first, the oldest first
(R152). -/
def Pc.openOn (x : Pc) (d : Nat) : List BankIx :=
  ((x.dirtyOf d).map (·.1)) ++
    (x.banks.filter fun e => e.1 / 16 == d && e.2.row.isSome && e.2.pce.st != .dirty).map (·.1)

/-- The flush lead in every PC from a time on (R152): DIRTY entries of the die are written back and its banks are precharged, each
as soon as its timing allows. -/
def Ctl.flushDie (m : Ctl) (a : Arr) (d t : Nat) : Ctl :=
  (List.range 64).foldl (fun m p => ((m.pc p).openOn d).foldl (fun m b => m.forceClose a p b t) m) m

/-- Forget the activation counts of a row index of a die, with the row of the spare and reserved sub-array that the same
refresh covers (R12, R156). A dark PC is not refreshed (R17). -/
def Ctl.refreshRow (m : Ctl) (d row : Nat) : Ctl :=
  { m with acts := m.acts.filter fun e =>
      m.dark (e.1 / 8272 / 16 % 64) ||
        !((e.1 / 8272 / 1024 == d) && (e.1 % 8272 == row || (decide (row < 80) && e.1 % 8272 == 8192 + row))) }

/-- Rows that a refresh in the hot or the normal form covers (R44). -/
def formRows (hot : Bool) : Nat := if hot then 2 else 1

/-- Refresh a die in the form of its eclipse: its counter advances and its debt falls (R44, R47, R58). -/
def Ctl.refreshDie (m : Ctl) (d : Nat) : Ctl :=
  let n := formRows (m.die d).hot
  let r := (m.die d).row
  let m := (List.range n).foldl (fun m k => m.refreshRow d ((r + k) % 8192)) m
  m.modDie d fun x => { x with row := (r + n) % 8192, debt := x.debt - n }

/-- Does a die hold data that the retention sequencer keeps (R58, R386, R403, R418)? One that waits for its fill has none yet. -/
def Ctl.dieKept (m : Ctl) (d : Nat) : Bool :=
  m.alive && !m.cutOff && !bit (m.get F.PWR_FILL_DIES) d &&
    (m.bistShort || !m.inMode [.powered, .fuseload]) && !(m.inMode [.crescent] && d != 0 && !bit (m.get F.PWR_KEEP_DIES) d)

/-- One credit interval of one die (R58, R394). -/
def Ctl.creditDie (m : Ctl) (d : Nat) : Ctl :=
  if !m.dieKept d then m
  else
    let m := m.modDie d fun x => { x with debt := x.debt + formRows (m.hotDie d) }
    if 8 ≤ (m.die d).debt then { m with lost := m.lost ||| 2 ^ d } else m

end Sys2Proof.Machine
end

