-- ==== Sys2Proof/Machine/OrbitTime.lean ====
section
/-!
DEFINITION. The meanings of the orbit-time commands (chapters 2 and 5): boundaries, samples, markers, eclipses, refresh
debt and catch-up eclipses.
-/

namespace Sys2Proof.Machine

/-- ORBIT_BOUNDARY (R416): an orbit begins, while the orbit logic runs (R62). -/
def execOrbitBoundary (sample : Sample) (iavg : BitVec 8) (s : State) : Host.Outcome State Fault Refusal :=
  .next (run s fun a m => if m.orb.run && m.alive then m.boundary a sample iavg.toNat else m)

/-- THERMAL_SAMPLE (R412, R505): a sample completes after the first one at the end of FUSELOAD. -/
def execThermalSample (sample : Sample) (s : State) : Host.Outcome State Fault Refusal :=
  .next (run s fun a m => if m.alive && m.is F.THM_STATUS_SAMPLED then m.takeSample a sample else m)

/-- BEAT_MARKER (R34, R42): a rising edge of the beat input while the phase is locked to it or has never been locked.
`offset` is its distance in phases from the start of the current orbit as the stack predicts it, so that the edge that opens an
orbit follows its ORBIT_BOUNDARY. -/
def execBeatMarker (offset : Int) (highNs : Nat) (s : State) : Host.Outcome State Fault Refusal :=
  .next (run s fun _ m =>
    if !m.orb.run || !m.sourceOk 0 then m
    else if m.follows 0 then m.inWindow offset (m.offTime offset) (bitOf highNs) none
    else if m.orbState == osAcquire && m.lockStep && !m.orb.cut && m.orb.slew == 0 then
      (m.reach (m.offTime offset)).edge 0 offset true
    else m)

/-- MISSING_MARKER (R34, R35). -/
def execMissingMarker (s : State) : Host.Outcome State Fault Refusal := .next (run s fun _ m => m.missing)

/-- BEAT_REJOIN (R52, R55): an edge of the beat input towards rejoining, in free orbit, in a late acquisition, or while
the beat is borrowed under AUTO. -/
def execBeatRejoin (offset : Int) (s : State) : Host.Outcome State Fault Refusal :=
  .next (run s fun _ m =>
    let st := m.orbState
    if m.orb.run && m.sourceOk 0 && m.orb.slew == 0 && !m.orb.cut &&
        (st == osFree || (st == osAcquire && !m.lockStep) || (st == osBorrowed && m.get F.ORB_CFG_SOURCE == 3)) then
      (m.reach (m.offTime offset)).edge 0 offset false
    else m)

/-! ## Eclipses -/

/-- The boundary count of the orbit in which a die's next scheduled eclipse falls: that of die 0 opens the next orbit. -/
def Ctl.eclOrbit (m : Ctl) (d : Nat) : Nat := if d = 0 then m.bnd + 1 else m.bnd

/-- WRITE_CUT_OFF (R151, R44): 20 phases before the die's flush lead, once in an orbit. Background operations on the die are
abandoned (R441), and the targets of dies that have entered their spans are gone (R183). -/
def execWriteCutOff (die : Fin 16) (s : State) : Host.Outcome State Fault Refusal :=
  .next (run s fun _ m =>
    let d := die.val
    let x := m.die d
    let lead := if d = 0 then 4096 else 256 * d
    if m.orb.run && x.st == .quiet && x.ecl != some (m.eclOrbit d) && decide (m.now ≤ m.phaseAt lead) then
      let m := (m.reach (m.phaseAt (lead - 20))).modDie d fun x =>
        { x with st := .cut, catchup := false, leadAt := some (m.phaseAt lead), ecl := some (m.eclOrbit d) }
      (List.range 64).foldl Ctl.pruneTargets (m.bgAbandon d)
    else m)

/-- FLUSH_LEAD (R152): at slot start, in the form of the die's hot state (R44, R46). -/
def execFlushLead (die : Fin 16) (s : State) : Host.Outcome State Fault Refusal :=
  .next (run s fun a m =>
    let d := die.val
    let x := m.die d
    if x.st == .cut && !x.catchup && x.ecl == some m.bnd then
      let m := m.reach (x.leadAt.getD m.now)
      let m := m.modDie d fun y => { y with st := .lead, hot := m.hotDie d }
      m.flushDie a d m.now
    else m)

/-- ECLIPSE_REFRESH (R44, R47, R58): the refresh command, 24 phases after the lead began. -/
def execEclipseRefresh (die : Fin 16) (s : State) : Host.Outcome State Fault Refusal :=
  .next (run s fun _ m =>
    let d := die.val
    let x := m.die d
    if x.st == .lead then
      let m := m.reach (x.leadAt.getD m.now + m.phasePs 24)
      (m.refreshDie d).modDie d fun y => { y with st := .refresh }
    else m)

/-- ECLIPSE_END (R44, R45, R48): the die is accessible. After a scheduled eclipse of normal form its transit begins, if its slot
still runs: an eclipse that a cut orbit left behind has none (R52). -/
def execEclipseEnd (die : Fin 16) (s : State) : Host.Outcome State Fault Refusal :=
  .next (run s fun _ m =>
    let d := die.val
    let x := m.die d
    if x.st == .refresh then
      let m := m.reach (x.leadAt.getD m.now + m.phasePs (if x.hot then 256 else 184))
      let open_ := !x.catchup && !x.hot && decide (256 * d + 184 ≤ m.phase) && decide (m.phase ≤ 256 * d + 255)
      m.modDie d fun y => { y with st := .quiet, catchup := false, leadAt := none, hot := false, transit := open_ }
    else m)

/-! ## Refresh debt -/

/-- RETENTION_CREDIT (R58, R394). -/
def execRetentionCredit (s : State) : Host.Outcome State Fault Refusal :=
  .next (run s fun _ m => (List.range 16).foldl Ctl.creditDie m)

/-- CATCHUP_ECLIPSE (R59, R153): a debt of 4 rows; the write cut-off applies at once. -/
def execCatchupEclipse (die : Fin 16) (s : State) : Host.Outcome State Fault Refusal :=
  .next (run s fun _ m =>
    let d := die.val
    let x := m.die d
    if x.st == .quiet && decide (4 ≤ x.debt) && m.dieKept d then
      let m := m.modDie d fun y => { y with st := .cut, catchup := true, transit := false, leadAt := none }
      (((m.bump F.ORB_CATCHUP_COUNT d).raise 0x062).dropTargetsOf d).bgAbandon d
    else m)

/-- Is anything of a PC under way on a die (R153): a read, speculative reads included, an exchange return or a page-code load? -/
def Pc.busyOn (x : Pc) (d : Nat) : Bool :=
  (x.flights.any fun f => f.bank / 16 == d) || (x.curd.any fun c => c.loc.bank / 16 == d && c.st != .filled) || x.banks.any fun e => e.1 / 16 == d && (!e.2.rets.isEmpty || e.2.pce.loading)

/-- CATCHUP_FLUSH_LEAD (R153, R152): once nothing is in flight on the die, the flush lead and the refresh run, from the next command
slot. -/
def execCatchupFlushLead (die : Fin 16) (s : State) : Host.Outcome State Fault Refusal :=
  .next (run s fun a m =>
    let d := die.val
    let x := m.die d
    if x.st == .cut && x.catchup && !(m.pcs.any fun e => e.2.busyOn d) then
      let t := m.now + m.slotPs
      let m := (m.reach t).modDie d fun y => { y with st := .lead, hot := m.hotDie d, leadAt := some t }
      let m := m.flushDie a d t
      (m.refreshDie d).modDie d fun y => { y with st := .refresh }
    else m)

end Sys2Proof.Machine
end

