-- ==== Sys2Proof/Machine/Startup.lean ====
section
/-!
DEFINITION. The meanings of the start-up commands (chapters 16, 18 and 19): the fuse sense, the units of power-on BIST and
TSV training; the end of a factory wipe.
-/

namespace Sys2Proof.Machine

/-! ## FUSELOAD -/

/-- SELFTEST entry: its units start anew, or a latched factory request starts the wipe (R457). -/
def Ctl.enterSelftest (m : Ctl) : Ctl :=
  let m := { m.setMode .selftest with bistNext := 0 }
  if m.factoryReq then m.put F.BIST_STATUS_WIPING 1 else m

/-- FUSE_SENSE (R423, R437, R458, R505): the fuses are sensed and the F fields loaded; after a power-on reset the
persistent repairs are installed. The first sample completes, and the mode becomes SELFTEST. -/
def execFuseSense (fx : SenseFx) (sample : Sample) (s : State) : Host.Outcome State Fault Refusal :=
  .next (run s fun a m =>
    let m := m.leavePowered
    if m.inMode [.fuseload] then
      let m := (m.sense fx).senseTrims
      let m := if m.bistShort then m else m.applyRecords
      let m := m.takeSample a sample
      if m.inMode [.fuseload] then m.enterSelftest else m
    else m)

/-! ## SELFTEST -/

/-- INFO of `FS_BIST_UNIT` (R470). -/
def bistInfo (unit pc lane : Nat) : Nat := unit + pc * 2 ^ 8 + lane * 2 ^ 14

/-- The golden signature words of a privileged unit (R448): do they fail, or are they blank (R449)? -/
def Ctl.goldenBad (m : Ctl) (v : Nat) : Bool :=
  m.wordFailed (96 + 2 * v) || m.wordFailed (97 + 2 * v) || m.senseOf (96 + 2 * v) == 0 || m.senseOf (97 + 2 * v) == 0

/-- Unit 0 (R448, R449): `sigFail` are the units whose signature differs from the golden value. -/
def Ctl.bistSig (m : Ctl) (sigFail : BitVec 6) : Ctl :=
  let ok := fun (v : Nat) => !sigFail.getLsbD v && !m.goldenBad v
  let pass := ((List.range 6).map fun v => b2n (ok v) * 2 ^ v).sum
  let m := m.put F.BIST_SIG_PASS pass
  if pass = 63 then m else { (m.raise 0x071) with bistFatal := m.bistFatal || !m.inMode [.factory] }

/-- Is a failure one that a unit of this number can find? -/
def bistFinds (unit : Nat) (f : BistFail) : Bool :=
  match f with
  | .tsv _ _ => unit == 3
  | .spareRow _ _ _ _ => unit == 5
  | .cellarWord _ _ _ _ => unit == 6
  | .engine _ => unit == 1
  | _ => unit == 1 || unit == 2

/-- Handle one failure (R446). -/
def Ctl.bistFailure (m : Ctl) (unit : Nat) (f : BistFail) : Ctl :=
  match f with
  | .pcElement p => (m.raise 0x070 (bistInfo unit p.val 0)).goDark p.val
  | .portElement p => { m.raise 0x070 (bistInfo unit 0 0) with deadUnits := m.deadUnits ++ [p.idx] }
  | .linkElement l => { m.raise 0x070 (bistInfo unit 0 0) with deadUnits := m.deadUnits ++ [2 + l.idx] }
  | .svcElement => { m.raise 0x070 (bistInfo unit 0 0) with deadUnits := m.deadUnits ++ [4] }
  | .engine e => { m.raise 0x070 (bistInfo unit 0 0) with deadEngines := m.deadEngines ++ [e.val] }
  | .otherElement => { m.raise 0x070 (bistInfo unit 0 0) with bistFatal := true }
  | .tsv p e =>
    let lane := match e with | .lane n => n.val | _ => 0
    (m.raise 0x070 (bistInfo unit p.val lane)).tsvFault p.val e
  | .spareRow p d b k =>
    { m.raise 0x070 (bistInfo unit p.val 0) with
      deadSpares := m.deadSpares ++ [{ pc := p.val, bank := d.val * 16 + b.val, spare := k.val }] }
  | .cellarWord p b row w =>
    (m.raise 0x070 (bistInfo unit p.val 0)).hardFault p.val { bank := b.val, row := 8208 + row.val, word := w.val } 0

/-- Is a failure neither repaired nor contained, so that the outcome is FAIL? -/
def Ctl.bistOpen (m : Ctl) (f : BistFail) : Bool :=
  match f with
  | .otherElement => true
  | .cellarWord p b row w => (m.pc p.val).unrep.contains { bank := b.val, row := 8208 + row.val, word := w.val }
  | _ => false

/-- Coverage of a unit in 0.1 % (R444, R447): the stuck-at figure for unit 1, 0 where the table gives none. -/
def bistCoverage (unit : Nat) (short : Bool) : Nat :=
  match unit with
  | 0 | 2 | 3 | 5 => 1000
  | 1 => if short then 900 else 985
  | 4 => 1000
  | _ => 0

/-- TRAINING entry (R402, R446, R449): held faults take their reactions, or the stack goes to QUARANTINE. -/
def Ctl.enterTraining (m : Ctl) (a : Arr) : Ctl :=
  if m.bistFatal then m.quarantine a 2 else (m.setMode .training).applyHeld

/-- After the last unit: the cellar may be written after a power-on reset (R471), and TRAINING follows. -/
def Ctl.bistEnd (m : Ctl) (a : Arr) : Ctl :=
  let m := m.put F.BIST_STATUS_DONE 1
  let m := if m.bistShort then m else { m with cellarOk := true }
  m.enterTraining a

/-- The whole array becomes zeros with valid codes (R401), and remap spares with it. -/
def Ctl.wipeAll (m : Ctl) : Ctl :=
  { m.edit (.wipe 0 (16 * 64 * 16 * 8272)) with
    pcs := Sparse.mapD m.pcs {} fun _ x =>
      { x with spares := x.spares.map fun e => (e.1, { e.2 with data := 0, err := 0, poison := false }) } }

/-- Unit 2 re-initialises the row of a march that a chip reset cut off (R453). -/
def Ctl.reinitNamed (m : Ctl) : Ctl :=
  if m.is F.BIST_FIELD_CUR_ACTIVE && m.get F.BIST_FIELD_CUR_KIND == 2 then
    m.edit (marchWipe (m.get F.BIST_FIELD_CUR_PC) (m.get F.BIST_FIELD_CUR_DIE * 16 + m.get F.BIST_FIELD_CUR_BANK)
      (m.get F.BIST_FIELD_CUR_ROW))
  else m

/-- POWER_ON_BIST (R444 to R449): one unit ends, in order; a SELFTEST after a chip reset runs units 0 to 2 only. -/
def execPowerOnBist (unit : Fin 7) (sigFail : BitVec 6) (fails : List BistFail) (us : Nat) (s : State) :
    Host.Outcome State Fault Refusal :=
  .next (run s fun a m =>
    let u := unit.val
    if m.inMode [.selftest] && m.bistNext = u && !m.is F.BIST_STATUS_WIPING then
      let mine := fails.filter (bistFinds u)
      let m := if u = 0 then m.bistSig sigFail else m
      let m := if u = 4 then m.wipeAll else m
      let m := if u = 2 then m.reinitNamed else m
      let m := mine.foldl (fun m f => m.bistFailure u f) m
      let clean := mine.isEmpty && (u != 0 || m.get F.BIST_SIG_PASS == 63)
      let outcome := if clean then 1 else if u = 0 || mine.any m.bistOpen then 3 else 2
      let m := ((m.set F.BIST_UNIT_OUTCOME u outcome).set F.BIST_UNIT_COVERAGE u (bistCoverage u m.bistShort)).set
        F.BIST_UNIT_DURATION u (min us (2 ^ 20 - 1))
      let m := { m with bistNext := u + 1 }
      if u = 6 || (m.bistShort && u = 2) then m.bistEnd a else m
    else m)

/-- Clear every SRAM that may hold customer data (R457 step 1). -/
def Ctl.wipeSram (m : Ctl) : Ctl :=
  { m with
    flds := m.flds.filter fun e => !isSesKey e.1
    sesPend := []
    pa := {}, pb := {}
    pcs := Sparse.mapD m.pcs {} fun _ x => { x with curd := [], targets := [], banks := [], ingress := [], queue := [], flights := [] }
    rings := Sparse.mapD m.rings {} fun _ x => { x with pre := [] } }

/-- WIPE_COMPLETE (R457): SRAM has been cleared and the array written, and the stack enters FACTORY. -/
def execWipeComplete (s : State) : Host.Outcome State Fault Refusal :=
  .next (run s fun _ m =>
    if m.inMode [.selftest] && m.is F.BIST_STATUS_WIPING then
      let m := m.wipeSram.wipeAll
      { (m.put F.BIST_STATUS_WIPING 0).setMode .factory with factoryReq := false }
    else m)

/-! ## TRAINING -/

/-- A PC whose bundle holds an unrepaired failure takes the mode that the ladder gives it (R15, R16). -/
def Ctl.retrainPc (m : Ctl) (pc : Nat) : Ctl :=
  let t := (m.pc pc).tsv
  if t.dead then m.goDark pc
  else
    match t.badHalf with
    | [h] => if m.narrow pc then m else m.goNarrow pc (1 - h)
    | _ => m

/-- Write back the page-code entries that a chip reset held, and bring the suspect list within its 32 rows (R164, R393, R408). -/
def Ctl.writeHeld (m : Ctl) (a : Arr) : Ctl :=
  (List.range 64).foldl (fun m p =>
    ((m.flushCache p false).modPc p fun x => { x with banks := [], hist := [] }).trimSuspects a p) m

/-- What T4 of R408 does after a chip reset (R394, R398, R409, R471). -/
def Ctl.afterChipReset (m : Ctl) (a : Arr) : Ctl :=
  let m := ((m.writeHeld a).setRetain 1 0xFFFF).put F.RETAIN_STATUS_SES 2
  let m := m.markFill (m.lost % 65536)
  if bit m.lost 0 then
    (m.bump F.FLT_LOG_LOST_COUNT 0 (m.get F.FLT_OVF_STATUS_COUNT)).put F.FLT_OVF_STATUS_COUNT 0
  else { m with cellarOk := true }

/-- A host port that reached T6 before READY comes up (R404). -/
def Ctl.heldPortUp (m : Ctl) (p : Port) : Ctl :=
  if m.link p = 1 && m.get F.PA_STATUS_GROUPS p.idx != 0 then m.set F.PA_STATUS_LINK p.idx 2 else m

/-- A peer link that reached T4 before READY comes up, and sends its ID_BEACON (R332, R404). -/
def Ctl.heldLinkUp (m : Ctl) (l : Nat) : Ctl :=
  if m.get F.PL_PHY_STATUS_STATE l = 1 && (m.lnk l).trained then ((m.set F.PL_PHY_STATUS_STATE l 2).set F.PL_PHY_STATUS_STEP l 0).sendId l else m

/-- TSV_TRAINING (R400, R404, R406): every PC is trained, the mode becomes READY, and ACTIVE where a link is up. `fails`
and `droop` are what training measures. -/
def execTsvTraining (fails : List (Fin 64 × TsvElem)) (droop : List (Fin 64 × Fin 4)) (s : State) :
    Host.Outcome State Fault Refusal :=
  .next (run s fun a m =>
    if m.inMode [.training] then
      let m := (List.range 64).foldl Ctl.retrainPc m
      let m := fails.foldl (fun m e => m.tsvFault e.1.val e.2) m
      let m := droop.foldl Ctl.measureDrop m
      let m := if m.bistShort then m.afterChipReset a else m
      let m := { m.setMode .ready with absent := 0, lost := 0 }
      ((((m.heldPortUp .a).heldPortUp .b).heldLinkUp 0).heldLinkUp 1).readyOrActive
    else m)

end Sys2Proof.Machine
end

