-- ==== Sys2Proof/Machine/HostPort.lean ====
section
/-!
DEFINITION. The meanings of the host-port commands (chapters 3 and 4): control flits and periods, replay and recovery,
training, lane health, idle and wake, and the request headers.
-/

namespace Sys2Proof.Machine

/-! ## Flits -/

/-- CONTROL_FLIT (R68, R80, R87): one downstream period of a group, with its four raw data slots. -/
def execControlFlit (p : Port) (g : Fin 16) (flit : BitVec 512) (slots : List (BitVec 512)) (s : State) :
    Host.Outcome State Fault Refusal :=
  if slots.length = 4 then .next (run s fun _ m => m.controlFlit p g.val flit.toNat (slots.map BitVec.toNat))
  else .refused (.illFormed "CONTROL_FLIT")

/-- CONTROL_PERIOD (R68). -/
def execControlPeriod (p : Port) (s : State) : Host.Outcome State Fault Refusal :=
  .next (run s fun _ m => m.controlPeriod p)

/-- REPLAY (R90, R91). -/
def execReplay (p : Port) (g : Fin 16) (s : State) : Host.Outcome State Fault Refusal :=
  .next (run s fun _ m => m.replay p g.val)

/-- GROUP_RECOVERY (R92 to R94): `trained` are the lanes that fell short at T4, where T6 was reached. -/
def execGroupRecovery (p : Port) (g : Fin 16) (hostE : BitVec 12) (trained : Option (List (Dir × LaneKind × Fin 64)))
    (s : State) : Host.Outcome State Fault Refusal :=
  .next (run s fun _ m => m.groupRecovery p g.val hostE.toNat trained)

/-- FORWARDED_CLOCK_FAIL (R100): the pair is disabled. -/
def execForwardedClockFail (p : Port) (g : Fin 16) (s : State) : Host.Outcome State Fault Refusal :=
  .next (run s fun _ m => if m.linkUp p && m.grpOn p g.val then m.disablePair p g.val else m)

/-! ## Training and side band -/

/-- PORT_TRAINING (R101): `HOSTPRES` has been high for 1 us. -/
def execPortTraining (p : Port) (r : PortTrain) (s : State) : Host.Outcome State Fault Refusal :=
  .next (run s fun _ m =>
    if m.alive then
      let m := m.set F.PA_SIDEBAND_HOSTPRES p.idx 1
      (if m.mayTrain p then (m.portTrain p r).notePresent else m).notePresent
    else m)

/-- PORT_TRAIN_RETRY (R101): a port that reached no T6 trains again. -/
def execPortTrainRetry (p : Port) (r : PortTrain) (s : State) : Host.Outcome State Fault Refusal :=
  .next (run s fun _ m =>
    if m.is F.PA_SIDEBAND_HOSTPRES p.idx && (m.port p).retry && m.mayTrain p then (m.portTrain p r).notePresent else m)

/-- URG_LEVEL (R104, R105): `level` is one that two consecutive samples of `URG` agree on. -/
def execUrgLevel (p : Port) (level : BitVec 2) (s : State) : Host.Outcome State Fault Refusal :=
  .next (run s fun _ m =>
    if m.alive && m.is F.PA_SIDEBAND_HOSTPRES p.idx then m.set F.PA_SIDEBAND_URG p.idx level.toNat else m)

/-! ## Lanes -/

/-- EYE_MEASUREMENT (R95, R96). -/
def execEyeMeasurement (p : Port) (g : Fin 16) (lane : Fin 82) (h v : BitVec 6) (s : State) :
    Host.Outcome State Fault Refusal :=
  .next (run s fun _ m => m.eye p g.val lane.val h.toNat v.toNat)

/-- SPARE_SWITCH (R96). -/
def execSpareSwitch (p : Port) (g : Fin 16) (k : LaneKind) (s : State) : Host.Outcome State Fault Refusal :=
  .next (run s fun _ m => m.spareSwitch p g.val k)

/-- SPARE_DATA (R98, R99). -/
def execSpareData (p : Port) (g : Fin 16) (lane : BitVec 8) (s : State) : Host.Outcome State Fault Refusal :=
  .next (run s fun _ m => m.linkctlFlit p g.val (1 + lane.toNat * 2 ^ 8))

/-- SPARE_CTRL (R98, R99). -/
def execSpareCtrl (p : Port) (g : Fin 16) (lane : BitVec 8) (s : State) : Host.Outcome State Fault Refusal :=
  .next (run s fun _ m => m.linkctlFlit p g.val (2 + lane.toNat * 2 ^ 8))

/-! ## Idle and wake -/

/-- LINK_IDLE from the host (R106, R506). -/
def execLinkIdle (p : Port) (g : Fin 16) (s : State) : Host.Outcome State Fault Refusal :=
  .next (run s fun _ m => m.linkctlFlit p g.val 3)

/-- LINK_IDLE_SEND (R507): after 64 quiet periods with the downstream direction idle. -/
def execLinkIdleSend (p : Port) (g : Fin 16) (s : State) : Host.Outcome State Fault Refusal :=
  .next (run s fun _ m =>
    let x := m.grp p g.val
    if m.linkUp p && m.grpOn p g.val && !x.txIdle && decide (64 ≤ x.quiet) && m.mayIdle p g.val then
      m.modGrp p g.val fun x => { x with up := [.linkctl 3 0], quiet := 0 }
    else m)

/-- The stack's transmitter on a pair may return to idle without a LINK_IDLE: it resumed only to acknowledge, nothing waits, and it has
sent 64 periods with its current ACK, or one where the host's direction has gone idle (R506). -/
def Ctl.mayReturn (m : Ctl) (p : Port) (g : Nat) : Bool :=
  let x := m.grp p g
  !x.txIdle && !m.upWaits p g &&
    match x.ackOnly with
    | some n => decide (64 ≤ n) || (x.rxIdle && decide (1 ≤ n))
    | none => false

/-- TRANSMITTER_RETURN_TO_IDLE (R506): the stack's transmitter on a pair, or the host's, that resumed only to acknowledge. -/
def execTransmitterReturnToIdle (p : Port) (g : Fin 16 × Dir) (s : State) : Host.Outcome State Fault Refusal :=
  .next (run s fun _ m =>
    match g.2 with
    | .up => if m.mayReturn p g.1.val then m.upIdle p g.1.val else m
    | .down =>
      if m.linkUp p && m.grpOn p g.1.val && (m.grp p g.1.val).rxAck then
        (m.modGrp p g.1.val fun x => { x with rxIdle := true, rxAck := false }).relink p
      else m)

/-- WAKE_PATTERN (R107, R389, R506): a wake pattern or sustained toggling on the forwarded clock lanes of a group. -/
def execWakePattern (g : Port × Fin 16) (s : State) : Host.Outcome State Fault Refusal :=
  .next (run s fun _ m => if m.alive then (m.wakeGroup g.1 g.2.val).wakeUp (portWake g.1) else m)

/-- Is the downstream direction of a port not idle (R106)? -/
def Ctl.downActive (m : Ctl) (p : Port) : Bool := (List.range 16).any fun g => m.grpOn p g && !(m.grp p g).rxIdle

/-- Does a cause of partner loss hold for a port (R104, R109)? -/
def Ctl.partnerGone (m : Ctl) (p : Port) : PartnerCause → Bool
  | .hostpresLow => m.is F.PA_SIDEBAND_HOSTPRES p.idx && (m.linkUp p || m.link p == 1)
  | .clockLoss => (m.linkUp p || m.link p == 1) && m.downActive p
  | .silence => m.link p == 2 && m.downActive p && decide (64 ≤ (m.port p).silent.getD 0)

/-- PARTNER_LOSS (R104, R109, R110). `HOSTPRES` that falls while the link is DOWN or LOST only makes the port absent. -/
def execPartnerLoss (p : Port) (cause : PartnerCause) (s : State) : Host.Outcome State Fault Refusal :=
  .next (run s fun _ m =>
    if m.alive then
      let m' := if m.partnerGone p cause then
          m.partnerLost p (match cause with | .hostpresLow => 1 | .clockLoss => 2 | .silence => 3)
        else m
      if cause = .hostpresLow then m'.set F.PA_SIDEBAND_HOSTPRES p.idx 0 else m'
    else m)

/-! ## Requests -/

/-- READ (R113). -/
def execRead (p : Port) (g : Fin 16) (tag : BitVec 14) (session : BitVec 18) (addr : BitVec 37) (size : ReqSize) (s : State) :
    Host.Outcome State Fault Refusal :=
  .next (run s fun _ m =>
    m.header p g.val (userHeader 0 size tag.toNat session.toNat addr.toNat) none none)

/-- WRITE (R113). Its payload is as long as its SIZE says. -/
def execWrite (p : Port) (g : Fin 16) (tag : BitVec 14) (session : BitVec 18) (addr : BitVec 37) (size : ReqSize)
    (data : List Byte) (s : State) : Host.Outcome State Fault Refusal :=
  if data.length = size.bytes then
    .next (run s fun _ m =>
      m.header p g.val (userHeader 1 size tag.toNat session.toNat addr.toNat) (some data) none)
  else .refused (.illFormed "WRITE")

/-- WRITE_MASKED (R116). -/
def execWriteMasked (p : Port) (g : Fin 16) (tag : BitVec 14) (session : BitVec 18) (addr : BitVec 37) (size : ReqSize)
    (be : Option (BitVec 64)) (data : List Byte) (s : State) : Host.Outcome State Fault Refusal :=
  if data.length = size.bytes then
    .next (run s fun _ m =>
      m.header p g.val (userHeader 2 size tag.toNat session.toNat addr.toNat) (some data) (be.map BitVec.toNat))
  else .refused (.illFormed "WRITE_MASKED")

/-- FENCE (R133). -/
def execFence (p : Port) (g : Fin 16) (tag : BitVec 14) (s : State) : Host.Outcome State Fault Refusal :=
  .next (run s fun _ m => m.header p g.val (configHeader 3 tag.toNat 0 0 0) none none)

/-- CONFIG_READ (R118). -/
def execConfigRead (p : Port) (g : Fin 16) (tag : BitVec 14) (session : BitVec 18) (caddr : BitVec 24) (s : State) :
    Host.Outcome State Fault Refusal :=
  .next (run s fun _ m => m.header p g.val (configHeader 4 tag.toNat session.toNat caddr.toNat 0) none none)

/-- CONFIG_WRITE (R118). -/
def execConfigWrite (p : Port) (g : Fin 16) (tag : BitVec 14) (session : BitVec 18) (caddr : BitVec 24) (data : BitVec 32)
    (s : State) : Host.Outcome State Fault Refusal :=
  .next (run s fun _ m => m.header p g.val (configHeader 5 tag.toNat session.toNat caddr.toNat data.toNat) none none)

/-- DOORBELL (R119). -/
def execDoorbell (p : Port) (g : Fin 16) (tag : BitVec 14) (session : BitVec 18) (caddr : BitVec 24) (data : BitVec 32)
    (s : State) : Host.Outcome State Fault Refusal :=
  .next (run s fun _ m => m.header p g.val (configHeader 6 tag.toNat session.toNat caddr.toNat data.toNat) none none)

end Sys2Proof.Machine
end

