-- ==== Sys2Proof/Machine/Bus.lean ====
section
/-!
DEFINITION. Accesses of a master to config space as the config commands make them (chapters 10 and 21): the address of a
register copy, a write, and a read whose value is answered.
-/

namespace Sys2Proof.Machine

/-- Offset of copy `i` of a register, outermost dimension first. -/
def copyOffset : List (Nat × Nat) → Nat → Nat
  | [], _ => 0
  | (_, stride) :: r, i =>
    let n := (r.map (·.1)).foldl (· * ·) 1
    stride * (i / n) + copyOffset r (i % n)

/-- Address of copy `i` of a register. -/
def RegDef.addr (d : RegDef) (i : Nat) : Nat := d.base + copyOffset d.dims i

/-- A write of one register by a master. An access in an unassigned range, or one that is not aligned, is dropped (R30,
R118); a service-host write that ownership drops is shown in `SVC_ERR` (R337). -/
def Ctl.masterWrite (m : Ctl) (a : Arr) (x : Master) (addr v : Nat) : Ctl :=
  if !m.alive || addr % 4 != 0 || configGap addr 4 then m
  else
    let r := m.regWrite a x addr v
    match x with
    | .svc => r.2.bar0Done r.1
    | _ => r.2

/-- A read of one register by a master: the value is what the access returns. -/
def Ctl.masterRead (m : Ctl) (x : Master) (addr : Nat) : Ctl :=
  if !m.alive || addr % 4 != 0 || configGap addr 4 then m
  else
    let r := m.regRead { master := x } addr
    r.2.emit (.value r.1)

end Sys2Proof.Machine
end

