-- ==== Sys2Proof/Machine/Channel.lean ====
section
/-!
DEFINITION. The meanings of the channel commands (chapters 1, 5, 6, 7 and 18): queue entry, command slots and the returns
of column commands, disturbance, TSV faults, block resets, repair and scrubbing.
-/

namespace Sys2Proof.Machine

/-- INGRESS_ENTRY (R140, R227, R230). -/
def execIngressEntry (pc : Fin 64) (s : State) : Host.Outcome State Fault Refusal :=
  .next (run s fun _ m => m.ingressEntry pc.val)

/-- HOLD_MAX_EXPIRY (R230). -/
def execHoldMaxExpiry (pc : Fin 64) (s : State) : Host.Outcome State Fault Refusal :=
  .next (run s fun _ m => m.holdExpiry pc.val)

/-- COMMAND_SLOT (R141). `noise` is what was upset since the stack last looked. -/
def execCommandSlot (pc : Fin 64) (noise : Noise) (s : State) : Host.Outcome State Fault Refusal :=
  .next (run s fun a m => (m.noise a noise).commandSlot a pc.val)

/-- READ_DATA (R192). -/
def execReadData (pc : Fin 64) (s : State) : Host.Outcome State Fault Refusal :=
  .next (run s fun _ m => m.readData pc.val)

/-- EXCHANGE_RETURN (R145, R149). -/
def execExchangeReturn (pc : Fin 64) (noise : Noise) (s : State) : Host.Outcome State Fault Refusal :=
  .next (run s fun a m => (m.noise a noise).exchangeReturn a pc.val)

/-- PAGE_CODE_LOAD_RETURN (R147). -/
def execPageCodeLoadReturn (pc : Fin 64) (s : State) : Host.Outcome State Fault Refusal :=
  .next (run s fun a m => m.loadReturn a pc.val)

/-- SPECULATIVE_DATA_ARRIVAL (R182). -/
def execSpeculativeDataArrival (pc : Fin 64) (s : State) : Host.Outcome State Fault Refusal :=
  .next (run s fun _ m => m.specArrival pc.val)

/-- PAGE_REBUILD (R193, R194). -/
def execPageRebuild (pc : Fin 64) (noise : Noise) (s : State) : Host.Outcome State Fault Refusal :=
  .next (run s fun a m => (m.noise a noise).pageRebuildDone a pc.val)

/-- Do a PC's dies and sequencer work, so that alerts and monitors can fire? -/
def Ctl.pcLive (m : Ctl) (pc : Nat) : Bool :=
  m.inMode [.selftest, .training, .ready, .active, .drowse, .factory] && !m.dark pc

/-- ACTIVATION_ALERT (R156 to R159). -/
def execActivationAlert (pc : Fin 64) (die : Fin 16) (group bank : Fin 4) (row : Fin 8272) (s : State) :
    Host.Outcome State Fault Refusal :=
  .next (run s fun _ m =>
    if m.pcLive pc.val then m.alert pc.val (die.val * 16 + (group.val * 4 + bank.val)) row.val else m)

/-- NREF_COMPLETE (R157). -/
def execNrefComplete (pc : Fin 64) (die bank : Fin 16) (row : Fin 8272) (s : State) : Host.Outcome State Fault Refusal :=
  .next (run s fun _ m => m.nrefDone pc.val (die.val * 16 + bank.val) row.val)

/-- IR_DROP_STEP (R162). -/
def execIrDropStep (pc : Fin 64) (s : State) : Host.Outcome State Fault Refusal :=
  .next (run s fun _ m => if m.pcLive pc.val then m.irStep pc.val else m)

/-- TSV_FAULT (R15, R16). -/
def execTsvFault (pc : Fin 64) (e : TsvElem) (s : State) : Host.Outcome State Fault Refusal :=
  .next (run s fun _ m => if m.pcLive pc.val then m.tsvFault pc.val e else m)

/-! ## Block resets -/

/-- CH_CTRL_RESET (R163, R276). -/
def execChCtrlReset (x : Master) (pc : Fin 64) (value : BitVec 32) (s : State) : Host.Outcome State Fault Refusal :=
  .next (run s fun a m => m.masterWrite a x (D.CH_CTRL.addr pc.val) value.toNat)

/-- PC_BLOCK_RESET (R163): T1 to T6 of the reset under way; `fails` are what retraining finds. -/
def execPcBlockReset (pc : Fin 64) (fails : List TsvElem) (s : State) : Host.Outcome State Fault Refusal :=
  .next (run s fun a m => m.blockResetRun a pc.val fails)

/-- HELD_TIMEOUT (R165). -/
def execHeldTimeout (pc : Fin 64) (s : State) : Host.Outcome State Fault Refusal :=
  .next (run s fun _ m => m.heldTimeout pc.val)

/-! ## Repair -/

/-- READ_CORRECT_WRITE (R198): `verify` are the cells that flip between the rewrite and the verify read. -/
def execReadCorrectWrite (pc : Fin 64) (noise verify : Noise) (s : State) : Host.Outcome State Fault Refusal :=
  .next (run s fun a m => if m.pcRuns pc.val then (m.noise a noise).readCorrectWrite a pc.val verify else m)

/-- ROW_SPARE_COPY (R441). -/
def execRowSpareCopy (pc : Fin 64) (noise : Noise) (s : State) : Host.Outcome State Fault Refusal :=
  .next (run s fun a m => if m.pcRuns pc.val then (m.noise a noise).rowSpareCopy a pc.val else m)

/-! ## Scrubbing -/

/-- SCRUB_PASS_START (R206): a pass ends I × 2,117,632 orbits after it began, and the next begins. -/
def execScrubPassStart (s : State) : Host.Outcome State Fault Refusal :=
  .next (run s fun _ m =>
    if m.scrubRuns && decide (m.rowDue passRows ≤ m.bnd) then (m.bump F.REP_SCRUB_PASSES_COUNT).scrubPass else m)

/-- SCRUB_ROW_START (R206): the next row of the walk is due, I orbits after the one before. -/
def execScrubRowStart (s : State) : Host.Outcome State Fault Refusal :=
  .next (run s fun _ m =>
    let n := m.get F.REP_SCRUB_POS_STEP + 1
    if m.scrubRuns && decide (n < passRows) && decide (m.rowDue n ≤ m.bnd) then m.put F.REP_SCRUB_POS_STEP n else m)

/-- SCRUB_ROW (R207, R209). -/
def execScrubRow (pc : Fin 64) (noise : Noise) (s : State) : Host.Outcome State Fault Refusal :=
  .next (run s fun a m => if m.pcRuns pc.val then (m.noise a noise).scrubRow a pc.val else m)

end Sys2Proof.Machine
end

