-- ==== Sys2Proof/Machine/RingOps.lean ====
section
/-!
DEFINITION. The mover at work as shared operations (chapter 9): fetching slots, the checks at fetch, which ring starts next,
starting a descriptor, and entering granules.
-/

namespace Sys2Proof.Machine

/-! ## When the mover works -/

/-- Do rings and engines work in this mode? -/
def Ctl.moverRuns (m : Ctl) : Bool := m.inMode [.ready, .active, .drowse]

/-- Does the mover take on work: a mover that has accepted an entry request closes its admission (R380)? -/
def Ctl.moverOpen (m : Ctl) : Bool :=
  m.moverRuns && !(match m.entry with | some e => e.accepted.contains .mov | none => false)

/-- The master of a ring. -/
def ringOwner (r : Nat) : Master := if r < 64 then .a else if r < 128 then .b else .svc

/-! ## Fetch -/

/-- Does the fetch of the slot at NEXT have to be tried again: it failed while the slot was further ahead (R255)? -/
def Ctl.refetch (m : Ctl) (r : Nat) : Bool :=
  match (m.ring r).pre with
  | p :: _ => p.failed.isSome && p.idx == m.get F.RING_NEXT_NEXT r
  | [] => false

/-- The first slot of a ring that may be fetched, and how many from there on: the slot at NEXT where its fetch has to be tried
again, else those covered by a doorbell, at most 8 ahead of the descriptors that have started, and before the end of the ring's
memory (R239, R241, R255). -/
def Ctl.fetchable (m : Ctl) (r : Nat) : Nat × Nat :=
  let x := m.ring r
  let next := m.get F.RING_NEXT_NEXT r
  let first := (next + x.pre.length) % 131072
  let ahead := x.pre.length + (x.prog.filter fun d => decide (d.phase = .waiting)).length
  if !(m.moverOpen && m.ringState r == rsRunning) then (first, 0)
  else if m.refetch r then (next, 1)
  else (first, min (min (8 - ahead) (ixSub (m.get F.RING_PROD_PROD r) first)) (m.ringSize r - first % m.ringSize r))

/-- Hold what is known of a slot: in the place of what was held of it, or behind the others. -/
def Ctl.prefetch (m : Ctl) (r : Nat) (p : Pre) : Ctl :=
  m.modRing r fun x =>
    { x with pre := if x.pre.any fun q => q.idx == p.idx then x.pre.map fun q => if q.idx == p.idx then p else q else x.pre ++ [p] }

/-- Send the fetch of a slot of user space to its PC (R139, R212, R238). -/
def Ctl.fetchSlot (m : Ctl) (r i : Nat) : Ctl :=
  let addr := m.slotOf r i
  let m := m.prefetch r { idx := i }
  if m.windowBad r false addr 64 then m.fetchLost r i 0x1B
  else m.submit (m.place addr).pc { who := .engine r i fetchGran true, acc := .read, addr := addr, len := 64 }

/-- Fetch up to `n` slots from index `i` on, until the ring halts. -/
def Ctl.fetchSlots (m : Ctl) (r : Nat) : Nat → Nat → Ctl
  | 0, _ => m
  | n + 1, i => if m.ringState r == rsRunning then (m.fetchSlot r i).fetchSlots r n ((i + 1) % 131072) else m

/-- The slots that a completion of a host read carries. -/
def slotsOf : Nat → List Byte → List (List Byte)
  | 0, _ => []
  | n + 1, bs => bs.take 64 :: slotsOf n (bs.drop 64)

/-- Take the service host's answer to a fetch (R342, R343). -/
def Ctl.fetchHost (m : Ctl) (r i n : Nat) (reply : FetchReply) : Ctl :=
  let ask := fun (m : Ctl) (k : Nat) => m.emit (.hostRead (m.slotOf r i) (64 * k))
  let fail := fun (c : Nat) => ((ask m n).prefetch r { idx := i }).fetchLost r i c
  match reply with
  | .data bs =>
    let k := min n (bs.length / 64)
    (slotsOf k bs).zipIdx.foldl (fun m e => m.prefetch r { idx := (i + e.2) % 131072, bytes := some e.1 }) (ask m k)
  | .unsupported => fail 0x1D
  | .abort => fail 0x1D
  | .poisoned => fail 0x10

/-- Does a ring take up descriptors: it runs, and no record of it waits for the retry of RESUME (R244, R255)? -/
def Ctl.ringTakes (m : Ctl) (r : Nat) : Bool := m.moverOpen && m.ringState r == rsRunning && (m.ring r).failed.isEmpty

/-- Judge the first prefetched descriptor (R244, R245 steps 1 and 2): one that passes needs room under DEPTH; one that fails is
judged when every descriptor before it has started. -/
def Ctl.judgeOne (m : Ctl) (r : Nat) : Ctl :=
  let x := m.ring r
  match x.pre with
  | ⟨i, some bs, _⟩ :: rest =>
    let c := fetchCheck bs
    let open_ := if c = 0 then decide (x.inflight < m.get F.RING_CFG_DEPTH r + 1)
      else !x.prog.any fun d => decide (d.phase = .waiting)
    if !(m.ringTakes r && open_) then m
    else
      let d : Prog := { idx := i, bytes := bs, phase := if c = 0 then .waiting else .running }
      let m := (m.modRing r fun x => { x with pre := rest, prog := x.prog ++ [d] }).set F.RING_NEXT_NEXT r (i + 1)
      if c = 0 then m else m.endProg r i c 0
  | _ => m

/-- Judge the prefetched descriptors that may be judged. -/
def Ctl.judgeNext (m : Ctl) (r : Nat) : Ctl := (List.range 8).foldl (fun m _ => m.judgeOne r) m

/-! ## Start -/

/-- The descriptor of a ring that may start now, engines aside (R244, R246, R263, R343). -/
def Ctl.startable (m : Ctl) (r : Nat) : Option Prog :=
  let x := m.ring r
  match x.prog.find? fun d => decide (d.phase = .waiting) with
  | none => none
  | some d =>
    if m.ringTakes r && (decide (r < 128) || m.is F.SVC_STATUS_BME) &&
        (!x.prog.any fun e => opFence e.op && decide (e.phase = .running)) &&
        (d.after == 0 || (m.numValid && decide (judgeOrbit d.after m.orbit ≠ .future))) then some d
    else none

/-- Is a descriptor stalled: a granule of it is withheld (R230)? -/
def Ctl.stalledProg (m : Ctl) (r i : Nat) : Bool :=
  m.pcs.any fun e => e.2.ingress.any fun j =>
    match j.who with
    | .engine q k _ _ => q == r && k == i && j.withheld.isSome && !j.expired
    | _ => false

/-- Engines that serve no descriptor: none holds them, or the one that does is stalled (R230, R244). -/
def Ctl.idleEngines (m : Ctl) : List Nat :=
  (List.range 32).filter fun e => !m.deadEngines.contains e &&
    match Sparse.find m.engines e with
    | some q => m.stalledProg q.1 q.2
    | none => true

/-- Rings that wait for an engine, in round-robin order from the one after the last that was given one (R244). -/
def Ctl.engineLine (m : Ctl) : List Nat :=
  ((List.range 160).map fun k => (m.rrRing + 1 + k) % 160).filter fun q =>
    match m.startable q with | some d => opEngine d.op | none => false

/-- Give a descriptor its engine, where its ring's turn has come. -/
def Ctl.takeEngine (m : Ctl) (r : Nat) (d : Prog) : Option Ctl :=
  if !opEngine d.op then some m
  else
    match m.idleEngines with
    | [] => none
    | e :: rest =>
      if (m.engineLine.take (rest.length + 1)).contains r then
        some { m with engines := Sparse.put m.engines e (r, d.idx), rrRing := r, worked := true }
      else none

/-- Fields of the TEL registers. -/
def telFields : List Fld :=
  [F.TEL_ORBIT, F.TEL_LOAD_QPC, F.TEL_LOAD_IAVG, F.TEL_LOAD_QMAX, F.TEL_PA_RD, F.TEL_PA_WR, F.TEL_PB_RD, F.TEL_PB_WR,
   F.TEL_SVC_RD, F.TEL_SVC_WR, F.TEL_ARR_RD, F.TEL_ARR_WR]

/-- Is a field one of them? -/
def isTelId (k : Nat) : Bool := telFields.any fun f => f.id == k

/-- What a descriptor captures when it starts: the descriptors that a FENCE waits for, the TEL values of a SNAPSHOT. -/
def Ctl.captureAt (m : Ctl) (r : Nat) (d : Prog) : Prog :=
  let d := { d with phase := .running }
  if d.op = 8 && bit d.arg16 0 then
    { d with others := (m.rings.map fun e =>
        if ringMaster e.1 = ringMaster r && e.1 ≠ r then
          (e.2.prog.filter fun q => decide (q.phase = .running)).map fun q => (e.1, q.idx)
        else []).flatten }
  else if d.op = 0x14 then { d with snap := m.flds.filter fun e => isTelId (e.1 / 1048576) }
  else d

/-- Start a descriptor and judge it (R245 steps 3 to 6, R261). -/
def Ctl.startProg (m : Ctl) (r : Nat) (d : Prog) : Ctl :=
  let m := m.modProg r d.idx fun _ => m.captureAt r d
  let c := m.startCheck r d
  if c != 0 then m.endProg r d.idx c 0
  else if (d.op == 6 || d.op == 7) && !m.plUp (d.arg16 % 2) then m.endProg r d.idx 0x15 0
  else m

/-! ## Descriptors at work -/

/-- The engine of a running descriptor serves it: one whose engine went to another ring while it was stalled takes an idle one
(R230). Nothing where it is stalled or none is idle. -/
def Ctl.engineFor (m : Ctl) (r : Nat) (d : Prog) : Option Ctl :=
  if !opEngine d.op then some m
  else if m.stalledProg r d.idx then none
  else if m.engines.any fun e => e.2 == (r, d.idx) then some m
  else m.idleEngines.head?.map fun e => { m with engines := Sparse.put m.engines e (r, d.idx) }

/-- Act on a started descriptor of an opcode; nothing where there is none, or no engine serves it. -/
def Ctl.onProg (m : Ctl) (r i : Nat) (op : Nat) (f : Ctl → Prog → Ctl) : Ctl :=
  if m.moverRuns then
    match m.prog? r i with
    | some d =>
      if d.op = op && decide (d.phase = .running) then
        match m.engineFor r d with
        | some m => f m d
        | none => m
      else m
    | none => m
  else m

/-- The descriptors of a ring before one of them. -/
def Ctl.before (m : Ctl) (r i : Nat) : List Prog := (m.ring r).prog.takeWhile fun d => d.idx != i

/-- Has every earlier descriptor of the ring completed (R262, R263)? -/
def Ctl.fenceMet (m : Ctl) (r i : Nat) : Bool := (m.before r i).all fun d => decide (d.phase = .ended)

/-- May a descriptor still enter a granule that writes a line (R248)? -/
def Prog.mayWrite (d : Prog) (line : Nat) : Bool :=
  decide (d.phase = .running) && d.stop.isNone && decide (d.next < d.length) &&
    match d.op with
    | 1 | 2 | 3 | 6 | 0x14 => decide ((d.dst + d.next) / 64 ≤ line) && decide (64 * line < d.dst + d.length)
    | 4 => decide ((d.dst + d.next * d.elem + d.part) / 64 ≤ line) && decide (64 * line < d.dst + d.length * d.elem)
    | 5 => true
    | _ => false

/-- Must a granule that writes a line wait for earlier descriptors of its ring to enter theirs (R248)? -/
def Ctl.serialWait (m : Ctl) (r i line : Nat) : Bool :=
  m.is F.RING_CFG_SERIAL r && (m.before r i).any fun d => d.mayWrite line

/-- Enter a granule: it is the descriptor's next, and `next` and `part` are where the one after it begins. -/
def Ctl.enterGran (m : Ctl) (r : Nat) (d : Prog) (g : Gran) (next part : Nat) : Ctl :=
  m.modProg r d.idx fun e => { e with grans := e.grans ++ [g], ids := e.ids + 1, next := next, part := part }

/-- Stop a descriptor, and end it if it has nothing under way. -/
def Ctl.stopNow (m : Ctl) (r i : Nat) (s : Stop) : Ctl := (m.stopProg r i s).closeProg r i

/-- The longest granule at an offset that stays within one 64 B line at each of two addresses. -/
def granLen (left x y : Nat) : Nat := min left (min (64 - x % 64) (64 - y % 64))

/-- The first granule of a REMOTE_WRITE whose data wait for a free TAG, with them (R317). -/
def Prog.unsent (d : Prog) : Option (Gran × List Byte) :=
  if d.op = 7 then d.grans.findSome? fun g => (Sparse.find d.bufs g.id).map fun bs => (g, bs) else none

/-- Enter the next granule of a contiguous descriptor that reads local memory first: COPY, PRESS, REMOTE_WRITE (R247). Before it,
a REMOTE_WRITE sends what it has read where a TAG has come free. -/
def Ctl.stepRead (m : Ctl) (r : Nat) (d : Prog) : Ctl :=
  let m := match d.unsent with
    | some e => m.sendGran r d e.1 e.2
    | none => m
  let d := (m.prog? r d.idx).getD d
  let o := d.next
  let dst := d.dst + o
  let len := granLen (d.length - o) dst (d.src + o)
  if d.stop.isSome || d.length ≤ o || (d.op != 7 && m.serialWait r d.idx (dst / 64)) then m
  else if d.op = 7 && !m.plUp (d.arg16 % 2) then m.stopNow r d.idx { status := 0x15 }
  else
    (m.enterGran r d { id := d.ids, off := o, len := len, dst := dst } (o + len) 0).submitGran r d.idx d.ids true .read
      (d.src + o) len [] 0 d.session

/-- The bytes that FILL writes from an offset (R256). -/
def Prog.fillBytes (d : Prog) (off len : Nat) : List Byte :=
  (List.range len).map fun k => d.bytes.getD (48 + (off + k) % 8) 0

/-- Enter the next granule of a FILL. -/
def Ctl.stepFill (m : Ctl) (r : Nat) (d : Prog) : Ctl :=
  let o := d.next
  let dst := d.dst + o
  let len := granLen (d.length - o) dst dst
  if d.stop.isSome || d.length ≤ o || m.serialWait r d.idx (dst / 64) then m
  else
    (m.enterGran r d { id := d.ids, off := o, len := len, dst := dst } (o + len) 0).submitGran r d.idx d.ids false .write
      dst len (d.fillBytes o len) 0 d.session

/-- Read the next line of an index table (R259). -/
def Ctl.stepIndex (m : Ctl) (r : Nat) (d : Prog) : Ctl :=
  if d.grans.any fun g => g.len == 0 then m
  else
    let addr := d.argx6 + 4 * d.next
    let len := min (4 * (d.length - d.next)) (64 - addr % 64)
    (m.enterGran r d { id := d.ids, off := d.next, len := 0, dst := addr } d.next d.part).submitGran r d.idx d.ids true .read
      addr len [] 0 d.session

/-- Enter the next part of the next element of a GATHER or SCATTER, or stop at an element that may not be moved (R259). -/
def Ctl.stepElem (m : Ctl) (r : Nat) (d : Prog) : Ctl :=
  if d.stop.isSome || d.length ≤ d.next then m
  else
    match Sparse.find d.idxs d.next with
    | none => m.stepIndex r d
    | some ix =>
      let e := d.elem
      let gather := d.op == 4
      let far := (if gather then d.src else d.dst) + ix * e
      let near := (if gather then d.dst else d.src) + d.next * e
      let src := (if gather then far else near) + d.part
      let dst := (if gather then near else far) + d.part
      let len := min e 64
      let last := decide (e ≤ d.part + len)
      if 2 ^ 37 < far + e then m.stopNow r d.idx { status := 0x1A, addr := far }
      else if m.windowBad r (!gather) far e then m.stopNow r d.idx { status := 0x1B, addr := far }
      else if m.serialWait r d.idx (dst / 64) then m
      else
        (m.enterGran r d { id := d.ids, off := d.next, len := len, dst := dst, part := d.part }
          (if last then d.next + 1 else d.next) (if last then 0 else d.part + len)).submitGran r d.idx d.ids true .read
          src len [] 0 d.session

/-- Ask the peer for the next granule of a REMOTE_READ (R260, R319). It waits for a free TAG. -/
def Ctl.stepRemote (m : Ctl) (r : Nat) (d : Prog) : Ctl :=
  let o := d.next
  let dst := d.dst + o
  let len := granLen (d.length - o) dst (d.src + o)
  let l := d.arg16 % 2
  if d.stop.isSome || d.length ≤ o || m.serialWait r d.idx (dst / 64) then m
  else if !m.plUp l then m.stopNow r d.idx { status := 0x15 }
  else
    match m.freeTag l with
    | none => m
    | some t =>
      let m := m.enterGran r d { id := d.ids, off := o, len := len, dst := dst } (o + len) 0
      (m.addOp l { tag := t, kind := .rdDesc r d.idx d.ids, addr := d.src + o, len := len }).sendCtl l
        (1 + t * 2 ^ 16 + (if len = 32 then 0 else 1) * 2 ^ 24 + (d.src + o) * 2 ^ 26)

/-! ## SNAPSHOT -/

/-- Read one register for a SNAPSHOT (R265). -/
def Ctl.snapRead (m : Ctl) (r : Nat) (snap : Sparse Nat) (addr : Nat) : Nat × Ctl :=
  match findReg addr with
  | some (d, i) =>
    if d.parts.any fun p => isTelId p.fld.id then (({ m with flds := snap } : Ctl).regValue d i, m)
    else m.regRead { master := ringOwner r, snap := true } addr
  | none => m.regRead { master := ringOwner r, snap := true } addr

/-- Enter the next granule of a SNAPSHOT: its registers are read now, in ascending order, with the descriptor's own
capture of high halves (R265, R364). -/
def Ctl.stepSnapshot (m : Ctl) (r : Nat) (d : Prog) : Ctl :=
  let o := d.next
  let dst := d.dst + o
  let len := granLen (d.length - o) dst dst
  if d.stop.isSome || d.length ≤ o || m.serialWait r d.idx (dst / 64) then m
  else
    let start : Ctl := { m with caps := match Sparse.find d.highs 0 with
      | some c => Sparse.put m.caps 0 c
      | none => Sparse.del m.caps 0 }
    let v := (List.range (len / 4)).foldl (fun (acc : List Byte × Ctl) k =>
      let x := acc.2.snapRead r d.snap (d.src + o + 4 * k)
      (acc.1 ++ leBytes 4 x.1, x.2)) ([], start)
    let highs := match Sparse.find v.2.caps 0 with | some c => [(0, c)] | none => []
    let m : Ctl := { v.2 with caps := Sparse.del v.2.caps 0 }
    let m := m.modProg r d.idx fun e => { e with highs := highs }
    (m.enterGran r d { id := d.ids, off := o, len := len, dst := dst } (o + len) 0).submitGran r d.idx d.ids false .write
      dst len v.1 0 d.session

/-! ## SCRUB_RANGE -/

/-- The rows that a user range touches, by PC (R264). -/
def Ctl.rangeRows (m : Ctl) (addr len : Nat) : List (Nat × Row) :=
  (List.range ((addr + len - 1) / 256 - addr / 256 + 1)).map fun k =>
    let w := m.wordAt (256 * (addr / 256 + k))
    (w.1, { bank := w.2.bank, row := w.2.row })

/-- The PC of a row index. -/
def pcOfRow (k : Nat) : Nat := k / 8272 / 16 % 64

/-- One turn of a SCRUB_RANGE: the first queues its rows, later ones see whether they are scrubbed (R264, R267). -/
def Ctl.stepScrub (m : Ctl) (r : Nat) (d : Prog) : Ctl :=
  if !d.armed then
    let rows := m.rangeRows d.dst d.length
    let m := rows.foldl (fun m e => m.modPc e.1 fun x =>
      if x.rows.contains e.2 then x else { x with rows := x.rows ++ [e.2] }) m
    m.modProg r d.idx fun q =>
      { q with armed := true, idxs := rows.foldl (fun t e => Sparse.put t (rowIx e.1 e.2.bank e.2.row) 1) [] }
  else
    match d.idxs with
    | [] => m.endProg r d.idx 0 d.result
    | _ =>
      match d.idxs.find? fun e => m.dark (pcOfRow e.1) with
      | some e =>
        let b := e.1 / 8272 / 16 / 64 * 16 + e.1 / 8272 % 16
        m.endProg r d.idx 0x1C 0 |>.modProg r d.idx fun q =>
          { q with stop := some { status := 0x1C, addr := m.physAddr (pcOfRow e.1) b (e.1 % 8272) 0 } }
      | none => m

/-! ## REPAIR -/

/-- Does a row wait for a copy to a spare row? -/
def Ctl.copyQueued (m : Ctl) (pc : Nat) (b : BankIx) (row : Nat) : Bool :=
  (m.pc pc).copies.any fun c => c.bank == b && c.row == row

/-- The repair that an APPLY names (R443): `none` while a row waits to be copied, or a word's row is in use; else the record, a
refusal cause, 0 where the repair stands, and the state. `asked` where the copy of the row has been asked for. -/
def Ctl.applyNow (m : Ctl) (a : Arr) (x : Record) (asked : Bool) : Option (Record × Nat × Ctl) :=
  match x with
  | .lane pc n s => some (x, if (m.pc pc).tsv.lanes.contains (n, s) then 0 else rfNotInUse, m)
  | .ca pc n s => some (x, if (m.pc pc).tsv.ca.contains (n, s) then 0 else rfNotInUse, m)
  | .strobe pc n s => some (x, if (m.pc pc).tsv.strobes.contains (n, s) then 0 else rfNotInUse, m)
  | .port p g dir k n => some (x, if m.portLane p g dir k = some n then 0 else rfNotInUse, m)
  | .row pc b row _ =>
    match m.rmap.find? fun e => e.pc == pc && e.bank == b && e.row == row with
    | some e => some (.row pc b row e.spare, 0, m)
    | none => if m.canSpare pc b && (!asked || m.copyQueued pc b row) then none else some (x, rfNoResource, m)
  | .word pc l =>
    match (m.pc pc).spareOf l, (m.pc pc).freeSpare with
    | some _, _ => some (x, 0, m)
    | none, none => some (x, rfNoResource, m)
    | none, some i =>
      let y := m.rowReady pc l.bank l.row
      if !y.1 then none
      else
        match (m.readWord a pc l).data? with
        | some d => some (x, 0, y.2.install pc l d i)
        | none => some (x, 0x100, y.2.reportBad pc l true)

/-- The PC that an array record names. -/
def Record.arrayPc : Record → Option Nat
  | .row pc _ _ _ => some pc
  | .word pc _ => some pc
  | _ => none

/-- APPLY (R443): the target is repaired, a row by the copy of R441, and with PERSIST its record goes to region 2. A word that cannot be read stops it
as R266 says, and a dark PC as R267 says. -/
def Ctl.stepApply (m : Ctl) (a : Arr) (r : Nat) (d : Prog) : Ctl :=
  if d.armed then m
  else
    match decodeRecord (dfield d.bytes 48 7) with
    | none => m.refuse (r, d.idx) rfBadTarget
    | some x =>
      if (match x.arrayPc with | some pc => m.dark pc | none => false) then m.endProg r d.idx 0x1C 0
      else
        match m.applyNow a x (d.count != 0) with
        | none =>
          match x with
          | .row pc b row _ =>
            if d.count != 0 then m
            else
              let m := m.modProg r d.idx fun q => { q with count := 1 }
              if m.copyQueued pc b row then m
              else m.modPc pc fun x => { x with copies := x.copies ++ [{ bank := b, row := row }] }
          | _ => m
        | some (y, cause, m') =>
          if cause = 0x100 then
            match x with
            | .word pc l => m'.endProg r d.idx 0x10 0 |>.modProg r d.idx fun q =>
                { q with stop := some { status := 0x10, addr := m.physAddr pc l.bank l.row l.word } }
            | _ => m'
          else if cause != 0 then m.refuse (r, d.idx) cause
          else if bit d.flags 1 then
            (m'.modProg r d.idx fun q => { q with armed := true }).fuseAsk (.records false [encodeRecord y]) (r, d.idx)
          else m'.endProg r d.idx 0 0

/-- The records of every soft repair: lanes, rows in map order, words in PC and entry order (R443). -/
def Ctl.softRecords (m : Ctl) : List Nat :=
  let pcs := m.pcs
  let lanes := (pcs.map fun e => e.2.tsv.lanes.map fun x => Record.lane e.1 x.1 x.2).flatten ++
    (pcs.map fun e => e.2.tsv.ca.map fun x => Record.ca e.1 x.1 x.2).flatten ++
    (pcs.map fun e => e.2.tsv.strobes.map fun x => Record.strobe e.1 x.1 x.2).flatten ++
    ((List.range 2).map fun p => ((List.range 16).map fun g => ((List.range 4).filterMap fun k =>
      (m.portLane p g (k / 2) (k % 2)).map fun n => Record.port p g (k / 2) (k % 2) n)).flatten).flatten
  let rows := (m.rmap.filter fun e => !e.persist).map fun e => Record.row e.pc e.bank e.row e.spare
  let words := (pcs.map fun e => (e.2.spares.filter fun s => !s.2.persist).map fun s => Record.word e.1 s.2.loc).flatten
  ((lanes.filter fun x => !m.recorded x) ++ rows ++ words).map encodeRecord

end Sys2Proof.Machine
end

