-- ==== Sys2Proof/Machine/RingCmds.lean ====
section
/-!
DEFINITION. The meanings of the ring and mover commands (chapter 9, and R443, R434 of chapter 18): fetch, start and
completion, one turn of each opcode, and the ring registers.
-/

namespace Sys2Proof.Machine

/-! ## Fetch, start, completion -/

/-- Has the service host's answer to a fetch a form that R342 allows? -/
def replyOk : FetchReply → Bool
  | .data bs => bs.length % 64 == 0 && decide (64 ≤ bs.length) && decide (bs.length ≤ 512)
  | _ => true

/-- DESCRIPTOR_FETCH (R241, R255, R343): what has been fetched is judged, and more is fetched. `reply` is the service host's answer for rings 128 to 159. -/
def execDescriptorFetch (r : Fin 160) (noise : Noise) (reply : FetchReply) (s : State) :
    Host.Outcome State Fault Refusal :=
  if r.val < 128 then
    .next (run s fun a m =>
      let m := (m.noise a noise).judgeNext r.val
      let f := m.fetchable r.val
      (m.fetchSlots r.val f.2 f.1).judgeNext r.val)
  else if replyOk reply then
    .next (run s fun _ m =>
      let m := m.judgeNext r.val
      let f := m.fetchable r.val
      (if f.2 = 0 then m else m.fetchHost r.val f.1 f.2 reply).judgeNext r.val)
  else .refused (.illFormed "DESCRIPTOR_FETCH")

/-- DESCRIPTOR_START (R244 to R246). -/
def execDescriptorStart (r : Fin 160) (s : State) : Host.Outcome State Fault Refusal :=
  .next (run s fun _ m =>
    let m := m.judgeNext r.val
    match m.startable r.val with
    | none => m
    | some d =>
      match m.takeEngine r.val d with
      | none => m
      | some m => (m.startProg r.val d).judgeNext r.val)

/-- DESCRIPTOR_COMPLETE (R250, R254, R255): the record of an ended descriptor is sent, or of one that RESUME retries and that had to
wait. An aborted service ring's record is not written (R345). -/
def execDescriptorComplete (r : Fin 160) (i : BitVec 17) (noise : Noise) (s : State) : Host.Outcome State Fault Refusal :=
  .next (run s fun a m =>
    if m.moverRuns then
      match m.prog? r.val i.toNat with
      | some d =>
        if d.phase = .ended then
          (if decide (128 ≤ r.val) && m.ringState r.val == rsAborted then m.recordFail r.val d 0x16
           else (m.noise a noise).writeRecord r.val d).judgeNext r.val
        else m
      | none =>
        match (m.ring r.val).failed.find? fun d => d.idx == i.toNat with
        | some d =>
          if m.ringState r.val == rsHalted || m.ringState r.val == rsAborted then m else (m.noise a noise).writeRecord r.val d
        | none => m
    else m)

/-- COMPLETION_TIMEOUT (R255, R343): the fetch that a service ring makes next meets the completion timeout. -/
def execCompletionTimeout (r : Fin 160) (s : State) : Host.Outcome State Fault Refusal :=
  .next (run s fun _ m =>
    let f := m.fetchable r.val
    if decide (128 ≤ r.val) && decide (0 < f.2) then (m.prefetch r.val { idx := f.1 }).fetchLost r.val f.1 0x1D else m)

/-! ## Opcodes -/

/-- NOP (R256). -/
def execNop (r : Fin 160) (i : BitVec 17) (s : State) : Host.Outcome State Fault Refusal :=
  .next (run s fun _ m => m.onProg r.val i.toNat 0 fun m d => m.endProg r.val d.idx 0 0)

/-- COPY (R256, R257): one turn of its engine. -/
def execCopy (r : Fin 160) (i : BitVec 17) (s : State) : Host.Outcome State Fault Refusal :=
  .next (run s fun _ m => m.onProg r.val i.toNat 1 fun m d => m.stepRead r.val d)

/-- FILL (R256). -/
def execFill (r : Fin 160) (i : BitVec 17) (s : State) : Host.Outcome State Fault Refusal :=
  .next (run s fun _ m => m.onProg r.val i.toNat 2 fun m d => m.stepFill r.val d)

/-- PRESS (R258). -/
def execPress (r : Fin 160) (i : BitVec 17) (s : State) : Host.Outcome State Fault Refusal :=
  .next (run s fun _ m => m.onProg r.val i.toNat 3 fun m d => m.stepRead r.val d)

/-- GATHER (R259). -/
def execGather (r : Fin 160) (i : BitVec 17) (s : State) : Host.Outcome State Fault Refusal :=
  .next (run s fun _ m => m.onProg r.val i.toNat 4 fun m d => m.stepElem r.val d)

/-- SCATTER (R259). -/
def execScatter (r : Fin 160) (i : BitVec 17) (s : State) : Host.Outcome State Fault Refusal :=
  .next (run s fun _ m => m.onProg r.val i.toNat 5 fun m d => m.stepElem r.val d)

/-- REMOTE_READ (R260, R261). -/
def execRemoteRead (r : Fin 160) (i : BitVec 17) (s : State) : Host.Outcome State Fault Refusal :=
  .next (run s fun _ m => m.onProg r.val i.toNat 6 fun m d => m.stepRemote r.val d)

/-- REMOTE_WRITE (R260, R261). -/
def execRemoteWrite (r : Fin 160) (i : BitVec 17) (s : State) : Host.Outcome State Fault Refusal :=
  .next (run s fun _ m => m.onProg r.val i.toNat 7 fun m d => m.stepRead r.val d)

/-- Is nothing left of the descriptors of other rings that a FENCE waits for? -/
def Ctl.othersDone (m : Ctl) (d : Prog) : Bool :=
  d.others.all fun o => match m.prog? o.1 o.2 with | some q => decide (q.phase = .ended) | none => true

/-- RING_FENCE (R262, R263). -/
def execRingFence (r : Fin 160) (i : BitVec 17) (s : State) : Host.Outcome State Fault Refusal :=
  .next (run s fun _ m => m.onProg r.val i.toNat 8 fun m d =>
    if m.fenceMet r.val d.idx && m.othersDone d then m.endProg r.val d.idx 0 0 else m)

/-- WAIT_ORBIT (R262): once its fence is satisfied it counts orbit boundaries; a count of 0 adds no wait. -/
def execWaitOrbit (r : Fin 160) (i : BitVec 17) (s : State) : Host.Outcome State Fault Refusal :=
  .next (run s fun _ m => m.onProg r.val i.toNat 9 fun m d =>
    if d.armed || !m.fenceMet r.val d.idx then m
    else if d.arg32 = 0 && m.numValid then m.endProg r.val d.idx 0 0
    else m.modProg r.val d.idx fun q => { q with armed := true, count := d.arg32 })

/-- WAIT_ORBIT_EXPIRY (R262): the count has run out and the number is valid. -/
def execWaitOrbitExpiry (r : Fin 160) (i : BitVec 17) (s : State) : Host.Outcome State Fault Refusal :=
  .next (run s fun _ m => m.onProg r.val i.toNat 9 fun m d =>
    if d.armed && d.count == 0 && m.numValid then m.endProg r.val d.idx 0 0 else m)

/-- SCRUB_RANGE (R264). -/
def execScrubRange (r : Fin 160) (i : BitVec 17) (s : State) : Host.Outcome State Fault Refusal :=
  .next (run s fun _ m => m.onProg r.val i.toNat 0x10 fun m d => m.stepScrub r.val d)

/-- APPLY (R443): REPAIR with function 0. `noise` is what was upset since the stack last looked. -/
def execApply (r : Fin 160) (i : BitVec 17) (noise : Noise) (s : State) : Host.Outcome State Fault Refusal :=
  .next (run s fun a m => m.onProg r.val i.toNat 0x12 fun m d =>
    if d.arg16 % 4 = 0 then (m.noise a noise).stepApply a r.val d else m)

/-- PERSIST_ALL (R443): REPAIR with function 1. -/
def execPersistAll (r : Fin 160) (i : BitVec 17) (s : State) : Host.Outcome State Fault Refusal :=
  .next (run s fun _ m => m.onProg r.val i.toNat 0x12 fun m d =>
    if d.arg16 % 4 = 1 && !d.armed then
      (m.modProg r.val d.idx fun q => { q with armed := true }).fuseAsk (.records true m.softRecords) (r.val, d.idx)
    else m)

/-- Ask for a fuse operation, once. -/
def Ctl.stepFuse (m : Ctl) (r : Nat) (d : Prog) (fn : Nat) (q : FuseReq) : Ctl :=
  if d.arg16 % 4 = fn && !d.armed then
    (m.modProg r d.idx fun e => { e with armed := true }).fuseAsk q (r, d.idx)
  else m

/-- FUSE_PROGRAM_WORD (R434). -/
def execFuseProgramWord (r : Fin 160) (i : BitVec 17) (s : State) : Host.Outcome State Fault Refusal :=
  .next (run s fun _ m => m.onProg r.val i.toNat 0x13 fun m d =>
    m.stepFuse r.val d 0 (.word (dfield d.bytes 48 2 % 1024) (dfield d.bytes 50 7)))

/-- FUSE_PROGRAM_SEAL (R434). -/
def execFuseProgramSeal (r : Fin 160) (i : BitVec 17) (s : State) : Host.Outcome State Fault Refusal :=
  .next (run s fun _ m => m.onProg r.val i.toNat 0x13 fun m d => m.stepFuse r.val d 1 (.seal (dfield d.bytes 48 1)))

/-- FUSE_PROGRAM_LOCK (R434). -/
def execFuseProgramLock (r : Fin 160) (i : BitVec 17) (s : State) : Host.Outcome State Fault Refusal :=
  .next (run s fun _ m => m.onProg r.val i.toNat 0x13 fun m d =>
    m.stepFuse r.val d 2 (.lock (dfield d.bytes 48 1) (dfield d.bytes 49 1 == 1)))

/-- FUSE_VERIFY (R432 steps 4 to 6): `good` where every reading equals the codeword in the end. -/
def execFuseVerify (good : Bool) (s : State) : Host.Outcome State Fault Refusal :=
  .next (run s fun _ m => m.fuseVerified good)

/-- SNAPSHOT (R265). -/
def execSnapshot (r : Fin 160) (i : BitVec 17) (s : State) : Host.Outcome State Fault Refusal :=
  .next (run s fun _ m => m.onProg r.val i.toNat 0x14 fun m d => m.stepSnapshot r.val d)

/-- COMMIT (R264, R280): taken once its fence is satisfied, after the commit that is armed. -/
def execCommit (r : Fin 160) (i : BitVec 17) (s : State) : Host.Outcome State Fault Refusal :=
  .next (run s fun _ m => m.onProg r.val i.toNat 0x18 fun m d =>
    if d.armed || !m.fenceMet r.val d.idx then m
    else if m.owner != ringMaster r.val then m.endProg r.val d.idx 0x17 0
    else
      let c : CommitSt := { orbit := d.argx6, judged := false, desc := some (r.val, d.idx), by_ := ringMaster r.val }
      let m := m.modProg r.val d.idx fun q => { q with armed := true }
      if m.commit.isSome then { m with commitWait := m.commitWait ++ [c] } else m.commitTake c)

/-- Ask for a low-power entry, once the fence is satisfied and no other handshake runs (R264, R379, R382). -/
def Ctl.stepSleep (m : Ctl) (r : Nat) (d : Prog) (target keep : Nat) : Ctl :=
  if d.armed || !m.fenceMet r d.idx || m.entry.isSome || d.arg16 % 4 + 1 != target then m
  else
    (m.modProg r d.idx fun q => { q with armed := true }).startEntry { target := target, desc := some (r, d.idx), keep := keep }

/-- SLEEP_HIBERNATE (R264, R384). -/
def execSleepHibernate (r : Fin 160) (i : BitVec 17) (s : State) : Host.Outcome State Fault Refusal :=
  .next (run s fun _ m => m.onProg r.val i.toNat 0x19 fun m d => m.stepSleep r.val d 2 0xFFFF)

/-- SLEEP_CRESCENT (R386): die 0 is always retained. -/
def execSleepCrescent (r : Fin 160) (i : BitVec 17) (s : State) : Host.Outcome State Fault Refusal :=
  .next (run s fun _ m => m.onProg r.val i.toNat 0x19 fun m d => m.stepSleep r.val d 3 (d.arg32 % 65536 ||| 1))

/-! ## Ring registers -/

/-- RESUME (R255): a write of `RING_CTRL`. -/
def execResume (x : Master) (r : Fin 160) (value : BitVec 32) (noise : Noise) (s : State) :
    Host.Outcome State Fault Refusal :=
  .next (run s fun a m => (m.noise a noise).masterWrite a x (D.RING_CTRL.addr r.val) value.toNat)

/-- RING_SETUP_WRITE (R237): a write of `RING_BASE`, `RING_BASE_HI` or `RING_CFG`. -/
def execRingSetupWrite (x : Master) (caddr : BitVec 24) (value : BitVec 32) (s : State) :
    Host.Outcome State Fault Refusal :=
  .next (run s fun a m => m.masterWrite a x caddr.toNat value.toNat)

end Sys2Proof.Machine
end

