-- ==== Sys2Proof/Machine/ConfigCmds.lean ====
section
/-!
DEFINITION. The meanings of the ownership, configuration and register commands (chapters 10, 18, 20 and 21): claims, the
lease, staging, commits, fault registers, and plain register accesses.
-/

namespace Sys2Proof.Machine

/-! ## The semaphore -/

/-- The master that wins when several claim a free semaphore in one cycle (R271). -/
def Ctl.claimWinner (m : Ctl) (c : Claims) : Option Master :=
  if c.portA && c.portB then some (if m.get F.SEM_OWNER_ALT = 0 then .a else .b)
  else if c.portA then some .a
  else if c.portB then some .b
  else if c.svc then some .svc
  else none

/-- SEM_CLAIM (R270, R271): the claim reads of one cycle, and what each of them returns. -/
def execSemClaim (claims : Claims) (s : State) : Host.Outcome State Fault Refusal :=
  .next (run s fun _ m =>
    if !m.alive then m
    else
      let m := match m.claimWinner claims with
        | some x => m.claim x
        | none => m
      let answer := fun (m : Ctl) (on : Bool) (x : Master) => if on then m.emit (.value (m.claimValue x)) else m
      answer (answer (answer m claims.portA .a) claims.portB .b) claims.svc .svc)

/-- RENEW (R272): a write of `SEM_LEASE`. -/
def execRenew (x : Master) (value : BitVec 32) (s : State) : Host.Outcome State Fault Refusal :=
  .next (run s fun a m => m.masterWrite a x (D.SEM_LEASE.addr 0) value.toNat)

/-- RELEASE (R273): a write of `SEM_LEASE`. -/
def execRelease (x : Master) (value : BitVec 32) (s : State) : Host.Outcome State Fault Refusal :=
  .next (run s fun a m => m.masterWrite a x (D.SEM_LEASE.addr 0) value.toNat)

/-- LEASE_EXPIRY (R273): the count has reached 0. -/
def execLeaseExpiry (s : State) : Host.Outcome State Fault Refusal :=
  .next (run s fun _ m =>
    if m.owner != 0 && m.lease == 0 && m.leaseRuns then
      ((m.release fun _ => false).bump F.SEM_COUNT_EXPIRIES).raise 0x001
    else m)

/-- SVC_ABSENCE_EXPIRY (R274): both host ports have been absent for a full lease. -/
def execSvcAbsenceExpiry (s : State) : Host.Outcome State Fault Refusal :=
  .next (run s fun _ m =>
    if m.portAbsent .a && m.portAbsent .b && decide (m.leaseLen ≤ m.absent) then { m with longAbsent := true } else m)

/-! ## Setup and commits -/

/-- SETUP_WRITE (R277, R276). -/
def execSetupWrite (x : Master) (caddr : BitVec 24) (value : BitVec 32) (s : State) : Host.Outcome State Fault Refusal :=
  .next (run s fun a m => m.masterWrite a x caddr.toNat value.toNat)

/-- DISCARD (R279): a write of `CFG_CTRL`. -/
def execDiscard (x : Master) (value : BitVec 32) (s : State) : Host.Outcome State Fault Refusal :=
  .next (run s fun a m => m.masterWrite a x (D.CFG_CTRL.addr 0) value.toNat)

/-- ARM (R280): a write of `CFG_COMMIT_HI`. -/
def execArm (x : Master) (value : BitVec 32) (s : State) : Host.Outcome State Fault Refusal :=
  .next (run s fun a m => m.masterWrite a x (D.CFG_COMMIT_HI.addr 0) value.toNat)

/-- DIGEST_READY (R287). -/
def execDigestReady (s : State) : Host.Outcome State Fault Refusal := .next (run s fun _ m => m.digestDone)

/-! ## Owner control registers -/

/-- PWR_CTRL_CHIP_RESET (R392). -/
def execPwrCtrlChipReset (x : Master) (value : BitVec 32) (s : State) : Host.Outcome State Fault Refusal :=
  .next (run s fun a m => m.masterWrite a x (D.PWR_CTRL.addr 0) value.toNat)

/-- FUSE_LOCK (R429). -/
def execFuseLock (x : Master) (value : BitVec 32) (s : State) : Host.Outcome State Fault Refusal :=
  .next (run s fun a m => m.masterWrite a x (D.FUSE_LOCK.addr 0) value.toNat)

/-- FLT_INJECT (R472). -/
def execFltInject (x : Master) (value : BitVec 32) (s : State) : Host.Outcome State Fault Refusal :=
  .next (run s fun a m => m.masterWrite a x (D.FLT_INJECT.addr 0) value.toNat)

/-- FLT_OVF_IDX (R471). -/
def execFltOvfIdx (x : Master) (value : BitVec 32) (s : State) : Host.Outcome State Fault Refusal :=
  .next (run s fun a m => m.masterWrite a x (D.FLT_OVF_IDX.addr 0) value.toNat)

/-- The 128 bits of an overflow entry as a read of the cellar gives them (R471). -/
def Ctl.ovfEntry (m : Ctl) (a : Arr) (j : Nat) : Option Nat :=
  let c := m.cellarAt (ovfOffset j)
  if !m.canCopy || m.dark c.1 then none
  else (m.readWord a c.1 c.2.1).data?.map fun d => bits d (8 * c.2.2) 128

/-- OVERFLOW_READ_DONE (R471). `noise` is what was upset since the stack last looked. -/
def execOverflowReadDone (noise : Noise) (s : State) : Host.Outcome State Fault Refusal :=
  .next (run s fun a m =>
    let m := m.noise a noise
    if !m.ovfRead then m
    else
      let e := m.ovfEntry a (m.get F.FLT_OVF_IDX_INDEX)
      let m := (List.range 4).foldl (fun m k => m.set F.FLT_OVF_ENTRY_DATA k (bits (e.getD 0) (32 * k) 32)) m
      { (m.put F.FLT_OVF_STATUS_ERR (b2n e.isNone)).put F.FLT_OVF_STATUS_READY 1 with ovfRead := false })

/-- FLT_PEND_CLEAR (R468): a write of `FLT_PEND_k`. -/
def execFltPendClear (x : Master) (k : Fin 16) (value : BitVec 32) (s : State) : Host.Outcome State Fault Refusal :=
  .next (run s fun a m => m.masterWrite a x (D.FLT_PEND.addr k.val) value.toNat)

/-- PHY_LOOP_MODE (R310): a write of `PLx_PHY_LOOP`. -/
def execPhyLoopMode (x : Master) (l : Link) (value : BitVec 32) (s : State) : Host.Outcome State Fault Refusal :=
  .next (run s fun a m => m.masterWrite a x (D.PL_PHY_LOOP.addr l.idx) value.toNat)

/-! ## Plain accesses -/

/-- PAIR_LOW_READ (R364). -/
def execPairLowRead (x : Master) (caddr : BitVec 24) (s : State) : Host.Outcome State Fault Refusal :=
  .next (run s fun _ m => m.masterRead x caddr.toNat)

/-- REGISTER_WRITE (R7, R276). -/
def execRegisterWrite (x : Master) (caddr : BitVec 24) (value : BitVec 32) (s : State) : Host.Outcome State Fault Refusal :=
  .next (run s fun a m => m.masterWrite a x caddr.toNat value.toNat)

end Sys2Proof.Machine
end

