-- ==== Sys2Proof/Machine/Rs.lean ====
section
/-!
DEFINITION. The channel code of the peer links: PAM-4 levels (R290), RS(360,340) over GF(2^10) (R295), and the interleave of a
pair of codewords (R296, R297).
-/

namespace Sys2Proof.Machine

/-! ## GF(2^10) with x^10 + x^3 + 1 -/

/-- Multiply by alpha. -/
def gf10x (a : Nat) : Nat := (2 * a) ^^^ (a / 512 * 0x409)

/-- The product by the lowest `n` bits of the first factor. -/
def gf10MulLoop : Nat → Nat → Nat → Nat
  | 0, _, _ => 0
  | n + 1, a, b => (a % 2 * b) ^^^ gf10MulLoop n (a / 2) (gf10x b)

/-- The product. -/
def gf10Mul (a b : Nat) : Nat := gf10MulLoop 10 a b

/-- alpha to a power. -/
def gf10Alpha : Nat → Nat
  | 0 => 1
  | n + 1 => gf10x (gf10Alpha n)

/-- A power: squares of `a` by the bits of the exponent, of which there are `n`. -/
def gf10Pow : Nat → Nat → Nat → Nat
  | 0, _, _ => 1
  | n + 1, a, e => gf10Mul (if e % 2 = 1 then a else 1) (gf10Pow n (gf10Mul a a) (e / 2))

/-- The inverse of a non-zero element. -/
def gf10Inv (a : Nat) : Nat := gf10Pow 10 a 1022

/-! ## Polynomials, lowest coefficient first -/

/-- The sum. -/
def polyAdd : List Nat → List Nat → List Nat
  | [], q => q
  | p, [] => p
  | a :: p, b :: q => (a ^^^ b) :: polyAdd p q

/-- A multiple by an element. -/
def polyScale (c : Nat) (p : List Nat) : List Nat := p.map (gf10Mul c)

/-- The product. -/
def polyMul : List Nat → List Nat → List Nat
  | [], _ => []
  | a :: p, q => polyAdd (polyScale a q) (0 :: polyMul p q)

/-- The value at a point. -/
def polyEval (p : List Nat) (x : Nat) : Nat := p.foldr (fun a acc => a ^^^ gf10Mul acc x) 0

/-- The formal derivative: odd coefficients move down, even ones vanish. -/
def polyDeriv (p : List Nat) : List Nat := (p.zipIdx.map fun e => if e.2 % 2 = 1 then e.1 else 0).drop 1

/-! ## RS(360,340) -/

/-- The generator, with roots alpha^0 to alpha^19 (R295). -/
def rsGen : List Nat := (List.range 20).foldl (fun g i => polyMul g [gf10Alpha i, 1]) [1]

/-- 1 in each of 20 lanes of 10 bits. -/
def ones20 : Nat := (2 ^ 200 - 1) / 1023

/-- Multiply every lane by alpha. -/
def lanes10x (w : Nat) : Nat := ((w &&& (511 * ones20)) * 2) ^^^ (((w >>> 9) &&& ones20) * 9)

/-- Multiply every lane by the lowest `n` bits of an element. -/
def lanes10Mul : Nat → Nat → Nat → Nat
  | 0, _, _ => 0
  | n + 1, c, w => (c % 2 * w) ^^^ lanes10Mul n (c / 2) (lanes10x w)

/-- Coefficients side by side in one number, the first highest. -/
def packSyms (ss : List Nat) : Nat := ss.foldl (fun acc s => acc * 1024 + s) 0

/-- The generator without its leading coefficient, packed. -/
def rsGenPacked : Nat := packSyms (rsGen.reverse.drop 1)

/-- One step of the division by the generator: the packed remainder after one more data symbol. -/
def rsStep (g rem d : Nat) : Nat := (rem % 2 ^ 190 * 1024) ^^^ lanes10Mul 10 (d ^^^ (rem / 2 ^ 190)) g

/-- The check symbols of 340 data symbols, packed; symbol 0 is the highest coefficient of a codeword. -/
def rsRem (data : List Nat) : Nat := data.foldl (rsStep rsGenPacked) 0

/-- The 20 check symbols of 340 data symbols. -/
def rsCheck (data : List Nat) : List Nat := let r := rsRem data; (List.range 20).map fun k => r / 1024 ^ (19 - k) % 1024

/-- What a received word leaves of the division by the generator, packed: 0 for a codeword. -/
def rsLeft (w : List Nat) : Nat := rsRem (w.take 340) ^^^ packSyms (w.drop 340)

/-- The 20 syndromes of a received word, from what it leaves of the division. -/
def rsSyndromes (left : Nat) : List Nat :=
  let p := (List.range 20).map fun k => left / 1024 ^ k % 1024
  (List.range 20).map fun i => polyEval p (gf10Alpha i)

/-- The state of the Berlekamp-Massey search for the error locator. -/
structure Bm where
  loc : List Nat := [1]
  old : List Nat := [1]
  len : Nat := 0
  gap : Nat := 1
  disc : Nat := 1

/-- One step of the search, with syndrome `n`. -/
def bmStep (syn : List Nat) (s : Bm) (n : Nat) : Bm :=
  let d := (s.loc.zipIdx.map fun e => if e.2 ≤ n then gf10Mul e.1 (syn.getD (n - e.2) 0) else 0).foldl (· ^^^ ·) 0
  if d = 0 then { s with gap := s.gap + 1 }
  else
    let next := polyAdd s.loc (List.replicate s.gap 0 ++ polyScale (gf10Mul d (gf10Inv s.disc)) s.old)
    if 2 * s.len ≤ n then { loc := next, old := s.loc, len := n + 1 - s.len, gap := 1, disc := d }
    else { s with loc := next, gap := s.gap + 1 }

/-- The error of a received word at each power that the locator names: the power and the value. -/
def rsErrors (syn : List Nat) (loc : List Nat) : List (Nat × Nat) :=
  let omega := (polyMul syn loc).take 20
  let deriv := polyDeriv loc
  (List.range 360).filterMap fun j =>
    let x := gf10Pow 10 2 ((1023 - j) % 1023)
    if polyEval loc x = 0 then
      some (j, gf10Mul (gf10Pow 10 2 j) (gf10Mul (polyEval omega x) (gf10Inv (polyEval deriv x))))
    else none

/-- Decode a received word of 360 symbols: a codeword at most 10 symbols away, with how many differ; nothing where the decoder
gives up (R295, R297). -/
def rsDecode (w : List Nat) : Option (List Nat × Nat) :=
  let left := rsLeft w
  if left = 0 then some (w, 0)
  else
    let syn := rsSyndromes left
    let bm := (List.range 20).foldl (bmStep syn) {}
    let errs := rsErrors syn bm.loc
    let fixed := w.zipIdx.map fun e => match errs.find? fun r => r.1 == 359 - e.2 with | some r => e.1 ^^^ r.2 | none => e.1
    if errs.length ≤ 10 && rsLeft fixed = 0 then some (fixed, errs.length) else none

/-! ## Pairs -/

/-- The level that carries two bits (R290). -/
def levelOf (v : Nat) : Level := match v % 4 with | 0 => .l0 | 1 => .l1 | 3 => .l2 | _ => .l3

/-- The two bits of a level. -/
def levelCode : Level → Nat
  | .l0 => 0
  | .l1 => 1
  | .l2 => 3
  | .l3 => 2

/-- A 10-bit symbol as five levels, bits 9 and 8 first (R296). -/
def symLevels (v : Nat) : List Level := [levelOf (v / 256), levelOf (v / 64), levelOf (v / 16), levelOf (v / 4), levelOf v]

/-- Symbols out of levels. -/
def levelSyms : List Level → List Nat
  | a :: b :: c :: d :: e :: r => ((((levelCode a * 4 + levelCode b) * 4 + levelCode c) * 4 + levelCode d) * 4 + levelCode e) :: levelSyms r
  | _ => []

/-- Big-endian number of a byte list: stream bits in order (R296). -/
def beNat (bs : List Byte) : Nat := bs.foldl (fun acc b => acc * 256 + b.toNat) 0

/-- The 680 data symbols of 850 bytes. -/
def dataSyms (bs : List Byte) : List Nat := let n := beNat bs; (List.range 680).map fun k => n / 2 ^ (10 * (679 - k)) % 1024

/-- The 850 bytes of 680 data symbols. -/
def symBytes (ss : List Nat) : List Byte :=
  let n := packSyms ss
  (List.range 850).map fun k => BitVec.ofNat 8 (n / 2 ^ (8 * (849 - k)))

/-- The symbols of one of the two codewords of an interleaved list. -/
def pick (k : Nat) (ss : List Nat) : List Nat := (ss.zipIdx.filter fun e => e.2 % 2 == k).map (·.1)

/-- Interleave two codewords symbol by symbol. -/
def weave : List Nat → List Nat → List Nat
  | a :: r, b :: q => a :: b :: weave r q
  | _, _ => []

/-- The 3600 levels of a pair that carries 850 bytes (R290, R295, R296). -/
def pairLevels (bs : List Byte) : List Level :=
  let ss := dataSyms bs
  let a := pick 0 ss
  let b := pick 1 ss
  ((ss ++ weave (rsCheck a) (rsCheck b)).map symLevels).flatten

/-- Decode a pair: the 850 bytes and the outcome (R297). `left` are the data symbols, interleaved, that leave the decoder in the
places of a codeword on which it gives up. -/
def decodePair (levels : List Level) (left : List Nat) : List Byte × PairOutcome :=
  let ss := levelSyms levels
  let a := rsDecode (pick 0 ss)
  let b := rsDecode (pick 1 ss)
  let data := fun (x : Option (List Nat × Nat)) (k : Nat) => match x with | some y => y.1.take 340 | none => (pick k left).take 340
  let outcome := match a, b with
    | some x, some y => if x.2 = 0 && y.2 = 0 then PairOutcome.clean else .corrected
    | _, _ => .failed
  (symBytes (weave (data a 0) (data b 1)), outcome)

end Sys2Proof.Machine
end

