-- ==== Sys2Proof/Machine/PeerPhy.lean ====
section
/-!
DEFINITION. The peer-link physical layer and its frame layer (chapter 11, R312 to R320): training, bursts, pairs, replay of
control frames, and the wake of a direction.
-/

namespace Sys2Proof.Machine

/-! ## Faults of a link -/

/-- The source of a link's fault from that of link 0 (R462). -/
def plSource (l base : Nat) : Source := base + 0x10 * l

/-- Declare a link DOWN with its fault. -/
def Ctl.dropLink (m : Ctl) (l : Nat) : Ctl := (m.raise (plSource l 0x0B0)).linkDown l

/-- Do the peer links work in this mode? -/
def Ctl.linksRun (m : Ctl) : Bool := m.inMode [.training, .ready, .active, .drowse]

/-- Is a link up and at work? -/
def Ctl.linkLive (m : Ctl) (l : Nat) : Bool := m.plUp l && m.linksRun

/-! ## Training (R308, R309) -/

/-- Does the loopback code of a link act as 0 (R310): a reserved one, and a far-end one without coefficients? -/
def Ctl.loopOff (m : Ctl) (l : Nat) : Bool :=
  let k := m.get F.PL_PHY_LOOP_MODE l
  k == 0 || decide (5 ≤ k) || ((k == 3 || k == 4) && !(m.lnk l).trained)

/-- May a link train (R308, R446)? -/
def Ctl.mayTrainLink (m : Ctl) (l : Nat) : Bool :=
  m.inMode [.training, .ready, .active] && m.is F.PL_PHY_CTRL_ENABLE l && m.loopOff l &&
    m.get F.PL_PHY_STATUS_STATE l == 0 && !m.deadUnits.contains (2 + l)

/-- The taps of a preset (R292) as `PLx_FIR_l` lays them out. -/
def firPreset (code : Nat) : Nat :=
  let taps := fun (a b c d e : Int) =>
    (a % 64).toNat + (b % 64).toNat * 2 ^ 6 + (c % 64).toNat * 2 ^ 12 + (d % 64).toNat * 2 ^ 18 + (e % 64).toNat * 2 ^ 24
  match code with
  | 0 => taps 0 0 63 0 0
  | 1 => taps 0 (-4) 51 (-8) 0
  | 3 => taps 2 (-8) 41 (-12) 0
  | 4 => taps 2 (-10) 35 (-14) (-2)
  | _ => taps 0 (-6) 45 (-12) 0

/-- Show the taps of a lane. -/
def Ctl.setFir (m : Ctl) (i v : Nat) : Ctl :=
  ((((m.set F.PL_FIR_PRE2 i (bits v 0 6)).set F.PL_FIR_PRE1 i (bits v 6 6)).set F.PL_FIR_MAIN i (bits v 12 6)).set
    F.PL_FIR_POST1 i (bits v 18 6)).set F.PL_FIR_POST2 i (bits v 24 6)

/-- Store what a training found for the receivers and transmitters of a link, where it is not fixed (R292, R294). -/
def Ctl.storeCoeffs (m : Ctl) (l : Nat) (peak : List (Fin 8 × BitVec 6)) (fir : List (Fin 8 × BitVec 30)) : Ctl :=
  let m := peak.foldl (fun m e => m.set F.PL_LANE_PEAK (l * 8 + e.1.val) (min 36 e.2.toNat)) m
  let m := fir.foldl (fun m e => m.setFir (l * 8 + e.1.val) e.2.toNat) m
  (List.range 8).foldl (fun m k =>
    let i := l * 8 + k
    let m := if m.is F.PL_PHY_CFG_PEAK_FIX l then m.set F.PL_LANE_PEAK i (min 36 (m.get F.PL_PHY_CFG_PEAK l)) else m
    if m.is F.PL_PHY_CFG_FIR_FIX l then m.setFir i (firPreset (m.get F.PL_PHY_CFG_PRESET l)) else m) m

/-- Show which lanes failed the training: `pass` are the lanes that passed. -/
def Ctl.failedLanes (m : Ctl) (l pass : Nat) : Ctl :=
  (List.range 8).foldl (fun m k => m.set F.PL_LANE_FAILED (l * 8 + k) (b2n (!bit pass k))) m

/-- The width that passing lanes give (R308 T4): ×8, or ×4 on a half. -/
def Ctl.widthOf (m : Ctl) (l pass : Nat) : Option (Nat × Nat) :=
  if pass = 0xFF then some (0, 0)
  else if !m.is F.PL_PHY_CTRL_X4_EN l then none
  else if pass % 16 = 15 then some (1, 0)
  else if pass / 16 % 16 = 15 then some (1, 1)
  else none

/-- Store the one-way delay of a link (R54). -/
def Ctl.setDelay (m : Ctl) (l d : Nat) : Ctl :=
  if l = 0 then m.put F.ORB_BORROW_COMP_PEER0 d else m.put F.ORB_BORROW_COMP_PEER1 d

/-- A training ended at a step with a cause. -/
def Ctl.trainFail (m : Ctl) (l cause pass : Nat) : Ctl :=
  (m.set F.PL_TRAIN_LAST_CAUSE l cause).failedLanes l pass

/-- The lanes that a step which names none leaves passing: a free value. -/
def Ctl.freeLanes (m : Ctl) : Nat × Ctl := (Config.freeChoice m.free % 256, { m with free := m.free + 1 })

/-- The outcome of a training (R308, R307, R404). A training that comes to its fourth step has measured the delay. -/
def Ctl.linkTrain (m : Ctl) (l : Nat) (r : LinkTrain) : Ctl :=
  let m := m.bump F.PL_TRAIN_COUNT l
  match r with
  | .noTone => m.trainFail l 1 0
  | .roleClash => ((m.trainFail l 2 0).set F.PL_PHY_STATUS_ROLE_CLASH l 1).raise (plSource l 0x0B2)
  | .echo => let f := m.freeLanes; f.2.trainFail l 3 f.1
  | .equalise => let f := m.freeLanes; f.2.trainFail l 4 f.1
  | .verify lanes => m.trainFail l 5 lanes.toNat
  | .width lanes delay => (m.setDelay l delay.toNat).trainFail l 6 lanes.toNat
  | .pass lanes delay peak fir =>
    match m.widthOf l lanes.toNat with
    | none => (m.setDelay l delay.toNat).trainFail l 6 lanes.toNat
    | some w =>
      let m := ((m.failedLanes l lanes.toNat).set F.PL_PHY_STATUS_WIDTH l w.1).set F.PL_PHY_STATUS_HALF l w.2
      let m := ((m.storeCoeffs l peak fir).setDelay l delay.toNat).set F.PL_TRAIN_LAST_CAUSE l 0
      let m := m.modLnk l fun x => { x with trained := true, aborts := [], rxDead := false }
      if m.inMode [.training] then (m.set F.PL_PHY_STATUS_STATE l 1).set F.PL_PHY_STATUS_STEP l 4
      else ((m.set F.PL_PHY_STATUS_STATE l 2).set F.PL_PHY_STATUS_TX_AWAKE l 1).sendId l

/-- PL_TRAINING (R308). -/
def execPlTraining (l : Link) (r : LinkTrain) (s : State) : Host.Outcome State Fault Refusal :=
  .next (run s fun _ m => if m.mayTrainLink l.idx then m.linkTrain l.idx r else m)

/-- PL_TRAIN_RETRY (R308): a training failed, or the link was lost, and 100 ms have passed. -/
def execPlTrainRetry (l : Link) (r : LinkTrain) (s : State) : Host.Outcome State Fault Refusal :=
  .next (run s fun _ m =>
    if m.mayTrainLink l.idx && m.get F.PL_TRAIN_COUNT l.idx != 0 then m.linkTrain l.idx r else m)

/-! ## Sending bursts (R298, R312 to R318) -/

/-- Is a control frame sequenced (R315)? -/
def sequenced (body : Nat) : Bool := decide (1 ≤ body % 16) && decide (body % 16 ≤ 3)

/-- Units that a frame takes in a pair. -/
def Frame.units : Frame → Nat
  | .ctl _ => 1
  | .data _ ws => 1 + ws.length

/-- A unit with a CRC: a body of 28 bytes, and CRC-32C over it. -/
def unitOf (body : Nat) : List Byte :=
  let b := leBytes 28 body
  b ++ leBytes 4 (crc32c b)

/-- The units of a frame, with their UMAP codes (R313). -/
def Frame.pack : Frame → List (Nat × List Byte)
  | .ctl b => [(1, unitOf b)]
  | .data b ws => (2, unitOf b) :: ws.map fun w => (3, leBytes 32 w)

/-- The next frame to be sent with `room` units left in a pair: a replayed one first; a sequenced one takes the next CSEQ,
and waits while the replay buffer is full (R316). -/
def LinkSt.nextFrame (x : LinkSt) (room : Nat) : Option (Frame × LinkSt) :=
  match x.again with
  | c :: r => if room = 0 then none else some (.ctl (c.body + c.cseq * 16), { x with again := r })
  | [] =>
    let may := fun (f : Frame) => match f with
      | .ctl b => !sequenced b || decide (x.cbuf.length < 256)
      | .data _ _ => true
    match takeFirst may x.tx with
    | none => none
    | some (f, rest) =>
      if room < f.units then none
      else
        match f with
        | .ctl b =>
          if sequenced b then
            some (.ctl (b + x.cseq * 16),
              { x with tx := rest, cseq := (x.cseq + 1) % 4096, cbuf := x.cbuf ++ [{ cseq := x.cseq, body := b }] })
          else some (.ctl b, { x with tx := rest })
        | .data _ _ => some (f, { x with tx := rest })

/-- Fill the units of one pair. -/
def packUnits : Nat → List (Nat × List Byte) → LinkSt → List (Nat × List Byte) × LinkSt
  | 0, us, x => (us, x)
  | n + 1, us, x =>
    match x.nextFrame (26 - us.length) with
    | none => (us, x)
    | some (f, y) => packUnits n (us ++ f.pack) y

/-- The 850 bytes of a pair: the header with its acknowledgement, then 26 units (R312). -/
def LinkSt.pairBytes (x : LinkSt) (us : List (Nat × List Byte)) : List Byte :=
  let umap := (us.zipIdx.map fun e => e.1.1 * 4 ^ e.2).sum
  let head := leBytes 14 (umap + (x.ce + 4095) % 4096 * 2 ^ 52 + b2n x.ctaken * 2 ^ 64 + b2n x.cnak * 2 ^ 65)
  head ++ leBytes 4 (crc32c head) ++ (us.map (·.2)).flatten ++ List.replicate (32 * (26 - us.length)) (0 : Byte)

/-- The lanes that a link drives. -/
def Ctl.lanesOf (m : Ctl) (l : Nat) : List Nat :=
  if !m.is F.PL_PHY_STATUS_WIDTH l then List.range 8
  else if !m.is F.PL_PHY_STATUS_HALF l then List.range 4 else (List.range 4).map (· + 4)

/-- Send one pair on a lane (R290, R295, R296). -/
def Ctl.sendPair (m : Ctl) (l : Link) (lane : Nat) : Ctl :=
  let y := packUnits 26 [] (m.lnk l.idx)
  (m.modLnk l.idx fun _ => y.2).emit (.pair l lane (pairLevels (y.2.pairBytes y.1)))

/-- BURST_START (R298, R302): the whole burst, with the wake tone where the direction was asleep. A burst holds 1 to 470
pairs on each lane. -/
def execBurstStart (l : Link) (pairs : Nat) (s : State) : Host.Outcome State Fault Refusal :=
  if pairs = 0 || 470 < pairs then .refused (.illFormed "BURST_START")
  else
    .next (run s fun _ m =>
      if !m.linkLive l.idx then m
      else
        let m := if m.is F.PL_PHY_STATUS_TX_AWAKE l.idx then m else (m.emit (.tone l)).set F.PL_PHY_STATUS_TX_AWAKE l.idx 1
        (List.range pairs).foldl (fun m _ => (m.lanesOf l.idx).foldl (fun m k => m.sendPair l k) m) m)

/-! ## Receiving pairs (R314 to R320) -/

/-- Take the acknowledgement of a pair header (R316): frames up to CACK are released. -/
def LinkSt.takeAck (x : LinkSt) (cack : Nat) (valid nak : Bool) : LinkSt :=
  let gone := (x.cbuf.takeWhile fun c => c.cseq != cack).length + 1
  let x :=
    if valid && gone ≤ x.cbuf.length then
      let rest := x.cbuf.drop gone
      { x with cbuf := rest, again := x.again.filter fun c => rest.any fun d => d.cseq == c.cseq, fromCount := 0 }
    else x
  { x with nakIn := x.nakIn || nak }

/-- Take a control frame whose CRC is good (R315, R316): whether it is entered, and whether it counts as bad. -/
def LinkSt.takeCtl (x : LinkSt) (body : Nat) (failed : Bool) : LinkSt × Bool :=
  let plain := body - bits body 4 12 * 16
  if sequenced body then
    if bits body 4 12 = x.ce then
      let y := { x with ce := (x.ce + 1) % 4096, ctaken := true, cnak := false }
      let known := body % 16 != 3 || (decide (1 ≤ bits body 20 4) && decide (bits body 20 4 ≤ 5))
      (if known then { y with rx := y.rx ++ [(.ctl plain, failed)] } else y, false)
    else (x, false)
  else if 8 ≤ body % 16 && body % 16 ≤ 10 then ({ x with rx := x.rx ++ [(.ctl body, failed)] }, false)
  else (x, true)

/-- Is a data header malformed, when `n` payload units follow it (R319)? -/
def hdrBad (body n : Nat) : Bool :=
  let words := bits body 12 4 + 1
  body % 16 = 0 || 5 ≤ body % 16 || 8 < words || (bit body 16 && 2 < words) || n != words

/-- Enter the frames of a pair's units, in unit order: the link, and how many frames were malformed. -/
def takeUnits (failed : Bool) : Nat → List (Nat × List Byte) → LinkSt → Nat → LinkSt × Nat
  | 0, _, x, bad => (x, bad)
  | _ + 1, [], x, bad => (x, bad)
  | n + 1, (code, u) :: rest, x, bad =>
    let body := leNat (u.take 28)
    let good := crc32c (u.take 28) == leNat (u.drop 28)
    match code with
    | 1 =>
      if good then
        let y := x.takeCtl body failed
        takeUnits failed n rest y.1 (bad + b2n y.2)
      else takeUnits failed n rest { x with cnak := true } bad
    | 2 =>
      let pay := rest.takeWhile fun e => e.1 == 3
      let rest' := rest.drop pay.length
      if !good then takeUnits failed n rest' x bad
      else if hdrBad body pay.length then takeUnits failed n rest' x (bad + 1)
      else takeUnits failed n rest' { x with rx := x.rx ++ [(.data body (pay.map fun e => leNat e.2), failed)] } bad
    | _ => takeUnits failed n rest x bad

/-- The units of a pair with their codes. -/
def pairUnits (umap : Nat) (bs : List Byte) : List (Nat × List Byte) :=
  (List.range 26).map fun k => (bits umap (2 * k) 2, (bs.drop (32 * k)).take 32)

/-- A pair of a burst: whether it opens a new burst, and its effect on the counts of R306 and the estimates of R299, which
are free values. -/
def Ctl.burstPair (m : Ctl) (l : Nat) : Ctl :=
  let x := m.lnk l
  let fresh := x.rxDead || !m.rxBurst l
  let m := m.modLnk l fun x =>
    { x with rxDead := false, rxAt := some m.now, aborts := if fresh && !x.rxDead then [] else x.aborts }
  if fresh then
    (m.lanesOf l).foldl (fun m k =>
      ({ m with free := m.free + 1 }).set F.PL_LANE_AFC (l * 8 + k) (Config.freeChoice m.free)) m
  else m

/-- Take a decoded pair (R297, R314). -/
def Ctl.takePair (m : Ctl) (l : Nat) (bytes : List Byte) (outcome : PairOutcome) : Ctl :=
  let m := m.burstPair l
  let m := match outcome with
    | .clean => m
    | .corrected => m.bump F.PL_FEC_CORR l
    | .failed => m.bump F.PL_FEC_FAIL_COUNT l
  let head := leNat (bytes.take 14)
  if crc32c (bytes.take 14) != leNat ((bytes.drop 14).take 4) then m
  else
    let x := (m.lnk l).takeAck (bits head 52 12) (bit head 64) (bit head 65)
    let y := takeUnits (decide (outcome = .failed)) 27 (pairUnits (head % 2 ^ 52) (bytes.drop 18)) x 0
    (m.modLnk l fun _ => y.1).bump F.PL_CREPLAY_BAD l y.2

/-- A pair that a link in loopback receives (R310): FAR_END sends it back, and FE_TEST checks it; the errors that the checker
finds are a free value (DESIGN CHOICE, log entry 168). -/
def Ctl.loopPair (m : Ctl) (l : Link) (lane : Nat) (levels : List Level) : Ctl :=
  if m.get F.PL_PHY_STATUS_STATE l.idx != 3 then m
  else if m.get F.PL_PHY_LOOP_MODE l.idx = 3 then m.emit (.pair l lane levels)
  else if m.get F.PL_PHY_LOOP_MODE l.idx = 4 then
    { m with free := m.free + 1 }.bump F.PL_LOOP_ERR_COUNT l.idx (Config.freeChoice m.free % 7201)
  else m

/-- PAIR (R290, R295 to R297, R310, R314): the levels of a lane's pair as received. `left` are the data symbols that leave the decoder
where it gives up. -/
def execPair (l : Link) (lane : Fin 8) (levels : List Level) (left : List (BitVec 10)) (s : State) :
    Host.Outcome State Fault Refusal :=
  if levels.length = 3600 && left.length = 680 then
    .next (run s fun _ m =>
      if m.linkLive l.idx && (m.lanesOf l.idx).contains lane.val then
        let d := decodePair levels (left.map (·.toNat))
        m.takePair l.idx d.1 d.2
      else if m.linksRun then m.loopPair l lane.val levels
      else m)
  else .refused (.illFormed "PAIR")

/-- Count an aborted burst against its lane: the bursts in a row that the lane aborted (R306). -/
def LinkSt.countAbort (x : LinkSt) (lane : Nat) : LinkSt :=
  { x with aborts := [(lane, Sparse.getD x.aborts lane 0 + 1)], rxDead := true }

/-- BURST_ABORT (R305, R306). The pair in progress in a burst is a FAILED one, of which no frame is entered (DEDUCED, log entry
75). -/
def execBurstAbort (l : Link) (lane : Fin 8) (d : Detector) (s : State) : Host.Outcome State Fault Refusal :=
  .next (run s fun _ m =>
    let i := l.idx
    if !m.linkLive i || !(m.lanesOf i).contains lane.val then m
    else
      let m := match d with
        | .los => m.set F.PL_LANE_LOS (i * 8 + lane.val) 1
        | .lol => m.set F.PL_LANE_LOL (i * 8 + lane.val) 1
      let m := m.bump F.PL_ABORTS_COUNT i
      let m := if m.rxBurst i then m.bump F.PL_FEC_FAIL_COUNT i else m
      let clean := !(m.lnk i).rxDead && !m.rxBurst i
      let m := m.modLnk i fun x => (if clean then { x with aborts := [] } else x).countAbort lane.val
      if 16 ≤ Sparse.getD (m.lnk i).aborts lane.val 0 then
        ((m.set F.PL_LANE_FAILED (i * 8 + lane.val) 1).raise (plSource i 0x0B1) lane.val).dropLink i
      else m)

/-- CONTROL_REPLAY (R316): on CNAK, or where 4 us have passed with no release. -/
def execControlReplay (l : Link) (cnak : Bool) (s : State) : Host.Outcome State Fault Refusal :=
  .next (run s fun _ m =>
    let i := l.idx
    let x := m.lnk i
    match x.cbuf with
    | [] => m
    | o :: _ =>
      if !m.linkLive i || (cnak && !x.nakIn) then m
      else
        let n := if x.fromCount != 0 && x.fromSeq == o.cseq then x.fromCount + 1 else 1
        if 4 ≤ n then m.dropLink i
        else
          (m.modLnk i fun x => { x with again := x.cbuf, nakIn := false, fromSeq := o.cseq, fromCount := n }).bump
            F.PL_CREPLAY_REPLAYS i)

/-- DIRECTION_SLEEP (R301, R303): SLEEP_AFTER has passed with no burst; code 0 never sleeps. -/
def execDirectionSleep (l : Link) (s : State) : Host.Outcome State Fault Refusal :=
  .next (run s fun _ m =>
    let i := l.idx
    if m.linkLive i && m.get F.PL_PHY_CFG_SLEEP_AFTER i != 0 && !m.is F.PL_FAB_STATUS_PEER_BORROWS i then
      m.set F.PL_PHY_STATUS_TX_AWAKE i 0
    else m)

/-- WAKE_TONE (R302, R389): the tone of the peer's direction; it wakes the stack. -/
def execWakeTone (l : Link) (s : State) : Host.Outcome State Fault Refusal :=
  .next (run s fun _ m => if m.plUp l.idx then m.wakeUp (match l with | .l0 => .pl0 | .l1 => .pl1) else m)

end Sys2Proof.Machine
end

