-- ==== Sys2Proof/Machine/PeerFabric.lean ====
section
/-!
DEFINITION. The frames of a peer link at work (chapter 12, R322 to R334): remote requests and answers, mirror regions, beats
and beacons. A frame command takes the entered frame that it names; where no pair brought that frame, the command is its
arrival.
-/

namespace Sys2Proof.Machine

/-! ## Frames -/

/-- Take an entered frame. -/
def Ctl.takeFrame (m : Ctl) (l : Nat) (t : Frame → Bool → Bool) : Ctl :=
  match takeFirst (fun e => t e.1 e.2) (m.lnk l).rx with
  | some (_, rest) => m.modLnk l fun x => { x with rx := rest }
  | none => m

/-- Take an entered control frame with a given body. -/
def Ctl.takeBody (m : Ctl) (l body : Nat) : Ctl :=
  m.takeFrame l fun f _ => match f with | .ctl b => b == body | .data _ _ => false

/-- Take an entered data frame. -/
def Ctl.takeData (m : Ctl) (l body : Nat) (words : List Nat) (failed : Bool) : Ctl :=
  m.takeFrame l fun f e => match f with | .data b ws => b == body && ws == words && e == failed | .ctl _ => false

/-- The payload words of bytes. -/
def wordsOf (data : List Byte) : List Nat :=
  (List.range (data.length / 32)).map fun k => leNat ((data.drop (32 * k)).take 32)

/-- Can a data frame carry this payload (R318)? Byte enables come with at most two words. -/
def payloadOk (data : List Byte) (be : Option (BitVec 64)) : Bool :=
  data.length % 32 == 0 && decide (32 ≤ data.length) && decide (data.length ≤ 256) &&
    (be.isNone || decide (data.length ≤ 64))

/-- The block of a link in the entry handshake. -/
def linkBlock (l : Nat) : EntryBlock := if l = 0 then .pl0 else .pl1

/-- A data frame came in a FAILED pair (R320). -/
def Ctl.dataErr (m : Ctl) (l addr len : Nat) (failed : Bool) : Ctl :=
  if failed then (m.bump F.PL_DATA_ERR_COUNT l).raise (plSource l 0x0B3) (addr + len / 32 * 2 ^ 40) else m

/-! ## Requests from the peer (R322) -/

/-- Parts of a range, each within one 64 B line. -/
def lineParts : Nat → Nat → Nat → List (Nat × Nat)
  | 0, _, _ => []
  | n + 1, addr, len =>
    if len = 0 then []
    else
      let here := min len (64 - addr % 64)
      (addr, here) :: lineParts n (addr + here) (len - here)

/-- Judge a remote request by its form and the ingress windows (R322, R124): 0 where it may go on. -/
def Ctl.judgeRemote (m : Ctl) (l : Nat) (wr : Bool) (addr len align : Nat) : Nat :=
  if addr % align != 0 || badRange addr len then stBadRequest
  else if !(m.ingressOk l wr addr && m.ingressOk l wr (addr + len - 1)) then stOutOfWindow
  else 0

/-- Judge a remote write of several lines as a whole, before any of them is entered (R322, R124): a single line is judged at the
ingress of its PC. -/
def Ctl.judgeLines (m : Ctl) (addr len : Nat) : Nat :=
  match lineParts 16 addr len with
  | [_] => 0
  | parts =>
    if parts.any fun e => m.dark (m.place e.1).pc then stRetired
    else if parts.any fun e => m.frozen e.1 then stSplitReadonly
    else if parts.any fun e => m.filling e.1 then stChannelUnavailable
    else 0

/-- Record a request from the peer. -/
def Ctl.openIn (m : Ctl) (l : Nat) (o : InOp) : Ctl :=
  m.modLnk l fun x => { x with ins := x.ins ++ [o], nextIn := x.nextIn + 1 }

/-- Enter a remote read, one entry for each 64 B line. -/
def Ctl.openRead (m : Ctl) (l tag addr len : Nat) : Ctl :=
  let id := (m.lnk l).nextIn
  let parts := lineParts 16 addr len
  let m := m.openIn l { id := id, tag := tag, rd := true, addr := addr, len := len, left := parts.length }
  parts.foldl (fun m e =>
    m.submit (m.place e.1).pc { who := .link (linkOf l) id, acc := .read, addr := e.1, len := e.2 }) m

/-- Enter a remote or mirror write, one entry for each 64 B line that has an enabled byte. -/
def Ctl.openWrite (m : Ctl) (l tag addr : Nat) (be : Option (BitVec 64)) (data : List Byte) (derr mirror : Bool) : Ctl :=
  let id := (m.lnk l).nextIn
  let mask := match be with | some b => b.toNat % 2 ^ data.length | none => fullBe data.length
  let cut := fun (e : Nat × Nat) => (mask >>> (e.1 - addr)) % 2 ^ e.2
  let parts := (lineParts 16 addr data.length).filter fun e => cut e != 0
  if parts.isEmpty then m.sendCtl l (cplBody tag 0 derr mirror)
  else
    let m := m.openIn l
      { id := id, tag := tag, rd := false, addr := addr, len := data.length, left := parts.length, mirror := mirror, derr := derr }
    parts.foldl (fun m e =>
      m.submit (m.place e.1).pc
        { who := .link (linkOf l) id, acc := .write, addr := e.1, len := e.2,
          data := (data.drop (e.1 - addr)).take e.2, be := cut e }) m

/-- RD_REQ (R322). -/
def execRdReq (l : Link) (tag : BitVec 8) (size : ReqSize) (addr : BitVec 37) (s : State) :
    Host.Outcome State Fault Refusal :=
  .next (run s fun _ m =>
    let i := l.idx
    if !m.linkLive i then m
    else
      let code := match size with | .s32 => 0 | .s64 => 1 | .s128 => 2 | .s256 => 3
      let m := (m.takeBody i (1 + tag.toNat * 2 ^ 16 + code * 2 ^ 24 + addr.toNat * 2 ^ 26)).newWork (linkBlock i)
      let st := m.judgeRemote i false addr.toNat size.bytes size.bytes
      if st != 0 then m.sendCtl i (cplBody tag.toNat st false false)
      else m.openRead i tag.toNat addr.toNat size.bytes)

/-- WR (R322). -/
def execWr (l : Link) (tag : BitVec 8) (addr : BitVec 37) (be : Option (BitVec 64)) (data : List Byte) (failed : Bool)
    (s : State) : Host.Outcome State Fault Refusal :=
  if payloadOk data be then
    .next (run s fun _ m =>
      let i := l.idx
      if !m.linkLive i then m
      else
        let body := dataHdr 1 tag.toNat (data.length / 32) (be.map BitVec.toNat) 0 0 addr.toNat
        let m := (m.takeData i body (wordsOf data) failed).newWork (linkBlock i)
        let m := m.dataErr i addr.toNat data.length failed
        let st := m.judgeRemote i true addr.toNat data.length 32
        let st := if st = 0 then m.judgeLines addr.toNat data.length else st
        if st != 0 then m.sendCtl i (cplBody tag.toNat st failed false)
        else m.openWrite i tag.toNat addr.toNat be data failed false)
  else .refused (.illFormed "WR")

/-! ## Answers (R323) -/

/-- An operation of a link by its TAG. -/
def Ctl.op? (m : Ctl) (l tag : Nat) : Option LinkOp := (m.lnk l).ops.find? fun o => o.tag == tag

/-- Forget an operation, so that its TAG is free. -/
def Ctl.freeOp (m : Ctl) (l tag : Nat) : Ctl :=
  m.modLnk l fun x => { x with ops := x.ops.filter fun o => o.tag != tag }

/-- CPL (R323, R327): it ends the operation of its TAG; a late one frees a TAG that a timeout ended. -/
def execCpl (l : Link) (tag : BitVec 8) (status : BitVec 4) (derr mirror : Bool) (s : State) :
    Host.Outcome State Fault Refusal :=
  .next (run s fun _ m =>
    let i := l.idx
    if !m.linkLive i then m
    else
      let m := m.takeBody i (cplBody tag.toNat status.toNat derr mirror)
      match m.op? i tag.toNat with
      | none => m
      | some o => if o.dead then m.freeOp i o.tag else m.endOp i o status.toNat true derr)

/-- RD_DATA (R323, R261): the data of a remote READ or of a granule of a REMOTE_READ. -/
def Ctl.rdData (m : Ctl) (l : Nat) (o : LinkOp) (pmask : Nat) (data : List Byte) (failed : Bool) : Ctl :=
  let bad := (List.range (data.length / 32)).find? fun k => bit pmask k
  match o.kind with
  | .rdPort p pos =>
    (m.freeOp l o.tag).finishReq p pos (if bad.isSome then stPoison else stOk) (payload := some data)
      (bad := bad.map fun k => o.loc + 32 * k)
  | .rdDesc r i g =>
    let m := m.freeOp l o.tag
    let m := if failed then m.modProg r i fun d => { d with linkErr := true } else m
    match bad with
    | some k => m.granFail r i g { status := 0x10, addr := o.addr + 32 * k, remote := true }
    | none =>
      match m.prog? r i with
      | none => m
      | some d =>
        match d.grans.find? fun q => q.id == g with
        | none => m
        | some q => if d.stop.isSome then m.granSkip r i g else m.submitGran r i g false .write q.dst q.len data 0 d.session
  | _ => m

/-- RD_DATA (R323). -/
def execRdData (l : Link) (tag : BitVec 8) (addr : BitVec 37) (pmask : BitVec 8) (data : List Byte) (failed : Bool)
    (s : State) : Host.Outcome State Fault Refusal :=
  if payloadOk data none then
    .next (run s fun _ m =>
      let i := l.idx
      if !m.linkLive i then m
      else
        let m := m.takeData i (dataHdr 2 tag.toNat (data.length / 32) none pmask.toNat 0 addr.toNat) (wordsOf data) failed
        let m := m.dataErr i addr.toNat data.length failed
        match m.op? i tag.toNat with
        | none => m
        | some o => if o.dead || o.len != data.length || o.addr != addr.toNat then m else m.rdData i o pmask.toNat data failed)
  else .refused (.illFormed "RD_DATA")

/-- REMOTE_TIMEOUT (R323): no answer within 1 ms. -/
def execRemoteTimeout (l : Link) (tag : BitVec 8) (s : State) : Host.Outcome State Fault Refusal :=
  .next (run s fun _ m =>
    match m.op? l.idx tag.toNat with
    | none => m
    | some o => if o.dead then m else m.endOp l.idx o 0 false false)

/-! ## Mirror writes (R328) -/

/-- Judge a mirror frame: 0 where the region it names is a SECONDARY one of this link that contains it. -/
def Ctl.judgeMirror (m : Ctl) (l r addr len : Nat) : Nat :=
  let lo := m.get F.MIR_LBASE_BASE r * 65536
  if addr % 32 = 0 && m.mirIs r 2 && m.get F.MIR_CTRL_LINK r == l && decide (lo ≤ addr) &&
      decide (addr + len ≤ lo + m.mirSize r * 65536) then 0
  else if m.frozen addr then stSplitReadonly
  else stBadRequest

/-- A mirror or resync write (R328, R330). -/
def Ctl.mirrorIn (m : Ctl) (l kind tag r addr : Nat) (be : Option (BitVec 64)) (data : List Byte) (failed : Bool) : Ctl :=
  if !m.linkLive l then m
  else
    let body := dataHdr kind tag (data.length / 32) (be.map BitVec.toNat) 0 r addr
    let m := (m.takeData l body (wordsOf data) failed).newWork (linkBlock l)
    let m := m.dataErr l addr data.length failed
    let st := m.judgeMirror l r addr data.length
    if st != 0 then m.sendCtl l (cplBody tag st failed true) else m.openWrite l tag addr be data failed true

/-- MIR_WR (R328). -/
def execMirWr (l : Link) (tag : BitVec 8) (region : Fin 16) (addr : BitVec 37) (be : Option (BitVec 64)) (data : List Byte)
    (failed : Bool) (s : State) : Host.Outcome State Fault Refusal :=
  if payloadOk data be then
    .next (run s fun _ m => m.mirrorIn l.idx 3 tag.toNat region.val addr.toNat be data failed)
  else .refused (.illFormed "MIR_WR")

/-- RESYNC_WR (R330). -/
def execResyncWr (l : Link) (tag : BitVec 8) (region : Fin 16) (addr : BitVec 37) (data : List Byte) (failed : Bool)
    (s : State) : Host.Outcome State Fault Refusal :=
  if payloadOk data none then
    .next (run s fun _ m => m.mirrorIn l.idx 4 tag.toNat region.val addr.toNat none data failed)
  else .refused (.illFormed "RESYNC_WR")

/-- MIR_LAG (R327): the oldest unanswered MIR_WR of a region is older than its lag budget. -/
def execMirLag (region : Fin 16) (s : State) : Host.Outcome State Fault Refusal :=
  .next (run s fun _ m =>
    if m.mirIs region.val 1 && m.get F.MIR_CTRL_LAG region.val != 0 && m.lagging region.val then m.raise 0x0BA region.val
    else m)

/-! ## Joining and resync (R330) -/

/-- Does a region belong to a link, and is it enabled? -/
def Ctl.mirOn (m : Ctl) (l r : Nat) : Bool :=
  m.get F.MIR_CTRL_LINK r == l && m.mirState r != 0 && m.mirState r != 5

/-- Both sides of a refused join take CONFLICT (R330 rule 3). One that was in it and retries goes on retrying. -/
def Ctl.conflict (m : Ctl) (r : Nat) : Ctl :=
  let again := m.mirState r == 4
  ((m.set F.MIR_STATUS_STATE r 4).modMir r fun x => { x with retry := again && x.retry }).raise 0x0B9 r

/-- A MIR_CTL frame of a region: it acts while the link is up. -/
def Ctl.onMirCtl (m : Ctl) (l r cmd : Nat) (f : Ctl → Ctl) : Ctl :=
  if m.linkLive l then f (m.takeBody l (mirCtl r cmd)) else m

/-- JOIN (R330 rule 2). `size` is the joining region's LAST. -/
def execJoin (l : Link) (region : Fin 16) (size : BitVec 18) (s : State) : Host.Outcome State Fault Refusal :=
  .next (run s fun _ m =>
    let i := l.idx
    let r := region.val
    m.onMirCtl i r 1 fun m =>
      if m.mirOn i r && m.mirIs r 2 && m.get F.MIR_SIZE_LAST r == size.toNat then
        (m.set F.MIR_STATUS_STATE r 2).sendCtl i (mirCtl r (if m.is F.MIR_STATUS_VALID_COPY r then 2 else 3))
      else
        let m := m.sendCtl i (mirCtl r 5)
        if m.mirOn i r then m.conflict r else m)

/-- Does a PRIMARY region wait for the answer to its JOIN? -/
def Ctl.joining (m : Ctl) (l r : Nat) : Bool := m.mirOn l r && m.mirIs r 1 && (m.mirState r == 3 || m.mirState r == 4)

/-- ACCEPT (R330): the region is RESYNCING. -/
def execAccept (l : Link) (region : Fin 16) (s : State) : Host.Outcome State Fault Refusal :=
  .next (run s fun _ m =>
    m.onMirCtl l.idx region.val 2 fun m =>
      if m.joining l.idx region.val then m.set F.MIR_STATUS_STATE region.val 2 else m)

/-- NEED_FULL (R330 rule 3): every bit is set, and the region is RESYNCING. -/
def execNeedFull (l : Link) (region : Fin 16) (s : State) : Host.Outcome State Fault Refusal :=
  .next (run s fun _ m =>
    m.onMirCtl l.idx region.val 3 fun m =>
      if m.joining l.idx region.val then
        (m.set F.MIR_STATUS_STATE region.val 2).modMir region.val fun x => x.setDirty [(0, m.mirSize region.val)]
      else m)

/-- SYNCED (R330 rule 5): the secondary holds a valid copy. -/
def execSynced (l : Link) (region : Fin 16) (s : State) : Host.Outcome State Fault Refusal :=
  .next (run s fun _ m =>
    m.onMirCtl l.idx region.val 4 fun m =>
      if m.mirOn l.idx region.val && m.mirIs region.val 2 && m.mirState region.val == 2 then
        ((m.set F.MIR_STATUS_STATE region.val 1).set F.MIR_STATUS_VALID_COPY region.val 1).bump F.MIR_COUNT_RESYNCS region.val
      else m)

/-- REFUSE (R330 rule 3). -/
def execRefuse (l : Link) (region : Fin 16) (s : State) : Host.Outcome State Fault Refusal :=
  .next (run s fun _ m =>
    m.onMirCtl l.idx region.val 5 fun m => if m.joining l.idx region.val then m.conflict region.val else m)

/-- The next dirty granule that may be sent: the lowest whose die is not being filled (R326). -/
def Ctl.nextDirty (m : Ctl) (r : Nat) : Option Nat :=
  (m.mir r).dirty.findSome? fun e =>
    ((List.range (e.2 - e.1)).map (· + e.1)).find? fun g => !m.filling ((m.get F.MIR_LBASE_BASE r + g) * 65536)

/-- Read one word to be sent to the secondary (R192, R210); one that cannot be read is sent as undefined bytes. -/
def Ctl.resyncWord (m : Ctl) (a : Arr) (addr : Nat) : Nat × Ctl :=
  let w := m.wordAt addr
  let raw := Got.ofRaw (m.capture a w.1 w.2)
  let m := (m.refillSpare w.1 w.2 raw).count 6 32
  match m.readWord a w.1 w.2 with
  | .clean d => (d, m)
  | .corrected d =>
    if decide (raw = .uncorrectable) then (d, (m.bump F.CH_CODE_REBUILT w.1).noteWord w.1 w.2 true)
    else
      let m := m.bump F.CH_CODE_CORRECTED w.1
      (d, if m.remapped w.1 w.2 then m else m.noteWord w.1 w.2 false)
  | _ =>
    let fb := (m.reportBad w.1 w.2 true).freeBytes 32
    (leNat fb.1, fb.2)

/-- Send the lines of the granule in hand from line `k` on, as long as TAGs are free (R317, R330 rule 4). Lines in a dark
PC are passed over; a PC in a block reset holds the walk. -/
def Ctl.resyncLines (m : Ctl) (a : Arr) (r g : Nat) : Nat → Nat → Ctl
  | 0, _ => m.modMir r fun x => { x with walk := none }
  | n + 1, k =>
    let l := m.get F.MIR_CTRL_LINK r
    let off := g * 65536 + 64 * k
    let addr := m.get F.MIR_LBASE_BASE r * 65536 + off
    let pc := (m.place addr).pc
    let hold := m.modMir r fun x => { x with walk := some (g, k) }
    if m.dark pc then m.resyncLines a r g n (k + 1)
    else if (m.pc pc).reset.isSome then hold
    else
      match m.freeTag l with
      | none => hold
      | some t =>
        let x := m.resyncWord a addr
        let y := x.2.resyncWord a (addr + 32)
        let ra := (m.get F.MIR_RBASE_RBASE r * 65536 + off) % 2 ^ 37
        let m := (y.2.addOp l { tag := t, kind := .resync r, addr := ra, loc := addr, len := 64 }).sendData l
          (dataHdr 4 t 2 none 0 r ra) [x.1, y.1]
        m.resyncLines a r g n (k + 1)

/-- Is every resync write of a region answered? -/
def Ctl.resyncDone (m : Ctl) (r : Nat) : Bool :=
  !(m.lnk (m.get F.MIR_CTRL_LINK r)).ops.any fun o => match o.kind with | .resync q => q == r && !o.dead | _ => false

/-- RESYNC_SEND (R330 rules 4 and 5): one turn of the walk: the rest of the granule in hand, or the next dirty one, whose bit
is cleared first; or SYNCED, where nothing is left. -/
def Ctl.resyncSend (m : Ctl) (a : Arr) (r : Nat) : Ctl :=
  let l := m.get F.MIR_CTRL_LINK r
  if !m.linkLive l || !m.mirIs r 1 || m.mirState r != 2 then m
  else
    match (m.mir r).walk with
    | some (g, k) => m.resyncLines a r g (1024 - k) k
    | none =>
      match m.nextDirty r with
      | some g => (m.modMir r fun x => x.setDirty (rangeDel g x.dirty)).resyncLines a r g 1024 0
      | none =>
        if (m.mir r).dirty.isEmpty && m.resyncDone r then
          ((m.sendCtl l (mirCtl r 4)).set F.MIR_STATUS_STATE r 1).bump F.MIR_COUNT_RESYNCS r
        else m

/-- RESYNC_SEND (R330). -/
def execResyncSend (region : Fin 16) (s : State) : Host.Outcome State Fault Refusal :=
  .next (run s fun a m => m.resyncSend a region.val)

/-! ## Beats and beacons -/

/-- Where a carried marker falls (R331, R54): the arrival of its pair, OFFSET in 1/16 phase, and the link's stored delay. -/
def Ctl.beatTime (m : Ctl) (l offset : Nat) : Nat :=
  let comp := if l = 0 then m.get F.ORB_BORROW_COMP_PEER0 else m.get F.ORB_BORROW_COMP_PEER1
  m.now + (offset + 16 * comp) * m.orb.period / 65536

/-- BEAT (R331, R55, R56): a carried marker. It is not eligible where its origin is the stack itself. The time of the command is
the arrival of the pair's first symbol. -/
def execBeat (l : Link) (b : Fin 3) (k : BitVec 6) (borrowed : Bool) (hop : BitVec 2) (offset : BitVec 16)
    (origin : BitVec 64) (s : State) : Host.Outcome State Fault Refusal :=
  .next (run s fun _ m =>
    let i := l.idx
    if !m.linkLive i then m
    else
      let m := m.takeBody i (8 + b.val * 2 ^ 16 + k.toNat * 2 ^ 18 + (if borrowed then 3 else 1) * 2 ^ 24 + hop.toNat * 2 ^ 26 +
        offset.toNat * 2 ^ 28 + origin.toNat * 2 ^ 44)
      if origin.toNat = m.serial then m
      else
        let bv := if b.val = 0 then some false else if b.val = 1 then some true else none
        m.carriedMarker i
          { time := m.beatTime i offset.toNat, k := k.toNat, val := bv, hop := hop.toNat, origin := origin.toNat })

/-- A peer's serial number differs from the one stored while the link stayed UP (R333): its regions break. -/
def Ctl.newPeer (m : Ctl) (l serial : Nat) : Ctl :=
  if (m.lnk l).idSeen && m.get F.PL_PEER_ID l != serial then
    (List.range 16).foldl (fun m r => if m.mirOn l r then m.breakMir r true else m) m
  else m

/-- The roles that an ID_BEACON shows (R332): a region in CONFLICT whose role at the peer has changed joins again (R330, DEDUCED,
log entry 169). -/
def Ctl.takeRoles (m : Ctl) (l roles : Nat) : Ctl :=
  let was := (m.lnk l).roles
  let m := if (m.lnk l).idSeen then
      (List.range 16).foldl (fun m r =>
        if m.mirOn l r && m.mirState r == 4 && bits was (2 * r) 2 != bits roles (2 * r) 2 then
          m.modMir r fun x => { x with retry := true }
        else m) m
    else m
  m.modLnk l fun x => { x with idAge := 0, idSeen := true, roles := roles }

/-- ID_BEACON (R332, R333, R57). -/
def execIdBeacon (l : Link) (serial : BitVec 64) (orbit : BitVec 48) (ostate : BitVec 3) (nvalid borrowing : Bool)
    (roles : BitVec 32) (s : State) : Host.Outcome State Fault Refusal :=
  .next (run s fun _ m =>
    let i := l.idx
    if !m.linkLive i then m
    else
      let m := m.takeBody i (9 + serial.toNat * 2 ^ 16 + orbit.toNat * 2 ^ 80 + ostate.toNat * 2 ^ 128 + b2n nvalid * 2 ^ 131 +
        b2n borrowing * 2 ^ 132 + roles.toNat * 2 ^ 133)
      let m := m.newPeer i serial.toNat
      let m := ((m.set F.PL_PEER_ID i serial.toNat).set F.PL_FAB_STATUS_PEER_VALID i 1).set F.PL_FAB_STATUS_PEER_BORROWS i
        (b2n borrowing)
      let m := m.takeRoles i roles.toNat
      let mine := (m.lnk i).sentOrbit
      let m :=
        if nvalid && m.numValid && mine.isSome && decide (mine ≠ some orbit.toNat) &&
            !(m.orbState == osBorrowed && m.orb.source == i + 1) then m.raise 0x063
        else m
      m.joins i true)

/-- ID_BEACON_TIMEOUT (R333): none has come for 256 orbits. -/
def execIdBeaconTimeout (l : Link) (s : State) : Host.Outcome State Fault Refusal :=
  .next (run s fun _ m => if m.linkLive l.idx && decide (256 ≤ (m.lnk l.idx).idAge) then m.dropLink l.idx else m)

/-- DIG_BEACON (R288, R334). -/
def execDigBeacon (l : Link) (group : BitVec 16) (digest : BitVec 64) (boundary : BitVec 48) (s : State) :
    Host.Outcome State Fault Refusal :=
  .next (run s fun _ m =>
    let i := l.idx
    if !m.linkLive i then m
    else
      let m := m.takeBody i (10 + group.toNat * 2 ^ 16 + digest.toNat * 2 ^ 32 + boundary.toNat * 2 ^ 96)
      if group.toNat = 0 || group.toNat != m.get F.CFG_GROUP_GROUP then m
      else
        let m := m.set F.CFG_PEER_DIGEST i digest.toNat
        let f := if i = 0 then F.CFG_STATUS_MISMATCH0 else F.CFG_STATUS_MISMATCH1
        match (m.lnk i).sentDig with
        | some (d, n) =>
          if n != boundary.toNat then m
          else if d = digest.toNat then m.put f 0
          else (m.put f 1).raise 0x003
        | none => m)

end Sys2Proof.Machine
end

