-- ==== Sys2Proof/Machine/Service.lean ====
section
/-!
DEFINITION. The meanings of the service-port commands (chapter 13): link training, configuration requests, BAR0 and BAR2
accesses, Bus Master Enable, and the loss of the service host.
-/

namespace Sys2Proof.Machine

/-! ## When requests reach the stack -/

/-- May a memory request of the service host reach the stack: the link is up, and READY or QUARANTINE has been reached
(R405, R508)? -/
def Ctl.barOpen (m : Ctl) : Bool :=
  m.is F.SVC_STATUS_LINK && m.inMode [.ready, .active, .drowse, .quarantine]

/-- The next `n` places in the service port's order. -/
def Ctl.svcPlaces (m : Ctl) (n : Nat) : Nat × Ctl :=
  (m.svc.nextPos, { m with svc := { m.svc with nextPos := m.svc.nextPos + n } })

/-- A place in the service port's order, with the label that its accesses carry (R214). -/
def Ctl.svcReq (m : Ctl) (pos op : Nat) (st : ReqSt) : Req :=
  { pos := pos, g := 0, tag := 0, op := op, session := m.get F.QOS_SVC_LABEL_LABEL, st := st }

/-! ## BAR0 -/

/-- A BAR0 access takes its place in order, and is performed once its order lets it (R341). -/
def Ctl.bar0 (m : Ctl) (op addr value : Nat) : Ctl :=
  let m := m.newWork .svc
  let x := m.svcPlaces 1
  let m := x.2
  { m with svc := { m.svc with
      reqs := m.svc.reqs ++ [{ m.svcReq x.1 op .waiting with addr := addr, value := value }] } }

/-- BAR0_READ (R336, R337): one DW with any byte enable. -/
def execBar0Read (offset : BitVec 24) (be : BitVec 4) (dws : Nat) (s : State) : Host.Outcome State Fault Refusal :=
  .next (run s fun _ m =>
    if m.barOpen then
      let o := offset.toNat
      if m.get F.SVC_STATUS_DSTATE != 0 then m.emit (.tlpStatus 1)
      else if dws != 1 || be = 0 || o % 4 != 0 then (m.put F.SVC_ERR_BAR0_FORM 1).emit (.tlpStatus 1)
      else if configGap o 4 then m.emit (.tlpStatus 1)
      else m.bar0 4 o 0
    else m)

/-- BAR0_WRITE (R336, R337): one DW with all byte enables. -/
def execBar0Write (offset : BitVec 24) (be : BitVec 4) (dws : Nat) (value : BitVec 32) (s : State) :
    Host.Outcome State Fault Refusal :=
  .next (run s fun _ m =>
    if m.barOpen then
      let o := offset.toNat
      if m.get F.SVC_STATUS_DSTATE != 0 then m.emit (.aer 1)
      else if dws != 1 || be != 15 || o % 4 != 0 then (m.put F.SVC_ERR_BAR0_FORM 1).emit (.aer 1)
      else if configGap o 4 then m.emit (.aer 1)
      else m.bar0 5 o value.toNat
    else m)

/-! ## BAR2 -/

/-- The bytes of the BAR2 window (R338). -/
def Ctl.windowBytes (m : Ctl) : Nat := if m.svcWindowBad then 0 else min 16384 (m.get F.SVC_WIN_SIZE_SIZE) * 65536

/-- The user address of a BAR2 offset. -/
def Ctl.windowAddr (m : Ctl) (o : Nat) : Nat := m.get F.SVC_WIN_BASE_BASE * 65536 + o

/-- The granules of a range: at most 64 B, each within one line (R339). -/
def granules : Nat → Nat → Nat → List (Nat × Nat)
  | 0, _, _ => []
  | n + 1, a, len =>
    if len = 0 then []
    else
      let here := min len (64 - a % 64)
      (a, here) :: granules n (a + here) (len - here)

/-- Hand granules to the ingress of their PCs, in the places from `pos` up (R139, R339). All of them stand behind what
came before their request, and in no order among themselves. -/
def Ctl.svcSubmit (m : Ctl) (base : Nat) (acc : Access) : Nat → List (Nat × List Byte × Nat × Nat) → Ctl
  | _, [] => m
  | pos, (a, data, be, len) :: r =>
    let q := m.svcReq pos (match acc with | .read => 0 | _ => 2) .held
    let m := { m with svc := { m.svc with reqs := m.svc.reqs ++ [q] } }
    let m := m.submit (m.place a).pc
      { who := .svc pos, acc := acc, addr := a, len := len, data := data, be := be, pos := base, label := q.session }
    m.svcSubmit base acc (pos + 1) r

/-- BAR2_READ (R338 to R340): at most 4096 B (R335). -/
def execBar2Read (offset : BitVec 30) (len : Nat) (s : State) : Host.Outcome State Fault Refusal :=
  if 4096 < len then .refused (.illFormed "BAR2_READ")
  else
    .next (run s fun _ m =>
      if !m.barOpen then m
      else if m.inMode [.quarantine] then m.emit (.tlpStatus 2)
      else if m.get F.SVC_STATUS_DSTATE != 0 then m.emit (.tlpStatus 1)
      else if len = 0 then m.emit (.tlpData [0] false)
      else if m.windowBytes < offset.toNat + len then m.emit (.tlpStatus 1)
      else
        let m := m.newWork .svc
        let a := m.windowAddr offset.toNat
        let gs := granules 65 a len
        let x := m.svcPlaces gs.length
        let m := x.2
        let t : Tlp := { id := x.1, count := gs.length, wr := false, addr := a, len := len, left := gs.length }
        let m := { m with svc := { m.svc with tlps := m.svc.tlps ++ [t] } }
        m.svcSubmit x.1 .read x.1 (gs.map fun g => (g.1, [], 0, g.2)))

/-- The part of a write that lies in one granule: bytes and enables. -/
def granPart (a : Nat) (data : List Byte) (be : List Bool) (g : Nat × Nat) : Nat × List Byte × Nat × Nat :=
  let e := (be.drop (g.1 - a)).take g.2
  (g.1, (data.drop (g.1 - a)).take g.2, (e.zipIdx.map fun x => b2n x.1 * 2 ^ x.2).sum, g.2)

/-- BAR2_WRITE (R338, R339): at most 512 B (R335), with an enable for every byte. -/
def execBar2Write (offset : BitVec 30) (data : List Byte) (be : List Bool) (s : State) :
    Host.Outcome State Fault Refusal :=
  if data.length ≠ be.length || 512 < data.length then .refused (.illFormed "BAR2_WRITE")
  else
    .next (run s fun _ m =>
      if !m.barOpen then m
      else if !be.any id then m
      else if m.inMode [.quarantine] then (m.put F.SVC_ERR_WR_FAIL 1).emit (.aer 2)
      else if m.get F.SVC_STATUS_DSTATE != 0 then m.emit (.aer 1)
      else
        let m := m.newWork .svc
        let a := m.windowAddr offset.toNat
        let all := ((granules 10 a data.length).map (granPart a data be)).filter fun g => g.2.2.1 != 0
        let inside := fun (g : Nat × List Byte × Nat × Nat) => decide (g.1 + g.2.2.2 ≤ a - offset.toNat + m.windowBytes)
        let m := if all.all inside then m else (m.put F.SVC_ERR_WIN_MISS 1).emit (.aer 1)
        let gs := all.filter inside
        if gs.isEmpty then m
        else
          let x := m.svcPlaces gs.length
          let m := x.2
          let t : Tlp := { id := x.1, count := gs.length, wr := true, addr := a, len := data.length, left := gs.length }
          let m := { m with svc := { m.svc with tlps := m.svc.tlps ++ [t] } }
          m.svcSubmit x.1 .write x.1 gs)

/-! ## Link and configuration -/

/-- SERVICE_LINK_TRAINING (R405, R508): `PERST_N` is high and FUSELOAD has ended. -/
def execServiceLinkTraining (width : Fin 3) (speed : Fin 5) (s : State) : Host.Outcome State Fault Refusal :=
  .next (run s fun _ m =>
    if m.inMode [.selftest, .training, .ready, .active, .drowse, .quarantine] && !m.is F.SVC_STATUS_LINK &&
        !m.deadUnits.contains 4 then
      let m := if m.inMode [.drowse] then m.wakeUp .service else m
      let m := (m.put F.SVC_STATUS_PERST 1).put F.SVC_STATUS_LINK 1
      let m := (m.put F.SVC_STATUS_WIDTH (2 ^ width.val)).put F.SVC_STATUS_SPEED (speed.val + 1)
      m.readyOrActive
    else m)

/-- Set Bus Master Enable: held vectors that may now be sent are sent (R344). -/
def Ctl.setBme (m : Ctl) (on : Bool) : Ctl := (m.put F.SVC_STATUS_BME (b2n on)).msixFlush

/-- A register of the configuration space (R335 to R338). BARs decode the sizes that they ask for. -/
def Ctl.pcieRead (m : Ctl) (reg : Nat) : Nat :=
  let v := Sparse.getD m.svc.cfg reg 0
  match reg with
  | 0 => if m.wordFailed 2 || m.wordFailed 3 then Config.pcieHardId.toNat
         else (Config.pcieId (m.fuseBits 2) (m.fuseBits 3) 0).toNat
  | 1 =>
    let w := (Config.pcieReg 1 v).toNat
    w / 8 * 8 + 4 * m.get F.SVC_STATUS_BME + w % 4
  | 2 => 0x05800000 + (Config.pcieReg 2 0).toNat % 256
  | 3 =>
    let w := (Config.pcieReg 3 v).toNat
    w / 2 ^ 24 * 2 ^ 24 + w % 2 ^ 16
  | 4 => v / 2 ^ 24 * 2 ^ 24 + 4
  | 5 => v
  | 6 => v / 2 ^ 30 * 2 ^ 30 + 12
  | 7 => v
  | 8 | 9 => 0
  | 11 => if m.wordFailed 2 || m.wordFailed 3 then 0 else (Config.pcieId (m.fuseBits 2) (m.fuseBits 3) 11).toNat
  | 12 => 0
  | _ => (Config.pcieReg reg v).toNat

/-- Carry out a configuration request that is answered normally. -/
def Ctl.pcieRequest (m : Ctl) : PcieReq → Ctl
  | .read reg => m.emit (.tlpData [m.pcieRead reg.toNat] false)
  | .write reg value =>
    let m := { m with svc := { m.svc with cfg := Sparse.setD m.svc.cfg reg.toNat value.toNat 0 } }
    if reg = 1 then m.setBme (bit value.toNat 2) else m
  | .msixControl en mask => { m with svc := { m.svc with msixOn := en, msixMask := mask } }.msixFlush
  | .dState d3 => (m.put F.SVC_STATUS_DSTATE (if d3 then 3 else 0)).msixFlush

/-- Does the service port see configuration requests at all? In HIBERNATE and CRESCENT its link is asleep. -/
def Ctl.cfgReach (m : Ctl) : Bool := m.is F.SVC_STATUS_LINK && !m.inMode [.hibernate, .crescent]

/-- Are configuration requests answered normally (R405, R508)? -/
def Ctl.cfgNormal (m : Ctl) : Bool := m.inMode [.ready, .active, .drowse, .quarantine]

/-- PCIE_CONFIG_REQUEST (R405): Retry Status before READY, and a normal answer from then on and in QUARANTINE. -/
def execPcieConfigRequest (q : PcieReq) (s : State) : Host.Outcome State Fault Refusal :=
  .next (run s fun _ m =>
    if m.cfgReach then (if m.cfgNormal then (m.newWork .svc).pcieRequest q else m.emit (.tlpStatus 3)) else m)

/-- BUS_MASTER_ENABLE (R343, R344). -/
def execBusMasterEnable (on : Bool) (s : State) : Host.Outcome State Fault Refusal :=
  .next (run s fun _ m => if m.cfgReach && m.cfgNormal then (m.newWork .svc).setBme on else m)

/-- `SVC_LOSS.CAUSE` of a loss. -/
def svcCause : SvcCause → Nat
  | .perst => 1
  | .dlDown => 2
  | .hotReset | .flr => 3

/-- SERVICE_HOST_LOSS (R345). `PERST_N` falls once; the other causes need a link. -/
def execServiceHostLoss (cause : SvcCause) (s : State) : Host.Outcome State Fault Refusal :=
  .next (run s fun _ m =>
    if m.alive && (m.is F.SVC_STATUS_LINK || (decide (cause = .perst) && m.is F.SVC_STATUS_PERST)) then
      m.svcLost (svcCause cause)
    else m)

end Sys2Proof.Machine
end

