-- ==== Sys2Proof/Machine/PowerCmds.lean ====
section
/-!
DEFINITION. The meanings of the power commands (chapters 15 and 22): measurements, rails and supplies, the entry handshake,
low-power entries and wakes, die fills, and `RESET_N`.
-/

namespace Sys2Proof.Machine

/-! ## Current, rails and supplies -/

/-- VIN_CURRENT_MEASUREMENT (R376): the current of 1 us in 0.25 A. Above 95 % of I_now every PC is paced, and the 16th
interval in a row above I_now raises `FS_PWR_LIMIT`. -/
def execVinCurrentMeasurement (quarterAmps : Nat) (s : State) : Host.Outcome State Fault Refusal :=
  .next (run s fun _ m =>
    if m.alive && !m.vinBad then
      let lim := m.iNow
      let pacing := decide (95 * lim < 100 * quarterAmps)
      let m := (m.put F.PWR_STATUS_IMEAS (min quarterAmps 255)).put F.PWR_STATUS_PACING (b2n pacing)
      let n := if lim < quarterAmps then min (m.overs + 1) 17 else 0
      let m := { m with pace := if pacing then (Config.paceShare quarterAmps lim).toNat else 0, overs := n }
      if n = 16 then m.raise 0x021 else m
    else m)

/-- Should a rail be on (R373, R418)? -/
def Ctl.railOn (m : Ctl) : Rail → Bool
  | .vcore | .vtsv => m.alive && !m.cutOff && !m.vinBad && !m.inMode [.hibernate, .crescent]
  | .varray => m.alive && !m.cutOff && !m.vinBad
  | .vret => m.alive

/-- RAIL_FAULT (R374): the rail has been outside its window for 4 us. -/
def execRailFault (rail : Rail) (s : State) : Host.Outcome State Fault Refusal :=
  .next (run s fun a m =>
    if m.railOn rail then
      let m := if rail = .varray then { m with lost := 0xFFFF } else m
      (m.raise 0x020).chipReset a 6
    else m)

/-- A supply leaves its range (R496). While power-on reset is held only its level is noted. -/
def Ctl.supplyLost (m : Ctl) (a : Arr) : Supply → Ctl
  | .vin =>
    if m.vinBad then m
    else if m.alive then ({ m with vinBad := true, lost := 0xFFFF }.raise 0x020).chipReset a 6
    else { m with vinBad := true }
  | .vphy =>
    if m.vphyBad then m
    else if m.alive && !m.vinBad then ({ m with vphyBad := true }.raise 0x020).chipReset a 6
    else { m with vphyBad := true }

/-- SUPPLY_OUT_OF_RANGE (R496). -/
def execSupplyOutOfRange (supply : Supply) (s : State) : Host.Outcome State Fault Refusal :=
  .next (run s fun a m => m.supplyLost a supply)

/-- SUPPLY_RECOVERY (R495, R496): `VIN` and `VPHY` have been in range for 100 us. -/
def execSupplyRecovery (s : State) : Host.Outcome State Fault Refusal :=
  .next (run s fun _ m => { m with vinBad := false, vphyBad := false }.leavePowered)

/-- VFUSE_CHANGE (R432, R495): a word under way goes on with the pump once `VFUSE` has left its range. -/
def execVfuseChange (ok : Bool) (s : State) : Host.Outcome State Fault Refusal :=
  .next (run s fun _ m =>
    if m.alive then
      let m := m.put F.FUSE_STATUS_VFUSE_OK (b2n ok)
      if m.fuseOp.isSome && !ok then m.put F.FUSE_STATUS_PUMP 1 else m
    else m)

/-- VAON_LOSS (R378, R496): OFF. -/
def execVaonLoss (s : State) : Host.Outcome State Fault Refusal :=
  .next (run s fun _ m => if m.power = .off then m else m.powerOn .off)

/-! ## The entry handshake -/

/-- DROWSE_IDLE (R383): the idle period has passed, and the handshake begins. -/
def execDrowseIdle (s : State) : Host.Outcome State Fault Refusal :=
  .next (run s fun _ m =>
    let n := m.get F.PWR_CFG_DROWSE_IDLE
    if m.inMode [.ready, .active] && n != 0 && decide (n ≤ m.idle) then m.startEntry { target := 1 } else m)

/-- A block refuses, where its condition does not hold (R379, R381). -/
def Ctl.entryRefuse (m : Ctl) (b : EntryBlock) : Ctl :=
  match m.entry with
  | none => m
  | some e =>
    if (asked e.target).contains b && !e.accepted.contains b && !m.blockReady e.keep b then
      m.entryRefused (blockCode b) (refuseReason b)
    else m

/-- A block asks for a delay (R379); it may do so once. -/
def Ctl.entryDelay (m : Ctl) (b : EntryBlock) : Ctl :=
  match m.entry with
  | none => m
  | some e =>
    if (asked e.target).contains b && !e.accepted.contains b && !e.delayed.contains b then
      { m with entry := some { e with delayed := e.delayed ++ [b] } }
    else m

/-- ENTRY_ANSWER (R379 to R382). -/
def execEntryAnswer (b : EntryBlock) (reply : EntryReply) (s : State) : Host.Outcome State Fault Refusal :=
  .next (run s fun _ m =>
    match reply with
    | .accept => m.entryAccept b
    | .refuse => m.entryRefuse b
    | .delay _ => m.entryDelay b
    | .abandonWake => m.entryWake)

/-- ENTRY_DELAY_EXPIRY (R379): a block that has given no final answer is taken as REFUSE, BUSY. -/
def execEntryDelayExpiry (b : EntryBlock) (s : State) : Host.Outcome State Fault Refusal :=
  .next (run s fun _ m =>
    match m.entry with
    | some e => if e.delayed.contains b then m.entryRefused (blockCode b) 0 else m
    | none => m)

/-! ## Entries -/

/-- Has the entry point of a target come (R380)? -/
def Ctl.entryPoint (m : Ctl) (target : Nat) : Bool := m.inMode [.ready, .active] && m.entryReady target

/-- Has a sequencer nothing to do: no request, no data under way, no neighbour refresh, copy or queued scrub? -/
def Pc.idle (x : Pc) : Bool :=
  x.ingress.isEmpty && x.queue.isEmpty && x.flights.isEmpty && x.rebuilds.isEmpty && x.fetched.isEmpty && x.nrefs.isEmpty &&
    x.rows.isEmpty && x.copies.isEmpty && x.reset.isNone && !x.catcher.any fun c => c.pending

/-- The domains of the host ports and of the sequencers that have nothing to do (R360, R383). -/
def Ctl.drowseDomains (m : Ctl) : List Nat :=
  ((List.range 10).map (· + 1) ++ ((List.range 64).filter fun p => (m.pc p).idle).map (· + 11)).filter fun d =>
    !m.clk.gated.contains d

/-- Gate the idle blocks at a Drowse entry point, where gating is enabled (R368, R383). -/
def Ctl.gateIdle (m : Ctl) : Ctl :=
  if m.is F.CLK_CFG_GATE_EN then
    let ds := m.drowseDomains
    { m with clk := { m.clk with asked := m.clk.asked.filter fun d => !ds.contains d, gated := m.clk.gated ++ ds } }
  else m

/-- DROWSE_ENTRY (R378, R383): the idle blocks are gated and the mode becomes DROWSE. -/
def execDrowseEntry (s : State) : Host.Outcome State Fault Refusal :=
  .next (run s fun _ m =>
    if m.entryPoint 1 then ({ m with entry := none, idle := 0 } : Ctl).gateIdle.setMode .drowse else m)

/-- HIBERNATE_ENTRY (R384): every die stays in self-refresh. -/
def execHibernateEntry (s : State) : Host.Outcome State Fault Refusal :=
  .next (run s fun a m =>
    match m.entry with
    | some e => if m.entryPoint 2 then m.sleepEntry a 2 0xFFFF e.desc else m
    | none => m)

/-- CRESCENT_ENTRY (R386): die 0 is always kept. -/
def execCrescentEntry (s : State) : Host.Outcome State Fault Refusal :=
  .next (run s fun a m =>
    match m.entry with
    | some e => if m.entryPoint 3 then m.sleepEntry a 3 (e.keep % 65536 ||| 1) e.desc else m
    | none => m)

/-! ## Wakes and fills -/

/-- `RESET_N` has been low for 1 us (R389, R392): it wakes a stack that sleeps, and makes a chip reset. -/
def Ctl.resetNFalls (m : Ctl) (a : Arr) : Ctl :=
  if m.resetLow then m
  else
    let m := if m.inMode [.drowse, .hibernate, .crescent] then m.recordWake .resetN else m
    let m := { m with resetLow := true }
    if m.alive then m.chipReset a 1 else m

/-- A wake of a port out of DROWSE brings its downstream direction with it (R102, R107). -/
def Ctl.wakeDrowse (m : Ctl) (src : WakeSource) : Ctl :=
  match src with
  | .portA => (m.resumeDown .a).leaveDrowse src
  | .portB => (m.resumeDown .b).leaveDrowse src
  | _ => m.leaveDrowse src

/-- WAKE_EVENT (R162, R382, R385, R387, R389). `noise` is what was upset in the sleep; `fx` and `tsv` are what an exit
meets. -/
def execWakeEvent (src : WakeSource) (fx : SenseFx) (tsv : TsvTrain) (noise : Noise) (s : State) :
    Host.Outcome State Fault Refusal :=
  .next (run s fun a m =>
    if decide (src = .resetN) && m.inMode [.drowse, .hibernate, .crescent] then m.resetNFalls a
    else if m.inMode [.drowse] then m.wakeDrowse src
    else if m.inMode [.hibernate, .crescent] then (m.noise a noise).sleepExit a src fx tsv
    else if src = .resetN then m
    else m.entryWake)

/-- DIE_FILL (R387, R388, R409). -/
def execDieFill (s : State) : Host.Outcome State Fault Refusal :=
  .next (run s fun _ m => if m.inMode [.ready, .active, .drowse] then m.dieFill else m)

/-! ## `RESET_N` -/

/-- RESET_N_LOW (R392). -/
def execResetNLow (s : State) : Host.Outcome State Fault Refusal := .next (run s fun a m => m.resetNFalls a)

/-- RESET_N_RISE (R393, R408): the stack leaves step 3 of R393. -/
def execResetNRise (s : State) : Host.Outcome State Fault Refusal :=
  .next (run s fun _ m => { m with resetLow := false }.leavePowered)

end Sys2Proof.Machine
end

