-- ==== Sys2Proof/Machine/SelfTest.lean ====
section
/-!
DEFINITION. The meanings of the field BIST, calibration and JTAG commands (chapter 19), and of the TEST_SLICE descriptors.
-/

namespace Sys2Proof.Machine

/-! ## Calibration (R458 to R461) -/

/-- Kinds of trims, as the trim table is keyed. Kind 6 is the stress gauge of a PC. -/
def trimCode : TrimKind → Nat
  | .driverZ => 0
  | .rxOffset => 1
  | .rxPeak => 2
  | .tsvDelay => 3
  | .regulator => 4
  | .tro => 5

/-- Key of a trim. -/
def trimKey (kind i : Nat) : Nat := kind * 65536 + i

/-- The range of a trim's converter (R458). A gauge correction has none that the manual gives. -/
def trimRange : Nat → Option (Int × Int)
  | 0 | 2 => some (0, 31)
  | 1 => some (-32, 31)
  | 3 => some (0, 127)
  | 4 => some (-128, 127)
  | 5 => some (0, 1023)
  | _ => none

/-- Mid-code of a trim (R425). -/
def trimMid : Nat → Int
  | 0 | 2 => 16
  | 3 => 64
  | 5 => 512
  | _ => 0

/-- How many trims of a kind there are (R458). A receiver offset counts the 82 lanes of each of the 32 host-port pairs, then
the 16 peer-link lanes; a TSV delay the 136 lanes of each PC. -/
def trimCount : Nat → Nat
  | 0 => 4
  | 1 => 2640
  | 2 => 32
  | 3 => 8704
  | 4 => 4
  | 5 => 1
  | _ => 64

/-- The value that a trim starts from (R425, R458). -/
def Ctl.trimFirst (m : Ctl) (kind i : Nat) : Int :=
  if kind = 6 then 0
  else if kind = 5 then m.get F.CAL_TRO_TRIM
  else if m.wordFailed (4 + (Config.trimWord kind i).val) then trimMid kind
  else Config.trimStart kind i

/-- A trim. -/
def Ctl.trim (m : Ctl) (kind i : Nat) : Trim :=
  match Sparse.find m.trims (trimKey kind i) with
  | some t => t
  | none => { cur := m.trimFirst kind i, target := m.trimFirst kind i }

/-- Replace a trim. -/
def Ctl.setTrim (m : Ctl) (kind i : Nat) (t : Trim) : Ctl := { m with trims := Sparse.put m.trims (trimKey kind i) t }

/-- The mean of an agreeing pair, rounded towards the current value (R459). -/
def pairMean (cur a b : Int) : Int :=
  let lo := (a + b) / 2
  if (a + b) % 2 = 0 || cur ≤ lo then lo else lo + 1

/-- Do two measurements agree (R459)? -/
def Ctl.agree (m : Ctl) (a b : Int) : Bool := decide ((a - b).natAbs ≤ m.get F.CAL_CFG_TOL)

/-- INFO of the calibration faults (R470): the slice kind, PC and lane of a TSV trim. -/
def calInfo (kind i : Nat) : Nat := if kind = 3 then bistInfo 1 (i / 136) (i % 136) else if kind = 6 then bistInfo 1 i 0 else 0

/-- Give a trim a target, clamped to its converter's range (R459). -/
def Ctl.aim (m : Ctl) (kind i : Nat) (t : Trim) (v : Int) : Ctl :=
  match trimRange kind with
  | none => m.setTrim kind i { t with target := v, bads := 0, held := false }
  | some (lo, hi) =>
    let w := max lo (min hi v)
    let m := m.setTrim kind i { t with target := w, bads := 0, held := false }
    if w = v then m else (m.bump F.CAL_STATUS_CLAMPS).raise 0x075 (calInfo kind i)

/-- A pair of measurements that do not agree (R459): the 16th in a row holds the trim. -/
def Ctl.disagree (m : Ctl) (kind i : Nat) : Ctl :=
  let t := m.trim kind i
  let m := m.bump F.CAL_STATUS_DISAGREE
  let n := min (t.bads + 1) 17
  if n = 16 then
    ((m.setTrim kind i { t with bads := n, held := true, target := t.cur }).bump F.CAL_STATUS_UNSTABLE).raise 0x074 (calInfo kind i)
  else m.setTrim kind i { t with bads := n }

/-- The gauge reading of a PC (R461). -/
def Ctl.gauge (m : Ctl) (pc : Nat) : Int := (m.trim 6 pc).cur

/-- A new gauge reading moves the target of every lane of its PC that a slice has measured (R461). -/
def Ctl.gaugeTargets (m : Ctl) (pc : Nat) : Ctl :=
  (List.range 136).foldl (fun m k =>
    let i := pc * 136 + k
    match Sparse.find m.trims (trimKey 3 i) with
    | some t =>
      match t.base with
      | some b => m.aim 3 i t (b + (m.gauge pc - t.gaugeAt))
      | none => m
    | none => m) m

/-- The pair of a lane (R459, R461): its result becomes the target. -/
def Ctl.laneTarget (m : Ctl) (pc n : Nat) (v : Int) : Ctl :=
  let i := pc * 136 + n
  m.aim 3 i { m.trim 3 i with base := some v, gaugeAt := m.gauge pc } v

/-- A paired measurement (R459). For the TSV delays it is the pair of mean gauge corrections of PC `i` (R461). -/
def Ctl.calibrate (m : Ctl) (kind i : Nat) (a b : Int) : Ctl :=
  let k := if kind = 3 then 6 else kind
  if trimCount k ≤ i then m
  else if !m.agree a b then m.disagree k i
  else
    let t := m.trim k i
    let v := pairMean t.cur a b
    if k = 6 then (m.setTrim 6 i { t with cur := v, target := v, bads := 0, held := false }).gaugeTargets i
    else m.aim k i t v

/-- Is the lane or link of a trim training, so that calibration leaves it alone (R458)? -/
def Ctl.trimBusy (m : Ctl) (kind i : Nat) : Bool :=
  match kind with
  | 0 => if i < 2 then m.get F.PA_STATUS_LINK i == 1 else m.get F.PL_PHY_STATUS_STATE (i - 2) == 1
  | 1 => if i < 2624 then m.get F.PA_STATUS_LINK (i / 1312) == 1 else m.get F.PL_PHY_STATUS_STATE ((i - 2624) / 8) == 1
  | 2 => m.get F.PA_STATUS_LINK (i / 16) == 1
  | _ => false

/-- CAL_MEASUREMENT (R458 to R461). -/
def execCalMeasurement (k : TrimKind) (i : Nat) (first second : Int) (s : State) : Host.Outcome State Fault Refusal :=
  .next (run s fun _ m =>
    if m.inMode [.training, .ready, .active, .drowse] && m.is F.CAL_CFG_EN && !m.trimBusy (trimCode k) i then
      m.calibrate (trimCode k) i first second
    else m)

/-! ## Field slices (R450 to R455) -/

/-- Is field testing on? -/
def Ctl.fieldOn (m : Ctl) : Bool := m.get F.BIST_CFG_BUDGET != 0

/-- Do slices run in this mode? -/
def Ctl.sliceRuns (m : Ctl) : Bool := m.inMode [.ready, .active, .drowse]

/-- Has a handshake for HIBERNATE or CRESCENT begun (R453)? -/
def Ctl.sleepBegun (m : Ctl) : Bool := match m.entry with | some e => decide (2 ≤ e.target) | none => false

/-- The budget B of automatic slices in 0.5 us (R450). -/
def Ctl.sliceBudget (m : Ctl) : Nat := min 64 (m.get F.BIST_CFG_BUDGET)

/-- The most steps that a slice performs (R451). -/
def Slice.steps (z : Slice) : Nat :=
  max 1 (match z.kind with | 1 => 2 * z.budget | 2 => 5 * z.budget | _ => z.budget)

/-- May a row of the spare and reserved sub-array be marched (R451, R454)? -/
def Ctl.marchable (m : Ctl) (pc : Nat) (b : BankIx) (s : Nat) : Bool :=
  if s < 16 then
    !(m.rmap.any fun e => e.pc == pc && e.bank == b && e.spare == s) &&
      !(m.deadSpares.any fun e => e.pc == pc && e.bank == b && e.spare == s)
  else decide (s < 80) && decide (16 ≤ b) && !(m.badReserved.any fun e => e.pc == pc && e.bank == b && e.spare == s)

/-- The next march of a PC in the rotation, as 6 * target + element. -/
def Ctl.nextMarch (m : Ctl) (pc : Nat) : Option Nat :=
  let v := Sparse.getD m.march pc 0
  let ok := fun (k : Nat) => m.marchable pc (marchIdx k).1 (marchIdx k).2
  if v % 6 != 0 && ok (v / 6) then some v
  else (((List.range 20480).map fun n => (v / 6 + n) % 20480).find? ok).map fun k => 6 * k

/-- The next march of a bank for TEST_SLICE: the stack picks the row (R455). -/
def Ctl.nextRow (m : Ctl) (pc : Nat) (b : BankIx) : Option Nat :=
  let v := Sparse.getD m.march (64 + pc * 256 + b) 0
  if v % 6 != 0 && m.marchable pc b (v / 6) then some v
  else (((List.range 80).map fun n => (v / 6 + n) % 80).find? fun s => m.marchable pc b s).map fun s => 6 * s

/-- Is a strobe group of a PC in use (R16)? -/
def Ctl.groupUsed (m : Ctl) (pc g : Nat) : Bool := !m.narrow pc || g / 2 == m.get F.CH_STATUS_HALF pc

/-- FIELD_SLICE_DUE (R450): the next automatic slice. A dark PC is skipped. -/
def execFieldSliceDue (s : State) : Host.Outcome State Fault Refusal :=
  .next (run s fun _ m =>
    if m.sliceRuns && m.fieldOn && decide (m.sliceBnd + 2 ^ m.get F.BIST_CFG_INTERVAL ≤ m.bnd) then
      let n := m.sliceNo
      let pc := n % 64
      let k := n / 64 % 6
      let m := { m with sliceNo := n + 1, sliceBnd := m.bnd }
      let add := fun (m : Ctl) (z : Slice) => { m with sliceDue := m.sliceDue ++ [{ z with budget := m.sliceBudget }] }
      if m.dark pc then m
      else if k = 4 then add m { kind := 3, pc := pc }
      else if k = 5 then
        match m.nextMarch pc with
        | some v =>
          let b := (marchIdx (v / 6)).1
          add { m with march := Sparse.setD m.march pc v 0 }
            { kind := 2, pc := pc, die := b / 16, bank := b % 16, row := (marchIdx (v / 6)).2 }
        | none => m
      else if m.groupUsed pc k then add m { kind := 1, pc := pc, group := k } else m
    else m)

/-- May a waiting slice start now (R452)? -/
def Ctl.mayBegin (m : Ctl) (z : Slice) : Bool :=
  !(m.slices.any fun q => q.pc == z.pc) && (m.pc z.pc).reset.isNone && !m.dark z.pc &&
    if z.kind = 2 then m.inTransit z.die || (m.hotDie z.die && decide ((m.die z.die).st = .quiet))
    else (List.range 16).any fun d => m.inTransit d

/-- Start a slice and show it in `BIST_FIELD_CUR`. -/
def Ctl.beginSlice (m : Ctl) (z : Slice) : Ctl :=
  let m := { m with slices := m.slices ++ [z] }
  let m := ((m.put F.BIST_FIELD_CUR_ACTIVE 1).put F.BIST_FIELD_CUR_KIND z.kind).put F.BIST_FIELD_CUR_PC z.pc
  let m := ((m.put F.BIST_FIELD_CUR_DIE z.die).put F.BIST_FIELD_CUR_BANK z.bank).put F.BIST_FIELD_CUR_GROUP z.group
  m.put F.BIST_FIELD_CUR_ROW z.row

/-- SLICE_BEGIN (R452, R453). -/
def execSliceBegin (s : State) : Host.Outcome State Fault Refusal :=
  .next (run s fun _ m =>
    if m.sliceRuns && m.fieldOn && !m.sleepBegun then
      let m := { m with sliceDue := m.sliceDue.filter fun z => !m.dark z.pc }
      match takeFirst m.mayBegin m.sliceDue with
      | some (z, rest) => { m with sliceDue := rest }.beginSlice z
      | none => m
    else m)

/-! ### What a slice finds -/

/-- RESULT codes of R455. -/
def srPass : Nat := 0
def srRepaired : Nat := 1
def srUnrepaired : Nat := 2
def srAge : Nat := 4

/-- The graver of two results: unrepaired, repaired, ageing, pass. -/
def worseResult (a b : Nat) : Nat :=
  if a = srUnrepaired || b = srUnrepaired then srUnrepaired
  else if a = srRepaired || b = srRepaired then srRepaired
  else if a = srAge || b = srAge then srAge
  else srPass

/-- Two agreeing measurements of a lane against its baseline (R454). A free spare of the strobe group is mapped in. -/
def Ctl.judgeAge (m : Ctl) (pc n : Nat) (v : Int) : Nat × Ctl :=
  let drift := (v - Config.laneBaseline m.cycles pc n).natAbs
  if drift ≤ max 1 (m.get F.BIST_CFG_AGE_LIMIT) then (srPass, m)
  else
    let m := (m.raise 0x073 (bistInfo 1 pc n)).bump F.BIST_AGE_COUNT
    let m := (m.put F.BIST_AGE_LANE n).put F.BIST_AGE_PC pc
    let t := (m.pc pc).tsv
    match t.spareLane (groupOf n) with
    | some k => (srAge, m.modPc pc fun x => { x with tsv := { t with lanes := t.lanes ++ [(n, k)] } })
    | none => (srAge, m)

/-- Two measurements of a lane (R454, R459). -/
def Ctl.measureLane (m : Ctl) (pc n : Nat) (a b : Nat) : Nat × Ctl :=
  let on := m.is F.CAL_CFG_EN
  if !m.agree a b then (srPass, if on then m.disagree 3 (pc * 136 + n) else m)
  else
    let v := pairMean (m.trim 3 (pc * 136 + n)).cur a b
    (if on then m.laneTarget pc n v else m).judgeAge pc n v

/-- One finding of a slice: its result code of R455. A finding that its kind of slice cannot make is no step. -/
def Ctl.sliceFinding (m : Ctl) (z : Slice) (f : SliceFind) : Nat × Ctl :=
  match z.kind, f with
  | 1, .lane n a b => if groupOf n.val = z.group then m.measureLane z.pc n.val a b else (srPass, m)
  | 1, .laneFail n =>
    if groupOf n.val = z.group then
      let free := ((m.pc z.pc).tsv.spareLane z.group).isSome
      (if free then srRepaired else srUnrepaired, m.tsvFault z.pc (.lane n))
    else (srPass, m)
  | 2, .fail =>
    let e : DeadSpare := { pc := z.pc, bank := z.die * 16 + z.bank, spare := z.row }
    let m := if z.row < 16 then { m with deadSpares := m.deadSpares ++ [e] } else { m with badReserved := m.badReserved ++ [e] }
    (srRepaired, m.raise 0x072 (bistInfo 2 z.pc 0))
  | 3, .fail => (srUnrepaired, (m.raise 0x072 (bistInfo 3 z.pc 0)).blockReset z.pc 5 false)
  | _, _ => (srPass, m)

/-- Move a march on by the elements that a slice performed; a failure ends it. -/
def Ctl.marchOn (m : Ctl) (z : Slice) (n : Nat) (failed : Bool) : Ctl :=
  if z.kind = 2 then
    let key := match z.desc with | some _ => 64 + z.pc * 256 + (z.die * 16 + z.bank) | none => z.pc
    let v := Sparse.getD m.march key 0
    { m with march := Sparse.setD m.march key (if failed || 6 ≤ v % 6 + n then (v / 6 + 1) * 6 else v + n) 0 }
  else m

/-- End a slice (R451, R454, R455). -/
def Ctl.endSlice (m : Ctl) (z : Slice) (found : List SliceFind) : Ctl :=
  let found := found.take z.steps
  let m := { m with slices := m.slices.filter fun q => q != z }
  let r := found.foldl (fun (acc : Nat × Ctl) f =>
    let x := acc.2.sliceFinding z f
    (worseResult acc.1 x.1, x.2)) (srPass, m)
  let failed := r.1 == srRepaired || r.1 == srUnrepaired
  let m := (r.2.reinit z).marchOn z found.length failed
  let m := m.bump F.BIST_FIELD_COUNT_SLICES
  let m := if failed then m.bump F.BIST_FIELD_COUNT_FAILS else m
  let m := if m.slices.isEmpty then m.put F.BIST_FIELD_CUR_ACTIVE 0 else m
  match z.desc with
  | some (r', i) => m.endProg r' i 0 r.1
  | none => m

/-- SLICE_END (R451, R454): the oldest automatic slice under way ends. It has performed at least one step. -/
def execSliceEnd (found : List SliceFind) (s : State) : Host.Outcome State Fault Refusal :=
  .next (run s fun _ m =>
    if found.isEmpty then m
    else
      match m.slices.find? fun z => z.desc.isNone with
      | some z => m.endSlice z found
      | none => m)

/-! ### TEST_SLICE -/

/-- The slice that a TEST_SLICE names (R455), if it has a target. -/
def Ctl.testTarget (m : Ctl) (desc : Nat × Nat) (d : Prog) : Option Slice :=
  let pc := d.arg16 / 4 % 64
  let b := if d.arg32 = 0 then m.sliceBudget else 2 * min 32 d.arg32
  let z : Slice := { kind := d.arg16 % 4, pc := pc, budget := b, desc := some desc }
  if m.dark pc then none
  else
    match z.kind with
    | 1 => if m.groupUsed pc (d.arg16 / 256 % 4) then some { z with group := d.arg16 / 256 % 4 } else none
    | 2 =>
      let bank := d.arg16 / 256 % 16 * 16 + d.arg16 / 4096
      (m.nextRow pc bank).map fun v => { z with die := bank / 16, bank := bank % 16, row := v / 6 }
    | _ => some z

/-- Start the slice of a TEST_SLICE, refuse it, or let it wait for its transit, or for a slice on its PC (R452, R453, R455). -/
def Ctl.testBegin (m : Ctl) (r : Nat) (d : Prog) : Ctl :=
  if !m.fieldOn then m.endProg r d.idx 0x1E 0x10
  else
    match m.testTarget (r, d.idx) d with
    | none => m.endProg r d.idx 0x1E 0x11
    | some z =>
      if !m.mayBegin z || m.sleepBegun then m
      else
        let m := (m.modProg r d.idx fun q => { q with armed := true }).beginSlice z
        match z.kind with
        | 2 =>
          let b := z.die * 16 + z.bank
          { m with march := Sparse.setD m.march (64 + z.pc * 256 + b) ((m.nextRow z.pc b).getD 0) 0 }
        | _ => m

/-- A TEST_SLICE at work: its slice starts, and with findings it ends. -/
def Ctl.stepSlice (m : Ctl) (r : Nat) (d : Prog) (kind : Nat) (found : List SliceFind) : Ctl :=
  if d.arg16 % 4 != kind then m
  else
    let m := if d.armed then m else m.testBegin r d
    if found.isEmpty then m
    else
      match m.slices.find? fun z => decide (z.desc = some (r, d.idx)) with
      | some z => m.endSlice z found
      | none => m

/-- TEST_SLICE_TSV_DELAY (R455): `found` are the steps of the slice; none while it goes on. -/
def execTestSliceTsvDelay (r : Fin 160) (i : BitVec 17) (found : List SliceFind) (s : State) :
    Host.Outcome State Fault Refusal :=
  .next (run s fun _ m => m.onProg r.val i.toNat 0x11 fun m d => m.stepSlice r.val d 1 found)

/-- TEST_SLICE_ROW_MARCH (R455). -/
def execTestSliceRowMarch (r : Fin 160) (i : BitVec 17) (found : List SliceFind) (s : State) :
    Host.Outcome State Fault Refusal :=
  .next (run s fun _ m => m.onProg r.val i.toNat 0x11 fun m d => m.stepSlice r.val d 2 found)

/-- TEST_SLICE_SEQ_CHECK (R455). -/
def execTestSliceSeqCheck (r : Fin 160) (i : BitVec 17) (found : List SliceFind) (s : State) :
    Host.Outcome State Fault Refusal :=
  .next (run s fun _ m => m.onProg r.val i.toNat 0x11 fun m d => m.stepSlice r.val d 3 found)

/-! ## JTAG (R456, R457, R431, R472) -/

/-- A later JTAG instruction clears a latched request, unless the stack is wiping (R456). -/
def Ctl.jtagLater (m : Ctl) : Ctl := if m.is F.BIST_STATUS_WIPING then m else { m with factoryReq := false }

/-- A one-bit bypass: its register captures 0. -/
def Ctl.bypass (m : Ctl) : Ctl := m.jtagLater.emit (.jtag 0 1)

/-- IDCODE (R456): under power-on reset every output floats (R350). -/
def execIdcode (s : State) : Host.Outcome State Fault Refusal :=
  .next (run s fun _ m =>
    if m.alive then
      m.jtagLater.emit (.jtag
        (Config.idcodeOf (m.fuseBits 0) (m.fuseBits 1) (m.fuseBits 2) (m.fuseBits 3)).toNat 32)
    else m)

/-- BYPASS (R456). -/
def execBypass (s : State) : Host.Outcome State Fault Refusal := .next (run s fun _ m => if m.alive then m.bypass else m)

/-- FACTORY_REQ (R456, R457): latched, and acted on in SELFTEST by starting the wipe. -/
def execFactoryReq (s : State) : Host.Outcome State Fault Refusal :=
  .next (run s fun _ m =>
    if !m.alive || m.inMode [.factory] then m
    else
      let m := { m with factoryReq := true }
      if m.inMode [.selftest] then m.put F.BIST_STATUS_WIPING 1 else m)

/-- Is a bit of a fuse word already 1? -/
def Ctl.fuseBitSet (m : Ctl) (n b : Nat) : Bool :=
  let w := fuseAt m.fuse n
  let d := fuseBase m.fuse n
  w.extra.contains b ||
    (fuseUsed m.fuse n && (decide (n < 108) || w.data.isSome) &&
      if b < 56 then bit d b else (Config.fuseCheck (BitVec.ofNat 56 d)).getLsbD (b - 56))

/-- FUSE_BIT_PROGRAM (R431): in FACTORY, with no checks. Elsewhere the instruction acts as BYPASS (R456). -/
def execFuseBitProgram (word : Fin 1024) (bit : Fin 64) (s : State) : Host.Outcome State Fault Refusal :=
  .next (run s fun _ m =>
    if !m.alive then m
    else if m.inMode [.factory] then
      if m.fuseBitSet word.val bit.val then m
      else
        let w := fuseAt m.fuse word.val
        { m with fuse := Sparse.put m.fuse word.val { w with extra := w.extra ++ [bit.val] } }
    else m.bypass)

/-- JTAG_INJECT (R472): in FACTORY. Elsewhere the instruction acts as BYPASS (R456). -/
def execJtagInject (source : BitVec 9) (s : State) : Host.Outcome State Fault Refusal :=
  .next (run s fun _ m =>
    if !m.alive then m
    else if m.inMode [.factory] then
      if sources.contains source.toNat then m.raiseAs source.toNat 0 true else m
    else m.bypass)

end Sys2Proof.Machine
end

