-- ==== Sys2Proof/Machine/Dispatch.lean ====
section
/-!
DEFINITION. The dispatch of a command to its meaning: one arm for each constructor of `Instr`, in the table's order.
-/

namespace Sys2Proof.Machine

/-- The effect of a command on everything but the queue. -/
def exec (i : Instr) (s : State) : Host.Outcome State Fault Refusal :=
  match i with
  | .vaonValid => Sys2Proof.Machine.execVaonValid s
  | .troStart => Sys2Proof.Machine.execTroStart s
  | .troStartTimeout => Sys2Proof.Machine.execTroStartTimeout s
  | .troAmplitudeLoss => Sys2Proof.Machine.execTroAmplitudeLoss s
  | .xtalWindow count ampFail => Sys2Proof.Machine.execXtalWindow count ampFail s
  | .xtalRetry => Sys2Proof.Machine.execXtalRetry s
  | .crossingOverrun dom => Sys2Proof.Machine.execCrossingOverrun dom s
  | .crossingTimeout dom => Sys2Proof.Machine.execCrossingTimeout dom s
  | .gateRequest dom => Sys2Proof.Machine.execGateRequest dom s
  | .gateClose dom => Sys2Proof.Machine.execGateClose dom s
  | .gateRefuse dom => Sys2Proof.Machine.execGateRefuse dom s
  | .gateReopen dom => Sys2Proof.Machine.execGateReopen dom s
  | .fuseSense fx sample => Sys2Proof.Machine.execFuseSense fx sample s
  | .powerOnBist unit sigFail fails us => Sys2Proof.Machine.execPowerOnBist unit sigFail fails us s
  | .tsvTraining fails droop => Sys2Proof.Machine.execTsvTraining fails droop s
  | .orbitBoundary sample iavg => Sys2Proof.Machine.execOrbitBoundary sample iavg s
  | .thermalSample sample => Sys2Proof.Machine.execThermalSample sample s
  | .beatMarker offset highNs => Sys2Proof.Machine.execBeatMarker offset highNs s
  | .missingMarker => Sys2Proof.Machine.execMissingMarker s
  | .beatRejoin offset => Sys2Proof.Machine.execBeatRejoin offset s
  | .writeCutOff die => Sys2Proof.Machine.execWriteCutOff die s
  | .flushLead die => Sys2Proof.Machine.execFlushLead die s
  | .eclipseRefresh die => Sys2Proof.Machine.execEclipseRefresh die s
  | .eclipseEnd die => Sys2Proof.Machine.execEclipseEnd die s
  | .retentionCredit => Sys2Proof.Machine.execRetentionCredit s
  | .catchupEclipse die => Sys2Proof.Machine.execCatchupEclipse die s
  | .catchupFlushLead die => Sys2Proof.Machine.execCatchupFlushLead die s
  | .controlFlit p g flit slots => Sys2Proof.Machine.execControlFlit p g flit slots s
  | .replay p g => Sys2Proof.Machine.execReplay p g s
  | .groupRecovery p g hostE trained => Sys2Proof.Machine.execGroupRecovery p g hostE trained s
  | .portTraining p r => Sys2Proof.Machine.execPortTraining p r s
  | .portTrainRetry p r => Sys2Proof.Machine.execPortTrainRetry p r s
  | .urgLevel p level => Sys2Proof.Machine.execUrgLevel p level s
  | .eyeMeasurement p g lane h v => Sys2Proof.Machine.execEyeMeasurement p g lane h v s
  | .spareSwitch p g k => Sys2Proof.Machine.execSpareSwitch p g k s
  | .spareData p g lane => Sys2Proof.Machine.execSpareData p g lane s
  | .spareCtrl p g lane => Sys2Proof.Machine.execSpareCtrl p g lane s
  | .linkIdle p g => Sys2Proof.Machine.execLinkIdle p g s
  | .linkIdleSend p g => Sys2Proof.Machine.execLinkIdleSend p g s
  | .wakePattern g => Sys2Proof.Machine.execWakePattern g s
  | .partnerLoss p cause => Sys2Proof.Machine.execPartnerLoss p cause s
  | .read p g tag session addr size => Sys2Proof.Machine.execRead p g tag session addr size s
  | .write p g tag session addr size data => Sys2Proof.Machine.execWrite p g tag session addr size data s
  | .writeMasked p g tag session addr size be data => Sys2Proof.Machine.execWriteMasked p g tag session addr size be data s
  | .fence p g tag => Sys2Proof.Machine.execFence p g tag s
  | .configRead p g tag session caddr => Sys2Proof.Machine.execConfigRead p g tag session caddr s
  | .configWrite p g tag session caddr data => Sys2Proof.Machine.execConfigWrite p g tag session caddr data s
  | .doorbell p g tag session caddr data => Sys2Proof.Machine.execDoorbell p g tag session caddr data s
  | .ingressEntry pc => Sys2Proof.Machine.execIngressEntry pc s
  | .holdMaxExpiry pc => Sys2Proof.Machine.execHoldMaxExpiry pc s
  | .commandSlot pc noise => Sys2Proof.Machine.execCommandSlot pc noise s
  | .readData pc => Sys2Proof.Machine.execReadData pc s
  | .exchangeReturn pc noise => Sys2Proof.Machine.execExchangeReturn pc noise s
  | .pageCodeLoadReturn pc => Sys2Proof.Machine.execPageCodeLoadReturn pc s
  | .speculativeDataArrival pc => Sys2Proof.Machine.execSpeculativeDataArrival pc s
  | .pageRebuild pc noise => Sys2Proof.Machine.execPageRebuild pc noise s
  | .activationAlert pc die group bank row => Sys2Proof.Machine.execActivationAlert pc die group bank row s
  | .nrefComplete pc die bank row => Sys2Proof.Machine.execNrefComplete pc die bank row s
  | .irDropStep pc => Sys2Proof.Machine.execIrDropStep pc s
  | .tsvFault pc e => Sys2Proof.Machine.execTsvFault pc e s
  | .chCtrlReset m pc value => Sys2Proof.Machine.execChCtrlReset m pc value s
  | .pcBlockReset pc fails => Sys2Proof.Machine.execPcBlockReset pc fails s
  | .heldTimeout pc => Sys2Proof.Machine.execHeldTimeout pc s
  | .readCorrectWrite pc noise verify => Sys2Proof.Machine.execReadCorrectWrite pc noise verify s
  | .rowSpareCopy pc noise => Sys2Proof.Machine.execRowSpareCopy pc noise s
  | .scrubPassStart => Sys2Proof.Machine.execScrubPassStart s
  | .scrubRowStart => Sys2Proof.Machine.execScrubRowStart s
  | .scrubRow pc noise => Sys2Proof.Machine.execScrubRow pc noise s
  | .descriptorFetch r noise reply => Sys2Proof.Machine.execDescriptorFetch r noise reply s
  | .descriptorStart r => Sys2Proof.Machine.execDescriptorStart r s
  | .descriptorComplete r ix noise => Sys2Proof.Machine.execDescriptorComplete r ix noise s
  | .nop r ix => Sys2Proof.Machine.execNop r ix s
  | .copy r ix => Sys2Proof.Machine.execCopy r ix s
  | .fill r ix => Sys2Proof.Machine.execFill r ix s
  | .press r ix => Sys2Proof.Machine.execPress r ix s
  | .gather r ix => Sys2Proof.Machine.execGather r ix s
  | .scatter r ix => Sys2Proof.Machine.execScatter r ix s
  | .remoteRead r ix => Sys2Proof.Machine.execRemoteRead r ix s
  | .remoteWrite r ix => Sys2Proof.Machine.execRemoteWrite r ix s
  | .ringFence r ix => Sys2Proof.Machine.execRingFence r ix s
  | .waitOrbit r ix => Sys2Proof.Machine.execWaitOrbit r ix s
  | .waitOrbitExpiry r ix => Sys2Proof.Machine.execWaitOrbitExpiry r ix s
  | .scrubRange r ix => Sys2Proof.Machine.execScrubRange r ix s
  | .testSliceTsvDelay r ix found => Sys2Proof.Machine.execTestSliceTsvDelay r ix found s
  | .testSliceRowMarch r ix found => Sys2Proof.Machine.execTestSliceRowMarch r ix found s
  | .testSliceSeqCheck r ix found => Sys2Proof.Machine.execTestSliceSeqCheck r ix found s
  | .apply r ix noise => Sys2Proof.Machine.execApply r ix noise s
  | .persistAll r ix => Sys2Proof.Machine.execPersistAll r ix s
  | .fuseProgramWord r ix => Sys2Proof.Machine.execFuseProgramWord r ix s
  | .fuseProgramSeal r ix => Sys2Proof.Machine.execFuseProgramSeal r ix s
  | .fuseProgramLock r ix => Sys2Proof.Machine.execFuseProgramLock r ix s
  | .fuseVerify good => Sys2Proof.Machine.execFuseVerify good s
  | .snapshot r ix => Sys2Proof.Machine.execSnapshot r ix s
  | .commit r ix => Sys2Proof.Machine.execCommit r ix s
  | .sleepHibernate r ix => Sys2Proof.Machine.execSleepHibernate r ix s
  | .sleepCrescent r ix => Sys2Proof.Machine.execSleepCrescent r ix s
  | .resume m r value noise => Sys2Proof.Machine.execResume m r value noise s
  | .ringSetupWrite m caddr value => Sys2Proof.Machine.execRingSetupWrite m caddr value s
  | .semClaim claims => Sys2Proof.Machine.execSemClaim claims s
  | .renew m value => Sys2Proof.Machine.execRenew m value s
  | .release m value => Sys2Proof.Machine.execRelease m value s
  | .leaseExpiry => Sys2Proof.Machine.execLeaseExpiry s
  | .svcAbsenceExpiry => Sys2Proof.Machine.execSvcAbsenceExpiry s
  | .setupWrite m caddr value => Sys2Proof.Machine.execSetupWrite m caddr value s
  | .discard m value => Sys2Proof.Machine.execDiscard m value s
  | .arm m value => Sys2Proof.Machine.execArm m value s
  | .digestReady => Sys2Proof.Machine.execDigestReady s
  | .pwrCtrlChipReset m value => Sys2Proof.Machine.execPwrCtrlChipReset m value s
  | .fuseLock m value => Sys2Proof.Machine.execFuseLock m value s
  | .fltInject m value => Sys2Proof.Machine.execFltInject m value s
  | .fltOvfIdx m value => Sys2Proof.Machine.execFltOvfIdx m value s
  | .overflowReadDone noise => Sys2Proof.Machine.execOverflowReadDone noise s
  | .fltPendClear m k value => Sys2Proof.Machine.execFltPendClear m k value s
  | .phyLoopMode m l value => Sys2Proof.Machine.execPhyLoopMode m l value s
  | .pairLowRead m caddr => Sys2Proof.Machine.execPairLowRead m caddr s
  | .registerWrite m caddr value => Sys2Proof.Machine.execRegisterWrite m caddr value s
  | .plTraining l r => Sys2Proof.Machine.execPlTraining l r s
  | .plTrainRetry l r => Sys2Proof.Machine.execPlTrainRetry l r s
  | .burstStart l pairs => Sys2Proof.Machine.execBurstStart l pairs s
  | .pair l lane levels left => Sys2Proof.Machine.execPair l lane levels left s
  | .burstAbort l lane d => Sys2Proof.Machine.execBurstAbort l lane d s
  | .controlReplay l cnak => Sys2Proof.Machine.execControlReplay l cnak s
  | .directionSleep l => Sys2Proof.Machine.execDirectionSleep l s
  | .wakeTone l => Sys2Proof.Machine.execWakeTone l s
  | .rdReq l tag size addr => Sys2Proof.Machine.execRdReq l tag size addr s
  | .cpl l tag status derr mirror => Sys2Proof.Machine.execCpl l tag status derr mirror s
  | .join l region size => Sys2Proof.Machine.execJoin l region size s
  | .accept l region => Sys2Proof.Machine.execAccept l region s
  | .needFull l region => Sys2Proof.Machine.execNeedFull l region s
  | .synced l region => Sys2Proof.Machine.execSynced l region s
  | .refuse l region => Sys2Proof.Machine.execRefuse l region s
  | .beat l n k borrowed hop offset origin => Sys2Proof.Machine.execBeat l n k borrowed hop offset origin s
  | .idBeacon l serial orbit ostate nvalid borrowing roles => Sys2Proof.Machine.execIdBeacon l serial orbit ostate nvalid borrowing roles s
  | .idBeaconTimeout l => Sys2Proof.Machine.execIdBeaconTimeout l s
  | .digBeacon l group digest boundary => Sys2Proof.Machine.execDigBeacon l group digest boundary s
  | .wr l tag addr be data failed => Sys2Proof.Machine.execWr l tag addr be data failed s
  | .rdData l tag addr pmask data failed => Sys2Proof.Machine.execRdData l tag addr pmask data failed s
  | .mirWr l tag region addr be data failed => Sys2Proof.Machine.execMirWr l tag region addr be data failed s
  | .resyncWr l tag region addr data failed => Sys2Proof.Machine.execResyncWr l tag region addr data failed s
  | .remoteTimeout l tag => Sys2Proof.Machine.execRemoteTimeout l tag s
  | .mirLag region => Sys2Proof.Machine.execMirLag region s
  | .resyncSend region => Sys2Proof.Machine.execResyncSend region s
  | .bar0Read offset be dws => Sys2Proof.Machine.execBar0Read offset be dws s
  | .bar0Write offset be dws value => Sys2Proof.Machine.execBar0Write offset be dws value s
  | .bar2Read offset len => Sys2Proof.Machine.execBar2Read offset len s
  | .bar2Write offset data be => Sys2Proof.Machine.execBar2Write offset data be s
  | .serviceLinkTraining width speed => Sys2Proof.Machine.execServiceLinkTraining width speed s
  | .pcieConfigRequest q => Sys2Proof.Machine.execPcieConfigRequest q s
  | .busMasterEnable on => Sys2Proof.Machine.execBusMasterEnable on s
  | .serviceHostLoss cause => Sys2Proof.Machine.execServiceHostLoss cause s
  | .vinCurrentMeasurement quarterAmps => Sys2Proof.Machine.execVinCurrentMeasurement quarterAmps s
  | .railFault rail => Sys2Proof.Machine.execRailFault rail s
  | .supplyOutOfRange supply => Sys2Proof.Machine.execSupplyOutOfRange supply s
  | .vfuseChange ok => Sys2Proof.Machine.execVfuseChange ok s
  | .drowseIdle => Sys2Proof.Machine.execDrowseIdle s
  | .entryAnswer b a => Sys2Proof.Machine.execEntryAnswer b a s
  | .entryDelayExpiry b => Sys2Proof.Machine.execEntryDelayExpiry b s
  | .drowseEntry => Sys2Proof.Machine.execDrowseEntry s
  | .hibernateEntry => Sys2Proof.Machine.execHibernateEntry s
  | .crescentEntry => Sys2Proof.Machine.execCrescentEntry s
  | .wakeEvent src fx tsv noise => Sys2Proof.Machine.execWakeEvent src fx tsv noise s
  | .dieFill => Sys2Proof.Machine.execDieFill s
  | .resetNLow => Sys2Proof.Machine.execResetNLow s
  | .fieldSliceDue => Sys2Proof.Machine.execFieldSliceDue s
  | .sliceBegin => Sys2Proof.Machine.execSliceBegin s
  | .sliceEnd found => Sys2Proof.Machine.execSliceEnd found s
  | .calMeasurement k ix first second => Sys2Proof.Machine.execCalMeasurement k ix first second s
  | .idcode => Sys2Proof.Machine.execIdcode s
  | .factoryReq => Sys2Proof.Machine.execFactoryReq s
  | .bypass => Sys2Proof.Machine.execBypass s
  | .wipeComplete => Sys2Proof.Machine.execWipeComplete s
  | .fuseBitProgram word n => Sys2Proof.Machine.execFuseBitProgram word n s
  | .jtagInject source => Sys2Proof.Machine.execJtagInject source s
  | .vaonLoss => Sys2Proof.Machine.execVaonLoss s
  | .supplyRecovery => Sys2Proof.Machine.execSupplyRecovery s
  | .resetNRise => Sys2Proof.Machine.execResetNRise s
  | .controlPeriod p => Sys2Proof.Machine.execControlPeriod p s
  | .transmitterReturnToIdle p g => Sys2Proof.Machine.execTransmitterReturnToIdle p g s
  | .forwardedClockFail p g => Sys2Proof.Machine.execForwardedClockFail p g s
  | .completionTimeout r => Sys2Proof.Machine.execCompletionTimeout r s

end Sys2Proof.Machine
end

