-- ==== Sys2Proof/Machine/Step.lean ====
section
/-!
DEFINITION. The step: the command at the front of the queue takes effect on the state with the rest of the queue. On an
empty queue only time passes.
-/

namespace Sys2Proof.Machine

/-- Nothing is commanded: a command slot's time passes (DESIGN CHOICE: the manual gives a block no tick of its own). -/
def State.tick (s : State) : State := { s with ctl := { s.ctl with now := s.ctl.now + s.ctl.slotPs } }

/-- One step. -/
def step (s : State) : Host.Outcome State Fault Refusal :=
  match s.pending with
  | [] => .next s.tick
  | c :: r => exec c { s with pending := r }

/-- The state with the command that a word spells at the front of its queue; the table gives no row any bits, so no word
spells one. -/
def State.withFetchWord (s : State) (nbits w : Nat) : State :=
  match decodeTableWord nbits w with
  | some c => { s with pending := c :: s.pending }
  | none => s

end Sys2Proof.Machine
end

