-- ==== Sys2Proof/WellFormed.lean ====
section
/-!
DEFINITION. The form of a command: the conditions on its list and number operands that the part's interfaces impose. Every
other operand is bounded by its type.
-/

namespace Sys2Proof

/-- Does the payload of a data frame have a form that its header can name: 1 to 8 words of 32 B, 1 or 2 with byte enables
(R318)? -/
def framePayload (data : List Byte) (be : Option (BitVec 64)) : Bool :=
  data.length % 32 == 0 && decide (32 ≤ data.length) && decide (data.length ≤ 256) &&
    (be.isNone || decide (data.length ≤ 64))

/-- Is the service host's answer to a fetch one to eight whole slots, or an error (R342)? -/
def fetchReply : FetchReply → Bool
  | .data bs => bs.length % 64 == 0 && decide (64 ≤ bs.length) && decide (bs.length ≤ 512)
  | .unsupported => true
  | .abort => true
  | .poisoned => true

/-- Is a command well formed? A period has four raw data slots (R68); a request carries as much data as its SIZE says
(R114); a pair holds 3600 levels, of which 680 symbols are data, and a burst 1 to 470 pairs (R296, R298); a BAR2 request stays within the sizes of R335 and
has one enable for each byte. -/
def Instr.wellFormed : Instr → Bool
  | .controlFlit _ _ _ slots => slots.length == 4
  | .write _ _ _ _ _ size data => data.length == size.bytes
  | .writeMasked _ _ _ _ _ size _ data => data.length == size.bytes
  | .descriptorFetch r _ reply => decide (r.val < 128) || fetchReply reply
  | .burstStart _ pairs => pairs != 0 && decide (pairs ≤ 470)
  | .pair _ _ levels left => levels.length == 3600 && left.length == 680
  | .wr _ _ _ be data _ => framePayload data be
  | .rdData _ _ _ _ data _ => framePayload data none
  | .mirWr _ _ _ _ be data _ => framePayload data be
  | .resyncWr _ _ _ _ data _ => framePayload data none
  | .bar2Read _ len => decide (len ≤ 4096)
  | .bar2Write _ data be => data.length == be.length && decide (data.length ≤ 512)
  | _ => true

end Sys2Proof
end

