-- ==== Sys2Proof/Safety.lean ====
section
/-!
DEFINITION. What counts as a safe run, in the terms that statements use: a step that goes on, the states that the model
itself can be in between commands, the conditions under which a command's own effect is all that happens, and what a
frame says is unchanged.
-/

namespace Sys2Proof.Machine

/-- A step goes on: it neither stops with a fault nor is refused. -/
def Goes (o : Host.Outcome State Fault Refusal) : Prop := ∃ t, o = .next t

/-- `FAULT_N` shows what R468 asks for: low while a pending source has the FAULTN reaction, and in the modes before TRAINING
and in QUARANTINE always low. -/
def FaultPin (m : Ctl) : Prop :=
  (m.inMode [.training, .ready, .active, .drowse] = true → m.get F.FLT_STATUS_FAULTN = b2n (!m.faultPending)) ∧
  (m.inMode [.powered, .fuseload, .selftest, .quarantine] = true → m.get F.FLT_STATUS_FAULTN = 0)

/-- What holds between commands: the array is in its canonical form, no change of it or raise waits, and `FAULT_N` shows what
R468 asks for. -/
structure Inv (s : State) : Prop where
  memory : Memory.wf s.arr = true
  edits : s.ctl.edits = []
  raised : s.ctl.raised = []
  pin : FaultPin s.ctl

/-- No failure of a code path waits for its block reset, and no dirty bitmap waits to be written to the cellar: so it stands between
commands wherever the cellar may be written. -/
abbrev Ctl.Clean (m : Ctl) : Prop := (∀ e ∈ m.pcs, e.2.codeErr = false) ∧ ∀ e ∈ m.mirs, e.2.stale = false

/-- No request of a port or of the service host waits, so that a command ends with its own effect. -/
abbrev Ctl.Quiet (m : Ctl) : Prop := m.pa.reqs = [] ∧ m.pb.reqs = [] ∧ m.svc.reqs = [] ∧ m.Clean

/-- The severity in force of a source is one of the eight and has no reaction (R463, R465, R466), and the log has a free entry
(R469): a raise of it is logged and pending, and does no more. -/
structure Ctl.Calm (m : Ctl) (src : Source) : Prop where
  sev : m.sevOf src < 8
  none : m.reactOf (m.sevOf src) = 0
  head : m.get F.FLT_LOG_HEAD_HEAD < 256
  room : m.get F.FLT_LOG_HEAD_TOTAL < 256

/-- No request waits for nothing but its order, so that a command ends with its own effect. -/
abbrev Ctl.Settled (m : Ctl) : Prop := (∀ r ∈ m.pa.reqs ++ m.pb.reqs ++ m.svc.reqs, r.st ≠ .waiting) ∧ m.Clean

/-! ## Frames -/

/-- Everything but the registers, what the latest command sent, what waits within a command, and the note that the orbit is not
idle. -/
def Ctl.rest (m : Ctl) : Ctl := { m with flds := [], edits := [], raised := [], out := [], worked := false }

/-- Every register field reads as before but those listed, each with its copy. -/
def Ctl.SameFlds (m m' : Ctl) (l : List (Fld × Nat)) : Prop :=
  ∀ f i, fkey f i ∉ l.map (fun x => fkey x.1 x.2) → m'.get f i = m.get f i

/-- The `FAULT_N` pin, as a field that every command may drive (R468). -/
def pinFld : Fld × Nat := (F.FLT_STATUS_FAULTN, 0)

/-- The fields that a logged raise writes: the pending bits of its source, the entry at the head of the log, the log's
counts, and the pin (R464, R468, R469). -/
def Ctl.logFlds (m : Ctl) (src : Source) : List (Fld × Nat) :=
  [(F.FLT_PEND_PEND, src / 32), (F.FLT_LOG_HEAD_HEAD, 0), (F.FLT_LOG_HEAD_TOTAL, 0), pinFld] ++
    (List.range 4).map fun k => (F.FLT_LOG_DATA, 4 * m.get F.FLT_LOG_HEAD_HEAD + k)

/-- A command's frame: the queue and every byte and code of the array are as before, every register field but those listed and
the pin is as before, and everything else is as in `m`. -/
structure Ends (s t : State) (l : List (Fld × Nat)) (m : Ctl) : Prop where
  pending : t.pending = s.pending
  arr : t.arr = s.arr
  flds : s.ctl.SameFlds t.ctl (pinFld :: l)
  rest : t.ctl.rest = m.rest

/-- The same for a command that raises a fault: it may also be held until TRAINING (R402). -/
def EndsRaised (s t : State) (src : Source) (l : List (Fld × Nat)) (m : Ctl) : Prop :=
  Ends s t (s.ctl.logFlds src ++ l) { m with held := t.ctl.held } ∧ t.ctl.pendOf src = true

/-- What a power-on reset leaves (R350, R351, R392): every register at its reset value, and nothing else but the fuses, the
supplies' levels and the model's own counters. -/
structure FromPowerOn (s t : State) (p : Power) : Prop where
  pending : t.pending = s.pending
  arr : t.arr = s.arr
  flds : ∀ f i, t.ctl.get f i = f.reset i
  rest : t.ctl.rest =
    { now := s.ctl.now, free := s.ctl.free, power := p, fuse := s.ctl.fuseCut.fuse, cycles := s.ctl.cycles + 1
      resetLow := s.ctl.resetLow, vinBad := s.ctl.vinBad, vphyBad := s.ctl.vphyBad : Ctl }

/-- The fields that a chip reset sets beside clearing their classes (R392, R393): the mode, its cause and count, the event bit
of RETAIN_STATUS, what the clocks and pins show. -/
def chipFields : List Fld :=
  [F.GL_MODE_STATE, F.GL_MODE_PREV, F.RESET_CAUSE_CAUSE, F.RESET_CAUSE_COUNT, F.RETAIN_STATUS_EVENT, F.CLK_STATUS_TRO_STARTED,
   F.CLK_STATUS_MON_ARMED, F.PA_SIDEBAND_HOSTPRES, F.SVC_STATUS_PERST, F.FUSE_STATUS_VFUSE_OK, F.CLK_STATUS_XTAL_GOOD,
   F.CLK_STATUS_MON_RANGE, F.CLK_STATUS_RS_SRC, F.FLT_STATUS_FAULTN]

/-- What a chip reset leaves of a stack with nothing in its channels (R392, R393): it is in POWERED, classes A and S stay but for
the fields of `l`, every other field returns to reset, and the queues are empty. -/
structure FromChipReset (s t : State) (cause : Nat) (l : List Fld := []) : Prop where
  pending : t.pending = s.pending
  arr : t.arr = s.arr
  flds : ∀ f ∈ fldList, f.id ∉ (chipFields ++ l).map Fld.id → ∀ i < 1048576,
    t.ctl.get f i = if f.kept = .always ∨ f.kept = .sticky then s.ctl.get f i else f.reset i
  mode : t.ctl.mode = Mode.powered.code
  cause : t.ctl.get F.RESET_CAUSE_CAUSE = cause
  count : t.ctl.get F.RESET_CAUSE_COUNT = min (s.ctl.get F.RESET_CAUSE_COUNT + 1) (2 ^ F.RESET_CAUSE_COUNT.width - 1)
  event : t.ctl.get F.RETAIN_STATUS_EVENT = 1
  queues : t.ctl.pa = {} ∧ t.ctl.pb = {} ∧ t.ctl.svc = {} ∧ t.ctl.rings = [] ∧ t.ctl.links = [] ∧ t.ctl.mirs = [] ∧
    t.ctl.engines = [] ∧ t.ctl.staged = [] ∧ t.ctl.commit = none ∧ t.ctl.entry = none
  kept : t.ctl.fuse = s.ctl.fuse ∧ t.ctl.rmap = s.ctl.rmap ∧ t.ctl.acts = s.ctl.acts ∧ t.ctl.power = s.ctl.power ∧
    t.ctl.present = s.ctl.present

/-- The frame of a command that changes the array: the queue, every register field but those listed and the pin, and
everything else as in `m`. -/
structure Leaves (s t : State) (l : List (Fld × Nat)) (m : Ctl) : Prop where
  pending : t.pending = s.pending
  flds : s.ctl.SameFlds t.ctl (pinFld :: l)
  rest : t.ctl.rest = m.rest

/-- Every byte of the array reads as before but those of the ranges listed, each by its first address and its length. -/
def Arr.SameBut (a a' : Arr) (l : List (Nat × Nat)) : Prop :=
  ∀ x, (∀ e ∈ l, ¬ (e.1 ≤ x ∧ x < e.1 + e.2)) → a'.byte x = a.byte x

/-- Every register field reads as before but the copies of those listed and the pin. -/
def Ctl.SameBut (m m' : Ctl) (l : List Fld) : Prop :=
  ∀ f i, i < 1048576 → f.id ∉ (F.FLT_STATUS_FAULTN :: l).map Fld.id → m'.get f i = m.get f i

/-- A command's frame by whole fields: the queue, the array, every register field but those listed and the pin, and
everything else as in `m`. -/
structure EndsBut (s t : State) (l : List Fld) (m : Ctl) : Prop where
  pending : t.pending = s.pending
  arr : t.arr = s.arr
  flds : s.ctl.SameBut t.ctl l
  rest : t.ctl.rest = m.rest

/-- The fields that logging any number of raises writes (R464, R469, R471). -/
def logFields : List Fld :=
  [F.FLT_PEND_PEND, F.FLT_LOG_HEAD_HEAD, F.FLT_LOG_HEAD_TOTAL, F.FLT_LOG_DATA, F.FLT_LOG_LOST_COUNT]

/-- The same PCs but one. -/
def Ctl.OtherPcs (m m' : Ctl) (pc : Nat) : Prop := ∀ q, q ≠ pc → m'.pc q = m.pc q

/-- Of everything that is neither a register nor the array, only time and one PC change. -/
def Ctl.withPc (m : Ctl) (now pc : Nat) (x : Pc) : Ctl := { m with now := now }.setPc pc x

/-- The same rings but one. -/
def Ctl.OtherRings (m m' : Ctl) (r : Nat) : Prop := ∀ q, q ≠ r → m'.ring q = m.ring q

/-- The same links but one. -/
def Ctl.OtherLinks (m m' : Ctl) (l : Nat) : Prop := ∀ q, q ≠ l → m'.lnk q = m.lnk q

/-- The frame of a command of a peer link: as `Ends`, and of the links only one changes, to `x`. -/
structure EndsLink (s t : State) (i : Nat) (x : LinkSt) (l : List (Fld × Nat)) (m : Ctl) : Prop where
  ends : Ends s t l { m with links := t.ctl.links }
  others : s.ctl.OtherLinks t.ctl i
  link : t.ctl.lnk i = x

/-- The same for a command that raises a fault. -/
structure EndsLinkRaised (s t : State) (src : Source) (i : Nat) (x : LinkSt) (l : List (Fld × Nat)) (m : Ctl) : Prop where
  ends : EndsRaised s t src l { m with links := t.ctl.links }
  others : s.ctl.OtherLinks t.ctl i
  link : t.ctl.lnk i = x

/-- What is left of a link that has gone DOWN (R323, R316): no operation, no frame, and the initial state of its replay. -/
def LinkSt.afterDown (x : LinkSt) : LinkSt :=
  { trained := x.trained, nextIn := x.nextIn, fromSeq := x.fromSeq, sentDig := x.sentDig }

/-- The fields of a link that going DOWN writes. -/
def downFlds (i : Nat) : List (Fld × Nat) :=
  [(F.PL_PHY_STATUS_STATE, i), (F.PL_PHY_STATUS_STEP, i), (F.PL_PHY_STATUS_TX_AWAKE, i), (F.PL_FAB_STATUS_PEER_VALID, i)]

/-- What a write of a region's dirty bitmap stores to (R329, R509): its words, and the page code of their rows. -/
def Ctl.bitmapBytes (m : Ctl) (r : Nat) : List (Nat × Nat) :=
  ((List.range ((m.mirSize r + 255) / 256)).map fun w =>
    let c := cellarPlace (bitmapAt r + 32 * w)
    [(slotAddr c.pc c.bank c.row c.word, 32), (slotAddr c.pc c.bank c.row 34, 32), (slotAddr c.pc c.bank c.row 35, 32)]).flatten

/-- The home of a region's dirty bitmap is undisturbed: no PC has anything in hand or is dark, no spare row serves, and every word of
it reads clean. -/
structure Ctl.Shelf (m : Ctl) (a : Arr) (r : Nat) : Prop where
  memory : Memory.wf a = true
  pcs : ∀ q, m.pc q = {}
  rmap : m.rmap = []
  dark : m.darkCount = 0
  clean : ∀ w < (m.mirSize r + 255) / 256, ∃ v,
    let c := m.cellarAt (bitmapAt r + 32 * w)
    m.readWord a c.1 c.2.1 = .clean v

/-- The frame of a command that changes the dirty bitmap of a region, which becomes `y`: as `Ends` beside it. Where the cellar may be
written it shows the bitmap, and until then the bitmap waits (R329). -/
structure Dirtied (s t : State) (r : Nat) (y : Mir) (l : List (Fld × Nat)) (m : Ctl) : Prop where
  pending : t.pending = s.pending
  flds : s.ctl.SameFlds t.ctl (pinFld :: l)
  rest : t.ctl.rest = ({ m with mirs := t.ctl.mirs } : Ctl).rest
  others : ∀ q, q ≠ r → t.ctl.mir q = s.ctl.mir q
  region : t.ctl.mir r = { y with stale := !s.ctl.cellarOk }
  waits : s.ctl.cellarOk = false → t.arr = s.arr
  bytes : s.arr.SameBut t.arr (s.ctl.bitmapBytes r)
  shown : s.ctl.cellarOk = true → ∀ w < (s.ctl.mirSize r + 255) / 256,
    t.ctl.cellarGet t.arr (bitmapAt r + 32 * w) = some (bitmapWord y.dirty w % 2 ^ 256)

/-- A link with no operation, on which no mirror region acts. -/
structure Ctl.Bare (m : Ctl) (i : Nat) : Prop where
  ops : (m.lnk i).ops = []
  regions : ∀ r < 16, m.get F.MIR_CTRL_LINK r = i → m.mirState r = 0

/-! ## Requests of a port -/

/-- A header may reach the stack on a pair, with nothing else of either port in hand: the pair is open, its tag is free, and
neither DROWSE nor a handshake has to end first. -/
structure Ctl.Ready (m : Ctl) (p : Port) (g tag : Nat) : Prop where
  quiet : m.Quiet
  hdrs : (m.port p).hdrs = []
  pair : m.pairOpen p g = true
  tag : m.tagLive p tag = false
  mode : m.inMode [.drowse] = false
  entry : m.entry = none

/-- A completion of a pair goes out without a wake: its upstream direction is awake, and the pair is not disabled. -/
def Ctl.Answers (m : Ctl) (p : Port) (g : Nat) : Prop :=
  (m.grp p g).txIdle = false ∧ m.get F.PA_LANE_DISABLED (p.idx * 16 + g) = 0

/-- A port after a request that took the next place in port order and has been answered with a completion. -/
def PortSt.answered (x : PortSt) (g : Nat) (c : UpItem) : PortSt :=
  { x.setGrp g { x.grp g with up := (x.grp g).up ++ [c] } with nextPos := x.nextPos + 1, silent := none }

/-- `FS_PORT_GROUP_DOWN` of a port. -/
def groupSource : Port → Source
  | .a => 0x080
  | .b => 0x090

/-- The spare lanes of a group, as `PA_LANE_g` shows them. -/
def spareFlds (i : Nat) : List (Fld × Nat) :=
  [(F.PA_LANE_RX_DUSED, i), (F.PA_LANE_RX_DLANE, i), (F.PA_LANE_RX_CUSED, i), (F.PA_LANE_RX_CLANE, i),
   (F.PA_LANE_TX_DUSED, i), (F.PA_LANE_TX_DLANE, i), (F.PA_LANE_TX_CUSED, i), (F.PA_LANE_TX_CLANE, i)]

/-- The fields that show a host port's link, and the mode that follows it. -/
def linkFlds (p : Port) : List (Fld × Nat) :=
  [(F.PA_STATUS_GROUPS, p.idx), (F.PA_STATUS_LINK, p.idx), (F.PA_SIDEBAND_PARTNER_IDLE, p.idx), (F.GL_MODE_STATE, 0),
   (F.GL_MODE_PREV, 0)]

/-- A group pair with no request under way has been disabled (R94): its group is reported down, its event records wait for another
pair, and the last pair takes the link DOWN. -/
structure PairDisabled (s t : State) (p : Port) (g : Nat) (l : List (Fld × Nat)) : Prop where
  ends : EndsRaised s t (groupSource p) ((F.PA_LANE_DISABLED, p.idx * 16 + g) :: linkFlds p ++ l)
    (s.ctl.setPort p { s.ctl.port p with
      grps := Sparse.del (s.ctl.port p).grps g
      switching := (s.ctl.port p).switching.filter fun e => e.1 != g
      events := (s.ctl.grp p g).events ++ (s.ctl.port p).events })
  shown : t.ctl.get F.PA_LANE_DISABLED (p.idx * 16 + g) = 1
  groups : t.ctl.get F.PA_STATUS_GROUPS p.idx = s.ctl.get F.PA_STATUS_GROUPS p.idx &&& (0xFFFF ^^^ 2 ^ g)
  down : t.ctl.get F.PA_STATUS_GROUPS p.idx = 0 → t.ctl.link p = 0

/-! ## Rings -/

/-- A ring with one descriptor in progress. -/
def Ctl.withProg (m : Ctl) (r : Nat) (d : Prog) : Ctl := m.setRing r { prog := [d] }

/-- A started descriptor of an opcode is the only one of its ring, the mover works, and an engine serves it where its opcode holds
one (R230, R244). -/
structure Ctl.Works (m : Ctl) (r i op : Nat) (d : Prog) : Prop where
  quiet : m.Quiet
  runs : m.moverRuns = true
  only : m.ring r = { prog := [d] }
  idx : d.idx = i
  phase : d.phase = .running
  op : d.op = op
  engine : opEngine d.op = true → m.stalledProg r d.idx = false ∧ ∃ e ∈ m.engines, e.2 = (r, d.idx)

/-- A descriptor that has ended with a status and a result. -/
def Prog.done (d : Prog) (status result : Nat) : Prog := { d with phase := .ended, status := status, result := result }

/-- What halting a ring writes (R255). -/
def haltFlds (r : Nat) : List (Fld × Nat) := [(F.RING_STATUS_STATE, r), (F.RING_STATUS_CAUSE, r), (F.MOV_HALTS_COUNT, 0)]

/-- The agents with work in a PC. -/
def Pc.agents (x : Pc) : List Who :=
  x.ingress.map (·.who) ++ x.queue.map (·.who) ++ x.flights.map (·.who) ++ x.rebuilds.map (·.who)

/-- No fetch of a ring is under way. -/
def Ctl.NoFetch (m : Ctl) (r : Nat) : Prop := ∀ p i src, Who.engine r i fetchGran src ∉ (m.pc p).agents

/-- A ring has halted with a cause (R255). -/
def Ctl.HaltedBy (m : Ctl) (r cause : Nat) : Prop := m.ringState r = rsHalted ∧ m.get F.RING_STATUS_CAUSE r = cause

/-- The frame of a command that halts a ring with no fetch under way: as `Ends`, and no PC changes. -/
structure Halts (s t : State) (r cause : Nat) (l : List (Fld × Nat)) (m : Ctl) : Prop where
  ends : Ends s t (l ++ haltFlds r) { m with pcs := t.ctl.pcs }
  pcs : ∀ p, t.ctl.pc p = m.pc p
  halted : t.ctl.HaltedBy r cause

end Sys2Proof.Machine
end

