-- ==== Sys2Proof/Certificates/Slice0/Obligations.lean ====
section
/-!
DEFINITION. The statements for the provers. Each says in its docstring which rules it rests on. `Ends`, `EndsBut`, `Leaves` and
`EndsRaised` are frames: whatever they do not name is unchanged. A statement that assumes `Quiet` is about a command that comes
while no request of a port or of the service host waits, so that its own effect is all that happens.
-/

open Sys2Proof Sys2Proof.Machine

/-! ## The whole machine -/

/-- A step with a command at the front of the queue is that command's effect on the state with the queue's rest. On an empty queue
only a command slot's time passes: the model's choice (log entry 4), with the slot of R137. -/
def Obligations.StepRunsFront : Prop :=
  (∀ (s : State) (c : Instr), step { s with pending := c :: s.pending } = exec c s) ∧
  ∀ s : State, s.pending = [] →
    step s = .next { s with ctl := { s.ctl with now := s.ctl.now + if s.ctl.get F.GL_ID_BIN = 0 then 1000 else 1250 } }

/-- Every step keeps what holds between commands: the canonical form of the array, and `FAULT_N` as R468 drives it. -/
def Obligations.StepKeepsInv : Prop := ∀ s t : State, Inv s → step s = .next t → Inv t

/-- What holds between commands holds at reset, where power-on reset is held with every register at its reset value (R350). -/
def Obligations.ResetInv : Prop :=
  Inv State.reset ∧ State.reset.pending = [] ∧ State.reset.ctl.power = .porHeld ∧
    (∀ a, State.reset.arr.byte a = 0) ∧ (∀ f i, State.reset.ctl.get f i = f.reset i) ∧
    State.reset.ctl.get F.FLT_STATUS_FAULTN = 0 ∧ State.reset.ctl.get F.ORB_STATUS_STATE = 0 ∧
    State.reset.ctl.get F.SEM_OWNER_OWNER = 0

/-- A command has an effect exactly where its operands have the form that the part's interface can deliver, and it leaves the
other waiting commands as they are. After every command `FAULT_N` is low exactly while a pending source's severity has FAULTN in
force, in TRAINING, READY, ACTIVE and DROWSE; and low in the modes before TRAINING and in QUARANTINE (R468, R390). -/
def Obligations.ExecAnswers : Prop :=
  (∀ (c : Instr) (s : State),
    (c.wellFormed = true → Goes (exec c s)) ∧
    (c.wellFormed = false → ∃ name, exec c s = .refused (.illFormed name)) ∧
    ∀ t, exec c s = .next t → t.pending = s.pending) ∧
  (∀ (c : Instr) (s t : State), exec c s = .next t → FaultPin t.ctl)

/-! ## Clocks and power-on (chapter 14) -/

/-- VAON_VALID and TRO_AMPLITUDE_LOSS leave power-on reset held, with every register at reset; VAON_LOSS leaves the stack OFF
the same way; TRO_START_TIMEOUT goes on holding it; TRO_START releases it into POWERED with the monitor armed and drives PRESENT_A
and PRESENT_B high (R103, R350 to R352, R378). -/
def Obligations.PowerOnReset : Prop :=
  ∀ s : State, s.ctl.Quiet →
    (s.ctl.power = .off → ∃ t, exec .vaonValid s = .next t ∧ FromPowerOn s t .porHeld) ∧
    (s.ctl.power = .run → ∃ t, exec .troAmplitudeLoss s = .next t ∧ FromPowerOn s t .porHeld) ∧
    (s.ctl.power ≠ .off → ∃ t, exec .vaonLoss s = .next t ∧ FromPowerOn s t .off) ∧
    (s.ctl.power = .porHeld → ∃ t, exec .troStartTimeout s = .next t ∧ Ends s t [] s.ctl) ∧
    (s.ctl.power = .porHeld → ∃ t, exec .troStart s = .next t ∧
      Ends s t [(F.CLK_STATUS_TRO_STARTED, 0), (F.CLK_STATUS_MON_ARMED, 0), (F.GL_MODE_STATE, 0)]
        { s.ctl with power := .run, present := some true } ∧
      t.ctl.get F.CLK_STATUS_TRO_STARTED = 1 ∧ t.ctl.get F.CLK_STATUS_MON_ARMED = 1 ∧
      t.ctl.mode = Mode.powered.code ∧ t.ctl.get F.FLT_STATUS_FAULTN = 0)

/-- The start judgement of XTAL by its windows (R353, R355, R356): a clean window adds its count to an unbroken run that is
judged stable at 65,536; a bad one sets the run to 0, and the fourth in a row fails the attempt; the retry enables the amplifier
again. -/
def Obligations.XtalStart : Prop :=
  ∀ (s : State) (count : Nat) (amp : Bool), s.ctl.Quiet → s.ctl.power = .run →
    (let clean : Prop := amp = false ∧
      (if s.ctl.get F.CLK_STATUS_MON_RANGE = 0 then 192 ≤ count ∧ count ≤ 344 else 240 ≤ count ∧ count ≤ 272)
    let l := [(F.CLK_MON_LAST, 0), (F.CLK_STATUS_MON_RANGE, 0), (F.CLK_STATUS_RS_SRC, 0), (F.CLK_STATUS_XTAL_GOOD, 0),
      (F.CLK_STATUS_ATTEMPTS, 0), (F.CLK_MON_BAD_WINDOWS, 0), (F.GL_MODE_STATE, 0), (F.GL_MODE_PREV, 0), (F.ORB_HOTMAP_HOT, 0),
      (F.CFG_STATUS_DIGEST_BUSY, 0)]
    s.ctl.clk.ampOff = false → s.ctl.get F.CLK_STATUS_XTAL_GOOD = 0 →
      ∃ t, exec (.xtalWindow count amp) s = .next t ∧
        Ends s t l { s.ctl with clk := t.ctl.clk, orb := t.ctl.orb, orbitAt := t.ctl.orbitAt, digestNew := t.ctl.digestNew } ∧
        t.ctl.get F.CLK_MON_LAST = min count 511 ∧
        (clean → t.ctl.clk.total = s.ctl.clk.total + count ∧ t.ctl.clk.bads = 0 ∧
          t.ctl.get F.CLK_STATUS_XTAL_GOOD = if 65536 ≤ s.ctl.clk.total + count then 1 else 0) ∧
        (¬ clean → t.ctl.clk.total = 0 ∧ t.ctl.get F.CLK_STATUS_XTAL_GOOD = 0 ∧
          (if s.ctl.clk.bads + 1 < 4 then t.ctl.clk.bads = s.ctl.clk.bads + 1 ∧ t.ctl.clk.ampOff = false
           else t.ctl.clk.attempt = s.ctl.clk.attempt + 1 ∧ t.ctl.clk.ampOff = true))) ∧
    (s.ctl.clk.ampOff = true → s.ctl.clk.attempt < 16 → ∃ t, exec .xtalRetry s = .next t ∧
      Ends s t [] { s.ctl with clk := { s.ctl.clk with ampOff := false } })

/-- An overrun loses the event, marks its destination domain, is counted and raises `FS_CLK_XING_OVERRUN`; a timeout is counted
and raises `FS_CLK_XING_TIMEOUT` (R366, R367). The clock gates (R368 to R370): an idle domain that may be gated asks once; an
acknowledged request closes its gate; a refused one is withdrawn and counted; new work reopens the gate and withdraws a request
without counting it. -/
def Obligations.CrossingsAndGates : Prop :=
  (∀ (s : State) (dom : Fin 102), s.ctl.Quiet → s.ctl.power = .run →
    (s.ctl.Calm 0x011 → ∃ t, exec (.crossingOverrun dom) s = .next t ∧
      EndsRaised s t 0x011 [(F.CLK_OVR_OVR, dom.val / 32), (F.CLK_XING_OVERRUNS, 0)] s.ctl ∧
      bit (t.ctl.get F.CLK_OVR_OVR (dom.val / 32)) (dom.val % 32) = true ∧
      (∀ b < 32, b ≠ dom.val % 32 →
        bit (t.ctl.get F.CLK_OVR_OVR (dom.val / 32)) b = bit (s.ctl.get F.CLK_OVR_OVR (dom.val / 32)) b) ∧
      t.ctl.get F.CLK_XING_OVERRUNS = min (s.ctl.get F.CLK_XING_OVERRUNS + 1) (2 ^ F.CLK_XING_OVERRUNS.width - 1)) ∧
    (s.ctl.Calm 0x012 → ∃ t, exec (.crossingTimeout dom) s = .next t ∧
      EndsRaised s t 0x012 [(F.CLK_XING_TIMEOUTS, 0)] s.ctl ∧
      t.ctl.get F.CLK_XING_TIMEOUTS = min (s.ctl.get F.CLK_XING_TIMEOUTS + 1) (2 ^ F.CLK_XING_TIMEOUTS.width - 1))) ∧
  (∀ (s : State) (dom : Fin 102), s.ctl.Quiet →
    let c := s.ctl.clk
    let left := c.asked.filter fun d => d != dom.val
    (s.ctl.power = .run → s.ctl.get F.CLK_CFG_GATE_EN = 1 → dom.val ∉ [95, 96, 99, 100] → dom.val ∉ c.gated →
      dom.val ∉ c.asked → ∃ t, exec (.gateRequest dom) s = .next t ∧
        Ends s t [] { s.ctl with clk := { c with asked := c.asked ++ [dom.val] } }) ∧
    (dom.val ∈ c.asked → ∃ t, exec (.gateClose dom) s = .next t ∧
      Ends s t [] { s.ctl with clk := { c with asked := left, gated := c.gated ++ [dom.val] } }) ∧
    (dom.val ∈ c.asked → ∃ t, exec (.gateRefuse dom) s = .next t ∧
      Ends s t [(F.CLK_GATE_REFUSE_COUNT, 0)] { s.ctl with clk := { c with asked := left } } ∧
      t.ctl.get F.CLK_GATE_REFUSE_COUNT =
        min (s.ctl.get F.CLK_GATE_REFUSE_COUNT + 1) (2 ^ F.CLK_GATE_REFUSE_COUNT.width - 1)) ∧
    ∃ t, exec (.gateReopen dom) s = .next t ∧
      Ends s t [] { s.ctl with clk := { c with asked := left, gated := c.gated.filter fun d => d != dom.val } })

/-! ## Start-up (chapters 16 and 19) -/

/-- The end of FUSELOAD (R378, R423, R505): every word shows what its sense found, the fuses are loaded, the first sample is
taken, and SELFTEST begins, with a latched factory request starting its wipe (R457). The sample is one without a shutdown. -/
def Obligations.FuseSense : Prop :=
  ∀ (s : State) (fx : SenseFx) (sample : Sample), s.ctl.Quiet → s.ctl.inMode [.fuseload] = true → s.ctl.cellarOk = false →
    s.ctl.get F.FLT_LOG_HEAD_HEAD < 256 → (∀ i < 36, s.ctl.tempAt i < 460) → (∀ e ∈ sample, ∀ x, e.2 = some x → x < 460) →
    ∃ t, exec (.fuseSense fx sample) s = .next t ∧ t.pending = s.pending ∧ t.arr = s.arr ∧
      t.ctl.mode = Mode.selftest.code ∧ t.ctl.get F.GL_MODE_PREV = Mode.fuseload.code ∧
      t.ctl.get F.FUSE_STATUS_LOADED = 1 ∧ t.ctl.get F.THM_STATUS_SAMPLED = 1 ∧ t.ctl.bistNext = 0 ∧
      (∀ n : Fin 1024, t.ctl.get F.FUSE_WORD_HI_SENSE n.val = fuseOutcome fx s.ctl.fuse n) ∧
      (∀ n : Fin 1024, fuseOutcome fx s.ctl.fuse n = 3 → t.ctl.get F.FUSE_WORD_HI_FAILED n.val = 1) ∧
      (s.ctl.factoryReq = true → t.ctl.get F.BIST_STATUS_WIPING = 1) ∧
      t.ctl.fuse = s.ctl.fuse ∧ t.ctl.power = .run ∧ t.ctl.orb = s.ctl.orb ∧ t.ctl.dies = s.ctl.dies

/-- A unit of power-on BIST that finds no failure (R444, R446): its outcome is PASS with its duration, and the next unit
follows; unit 4 leaves every byte of the array 0 (R401); after the last unit the stack is in TRAINING. -/
def Obligations.PowerOnBist : Prop :=
  ∀ (s : State) (unit : Fin 7) (sigFail : BitVec 6) (us : Nat), s.ctl.Quiet → s.ctl.inMode [.selftest] = true →
    s.ctl.bistNext = unit.val → s.ctl.get F.BIST_STATUS_WIPING = 0 →
    (unit = 0 → sigFail = 0 ∧ ∀ v < 6, s.ctl.goldenBad v = false) →
    (let last := unit = 6 ∨ (s.ctl.bistShort = true ∧ unit = 2)
    ∃ t, exec (.powerOnBist unit sigFail [] us) s = .next t ∧ t.pending = s.pending ∧
      t.ctl.get F.BIST_UNIT_OUTCOME unit.val = 1 ∧ t.ctl.get F.BIST_UNIT_DURATION unit.val = min us (2 ^ 20 - 1) ∧
      (unit = 0 → t.ctl.get F.BIST_SIG_PASS = 63) ∧
      (¬ last → unit ≠ 2 → unit ≠ 4 →
        Ends s t [(F.BIST_UNIT_OUTCOME, unit.val), (F.BIST_UNIT_COVERAGE, unit.val), (F.BIST_UNIT_DURATION, unit.val),
          (F.BIST_SIG_PASS, 0)] { s.ctl with bistNext := unit.val + 1 }) ∧
      (unit = 4 → (∀ a < 16 * 64 * 16 * 8272 * 1152, t.arr.byte a = 0) ∧
        Leaves s t [(F.BIST_UNIT_OUTCOME, 4), (F.BIST_UNIT_COVERAGE, 4), (F.BIST_UNIT_DURATION, 4)]
          { s.ctl with bistNext := 5, pcs := t.ctl.pcs }) ∧
      (last → s.ctl.bistFatal = false → s.ctl.held = [] →
        t.ctl.mode = Mode.training.code ∧ t.ctl.get F.BIST_STATUS_DONE = 1))

/-- TSV training after a power-on reset that finds no new failure leads to READY, and on to ACTIVE where a link is up (R378,
R400, R404); a port that trained early comes up. -/
def Obligations.TsvTraining : Prop :=
  ∀ s : State, s.ctl.Quiet → s.ctl.inMode [.training] = true → s.ctl.bistShort = false →
    (∀ p < 64, (s.ctl.pc p).tsv.dead = false ∧ ((s.ctl.pc p).tsv.badHalf.length = 1 → s.ctl.narrow p = true)) →
    ∃ t, exec (.tsvTraining [] []) s = .next t ∧
      EndsBut s t [F.GL_MODE_STATE, F.GL_MODE_PREV, F.PA_STATUS_LINK, F.PL_PHY_STATUS_STATE, F.PL_PHY_STATUS_STEP]
        { s.ctl with absent := 0, lost := 0, links := t.ctl.links } ∧
      t.ctl.mode = (if t.ctl.anyLink then Mode.active.code else Mode.ready.code) ∧
      (∀ p : Port, t.ctl.link p =
        if s.ctl.link p = 1 ∧ s.ctl.get F.PA_STATUS_GROUPS p.idx ≠ 0 then 2 else s.ctl.link p)

/-! ## Orbit time (chapters 2, 5 and 17) -/

/-- A boundary at which nothing else falls due (R416): no sample, step, commit, late scrub row or reservation, no neighbour refresh
of a die that turns hot, and no marker that a link has carried. It comes a period of the phase PLL after the last one (R40, R51).
The number advances, hot states are latched (R46, R414), every `TEL` register is captured (R484), transits end, an eclipse that had
not begun in its slot is not run but for that of die 0, which begins with the orbit (R44, R52), and the counts of boundaries go on
(R109, R272). -/
def Obligations.OrbitBoundary : Prop :=
  ∀ (s : State) (sample : Sample) (iavg : BitVec 8), s.ctl.Quiet → s.ctl.power = .run → s.ctl.orb.run = true →
    s.ctl.orb.cut = false → s.ctl.orb.slew = 0 → s.ctl.orb.step = none → s.ctl.commit = none →
    s.ctl.orb.source ≠ 1 → s.ctl.orb.source ≠ 2 → (∀ e ∈ s.ctl.pcs, e.2.nrefs = []) →
    (s.ctl.scrubRuns = true → s.ctl.bnd ≠ s.ctl.rowDue (s.ctl.get F.REP_SCRUB_POS_STEP)) →
    s.ctl.get F.THM_STATUS_FAST = 0 → (s.ctl.orbit + 1) % 2 ^ 48 % 64 ≠ 0 → s.ctl.get F.THM_STATUS_STEPS = 0 →
    tempOf (s.ctl.get F.THM_MAX_TEMP) < s.ctl.throttleAt → s.ctl.reserves = [] →
    ∃ t, exec (.orbitBoundary sample iavg) s = .next t ∧
      EndsBut s t [F.ORB_NOW, F.ORB_HOTMAP_HOT, F.PWR_STATUS_INOW, F.QOS_CAP_CAP, F.QOS_CUT_VALID, F.QOS_CUT_RANK,
          F.QOS_CUT_LABEL, F.QOS_RES_ACTIVE_SUM, F.QOS_RES_ACTIVE_INFORCE, F.CAL_TRO_TRIM, F.TEL_ORBIT, F.TEL_PA_RD,
          F.TEL_PA_WR, F.TEL_PB_RD, F.TEL_PB_WR, F.TEL_SVC_RD, F.TEL_SVC_WR, F.TEL_ARR_RD, F.TEL_ARR_WR, F.TEL_LOAD_IAVG,
          F.TEL_LOAD_QMAX, F.TEL_LOAD_QPC]
        { s.ctl with now := t.ctl.now, orbitAt := t.ctl.orbitAt, bnd := s.ctl.bnd + 1, dies := t.ctl.dies,
                     sampleAge := s.ctl.sampleAge + 1, stepAge := s.ctl.stepAge.map (· + 1), warmAge := s.ctl.warmAge + 1,
                     trims := t.ctl.trims, rings := t.ctl.rings, lease := t.ctl.lease, absent := t.ctl.absent,
                     longAbsent := t.ctl.longAbsent, idle := t.ctl.idle, links := t.ctl.links, mirs := t.ctl.mirs,
                     pa := t.ctl.pa, pb := t.ctl.pb, qmax := t.ctl.qmax,
                     orb := { s.ctl.orb with markAt := if s.ctl.orb.seen then s.ctl.orb.markAt else none, seen := false } } ∧
      t.ctl.orbit = (s.ctl.orbit + 1) % 2 ^ 48 ∧ t.ctl.now = max s.ctl.now (s.ctl.orbitAt + s.ctl.orb.period) ∧
      t.ctl.orbitAt = t.ctl.now ∧ t.ctl.get F.ORB_HOTMAP_HOT = s.ctl.get F.THM_HOT_HOT % 65536 ∧
      (∀ d < 16, (s.ctl.die d).st ≠ .cut ∨ (s.ctl.die d).catchup = true → t.ctl.die d = { s.ctl.die d with transit := false }) ∧
      (∀ d < 16, (s.ctl.die d).st = .cut → (s.ctl.die d).catchup = false → t.ctl.die d =
        if d = 0 then { s.ctl.die d with transit := false, leadAt := some t.ctl.now }
        else { s.ctl.die d with transit := false, st := .quiet, leadAt := none }) ∧
      (∀ p : Port, t.ctl.port p = { s.ctl.port p with
        silent := (if s.ctl.link p = 2 then some (min 64 (((s.ctl.port p).silent.map (· + 1)).getD 0)) else none) }) ∧
      t.ctl.get F.TEL_ORBIT = (s.ctl.orbit + 1) % 2 ^ 48 ∧
      t.ctl.get F.TEL_PA_RD = Sparse.getD s.ctl.tel 0 0 % 2 ^ F.TEL_PA_RD.width ∧
      t.ctl.get F.TEL_ARR_WR = Sparse.getD s.ctl.tel 7 0 % 2 ^ F.TEL_ARR_WR.width ∧
      t.ctl.lease = (if s.ctl.inMode [.ready, .active, .drowse] then s.ctl.lease - 1 else s.ctl.lease)

/-- A sample of readings that all lie below the warning point (R411 to R414): every sensor it reads shows its reading, `THM_MAX`
is the highest reading of the working sensors, and the hot state of each die follows 85 and 82 degC. -/
def Obligations.ThermalSample : Prop :=
  ∀ (s : State) (sample : Sample), s.ctl.Quiet → s.ctl.power = .run → s.ctl.inMode [.quarantine] = false →
    s.ctl.get F.THM_STATUS_SAMPLED = 1 → (∃ i < 4, s.ctl.sensorWorks i = true) → (∀ i < 36, s.ctl.tempAt i < s.ctl.warnAt) →
    (sample.map (·.1)).Nodup → (∀ e ∈ sample, ∃ x, e.2 = some x ∧ -160 ≤ x ∧ x < s.ctl.warnAt) →
    ∃ t, exec (.thermalSample sample) s = .next t ∧
      EndsBut s t [F.THM_SENSOR_TEMP, F.THM_STATUS_SAMPLED, F.THM_HOT_HOT, F.THM_STATUS_FAST, F.THM_MAX_TEMP,
          F.THM_MAX_SENSOR, F.THM_PEAK_TEMP, F.THM_PEAK_SENSOR, F.THM_STATUS_WARNING]
        { s.ctl with sampleAge := 0, warmAge := t.ctl.warmAge } ∧
      (∀ e ∈ sample, s.ctl.sensorWorks e.1.val = true → ∀ x, e.2 = some x → t.ctl.tempAt e.1.val = x) ∧
      (∀ i < 36, (∀ e ∈ sample, e.1.val ≠ i) → t.ctl.get F.THM_SENSOR_TEMP i = s.ctl.get F.THM_SENSOR_TEMP i) ∧
      (∀ i < 36, s.ctl.sensorWorks i = true → t.ctl.tempAt i ≤ tempOf (t.ctl.get F.THM_MAX_TEMP)) ∧
      (∃ i < 36, s.ctl.sensorWorks i = true ∧ t.ctl.tempAt i = tempOf (t.ctl.get F.THM_MAX_TEMP)) ∧
      (∀ d < 16,
        let works := fun k => s.ctl.sensorWorks (4 + 2 * d + k) = true
        let temp := fun k => t.ctl.tempAt (4 + 2 * d + k)
        ((∃ k < 2, works k ∧ 340 < temp k) → bit (t.ctl.get F.THM_HOT_HOT) d = true) ∧
        ((∃ k < 2, works k) → (∀ k < 2, works k → temp k ≤ 328) → bit (t.ctl.get F.THM_HOT_HOT) d = false) ∧
        ((¬ ∃ k < 2, works k) → bit (t.ctl.get F.THM_HOT_HOT) d = true))

/-- Markers while the phase is locked to the beat and no neighbour listens (R32 to R37, R40): the first marker in its window opens the
orbit, sets the period from the marker before it, gives its bit and clears the count of missing ones; a missing one is counted, and
the second in a row enters free orbit (R51). With the number not valid, the 64 markers that make up a frame set it (R42). Rejoining
the beat from free orbit (R52): an edge that is not one period after the last begins a new run; the sixteenth edge of a run locks a
phase that is in place, slews one that is off by at most 64 phases, and else lets the next marker end the orbit. -/
def Obligations.BeatMarkers : Prop :=
  (∀ (s : State) (offset : Int) (highNs : Nat),
    let o := s.ctl.orb
    let seen := fun (b : Option Bool) => (o.frame ++ [b]).drop (o.frame.length + 1 - 64)
    let at_ := s.ctl.offTime offset
    let now := { o with period := (match o.markAt with | some t => if t < at_ then at_ - t else o.period | none => o.period),
                        markAt := some at_, seen := true, missed := 0, frame := seen (bitOf highNs) }
    let between := o.align ≠ some (s.ctl.bnd % 64)
    let moved := fun (t : State) => ∀ d, t.ctl.die d =
      if d = 0 ∧ (s.ctl.die 0).leadAt.isSome = true ∧ (s.ctl.die 0).catchup = false ∧ (s.ctl.die 0).ecl = some s.ctl.bnd
      then { s.ctl.die d with leadAt := some at_ } else s.ctl.die d
    s.ctl.Quiet → o.run = true → s.ctl.get F.ORB_STATUS_STATE = 1 → o.source = 0 → o.slew = 0 → o.cut = false →
    s.ctl.get F.ORB_CFG_SOURCE = 0 → s.ctl.plUp 0 = false → s.ctl.plUp 1 = false →
    (offset.natAbs ≤ 8 → o.seen = false → o.synced = true → between →
      ∃ t, exec (.beatMarker offset highNs) s = .next t ∧
        Ends s t [] { s.ctl with now := max s.ctl.now at_, orbitAt := at_, dies := t.ctl.dies, orb := now } ∧ moved t) ∧
    (offset.natAbs ≤ 8 → o.seen = false → o.synced = false → s.ctl.numValid = false → o.first = false → s.ctl.commit = none →
      s.ctl.commitWait = [] → ∀ bs, frameOk (seen (bitOf highNs)) = some bs → ∃ t, exec (.beatMarker offset highNs) s = .next t ∧
        Ends s t [(F.ORB_STATUS_FLAGS, 0), (F.ORB_NOW, 0), (F.ORB_STATUS_NUMBER_VALID, 0)]
          { s.ctl with now := max s.ctl.now at_, orbitAt := at_, dies := t.ctl.dies,
                       orb := { now with synced := true, align := some (s.ctl.bnd % 64) } } ∧ moved t ∧
        t.ctl.orbit = (frameNum bs 0 48 + 63) % 2 ^ 48 ∧ t.ctl.numValid = true ∧
        t.ctl.get F.ORB_STATUS_FLAGS = frameNum bs 48 8) ∧
    (8 < offset.natAbs ∨ o.seen = true → ∃ t, exec (.beatMarker offset highNs) s = .next t ∧ Ends s t [] s.ctl) ∧
    (o.seen = false → o.missed = 0 → between → ∃ t, exec .missingMarker s = .next t ∧
      Ends s t [(F.ORB_EVENTS_MISSED, 0)]
        { s.ctl with orb := { o with missed := 1, frame := seen none, seen := true, markAt := none } } ∧
      t.ctl.get F.ORB_EVENTS_MISSED = min (s.ctl.get F.ORB_EVENTS_MISSED + 1) (2 ^ F.ORB_EVENTS_MISSED.width - 1)) ∧
    (o.seen = false → o.missed ≠ 0 → o.align = none → s.ctl.Calm 0x060 →
      ∃ t, exec .missingMarker s = .next t ∧
        EndsRaised s t 0x060 [(F.ORB_EVENTS_MISSED, 0), (F.ORB_STATUS_STATE, 0), (F.ORB_STATUS_PHASE_LOCKED, 0)]
          { s.ctl with orb := { o with source := 3, missed := 0, seen := true, markAt := none, runs := [], frame := [], synced := false } } ∧
        t.ctl.get F.ORB_STATUS_STATE = 2 ∧ t.ctl.get F.ORB_STATUS_PHASE_LOCKED = 0)) ∧
  (∀ (s : State) (offset : Int),
    let o := s.ctl.orb
    let pos := (s.ctl.bnd : Int) * 4096 + offset
    let run := Sparse.getD o.runs 0 []
    let m := { s.ctl with now := max s.ctl.now (s.ctl.offTime offset) }
    s.ctl.Quiet → o.run = true → s.ctl.get F.ORB_STATUS_STATE = 2 → o.slew = 0 → o.cut = false →
    s.ctl.get F.ORB_CFG_SOURCE = 0 →
    ((∀ e r, run = e :: r → 2 < (pos - e - 4096).natAbs) → ∃ t, exec (.beatRejoin offset) s = .next t ∧
      Ends s t [] { m with orb := { o with runs := Sparse.put o.runs 0 [pos] } }) ∧
    (∀ e r, run = e :: r → (pos - e - 4096).natAbs ≤ 2 → r.length = 14 →
      (let mean := wrapPhase (pos + (((pos :: run).take 4).map fun x => wrapPhase (x - pos)).sum / 4)
      let p := { o with runs := [], source := 0, frame := [], synced := false, missed := 0 }
      ∃ t, exec (.beatRejoin offset) s = .next t ∧
        (mean = 0 → Ends s t [(F.ORB_STATUS_STATE, 0), (F.ORB_STATUS_PHASE_LOCKED, 0)] { m with orb := p } ∧
          t.ctl.get F.ORB_STATUS_STATE = 1 ∧ t.ctl.get F.ORB_STATUS_PHASE_LOCKED = 1) ∧
        (mean ≠ 0 → mean.natAbs ≤ 64 → Ends s t [] { m with orb := { p with slew := mean } }) ∧
        (64 < mean.natAbs →
          Ends s t [] { m with orb := { p with cut := true, cutAt := s.ctl.offTime offset + o.period } }))))

/-- The eclipse of a die with no bank open, no background operation, and no speculative target pending (R44, R47, R48, R58, R151,
R152): the write cut-off, once in an orbit; the flush lead, in the form of the die's hot state; the refresh of one row (two while
hot), whose activations are forgotten in every PC that is not dark; and the end, where the transit of a normal die begins if its slot
still runs. The flush lead closes every bank of its die, whatever was open. -/
def Obligations.ScheduledEclipse : Prop :=
  (∀ (s : State) (die : Fin 16),
    let d := die.val
    let x := s.ctl.die d
    let lead := if d = 0 then 4096 else 256 * d
    let bnd := if d = 0 then s.ctl.bnd + 1 else s.ctl.bnd
    let others := fun (t : State) => ∀ e, e ≠ d → t.ctl.die e = s.ctl.die e
    let n := if x.hot then 2 else 1
    s.ctl.Quiet →
    (s.ctl.orb.run = true → x.st = .quiet → x.ecl ≠ some bnd → s.ctl.now ≤ s.ctl.phaseAt lead →
      (∀ e ∈ s.ctl.pcs, e.2.targets = [] ∧ e.2.bg = []) → ∃ t, exec (.writeCutOff die) s = .next t ∧
      Ends s t [] { s.ctl with now := max s.ctl.now (s.ctl.phaseAt (lead - 20)), dies := t.ctl.dies } ∧
      t.ctl.die d = { x with st := .cut, catchup := false, leadAt := some (s.ctl.phaseAt lead), ecl := some bnd } ∧ others t) ∧
    (x.st = .cut → x.catchup = false → x.ecl = some s.ctl.bnd → (∀ p b, b / 16 = d → ((s.ctl.pc p).bank b).row = none) →
      ∃ t, exec (.flushLead die) s = .next t ∧
        Ends s t [] { s.ctl with now := max s.ctl.now (x.leadAt.getD s.ctl.now), dies := t.ctl.dies } ∧
        t.ctl.die d = { x with st := .lead, hot := s.ctl.hotDie d } ∧ others t) ∧
    (x.st = .lead → ∃ t, exec (.eclipseRefresh die) s = .next t ∧
      Ends s t [] { s.ctl with now := max s.ctl.now (x.leadAt.getD s.ctl.now + s.ctl.phasePs 24), dies := t.ctl.dies,
                               acts := t.ctl.acts } ∧
      t.ctl.die d = { x with st := .refresh, row := (x.row + n) % 8192, debt := x.debt - n } ∧ others t ∧
      (∀ pc < 64, s.ctl.dark pc = false → ∀ b, b / 16 = d → ∀ k < n,
        Sparse.getD t.ctl.acts (rowIx pc b ((x.row + k) % 8192)) 0 = 0) ∧
      (∀ pc < 64, ∀ b < 256, s.ctl.dark pc = true ∨ b / 16 ≠ d → ∀ r < 8272,
        Sparse.getD t.ctl.acts (rowIx pc b r) 0 = Sparse.getD s.ctl.acts (rowIx pc b r) 0)) ∧
    (x.st = .refresh → ∃ t, exec (.eclipseEnd die) s = .next t ∧
      Ends s t [] { s.ctl with now := max s.ctl.now (x.leadAt.getD s.ctl.now + s.ctl.phasePs (if x.hot then 256 else 184)),
                               dies := t.ctl.dies } ∧
      t.ctl.die d = { x with st := .quiet, catchup := false, leadAt := none, hot := false,
                             transit := !x.catchup && !x.hot && decide (256 * d + 184 ≤ t.ctl.phase) &&
                               decide (t.ctl.phase ≤ 256 * d + 255) } ∧ others t)) ∧
  (∀ (s : State) (die : Fin 16), s.ctl.Quiet → (s.ctl.die die.val).st = .cut → (s.ctl.die die.val).catchup = false →
    (s.ctl.die die.val).ecl = some s.ctl.bnd →
    (∀ p b, b / 16 = die.val → ((s.ctl.pc p).bank b).rets = [] ∧ ((s.ctl.pc p).bank b).pce.loading = false ∧
      (((s.ctl.pc p).bank b).pce.st = .dirty → ((s.ctl.pc p).bank b).pce.err = [])) →
    ∃ t, exec (.flushLead die) s = .next t ∧ t.pending = s.pending ∧
      (∀ p < 64, ∀ b, b / 16 = die.val → ((t.ctl.pc p).bank b).row = none) ∧
      (∀ p < 64, ∀ b, b / 16 ≠ die.val → (t.ctl.pc p).bank b = (s.ctl.pc p).bank b))

/-- Refresh debt (R58, R59, R153): each credit interval adds one row to a kept die, two while it is hot; at 4 rows a catch-up
eclipse is inserted, which refreshes the die in the next command slot once nothing is under way on it. -/
def Obligations.RefreshDebt : Prop :=
  ∀ (s : State) (die : Fin 16),
    let d := die.val
    let x := s.ctl.die d
    let rows := fun e => if s.ctl.hotDie e then 2 else 1
    let slot := s.ctl.now + if s.ctl.get F.GL_ID_BIN = 0 then 1000 else 1250
    s.ctl.Quiet →
    (∃ t, exec .retentionCredit s = .next t ∧ Ends s t [] { s.ctl with dies := t.ctl.dies, lost := t.ctl.lost } ∧
      ∀ e < 16,
        (s.ctl.dieKept e = true → t.ctl.die e = { s.ctl.die e with debt := (s.ctl.die e).debt + rows e } ∧
          bit t.ctl.lost e = (bit s.ctl.lost e || decide (8 ≤ (s.ctl.die e).debt + rows e))) ∧
        (s.ctl.dieKept e = false → t.ctl.die e = s.ctl.die e ∧ bit t.ctl.lost e = bit s.ctl.lost e)) ∧
    (x.st = .quiet → 4 ≤ x.debt → s.ctl.dieKept d = true → (∀ e ∈ s.ctl.pcs, e.2.targets = [] ∧ e.2.bg = []) →
      s.ctl.Calm 0x062 → ∃ t, exec (.catchupEclipse die) s = .next t ∧
        EndsRaised s t 0x062 [(F.ORB_CATCHUP_COUNT, d)] { s.ctl with dies := t.ctl.dies } ∧
        t.ctl.die d = { x with st := .cut, catchup := true, transit := false, leadAt := none } ∧
        t.ctl.get F.ORB_CATCHUP_COUNT d = min (s.ctl.get F.ORB_CATCHUP_COUNT d + 1) (2 ^ F.ORB_CATCHUP_COUNT.width - 1) ∧
        ∀ e, e ≠ d → t.ctl.die e = s.ctl.die e) ∧
    (x.st = .cut → x.catchup = true →
      (∀ e ∈ s.ctl.pcs, e.2.banks = [] ∧ e.2.flights = [] ∧ e.2.curd = []) →
      ∃ t, exec (.catchupFlushLead die) s = .next t ∧
        Ends s t [] { s.ctl with now := slot, dies := t.ctl.dies, acts := t.ctl.acts } ∧
        t.ctl.die d = { x with st := .refresh, hot := s.ctl.hotDie d, leadAt := some slot, row := (x.row + rows d) % 8192,
                               debt := x.debt - rows d } ∧
        ∀ e, e ≠ d → t.ctl.die e = s.ctl.die e)

/-! ## Host ports (chapters 3 and 4) -/

/-- Downstream flits of an awake pair with nothing unacknowledged (R87, R129): a bad CRC is discarded and NAKed; a flit whose
SEQ is not the expected one, or a NULL, is not accepted; an accepted one advances E, and its headers take the next places in
port order, position by position. -/
def Obligations.ControlFlit : Prop :=
  ∀ (s : State) (p : Port) (g : Fin 16) (flit : BitVec 512) (slots : List (BitVec 512)),
    let f := flitOf flit.toNat
    let x := s.ctl.port p
    let q := s.ctl.grp p g.val
    let hs := if f.typ = 2 then reqHeaders f.body f.hv 4 0 else []
    let others := fun (t : State) => (∀ p', p' ≠ p → t.ctl.port p' = s.ctl.port p') ∧
      ∀ g', g' ≠ g.val → t.ctl.grp p g' = s.ctl.grp p g'
    slots.length = 4 → s.ctl.Quiet → s.ctl.linkUp p = true → s.ctl.grpOn p g.val = true → q.rxIdle = false →
    (f.crcOk = false → ∃ t, exec (.controlFlit p g flit slots) s = .next t ∧
      Ends s t [(F.PA_ERR_CRC, p.idx)] { s.ctl with pa := t.ctl.pa, pb := t.ctl.pb } ∧ others t ∧
      t.ctl.get F.PA_ERR_CRC p.idx = 1 ∧ (t.ctl.port p).hdrs = x.hdrs ∧ (t.ctl.port p).nextPos = x.nextPos ∧
      t.ctl.grp p g.val = { q with nak := true, hold := (t.ctl.grp p g.val).hold, rxPeriod := (q.rxPeriod + 1) % 4096 }) ∧
    (f.crcOk = true → q.buf = [] → f.nak = false → f.recov = false → f.typ = 0 ∨ f.seq ≠ q.e →
      ∃ t, exec (.controlFlit p g flit slots) s = .next t ∧
        Ends s t [] { s.ctl with pa := t.ctl.pa, pb := t.ctl.pb } ∧ others t ∧
        (t.ctl.port p).hdrs = x.hdrs ∧ (t.ctl.port p).nextPos = x.nextPos ∧ (t.ctl.port p).silent = none ∧
        t.ctl.grp p g.val = { q with hold := (t.ctl.grp p g.val).hold, rxPeriod := (q.rxPeriod + 1) % 4096 }) ∧
    (f.crcOk = true → q.buf = [] → f.nak = false → f.recov = false → f.typ = 1 ∨ f.typ = 2 → f.seq = q.e →
      q.txIdle = false → f.dv = 0 → judgeFlit q f hs = [] → (hs.all fun h => decide (h.1 % 16 < 7)) = true →
      s.ctl.inMode [.drowse] = false → s.ctl.entry = none →
      ∃ t, exec (.controlFlit p g flit slots) s = .next t ∧
        Ends s t [] { s.ctl with pa := t.ctl.pa, pb := t.ctl.pb } ∧ others t ∧
        (t.ctl.port p).hdrs.map (fun h => (h.pos, h.bits, h.ext)) =
          x.hdrs.map (fun h => (h.pos, h.bits, h.ext)) ++ hs.zipIdx.map (fun e => (x.nextPos + e.2, e.1.1, e.1.2)) ∧
        (t.ctl.port p).nextPos = x.nextPos + hs.length ∧ (t.ctl.port p).silent = none ∧
        t.ctl.grp p g.val = { q with e := (q.e + 1) % 4096, taken := true, nak := false, rxAck := false,
                                     ackOnly := q.ackOnly.map fun _ => 0, rh := q.rh - (hs.map rhCost).sum,
                                     needs := (t.ctl.grp p g.val).needs, hold := (t.ctl.grp p g.val).hold,
                                     rxPeriod := (q.rxPeriod + 1) % 4096 })

/-- One upstream period of a port with one pair in use (R68, R79, R86): with nothing to carry it sends a NULL; with a completion
waiting it sends a CPL flit under the next SEQ, and keeps it for replay. -/
def Obligations.ControlPeriod : Prop :=
  ∀ (s : State) (p : Port) (g : Fin 16),
    let q := s.ctl.grp p g.val
    let x := s.ctl.port p
    let now := match x.periodAt with | some s' => max s.ctl.now (s' + s.ctl.periodPs p) | none => s.ctl.now
    let aged := fun (y : Grp) =>
      { y with period := (q.period + 1) % 4096, replayAge := min 64 (q.replayAge + 1),
               idleAge := if y.buf.isEmpty then 0 else min 256 (q.idleAge + 1), ackOnly := y.ackOnly.map (· + 1),
               quiet := if y.rxIdle && y.buf.isEmpty && y.up.isEmpty && y.slots.isEmpty then min 64 (q.quiet + 1) else 0 }
    s.ctl.Quiet → s.ctl.linkUp p = true → s.ctl.get F.PA_STATUS_GROUPS p.idx = 2 ^ g.val → x.events = [] →
    q.txIdle = false → q.again = 0 → q.slots = [] → q.rhDue = 0 → q.wdDue = 0 →
    (q.up = [] → ∃ t, exec (.controlPeriod p) s = .next t ∧
      Ends s t [] ({ s.ctl with now := now }.setPort p ({ x with periodAt := some now }.setGrp g.val (aged q))) ∧
      t.ctl.out = [.flit p g.val (flitBits q { typ := 0, seq := 0, period := q.period }) []]) ∧
    (∀ tag status session at_, q.buf = [] → q.up = [.cpl tag status none false none session (.fresh false) at_] →
      (status = 1 → s.ctl.recordWaits p tag = false) →
      (let c : TxFlit :=
        { typ := 3, seq := q.seq, hv := 1, period := q.period, body := tag + status * 2 ^ 14
          items := [.cpl tag status none false none session (.again false) at_] }
      ∃ t, exec (.controlPeriod p) s = .next t ∧
        Ends s t [] ({ s.ctl with now := now }.setPort p ({ x with periodAt := some now }.setGrp g.val
          (aged { q with up := [], seq := (q.seq + 1) % 4096, buf := [c], ackOnly := none }))) ∧
        t.ctl.out = [.flit p g.val (flitBits q c) []]))

/-- A replay starts on a NAK with a new ACK, on one that is 64 periods old, or after 256 periods without a release, and on nothing
else; it resends every unacknowledged flit and is counted. The fourth in a row from one oldest SEQ asks for recovery of the pair
instead (R90, R91). -/
def Obligations.Replay : Prop :=
  ∀ (s : State) (p : Port) (g : Fin 16) (o : TxFlit) (r : List TxFlit),
    let q := s.ctl.grp p g.val
    let n := if q.fromCount ≠ 0 ∧ q.fromSeq = o.seq then q.fromCount + 1 else 1
    let after := fun (y : Grp) => s.ctl.setPort p ((s.ctl.port p).setGrp g.val y)
    s.ctl.Quiet → s.ctl.linkUp p = true → s.ctl.grpOn p g.val = true → q.txIdle = false → q.buf = o :: r →
    let due : Prop := (q.nakIn.isSome = true ∧ (q.nakIn ≠ q.nakAck ∨ 64 ≤ q.replayAge)) ∨ 256 ≤ q.idleAge
    ∃ t, exec (.replay p g) s = .next t ∧
      (¬ due → Ends s t [] s.ctl) ∧
      (due → n < 4 → Ends s t [(F.PA_COUNT_REPLAYS, p.idx)] (after
          { q with again := r.length + 1, nakAck := if q.nakIn.isSome then q.nakIn else q.nakAck, nakIn := none,
                   replayAge := 0, idleAge := 0, fromSeq := o.seq, fromCount := n }) ∧
        t.ctl.get F.PA_COUNT_REPLAYS p.idx =
          min (s.ctl.get F.PA_COUNT_REPLAYS p.idx + 1) (2 ^ F.PA_COUNT_REPLAYS.width - 1)) ∧
      (due → 4 ≤ n → Ends s t [] (after { q with recov := true, nakIn := none, fromCount := 0 }))

/-- Recovery of a pair with nothing under way (R92, R93): it is counted, the lanes that fell short take their spares, and the pair
returns to its initial state with what the host did not accept in front. A pair that cannot train, or needs a spare that replaces
another lane, is disabled, and the last one takes the link DOWN; a forwarded clock that fails disables its pair likewise (R94,
R100). -/
def Obligations.PairRecovery : Prop :=
  ∀ (s : State) (p : Port) (g : Fin 16) (hostE : BitVec 12) (trained : Option (List (Dir × LaneKind × Fin 64))),
    let x := s.ctl.port p
    let counts := [(F.PA_COUNT_RECOVERIES, p.idx)]
    let again := trained.bind ((s.ctl.bump F.PA_COUNT_RECOVERIES p.idx).takeSpares p g.val)
    s.ctl.Quiet → x.hdrs = [] → s.ctl.linkUp p = true → s.ctl.grpOn p g.val = true →
    s.ctl.get F.PA_STATUS_GROUPS p.idx < 65536 →
    (again.isSome = true → ∃ t, exec (.groupRecovery p g hostE trained) s = .next t ∧
      Ends s t (counts ++ spareFlds (p.idx * 16 + g.val) ++ [(F.PA_STATUS_LINK, p.idx), (F.PA_SIDEBAND_PARTNER_IDLE, p.idx)])
        (s.ctl.setPort p (x.setGrp g.val (t.ctl.grp p g.val))) ∧
      (∀ m, again = some m → ∀ d k, t.ctl.portLane p.idx g.val d k = m.portLane p.idx g.val d k) ∧
      ((s.ctl.grp p g.val).buf = [] → t.ctl.grp p g.val = { up := (s.ctl.grp p g.val).up.filter fun u => !u.idles }) ∧
      t.ctl.get F.PA_COUNT_RECOVERIES p.idx =
        min (s.ctl.get F.PA_COUNT_RECOVERIES p.idx + 1) (2 ^ F.PA_COUNT_RECOVERIES.width - 1)) ∧
    (again = none → (s.ctl.grp p g.val).up = [] → s.ctl.Calm (groupSource p) →
      ∃ t, exec (.groupRecovery p g hostE trained) s = .next t ∧ PairDisabled s t p g.val counts) ∧
    ((s.ctl.grp p g.val).up = [] → s.ctl.Calm (groupSource p) →
      ∃ t, exec (.forwardedClockFail p g) s = .next t ∧ PairDisabled s t p g.val [])

/-- Training of a host port (R101, R404): a port that reaches T6 takes its groups and its rate and comes up, before READY once
the stack gets there; one without a group stays DOWN with TRAIN_FAIL, and the retry trains it again. A group whose failed lanes
need more than its spares is not taken, and one that training newly disables is reported (R94, R100). -/
def Obligations.PortTraining : Prop :=
  ∀ (s : State) (p : Port) (r : PortTrain),
    let spares := fun (g : Nat) => s.ctl.takeSpares p g ((r.spared.filter fun e => e.1.val == g).map (·.2))
    let takes := fun (g : Nat) => r.groups.getLsbD g = true ∧ (spares g).isSome = true
    let disabled := fun (m : Ctl) (g : Nat) => m.get F.PA_LANE_DISABLED (p.idx * 16 + g) ≠ 0
    let lanes := (F.PA_SIDEBAND_HOSTPRES, p.idx) :: (List.range 16).flatMap fun g =>
      (F.PA_LANE_DISABLED, p.idx * 16 + g) :: spareFlds (p.idx * 16 + g)
    let frame := fun (t : State) (l : List (Fld × Nat)) (x : PortSt) =>
      Ends s t (lanes ++ l) { s.ctl.setPort p x with absent := t.ctl.absent, longAbsent := t.ctl.longAbsent, held := t.ctl.held }
    let shown := fun (t : State) => t.ctl.get F.PA_SIDEBAND_HOSTPRES p.idx = 1 ∧ ∀ g < 16,
      (takes g → ¬ disabled t.ctl g ∧ bit (t.ctl.get F.PA_STATUS_GROUPS p.idx) g = true ∧
        ∀ m, spares g = some m → ∀ d k, t.ctl.portLane p.idx g d k = m.portLane p.idx g d k) ∧
      (¬ takes g → disabled t.ctl g ∧ ∀ d k, t.ctl.portLane p.idx g d k = s.ctl.portLane p.idx g d k)
    let came := fun (t : State) (l : List (Fld × Nat)) =>
      frame t ((F.PA_STATUS_RATE, p.idx) :: linkFlds p ++ l)
        { s.ctl.port p with grps := [], switching := [], periodAt := none, retry := false, silent := none } ∧
      shown t ∧ t.ctl.get F.PA_STATUS_RATE p.idx = max r.rate.val (s.ctl.rateFloor p) % 4 ∧
      t.ctl.link p = (if s.ctl.inMode [.training] then 1 else 2) ∧
      (s.ctl.inMode [.ready, .active] = true → t.ctl.mode = Mode.active.code)
    let failed := fun (t : State) (l : List (Fld × Nat)) =>
      frame t ([(F.PA_STATUS_LINK, p.idx), (F.PA_ERR_TRAIN_FAIL, p.idx)] ++ l) { s.ctl.port p with retry := true } ∧
      shown t ∧ t.ctl.link p = 0 ∧ t.ctl.get F.PA_ERR_TRAIN_FAIL p.idx = 1
    let ends := fun (t : State) (l : List (Fld × Nat)) =>
      ((∃ g < 16, takes g) → came t l) ∧ ((∀ g < 16, ¬ takes g) → failed t l)
    let newly := fun (g : Nat) => ¬ takes g ∧ ¬ disabled s.ctl g
    s.ctl.Quiet → s.ctl.mayTrain p = true →
    ((∀ g < 16, ¬ newly g) →
      (∃ t, exec (.portTraining p r) s = .next t ∧ t.ctl.held = s.ctl.held ∧ ends t []) ∧
      (s.ctl.get F.PA_SIDEBAND_HOSTPRES p.idx = 1 → (s.ctl.port p).retry = true →
        ∃ t, exec (.portTrainRetry p r) s = .next t ∧ t.ctl.held = s.ctl.held ∧ ends t [])) ∧
    (∀ h < 16, newly h → (∀ g < 16, newly g → g = h) → s.ctl.Calm (groupSource p) →
      ∃ t, exec (.portTraining p r) s = .next t ∧ ends t (s.ctl.logFlds (groupSource p)) ∧ t.ctl.pendOf (groupSource p) = true)

/-- Lane health and sparing (R95, R96, R98, R99): a good measurement ends a lane's run of poor ones; the fourth poor one asks
the host for a duplicate on a free spare; the switch shows the spare and is reported; the host's own requests are accepted flits, and are taken
where the lane exists and the spare is free, or replaces it already. -/
def Obligations.LaneSparing : Prop :=
  ∀ (s : State) (p : Port) (g : Fin 16) (lane : Fin 82) (h v : BitVec 6) (k : LaneKind) (n : BitVec 8),
    let key := g.val * 128 + lane.val
    let x := s.ctl.port p
    let i := p.idx * 16 + g.val
    let src := match p with | .a => 0x081 | .b => 0x091
    let poor : Prop := h.toNat < s.ctl.get F.PA_EYE_CFG_H_MIN p.idx ∨ v.toNat < s.ctl.get F.PA_EYE_CFG_V_MIN p.idx
    let eyes := [(F.PA_EYE_MIN_LANE, p.idx), (F.PA_EYE_MIN_GROUP, p.idx), (F.PA_EYE_MIN_H, p.idx), (F.PA_EYE_MIN_V, p.idx)]
    let margins := Sparse.put x.margins key (h.toNat * 64 + v.toNat)
    let q := s.ctl.grp p g.val
    let took := s.ctl.setPort p ({ x with silent := none }.setGrp g.val
      { q with e := (q.e + 1) % 4096, taken := true, nak := false, rxAck := false, ackOnly := q.ackOnly.map fun _ => 0 })
    let duplicate := fun (t : State) (limit : Nat) (used lan : Fld) (cur : Option Nat) =>
      (n.toNat < limit → cur = none → Ends s t [(used, i), (lan, i)] took ∧ t.ctl.get used i = 1 ∧ t.ctl.get lan i = n.toNat) ∧
      (cur = some n.toNat → n.toNat < limit → Ends s t [] took) ∧
      (limit ≤ n.toNat ∨ (cur.isSome = true ∧ cur ≠ some n.toNat) →
        Ends s t [(F.PA_ERR_LINKCTL_BAD, p.idx)] took ∧ t.ctl.get F.PA_ERR_LINKCTL_BAD p.idx = 1)
    s.ctl.Quiet →
    (s.ctl.linkUp p = true → s.ctl.grpOn p g.val = true → ¬ poor → ∃ t, exec (.eyeMeasurement p g lane h v) s = .next t ∧
      Ends s t eyes (s.ctl.setPort p { x with margins := margins, poor := Sparse.del x.poor key })) ∧
    (s.ctl.linkUp p = true → s.ctl.grpOn p g.val = true → poor → lane.val < 64 → Sparse.getD x.poor key 0 = 3 →
      s.ctl.get F.PA_CTRL_SPARE_EN p.idx = 1 → s.ctl.get F.PA_LANE_RX_DUSED i = 0 → x.switching = [] →
      (s.ctl.grp p g.val).txIdle = false → ∃ t, exec (.eyeMeasurement p g lane h v) s = .next t ∧
        Ends s t eyes (s.ctl.setPort p
          ({ x with margins := margins, poor := Sparse.put x.poor key 4, switching := [(g.val, .data, lane.val)] }.setGrp g.val
            { s.ctl.grp p g.val with up := (s.ctl.grp p g.val).up ++ [UpItem.linkctl 1 lane.val] }))) ∧
    (x.switching = [(g.val, .data, lane.val)] → s.ctl.Calm src → ∃ t, exec (.spareSwitch p g .data) s = .next t ∧
      EndsRaised s t src [(F.PA_LANE_RX_DUSED, i), (F.PA_LANE_RX_DLANE, i)] (s.ctl.setPort p { x with switching := [] }) ∧
      t.ctl.get F.PA_LANE_RX_DUSED i = 1 ∧ t.ctl.get F.PA_LANE_RX_DLANE i = lane.val % 2 ^ F.PA_LANE_RX_DLANE.width) ∧
    (s.ctl.pairOpen p g.val = true → s.ctl.inMode [.drowse] = false → s.ctl.entry = none → q.txIdle = false →
      (∃ t, exec (.spareData p g n) s = .next t ∧
        duplicate t 64 F.PA_LANE_TX_DUSED F.PA_LANE_TX_DLANE (s.ctl.portLane p.idx g.val 1 0)) ∧
      ∃ t, exec (.spareCtrl p g n) s = .next t ∧
        duplicate t 16 F.PA_LANE_TX_CUSED F.PA_LANE_TX_CLANE (s.ctl.portLane p.idx g.val 1 1)) ∧
    (k = .ctrl → x.switching = [] → ∃ t, exec (.spareSwitch p g k) s = .next t ∧ Ends s t [] s.ctl)

/-- The side band, idling and waking of a port (R104 to R108, R389, R506, R507). -/
def Obligations.PortIdleWake : Prop :=
  ∀ (s : State) (p : Port) (g : Fin 16) (level : BitVec 2),
    let q := s.ctl.grp p g.val
    let x := s.ctl.port p
    let link := [(F.PA_STATUS_LINK, p.idx), (F.PA_SIDEBAND_PARTNER_IDLE, p.idx)]
    s.ctl.Quiet →
    (s.ctl.power = .run → s.ctl.get F.PA_SIDEBAND_HOSTPRES p.idx = 1 → ∃ t, exec (.urgLevel p level) s = .next t ∧
      Ends s t [(F.PA_SIDEBAND_URG, p.idx)] s.ctl ∧ t.ctl.get F.PA_SIDEBAND_URG p.idx = level.toNat ∧
      t.ctl.urg p = level.toNat) ∧
    (s.ctl.pairOpen p g.val = true → s.ctl.inMode [.drowse] = false → s.ctl.entry = none → q.txIdle = false →
      ∃ t, exec (.linkIdle p g) s = .next t ∧
        Ends s t link (s.ctl.setPort p ({ x with silent := none }.setGrp g.val
          { q with e := (q.e + 1) % 4096, taken := true, nak := false, rxIdle := true, rxAck := false,
                   ackOnly := q.ackOnly.map fun _ => 0 })) ∧ t.ctl.link p = 2) ∧
    (s.ctl.linkUp p = true → s.ctl.grpOn p g.val = true → q.rxIdle = true → q.txIdle = false → 64 ≤ q.quiet → q.buf = [] →
      q.up = [] → q.slots = [] → (s.ctl.lowest p = some g.val → x.events = []) → ∃ t, exec (.linkIdleSend p g) s = .next t ∧
        Ends s t [] (s.ctl.setPort p (x.setGrp g.val { q with up := [.linkctl 3 0], quiet := 0 }))) ∧
    (∀ n, q.ackOnly = some n → q.txIdle = false → s.ctl.upWaits p g.val = false → 64 ≤ n ∨ (q.rxIdle = true ∧ 1 ≤ n) →
      ∃ t, exec (.transmitterReturnToIdle p (g, .up)) s = .next t ∧
        Ends s t link (s.ctl.setPort p (x.setGrp g.val { q with txIdle := true, ackOnly := none }))) ∧
    (s.ctl.linkUp p = true → s.ctl.grpOn p g.val = true → q.rxAck = true →
      ∃ t, exec (.transmitterReturnToIdle p (g, .down)) s = .next t ∧
        Ends s t link (s.ctl.setPort p (x.setGrp g.val { q with rxIdle := true, rxAck := false }))) ∧
    (s.ctl.inMode [.ready, .active] = true → s.ctl.entry = none → ∃ t, exec (.wakePattern (p, g)) s = .next t ∧
      Ends s t link (s.ctl.setPort p (t.ctl.port p)) ∧
      t.ctl.port p = { x with grps := (t.ctl.port p).grps } ∧
      (s.ctl.linkUp p = true → s.ctl.grpOn p g.val = true → t.ctl.link p = 2) ∧
      ∀ g' < 16, t.ctl.grp p g' =
        if (g' = g.val ∨ s.ctl.lowest p = some g.val) ∧ s.ctl.grpOn p g' = true ∧ (s.ctl.grp p g').rxIdle = true then
          { s.ctl.grp p g' with rxIdle := false, e := 0, taken := false, rxPeriod := 0, hold := [], nak := false, rxAck := true }
        else s.ctl.grp p g') ∧
    (s.ctl.inMode [.drowse] = true → ∃ t, exec (.wakePattern (p, g)) s = .next t ∧
      EndsBut s t [F.PA_STATUS_LINK, F.PA_SIDEBAND_PARTNER_IDLE, F.WAKE_SOURCE_SOURCE, F.WAKE_SOURCE_FROM, F.WAKE_SOURCE_COUNT,
          F.GL_MODE_STATE, F.GL_MODE_PREV]
        { s.ctl.setPort p (t.ctl.port p) with clk := { s.ctl.clk with gated := [], asked := [] }, idle := 0 } ∧
      t.ctl.get F.WAKE_SOURCE_SOURCE = p.idx + 1 ∧ t.ctl.get F.WAKE_SOURCE_FROM = Mode.drowse.code ∧
      t.ctl.mode = if s.ctl.anyLink then Mode.active.code else Mode.ready.code) ∧
    (s.ctl.inMode [.hibernate, .crescent] = true → ∃ t, exec (.wakePattern (p, g)) s = .next t ∧
      Ends s t [] { s.ctl with wakeHeld := some (s.ctl.wakeHeld.getD (portWake p)) })

/-- Partner loss of a port with nothing queued, that does not own the semaphore (R104, R109, R110): the cause is recorded and raised,
the link is lost, its rings are aborted, and the mode follows the links that are left. The loss of clock needs a downstream
direction that is not idle, and so does the silence of 64 orbits; `HOSTPRES` that falls while the link is DOWN or LOST is no loss. -/
def Obligations.PartnerLoss : Prop :=
  ∀ (s : State) (p : Port) (cause : PartnerCause),
    let x := s.ctl.port p
    let src := match p with | .a => 0x082 | .b => 0x092
    let code := match cause with | .hostpresLow => 1 | .clockLoss => 2 | .silence => 3
    let active : Prop := ∃ g < 16, s.ctl.grpOn p g = true ∧ (s.ctl.grp p g).rxIdle = false
    let gone : Prop := match cause with
      | .hostpresLow => s.ctl.get F.PA_SIDEBAND_HOSTPRES p.idx = 1 ∧ 1 ≤ s.ctl.link p ∧ s.ctl.link p ≤ 3
      | .clockLoss => 1 ≤ s.ctl.link p ∧ s.ctl.link p ≤ 3 ∧ active
      | .silence => s.ctl.link p = 2 ∧ active ∧ ∃ n, x.silent = some n ∧ 64 ≤ n
    s.ctl.Quiet → s.ctl.power = .run →
    (gone → x.hdrs = [] → (∀ e ∈ x.grps, e.2.up = []) →
      (∀ q, (s.ctl.pc q).ingress = [] ∧ (s.ctl.pc q).queue = [] ∧ (s.ctl.pc q).flights = [] ∧ (s.ctl.pc q).rebuilds = []) →
      (∀ k < 64, (s.ctl.ring (64 * p.idx + k)).prog = []) → s.ctl.owner ≠ p.idx + 1 → s.ctl.Calm src →
      ∃ t, exec (.partnerLoss p cause) s = .next t ∧
        EndsRaised s t src ((F.PA_STATUS_RATE, p.idx) :: linkFlds p ++ [(F.PA_SIDEBAND_URG, p.idx),
            (F.PA_SIDEBAND_HOSTPRES, p.idx), (F.PA_LOSS_CAUSE, p.idx), (F.PA_LOSS_COUNT, p.idx)] ++
            (List.range 64).map fun k => (F.RING_STATUS_STATE, 64 * p.idx + k))
          { s.ctl.setPort p { nextPos := x.nextPos } with pcs := t.ctl.pcs, rings := t.ctl.rings } ∧
        (∀ q, t.ctl.pc q = s.ctl.pc q) ∧ t.ctl.link p = 4 ∧ t.ctl.get F.PA_STATUS_GROUPS p.idx = 0 ∧
        t.ctl.get F.PA_LOSS_CAUSE p.idx = code ∧ t.ctl.get F.PA_SIDEBAND_HOSTPRES p.idx =
          (if cause = .hostpresLow then 0 else s.ctl.get F.PA_SIDEBAND_HOSTPRES p.idx) ∧
        t.ctl.get F.PA_LOSS_COUNT p.idx = min (s.ctl.get F.PA_LOSS_COUNT p.idx + 1) (2 ^ F.PA_LOSS_COUNT.width - 1) ∧
        (∀ k < 64, t.ctl.ringState (64 * p.idx + k) = (if s.ctl.ringState (64 * p.idx + k) = 0 then 0 else 4) ∧
          (s.ctl.ringState (64 * p.idx + k) ≠ 0 →
            t.ctl.ring (64 * p.idx + k) = { s.ctl.ring (64 * p.idx + k) with pre := [] })) ∧
        (∀ r, r < 64 * p.idx ∨ 64 * p.idx + 64 ≤ r → t.ctl.ring r = s.ctl.ring r) ∧
        (s.ctl.inMode [.active] = true → t.ctl.mode = if t.ctl.anyLink then Mode.active.code else Mode.ready.code)) ∧
    (s.ctl.link p = 0 ∨ 4 ≤ s.ctl.link p → ∃ t, exec (.partnerLoss p .hostpresLow) s = .next t ∧
      Ends s t [(F.PA_SIDEBAND_HOSTPRES, p.idx)] s.ctl ∧ t.ctl.get F.PA_SIDEBAND_HOSTPRES p.idx = 0)

/-- An aligned request of a port inside its window, in an allowed session, to a PC that can take it (R113, R114, R129, R221): it
takes the next place in port order and waits at the ingress of its PC; nothing is stored yet. A masked write without enabled bytes
(R116) is performed at once where nothing is ahead of it. -/
def Obligations.UserRequests : Prop :=
  ∀ (s : State) (p : Port) (g : Fin 16) (tag : BitVec 14) (session : BitVec 18) (addr : BitVec 37) (size : ReqSize)
    (data : List Byte) (be : BitVec 64),
    let n := size.bytes
    let pc := (s.ctl.place addr.toNat).pc
    let job := fun (acc : Access) (d : List Byte) (en : Nat) =>
      ({ who := .port p (s.ctl.port p).nextPos, acc := acc, addr := addr.toNat, len := n, data := d, be := en,
         pos := (s.ctl.port p).nextPos, label := session.toNat, since := s.ctl.now } : Job)
    let counts := if s.ctl.labelMode then [(F.SES_STAT_OUTST, session.toNat), (F.SES_REQS_COUNT, session.toNat)] else []
    let taken := fun (t : State) (op : Nat) (j : Job) =>
      Ends s t counts
        { s.ctl.setPort p { s.ctl.port p with reqs := (t.ctl.port p).reqs, silent := none,
                                                nextPos := (s.ctl.port p).nextPos + 1 } with pcs := t.ctl.pcs } ∧
      s.ctl.OtherPcs t.ctl pc ∧ t.ctl.pc pc = { s.ctl.pc pc with ingress := (s.ctl.pc pc).ingress ++ [j] } ∧
      (t.ctl.port p).reqs.map (fun r => (r.pos, r.g, r.tag, r.op, r.session, r.addr, r.len)) =
        [((s.ctl.port p).nextPos, g.val, tag.toNat, op, session.toNat, addr.toNat, n)] ∧
      (∀ r ∈ (t.ctl.port p).reqs, r.st = .held ∧ r.admitted = s.ctl.labelMode) ∧
      (s.ctl.labelMode = true →
        t.ctl.get F.SES_STAT_OUTST session.toNat = (s.ctl.get F.SES_STAT_OUTST session.toNat + 1) % 2 ^ F.SES_STAT_OUTST.width)
    s.ctl.Ready p g.val tag.toNat → addr.toNat % n = 0 → s.ctl.aperture addr.toNat = none →
    (s.ctl.labelMode = true → s.ctl.get F.SES_STAT_OUTST session.toNat < s.ctl.get F.SES_ACT0_LIMIT session.toNat) →
    s.ctl.dark pc = false → s.ctl.filling addr.toNat = false → data.length = n →
    (s.ctl.windowOk p false addr.toNat n = true → ∃ t, exec (.read p g tag session addr size) s = .next t ∧
      taken t 0 (job .read [] (fullBe n))) ∧
    (s.ctl.windowOk p true addr.toNat n = true → s.ctl.frozen addr.toNat = false →
      (∃ t, exec (.write p g tag session addr size data) s = .next t ∧ taken t 1 (job .write data (fullBe n))) ∧
      (n ≤ 64 → be.toNat % 2 ^ n ≠ 0 → ∃ t, exec (.writeMasked p g tag session addr size (some be) data) s = .next t ∧
        taken t 2 (job .write data be.toNat)) ∧
      (n ≤ 64 → be.toNat % 2 ^ n = 0 → s.ctl.Answers p g.val →
        ∃ t, exec (.writeMasked p g tag session addr size (some be) data) s = .next t ∧
          Ends s t counts { s.ctl.setPort p ((s.ctl.port p).answered g.val
              (.cpl tag.toNat 0 none false none session.toNat (.fresh s.ctl.labelMode) s.ctl.now)) with
            tel := Sparse.setD s.ctl.tel (2 * p.idx + 1) (Sparse.getD s.ctl.tel (2 * p.idx + 1) 0 + n) 0 }))

/-- A request whose address is not a multiple of its size, or whose range ends beyond 128 GiB, or a masked write without its enables
or of more than 64 B, completes with BAD_REQUEST: every cause that it has is shown, and it has no other effect (R114, R116, R136). -/
def Obligations.BadUserRequests : Prop :=
  ∀ (s : State) (p : Port) (g : Fin 16) (tag : BitVec 14) (session : BitVec 18) (addr : BitVec 37) (size : ReqSize)
    (data : List Byte) (be : Option (BitVec 64)),
    let causes := (if addr.toNat % size.bytes ≠ 0 then [F.PA_REQERR_ALIGN] else []) ++
      (if 2 ^ 37 < addr.toNat + size.bytes then [F.PA_REQERR_RANGE] else [])
    let masked := causes ++ if be = none ∨ 64 < size.bytes then [F.PA_REQERR_MASK_FORM] else []
    let refused := fun (t : State) (l : List Fld) =>
      Ends s t (l.map fun f => (f, p.idx)) (s.ctl.setPort p ((s.ctl.port p).answered g.val
        (.cpl tag.toNat 8 none false none session.toNat (.fresh false) s.ctl.now))) ∧ ∀ f ∈ l, t.ctl.get f p.idx = 1
    s.ctl.Ready p g.val tag.toNat → s.ctl.Answers p g.val → data.length = size.bytes →
    (causes ≠ [] →
      (∃ t, exec (.read p g tag session addr size) s = .next t ∧ refused t causes) ∧
      ∃ t, exec (.write p g tag session addr size data) s = .next t ∧ refused t causes) ∧
    (masked ≠ [] → ∃ t, exec (.writeMasked p g tag session addr size be data) s = .next t ∧ refused t masked)

/-- A fence, a config read and a config write with nothing ahead of them are performed at once and complete (R118, R119, R133):
the read carries the register's value; a write of a status register stores its writable bits (R276), one of a setup register by
a port that is not the owner is dropped with NOT_OWNER; a doorbell of the port's own ring moves `PROD` (R240). -/
def Obligations.ConfigRequests : Prop :=
  ∀ (s : State) (p : Port) (g : Fin 16) (tag : BitVec 14) (session : BitVec 18) (caddr : BitVec 24) (data : BitVec 32),
    let done := fun (status : Nat) (xt : Option Nat) (ses : Nat) =>
      s.ctl.setPort p ((s.ctl.port p).answered g.val (.cpl tag.toNat status xt false none ses (.fresh false) s.ctl.now))
    s.ctl.Ready p g.val tag.toNat → s.ctl.Answers p g.val →
    (∃ t, exec (.fence p g tag) s = .next t ∧ Ends s t [] (done 0 none 0)) ∧
    (∀ d i, findReg caddr.toNat = some (d, i) → caddr.toNat % 4 = 0 → configGap caddr.toNat 4 = false →
      inMsix caddr.toNat = false → doorbellRing caddr.toNat = none →
      (d.reg ≠ .SEM_CLAIM → isPairLow d.reg = false → isPairHigh d.reg = false →
        ∃ t, exec (.configRead p g tag session caddr) s = .next t ∧
          Ends s t [] (done 0 (some (s.ctl.regValue d i)) session.toNat)) ∧
      (d.kind = .status → isRing d.reg = false → ∃ t, exec (.configWrite p g tag session caddr data) s = .next t ∧
        Ends s t (d.parts.map fun q => (q.fld, i * q.mul + q.add)) (done 0 none session.toNat) ∧
        ∀ f j, fkey f j ≠ fkey F.FLT_STATUS_FAULTN 0 → t.ctl.get f j = (s.ctl.storeParts i data.toNat d.parts).get f j) ∧
      (d.kind = .setup → isRing d.reg = false → s.ctl.owner ≠ p.idx + 1 →
        ∃ t, exec (.configWrite p g tag session caddr data) s = .next t ∧ Ends s t [] (done 2 none session.toNat))) ∧
    (∀ r, doorbellRing caddr.toNat = some r → ringMaster r = p.idx + 1 → caddr.toNat % 4 = 0 → s.ctl.ringState r ≠ 0 →
      data.toNat % 131072 ≠ s.ctl.get F.RING_PROD_PROD r →
      ixSub (data.toNat % 131072) (s.ctl.get F.RING_PROD_PROD r) +
        ixSub (s.ctl.get F.RING_PROD_PROD r) (s.ctl.get F.RING_CONS_CONS r) ≤ s.ctl.ringSize r →
      ∃ t, exec (.doorbell p g tag session caddr data) s = .next t ∧
        Ends s t [(F.RING_PROD_PROD, r), (F.RING_STATUS_STATE, r)] (done 0 none session.toNat) ∧
        t.ctl.get F.RING_PROD_PROD r = data.toNat % 131072 ∧
        t.ctl.ringState r = if s.ctl.ringState r = 1 then 2 else s.ctl.ringState r)

/-- A config read or write in an unassigned range completes with BAD_REQUEST, and the write is dropped. -/
def Obligations.ConfigGap : Prop :=
  ∀ (s : State) (p : Port) (g : Fin 16) (tag : BitVec 14) (session : BitVec 18) (caddr : BitVec 24) (data : BitVec 32),
    let m := s.ctl.setPort p ((s.ctl.port p).answered g.val (.cpl tag.toNat 8 none false none session.toNat (.fresh false) s.ctl.now))
    s.ctl.Ready p g.val tag.toNat → s.ctl.Answers p g.val → caddr.toNat % 4 = 0 → configGap caddr.toNat 4 = true →
    (∃ t, exec (.configRead p g tag session caddr) s = .next t ∧ Ends s t [(F.PA_REQERR_CFG_BLOCK, p.idx)] m) ∧
    ∃ t, exec (.configWrite p g tag session caddr data) s = .next t ∧ Ends s t [(F.PA_REQERR_CFG_BLOCK, p.idx)] m

/-! ## Channels (chapters 5 to 8) -/

/-- The yield floor of a PC, from its queue level as `CH_STATUS.QLEVEL` shows it, and the high-water mark, of which codes below
64 act as 64 (R229). -/
def Obligations.YieldFloor : Prop :=
  ∀ (m : Ctl) (p : Nat),
    let q := m.shown F.CH_STATUS_QLEVEL p
    let hw := max 64 (m.get F.QOS_FB_HIGH_WATER)
    (q < hw → m.floor (m.pc p) = 16) ∧
    (hw ≤ q → (m.floor (m.pc p) : Int) = max 0 (15 - ((q - hw : Nat) * 16 / (256 - hw : Nat) : Nat)))

/-- Queue entry: a held job enters with its class, its arrival and its lines, is withheld once and counted, or stays held where
nothing is free (R140, R225 to R227, R230); HOLD_MAX frees it (R230); a job held by a block reset that has not entered 64 us after
the reset's start ends (R165). -/
def Obligations.QueueEntry : Prop :=
  ∀ (s : State) (pc : Fin 64) (j : Job),
    let x := s.ctl.pc pc.val
    let entered := { j with cls := s.ctl.jobClass j, arrival := s.ctl.now, todo := linesOf j.addr j.len }
    let held := fun (t : State) (l : List (Fld × Nat)) (y : Pc) => Ends s t l (s.ctl.setPc pc.val y)
    s.ctl.Settled → x.ingress = [j] →
    (x.reset = none → s.ctl.refusal pc.val j = none → s.ctl.ingressBlocked j = false → s.ctl.serialBlocked j = false →
      (∀ i, (s.ctl.pc i).curd = []) → (j.isPort = true → j.acc = .read → s.ctl.get F.CMT_CFG_EN = 0) →
      x.matesOf j = [] → (∀ q ∈ x.queue, q.old = false ∨ q.todo = []) → (∀ k, s.ctl.bgNext pc.val k = none) →
      (∀ b, s.ctl.judgeEntry x j = .enter b → ∃ t, exec (.ingressEntry pc) s = .next t ∧
        Ends s t [] { s.ctl.creditEntered j with pcs := t.ctl.pcs, qmax := t.ctl.qmax } ∧ s.ctl.OtherPcs t.ctl pc.val ∧
        t.ctl.pc pc.val = { x with ingress := [], queue := x.queue ++ [entered] } ∧
        t.ctl.qmax.1 = max s.ctl.qmax.1 (x.queue.length + 1)) ∧
      (s.ctl.judgeEntry x j = .withhold → j.withheld = none → ∃ t, exec (.ingressEntry pc) s = .next t ∧
        held t [(F.QOS_HELD_COUNT, 0)] { x with ingress := [{ j with withheld := some s.ctl.now }] } ∧
        t.ctl.get F.QOS_HELD_COUNT = min (s.ctl.get F.QOS_HELD_COUNT + 1) (2 ^ F.QOS_HELD_COUNT.width - 1)) ∧
      (s.ctl.judgeEntry x j = .full → ∃ t, exec (.ingressEntry pc) s = .next t ∧ Ends s t [] s.ctl)) ∧
    (∀ w, j.withheld = some w → j.expired = false → ∃ t, exec (.holdMaxExpiry pc) s = .next t ∧
      Ends s t [] (s.ctl.withPc (max s.ctl.now (w + s.ctl.holdMax)) pc.val { x with ingress := [{ j with expired := true }] })) ∧
    (∀ p r, x.reset ≠ none ∨ j.heldFrom ≠ none → j.who = .port p r.pos → (s.ctl.port p).reqs = [r] → r.orphan = false → r.rh = 0 → r.wd = 0 →
      s.ctl.Answers p r.g → ∃ t, exec (.heldTimeout pc) s = .next t ∧
        (let now := max s.ctl.now (j.heldFrom.getD ((x.reset.map fun b => b.since).getD 0) + 64000000)
        let y := { s.ctl.port p with reqs := [] }
        Ends s t [(F.CH_HELD_HELD, pc.val)] ((s.ctl.withPc now pc.val { x with ingress := [] }).setPort p
          (y.setGrp r.g { y.grp r.g with up := (y.grp r.g).up ++
            [.cpl r.tag 5 none false none r.session (.fresh r.admitted) r.accAt] }))) ∧
        t.ctl.get F.CH_HELD_HELD pc.val = min (s.ctl.get F.CH_HELD_HELD pc.val + 1) (2 ^ F.CH_HELD_HELD.width - 1))

/-- The selection of a slot: the entry chosen is eligible, none has a higher class, none of its class hits an open row where it
does not, and none of those arrived earlier (R141). While entries wait that a block reset left in the queue, the first of them that
is eligible runs (R163). -/
def Obligations.SlotSelection : Prop :=
  ∀ (m : Ctl) (pc t : Nat) (ok : Move → Bool),
    let cands := (m.eligible pc t [] (m.pc pc).queue).filter fun e => ok e.2
    let left : Prop := ∃ q ∈ (m.pc pc).queue, q.old = true ∧ q.todo ≠ []
    (¬ left → (m.select pc t ok = none ↔ cands = []) ∧
      ∀ j v, m.select pc t ok = some (j, v) → (j, v) ∈ cands ∧ ∀ e ∈ cands,
        m.classNow pc e.1 t ≤ m.classNow pc j t ∧
        (m.classNow pc e.1 t = m.classNow pc j t → m.rowHit pc e.1 = true → m.rowHit pc j = true) ∧
        (m.classNow pc e.1 t = m.classNow pc j t → m.rowHit pc e.1 = m.rowHit pc j → j.arrival ≤ e.1.arrival)) ∧
    (left → (m.select pc t ok = none ↔ ∀ e ∈ cands, e.1.old = false) ∧
      ∀ j v, m.select pc t ok = some (j, v) → j.old = true ∧
        ∃ before after, cands = before ++ (j, v) :: after ∧ ∀ e ∈ before, e.1.old = false)

/-- A command slot of a PC with one entry and no background work: the entry's next command issues (R142, R145, R147); a write stores the bytes of its line and no other; with nothing eligible only the slot passes. -/
def Obligations.CommandSlot : Prop :=
  ∀ (s : State) (pc : Fin 64) (j : Job),
    let x := s.ctl.pc pc.val
    let t0 := match x.slotAt with | some u => max s.ctl.now (u + s.ctl.slotPs) | none => s.ctl.now
    let m := s.ctl.withPc t0 pc.val { x with slotAt := some t0 }
    let noted := fun (c : Cmd) (b : BankIx) (y : Pc) =>
      { y with slotAt := some t0, hist := (x.hist.filter fun e => decide (t0 < e.time + 64000)) ++ [⟨c, b, t0⟩] }
    let after := fun (t : State) (l : List (Fld × Nat)) (y : Pc) => Ends s t l (s.ctl.withPc t0 pc.val y)
    let choice := m.select pc.val t0 fun _ => true
    s.ctl.Quiet → s.ctl.pcRuns pc.val = true → x.nrefs = [] → x.nrefDue = [] → x.bg = [] → x.targets = [] → s.ctl.pace = 0 →
    (choice = none → s.ctl.get F.CMT_CFG_EN = 0 → ∃ t, exec (.commandSlot pc []) s = .next t ∧
      after t [] { x with slotAt := some t0 }) ∧
    (x.queue = [j] → j.isPort = false →
      (∀ b row, choice = some (j, .act b row) → ∃ t, exec (.commandSlot pc []) s = .next t ∧
        Ends s t [(F.CH_ACTS, pc.val)]
          { s.ctl.withPc t0 pc.val (noted .act b (x.setBank b { x.bank b with row := some row, pce := {}, spec := false })) with
            acts := Sparse.put s.ctl.acts (rowIx pc.val b row) (Sparse.getD s.ctl.acts (rowIx pc.val b row) 0 + 1) }) ∧
      (∀ b, choice = some (j, .pre b) → ∃ t, exec (.commandSlot pc []) s = .next t ∧
        after t [] (noted .pre b (x.setBank b { x.bank b with row := none, pce := {}, spec := false }))) ∧
      (∀ b row, choice = some (j, .load b row) → ∃ t, exec (.commandSlot pc []) s = .next t ∧
        after t [] (noted .load b (x.setBank b { x.bank b with pce :=
          { (x.bank b).pce with loading := true, p0 := 0, p1 := 0, loadAt := t0 } }))) ∧
      (∀ line, choice = some (j, .read line false) → (∃ r i g q, j.who = .engine r i g q) →
        ∃ t, exec (.commandSlot pc []) s = .next t ∧
        (let l := s.ctl.lineAt line
        Ends s t []
          { s.ctl.withPc t0 pc.val (noted .rd l.bank { x with
              queue := [{ j with todo := j.todo.filter fun q => q != line, out := j.out ++ [line] }]
              flights := x.flights ++ [{ who := j.who, line := line, bank := l.bank, row := l.row, col := l.word
                                         raw := [s.ctl.capture s.arr pc.val l, s.ctl.capture s.arr pc.val { l with word := l.word + 1 }]
                                         merge := false, time := t0 }] }) with
            tel := t.ctl.tel })) ∧
      ∀ line, choice = some (j, .write line) → (∃ r i g q, j.who = .engine r i g q ∧ g ≠ recordGran) →
        s.ctl.rings = [] → j.acc = .write → j.todo = [line] → j.addr = 64 * line → j.len = 64 → j.data.length = 64 →
        j.be = 2 ^ 64 - 1 → j.bads = [] → x.spares = [] → s.ctl.mirAt 1 (64 * line) = none → s.ctl.mirHeld j.who = false →
        ∃ t, exec (.commandSlot pc []) s = .next t ∧
        (let l := s.ctl.lineAt line
        let base := slotAddr pc.val l.bank l.row l.word
        Leaves s t [(F.MOV_BYTES, 0)] { s.ctl with now := t0, pcs := t.ctl.pcs, tel := t.ctl.tel } ∧
        t.ctl.get F.MOV_BYTES = (s.ctl.get F.MOV_BYTES + 64) % 2 ^ 64 ∧ s.ctl.OtherPcs t.ctl pc.val ∧
        (t.ctl.pc pc.val).queue = [] ∧ ((t.ctl.pc pc.val).bank l.bank).pce.st = .dirty ∧
        ∀ a, t.arr.byte a = if base ≤ a ∧ a < base + 64 then j.data.getD (a - base) 0 else s.arr.byte a))

/-- What returns to a sequencer: a column read answers its port with its words (R192); old contents carry into the page code
(R145, R149, R191); a page-code column takes the updates that waited (R147); a speculative line fills its entry only where all
of it is clean (R172, R182); a rebuilt word is delivered, counted and noted (R193, R197). -/
def Obligations.Returns : Prop :=
  ∀ (s : State) (pc : Fin 64),
    let x := s.ctl.pc pc.val
    let only := fun (t : State) (now : Nat) (l : List (Fld × Nat)) (y : Pc) => Ends s t l (s.ctl.withPc now pc.val y)
    s.ctl.Settled →
    (∀ f j p r d0 d1, x.flights = [f] → x.queue = [j] → x.rebuilds = [] → x.spares = [] → j.who = f.who → j.who = .port p r.pos →
      (s.ctl.port p).reqs = [r] → r.orphan = false → r.op = 0 → r.len = 64 → r.rh = 0 → r.wd = 0 → s.ctl.Answers p r.g →
      j.acc = .read → j.todo = [] → j.out = [f.line] → j.got = [] → j.bads = [] → j.corr = false → j.addr = 64 * f.line →
      j.len = 64 → f.merge = false → f.raw.map Got.ofRaw = [.clean d0, .clean d1] →
      ∃ t, exec (.readData pc) s = .next t ∧
        (let y := { s.ctl.port p with reqs := [] }
        Ends s t [] { (s.ctl.withPc (max s.ctl.now (f.time + 14000)) pc.val { x with flights := [], queue := [] }).setPort p
          (y.setGrp r.g { y.grp r.g with up := (y.grp r.g).up ++
            [.cpl r.tag 0 none false (some (leBytes 32 d0 ++ leBytes 32 d1)) r.session (.fresh r.admitted) r.accAt] }) with
          tel := Sparse.setD s.ctl.tel (2 * p.idx) (Sparse.getD s.ctl.tel (2 * p.idx) 0 + 64) 0 })) ∧
    (∀ b e d0 d1, x.banks = [(b, { x.bank b with rets := [e] })] → (x.bank b).row = some e.row → (x.bank b).pce.st = .dirty →
      (x.bank b).pce.err = [] → e.en = [true, true] → e.old.map Got.ofRaw = [.clean d0, .clean d1] →
      ∃ t, exec (.exchangeReturn pc []) s = .next t ∧
        (let k := x.bank b
        let u0 := pageUpdate e.col (d0 ^^^ e.new.getD 0 0)
        let u1 := pageUpdate (e.col + 1) (d1 ^^^ e.new.getD 1 0)
        only t (max s.ctl.now (e.time + 4000)) [] (x.setBank b { k with rets := [], pce := { k.pce with
          p0 := k.pce.p0 ^^^ u0.1 ^^^ u1.1, p1 := k.pce.p1 ^^^ u0.2 ^^^ u1.2 } }))) ∧
    (∀ b k row, x.banks = [(b, k)] → k.pce.loading = true → k.pce.err = [] → k.row = some row →
      ∃ t, exec (.pageCodeLoadReturn pc) s = .next t ∧
        only t (max s.ctl.now (k.pce.loadAt + 14000)) [] (x.setBank b { k with pce := { k.pce with
          loading := false, st := if k.pce.st = .dirty then .dirty else .clean
          p0 := (s.arr.raw pc.val b row 34).data ^^^ k.pce.p0, p1 := (s.arr.raw pc.val b row 35).data ^^^ k.pce.p1 } })) ∧
    (∀ c ds, x.curd = [c] → c.st = .issued → c.raw.map Got.ofRaw = ds.map Got.clean →
      ∃ t, exec (.speculativeDataArrival pc) s = .next t ∧
        only t (max s.ctl.now (c.time + 14000)) [] { x with curd := [{ c with st := .filled, words := ds, raw := [] }] }) ∧
    (∀ c, x.curd = [c] → c.st = .issued → (∃ r ∈ c.raw, ∀ d, Got.ofRaw r ≠ .clean d) →
      ∃ t, exec (.speculativeDataArrival pc) s = .next t ∧ only t (max s.ctl.now (c.time + 14000)) [(F.CMT_DISCARD_COUNT, 0)] { x with curd := [] }) ∧
    ∀ r j d, x.rebuilds = [r] → x.queue = [j] → r.who = j.who → (∃ a b g q, j.who = .engine a b g q) → j.acc = .read →
      j.todo ≠ [] → x.unrep = [] → x.catcher = [] → x.spares = [] → x.suspect = [] → x.banks = [] → r.merge = false →
      (s.ctl.die (r.loc.bank / 16)).st = .quiet → r.loc.word % 2 = 0 → j.addr = 64 * r.line → j.len = 64 → j.out = [r.line] →
      s.ctl.pageRebuild s.arr pc.val r.loc.bank r.loc.row r.loc.word = some d →
      ∃ t, exec (.pageRebuild pc []) s = .next t ∧
        Ends s t [(F.CH_CODE_REBUILT, pc.val)] { s.ctl.setPc pc.val { x with
          rebuilds := [], catcher := [{ loc := r.loc, count := 1, pending := true }]
          queue := [{ j with got := Sparse.put j.got (2 * r.line) d, corr := true, out := [] }] } with
          tel := Sparse.setD s.ctl.tel 6 (Sparse.getD s.ctl.tel 6 0 + 960) 0 } ∧
        t.ctl.get F.CH_CODE_REBUILT pc.val =
          min (s.ctl.get F.CH_CODE_REBUILT pc.val + 1) (2 ^ F.CH_CODE_REBUILT.width - 1)

/-- Disturbance and failing bundles: a row that reaches the threshold is counted and waits for a neighbour refresh, in an eclipse's
transit to come (R156, R157); at twice the threshold, on a hot die or with 64 waiting it is due at once, which is counted and
reported (R158, R159); the refresh's completion clears the row's count (R157); an IR-drop step is reported (R162); a TSV failure
takes a spare, and where a lane's group has none the PC goes narrow (R15, R16). -/
def Obligations.Disturbance : Prop :=
  ∀ (s : State) (pc : Fin 64) (die : Fin 16) (group bank : Fin 4) (row : Fin 8272),
    let x := s.ctl.pc pc.val
    let b := die.val * 16 + (group.val * 4 + bank.val)
    let q : Row := ⟨b, row.val⟩
    let k := rowIx pc.val b row.val
    let limit := 512 * (s.ctl.get F.CH_CFG_ACT_THRESH pc.val + 1)
    let n := Sparse.getD s.ctl.acts k 0
    let d := s.ctl.die die.val
    let now : Prop := 2 * limit ≤ n ∨ s.ctl.hotDie die.val = true ∨ 64 ≤ x.nrefs.length
    let idle : Prop := (∀ w ∈ x.nrefs, w.row ≠ q) ∧ q ∉ x.nrefDue ∧ (x.bank b).nref ≠ some row.val
    let alerts := min (s.ctl.get F.CH_ACT_ALERTS pc.val + 1) (2 ^ F.CH_ACT_ALERTS.width - 1)
    s.ctl.Quiet → s.ctl.pcLive pc.val = true →
    (n < limit → ∃ t, exec (.activationAlert pc die group bank row) s = .next t ∧ Ends s t [] s.ctl) ∧
    (limit ≤ n → idle → ¬ now → ∃ t, exec (.activationAlert pc die group bank row) s = .next t ∧
      Ends s t [(F.CH_ACT_ALERTS, pc.val)] (s.ctl.setPc pc.val
        { x with nrefs := x.nrefs ++ [{ row := q, ecl := if d.st = .cut then none else d.ecl }] }) ∧
      t.ctl.get F.CH_ACT_ALERTS pc.val = alerts) ∧
    (limit ≤ n → idle → now → s.ctl.Calm 0x103 → ∃ t, exec (.activationAlert pc die group bank row) s = .next t ∧
      EndsRaised s t 0x103 [(F.CH_ACT_ALERTS, pc.val), (F.CH_ACT_IMMEDIATE, pc.val)]
        (s.ctl.setPc pc.val { x with nrefDue := x.nrefDue ++ [q] }) ∧
      t.ctl.get F.CH_ACT_ALERTS pc.val = alerts ∧ t.ctl.get F.CH_ACT_IMMEDIATE pc.val =
        min (s.ctl.get F.CH_ACT_IMMEDIATE pc.val + 1) (2 ^ F.CH_ACT_IMMEDIATE.width - 1)) ∧
    ((x.bank b).nref = some row.val → ∃ t, exec (.nrefComplete pc die ⟨group.val * 4 + bank.val, by omega⟩ row) s = .next t ∧
      Ends s t [] { s.ctl.withPc (max s.ctl.now ((x.bank b).nrefAt + 60000)) pc.val
        (x.setBank b { x.bank b with nref := none, nrefAt := 0 }) with acts := Sparse.del s.ctl.acts k }) ∧
    (s.ctl.get F.CH_STATUS_IRDROP pc.val < 3 → s.ctl.Calm 0x102 → ∃ t, exec (.irDropStep pc) s = .next t ∧
      EndsRaised s t 0x102 [(F.CH_STATUS_IRDROP, pc.val)] s.ctl ∧
      t.ctl.get F.CH_STATUS_IRDROP pc.val = s.ctl.get F.CH_STATUS_IRDROP pc.val + 1) ∧
    (∀ (lane : Fin 136) sp, x.tsv.spareLane (groupOf lane) = some sp → ∃ t, exec (.tsvFault pc (.lane lane)) s = .next t ∧
      Ends s t [] (s.ctl.setPc pc.val { x with tsv := { x.tsv with lanes := x.tsv.lanes ++ [(lane.val, sp)] } })) ∧
    (∀ (lane : Fin 136), x.tsv.spareLane (groupOf lane) = none → x.tsv.badHalf = [] → x.reset = none → s.ctl.Calm 0x100 →
      ∃ t, exec (.tsvFault pc (.lane lane)) s = .next t ∧
        EndsRaised s t 0x100 [(F.CH_STATUS_MODE, pc.val), (F.CH_STATUS_HALF, pc.val)]
          (s.ctl.setPc pc.val { x with tsv := { x.tsv with badHalf := [groupOf lane / 2] } }) ∧
        t.ctl.get F.CH_STATUS_MODE pc.val = 1 ∧ t.ctl.get F.CH_STATUS_HALF pc.val = 1 - groupOf lane / 2)

/-- A block reset of a PC (R163 to R166): the owner's write of `CH_CTRL.RESET` starts it, another master's is dropped; its run
drains the banks, neighbour refreshes that were under way wait again, and where retraining finds nothing the PC returns to its mode
and admits again, tXS later, with what was queued first in line. -/
def Obligations.BlockResets : Prop :=
  ∀ (s : State) (pc : Fin 64) (x : Master) (value : BitVec 32),
    let y := s.ctl.pc pc.val
    s.ctl.Quiet → s.ctl.power = .run →
    (s.ctl.owner = x.code → value.getLsbD 0 = true → s.ctl.dark pc.val = false → y.reset = none → y.curd = [] → y.targets = [] →
      s.ctl.slices = [] → ∃ t, exec (.chCtrlReset x pc value) s = .next t ∧
        Ends s t [(F.CH_RESET_INFO_CAUSE, pc.val), (F.CH_RESET_INFO_COUNT, pc.val), (F.CH_STATUS_MODE, pc.val),
            (F.CMT_CANCEL_COUNT, 0)]
          (s.ctl.setPc pc.val { y with reset := some { since := s.ctl.now, codePath := false
                                                       mode := s.ctl.get F.CH_STATUS_MODE pc.val } }) ∧
        t.ctl.get F.CH_RESET_INFO_CAUSE pc.val = 1 ∧ t.ctl.get F.CH_STATUS_MODE pc.val = 3 ∧
        t.ctl.get F.CH_RESET_INFO_COUNT pc.val =
          min (s.ctl.get F.CH_RESET_INFO_COUNT pc.val + 1) (2 ^ F.CH_RESET_INFO_COUNT.width - 1)) ∧
    (s.ctl.owner ≠ x.code → x ≠ .svc → ∃ t, exec (.chCtrlReset x pc value) s = .next t ∧ Ends s t [] s.ctl) ∧
    ∀ r, y.reset = some r → y.flights = [] → (∀ e ∈ y.banks, e.2.pce.loading = false ∧ e.2.rets = [] ∧ e.2.pce.st ≠ .dirty) →
      y.suspect.length ≤ 32 → ∃ t, exec (.pcBlockReset pc []) s = .next t ∧
        (let z := (y.banks.filterMap fun e => e.2.nref.map fun n => ({ bank := e.1, row := n } : Row)).foldl Pc.requeueNref y
        Ends s t [(F.CH_STATUS_MODE, pc.val)] (s.ctl.setPc pc.val { z with
          hist := [], slotAt := some (s.ctl.now + 160000 - s.ctl.slotPs), banks := [], reset := none
          bg := y.bg.map fun g => { g with first := none, turns := 0 }
          queue := y.queue.map fun j => { j with old := (match j.who with | .bg _ _ _ _ => false | _ => true) }
          ingress := y.ingress.map fun j => { j with heldFrom := some (j.heldFrom.getD r.since) } })) ∧
        t.ctl.get F.CH_STATUS_MODE pc.val = r.mode % 4

/-- Repair and scrubbing, for operations that have had their column slots: a read-correct-write that verifies clean frees its record
and stores the word (R198); a row copy puts the row into service on a spare (R441); a scrub of a row whose words and page code are
sound changes nothing but its place in the walk (R207). Rows come due I orbits apart, and a new pass starts again once the last has
had its orbits (R206). -/
def Obligations.RepairScrub : Prop :=
  (∀ (s : State) (pc : Fin 64) (g : Bg) (js : List Job),
    let x := s.ctl.pc pc.val
    s.ctl.Quiet → s.ctl.pcRuns pc.val = true → g.kind.slots ≤ g.turns → (∀ j ∈ js, g.holds j = true) →
    (∀ c d, g.kind = .rcw → x = { catcher := [c], bg := [g], queue := js } → c.loc = ⟨g.bank, g.row, g.word⟩ → g.word < 32 →
      (∀ i, (s.ctl.pc i).curd = []) →
      s.ctl.capture s.arr pc.val c.loc = { data := d, err := 1#272 } → ∃ t, exec (.readCorrectWrite pc [] []) s = .next t ∧
        Leaves s t [(F.CH_REPEAT_RCW, pc.val)] { s.ctl.setPc pc.val {} with tel := t.ctl.tel } ∧
        t.ctl.get F.CH_REPEAT_RCW pc.val = min (s.ctl.get F.CH_REPEAT_RCW pc.val + 1) (2 ^ F.CH_REPEAT_RCW.width - 1) ∧
        t.arr.raw pc.val g.bank g.row g.word = { data := d } ∧
        (∀ a, t.arr.byte a = s.arr.byte a) ∧
        ∀ w, w ≠ wordIx pc.val g.bank g.row g.word → Sparse.getD t.arr.errs w 0 = Sparse.getD s.arr.errs w 0) ∧
    (∀ w sp, g.kind = .copy → x = { copies := [⟨g.bank, g.row, w⟩], bg := [g], queue := js } → g.bank < 256 → g.row < 8192 →
      s.ctl.freeRow pc.val g.bank = some sp → s.ctl.rmap = [] → s.arr.marks = [] → s.arr.errs = [] →
      ∃ t, exec (.rowSpareCopy pc []) s = .next t ∧
        (let k := rowIx pc.val g.bank (8192 + sp)
        Leaves s t [(F.CH_ACTS, pc.val)] { s.ctl.setPc pc.val { hist := (t.ctl.pc pc.val).hist } with
          tel := t.ctl.tel, rmap := [{ pc := pc.val, bank := g.bank, row := g.row, spare := sp }]
          acts := Sparse.put s.ctl.acts k (Sparse.getD s.ctl.acts k 0 + 1) }) ∧
        s.arr.SameBut t.arr [(slotAddr pc.val g.bank (8192 + sp) 0, 1152)] ∧
        ∀ w < 32, (t.arr.raw pc.val g.bank (8192 + sp) w).data = (s.arr.raw pc.val g.bank g.row w).data) ∧
    (g.kind = .scrub → x = { bg := [g], queue := js } → s.ctl.rings = [] →
      (∀ w < 36, s.arr.raw pc.val g.bank g.row w = { data := 0 }) →
      ∃ t, exec (.scrubRow pc []) s = .next t ∧
        Ends s t [] { s.ctl.setPc pc.val { scrubbed := if g.walk then 1 else 0 } with tel := t.ctl.tel })) ∧
  (∀ s : State,
    let i := s.ctl.get F.REP_SCRUB_INTERVAL_I
    let n := s.ctl.get F.REP_SCRUB_POS_STEP
    s.ctl.Quiet → s.ctl.scrubRuns = true →
    (s.ctl.scrubBnd + 2117632 * i ≤ s.ctl.bnd → ∃ t, exec .scrubPassStart s = .next t ∧
      Ends s t [(F.REP_SCRUB_POS_STEP, 0), (F.REP_SCRUB_PASSES_COUNT, 0)] { s.ctl with pcs := t.ctl.pcs, scrubBnd := s.ctl.bnd } ∧
      (∀ p, t.ctl.pc p = { s.ctl.pc p with
        scrubbed := 0, overRep := [], catcher := (s.ctl.pc p).catcher.map fun c => { c with count := 0 } }) ∧
      t.ctl.get F.REP_SCRUB_POS_STEP = 0 ∧ t.ctl.get F.REP_SCRUB_PASSES_COUNT =
        min (s.ctl.get F.REP_SCRUB_PASSES_COUNT + 1) (2 ^ F.REP_SCRUB_PASSES_COUNT.width - 1)) ∧
    (s.ctl.bnd < s.ctl.scrubBnd + 2117632 * i → ∃ t, exec .scrubPassStart s = .next t ∧ Ends s t [] s.ctl) ∧
    (n + 1 < 2117632 → s.ctl.scrubBnd + (n + 1) * i ≤ s.ctl.bnd → ∃ t, exec .scrubRowStart s = .next t ∧
      Ends s t [(F.REP_SCRUB_POS_STEP, 0)] s.ctl ∧ t.ctl.get F.REP_SCRUB_POS_STEP = n + 1) ∧
    (2117632 ≤ n + 1 ∨ s.ctl.bnd < s.ctl.scrubBnd + (n + 1) * i → ∃ t, exec .scrubRowStart s = .next t ∧ Ends s t [] s.ctl))

/-! ## Rings and the mover (chapter 9) -/

/-- A turn of a data opcode enters one granule within one 64 B line of each range (R247): a COPY, PRESS or REMOTE_WRITE reads it
first, a FILL writes its pattern (R256), a GATHER or SCATTER moves its element by the index read (R259), or reads the next line
of its index table; a SNAPSHOT writes the registers it reads now (R265). Nothing is stored yet. -/
def Obligations.DataTurns : Prop :=
  ∀ (s : State) (r : Fin 160) (i : BitVec 17) (d : Prog) (ix : Nat),
    let o := d.next
    let e := d.elem
    let entered := fun (t : State) (g : Gran) (next part : Nat) (src : Bool) (acc : Access) (addr len : Nat) (data : List Byte)
        (caps : Sparse Nat) (q : Prog) =>
      let pc := (s.ctl.place addr).pc
      Ends s t [] { (s.ctl.withProg r.val { q with grans := d.grans ++ [g], ids := d.ids + 1, next := next, part := part }).setPc pc
        { s.ctl.pc pc with ingress := (s.ctl.pc pc).ingress ++
            [{ who := .engine r.val d.idx d.ids src, acc := acc, addr := addr, len := len, data := data, be := 2 ^ len - 1
               label := d.session, since := s.ctl.now }] } with caps := caps }
    let read := fun (t : State) (len : Nat) => entered t ⟨d.ids, o, len, d.dst + o, 0⟩ (o + len) 0 true .read (d.src + o) len []
      s.ctl.caps d
    let works := fun (op : Nat) => s.ctl.Works r.val i.toNat op d ∧ d.stop = none ∧ o < d.length
    let two := min (d.length - o) (min (64 - (d.dst + o) % 64) (64 - (d.src + o) % 64))
    let one := min (d.length - o) (64 - (d.dst + o) % 64)
    (works 1 → ∃ t, exec (.copy r i) s = .next t ∧ read t two) ∧
    (works 3 → ∃ t, exec (.press r i) s = .next t ∧ read t two) ∧
    (works 7 → d.bufs = [] → s.ctl.plUp (d.arg16 % 2) = true → ∃ t, exec (.remoteWrite r i) s = .next t ∧ read t two) ∧
    (works 2 → ∃ t, exec (.fill r i) s = .next t ∧
      entered t ⟨d.ids, o, one, d.dst + o, 0⟩ (o + one) 0 false .write (d.dst + o) one
        ((List.range one).map fun k => d.bytes.getD (48 + (o + k) % 8) 0) s.ctl.caps d) ∧
    (works 4 → Sparse.find d.idxs o = some ix → d.src + ix * e + e ≤ 2 ^ 37 → s.ctl.windowBad r.val false (d.src + ix * e) e = false →
      ∃ t, exec (.gather r i) s = .next t ∧
        entered t ⟨d.ids, o, min e 64, d.dst + o * e + d.part, d.part⟩ (if e ≤ d.part + min e 64 then o + 1 else o)
          (if e ≤ d.part + min e 64 then 0 else d.part + min e 64) true .read (d.src + ix * e + d.part) (min e 64) [] s.ctl.caps d) ∧
    (works 5 → Sparse.find d.idxs o = some ix → d.dst + ix * e + e ≤ 2 ^ 37 → s.ctl.windowBad r.val true (d.dst + ix * e) e = false →
      ∃ t, exec (.scatter r i) s = .next t ∧
        entered t ⟨d.ids, o, min e 64, d.dst + ix * e + d.part, d.part⟩ (if e ≤ d.part + min e 64 then o + 1 else o)
          (if e ≤ d.part + min e 64 then 0 else d.part + min e 64) true .read (d.src + o * e + d.part) (min e 64) [] s.ctl.caps d) ∧
    (works 4 → Sparse.find d.idxs o = none → d.grans = [] → ∃ t, exec (.gather r i) s = .next t ∧
      (let addr := d.argx6 + 4 * o
      let len := min (4 * (d.length - o)) (64 - addr % 64)
      entered t ⟨d.ids, o, 0, addr, 0⟩ o d.part true .read addr len [] s.ctl.caps d)) ∧
    (works 0x14 → (∀ k < one / 4, ∀ a b, findReg (d.src + o + 4 * k) = some (a, b) → a.reg ≠ .SEM_CLAIM ∧ isPairLow a.reg = false ∧
        isPairHigh a.reg = false ∧ a.parts.all (fun p => !isTelId p.fld.id) = true) →
      (d.src + o) % 4 = 0 → configGap (d.src + o) one = false → inMsix (d.src + o) = false → inMsix (d.src + o + one) = false →
      doorbellRing (d.src + o) = none → doorbellRing (d.src + o + one) = none → d.highs = [] →
      ∃ t, exec (.snapshot r i) s = .next t ∧
        entered t ⟨d.ids, o, one, d.dst + o, 0⟩ (o + one) 0 false .write (d.dst + o) one
          ((List.range (one / 4)).flatMap fun k => leBytes 4 (match findReg (d.src + o + 4 * k) with
            | some (a, b) => s.ctl.regValue a b
            | none => 0)) (Sparse.del s.ctl.caps 0) d)

/-- A turn of a REMOTE_READ asks the peer for the next granule with a free TAG (R260, R319); a peer link that is not UP stops it
REMOTE_FAIL (R261). The opcodes that move no data: NOP and a FENCE with nothing before it complete (R256, R262); WAIT_ORBIT
counts boundaries and completes when they have passed (R262); COMMIT is the owner's and is taken, and halts another master's
ring (R264, R280); SLEEP asks for the entry (R264, R379, R386). -/
def Obligations.ControlOpcodes : Prop :=
  (∀ (s : State) (r : Fin 160) (i : BitVec 17) (d : Prog) (tag : Nat),
    let o := d.next
    let l := d.arg16 % 2
    let len := min (d.length - o) (min (64 - (d.dst + o) % 64) (64 - (d.src + o) % 64))
    let x := s.ctl.lnk l
    s.ctl.Works r.val i.toNat 6 d → d.stop = none → o < d.length →
    (s.ctl.plUp l = true → s.ctl.freeTag l = some tag → ∃ t, exec (.remoteRead r i) s = .next t ∧
      Ends s t [] ((s.ctl.withProg r.val { d with grans := d.grans ++ [⟨d.ids, o, len, d.dst + o, 0⟩], ids := d.ids + 1
                                                  next := o + len, part := 0 }).modLnk l fun _ =>
        { x with ops := x.ops ++ [{ tag := tag, kind := .rdDesc r.val d.idx d.ids, addr := d.src + o, len := len, sent := s.ctl.bnd }]
                 tx := x.tx ++ [.ctl (1 + tag * 2 ^ 16 + (if len = 32 then 0 else 1) * 2 ^ 24 + (d.src + o) * 2 ^ 26)] })) ∧
    (s.ctl.plUp l = false → d.grans = [] → s.ctl.ringState r.val = rsRunning → s.ctl.NoFetch r.val →
      ∃ t, exec (.remoteRead r i) s = .next t ∧
        Halts s t r.val 0x15 [] (s.ctl.withProg r.val ({ d with stop := some { status := 0x15 }, bufs := [] }.done 0x15 0)))) ∧
  (∀ (s : State) (r : Fin 160) (i : BitVec 17) (d : Prog),
    let ended := fun (t : State) => Ends s t [] (s.ctl.withProg r.val (d.done 0 0))
    (s.ctl.Works r.val i.toNat 0 d → ∃ t, exec (.nop r i) s = .next t ∧ ended t) ∧
    (s.ctl.Works r.val i.toNat 8 d → d.others = [] → ∃ t, exec (.ringFence r i) s = .next t ∧ ended t) ∧
    (s.ctl.Works r.val i.toNat 9 d → d.armed = false → d.arg32 ≠ 0 → ∃ t, exec (.waitOrbit r i) s = .next t ∧
      Ends s t [] (s.ctl.withProg r.val { d with armed := true, count := d.arg32 })) ∧
    (s.ctl.Works r.val i.toNat 9 d → d.armed = true → d.count = 0 → s.ctl.numValid = true →
      ∃ t, exec (.waitOrbitExpiry r i) s = .next t ∧ ended t) ∧
    (s.ctl.Works r.val i.toNat 0x18 d → d.armed = false → s.ctl.owner = ringMaster r.val → s.ctl.commit = none → d.argx6 = 0 →
      ∃ t, exec (.commit r i) s = .next t ∧
        Ends s t [(F.CFG_COMMIT_STATUS_BY, 0), (F.CFG_COMMIT_STATUS_PATH, 0), (F.CFG_COMMIT_STATUS_ARMED, 0)]
          { s.ctl.withProg r.val { d with armed := true } with
            commit := some { orbit := 0, judged := true, due := true, desc := some (r.val, d.idx), by_ := ringMaster r.val } } ∧
        t.ctl.get F.CFG_COMMIT_STATUS_ARMED = 1 ∧ t.ctl.get F.CFG_COMMIT_STATUS_PATH = 1 ∧
        t.ctl.get F.CFG_COMMIT_STATUS_BY = ringMaster r.val) ∧
    (s.ctl.Works r.val i.toNat 0x18 d → d.armed = false → s.ctl.owner ≠ ringMaster r.val → s.ctl.ringState r.val = rsRunning →
      s.ctl.NoFetch r.val → ∃ t, exec (.commit r i) s = .next t ∧
        Halts s t r.val 0x17 [] (s.ctl.withProg r.val (d.done 0x17 0))) ∧
    (s.ctl.Works r.val i.toNat 0x19 d → d.armed = false → s.ctl.entry = none →
      (d.arg16 % 4 = 1 → ∃ t, exec (.sleepHibernate r i) s = .next t ∧
        Ends s t [] { s.ctl.withProg r.val { d with armed := true } with
          entry := some { target := 2, desc := some (r.val, d.idx), keep := 0xFFFF } }) ∧
      (d.arg16 % 4 = 2 → ∃ t, exec (.sleepCrescent r i) s = .next t ∧
        Ends s t [] { s.ctl.withProg r.val { d with armed := true } with
          entry := some { target := 3, desc := some (r.val, d.idx), keep := d.arg32 % 65536 ||| 1 } })))

/-- Fetch and start (R139, R239, R241, R244 to R246): the slots of a host ring are read through the queue of their PC, those of a
service ring from its host's memory; a fetched slot that passes the checks is the ring's next descriptor, and NEXT moves on; one
that fails them halts the ring; the descriptor that may start takes an engine where its opcode holds one, and one that fails a
start check ends with that status; a service ring's fetch that meets the completion timeout halts the ring with FETCH_FAIL, and is
notified (R255, R343). -/
def Obligations.DescriptorStart : Prop :=
  ∀ (s : State) (r : Fin 160) (bytes : List Byte) (ix : Nat) (d : Prog),
    let c := fetchCheck bytes
    let next := fun (t : State) => t.ctl.get F.RING_NEXT_NEXT r.val = (ix + 1) % 131072
    s.ctl.Quiet → s.ctl.NoFetch r.val →
    (∀ n, 128 ≤ r.val → s.ctl.ring r.val = {} → s.ctl.fetchable r.val = (s.ctl.get F.RING_NEXT_NEXT r.val, n + 1) →
      s.ctl.Calm 0x0E0 → ∃ t, exec (.completionTimeout r) s = .next t ∧
        EndsRaised s t 0x0E0 ((F.RING_STATUS_FETCH_FAIL, r.val) :: haltFlds r.val)
          { s.ctl with svc := t.ctl.svc, rings := t.ctl.rings, pcs := t.ctl.pcs } ∧ s.ctl.OtherRings t.ctl r.val ∧
        t.ctl.ring r.val = {} ∧ (∀ p, t.ctl.pc p = s.ctl.pc p) ∧
        t.ctl.HaltedBy r.val 0x1D ∧ t.ctl.get F.RING_STATUS_FETCH_FAIL r.val = 1 ∧
        (t.ctl.out = [.msix (s.ctl.get F.RING_CFG_VECTOR r.val)] ∨
          t.ctl.out = [] ∧ t.ctl.svc = { s.ctl.svc with pba := s.ctl.svc.pba ||| 2 ^ s.ctl.get F.RING_CFG_VECTOR r.val })) ∧
    (s.ctl.ring r.val = {} → s.ctl.fetchable r.val = (ix, 1) →
      (r.val < 128 → s.ctl.windowBad r.val false (s.ctl.slotOf r.val ix) 64 = false →
        ∃ t, exec (.descriptorFetch r [] .abort) s = .next t ∧
          (let addr := s.ctl.slotOf r.val ix
          let pc := (s.ctl.place addr).pc
          let j : Job := { who := .engine r.val ix fetchGran true, acc := .read, addr := addr, len := 64, since := s.ctl.now }
          Ends s t [] ((s.ctl.setRing r.val { pre := [{ idx := ix }] }).setPc pc
            { s.ctl.pc pc with ingress := (s.ctl.pc pc).ingress ++ [j] }))) ∧
      (128 ≤ r.val → bytes.length = 64 → c = 0 → ∃ t, exec (.descriptorFetch r [] (.data bytes)) s = .next t ∧
        Ends s t [(F.RING_NEXT_NEXT, r.val)] (s.ctl.withProg r.val { idx := ix, bytes := bytes }) ∧ next t ∧
        t.ctl.out = [.hostRead (s.ctl.slotOf r.val ix) 64])) ∧
    (s.ctl.ring r.val = { pre := [{ idx := ix, bytes := some bytes }] } → s.ctl.ringTakes r.val = true →
      s.ctl.get F.RING_PROD_PROD r.val = (ix + 1) % 131072 →
      (c = 0 → ∃ t, exec (.descriptorFetch r [] .abort) s = .next t ∧
        Ends s t [(F.RING_NEXT_NEXT, r.val)] (s.ctl.withProg r.val { idx := ix, bytes := bytes }) ∧ next t) ∧
      (0x10 ≤ c → ∃ t, exec (.descriptorFetch r [] .abort) s = .next t ∧
        Halts s t r.val c [(F.RING_NEXT_NEXT, r.val)]
          (s.ctl.withProg r.val (({ idx := ix, bytes := bytes } : Prog).done c 0)) ∧ next t)) ∧
    (s.ctl.ring r.val = { prog := [d] } → d.phase = .waiting → s.ctl.startable r.val = some d → d.op ≠ 8 → d.op ≠ 0x14 →
      (opEngine d.op = true → s.ctl.engines = [] ∧ s.ctl.deadEngines = [] ∧ r.val ∈ s.ctl.engineLine.take 32) →
      (d.op = 6 ∨ d.op = 7 → s.ctl.plUp (d.arg16 % 2) = true) →
      (let held := if opEngine d.op then [(0, (r.val, d.idx))] else s.ctl.engines
      let rr := if opEngine d.op then r.val else s.ctl.rrRing
      let after := fun (d : Prog) => { s.ctl.withProg r.val d with engines := held, rrRing := rr }
      let check := s.ctl.startCheck r.val d
      (check = 0 → ∃ t, exec (.descriptorStart r) s = .next t ∧ Ends s t [] (after { d with phase := .running })) ∧
      (check = 1 → ∃ t, exec (.descriptorStart r) s = .next t ∧ Ends s t [] (after (d.done 1 0))) ∧
      (0x10 ≤ check → ∃ t, exec (.descriptorStart r) s = .next t ∧ Halts s t r.val check [] (after (d.done check 0)))))

/-- The end of a descriptor (R250, R254, R255). The record of a host ring's descriptor goes to the queue of its slot's PC, as one
write of 32 B (R139, R212). That of a service ring's goes to its host; then the descriptor leaves the ring, CONS passes it, and a
ring with nothing left goes IDLE. -/
def Obligations.DescriptorEnd : Prop :=
  ∀ (s : State) (r : Fin 160) (i : BitVec 17) (d : Prog),
    let addr := s.ctl.slotOf r.val d.idx + 32
    let pc := (s.ctl.place addr).pc
    let who : Who := .engine r.val d.idx recordGran false
    s.ctl.Quiet → s.ctl.moverRuns = true → s.ctl.ring r.val = { prog := [d] } → d.idx = i.toNat → d.phase = .ended →
    (128 ≤ r.val → s.ctl.ringState r.val = rsRunning → s.ctl.get F.RING_CONS_CONS r.val = d.idx → bit d.flags 0 = false →
      s.ctl.get F.SVC_STATUS_BME = 1 → ∃ t, exec (.descriptorComplete r i []) s = .next t ∧
        Ends s t [(F.RING_CONS_CONS, r.val), (F.RING_STATUS_STATE, r.val), (F.MOV_DESC, 0)]
          { s.ctl.setRing r.val {} with engines := s.ctl.engines.filter fun e => e.2 != (r.val, d.idx) } ∧
        t.ctl.get F.RING_CONS_CONS r.val = (d.idx + 1) % 131072 ∧
        t.ctl.get F.MOV_DESC = (s.ctl.get F.MOV_DESC + 1) % 2 ^ 64 ∧
        t.ctl.ringState r.val = (if (d.idx + 1) % 131072 = s.ctl.get F.RING_PROD_PROD r.val then rsIdle else rsRunning) ∧
        t.ctl.out = [.hostWrite addr (recordBytes s.ctl d)]) ∧
    (r.val < 128 → s.ctl.recordRefusal r.val addr = none → s.ctl.underWay who = false →
      ∃ t, exec (.descriptorComplete r i []) s = .next t ∧
        Ends s t [] (s.ctl.setPc pc { s.ctl.pc pc with ingress := (s.ctl.pc pc).ingress ++
          [{ who := who, acc := .write, addr := addr, len := 32, data := recordBytes s.ctl d, be := 2 ^ 32 - 1
             since := s.ctl.now }] }))

/-- The ring registers: a write of a quiet ring's setup by its master restarts the ring, IDLE where its size is not 0 and it is
well placed (R236, R237); RESUME of a halted ring with nothing in progress sets it going again (R255); another master's write is
dropped (R237). -/
def Obligations.RingRegisters : Prop :=
  ∀ (s : State) (x : Master) (r : Fin 160) (value : BitVec 32),
    let all := [(F.RING_PROD_PROD, r.val), (F.RING_NEXT_NEXT, r.val), (F.RING_CONS_CONS, r.val), (F.RING_STATUS_STATE, r.val),
      (F.RING_STATUS_CAUSE, r.val), (F.RING_STATUS_FETCH_FAIL, r.val), (F.RING_STATUS_RECORD_FAIL, r.val)]
    let cfg := [(F.RING_CFG_SIZE, r.val), (F.RING_CFG_DEPTH, r.val), (F.RING_CFG_SERIAL, r.val), (F.RING_CFG_VECTOR, r.val)]
    let cleared := fun (t : State) => t.ctl.get F.RING_STATUS_CAUSE r.val = 0 ∧ t.ctl.get F.RING_STATUS_FETCH_FAIL r.val = 0 ∧
      t.ctl.get F.RING_STATUS_RECORD_FAIL r.val = 0
    s.ctl.Quiet → s.ctl.power = .run →
    (ringOwner r.val = x → s.ctl.ringQuiet r.val = true →
      ∃ t, exec (.ringSetupWrite x (BitVec.ofNat 24 (D.RING_CFG.addr r.val)) value) s = .next t ∧
        Ends s t (all ++ (F.RING_STATUS_CFG_ERR, r.val) :: cfg) (s.ctl.setRing r.val {}) ∧ cleared t ∧
        t.ctl.get F.RING_PROD_PROD r.val = 0 ∧ t.ctl.get F.RING_NEXT_NEXT r.val = 0 ∧ t.ctl.get F.RING_CONS_CONS r.val = 0 ∧
        t.ctl.get F.RING_CFG_SIZE r.val = value.toNat % 32 ∧
        t.ctl.ringState r.val = if value.toNat % 32 = 0 ∨ (r.val < 128 ∧ (32 ≤ s.ctl.get F.RING_BASE_HI_BASE_HI r.val ∨
          2 ^ 37 < s.ctl.ringBase r.val + 64 * t.ctl.ringSize r.val)) then rsDisabled else rsIdle) ∧
    (ringOwner r.val = x → value.getLsbD 0 = true → s.ctl.ringState r.val = rsHalted ∨ s.ctl.ringState r.val = rsAborted →
      s.ctl.ring r.val = {} → ∃ t, exec (.resume x r value []) s = .next t ∧
        Ends s t all s.ctl ∧ cleared t ∧ t.ctl.get F.RING_PROD_PROD r.val = s.ctl.get F.RING_PROD_PROD r.val ∧
        t.ctl.get F.RING_CONS_CONS r.val = s.ctl.get F.RING_CONS_CONS r.val ∧
        t.ctl.ringState r.val = if s.ctl.get F.RING_CONS_CONS r.val = s.ctl.get F.RING_PROD_PROD r.val then rsIdle else rsRunning) ∧
    (ringOwner r.val ≠ x → x ≠ .svc → ∃ t, exec (.resume x r value []) s = .next t ∧ Ends s t [] s.ctl)

/-- The maintenance opcodes at work: SCRUB_RANGE queues the rows of its range and completes with the words rewritten once all
are scrubbed (R264); a TEST_SLICE starts its slice at the start of a transit, ends with its result, and is refused while field testing is off (R452,
R455);
APPLY installs a word in a free spare (R443); a PERSIST_ALL writes the first soft repair, or with none completes with 0 (R443);
a FUSE_PROGRAM starts programming its word, or is refused with its cause (R434, R435), and ends as the verify of the word came
out (R432). -/
def Obligations.Maintenance : Prop :=
  ∀ (s : State) (r : Fin 160) (i : BitVec 17) (d : Prog) (z : Slice),
    let slice : List (Fld × Nat) := [(F.BIST_FIELD_CUR_ACTIVE, 0), (F.BIST_FIELD_CUR_KIND, 0), (F.BIST_FIELD_CUR_PC, 0),
      (F.BIST_FIELD_CUR_DIE, 0), (F.BIST_FIELD_CUR_BANK, 0), (F.BIST_FIELD_CUR_GROUP, 0), (F.BIST_FIELD_CUR_ROW, 0)]
    let test := fun (c : List SliceFind → Instr) (kind : Nat) =>
      s.ctl.Works r.val i.toNat 0x11 d → d.arg16 % 4 = kind →
      (d.armed = false → s.ctl.fieldOn = false → s.ctl.ringState r.val = rsRunning → s.ctl.NoFetch r.val →
        ∃ t, exec (c []) s = .next t ∧ Halts s t r.val 0x1E [] (s.ctl.withProg r.val (d.done 0x1E 0x10))) ∧
      (d.armed = false → s.ctl.fieldOn = true → s.ctl.testTarget (r.val, d.idx) d = some z → s.ctl.slices = [] →
        s.ctl.mayBegin z = true → s.ctl.entry = none → ∃ t, exec (c []) s = .next t ∧
          Ends s t slice { s.ctl.withProg r.val { d with armed := true } with slices := [z], march := t.ctl.march } ∧
          z.kind = kind ∧ t.ctl.get F.BIST_FIELD_CUR_ACTIVE = 1 ∧ t.ctl.get F.BIST_FIELD_CUR_KIND = kind ∧
          t.ctl.get F.BIST_FIELD_CUR_PC = z.pc % 64) ∧
      (d.armed = true → kind ≠ 2 → s.ctl.slices = [z] → z.desc = some (r.val, d.idx) → z.kind = kind →
        ∃ t, exec (c [.pass]) s = .next t ∧
          Ends s t [(F.BIST_FIELD_COUNT_SLICES, 0), (F.BIST_FIELD_CUR_ACTIVE, 0)]
            { s.ctl.withProg r.val (d.done 0 0) with slices := [] } ∧ t.ctl.get F.BIST_FIELD_CUR_ACTIVE = 0)
    let program := fun (c : Instr) (fn w v : Nat) =>
      s.ctl.Works r.val i.toNat 0x13 d → d.armed = false → d.arg16 % 4 = fn → s.ctl.fuseOp = none →
      (s.ctl.fuseRefuse w = none → ∃ t, exec c s = .next t ∧
        Ends s t [(F.FUSE_STATUS_PUMP, 0)] { s.ctl.withProg r.val { d with armed := true } with
          fuseOp := some { word := w, data := v, desc := (r.val, d.idx) } } ∧
        t.ctl.get F.FUSE_STATUS_PUMP = b2n (!s.ctl.is F.FUSE_STATUS_VFUSE_OK)) ∧
      ∀ cause, s.ctl.fuseRefuse w = some cause → s.ctl.ringState r.val = rsRunning → s.ctl.NoFetch r.val →
        ∃ t, exec c s = .next t ∧ Halts s t r.val 0x1E [] (s.ctl.withProg r.val ({ d with armed := true }.done 0x1E cause))
    let a48 := dfield d.bytes 48 1
    (s.ctl.Works r.val i.toNat 0x10 d →
      (let w := s.ctl.wordAt (256 * (d.dst / 256))
      let q : Row := { bank := w.2.bank, row := w.2.row }
      d.armed = false → 0 < d.length → d.dst % 256 + d.length ≤ 256 → (s.ctl.pc w.1).rows = [] →
        ∃ t, exec (.scrubRange r i) s = .next t ∧
          Ends s t [] ((s.ctl.withProg r.val { d with armed := true, idxs := [(rowIx w.1 q.bank q.row, 1)] }).setPc w.1
            { s.ctl.pc w.1 with rows := [q] })) ∧
      (d.armed = true → d.idxs = [] → ∃ t, exec (.scrubRange r i) s = .next t ∧
        Ends s t [] (s.ctl.withProg r.val (d.done 0 d.result)))) ∧
    test (.testSliceTsvDelay r i) 1 ∧ test (.testSliceRowMarch r i) 2 ∧ test (.testSliceSeqCheck r i) 3 ∧
    (s.ctl.Works r.val i.toNat 0x12 d → d.armed = false →
      (∀ pc l v, d.arg16 % 4 = 0 → bit d.flags 1 = false → decodeRecord (dfield d.bytes 48 7) = some (.word pc l) →
        s.ctl.dark pc = false → s.ctl.pc pc = {} → (∀ q, (s.ctl.pc q).curd = []) → s.ctl.Calm 0x106 →
        Got.ofRaw (s.arr.raw pc l.bank l.row l.word) = .clean v → ∃ t, exec (.apply r i []) s = .next t ∧
          EndsRaised s t 0x106 [(F.CH_REMAP_INSTALLS, pc)] ((s.ctl.withProg r.val (d.done 0 0)).setPc pc
            { spares := [(0, { loc := l, data := v, orbit := s.ctl.orbit % 2 ^ 32 })] })) ∧
      (d.arg16 % 4 = 1 → s.ctl.fuseOp = none → s.ctl.softRecords = [] → ∃ t, exec (.persistAll r i) s = .next t ∧
        Ends s t [] (s.ctl.withProg r.val ({ d with armed := true }.done 0 0))) ∧
      ∀ v more n, d.arg16 % 4 = 1 → s.ctl.fuseOp = none → s.ctl.softRecords = v :: more → s.ctl.regionState 2 ≠ 2 →
        s.ctl.fuseLocked 2 = false → s.ctl.freeRecord = some n → s.ctl.fuseRefuse n = none →
        ∃ t, exec (.persistAll r i) s = .next t ∧ Ends s t [(F.FUSE_STATUS_PUMP, 0)]
          { s.ctl.withProg r.val { d with armed := true } with fuseOp := some { word := n, data := v, desc := (r.val, d.idx)
                                                                                repair := true, all := true, more := more } }) ∧
    (fuseRegion (dfield d.bytes 48 2 % 1024) = 3 →
      program (.fuseProgramWord r i) 0 (dfield d.bytes 48 2 % 1024) (dfield d.bytes 50 7 % 2 ^ 56)) ∧
    (a48 = 2 ∨ a48 = 3 → s.ctl.regionState a48 ≠ 2 → ((List.range (regionSpan a48).2).all fun k =>
        !s.ctl.wordBad ((regionSpan a48).1 + k)) = true →
      program (.fuseProgramSeal r i) 1 (992 + a48) (s.ctl.sealData a48)) ∧
    (a48 < 5 → dfield d.bytes 49 1 = 1 → s.ctl.lockWord (5 + a48) = false → program (.fuseProgramLock r i) 2 (1001 + a48) 0xFF) ∧
    ∀ f, s.ctl.Works r.val i.toNat 0x13 d → s.ctl.fuseOp = some f → f.repair = false → f.desc = (r.val, d.idx) →
      s.ctl.fuseWait = [] →
      (let w : FuseWord := { data := some f.data }
      (∃ t, exec (.fuseVerify true) s = .next t ∧
        Ends s t [(F.FUSE_STATUS_PUMP, 0), (F.FUSE_WORD_HI_SENSE, f.word), (F.FUSE_PROG_WORDS, 0)]
          { s.ctl.withProg r.val (d.done 0 f.word) with
            fuseOp := none, fuse := Sparse.put s.ctl.fuse f.word w, fuseSeen := Sparse.put s.ctl.fuseSeen f.word w } ∧
        t.ctl.get F.FUSE_WORD_HI_SENSE f.word = 1 ∧
        t.ctl.get F.FUSE_PROG_WORDS = min (s.ctl.get F.FUSE_PROG_WORDS + 1) (2 ^ F.FUSE_PROG_WORDS.width - 1)) ∧
      (s.ctl.ringState r.val = rsRunning → s.ctl.NoFetch r.val → ∃ t, exec (.fuseVerify false) s = .next t ∧
        Halts s t r.val 0x1F [(F.FUSE_STATUS_PUMP, 0), (F.FUSE_PROG_VERIFY_FAILS, 0)]
          { s.ctl.withProg r.val (d.done 0x1F f.word) with
            fuseOp := none, fuse := Sparse.put s.ctl.fuse f.word { data := some f.data, partly := true } }))

/-! ## Ownership, configuration and registers (chapters 10, 20 and 21) -/

/-- The semaphore (R270 to R275): of the claims of one cycle the winner of R271 becomes owner of a free semaphore and every
claim reads what it shows, a service port that is not eligible gets nothing, and in FACTORY nothing is claimed; the owner renews and
releases, a RENEW after the lease has run out and another port's write are dropped; a lease that has run out releases and is
reported; a full lease of absent host ports makes the service port eligible. -/
def Obligations.Semaphore : Prop :=
  ∀ (s : State) (c : Claims) (x : Master) (value : BitVec 32),
    let answers := fun (owner granted : Nat) =>
      (if c.portA then [Out.value (2 * owner + if granted = 1 then 1 else 0)] else []) ++
      (if c.portB then [Out.value (2 * owner + if granted = 2 then 1 else 0)] else []) ++
      (if c.svc then [Out.value (2 * owner + if granted = 3 then 1 else 0)] else [])
    let factory := s.ctl.inMode [.factory]
    let win : Master :=
      if c.portA = true ∧ c.portB = true then (if s.ctl.get F.SEM_OWNER_ALT = 0 then .a else .b)
      else if c.portA = true then .a else if c.portB = true then .b else .svc
    let freed : List (Fld × Nat) := [(F.SEM_OWNER_OWNER, 0), (F.SEM_SVC_ALLOW_ALLOW, 0), (F.CFG_STATUS_STAGED, 0)]
    let none' := fun (t : State) => t.ctl.owner = 0 ∧ t.ctl.get F.SEM_SVC_ALLOW_ALLOW = 0 ∧ t.ctl.get F.CFG_STATUS_STAGED = 0
    s.ctl.Quiet → s.ctl.power = .run →
    (s.ctl.owner = 0 → factory = false → (c.portA = true ∨ c.portB = true ∨ c.svc = true ∧ s.ctl.svcEligible = true) →
      ∃ t, exec (.semClaim c) s = .next t ∧
        Ends s t [(F.SEM_OWNER_OWNER, 0), (F.SEM_OWNER_ALT, 0), (F.SEM_COUNT_GRANTS, 0)] { s.ctl with lease := s.ctl.leaseLen } ∧
        t.ctl.owner = win.code ∧ t.ctl.out = answers win.code win.code ∧
        t.ctl.get F.SEM_OWNER_ALT = (match win with | .a => 1 | .b => 0 | .svc => s.ctl.get F.SEM_OWNER_ALT) ∧
        t.ctl.get F.SEM_COUNT_GRANTS = min (s.ctl.get F.SEM_COUNT_GRANTS + 1) (2 ^ F.SEM_COUNT_GRANTS.width - 1)) ∧
    (s.ctl.owner = 0 → c.portA = false → c.portB = false → s.ctl.svcEligible = false →
      ∃ t, exec (.semClaim c) s = .next t ∧ Ends s t [] s.ctl ∧ t.ctl.out = answers 0 0) ∧
    (s.ctl.owner ≠ 0 → factory = false →
      ∃ t, exec (.semClaim c) s = .next t ∧ Ends s t [] s.ctl ∧ t.ctl.out = answers s.ctl.owner s.ctl.owner) ∧
    (factory = true → ∃ t, exec (.semClaim c) s = .next t ∧ Ends s t [] s.ctl ∧ t.ctl.out = answers s.ctl.owner 0) ∧
    (s.ctl.owner = x.code → value.getLsbD 0 = true → value.getLsbD 1 = false →
      (s.ctl.lease ≠ 0 → ∃ t, exec (.renew x value) s = .next t ∧ Ends s t [] { s.ctl with lease := s.ctl.leaseLen }) ∧
      (s.ctl.lease = 0 → s.ctl.leaseRuns = true → x ≠ .svc → ∃ t, exec (.renew x value) s = .next t ∧ Ends s t [] s.ctl)) ∧
    (s.ctl.owner ≠ x.code → x ≠ .svc → (∃ t, exec (.renew x value) s = .next t ∧ Ends s t [] s.ctl) ∧
      ∃ t, exec (.release x value) s = .next t ∧ Ends s t [] s.ctl) ∧
    (s.ctl.commit = none → s.ctl.commitWait = [] → s.ctl.sesPend = [] →
      (s.ctl.owner = x.code → value.getLsbD 1 = true → ∃ t, exec (.release x value) s = .next t ∧
        Ends s t freed { s.ctl with lease := 0, staged := [] } ∧ none' t) ∧
      (s.ctl.owner ≠ 0 → s.ctl.lease = 0 → s.ctl.leaseRuns = true → s.ctl.Calm 0x001 → ∃ t, exec .leaseExpiry s = .next t ∧
        EndsRaised s t 0x001 ((F.SEM_COUNT_EXPIRIES, 0) :: freed) { s.ctl with staged := [] } ∧ none' t ∧
        t.ctl.get F.SEM_COUNT_EXPIRIES = min (s.ctl.get F.SEM_COUNT_EXPIRIES + 1) (2 ^ F.SEM_COUNT_EXPIRIES.width - 1))) ∧
    (s.ctl.portAbsent .a = true → s.ctl.portAbsent .b = true → s.ctl.leaseLen ≤ s.ctl.absent →
      ∃ t, exec .svcAbsenceExpiry s = .next t ∧ Ends s t [] { s.ctl with longAbsent := true })

/-- Staging and commits (R276, R277, R279 to R281, R287): the owner's write of a setup register changes its shadow and no active
value, another port's is dropped; DISCARD drops every shadow unless a commit is armed; ARM takes a commit, at once due where its
orbit is 0 or current; a finished digest is shown. -/
def Obligations.SetupCommits : Prop :=
  ∀ (s : State) (x : Master) (caddr : BitVec 24) (value : BitVec 32) (d : RegDef) (i : Nat),
    let orbit := s.ctl.get F.CFG_COMMIT_ORBIT % 2 ^ 32 + value.toNat % 2 ^ 16 * 2 ^ 32
    let busy := fun (t : State) => Ends s t [(F.CFG_COMMIT_STATUS_BUSY_ERR, 0)] s.ctl ∧ t.ctl.get F.CFG_COMMIT_STATUS_BUSY_ERR = 1
    let taken : List (Fld × Nat) := [(F.CFG_COMMIT_ORBIT, 0), (F.CFG_COMMIT_STATUS_BY, 0), (F.CFG_COMMIT_STATUS_PATH, 0),
      (F.CFG_COMMIT_STATUS_ARMED, 0)]
    let armed := fun (t : State) (judged due : Bool) =>
      Ends s t taken { s.ctl with commit := some { orbit := orbit, judged := judged, due := due, by_ := x.code } } ∧
      t.ctl.get F.CFG_COMMIT_STATUS_ARMED = 1 ∧ t.ctl.get F.CFG_COMMIT_STATUS_BY = x.code
    s.ctl.Quiet → s.ctl.power = .run →
    (findReg caddr.toNat = some (d, i) → caddr.toNat % 4 = 0 → configGap caddr.toNat 4 = false → doorbellRing caddr.toNat = none →
      inMsix caddr.toNat = false → isRing d.reg = false → isSession d.reg = false → d.kind = .setup →
      (s.ctl.owner = x.code → ∃ t, exec (.setupWrite x caddr value) s = .next t ∧
        Ends s t [(F.CFG_STATUS_STAGED, 0)] { s.ctl with staged := (s.ctl.stageParts i value.toNat d.parts).staged } ∧
        t.ctl.get F.CFG_STATUS_STAGED = 1) ∧
      (s.ctl.owner ≠ x.code → x ≠ .svc → ∃ t, exec (.setupWrite x caddr value) s = .next t ∧ Ends s t [] s.ctl)) ∧
    (s.ctl.owner = x.code → value.getLsbD 0 = true → s.ctl.commit = none → s.ctl.sesPend = [] →
      ∃ t, exec (.discard x value) s = .next t ∧ Ends s t [(F.CFG_STATUS_STAGED, 0)] { s.ctl with staged := [] } ∧
        t.ctl.get F.CFG_STATUS_STAGED = 0) ∧
    (s.ctl.owner = x.code → value.getLsbD 0 = true → s.ctl.commit ≠ none → ∃ t, exec (.discard x value) s = .next t ∧ busy t) ∧
    (s.ctl.owner = x.code → value.getLsbD 31 = true → s.ctl.commit ≠ none → ∃ t, exec (.arm x value) s = .next t ∧ busy t) ∧
    (s.ctl.owner = x.code → value.getLsbD 31 = true → s.ctl.commit = none →
      (orbit = 0 ∨ s.ctl.numValid = true ∧ judgeOrbit orbit s.ctl.orbit = .current →
        ∃ t, exec (.arm x value) s = .next t ∧ armed t true true) ∧
      (orbit ≠ 0 → s.ctl.numValid = true → judgeOrbit orbit s.ctl.orbit = .future →
        ∃ t, exec (.arm x value) s = .next t ∧ armed t true false) ∧
      (orbit ≠ 0 → s.ctl.numValid = false → ∃ t, exec (.arm x value) s = .next t ∧ armed t false false) ∧
      (orbit ≠ 0 → s.ctl.numValid = true → judgeOrbit orbit s.ctl.orbit = .past → s.ctl.Calm 0x002 →
        ∃ t, exec (.arm x value) s = .next t ∧
          EndsRaised s t 0x002 ((F.CFG_COMMIT_STATUS_RESULT, 0) :: taken) s.ctl ∧ t.ctl.get F.CFG_COMMIT_STATUS_RESULT = 0x13)) ∧
    (s.ctl.get F.CFG_STATUS_DIGEST_BUSY ≠ 0 → ∃ t, exec .digestReady s = .next t ∧
      Ends s t [(F.CFG_DIGEST, 0), (F.CFG_STATUS_DIGEST_BUSY, 0)] s.ctl ∧ t.ctl.get F.CFG_DIGEST = s.ctl.digestNew % 2 ^ 64 ∧
      t.ctl.get F.CFG_STATUS_DIGEST_BUSY = 0)

/-- The owner's control registers and the plain accesses (R7, R276, R310, R364, R392, R429, R468, R471, R472). -/
def Obligations.ControlRegisters : Prop :=
  ∀ (s : State) (x : Master) (l : Link) (k : Fin 16) (caddr : BitVec 24) (value : BitVec 32) (d : RegDef) (i : Nat),
    let src := value.toNat % 512
    let st := s.ctl.get F.PL_PHY_STATUS_STATE l.idx
    s.ctl.Quiet → s.ctl.power = .run →
    (s.ctl.owner = x.code →
      (value.getLsbD 0 = true → s.ctl.pcs = [] → s.ctl.fuseOp = none → s.ctl.inMode [.factory] = false →
        ∃ t, exec (.pwrCtrlChipReset x value) s = .next t ∧ FromChipReset s t 5) ∧
      (∃ t, exec (.fuseLock x value) s = .next t ∧ Ends s t [(F.FUSE_LOCK_WL, 0), (F.FUSE_LOCK_RL, 0)] s.ctl ∧
        (∀ b < 5, bit (t.ctl.get F.FUSE_LOCK_WL) b = (bit (s.ctl.get F.FUSE_LOCK_WL) b || value.getLsbD b)) ∧
        ∀ b < 5, bit (t.ctl.get F.FUSE_LOCK_RL) b = (bit (s.ctl.get F.FUSE_LOCK_RL) b || value.getLsbD (b + 8))) ∧
      (s.ctl.inMode [.factory] = false → ∃ t, exec (.fltInject x value) s = .next t ∧
        Ends s t [(F.FLT_STATUS_INJECT_REFUSED, 0)] s.ctl ∧ t.ctl.get F.FLT_STATUS_INJECT_REFUSED = 1) ∧
      (s.ctl.inMode [.factory] = true → sources.contains src = true → s.ctl.Calm src → ∃ t, exec (.fltInject x value) s = .next t ∧
        EndsRaised s t src [] s.ctl) ∧
      (∃ t, exec (.fltOvfIdx x value) s = .next t ∧
        Ends s t [(F.FLT_OVF_IDX_INDEX, 0), (F.FLT_OVF_STATUS_READY, 0)] { s.ctl with ovfRead := true } ∧
        t.ctl.get F.FLT_OVF_IDX_INDEX = value.toNat % 2 ^ 20 ∧ t.ctl.get F.FLT_OVF_STATUS_READY = 0) ∧
      (st = 0 → value.toNat % 8 = 1 ∨ value.toNat % 8 = 2 → ∃ t, exec (.phyLoopMode x l value) s = .next t ∧
        Ends s t [(F.PL_PHY_LOOP_MODE, l.idx), (F.PL_PHY_STATUS_STATE, l.idx)] s.ctl ∧
        t.ctl.get F.PL_PHY_STATUS_STATE l.idx = 3 ∧ t.ctl.get F.PL_PHY_LOOP_MODE l.idx = value.toNat % 8) ∧
      (st ≠ 0 → value.toNat % 8 ≠ 0 → ∃ t, exec (.phyLoopMode x l value) s = .next t ∧
        Ends s t [(F.PL_PHY_STATUS_LOOP_REFUSED, l.idx)] s.ctl ∧ t.ctl.get F.PL_PHY_STATUS_LOOP_REFUSED l.idx = 1)) ∧
    (s.ctl.owner ≠ x.code → x ≠ .svc → ∀ c ∈ [Instr.pwrCtrlChipReset x value, .fuseLock x value, .fltInject x value,
      .fltOvfIdx x value, .phyLoopMode x l value], ∃ t, exec c s = .next t ∧ Ends s t [] s.ctl) ∧
    (s.ctl.ovfRead = true → ∃ t, exec (.overflowReadDone []) s = .next t ∧
      (let e := s.ctl.ovfEntry s.arr (s.ctl.get F.FLT_OVF_IDX_INDEX)
      Ends s t ([(F.FLT_OVF_STATUS_ERR, 0), (F.FLT_OVF_STATUS_READY, 0)] ++ (List.range 4).map fun k => (F.FLT_OVF_ENTRY_DATA, k))
        { s.ctl with ovfRead := false } ∧
      t.ctl.get F.FLT_OVF_STATUS_READY = 1 ∧ t.ctl.get F.FLT_OVF_STATUS_ERR = b2n e.isNone ∧
      ∀ k < 4, t.ctl.get F.FLT_OVF_ENTRY_DATA k = bits (e.getD 0) (32 * k) 32)) ∧
    (∃ t, exec (.fltPendClear x k value) s = .next t ∧ Ends s t [(F.FLT_PEND_PEND, k.val)] s.ctl ∧
      ∀ b < 32, bit (t.ctl.get F.FLT_PEND_PEND k.val) b = (bit (s.ctl.get F.FLT_PEND_PEND k.val) b && !value.getLsbD b)) ∧
    (findReg caddr.toNat = some (d, i) → caddr.toNat % 4 = 0 → configGap caddr.toNat 4 = false → doorbellRing caddr.toNat = none →
      inMsix caddr.toNat = false →
      (isPairLow d.reg = true → d.reg ≠ .SEM_CLAIM → ∃ t, exec (.pairLowRead x caddr) s = .next t ∧
        Ends s t [] { s.ctl with caps := t.ctl.caps } ∧ t.ctl.out = [.value (s.ctl.regValue d i)] ∧
        (∀ e j, findReg (caddr.toNat + 4) = some (e, j) →
          Sparse.find t.ctl.caps x.code = some ((caddr.toNat + 4) * 2 ^ 32 + s.ctl.regValue e j))) ∧
      (isRing d.reg = false → d.kind = .status → ∃ t, exec (.registerWrite x caddr value) s = .next t ∧
        Ends s t (d.parts.map fun q => (q.fld, i * q.mul + q.add)) s.ctl ∧
        ∀ f j, fkey f j ≠ fkey F.FLT_STATUS_FAULTN 0 → t.ctl.get f j = (s.ctl.storeParts i value.toNat d.parts).get f j))

/-! ## Peer links (chapters 11 and 12) -/

/-- Training of a peer link (R308, R309): an attempt is counted with its cause and the lanes that failed; one that passes takes
its width, its delay and its state: in TRAINING it waits for READY, and later it is UP and sends its first beacon. One that fails
at its width has measured the delay too. The retry trains it again. -/
def Obligations.LinkTraining : Prop :=
  ∀ (s : State) (l : Link) (r : LinkTrain),
    let i := l.idx
    let x := s.ctl.lnk i
    let failed := (List.range 8).map fun k => (F.PL_LANE_FAILED, i * 8 + k)
    let tried : List (Fld × Nat) := [(F.PL_TRAIN_COUNT, i), (F.PL_TRAIN_LAST_CAUSE, i)] ++ failed
    let way : Fld := if i = 0 then F.ORB_BORROW_COMP_PEER0 else F.ORB_BORROW_COMP_PEER1
    let shows := fun (t : State) (cause pass : Nat) => t.ctl.get F.PL_TRAIN_LAST_CAUSE i = cause ∧
      ∀ k < 8, t.ctl.get F.PL_LANE_FAILED (i * 8 + k) = b2n (!bit pass k)
    let ended := fun (t : State) =>
      t.ctl.get F.PL_TRAIN_COUNT i = min (s.ctl.get F.PL_TRAIN_COUNT i + 1) (2 ^ F.PL_TRAIN_COUNT.width - 1) ∧
      match r with
      | .noTone => Ends s t tried s.ctl ∧ shows t 1 0
      | .roleClash => EndsRaised s t (plSource i 0x0B2) ((F.PL_PHY_STATUS_ROLE_CLASH, i) :: tried) s.ctl ∧ shows t 2 0 ∧
          t.ctl.get F.PL_PHY_STATUS_ROLE_CLASH i = 1
      | .echo => Ends s t tried { s.ctl with free := s.ctl.free + 1 } ∧ shows t 3 (Config.freeChoice s.ctl.free % 256)
      | .equalise => Ends s t tried { s.ctl with free := s.ctl.free + 1 } ∧ shows t 4 (Config.freeChoice s.ctl.free % 256)
      | .verify lanes => Ends s t tried s.ctl ∧ shows t 5 lanes.toNat
      | .width lanes delay => Ends s t ((way, 0) :: tried) s.ctl ∧ shows t 6 lanes.toNat ∧ t.ctl.get way = delay.toNat
      | .pass lanes delay _ _ =>
        match s.ctl.widthOf i lanes.toNat with
        | none => Ends s t ((way, 0) :: tried) s.ctl ∧ shows t 6 lanes.toNat ∧ t.ctl.get way = delay.toNat
        | some w =>
          EndsBut s t [F.PL_TRAIN_COUNT, F.PL_TRAIN_LAST_CAUSE, F.PL_LANE_FAILED, F.PL_PHY_STATUS_WIDTH, F.PL_PHY_STATUS_HALF,
              F.PL_LANE_PEAK, F.PL_FIR_PRE2, F.PL_FIR_PRE1, F.PL_FIR_MAIN, F.PL_FIR_POST1, F.PL_FIR_POST2,
              F.ORB_BORROW_COMP_PEER0, F.ORB_BORROW_COMP_PEER1, F.PL_PHY_STATUS_STATE, F.PL_PHY_STATUS_STEP,
              F.PL_PHY_STATUS_TX_AWAKE] { s.ctl with links := t.ctl.links } ∧
          s.ctl.OtherLinks t.ctl i ∧ shows t 0 lanes.toNat ∧
          t.ctl.get F.PL_PHY_STATUS_WIDTH i = w.1 ∧ t.ctl.get F.PL_PHY_STATUS_HALF i = w.2 ∧
          t.ctl.get way = delay.toNat ∧
          (s.ctl.inMode [.training] = true → t.ctl.get F.PL_PHY_STATUS_STATE i = 1 ∧
            t.ctl.lnk i = { x with trained := true, aborts := [], rxDead := false }) ∧
          (s.ctl.inMode [.training] = false → t.ctl.get F.PL_PHY_STATUS_STATE i = 2 ∧ t.ctl.get F.PL_PHY_STATUS_TX_AWAKE i = 1 ∧
            ∃ body, body % 16 = 9 ∧ bits body 16 64 = s.ctl.serial ∧
              t.ctl.lnk i = { x with trained := true, aborts := [], rxDead := false, tx := x.tx ++ [.ctl body]
                                     sentOrbit := if s.ctl.numValid then some s.ctl.orbit else none })
    s.ctl.Quiet → s.ctl.mayTrainLink i = true → s.ctl.Calm (plSource i 0x0B2) →
    (∃ t, exec (.plTraining l r) s = .next t ∧ ended t) ∧
    (s.ctl.get F.PL_TRAIN_COUNT i ≠ 0 → ∃ t, exec (.plTrainRetry l r) s = .next t ∧ ended t)

/-- Bursts of a live link (R298, R302, R305, R306, R312, R313, R316): a burst wakes its direction with the tone and sends its
pairs on every lane in use; a sequenced control frame takes its CSEQ and its place for replay when it is sent; an aborted burst
is counted against its lane, and the sixteenth in a row fails the lane and takes the link DOWN. Low power of a link (R301 to
R303, R389): a direction goes to sleep unless the code is 0 or the peer borrows its beats; the peer's tone wakes a stack in
DROWSE, and asks nothing of one that is awake. -/
def Obligations.LinkBursts : Prop :=
  (∀ (s : State) (l : Link) (n : Nat) (lane : Fin 8) (d : Detector),
    let i := l.idx
    let x := s.ctl.lnk i
    let lanes := s.ctl.lanesOf i
    let tone := if s.ctl.get F.PL_PHY_STATUS_TX_AWAKE i = 0 then [Out.tone l] else []
    let seen : Fld := match d with | .los => F.PL_LANE_LOS | .lol => F.PL_LANE_LOL
    let went := fun (t : State) => t.ctl.get seen (i * 8 + lane.val) = 1 ∧
      t.ctl.get F.PL_ABORTS_COUNT i = min (s.ctl.get F.PL_ABORTS_COUNT i + 1) (2 ^ F.PL_ABORTS_COUNT.width - 1)
    let before := Sparse.getD x.aborts lane.val 0
    s.ctl.Quiet → s.ctl.linkLive i = true →
    (1 ≤ n → n ≤ 470 → x.again = [] → x.tx = [] → ∃ t, exec (.burstStart l n) s = .next t ∧
      EndsLink s t i x [(F.PL_PHY_STATUS_TX_AWAKE, i)] s.ctl ∧ t.ctl.get F.PL_PHY_STATUS_TX_AWAKE i ≠ 0 ∧
      t.ctl.out = tone ++ (List.replicate n (lanes.map fun k => Out.pair l k (pairLevels (x.pairBytes [])))).flatten) ∧
    (∀ b, x.again = [] → x.tx = [.ctl b] → sequenced b = true → x.cbuf.length < 256 → ∃ t, exec (.burstStart l 1) s = .next t ∧
      EndsLink s t i { x with tx := [], cseq := (x.cseq + 1) % 4096, cbuf := x.cbuf ++ [{ cseq := x.cseq, body := b }] }
        [(F.PL_PHY_STATUS_TX_AWAKE, i)] s.ctl ∧
      ∃ more, t.ctl.out = tone ++ Out.pair l (lanes.headD 0) (pairLevels (x.pairBytes [(1, unitOf (b + x.cseq * 16))])) :: more) ∧
    (lane.val ∈ lanes → x.rxDead = true → before < 15 → ∃ t, exec (.burstAbort l lane d) s = .next t ∧
      EndsLink s t i { x with aborts := [(lane.val, before + 1)] } [(seen, i * 8 + lane.val), (F.PL_ABORTS_COUNT, i)] s.ctl ∧
      went t) ∧
    (lane.val ∈ lanes → x.rxDead = true → before = 15 → s.ctl.Bare i → s.ctl.Calm (plSource i 0x0B0) →
      s.ctl.Calm (plSource i 0x0B1) → s.ctl.get F.FLT_LOG_HEAD_TOTAL < 255 → ∃ t, exec (.burstAbort l lane d) s = .next t ∧
      EndsBut s t (logFields ++ [seen, F.PL_ABORTS_COUNT, F.PL_LANE_FAILED, F.PL_PHY_STATUS_STATE, F.PL_PHY_STATUS_STEP,
        F.PL_PHY_STATUS_TX_AWAKE, F.PL_FAB_STATUS_PEER_VALID]) { s.ctl with links := t.ctl.links, held := t.ctl.held } ∧
      s.ctl.OtherLinks t.ctl i ∧ t.ctl.lnk i = x.afterDown ∧ went t ∧ t.ctl.get F.PL_LANE_FAILED (i * 8 + lane.val) = 1 ∧
      t.ctl.get F.PL_PHY_STATUS_STATE i = 0 ∧ t.ctl.pendOf (plSource i 0x0B0) = true ∧ t.ctl.pendOf (plSource i 0x0B1) = true)) ∧
  (∀ (s : State) (l : Link),
    let i := l.idx
    s.ctl.Quiet →
    (s.ctl.linkLive i = true → s.ctl.get F.PL_PHY_CFG_SLEEP_AFTER i ≠ 0 → s.ctl.get F.PL_FAB_STATUS_PEER_BORROWS i = 0 →
      ∃ t, exec (.directionSleep l) s = .next t ∧ Ends s t [(F.PL_PHY_STATUS_TX_AWAKE, i)] s.ctl ∧
        t.ctl.get F.PL_PHY_STATUS_TX_AWAKE i = 0) ∧
    (s.ctl.linkLive i = true → s.ctl.get F.PL_PHY_CFG_SLEEP_AFTER i = 0 → ∃ t, exec (.directionSleep l) s = .next t ∧
      Ends s t [] s.ctl) ∧
    (s.ctl.inMode [.ready, .active] = true → s.ctl.entry = none → ∃ t, exec (.wakeTone l) s = .next t ∧ Ends s t [] s.ctl) ∧
    (s.ctl.plUp i = true → s.ctl.inMode [.drowse] = true → ∃ t, exec (.wakeTone l) s = .next t ∧
      Ends s t [(F.WAKE_SOURCE_SOURCE, 0), (F.WAKE_SOURCE_FROM, 0), (F.WAKE_SOURCE_COUNT, 0), (F.GL_MODE_STATE, 0),
          (F.GL_MODE_PREV, 0)] { s.ctl with clk := { s.ctl.clk with gated := [], asked := [] }, idle := 0 } ∧
      t.ctl.get F.WAKE_SOURCE_SOURCE = i + 3 ∧ t.ctl.get F.WAKE_SOURCE_FROM = Mode.drowse.code ∧
      t.ctl.mode = if s.ctl.anyLink then Mode.active.code else Mode.ready.code))

/-- The channel code of a peer link (R290, R295 to R297): whatever 850 bytes a pair carries, its 3600 levels decode to them with no
symbol corrected. -/
def Obligations.PairCode : Prop :=
  ∀ (bytes : List Byte) (left : List Nat), bytes.length = 850 →
    (pairLevels bytes).length = 3600 ∧ decodePair (pairLevels bytes) left = (bytes, .clean)

/-- A pair within a burst (R297, R314 to R316): its decoding outcome is counted; a header with a bad CRC is dropped whole; a
good one acknowledges; an entered sequenced control frame is the one expected, another number is discarded, and a damaged unit
asks for a replay. The replay resends what is not acknowledged and is counted, and the fourth in a row from one oldest CSEQ
takes the link DOWN. -/
def Obligations.Pairs : Prop :=
  ∀ (s : State) (l : Link) (lane : Fin 8) (outcome : PairOutcome) (body cack : Nat) (valid nak cnak : Bool) (o : CFrame)
    (r : List CFrame),
    let i := l.idx
    let x := s.ctl.lnk i
    let y := { x with rxAt := some s.ctl.now }
    let counts : List (Fld × Nat) := match outcome with
      | .clean => []
      | .corrected => [(F.PL_FEC_CORR, i)]
      | .failed => [(F.PL_FEC_FAIL_COUNT, i)]
    let bump := fun (f : Fld) (t : State) => t.ctl.get f i = min (s.ctl.get f i + 1) (2 ^ f.width - 1)
    let counted := fun (t : State) => match outcome with
      | .clean => True
      | .corrected => bump F.PL_FEC_CORR t
      | .failed => bump F.PL_FEC_FAIL_COUNT t
    let head := fun (umap : Nat) => leBytes 14 (umap + cack * 2 ^ 52 + b2n valid * 2 ^ 64 + b2n nak * 2 ^ 65)
    let whole := fun (unit : List Byte) =>
      head 1 ++ leBytes 4 (crc32c (head 1)) ++ unit ++ List.replicate (32 * 25) (0 : Byte)
    let acked := (y.takeAck cack valid nak)
    let takes := fun (bytes : List Byte) (z : LinkSt) => ∀ levels left, levels.length = 3600 → left.length = 680 →
      decodePair levels (left.map (·.toNat)) = (bytes, outcome) → ∃ t, exec (.pair l lane levels left) s = .next t ∧
        EndsLink s t i z ((F.PL_CREPLAY_BAD, i) :: counts) s.ctl ∧ counted t
    let times := if x.fromCount ≠ 0 ∧ x.fromSeq = o.cseq then x.fromCount + 1 else 1
    s.ctl.Quiet → s.ctl.linkLive i = true →
    (lane.val ∈ s.ctl.lanesOf i → s.ctl.rxBurst i = true → x.rxDead = false → body < 2 ^ 224 → cack < 4096 →
      (∀ bytes, bytes.length = 850 → crc32c (bytes.take 14) ≠ leNat ((bytes.drop 14).take 4) → takes bytes y) ∧
      (sequenced body = true → body % 16 ≠ 3 → bits body 4 12 = x.ce →
        takes (whole (unitOf body))
          { acked with ce := (x.ce + 1) % 4096, ctaken := true, cnak := false,
                       rx := x.rx ++ [(.ctl (body - x.ce * 16), decide (outcome = .failed))] }) ∧
      (sequenced body = true → bits body 4 12 ≠ x.ce → takes (whole (unitOf body)) acked) ∧
      (∀ unit, unit.length = 32 → crc32c (unit.take 28) ≠ leNat (unit.drop 28) → takes (whole unit) { acked with cnak := true })) ∧
    (x.cbuf = o :: r → (cnak = true → x.nakIn = true) → times < 4 → ∃ t, exec (.controlReplay l cnak) s = .next t ∧
      EndsLink s t i { x with again := x.cbuf, nakIn := false, fromSeq := o.cseq, fromCount := times }
        [(F.PL_CREPLAY_REPLAYS, i)] s.ctl ∧ bump F.PL_CREPLAY_REPLAYS t) ∧
    (x.cbuf = o :: r → (cnak = true → x.nakIn = true) → 4 ≤ times → s.ctl.Bare i → s.ctl.Calm (plSource i 0x0B0) →
      ∃ t, exec (.controlReplay l cnak) s = .next t ∧
        EndsLinkRaised s t (plSource i 0x0B0) i x.afterDown (downFlds i) s.ctl ∧ t.ctl.get F.PL_PHY_STATUS_STATE i = 0)

/-- Requests of the peer (R320, R322, R328, R330): an aligned request inside the ingress windows, or a mirror write of a
SECONDARY region of its link, enters one access for each 64 B line at the PC of that line; another is answered at once with its
status and nothing else happens. A frame of a FAILED pair is counted and raised. -/
def Obligations.PeerRequests : Prop :=
  ∀ (s : State) (l : Link) (tag : BitVec 8) (size : ReqSize) (addr : BitVec 37) (be : Option (BitVec 64)) (data : List Byte)
    (region : Fin 16),
    let i := l.idx
    let x := s.ctl.lnk i
    let a := addr.toNat
    let entered := fun (t : State) (rd mirror : Bool) (n : Nat) (d : List Byte) (en : Nat) =>
      let pc := (s.ctl.place a).pc
      Ends s t [] { s.ctl with links := t.ctl.links, pcs := t.ctl.pcs } ∧ s.ctl.OtherLinks t.ctl i ∧ s.ctl.OtherPcs t.ctl pc ∧
      t.ctl.lnk i = { x with nextIn := x.nextIn + 1, ins := x.ins ++
        ([{ id := x.nextIn, tag := tag.toNat, rd := rd, addr := a, len := n, left := 1, mirror := mirror }] : List InOp) } ∧
      t.ctl.pc pc = { s.ctl.pc pc with ingress := (s.ctl.pc pc).ingress ++
        [{ who := .link l x.nextIn, acc := if rd then .read else .write, addr := a, len := n, data := d, be := en
           since := s.ctl.now }] }
    let answered := fun (t : State) (status : Nat) (mirror : Bool) =>
      EndsLink s t i { x with tx := x.tx ++ [.ctl (cplBody tag.toNat status false mirror)] } [] s.ctl
    let parts := size.bytes / 64
    let en := match be with | some b => b.toNat % 2 ^ data.length | none => 2 ^ data.length - 1
    let fits := a % 64 + data.length ≤ 64
    let lo := s.ctl.get F.MIR_LBASE_BASE region.val * 65536
    let own := s.ctl.mirIs region.val 2 = true ∧ s.ctl.get F.MIR_CTRL_LINK region.val = i ∧ lo ≤ a ∧
      a + data.length ≤ lo + s.ctl.mirSize region.val * 65536
    s.ctl.Quiet → s.ctl.linkLive i = true → s.ctl.inMode [.drowse] = false → s.ctl.entry = none → x.rx = [] →
    (a % size.bytes = 0 → s.ctl.ingressOk i false a = true → s.ctl.ingressOk i false (a + size.bytes - 1) = true →
      ∃ t, exec (.rdReq l tag size addr) s = .next t ∧
        (size.bytes ≤ 64 → entered t true false size.bytes [] 0) ∧
        (64 < size.bytes → Ends s t [] { s.ctl with links := t.ctl.links, pcs := t.ctl.pcs } ∧ s.ctl.OtherLinks t.ctl i ∧
          (t.ctl.lnk i).ins = x.ins ++
            ([{ id := x.nextIn, tag := tag.toNat, rd := true, addr := a, len := size.bytes, left := parts }] : List InOp) ∧
          ∀ k < parts, ({ who := .link l x.nextIn, acc := .read, addr := a + 64 * k, len := 64, since := s.ctl.now } : Job) ∈
            (t.ctl.pc (s.ctl.place (a + 64 * k)).pc).ingress)) ∧
    (a % size.bytes ≠ 0 → ∃ t, exec (.rdReq l tag size addr) s = .next t ∧ answered t stBadRequest false) ∧
    (a % size.bytes = 0 → s.ctl.ingressOk i false a = false → ∃ t, exec (.rdReq l tag size addr) s = .next t ∧
      answered t stOutOfWindow false) ∧
    (payloadOk data be = true → a % 32 = 0 → badRange a data.length = false →
      (fits → en ≠ 0 → s.ctl.ingressOk i true a = true → s.ctl.ingressOk i true (a + data.length - 1) = true →
        ∃ t, exec (.wr l tag addr be data false) s = .next t ∧ entered t false false data.length data en) ∧
      (s.ctl.ingressOk i true a = false → ∃ t, exec (.wr l tag addr be data false) s = .next t ∧ answered t stOutOfWindow false) ∧
      (fits → en ≠ 0 → own → ∃ t, exec (.mirWr l tag region addr be data false) s = .next t ∧
        entered t false true data.length data en) ∧
      (fits → be = none → own → ∃ t, exec (.resyncWr l tag region addr data false) s = .next t ∧
        entered t false true data.length data en) ∧
      (s.ctl.ingressOk i true a = false → s.ctl.Calm (plSource i 0x0B3) → ∃ t, exec (.wr l tag addr be data true) s = .next t ∧
        EndsLinkRaised s t (plSource i 0x0B3) i
          { x with tx := x.tx ++ [.ctl (cplBody tag.toNat stOutOfWindow true false)] } [(F.PL_DATA_ERR_COUNT, i)] s.ctl ∧
        t.ctl.get F.PL_DATA_ERR_COUNT i = min (s.ctl.get F.PL_DATA_ERR_COUNT i + 1) (2 ^ F.PL_DATA_ERR_COUNT.width - 1))) ∧
    (payloadOk data be = true → ¬ own → s.ctl.frozen a = true → ∃ t, exec (.mirWr l tag region addr be data false) s = .next t ∧
      answered t stSplitReadonly true)

/-- What ends an operation of a link (R323, R261, R327, R329): a completion frees its TAG; a mirror write that the peer did not
perform leaves its granule dirty, in the bitmap that the cellar holds, so that a SYNCED region is RESYNCING; a port's read is answered with the data, or with the
peer's status; the data of a descriptor's granule go on to be written here; after a timeout the TAG waits for the late
completion. -/
def Obligations.PeerAnswers : Prop :=
  ∀ (s : State) (l : Link) (tag : BitVec 8) (status : BitVec 4) (derr mirror : Bool) (o : LinkOp) (region : Fin 16)
    (p : Port) (r : Req) (data : List Byte) (addr : BitVec 37) (pmask : BitVec 8),
    let i := l.idx
    let x := s.ctl.lnk i
    let none_ := { x with ops := [] }
    let g := (o.loc / 65536) - s.ctl.get F.MIR_LBASE_BASE region.val
    let dirtied := fun (t : State) (y : LinkSt) =>
      Dirtied s t region.val { s.ctl.mir region.val with dirty := rangeAdd g (s.ctl.mir region.val).dirty }
        [(F.MIR_STATUS_STATE, region.val)] { s.ctl with links := t.ctl.links } ∧
      s.ctl.OtherLinks t.ctl i ∧ t.ctl.lnk i = y ∧
      t.ctl.mirState region.val = if s.ctl.mirState region.val = 1 then 2 else s.ctl.mirState region.val
    let answered := fun (t : State) (y : LinkSt) (st : Nat) (payload : Option (List Byte)) =>
      EndsLink s t i y [] { s.ctl.setPort p (let z := { s.ctl.port p with reqs := [] }
        z.setGrp r.g { z.grp r.g with up := (z.grp r.g).up ++ [.cpl r.tag st none false payload r.session (.fresh r.admitted) r.accAt] })
        with tel := t.ctl.tel }
    let read := o.kind = .rdPort p r.pos ∧ (s.ctl.port p).reqs = [r] ∧ r.op = 0 ∧ r.orphan = false ∧ r.rh = 0 ∧ r.wd = 0 ∧
      s.ctl.Answers p r.g
    let shelf := s.ctl.cellarOk = true → s.ctl.Shelf s.arr region.val
    s.ctl.Settled → s.ctl.plUp i = true → x.rx = [] → x.ops = [o] → o.tag = tag.toNat →
    (s.ctl.linkLive i = true →
      (o.dead = true → ∃ t, exec (.cpl l tag status derr mirror) s = .next t ∧ EndsLink s t i none_ [] s.ctl) ∧
      (o.dead = false → o.kind = .mirror region.val none → status = 0 → ∃ t, exec (.cpl l tag status derr mirror) s = .next t ∧
        EndsLink s t i none_ [] s.ctl) ∧
      (o.dead = false → o.kind = .mirror region.val none → status ≠ 0 → s.ctl.mirIs region.val 1 = true → shelf →
        ∃ t, exec (.cpl l tag status derr mirror) s = .next t ∧ dirtied t none_) ∧
      (o.dead = false → read → 2 ≤ status.toNat → ∃ t, exec (.cpl l tag status derr mirror) s = .next t ∧
        answered t none_ status.toNat none) ∧
      (payloadOk data none = true → o.dead = false → o.len = data.length → o.addr = addr.toNat →
        (read → pmask = 0 → ∃ t, exec (.rdData l tag addr pmask data false) s = .next t ∧ answered t none_ 0 (some data)) ∧
        (∀ ring d q, o.kind = .rdDesc ring d.idx q.id → (s.ctl.ring ring).prog = [d] → d.grans = [q] → d.stop = none →
          pmask = 0 →
          ∃ t, exec (.rdData l tag addr pmask data false) s = .next t ∧
            (let pc := (s.ctl.place q.dst).pc
            EndsLink s t i none_ [] (s.ctl.setPc pc { s.ctl.pc pc with ingress := (s.ctl.pc pc).ingress ++
              [{ who := .engine ring d.idx q.id false, acc := .write, addr := q.dst, len := q.len, data := data
                 be := 2 ^ q.len - 1, label := d.session, since := s.ctl.now }] }))))) ∧
    (o.dead = false → o.kind = .mirror region.val none → s.ctl.mirIs region.val 1 = true → shelf →
      ∃ t, exec (.remoteTimeout l tag) s = .next t ∧ dirtied t { x with ops := [{ o with dead := true }] }) ∧
    (o.dead = false → read → ∃ t, exec (.remoteTimeout l tag) s = .next t ∧
      answered t { x with ops := [{ o with dead := true }] } stRemoteUnreachable none)

/-- Joining a mirror region (R330): a JOIN of a SECONDARY region of the same size is accepted, or asks for everything where no
valid copy is held, and is refused otherwise, with CONFLICT on both sides, where a region that was in it goes on retrying; ACCEPT and NEED_FULL start the resync of a PRIMARY,
the latter of every granule; SYNCED ends it on the SECONDARY. -/
def Obligations.MirrorJoin : Prop :=
  ∀ (s : State) (l : Link) (region : Fin 16) (size : BitVec 18),
    let i := l.idx
    let r := region.val
    let x := s.ctl.lnk i
    let sends := fun (cmd : Nat) => { x with tx := x.tx ++ [.ctl (mirCtl r cmd)] }
    let state := [(F.MIR_STATUS_STATE, r)]
    let clash := fun (t : State) (y : LinkSt) =>
      EndsRaised s t 0x0B9 state { s.ctl with links := t.ctl.links, mirs := t.ctl.mirs } ∧ s.ctl.OtherLinks t.ctl i ∧
      t.ctl.lnk i = y ∧ (∀ q, q ≠ r → t.ctl.mir q = s.ctl.mir q) ∧ t.ctl.mir r = { s.ctl.mir r with
        retry := decide (s.ctl.mirState r = 4) && (s.ctl.mir r).retry } ∧ t.ctl.mirState r = 4
    let asks := s.ctl.mirIs r 1 = true ∧ (s.ctl.mirState r = 3 ∨ s.ctl.mirState r = 4)
    s.ctl.Quiet → s.ctl.linkLive i = true → x.rx = [] →
    (s.ctl.get F.MIR_CTRL_LINK r = i →
      (s.ctl.mirIs r 2 = true → s.ctl.get F.MIR_SIZE_LAST r = size.toNat → ∃ t, exec (.join l region size) s = .next t ∧
        EndsLink s t i (sends (if s.ctl.get F.MIR_STATUS_VALID_COPY r = 0 then 3 else 2)) state s.ctl ∧ t.ctl.mirState r = 2) ∧
      (s.ctl.mirIs r 2 = true → s.ctl.get F.MIR_SIZE_LAST r ≠ size.toNat → s.ctl.Calm 0x0B9 →
        ∃ t, exec (.join l region size) s = .next t ∧ clash t (sends 5)) ∧
      (asks → (∃ t, exec (.accept l region) s = .next t ∧ Ends s t state s.ctl ∧ t.ctl.mirState r = 2) ∧
        ((s.ctl.cellarOk = true → s.ctl.Shelf s.arr r) → ∃ t, exec (.needFull l region) s = .next t ∧
          Dirtied s t r { s.ctl.mir r with dirty := [(0, s.ctl.mirSize r)] } state s.ctl ∧ t.ctl.mirState r = 2) ∧
        (s.ctl.Calm 0x0B9 → ∃ t, exec (.refuse l region) s = .next t ∧ clash t x)) ∧
      (s.ctl.mirIs r 2 = true → s.ctl.mirState r = 2 → ∃ t, exec (.synced l region) s = .next t ∧
        Ends s t (state ++ [(F.MIR_STATUS_VALID_COPY, r), (F.MIR_COUNT_RESYNCS, r)]) s.ctl ∧ t.ctl.mirState r = 1 ∧
        t.ctl.get F.MIR_STATUS_VALID_COPY r = 1 ∧
        t.ctl.get F.MIR_COUNT_RESYNCS r = min (s.ctl.get F.MIR_COUNT_RESYNCS r + 1) (2 ^ F.MIR_COUNT_RESYNCS.width - 1))) ∧
    (s.ctl.mirState r = 0 → ∃ t, exec (.join l region size) s = .next t ∧ EndsLink s t i (sends 5) [] s.ctl)

/-- A PRIMARY region at work (R327, R330): a lagging region is raised; one turn of the walk takes the lowest dirty granule,
whose bit is cleared first, in the cellar too (R329); its last line goes out as one frame with a TAG and ends the granule; with nothing dirty and every
frame answered the region is SYNCED. -/
def Obligations.MirrorResync : Prop :=
  ∀ (s : State) (region : Fin 16) (tag u v : Nat),
    let r := region.val
    let i := s.ctl.get F.MIR_CTRL_LINK r
    let x := s.ctl.lnk i
    let y := s.ctl.mir r
    let works := s.ctl.linkLive i = true ∧ s.ctl.mirIs r 1 = true ∧ s.ctl.mirState r = 2
    let region' := fun (t : State) (z : Mir) => t.ctl.mir r = z ∧ ∀ q, q ≠ r → t.ctl.mir q = s.ctl.mir q
    s.ctl.Quiet →
    (s.ctl.mirIs r 1 = true → s.ctl.get F.MIR_CTRL_LAG r ≠ 0 → s.ctl.lagging r = true → s.ctl.Calm 0x0BA →
      ∃ t, exec (.mirLag region) s = .next t ∧ EndsRaised s t 0x0BA [] s.ctl) ∧
    (works → y.walk = none → y.dirty = [] → (∀ o ∈ x.ops, o.kind ≠ .resync r) → ∃ t, exec (.resyncSend region) s = .next t ∧
      EndsLink s t i { x with tx := x.tx ++ [.ctl (mirCtl r 4)] } [(F.MIR_STATUS_STATE, r), (F.MIR_COUNT_RESYNCS, r)] s.ctl ∧
      t.ctl.mirState r = 1 ∧
      t.ctl.get F.MIR_COUNT_RESYNCS r = min (s.ctl.get F.MIR_COUNT_RESYNCS r + 1) (2 ^ F.MIR_COUNT_RESYNCS.width - 1)) ∧
    (∀ g e more, works → y.walk = none → y.dirty = (g, e) :: more → g < e → s.ctl.freeTag i = none →
      (let addr := (s.ctl.get F.MIR_LBASE_BASE r + g) * 65536
      s.ctl.filling addr = false → s.ctl.dark (s.ctl.place addr).pc = false → (s.ctl.pc (s.ctl.place addr).pc).reset = none →
      (s.ctl.cellarOk = true → s.ctl.Shelf s.arr r) → ∃ t, exec (.resyncSend region) s = .next t ∧
        Dirtied s t r { y with dirty := rangeDel g y.dirty, walk := some (g, 0) } [] s.ctl)) ∧
    (∀ g, works → y.walk = some (g, 1023) → s.ctl.freeTag i = some tag →
      (let off := g * 65536 + 64 * 1023
      let addr := s.ctl.get F.MIR_LBASE_BASE r * 65536 + off
      let there := (s.ctl.get F.MIR_RBASE_RBASE r * 65536 + off) % 2 ^ 37
      let w := s.ctl.wordAt addr
      let w' := s.ctl.wordAt (addr + 32)
      s.ctl.dark (s.ctl.place addr).pc = false → (∀ q, (s.ctl.pc q).reset = none ∧ (s.ctl.pc q).spares = []) →
      Got.ofRaw (s.ctl.capture s.arr w.1 w.2) = .clean u → Got.ofRaw (s.ctl.capture s.arr w'.1 w'.2) = .clean v →
      ∃ t, exec (.resyncSend region) s = .next t ∧
        EndsLink s t i { x with
            ops := x.ops ++ [{ tag := tag, kind := .resync r, addr := there, loc := addr, len := 64, sent := s.ctl.bnd }]
            tx := x.tx ++ [.data (dataHdr 4 tag 2 none 0 r there) [u, v]] } []
          { s.ctl with mirs := t.ctl.mirs, tel := t.ctl.tel } ∧
        region' t { y with walk := none }))

/-- Beats and beacons of a peer (R42, R54 to R57, R288, R331 to R334): a beat of the stack's own origin is ignored, and another is
kept; that moves nothing while the stack runs on its beat input or in free orbit; while the first lock is sought it is an edge of its
link; where the stack borrows from the link it opens the orbit as a marker does. An ID_BEACON shows the peer, restarts its age,
reports a number that differs, and lets a BROKEN PRIMARY region join; where none has come for 256 orbits the link goes DOWN and its regions break; a DIG_BEACON of the own group for the
boundary last sent shows whether the setups agree. -/
def Obligations.Beacons : Prop :=
  ∀ (s : State) (l : Link) (b : Fin 3) (k : BitVec 6) (borrowed : Bool) (hop : BitVec 2) (offset : BitVec 16)
    (origin serial digest : BitVec 64) (orbit boundary : BitVec 48) (ostate : BitVec 3) (nvalid borrowing : Bool)
    (roles : BitVec 32) (group : BitVec 16) (region : Fin 16),
    let i := l.idx
    let r := region.val
    let x := s.ctl.lnk i
    let o := s.ctl.orb
    let bv := if b.val = 0 then some false else if b.val = 1 then some true else none
    let c : Carried := { time := s.ctl.beatTime i offset.toNat, k := k.toNat, val := bv, hop := hop.toNat, origin := origin.toNat }
    let kept := { o with carried := Sparse.put o.carried i ((c :: Sparse.getD o.carried i []).take 3) }
    let beat := Instr.beat l b k borrowed hop offset origin
    let id := Instr.idBeacon l serial orbit ostate nvalid borrowing roles
    let known := fun (t : State) => t.ctl.get F.PL_PEER_ID i = serial.toNat ∧ t.ctl.get F.PL_FAB_STATUS_PEER_VALID i = 1 ∧
      t.ctl.get F.PL_FAB_STATUS_PEER_BORROWS i = b2n borrowing
    let idFlds := [(F.PL_PEER_ID, i), (F.PL_FAB_STATUS_PEER_VALID, i), (F.PL_FAB_STATUS_PEER_BORROWS, i)]
    let agrees := nvalid = true → s.ctl.numValid = true → ∀ n, x.sentOrbit = some n → n = orbit.toNat
    let match_ := if i = 0 then F.CFG_STATUS_MISMATCH0 else F.CFG_STATUS_MISMATCH1
    s.ctl.Quiet → s.ctl.linkLive i = true → x.rx = [] →
    (origin.toNat = s.ctl.serial → ∃ t, exec beat s = .next t ∧ Ends s t [] s.ctl) ∧
    (origin.toNat ≠ s.ctl.serial → (s.ctl.orbState = osLocked ∧ o.source = 0) ∨ s.ctl.orbState = osFree →
      ∃ t, exec beat s = .next t ∧ Ends s t [] { s.ctl with orb := kept }) ∧
    (origin.toNat ≠ s.ctl.serial → o.run = true → s.ctl.sourceOk (i + 1) = true → s.ctl.orbState = osAcquire → o.slew = 0 →
      o.cut = false → Sparse.getD o.runs (i + 1) [] = [] → ∃ t, exec beat s = .next t ∧ Ends s t [] { s.ctl with
        orb := { kept with runs := Sparse.put o.runs (i + 1) [(s.ctl.bnd : Int) * 4096 + s.ctl.offOf c.time] } }) ∧
    (origin.toNat ≠ s.ctl.serial → hop = 3 → o.run = true → s.ctl.orbState = osBorrowed → o.source = i + 1 → o.slew = 0 →
      o.cut = false → o.synced = true → o.seen = false → k ≠ 63 → (s.ctl.offOf c.time).natAbs ≤ 8 →
      ∃ t, exec beat s = .next t ∧ Ends s t [] { s.ctl with
          now := max s.ctl.now c.time, orbitAt := c.time, dies := t.ctl.dies
          orb := { kept with
            hop := 3, origin := origin.toNat, markAt := some c.time, seen := true, missed := 0
            period := (match o.markAt with | some t => if t < c.time then c.time - t else o.period | none => o.period)
            frame := (o.frame ++ [bv]).drop (o.frame.length + 1 - 64) } } ∧
        ∀ d, t.ctl.die d = if d = 0 ∧ (s.ctl.die 0).leadAt.isSome = true ∧ (s.ctl.die 0).catchup = false ∧
          (s.ctl.die 0).ecl = some s.ctl.bnd then { s.ctl.die d with leadAt := some c.time } else s.ctl.die d) ∧
    (agrees → (∀ q < 16, s.ctl.get F.MIR_CTRL_LINK q = i → s.ctl.mirState q = 0) → ∃ t, exec id s = .next t ∧
      EndsLink s t i { x with idAge := 0, idSeen := true, roles := roles.toNat } idFlds s.ctl ∧ known t) ∧
    (∀ n, nvalid = true → s.ctl.numValid = true → x.sentOrbit = some n → n ≠ orbit.toNat → o.source ≠ i + 1 →
      (∀ q < 16, s.ctl.get F.MIR_CTRL_LINK q = i → s.ctl.mirState q = 0) → s.ctl.Calm 0x063 → ∃ t, exec id s = .next t ∧
      EndsLinkRaised s t 0x063 i { x with idAge := 0, idSeen := true, roles := roles.toNat } idFlds s.ctl ∧ known t) ∧
    (agrees → x.idSeen = false → (∀ q < 16, s.ctl.get F.MIR_CTRL_LINK q = i → s.ctl.mirState q = 0 ∨ q = r) →
      s.ctl.get F.MIR_CTRL_LINK r = i → s.ctl.mirIs r 1 = true → s.ctl.mirState r = 3 → (s.ctl.mir r).retry = true →
      ∃ t, exec id s = .next t ∧ Ends s t idFlds { s.ctl with links := t.ctl.links, mirs := t.ctl.mirs } ∧ known t ∧
        t.ctl.lnk i = { x with idAge := 0, idSeen := true, roles := roles.toNat, tx := x.tx ++ [.ctl (mirCtl r 1)] } ∧
        t.ctl.mir r = { s.ctl.mir r with retry := false }) ∧
    (x.idAge < 256 → ∃ t, exec (.idBeaconTimeout l) s = .next t ∧ Ends s t [] s.ctl) ∧
    (256 ≤ x.idAge → s.ctl.Bare i → s.ctl.Calm (plSource i 0x0B0) → ∃ t, exec (.idBeaconTimeout l) s = .next t ∧
      EndsLinkRaised s t (plSource i 0x0B0) i x.afterDown (downFlds i) s.ctl ∧ t.ctl.get F.PL_PHY_STATUS_STATE i = 0) ∧
    (256 ≤ x.idAge → s.ctl.get F.MIR_CTRL_LINK r = i → s.ctl.mirState r = 1 ∨ s.ctl.mirState r = 2 →
      (s.ctl.mir r).walk = none → x.ops = [] →
      (∀ q < 16, s.ctl.get F.MIR_CTRL_LINK q = i → s.ctl.mirState q = 0 ∨ q = r) → s.ctl.Calm (plSource i 0x0B0) →
      s.ctl.Calm 0x0B8 → s.ctl.get F.FLT_LOG_HEAD_TOTAL < 255 → ∃ t, exec (.idBeaconTimeout l) s = .next t ∧
        EndsBut s t (logFields ++ [F.PL_PHY_STATUS_STATE, F.PL_PHY_STATUS_STEP, F.PL_PHY_STATUS_TX_AWAKE,
          F.PL_FAB_STATUS_PEER_VALID, F.MIR_STATUS_STATE, F.MIR_COUNT_BREAKS])
          { s.ctl with links := t.ctl.links, mirs := t.ctl.mirs, held := t.ctl.held } ∧
        t.ctl.mirState r = 3 ∧ t.ctl.get F.PL_PHY_STATUS_STATE i = 0 ∧ t.ctl.pendOf 0x0B8 = true) ∧
    (group.toNat ≠ 0 → group.toNat = s.ctl.get F.CFG_GROUP_GROUP → x.sentDig = some (digest.toNat, boundary.toNat) →
      ∃ t, exec (.digBeacon l group digest boundary) s = .next t ∧ Ends s t [(F.CFG_PEER_DIGEST, i), (match_, 0)] s.ctl ∧
        t.ctl.get F.CFG_PEER_DIGEST i = digest.toNat ∧ t.ctl.get match_ = 0) ∧
    (∀ d, group.toNat ≠ 0 → group.toNat = s.ctl.get F.CFG_GROUP_GROUP → x.sentDig = some (d, boundary.toNat) →
      d ≠ digest.toNat → s.ctl.Calm 0x003 → ∃ t, exec (.digBeacon l group digest boundary) s = .next t ∧
        EndsRaised s t 0x003 [(F.CFG_PEER_DIGEST, i), (match_, 0)] s.ctl ∧
        t.ctl.get F.CFG_PEER_DIGEST i = digest.toNat ∧ t.ctl.get match_ = 1)

/-! ## The service port (chapter 13) -/

/-- The service link and its host (R344, R345, R405, R508): training shows the width and speed and brings the link up, and READY
becomes ACTIVE; a configuration request before READY is answered Retry Status, and then normally; Bus Master Enable lets a held
vector go; the loss of the host returns the link's registers to reset, aborts its rings and is counted with its cause. -/
def Obligations.ServiceLink : Prop :=
  ∀ (s : State) (width : Fin 3) (speed : Fin 5) (q : PcieReq) (reg : BitVec 10) (value : BitVec 32) (on : Bool) (cause : SvcCause)
    (v : Fin 64),
    let x := s.ctl.svc
    let modes : List (Fld × Nat) := [(F.GL_MODE_STATE, 0), (F.GL_MODE_PREV, 0)]
    let up := s.ctl.get F.SVC_STATUS_LINK = 1
    let awake := s.ctl.inMode [.ready, .active, .quarantine] = true ∧ s.ctl.entry = none
    s.ctl.Quiet →
    (s.ctl.inMode [.selftest, .training, .ready, .active, .quarantine] = true → s.ctl.get F.SVC_STATUS_LINK = 0 →
      4 ∉ s.ctl.deadUnits → ∃ t, exec (.serviceLinkTraining width speed) s = .next t ∧
        Ends s t ([(F.SVC_STATUS_PERST, 0), (F.SVC_STATUS_LINK, 0), (F.SVC_STATUS_WIDTH, 0), (F.SVC_STATUS_SPEED, 0)] ++ modes)
          s.ctl ∧
        t.ctl.get F.SVC_STATUS_PERST = 1 ∧ t.ctl.get F.SVC_STATUS_LINK = 1 ∧ t.ctl.get F.SVC_STATUS_WIDTH = 2 ^ width.val ∧
        t.ctl.get F.SVC_STATUS_SPEED = speed.val + 1 ∧
        (s.ctl.inMode [.ready, .active] = true → t.ctl.mode = Mode.active.code)) ∧
    (up → s.ctl.inMode [.selftest, .training] = true → ∃ t, exec (.pcieConfigRequest q) s = .next t ∧ Ends s t [] s.ctl ∧
      t.ctl.out = [.tlpStatus 3]) ∧
    (up → awake →
      (∃ t, exec (.pcieConfigRequest (.read reg)) s = .next t ∧ Ends s t [] s.ctl ∧
        t.ctl.out = [.tlpData [s.ctl.pcieRead reg.toNat] false]) ∧
      (reg ≠ 1 → ∃ t, exec (.pcieConfigRequest (.write reg value)) s = .next t ∧
        Ends s t [] { s.ctl with svc := { x with cfg := Sparse.setD x.cfg reg.toNat value.toNat 0 } }) ∧
      (x.pba = 0 →
        (∃ t, exec (.pcieConfigRequest (.write 1 value)) s = .next t ∧
          Ends s t [(F.SVC_STATUS_BME, 0)] { s.ctl with svc := { x with cfg := Sparse.setD x.cfg 1 value.toNat 0 } } ∧
          t.ctl.get F.SVC_STATUS_BME = b2n (value.getLsbD 2)) ∧
        (∃ t, exec (.pcieConfigRequest (.dState on)) s = .next t ∧ Ends s t [(F.SVC_STATUS_DSTATE, 0)] s.ctl ∧
          t.ctl.get F.SVC_STATUS_DSTATE = if on then 3 else 0) ∧
        (∃ t, exec (.pcieConfigRequest (.msixControl on false)) s = .next t ∧
          Ends s t [] { s.ctl with svc := { x with msixOn := on, msixMask := false } }) ∧
        ∃ t, exec (.busMasterEnable on) s = .next t ∧ Ends s t [(F.SVC_STATUS_BME, 0)] s.ctl ∧
          t.ctl.get F.SVC_STATUS_BME = b2n on) ∧
      (x.pba = 2 ^ v.val → x.msixOn = true → x.msixMask = false → bit (x.tableDw (4 * v.val + 3)) 0 = false →
        s.ctl.get F.SVC_STATUS_DSTATE = 0 → ∃ t, exec (.busMasterEnable true) s = .next t ∧
          Ends s t [(F.SVC_STATUS_BME, 0)] { s.ctl with svc := { x with pba := 0 } } ∧ t.ctl.out = [.msix v.val])) ∧
    (s.ctl.power = .run → up → x.tlps = [] → s.ctl.pcs = [] → s.ctl.owner ≠ 3 →
      (∀ k < 32, (s.ctl.ring (128 + k)).prog = []) → ∃ t, exec (.serviceHostLoss cause) s = .next t ∧
        Ends s t ([(F.SVC_STATUS_DSTATE, 0), (F.SVC_STATUS_BME, 0), (F.SVC_STATUS_WIDTH, 0), (F.SVC_STATUS_SPEED, 0),
            (F.SVC_STATUS_LINK, 0), (F.SVC_STATUS_PERST, 0), (F.SVC_LOSS_CAUSE, 0), (F.SVC_LOSS_COUNT, 0)] ++ modes ++
            (List.range 32).map fun k => (F.RING_STATUS_STATE, 128 + k))
          { s.ctl with svc := { nextPos := x.nextPos }, rings := t.ctl.rings } ∧
        t.ctl.get F.SVC_STATUS_LINK = 0 ∧ t.ctl.get F.SVC_STATUS_BME = 0 ∧ t.ctl.get F.SVC_LOSS_CAUSE = svcCause cause ∧
        t.ctl.get F.SVC_LOSS_COUNT = min (s.ctl.get F.SVC_LOSS_COUNT + 1) (2 ^ F.SVC_LOSS_COUNT.width - 1) ∧
        (∀ k < 32, t.ctl.ringState (128 + k) = if s.ctl.ringState (128 + k) = 0 then 0 else 4) ∧
        (s.ctl.inMode [.active] = true → t.ctl.mode = if t.ctl.anyLink then Mode.active.code else Mode.ready.code))

/-- Memory requests of the service host (R336 to R341): a BAR0 access of one aligned DW reads or writes its register at once,
another form is refused and noted; a BAR2 access inside the window enters one access for each 64 B line, and outside it, in
QUARANTINE, or for no byte at all, ends as PCI Express asks with no access of the array. -/
def Obligations.ServiceAccess : Prop :=
  ∀ (s : State) (offset : BitVec 24) (o : BitVec 30) (be : BitVec 4) (dws len : Nat) (value : BitVec 32) (d : RegDef) (i : Nat)
    (data : List Byte),
    let x := s.ctl.svc
    let plain := d.reg ≠ .SEM_CLAIM ∧ isPairLow d.reg = false ∧ isPairHigh d.reg = false
    let a := s.ctl.windowAddr o.toNat
    let pc := (s.ctl.place a).pc
    let entered := fun (t : State) (op : Nat) (j : Job) (n : Nat) =>
      Ends s t [] ({ s.ctl with svc := { x with
          nextPos := x.nextPos + 1
          tlps := x.tlps ++ ([{ id := x.nextPos, count := 1, wr := op = 2, addr := a, len := n, left := 1 }] : List Tlp)
          reqs := [{ pos := x.nextPos, g := 0, tag := 0, op := op, session := s.ctl.get F.QOS_SVC_LABEL_LABEL, st := .held }] } }.setPc
        pc { s.ctl.pc pc with ingress := (s.ctl.pc pc).ingress ++ [j] })
    let job := fun (acc : Access) (n : Nat) (bytes : List Byte) (en : Nat) =>
      ({ who := .svc x.nextPos, acc := acc, addr := a, len := n, data := bytes, be := en, pos := x.nextPos,
         label := s.ctl.get F.QOS_SVC_LABEL_LABEL, since := s.ctl.now } : Job)
    s.ctl.Quiet → s.ctl.get F.SVC_STATUS_LINK = 1 → s.ctl.get F.SVC_STATUS_DSTATE = 0 → s.ctl.entry = none →
    (s.ctl.inMode [.ready, .active, .quarantine] = true → configGap offset.toNat 4 = false →
      (offset.toNat % 4 = 0 → be ≠ 0 → findReg offset.toNat = some (d, i) → inMsix offset.toNat = false → plain →
        ∃ t, exec (.bar0Read offset be 1) s = .next t ∧
          Ends s t [] { s.ctl with svc := { x with nextPos := x.nextPos + 1 } } ∧
          t.ctl.out = [.tlpData [s.ctl.regValue d i] false]) ∧
      (offset.toNat % 4 = 0 → findReg offset.toNat = some (d, i) → inMsix offset.toNat = false →
        doorbellRing offset.toNat = none → isRing d.reg = false → d.kind = .status →
        ∃ t, exec (.bar0Write offset 15 1 value) s = .next t ∧
          Ends s t (d.parts.map fun q => (q.fld, i * q.mul + q.add)) { s.ctl with svc := { x with nextPos := x.nextPos + 1 } } ∧
          t.ctl.out = []) ∧
      (dws ≠ 1 ∨ offset.toNat % 4 ≠ 0 →
        (∃ t, exec (.bar0Read offset be dws) s = .next t ∧ Ends s t [(F.SVC_ERR_BAR0_FORM, 0)] s.ctl ∧
          t.ctl.get F.SVC_ERR_BAR0_FORM = 1 ∧ t.ctl.out = [.tlpStatus 1]) ∧
        ∃ t, exec (.bar0Write offset be dws value) s = .next t ∧ Ends s t [(F.SVC_ERR_BAR0_FORM, 0)] s.ctl ∧
          t.ctl.get F.SVC_ERR_BAR0_FORM = 1 ∧ t.ctl.out = [.aer 1])) ∧
    (s.ctl.inMode [.ready, .active] = true →
      (1 ≤ len → len ≤ 4096 → s.ctl.windowBytes < o.toNat + len → ∃ t, exec (.bar2Read o len) s = .next t ∧
        Ends s t [] s.ctl ∧ t.ctl.out = [.tlpStatus 1]) ∧
      (∃ t, exec (.bar2Read o 0) s = .next t ∧ Ends s t [] s.ctl ∧ t.ctl.out = [.tlpData [0] false]) ∧
      (1 ≤ len → a % 64 + len ≤ 64 → o.toNat + len ≤ s.ctl.windowBytes → ∃ t, exec (.bar2Read o len) s = .next t ∧
        entered t 0 (job .read len [] 0) len) ∧
      (1 ≤ data.length → a % 64 + data.length ≤ 64 → o.toNat + data.length ≤ s.ctl.windowBytes →
        ∃ t, exec (.bar2Write o data (data.map fun _ => true)) s = .next t ∧
          entered t 2 (job .write data.length data (2 ^ data.length - 1)) data.length) ∧
      (1 ≤ data.length → data.length ≤ 512 → s.ctl.windowBytes ≤ o.toNat →
        ∃ t, exec (.bar2Write o data (data.map fun _ => true)) s = .next t ∧ Ends s t [(F.SVC_ERR_WIN_MISS, 0)] s.ctl ∧
          t.ctl.get F.SVC_ERR_WIN_MISS = 1 ∧ t.ctl.out = [.aer 1]) ∧
      ∃ t, exec (.bar2Write o [] []) s = .next t ∧ Ends s t [] s.ctl ∧ t.ctl.out = []) ∧
    (s.ctl.inMode [.quarantine] = true → len ≤ 4096 → 1 ≤ data.length → data.length ≤ 512 →
      (∃ t, exec (.bar2Read o len) s = .next t ∧ Ends s t [] s.ctl ∧ t.ctl.out = [.tlpStatus 2]) ∧
      ∃ t, exec (.bar2Write o data (data.map fun _ => true)) s = .next t ∧ Ends s t [(F.SVC_ERR_WR_FAIL, 0)] s.ctl ∧
        t.ctl.get F.SVC_ERR_WR_FAIL = 1 ∧ t.ctl.out = [.aer 2])

/-! ## Power (chapters 15 and 22) -/

/-- Current, rails, supplies and `RESET_N` (R374, R376, R392, R393, R432, R495, R496): a measurement is shown, and paces above
95 % of I_now; the sixteenth above I_now in a row is raised; a rail fault, a lost supply or `RESET_N` low is a chip reset with
its cause; supplies in range and `RESET_N` high let the stack leave POWERED, where the orbit begins with the hot states that
stand (R403, R505); `VFUSE` is shown, and a word under way goes on with
the pump. -/
def Obligations.PowerEvents : Prop :=
  ∀ (s : State) (quarterAmps : Nat) (rail : Rail) (ok : Bool),
    let lim := s.ctl.iNow
    let share := if 95 * lim < 100 * quarterAmps then (Config.paceShare quarterAmps lim).toNat else 0
    let shown := [(F.PWR_STATUS_IMEAS, 0), (F.PWR_STATUS_PACING, 0)]
    let shows := fun (t : State) => t.ctl.get F.PWR_STATUS_IMEAS = min quarterAmps 255 ∧
      t.ctl.get F.PWR_STATUS_PACING = b2n (decide (95 * lim < 100 * quarterAmps))
    let bare := s.ctl.pcs = [] ∧ s.ctl.fuseOp = none ∧ s.ctl.inMode [.factory] = false ∧ s.ctl.get F.FLT_LOG_HEAD_HEAD < 256
    let leaves := s.ctl.inMode [.powered] = true ∧ s.ctl.get F.CLK_STATUS_XTAL_GOOD = 1
    let started := fun (t : State) (m : Ctl) => Ends s t [(F.GL_MODE_STATE, 0), (F.GL_MODE_PREV, 0), (F.ORB_HOTMAP_HOT, 0),
        (F.CFG_STATUS_DIGEST_BUSY, 0)]
      { m with orbitAt := s.ctl.now, orb := { run := true }, digestNew := t.ctl.digestNew } ∧ t.ctl.mode = Mode.fuseload.code ∧
      t.ctl.get F.ORB_HOTMAP_HOT = s.ctl.get F.THM_HOT_HOT % 65536 ∧ t.ctl.get F.CFG_STATUS_DIGEST_BUSY = 1
    let gone := 0xFFFF ||| s.ctl.get F.PWR_FILL_DIES
    s.ctl.Quiet → s.ctl.power = .run →
    (s.ctl.vinBad = false → quarterAmps ≤ lim → ∃ t, exec (.vinCurrentMeasurement quarterAmps) s = .next t ∧
      Ends s t shown { s.ctl with pace := share, overs := 0 } ∧ shows t) ∧
    (s.ctl.vinBad = false → lim < quarterAmps → s.ctl.overs < 15 → ∃ t, exec (.vinCurrentMeasurement quarterAmps) s = .next t ∧
      Ends s t shown { s.ctl with pace := share, overs := s.ctl.overs + 1 } ∧ shows t) ∧
    (s.ctl.vinBad = false → lim < quarterAmps → s.ctl.overs = 15 → s.ctl.Calm 0x021 →
      ∃ t, exec (.vinCurrentMeasurement quarterAmps) s = .next t ∧
        EndsRaised s t 0x021 shown { s.ctl with pace := share, overs := 16 } ∧ shows t) ∧
    (bare → s.ctl.railOn rail = true → ∃ t, exec (.railFault rail) s = .next t ∧ FromChipReset s t 6 logFields ∧
      t.ctl.pendOf 0x020 = true ∧ (rail = .varray → t.ctl.lost = gone)) ∧
    (bare → s.ctl.vinBad = false → ∃ t, exec (.supplyOutOfRange .vin) s = .next t ∧ FromChipReset s t 6 logFields ∧
      t.ctl.pendOf 0x020 = true ∧ t.ctl.vinBad = true ∧ t.ctl.lost = gone) ∧
    (bare → s.ctl.vinBad = false → s.ctl.vphyBad = false → ∃ t, exec (.supplyOutOfRange .vphy) s = .next t ∧
      FromChipReset s t 6 logFields ∧ t.ctl.pendOf 0x020 = true ∧ t.ctl.vphyBad = true) ∧
    (bare → s.ctl.inMode [.drowse, .hibernate, .crescent] = false → s.ctl.resetLow = false →
      ∃ t, exec .resetNLow s = .next t ∧ FromChipReset s t 1 ∧ t.ctl.resetLow = true) ∧
    (leaves → s.ctl.resetLow = false → ∃ t, exec .supplyRecovery s = .next t ∧
      started t { s.ctl with vinBad := false, vphyBad := false }) ∧
    (¬ leaves → ∃ t, exec .supplyRecovery s = .next t ∧ Ends s t [] { s.ctl with vinBad := false, vphyBad := false }) ∧
    (leaves → s.ctl.vinBad = false → s.ctl.vphyBad = false → ∃ t, exec .resetNRise s = .next t ∧
      started t { s.ctl with resetLow := false }) ∧
    (¬ leaves → ∃ t, exec .resetNRise s = .next t ∧ Ends s t [] { s.ctl with resetLow := false }) ∧
    ∃ t, exec (.vfuseChange ok) s = .next t ∧ Ends s t [(F.FUSE_STATUS_VFUSE_OK, 0), (F.FUSE_STATUS_PUMP, 0)] s.ctl ∧
      t.ctl.get F.FUSE_STATUS_VFUSE_OK = b2n ok ∧
      t.ctl.get F.FUSE_STATUS_PUMP = if s.ctl.fuseOp.isSome = true ∧ ok = false then 1 else s.ctl.get F.FUSE_STATUS_PUMP

/-- The entry handshake and DROWSE (R378 to R383, R389): the idle period starts it; a block whose condition holds is taken as
accepting, one that asks for a delay is waited for once, and a refusal, a delay that ran out or a wake ends it with its reason;
when every block asked has accepted the stack is in DROWSE, and a wake leaves it. -/
def Obligations.EntryHandshake : Prop :=
  ∀ (s : State) (e : EntryReq) (b : EntryBlock) (n : Fin 64) (src : WakeSource) (fx : SenseFx)
    (tsv : TsvTrain) (noise : Noise),
    let asks := b ∈ asked e.target ∧ b ∉ e.accepted
    let refusal := [(F.PWR_REFUSE_BLOCK, 0), (F.PWR_REFUSE_REASON, 0), (F.PWR_REFUSE_TARGET, 0), (F.PWR_REFUSE_COUNT, 0)]
    let refused := fun (t : State) (block reason : Nat) =>
      Ends s t refusal { s.ctl with entry := none, idle := 0 } ∧ t.ctl.get F.PWR_REFUSE_BLOCK = block ∧
      t.ctl.get F.PWR_REFUSE_REASON = reason ∧ t.ctl.get F.PWR_REFUSE_TARGET = e.target % 2 ^ F.PWR_REFUSE_TARGET.width ∧
      t.ctl.get F.PWR_REFUSE_COUNT = min (s.ctl.get F.PWR_REFUSE_COUNT + 1) (2 ^ F.PWR_REFUSE_COUNT.width - 1)
    s.ctl.Quiet →
    (s.ctl.entry = none → s.ctl.inMode [.ready, .active] = true → s.ctl.get F.PWR_CFG_DROWSE_IDLE ≠ 0 →
      s.ctl.get F.PWR_CFG_DROWSE_IDLE ≤ s.ctl.idle → ∃ t, exec .drowseIdle s = .next t ∧
        Ends s t [] { s.ctl with entry := some { target := 1 } }) ∧
    (s.ctl.entry = some e →
      (asks → s.ctl.blockReady e.keep b = true → ∃ t, exec (.entryAnswer b .accept) s = .next t ∧
        Ends s t [] { s.ctl with entry := some { e with
          accepted := e.accepted ++ [b], delayed := e.delayed.filter fun q => q != b } }) ∧
      (asks → b ∉ e.delayed → ∃ t, exec (.entryAnswer b (.delay n)) s = .next t ∧
        Ends s t [] { s.ctl with entry := some { e with delayed := e.delayed ++ [b] } }) ∧
      (asks → s.ctl.blockReady e.keep b = false → e.desc = none → ∃ t, exec (.entryAnswer b .refuse) s = .next t ∧
        refused t (blockCode b) (if b = .cfg ∨ b = .mir then 3 else 0)) ∧
      (e.desc = none → ∃ t, exec (.entryAnswer b .abandonWake) s = .next t ∧ refused t 10 1) ∧
      (b ∈ e.delayed → e.desc = none → ∃ t, exec (.entryDelayExpiry b) s = .next t ∧ refused t (blockCode b) 0) ∧
      (e.desc = none → s.ctl.inMode [.ready, .active] = true → src ≠ .resetN →
        ∃ t, exec (.wakeEvent src fx tsv noise) s = .next t ∧ refused t 10 1) ∧
      (s.ctl.inMode [.ready, .active] = true → e.target = 1 → (∀ q ∈ asked 1, q ∈ e.accepted) →
        ∃ t, exec .drowseEntry s = .next t ∧
          Ends s t [(F.GL_MODE_STATE, 0), (F.GL_MODE_PREV, 0)] ({ s.ctl with entry := none, idle := 0 } : Ctl).gateIdle ∧
          t.ctl.mode = Mode.drowse.code)) ∧
    (s.ctl.inMode [.drowse] = true → src = .service ∨ src = .pl0 ∨ src = .pl1 →
      ∃ t, exec (.wakeEvent src fx tsv noise) s = .next t ∧
        Ends s t [(F.WAKE_SOURCE_SOURCE, 0), (F.WAKE_SOURCE_FROM, 0), (F.WAKE_SOURCE_COUNT, 0), (F.GL_MODE_STATE, 0),
            (F.GL_MODE_PREV, 0)] { s.ctl with clk := { s.ctl.clk with gated := [], asked := [] }, idle := 0 } ∧
        t.ctl.get F.WAKE_SOURCE_SOURCE = wakeCode src ∧ t.ctl.get F.WAKE_SOURCE_FROM = Mode.drowse.code ∧
        t.ctl.mode = if s.ctl.anyLink then Mode.active.code else Mode.ready.code)

/-- Sleep (R3, R20, R62, R219, R384 to R389, R394 to R399): an entry with nothing in the channels saves the session table to the
cellar, one little-endian word a context, and the CRC of the image, keeps what R395 keeps and remembers the number of its orbit; a
wake from CRESCENT restores a table whose words can be read and agree with the CRC, and reports one that does not; it shows the wake,
leaves the host ports DOWN for full training (R102) and the peer links too (R309), returns the credit clock to XTAL where its windows
have been clean (R359) and marks the dies that were not kept for fill; a fill leaves every byte of its
die 0. -/
def Obligations.Sleep : Prop :=
  ∀ (s : State) (e : EntryReq) (fx : SenseFx) (word : Nat → Nat) (d : Fin 16),
    let asleep := fun (t : State) (mode : Mode) (keep : Nat) =>
      t.pending = s.pending ∧ (∀ x, imageRow (x / 1152) = false → t.arr.byte x = s.arr.byte x) ∧
      (∀ n < 262144, s.ctl.dark (cellarPlace (32 * n)).pc = false → t.ctl.cellarGet t.arr (32 * n) = some (s.ctl.ctxWord n)) ∧
      t.ctl.image = some (imageCrc (s.ctl.ctxListed.map fun n => (n, s.ctl.ctxWord n))) ∧
      t.ctl.mode = mode.code ∧ t.ctl.get F.GL_MODE_PREV = s.ctl.mode ∧
      t.ctl.get F.ORB_SLEEP_AT = s.ctl.orbit % 2 ^ 48 ∧ t.ctl.get F.CLK_STATUS_RS_SRC = 1 ∧ t.ctl.entry = none ∧ t.ctl.orb.run = false ∧
      (∀ f ∈ fldList, f.kept ≠ .lowPower → f.id ∉ [F.GL_MODE_STATE, F.GL_MODE_PREV, F.ORB_SLEEP_AT, F.PWR_KEEP_DIES,
          F.CLK_STATUS_RS_SRC, F.FLT_STATUS_FAULTN].map Fld.id → isSesKey (f.id * 1048576) = false → ∀ i < 1048576, t.ctl.get f i = s.ctl.get f i) ∧
      (∀ f ∈ fldList, f.kept = .lowPower → f.id ≠ F.FLT_STATUS_FAULTN.id → ∀ i < 1048576, t.ctl.get f i = f.reset i) ∧
      (∀ k < 16, (t.ctl.die k).row = (s.ctl.die k).row ∧
        (t.ctl.die k).debt = if bit keep k then (s.ctl.die k).debt else 0) ∧
      t.ctl.rings = s.ctl.rings ∧ t.ctl.fuse = s.ctl.fuse ∧ t.ctl.rmap = s.ctl.rmap ∧ t.ctl.acts = s.ctl.acts
    let wholeDie := 64 * 16 * 8272 * 1152
    let keep := s.ctl.get F.PWR_KEEP_DIES
    let stored := s.ctl.ctxTouched s.arr
    let session := fldList.filter fun f => isSesKey (f.id * 1048576)
    let awake := fun (t : State) (l : List Fld) (held : List (Raised × Option Nat)) =>
      EndsBut s t ([F.WAKE_SOURCE_SOURCE, F.WAKE_SOURCE_FROM, F.WAKE_SOURCE_COUNT, F.ORB_STATUS_NUMBER_VALID,
          F.ORB_STATUS_PHASE_LOCKED, F.ORB_STATUS_STATE, F.ORB_HOTMAP_HOT, F.RETAIN_STATUS_SES, F.RETAIN_STATUS_DIES,
          F.RETAIN_STATUS_RETAINED, F.RETAIN_STATUS_EVENT, F.RETAIN_STATUS_FILLING, F.PWR_FILL_DIES, F.GL_MODE_STATE,
          F.GL_MODE_PREV, F.PA_STATUS_GROUPS, F.PA_STATUS_RATE, F.PA_STATUS_LINK, F.PA_SIDEBAND_PARTNER_IDLE, F.CLK_STATUS_RS_SRC,
          F.PL_PHY_STATUS_STATE, F.PL_PHY_STATUS_STEP, F.PL_PHY_STATUS_TX_AWAKE, F.PL_FAB_STATUS_PEER_VALID] ++ l)
        { s.ctl with
          orbitAt := s.ctl.now
          orb := { sourceAt := s.ctl.orb.sourceAt, source := s.ctl.orb.source, run := true, first := true
                   wakeBnd := some s.ctl.bnd }
          image := none, dies := t.ctl.dies, lost := 0, lease := if s.ctl.owner = 0 then 0 else s.ctl.leaseLen
          pa := t.ctl.pa, pb := t.ctl.pb, links := t.ctl.links, held := held } ∧
      (∀ k < 2, if s.ctl.plUp k then t.ctl.get F.PL_PHY_STATUS_STATE k = 0 ∧ t.ctl.lnk k = (s.ctl.lnk k).afterDown
        else t.ctl.get F.PL_PHY_STATUS_STATE k = s.ctl.get F.PL_PHY_STATUS_STATE k ∧ t.ctl.lnk k = s.ctl.lnk k) ∧
      t.ctl.get F.CLK_STATUS_RS_SRC = (if 256 ≤ s.ctl.clk.cleans ∧ s.ctl.get F.CLK_STATUS_XTAL_GOOD = 1 then 0
        else s.ctl.get F.CLK_STATUS_RS_SRC) ∧
      t.ctl.get F.WAKE_SOURCE_SOURCE = 5 ∧ t.ctl.get F.WAKE_SOURCE_FROM = Mode.crescent.code ∧
      t.ctl.get F.RETAIN_STATUS_EVENT = 3 ∧
      t.ctl.get F.PWR_FILL_DIES = (s.ctl.get F.PWR_FILL_DIES ||| (0xFFFF ^^^ keep)) % 65536 ∧
      (∀ k < 16, t.ctl.die k = if bit keep k then s.ctl.die k else { s.ctl.die k with debt := 0 }) ∧
      (∀ p : Port, if s.ctl.linkUp p then t.ctl.link p = 0 ∧ t.ctl.get F.PA_STATUS_GROUPS p.idx = 0 ∧
          t.ctl.port p = { s.ctl.port p with grps := [], switching := [], periodAt := none }
        else t.ctl.port p = s.ctl.port p ∧ t.ctl.link p = s.ctl.link p) ∧
      t.ctl.mode = if t.ctl.anyLink then Mode.active.code else Mode.ready.code
    s.ctl.Quiet →
    (s.ctl.entry = some e → e.desc = none → s.ctl.inMode [.ready, .active] = true → s.ctl.pcs = [] → s.ctl.slices = [] →
      s.ctl.rmap = [] → Memory.wf s.arr = true →
      (e.target = 2 → (∀ q ∈ asked 2, q ∈ e.accepted) → ∃ t, exec .hibernateEntry s = .next t ∧
        asleep t .hibernate 0xFFFF ∧ t.ctl.lost = 0) ∧
      (e.target = 3 → (∀ q ∈ asked 3, q ∈ e.accepted) → ∃ t, exec .crescentEntry s = .next t ∧
        (let keep := e.keep % 65536 ||| 1
        asleep t .crescent keep ∧ t.ctl.get F.PWR_KEEP_DIES = keep ∧ t.ctl.lost = 0xFFFF ^^^ keep))) ∧
    (s.ctl.inMode [.crescent] = true → s.ctl.wakeHeld = none → s.ctl.get F.PWR_FILL_DIES < 65536 →
      (∀ f ∈ s.ctl.flds, isSesKey f.1 = false) → (∀ k < 2, s.ctl.plUp k = true → s.ctl.Bare k) →
      ((∀ p < 64, s.ctl.dark p = false) → (∀ n ∈ stored, s.ctl.cellarGet s.arr (32 * n) = some (word n)) →
        s.ctl.image = some (imageCrc (stored.map fun n => (n, word n))) →
        ∃ t, exec (.wakeEvent .service fx ⟨[], []⟩ []) s = .next t ∧ awake t session s.ctl.held ∧ t.ctl.get F.RETAIN_STATUS_SES = 1 ∧
          ∀ n < 262144, ∀ q ∈ ctxRegs.zipIdx, ∀ p ∈ q.1.parts, p.fld.id ≠ F.SES_STAT_MEAS.id → p.fld.id ≠ F.SES_STAT_MEAS_VALID.id →
            t.ctl.get p.fld (n * p.mul + p.add) =
              bits (bits (if n ∈ stored then word n else ctxReset) (32 * q.2) 32) p.lo (p.hi - p.lo + 1) % 2 ^ p.fld.width) ∧
      ((∃ n ∈ stored, s.ctl.cellarGet s.arr (32 * n) = none) → s.ctl.Calm 0x022 →
        ∃ t, exec (.wakeEvent .service fx ⟨[], []⟩ []) s = .next t ∧ awake t logFields t.ctl.held ∧ t.ctl.get F.RETAIN_STATUS_SES = 3 ∧
          t.ctl.pendOf 0x022 = true)) ∧
    (s.ctl.inMode [.ready, .active, .drowse] = true → bit (s.ctl.get F.PWR_FILL_DIES) d.val = true →
      (∀ k < d.val, bit (s.ctl.get F.PWR_FILL_DIES) k = false) → ∃ t, exec .dieFill s = .next t ∧
        Leaves s t [(F.PWR_FILL_DIES, 0), (F.RETAIN_STATUS_FILLING, 0)]
          { s.ctl with pcs := t.ctl.pcs, cellarOk := if d = 0 then true else s.ctl.cellarOk } ∧
        bit (t.ctl.get F.PWR_FILL_DIES) d.val = false ∧
        s.arr.SameBut t.arr [(d.val * wholeDie, wholeDie)] ∧
        ∀ x, d.val * wholeDie ≤ x → x < (d.val + 1) * wholeDie → t.arr.byte x = 0)

/-! ## Self-test, calibration and JTAG (chapter 19) -/

/-- Field slices and calibration (R450 to R454, R458, R459): a slice comes due in the rotation, begins in a transit and is
shown, and its end is counted; a failed march leaves the stack a spare fewer and is raised; an agreeing pair of measurements
aims a trim within its converter's range, and a pair that does not agree is counted and changes no trim. -/
def Obligations.FieldSlices : Prop :=
  ∀ (s : State) (z : Slice) (found : List SliceFind) (k : TrimKind) (i : Nat) (a b : Int),
    let pc := s.ctl.sliceNo % 64
    let g := s.ctl.sliceNo / 64 % 6
    let cur : List (Fld × Nat) := [(F.BIST_FIELD_CUR_ACTIVE, 0), (F.BIST_FIELD_CUR_KIND, 0), (F.BIST_FIELD_CUR_PC, 0),
      (F.BIST_FIELD_CUR_DIE, 0), (F.BIST_FIELD_CUR_BANK, 0), (F.BIST_FIELD_CUR_GROUP, 0), (F.BIST_FIELD_CUR_ROW, 0)]
    let bump := fun (f : Fld) (t : State) => t.ctl.get f = min (s.ctl.get f + 1) (2 ^ f.width - 1)
    let tc := trimCode k
    let trim := s.ctl.trim tc i
    let v := pairMean trim.cur a b
    let sets := fun (x : Trim) => { s.ctl with trims := Sparse.put s.ctl.trims (trimKey tc i) x }
    let aimed := fun (w : Int) => sets { trim with target := w, bads := 0, held := false }
    s.ctl.Quiet → s.ctl.inMode [.ready, .active, .drowse] = true →
    (s.ctl.get F.BIST_CFG_BUDGET ≠ 0 → s.ctl.sliceBnd + 2 ^ s.ctl.get F.BIST_CFG_INTERVAL ≤ s.ctl.bnd → s.ctl.dark pc = false →
      g < 4 → s.ctl.groupUsed pc g = true → ∃ t, exec .fieldSliceDue s = .next t ∧
        Ends s t [] { s.ctl with sliceNo := s.ctl.sliceNo + 1, sliceBnd := s.ctl.bnd, sliceDue := s.ctl.sliceDue ++
          [{ kind := 1, pc := pc, group := g, budget := min 64 (s.ctl.get F.BIST_CFG_BUDGET) }] }) ∧
    (s.ctl.get F.BIST_CFG_BUDGET ≠ 0 → s.ctl.entry = none → s.ctl.sliceDue = [z] → s.ctl.dark z.pc = false →
      s.ctl.mayBegin z = true → ∃ t, exec .sliceBegin s = .next t ∧
        Ends s t cur { s.ctl with sliceDue := [], slices := s.ctl.slices ++ [z] } ∧ t.ctl.get F.BIST_FIELD_CUR_ACTIVE = 1 ∧
        t.ctl.get F.BIST_FIELD_CUR_KIND = z.kind % 2 ^ F.BIST_FIELD_CUR_KIND.width ∧
        t.ctl.get F.BIST_FIELD_CUR_PC = z.pc % 2 ^ F.BIST_FIELD_CUR_PC.width) ∧
    (s.ctl.slices = [z] → z.desc = none → z.kind = 1 ∨ z.kind = 3 → found ≠ [] → (∀ f ∈ found, f = .pass) →
      ∃ t, exec (.sliceEnd found) s = .next t ∧
        Ends s t [(F.BIST_FIELD_COUNT_SLICES, 0), (F.BIST_FIELD_CUR_ACTIVE, 0)] { s.ctl with slices := [] } ∧
        bump F.BIST_FIELD_COUNT_SLICES t ∧ t.ctl.get F.BIST_FIELD_CUR_ACTIVE = 0) ∧
    (s.ctl.slices = [z] → z.desc = none → z.kind = 2 → z.pc < 64 → z.die < 16 → z.bank < 16 → z.row < 16 →
      s.ctl.Calm 0x072 → ∃ t, exec (.sliceEnd [.fail]) s = .next t ∧
        (let row := rowIx z.pc (z.die * 16 + z.bank) (8192 + z.row)
        Leaves s t (s.ctl.logFlds 0x072 ++ [(F.BIST_FIELD_COUNT_SLICES, 0), (F.BIST_FIELD_COUNT_FAILS, 0),
            (F.BIST_FIELD_CUR_ACTIVE, 0)])
          { s.ctl with slices := [], march := t.ctl.march, deadSpares := s.ctl.deadSpares ++
              [{ pc := z.pc, bank := z.die * 16 + z.bank, spare := z.row }] } ∧
        t.ctl.pendOf 0x072 = true ∧ bump F.BIST_FIELD_COUNT_SLICES t ∧ bump F.BIST_FIELD_COUNT_FAILS t ∧
        s.arr.SameBut t.arr [(row * 1152, 1152)] ∧ ∀ x, row * 1152 ≤ x → x < (row + 1) * 1152 → t.arr.byte x = 0)) ∧
    (s.ctl.get F.CAL_CFG_EN = 1 → s.ctl.trimBusy tc i = false → k ≠ .tsvDelay → i < trimCount tc →
      (s.ctl.agree a b = true → ∀ lo hi, trimRange tc = some (lo, hi) →
        (lo ≤ v → v ≤ hi → ∃ t, exec (.calMeasurement k i a b) s = .next t ∧ Ends s t [] (aimed v)) ∧
        (hi < v → s.ctl.Calm 0x075 → ∃ t, exec (.calMeasurement k i a b) s = .next t ∧
          EndsRaised s t 0x075 [(F.CAL_STATUS_CLAMPS, 0)] (aimed hi) ∧ bump F.CAL_STATUS_CLAMPS t)) ∧
      (s.ctl.agree a b = false → trim.bads < 15 → ∃ t, exec (.calMeasurement k i a b) s = .next t ∧
        Ends s t [(F.CAL_STATUS_DISAGREE, 0)] (sets { trim with bads := trim.bads + 1 }) ∧ bump F.CAL_STATUS_DISAGREE t) ∧
      (s.ctl.agree a b = false → trim.bads = 15 → s.ctl.Calm 0x074 → ∃ t, exec (.calMeasurement k i a b) s = .next t ∧
        EndsRaised s t 0x074 [(F.CAL_STATUS_DISAGREE, 0), (F.CAL_STATUS_UNSTABLE, 0)]
          (sets { trim with bads := 16, held := true, target := trim.cur }) ∧
        bump F.CAL_STATUS_UNSTABLE t))

/-- JTAG and the factory (R431, R456, R457, R472): an instruction is answered and clears a latched factory request; the request
is latched, and starts the wipe in SELFTEST; outside FACTORY its instructions act as BYPASS, and inside a fuse bit is programmed
and a fault injected. The end of a factory wipe (R457): session contexts, port traffic, page-code entries, PC queues, curd
buffers and prefetched descriptors are gone, every byte of the array is 0, and the stack is in FACTORY. -/
def Obligations.Factory : Prop :=
  (∀ (s : State) (word : Fin 1024) (bit : Fin 64) (source : BitVec 9),
    let later := { s.ctl with factoryReq := if s.ctl.get F.BIST_STATUS_WIPING = 0 then false else s.ctl.factoryReq }
    let bypassed := fun (t : State) => Ends s t [] later ∧ t.ctl.out = [.jtag 0 1]
    let w := fuseAt s.ctl.fuse word.val
    s.ctl.Quiet → s.ctl.power = .run →
    (∃ t, exec .bypass s = .next t ∧ bypassed t) ∧
    (∃ t, exec .idcode s = .next t ∧ Ends s t [] later ∧ t.ctl.out = [.jtag (Config.idcodeOf (s.ctl.fuseBits 0)
      (s.ctl.fuseBits 1) (s.ctl.fuseBits 2) (s.ctl.fuseBits 3)).toNat 32]) ∧
    (s.ctl.inMode [.factory] = false →
      (∃ t, exec .factoryReq s = .next t ∧ Ends s t [(F.BIST_STATUS_WIPING, 0)] { s.ctl with factoryReq := true } ∧
        (s.ctl.inMode [.selftest] = true → t.ctl.get F.BIST_STATUS_WIPING = 1)) ∧
      (∃ t, exec (.fuseBitProgram word bit) s = .next t ∧ bypassed t) ∧
      ∃ t, exec (.jtagInject source) s = .next t ∧ bypassed t) ∧
    (s.ctl.inMode [.factory] = true →
      (s.ctl.fuseBitSet word.val bit.val = false → ∃ t, exec (.fuseBitProgram word bit) s = .next t ∧
        Ends s t [] { s.ctl with fuse := Sparse.put s.ctl.fuse word.val { w with extra := w.extra ++ [bit.val] } }) ∧
      (sources.contains source.toNat = true → s.ctl.Calm source.toNat → ∃ t, exec (.jtagInject source) s = .next t ∧
        EndsRaised s t source.toNat [] s.ctl))) ∧
  (∀ s : State, s.ctl.Quiet → s.ctl.inMode [.selftest] = true → s.ctl.get F.BIST_STATUS_WIPING = 1 →
    ∃ t, exec .wipeComplete s = .next t ∧ t.pending = s.pending ∧ t.ctl.mode = Mode.factory.code ∧
      t.ctl.get F.BIST_STATUS_WIPING = 0 ∧ t.ctl.factoryReq = false ∧
      (∀ a < 16 * 64 * 16 * 8272 * 1152, t.arr.byte a = 0) ∧
      (∀ x < 262144, t.ctl.get F.SES_ACT0_BASE x = F.SES_ACT0_BASE.reset x ∧
        t.ctl.get F.SES_EVENTS_REFUSED x = F.SES_EVENTS_REFUSED.reset x) ∧
      t.ctl.sesPend = [] ∧ t.ctl.pa = {} ∧ t.ctl.pb = {} ∧
      (∀ p, (t.ctl.pc p).banks = [] ∧ (t.ctl.pc p).queue = [] ∧ (t.ctl.pc p).ingress = [] ∧ (t.ctl.pc p).curd = []) ∧
      (∀ r, (t.ctl.ring r).pre = []) ∧ t.ctl.fuse = s.ctl.fuse ∧ t.ctl.rmap = s.ctl.rmap)
end

