-- ==== Sys2Proof/Laws/Sparse.lean ====
section
/-!
SUPPORT. The laws of sparse tables: what a key reads as after each operation, and that every operation keeps the canonical
form. None of the reading laws needs the canonical form.
-/

namespace Sys2Proof

variable {α : Type}

@[simp] theorem Sparse.find_nil (k : Nat) : Sparse.find ([] : Sparse α) k = none := rfl

@[simp] theorem Sparse.getD_nil (k : Nat) (d : α) : Sparse.getD ([] : Sparse α) k d = d := rfl

/-- A key that was put reads as what was put. -/
@[simp] theorem Sparse.find_put_same (t : Sparse α) (k : Nat) (v : α) : Sparse.find (Sparse.put t k v) k = some v := by
  induction t with
  | nil => simp [Sparse.put, Sparse.find]
  | cons e r ih =>
    simp only [Sparse.put]
    split
    · simp [Sparse.find]
    · split
      · simp [Sparse.find]
      · simp [Sparse.find, ih]; omega

/-- A put leaves every other key as it was. -/
theorem Sparse.find_put_other (t : Sparse α) (k j : Nat) (v : α) (h : j ≠ k) :
    Sparse.find (Sparse.put t k v) j = Sparse.find t j := by
  induction t with
  | nil => simp [Sparse.put, Sparse.find, Ne.symm h]
  | cons e r ih =>
    simp only [Sparse.put]
    split
    · simp [Sparse.find, Ne.symm h]
    · split
      · next hk => subst hk; simp [Sparse.find, Ne.symm h]
      · simp [Sparse.find, ih]

/-- A filter by key keeps what the test admits. -/
theorem Sparse.find_filter (t : Sparse α) (f : Nat → Bool) (k : Nat) :
    Sparse.find (t.filter fun e => f e.1) k = if f k then Sparse.find t k else none := by
  induction t with
  | nil => simp
  | cons e r ih =>
    by_cases hf : f e.1 = true
    · by_cases hk : e.1 = k
      · subst hk; simp [List.filter, hf, Sparse.find]
      · simp [List.filter, hf, Sparse.find, hk, ih]
    · by_cases hk : e.1 = k
      · subst hk; simp [List.filter, hf, ih]
      · simp [List.filter, hf, Sparse.find, hk, ih]

/-- A deleted key is not listed. -/
@[simp] theorem Sparse.find_del_same (t : Sparse α) (k : Nat) : Sparse.find (Sparse.del t k) k = none := by
  unfold Sparse.del; rw [Sparse.find_filter t (fun j => j != k)]; simp

/-- A delete leaves every other key as it was. -/
theorem Sparse.find_del_other (t : Sparse α) (k j : Nat) (h : j ≠ k) :
    Sparse.find (Sparse.del t k) j = Sparse.find t j := by
  unfold Sparse.del; rw [Sparse.find_filter t (fun j => j != k)]; simp [h]

/-- A key that was set reads as what was set. -/
@[simp] theorem Sparse.getD_setD_same [DecidableEq α] (t : Sparse α) (k : Nat) (v d : α) :
    Sparse.getD (Sparse.setD t k v d) k d = v := by
  by_cases h : v = d
  · subst h; simp [Sparse.setD, Sparse.getD]
  · simp [Sparse.setD, Sparse.getD, h]

/-- Setting a key leaves every other key as it was. -/
theorem Sparse.find_setD_other [DecidableEq α] (t : Sparse α) (k j : Nat) (v d : α) (h : j ≠ k) :
    Sparse.find (Sparse.setD t k v d) j = Sparse.find t j := by
  by_cases hv : v = d
  · simp [Sparse.setD, hv, Sparse.find_del_other _ _ _ h]
  · simp [Sparse.setD, hv, Sparse.find_put_other _ _ _ _ h]

theorem Sparse.getD_setD_other [DecidableEq α] (t : Sparse α) (k j : Nat) (v d x : α) (h : j ≠ k) :
    Sparse.getD (Sparse.setD t k v d) j x = Sparse.getD t j x := by
  simp [Sparse.getD, Sparse.find_setD_other _ _ _ _ _ h]

/-! ## The canonical form -/

/-- Rising keys, said over all pairs. -/
theorem Sparse.rising_iff (t : Sparse α) : Sparse.rising t = true ↔ t.Pairwise fun x y => x.1 < y.1 := by
  induction t with
  | nil => simp [Sparse.rising]
  | cons e r ih =>
    cases r with
    | nil => simp [Sparse.rising]
    | cons e' r' =>
      simp only [Sparse.rising, Bool.and_eq_true, decide_eq_true_eq] at ih ⊢
      constructor
      · rintro ⟨h1, h2⟩
        have hp := ih.mp h2
        refine List.Pairwise.cons ?_ hp
        intro x hx
        rcases List.mem_cons.mp hx with rfl | hx
        · exact h1
        · exact Nat.lt_trans h1 ((List.pairwise_cons.mp hp).1 x hx)
      · intro h
        have := List.pairwise_cons.mp h
        exact ⟨this.1 e' (by simp), ih.mpr this.2⟩

/-- What a put lists is what was put or was listed before. -/
theorem Sparse.mem_put {t : Sparse α} {k : Nat} {v : α} {e : Nat × α} (h : e ∈ Sparse.put t k v) :
    e = (k, v) ∨ e ∈ t := by
  induction t with
  | nil => simpa [Sparse.put] using h
  | cons x r ih =>
    simp only [Sparse.put] at h
    split at h
    · rcases List.mem_cons.mp h with h | h <;> simp_all
    · split at h
      · rcases List.mem_cons.mp h with h | h <;> simp_all
      · rcases List.mem_cons.mp h with h | h
        · simp [h]
        · rcases ih h with h | h <;> simp [h]

/-- A put keeps keys rising. -/
theorem Sparse.rising_put {t : Sparse α} (k : Nat) (v : α) (h : Sparse.rising t = true) :
    Sparse.rising (Sparse.put t k v) = true := by
  rw [Sparse.rising_iff] at h ⊢
  induction t with
  | nil => simp [Sparse.put]
  | cons e r ih =>
    have hc := List.pairwise_cons.mp h
    simp only [Sparse.put]
    split
    · next hk =>
      refine List.Pairwise.cons ?_ h
      intro x hx
      rcases List.mem_cons.mp hx with rfl | hx
      · exact hk
      · exact Nat.lt_trans hk (hc.1 x hx)
    · split
      · next hk => subst hk; exact List.Pairwise.cons hc.1 hc.2
      · next h1 h2 =>
        refine List.Pairwise.cons ?_ (ih hc.2)
        intro x hx
        rcases Sparse.mem_put hx with rfl | hx
        · show e.1 < k; omega
        · exact hc.1 x hx

/-- A filter keeps keys rising. -/
theorem Sparse.rising_filter {t : Sparse α} (f : Nat × α → Bool) (h : Sparse.rising t = true) :
    Sparse.rising (t.filter f) = true := by
  rw [Sparse.rising_iff] at *
  exact h.filter f

/-- A filter keeps the canonical form. -/
theorem Sparse.wf_filter [DecidableEq α] {t : Sparse α} {d : α} (f : Nat × α → Bool) (h : Sparse.wf t d = true) :
    Sparse.wf (t.filter f) d = true := by
  simp only [Sparse.wf, Bool.and_eq_true, List.all_eq_true] at h ⊢
  exact ⟨Sparse.rising_filter f h.1, fun x hx => h.2 x (List.mem_filter.mp hx).1⟩

/-- Setting a key keeps the canonical form. -/
theorem Sparse.wf_setD [DecidableEq α] {t : Sparse α} {d : α} (k : Nat) (v : α) (h : Sparse.wf t d = true) :
    Sparse.wf (Sparse.setD t k v d) d = true := by
  by_cases hv : v = d
  · rw [Sparse.setD, if_pos hv]; exact Sparse.wf_filter _ h
  · simp only [Sparse.setD, hv, if_false]
    simp only [Sparse.wf, Bool.and_eq_true, List.all_eq_true, decide_eq_true_eq] at h ⊢
    refine ⟨Sparse.rising_put k v h.1, fun x hx => ?_⟩
    rcases Sparse.mem_put hx with rfl | hx
    · exact hv
    · exact h.2 x hx

/-! ## Changing every entry -/

@[simp] theorem Sparse.mapD_nil [DecidableEq α] (d : α) (f : Nat → α → α) : Sparse.mapD ([] : Sparse α) d f = [] := rfl

theorem Sparse.mapD_cons [DecidableEq α] (e : Nat × α) (r : Sparse α) (d : α) (f : Nat → α → α) :
    Sparse.mapD (e :: r) d f = Sparse.setD (Sparse.mapD r d f) e.1 (f e.1 e.2) d := rfl

/-- A change that keeps the unlisted value changes what every key reads as. -/
theorem Sparse.getD_mapD [DecidableEq α] (t : Sparse α) (d : α) (f : Nat → α → α) (k : Nat) (h : f k d = d) :
    Sparse.getD (Sparse.mapD t d f) k d = f k (Sparse.getD t k d) := by
  induction t with
  | nil => simp [h]
  | cons e r ih =>
    rw [Sparse.mapD_cons]
    by_cases hk : k = e.1
    · subst hk; rw [Sparse.getD_setD_same]; simp [Sparse.getD, Sparse.find]
    · rw [Sparse.getD_setD_other _ _ _ _ _ _ hk, ih]; simp [Sparse.getD, Sparse.find, Ne.symm hk]

/-- Changing every entry gives a table in canonical form. -/
theorem Sparse.wf_mapD [DecidableEq α] (t : Sparse α) (d : α) (f : Nat → α → α) : Sparse.wf (Sparse.mapD t d f) d = true := by
  induction t with
  | nil => rfl
  | cons e r ih => rw [Sparse.mapD_cons]; exact Sparse.wf_setD _ _ ih

end Sys2Proof
end

