-- ==== Sys2Proof/Laws/State.lean ====
section
/-!
SUPPORT. What each elementary update of the state leaves as it was, one lemma per field; what a register field reads as
after a write; and the array after each change of it. The field lemmas are true by unfolding; they are proved by cases, so
that the kernel does not unfold a state again where they are cited.
-/

namespace Sys2Proof.Machine

/-! ## Other names of the elementary updates -/

@[simp] theorem Ctl.put_eq (m : Ctl) (f : Fld) (v : Nat) : m.put f v = m.set f 0 v := rfl
theorem Ctl.bump_eq (m : Ctl) (f : Fld) (i n : Nat) :
    m.bump f i n = m.set f i (min (m.get f i + n) (2 ^ f.width - 1)) := rfl
theorem Ctl.setMode_eq (m : Ctl) (x : Mode) :
    m.setMode x = (m.set F.GL_MODE_PREV 0 m.mode).set F.GL_MODE_STATE 0 x.code := rfl
@[simp] theorem Ctl.raise_eq (m : Ctl) (s : Source) (info : Nat) : m.raise s info = m.raiseAs s info false := rfl
@[simp] theorem Ctl.modPc_eq (m : Ctl) (i : Nat) (f : Pc → Pc) : m.modPc i f = m.setPc i (f (m.pc i)) := rfl
@[simp] theorem Ctl.modRing_eq (m : Ctl) (r : Nat) (f : Ring → Ring) : m.modRing r f = m.setRing r (f (m.ring r)) := rfl
@[simp] theorem Ctl.modPort_eq (m : Ctl) (p : Port) (f : PortSt → PortSt) : m.modPort p f = m.setPort p (f (m.port p)) := rfl

/-! ## Fields under updates -/

@[simp] theorem Ctl.set_now (m : Ctl) (f : Fld) (i v : Nat) : (m.set f i v).now = m.now := by cases m; rfl
@[simp] theorem Ctl.set_free (m : Ctl) (f : Fld) (i v : Nat) : (m.set f i v).free = m.free := by cases m; rfl
@[simp] theorem Ctl.set_power (m : Ctl) (f : Fld) (i v : Nat) : (m.set f i v).power = m.power := by cases m; rfl
@[simp] theorem Ctl.set_staged (m : Ctl) (f : Fld) (i v : Nat) : (m.set f i v).staged = m.staged := by cases m; rfl
@[simp] theorem Ctl.set_sesPend (m : Ctl) (f : Fld) (i v : Nat) : (m.set f i v).sesPend = m.sesPend := by cases m; rfl
@[simp] theorem Ctl.set_caps (m : Ctl) (f : Fld) (i v : Nat) : (m.set f i v).caps = m.caps := by cases m; rfl
@[simp] theorem Ctl.set_pcs (m : Ctl) (f : Fld) (i v : Nat) : (m.set f i v).pcs = m.pcs := by cases m; rfl
@[simp] theorem Ctl.set_pa (m : Ctl) (f : Fld) (i v : Nat) : (m.set f i v).pa = m.pa := by cases m; rfl
@[simp] theorem Ctl.set_pb (m : Ctl) (f : Fld) (i v : Nat) : (m.set f i v).pb = m.pb := by cases m; rfl
@[simp] theorem Ctl.set_comets (m : Ctl) (f : Fld) (i v : Nat) : (m.set f i v).comets = m.comets := by cases m; rfl
@[simp] theorem Ctl.set_rings (m : Ctl) (f : Fld) (i v : Nat) : (m.set f i v).rings = m.rings := by cases m; rfl
@[simp] theorem Ctl.set_engines (m : Ctl) (f : Fld) (i v : Nat) : (m.set f i v).engines = m.engines := by cases m; rfl
@[simp] theorem Ctl.set_rrRing (m : Ctl) (f : Fld) (i v : Nat) : (m.set f i v).rrRing = m.rrRing := by cases m; rfl
@[simp] theorem Ctl.set_edits (m : Ctl) (f : Fld) (i v : Nat) : (m.set f i v).edits = m.edits := by cases m; rfl
@[simp] theorem Ctl.set_raised (m : Ctl) (f : Fld) (i v : Nat) : (m.set f i v).raised = m.raised := by cases m; rfl
@[simp] theorem Ctl.set_out (m : Ctl) (f : Fld) (i v : Nat) : (m.set f i v).out = m.out := by cases m; rfl
@[simp] theorem Ctl.set_svc (m : Ctl) (f : Fld) (i v : Nat) : (m.set f i v).svc = m.svc := by cases m; rfl
@[simp] theorem Ctl.set_tel (m : Ctl) (f : Fld) (i v : Nat) : (m.set f i v).tel = m.tel := by cases m; rfl
@[simp] theorem Ctl.set_qmax (m : Ctl) (f : Fld) (i v : Nat) : (m.set f i v).qmax = m.qmax := by cases m; rfl
@[simp] theorem Ctl.set_rmap (m : Ctl) (f : Fld) (i v : Nat) : (m.set f i v).rmap = m.rmap := by cases m; rfl
@[simp] theorem Ctl.set_deadSpares (m : Ctl) (f : Fld) (i v : Nat) : (m.set f i v).deadSpares = m.deadSpares := by cases m; rfl
@[simp] theorem Ctl.set_badReserved (m : Ctl) (f : Fld) (i v : Nat) : (m.set f i v).badReserved = m.badReserved := by cases m; rfl
@[simp] theorem Ctl.set_held (m : Ctl) (f : Fld) (i v : Nat) : (m.set f i v).held = m.held := by cases m; rfl
@[simp] theorem Ctl.set_ovfNext (m : Ctl) (f : Fld) (i v : Nat) : (m.set f i v).ovfNext = m.ovfNext := by cases m; rfl
@[simp] theorem Ctl.set_cellarOk (m : Ctl) (f : Fld) (i v : Nat) : (m.set f i v).cellarOk = m.cellarOk := by cases m; rfl
@[simp] theorem Ctl.set_ovfRead (m : Ctl) (f : Fld) (i v : Nat) : (m.set f i v).ovfRead = m.ovfRead := by cases m; rfl
@[simp] theorem Ctl.set_links (m : Ctl) (f : Fld) (i v : Nat) : (m.set f i v).links = m.links := by cases m; rfl
@[simp] theorem Ctl.set_mirs (m : Ctl) (f : Fld) (i v : Nat) : (m.set f i v).mirs = m.mirs := by cases m; rfl
@[simp] theorem Ctl.set_mirWait (m : Ctl) (f : Fld) (i v : Nat) : (m.set f i v).mirWait = m.mirWait := by cases m; rfl
@[simp] theorem Ctl.set_bnd (m : Ctl) (f : Fld) (i v : Nat) : (m.set f i v).bnd = m.bnd := by cases m; rfl
@[simp] theorem Ctl.set_dies (m : Ctl) (f : Fld) (i v : Nat) : (m.set f i v).dies = m.dies := by cases m; rfl
@[simp] theorem Ctl.set_acts (m : Ctl) (f : Fld) (i v : Nat) : (m.set f i v).acts = m.acts := by cases m; rfl
@[simp] theorem Ctl.set_orbitAt (m : Ctl) (f : Fld) (i v : Nat) : (m.set f i v).orbitAt = m.orbitAt := by cases m; rfl
@[simp] theorem Ctl.set_pace (m : Ctl) (f : Fld) (i v : Nat) : (m.set f i v).pace = m.pace := by cases m; rfl
@[simp] theorem Ctl.set_clk (m : Ctl) (f : Fld) (i v : Nat) : (m.set f i v).clk = m.clk := by cases m; rfl
@[simp] theorem Ctl.set_orb (m : Ctl) (f : Fld) (i v : Nat) : (m.set f i v).orb = m.orb := by cases m; rfl
@[simp] theorem Ctl.set_entry (m : Ctl) (f : Fld) (i v : Nat) : (m.set f i v).entry = m.entry := by cases m; rfl
@[simp] theorem Ctl.set_idle (m : Ctl) (f : Fld) (i v : Nat) : (m.set f i v).idle = m.idle := by cases m; rfl
@[simp] theorem Ctl.set_worked (m : Ctl) (f : Fld) (i v : Nat) : (m.set f i v).worked = m.worked := by cases m; rfl
@[simp] theorem Ctl.set_wakeHeld (m : Ctl) (f : Fld) (i v : Nat) : (m.set f i v).wakeHeld = m.wakeHeld := by cases m; rfl
@[simp] theorem Ctl.set_image (m : Ctl) (f : Fld) (i v : Nat) : (m.set f i v).image = m.image := by cases m; rfl
@[simp] theorem Ctl.set_overs (m : Ctl) (f : Fld) (i v : Nat) : (m.set f i v).overs = m.overs := by cases m; rfl
@[simp] theorem Ctl.set_lost (m : Ctl) (f : Fld) (i v : Nat) : (m.set f i v).lost = m.lost := by cases m; rfl
@[simp] theorem Ctl.set_resetLow (m : Ctl) (f : Fld) (i v : Nat) : (m.set f i v).resetLow = m.resetLow := by cases m; rfl
@[simp] theorem Ctl.set_vinBad (m : Ctl) (f : Fld) (i v : Nat) : (m.set f i v).vinBad = m.vinBad := by cases m; rfl
@[simp] theorem Ctl.set_vphyBad (m : Ctl) (f : Fld) (i v : Nat) : (m.set f i v).vphyBad = m.vphyBad := by cases m; rfl
@[simp] theorem Ctl.set_stepAge (m : Ctl) (f : Fld) (i v : Nat) : (m.set f i v).stepAge = m.stepAge := by cases m; rfl
@[simp] theorem Ctl.set_warmAge (m : Ctl) (f : Fld) (i v : Nat) : (m.set f i v).warmAge = m.warmAge := by cases m; rfl
@[simp] theorem Ctl.set_cutOff (m : Ctl) (f : Fld) (i v : Nat) : (m.set f i v).cutOff = m.cutOff := by cases m; rfl
@[simp] theorem Ctl.set_shut (m : Ctl) (f : Fld) (i v : Nat) : (m.set f i v).shut = m.shut := by cases m; rfl
@[simp] theorem Ctl.set_sampleAge (m : Ctl) (f : Fld) (i v : Nat) : (m.set f i v).sampleAge = m.sampleAge := by cases m; rfl
@[simp] theorem Ctl.set_fuse (m : Ctl) (f : Fld) (i v : Nat) : (m.set f i v).fuse = m.fuse := by cases m; rfl
@[simp] theorem Ctl.set_fuseSeen (m : Ctl) (f : Fld) (i v : Nat) : (m.set f i v).fuseSeen = m.fuseSeen := by cases m; rfl
@[simp] theorem Ctl.set_fuseOp (m : Ctl) (f : Fld) (i v : Nat) : (m.set f i v).fuseOp = m.fuseOp := by cases m; rfl
@[simp] theorem Ctl.set_fuseWait (m : Ctl) (f : Fld) (i v : Nat) : (m.set f i v).fuseWait = m.fuseWait := by cases m; rfl
@[simp] theorem Ctl.set_lease (m : Ctl) (f : Fld) (i v : Nat) : (m.set f i v).lease = m.lease := by cases m; rfl
@[simp] theorem Ctl.set_absent (m : Ctl) (f : Fld) (i v : Nat) : (m.set f i v).absent = m.absent := by cases m; rfl
@[simp] theorem Ctl.set_longAbsent (m : Ctl) (f : Fld) (i v : Nat) : (m.set f i v).longAbsent = m.longAbsent := by cases m; rfl
@[simp] theorem Ctl.set_commit (m : Ctl) (f : Fld) (i v : Nat) : (m.set f i v).commit = m.commit := by cases m; rfl
@[simp] theorem Ctl.set_commitWait (m : Ctl) (f : Fld) (i v : Nat) : (m.set f i v).commitWait = m.commitWait := by cases m; rfl
@[simp] theorem Ctl.set_digestNew (m : Ctl) (f : Fld) (i v : Nat) : (m.set f i v).digestNew = m.digestNew := by cases m; rfl
@[simp] theorem Ctl.set_bistNext (m : Ctl) (f : Fld) (i v : Nat) : (m.set f i v).bistNext = m.bistNext := by cases m; rfl
@[simp] theorem Ctl.set_bistShort (m : Ctl) (f : Fld) (i v : Nat) : (m.set f i v).bistShort = m.bistShort := by cases m; rfl
@[simp] theorem Ctl.set_bistFatal (m : Ctl) (f : Fld) (i v : Nat) : (m.set f i v).bistFatal = m.bistFatal := by cases m; rfl
@[simp] theorem Ctl.set_deadEngines (m : Ctl) (f : Fld) (i v : Nat) : (m.set f i v).deadEngines = m.deadEngines := by cases m; rfl
@[simp] theorem Ctl.set_deadUnits (m : Ctl) (f : Fld) (i v : Nat) : (m.set f i v).deadUnits = m.deadUnits := by cases m; rfl
@[simp] theorem Ctl.set_cycles (m : Ctl) (f : Fld) (i v : Nat) : (m.set f i v).cycles = m.cycles := by cases m; rfl
@[simp] theorem Ctl.set_sliceNo (m : Ctl) (f : Fld) (i v : Nat) : (m.set f i v).sliceNo = m.sliceNo := by cases m; rfl
@[simp] theorem Ctl.set_sliceDue (m : Ctl) (f : Fld) (i v : Nat) : (m.set f i v).sliceDue = m.sliceDue := by cases m; rfl
@[simp] theorem Ctl.set_sliceBnd (m : Ctl) (f : Fld) (i v : Nat) : (m.set f i v).sliceBnd = m.sliceBnd := by cases m; rfl
@[simp] theorem Ctl.set_scrubBnd (m : Ctl) (f : Fld) (i v : Nat) : (m.set f i v).scrubBnd = m.scrubBnd := by cases m; rfl
@[simp] theorem Ctl.set_present (m : Ctl) (f : Fld) (i v : Nat) : (m.set f i v).present = m.present := by cases m; rfl
@[simp] theorem Ctl.set_slices (m : Ctl) (f : Fld) (i v : Nat) : (m.set f i v).slices = m.slices := by cases m; rfl
@[simp] theorem Ctl.set_march (m : Ctl) (f : Fld) (i v : Nat) : (m.set f i v).march = m.march := by cases m; rfl
@[simp] theorem Ctl.set_trims (m : Ctl) (f : Fld) (i v : Nat) : (m.set f i v).trims = m.trims := by cases m; rfl
@[simp] theorem Ctl.set_factoryReq (m : Ctl) (f : Fld) (i v : Nat) : (m.set f i v).factoryReq = m.factoryReq := by cases m; rfl

@[simp] theorem Ctl.setPc_now (m : Ctl) (i : Nat) (x : Pc) : (m.setPc i x).now = m.now := by cases m; rfl
@[simp] theorem Ctl.setPc_free (m : Ctl) (i : Nat) (x : Pc) : (m.setPc i x).free = m.free := by cases m; rfl
@[simp] theorem Ctl.setPc_power (m : Ctl) (i : Nat) (x : Pc) : (m.setPc i x).power = m.power := by cases m; rfl
@[simp] theorem Ctl.setPc_flds (m : Ctl) (i : Nat) (x : Pc) : (m.setPc i x).flds = m.flds := by cases m; rfl
@[simp] theorem Ctl.setPc_staged (m : Ctl) (i : Nat) (x : Pc) : (m.setPc i x).staged = m.staged := by cases m; rfl
@[simp] theorem Ctl.setPc_sesPend (m : Ctl) (i : Nat) (x : Pc) : (m.setPc i x).sesPend = m.sesPend := by cases m; rfl
@[simp] theorem Ctl.setPc_caps (m : Ctl) (i : Nat) (x : Pc) : (m.setPc i x).caps = m.caps := by cases m; rfl
@[simp] theorem Ctl.setPc_pa (m : Ctl) (i : Nat) (x : Pc) : (m.setPc i x).pa = m.pa := by cases m; rfl
@[simp] theorem Ctl.setPc_pb (m : Ctl) (i : Nat) (x : Pc) : (m.setPc i x).pb = m.pb := by cases m; rfl
@[simp] theorem Ctl.setPc_comets (m : Ctl) (i : Nat) (x : Pc) : (m.setPc i x).comets = m.comets := by cases m; rfl
@[simp] theorem Ctl.setPc_rings (m : Ctl) (i : Nat) (x : Pc) : (m.setPc i x).rings = m.rings := by cases m; rfl
@[simp] theorem Ctl.setPc_engines (m : Ctl) (i : Nat) (x : Pc) : (m.setPc i x).engines = m.engines := by cases m; rfl
@[simp] theorem Ctl.setPc_rrRing (m : Ctl) (i : Nat) (x : Pc) : (m.setPc i x).rrRing = m.rrRing := by cases m; rfl
@[simp] theorem Ctl.setPc_edits (m : Ctl) (i : Nat) (x : Pc) : (m.setPc i x).edits = m.edits := by cases m; rfl
@[simp] theorem Ctl.setPc_raised (m : Ctl) (i : Nat) (x : Pc) : (m.setPc i x).raised = m.raised := by cases m; rfl
@[simp] theorem Ctl.setPc_out (m : Ctl) (i : Nat) (x : Pc) : (m.setPc i x).out = m.out := by cases m; rfl
@[simp] theorem Ctl.setPc_svc (m : Ctl) (i : Nat) (x : Pc) : (m.setPc i x).svc = m.svc := by cases m; rfl
@[simp] theorem Ctl.setPc_tel (m : Ctl) (i : Nat) (x : Pc) : (m.setPc i x).tel = m.tel := by cases m; rfl
@[simp] theorem Ctl.setPc_qmax (m : Ctl) (i : Nat) (x : Pc) : (m.setPc i x).qmax = m.qmax := by cases m; rfl
@[simp] theorem Ctl.setPc_rmap (m : Ctl) (i : Nat) (x : Pc) : (m.setPc i x).rmap = m.rmap := by cases m; rfl
@[simp] theorem Ctl.setPc_deadSpares (m : Ctl) (i : Nat) (x : Pc) : (m.setPc i x).deadSpares = m.deadSpares := by cases m; rfl
@[simp] theorem Ctl.setPc_badReserved (m : Ctl) (i : Nat) (x : Pc) : (m.setPc i x).badReserved = m.badReserved := by cases m; rfl
@[simp] theorem Ctl.setPc_held (m : Ctl) (i : Nat) (x : Pc) : (m.setPc i x).held = m.held := by cases m; rfl
@[simp] theorem Ctl.setPc_ovfNext (m : Ctl) (i : Nat) (x : Pc) : (m.setPc i x).ovfNext = m.ovfNext := by cases m; rfl
@[simp] theorem Ctl.setPc_cellarOk (m : Ctl) (i : Nat) (x : Pc) : (m.setPc i x).cellarOk = m.cellarOk := by cases m; rfl
@[simp] theorem Ctl.setPc_ovfRead (m : Ctl) (i : Nat) (x : Pc) : (m.setPc i x).ovfRead = m.ovfRead := by cases m; rfl
@[simp] theorem Ctl.setPc_links (m : Ctl) (i : Nat) (x : Pc) : (m.setPc i x).links = m.links := by cases m; rfl
@[simp] theorem Ctl.setPc_mirs (m : Ctl) (i : Nat) (x : Pc) : (m.setPc i x).mirs = m.mirs := by cases m; rfl
@[simp] theorem Ctl.setPc_mirWait (m : Ctl) (i : Nat) (x : Pc) : (m.setPc i x).mirWait = m.mirWait := by cases m; rfl
@[simp] theorem Ctl.setPc_bnd (m : Ctl) (i : Nat) (x : Pc) : (m.setPc i x).bnd = m.bnd := by cases m; rfl
@[simp] theorem Ctl.setPc_dies (m : Ctl) (i : Nat) (x : Pc) : (m.setPc i x).dies = m.dies := by cases m; rfl
@[simp] theorem Ctl.setPc_acts (m : Ctl) (i : Nat) (x : Pc) : (m.setPc i x).acts = m.acts := by cases m; rfl
@[simp] theorem Ctl.setPc_orbitAt (m : Ctl) (i : Nat) (x : Pc) : (m.setPc i x).orbitAt = m.orbitAt := by cases m; rfl
@[simp] theorem Ctl.setPc_pace (m : Ctl) (i : Nat) (x : Pc) : (m.setPc i x).pace = m.pace := by cases m; rfl
@[simp] theorem Ctl.setPc_clk (m : Ctl) (i : Nat) (x : Pc) : (m.setPc i x).clk = m.clk := by cases m; rfl
@[simp] theorem Ctl.setPc_orb (m : Ctl) (i : Nat) (x : Pc) : (m.setPc i x).orb = m.orb := by cases m; rfl
@[simp] theorem Ctl.setPc_entry (m : Ctl) (i : Nat) (x : Pc) : (m.setPc i x).entry = m.entry := by cases m; rfl
@[simp] theorem Ctl.setPc_idle (m : Ctl) (i : Nat) (x : Pc) : (m.setPc i x).idle = m.idle := by cases m; rfl
@[simp] theorem Ctl.setPc_worked (m : Ctl) (i : Nat) (x : Pc) : (m.setPc i x).worked = m.worked := by cases m; rfl
@[simp] theorem Ctl.setPc_wakeHeld (m : Ctl) (i : Nat) (x : Pc) : (m.setPc i x).wakeHeld = m.wakeHeld := by cases m; rfl
@[simp] theorem Ctl.setPc_image (m : Ctl) (i : Nat) (x : Pc) : (m.setPc i x).image = m.image := by cases m; rfl
@[simp] theorem Ctl.setPc_overs (m : Ctl) (i : Nat) (x : Pc) : (m.setPc i x).overs = m.overs := by cases m; rfl
@[simp] theorem Ctl.setPc_lost (m : Ctl) (i : Nat) (x : Pc) : (m.setPc i x).lost = m.lost := by cases m; rfl
@[simp] theorem Ctl.setPc_resetLow (m : Ctl) (i : Nat) (x : Pc) : (m.setPc i x).resetLow = m.resetLow := by cases m; rfl
@[simp] theorem Ctl.setPc_vinBad (m : Ctl) (i : Nat) (x : Pc) : (m.setPc i x).vinBad = m.vinBad := by cases m; rfl
@[simp] theorem Ctl.setPc_vphyBad (m : Ctl) (i : Nat) (x : Pc) : (m.setPc i x).vphyBad = m.vphyBad := by cases m; rfl
@[simp] theorem Ctl.setPc_stepAge (m : Ctl) (i : Nat) (x : Pc) : (m.setPc i x).stepAge = m.stepAge := by cases m; rfl
@[simp] theorem Ctl.setPc_warmAge (m : Ctl) (i : Nat) (x : Pc) : (m.setPc i x).warmAge = m.warmAge := by cases m; rfl
@[simp] theorem Ctl.setPc_cutOff (m : Ctl) (i : Nat) (x : Pc) : (m.setPc i x).cutOff = m.cutOff := by cases m; rfl
@[simp] theorem Ctl.setPc_shut (m : Ctl) (i : Nat) (x : Pc) : (m.setPc i x).shut = m.shut := by cases m; rfl
@[simp] theorem Ctl.setPc_sampleAge (m : Ctl) (i : Nat) (x : Pc) : (m.setPc i x).sampleAge = m.sampleAge := by cases m; rfl
@[simp] theorem Ctl.setPc_fuse (m : Ctl) (i : Nat) (x : Pc) : (m.setPc i x).fuse = m.fuse := by cases m; rfl
@[simp] theorem Ctl.setPc_fuseSeen (m : Ctl) (i : Nat) (x : Pc) : (m.setPc i x).fuseSeen = m.fuseSeen := by cases m; rfl
@[simp] theorem Ctl.setPc_fuseOp (m : Ctl) (i : Nat) (x : Pc) : (m.setPc i x).fuseOp = m.fuseOp := by cases m; rfl
@[simp] theorem Ctl.setPc_fuseWait (m : Ctl) (i : Nat) (x : Pc) : (m.setPc i x).fuseWait = m.fuseWait := by cases m; rfl
@[simp] theorem Ctl.setPc_lease (m : Ctl) (i : Nat) (x : Pc) : (m.setPc i x).lease = m.lease := by cases m; rfl
@[simp] theorem Ctl.setPc_absent (m : Ctl) (i : Nat) (x : Pc) : (m.setPc i x).absent = m.absent := by cases m; rfl
@[simp] theorem Ctl.setPc_longAbsent (m : Ctl) (i : Nat) (x : Pc) : (m.setPc i x).longAbsent = m.longAbsent := by cases m; rfl
@[simp] theorem Ctl.setPc_commit (m : Ctl) (i : Nat) (x : Pc) : (m.setPc i x).commit = m.commit := by cases m; rfl
@[simp] theorem Ctl.setPc_commitWait (m : Ctl) (i : Nat) (x : Pc) : (m.setPc i x).commitWait = m.commitWait := by cases m; rfl
@[simp] theorem Ctl.setPc_digestNew (m : Ctl) (i : Nat) (x : Pc) : (m.setPc i x).digestNew = m.digestNew := by cases m; rfl
@[simp] theorem Ctl.setPc_bistNext (m : Ctl) (i : Nat) (x : Pc) : (m.setPc i x).bistNext = m.bistNext := by cases m; rfl
@[simp] theorem Ctl.setPc_bistShort (m : Ctl) (i : Nat) (x : Pc) : (m.setPc i x).bistShort = m.bistShort := by cases m; rfl
@[simp] theorem Ctl.setPc_bistFatal (m : Ctl) (i : Nat) (x : Pc) : (m.setPc i x).bistFatal = m.bistFatal := by cases m; rfl
@[simp] theorem Ctl.setPc_deadEngines (m : Ctl) (i : Nat) (x : Pc) : (m.setPc i x).deadEngines = m.deadEngines := by cases m; rfl
@[simp] theorem Ctl.setPc_deadUnits (m : Ctl) (i : Nat) (x : Pc) : (m.setPc i x).deadUnits = m.deadUnits := by cases m; rfl
@[simp] theorem Ctl.setPc_cycles (m : Ctl) (i : Nat) (x : Pc) : (m.setPc i x).cycles = m.cycles := by cases m; rfl
@[simp] theorem Ctl.setPc_sliceNo (m : Ctl) (i : Nat) (x : Pc) : (m.setPc i x).sliceNo = m.sliceNo := by cases m; rfl
@[simp] theorem Ctl.setPc_sliceDue (m : Ctl) (i : Nat) (x : Pc) : (m.setPc i x).sliceDue = m.sliceDue := by cases m; rfl
@[simp] theorem Ctl.setPc_sliceBnd (m : Ctl) (i : Nat) (x : Pc) : (m.setPc i x).sliceBnd = m.sliceBnd := by cases m; rfl
@[simp] theorem Ctl.setPc_scrubBnd (m : Ctl) (i : Nat) (x : Pc) : (m.setPc i x).scrubBnd = m.scrubBnd := by cases m; rfl
@[simp] theorem Ctl.setPc_present (m : Ctl) (i : Nat) (x : Pc) : (m.setPc i x).present = m.present := by cases m; rfl
@[simp] theorem Ctl.setPc_slices (m : Ctl) (i : Nat) (x : Pc) : (m.setPc i x).slices = m.slices := by cases m; rfl
@[simp] theorem Ctl.setPc_march (m : Ctl) (i : Nat) (x : Pc) : (m.setPc i x).march = m.march := by cases m; rfl
@[simp] theorem Ctl.setPc_trims (m : Ctl) (i : Nat) (x : Pc) : (m.setPc i x).trims = m.trims := by cases m; rfl
@[simp] theorem Ctl.setPc_factoryReq (m : Ctl) (i : Nat) (x : Pc) : (m.setPc i x).factoryReq = m.factoryReq := by cases m; rfl

@[simp] theorem Ctl.emit_now (m : Ctl) (o : Out) : (m.emit o).now = m.now := by cases m; rfl
@[simp] theorem Ctl.emit_free (m : Ctl) (o : Out) : (m.emit o).free = m.free := by cases m; rfl
@[simp] theorem Ctl.emit_power (m : Ctl) (o : Out) : (m.emit o).power = m.power := by cases m; rfl
@[simp] theorem Ctl.emit_flds (m : Ctl) (o : Out) : (m.emit o).flds = m.flds := by cases m; rfl
@[simp] theorem Ctl.emit_staged (m : Ctl) (o : Out) : (m.emit o).staged = m.staged := by cases m; rfl
@[simp] theorem Ctl.emit_sesPend (m : Ctl) (o : Out) : (m.emit o).sesPend = m.sesPend := by cases m; rfl
@[simp] theorem Ctl.emit_caps (m : Ctl) (o : Out) : (m.emit o).caps = m.caps := by cases m; rfl
@[simp] theorem Ctl.emit_pcs (m : Ctl) (o : Out) : (m.emit o).pcs = m.pcs := by cases m; rfl
@[simp] theorem Ctl.emit_pa (m : Ctl) (o : Out) : (m.emit o).pa = m.pa := by cases m; rfl
@[simp] theorem Ctl.emit_pb (m : Ctl) (o : Out) : (m.emit o).pb = m.pb := by cases m; rfl
@[simp] theorem Ctl.emit_comets (m : Ctl) (o : Out) : (m.emit o).comets = m.comets := by cases m; rfl
@[simp] theorem Ctl.emit_rings (m : Ctl) (o : Out) : (m.emit o).rings = m.rings := by cases m; rfl
@[simp] theorem Ctl.emit_engines (m : Ctl) (o : Out) : (m.emit o).engines = m.engines := by cases m; rfl
@[simp] theorem Ctl.emit_rrRing (m : Ctl) (o : Out) : (m.emit o).rrRing = m.rrRing := by cases m; rfl
@[simp] theorem Ctl.emit_edits (m : Ctl) (o : Out) : (m.emit o).edits = m.edits := by cases m; rfl
@[simp] theorem Ctl.emit_raised (m : Ctl) (o : Out) : (m.emit o).raised = m.raised := by cases m; rfl
@[simp] theorem Ctl.emit_svc (m : Ctl) (o : Out) : (m.emit o).svc = m.svc := by cases m; rfl
@[simp] theorem Ctl.emit_tel (m : Ctl) (o : Out) : (m.emit o).tel = m.tel := by cases m; rfl
@[simp] theorem Ctl.emit_qmax (m : Ctl) (o : Out) : (m.emit o).qmax = m.qmax := by cases m; rfl
@[simp] theorem Ctl.emit_rmap (m : Ctl) (o : Out) : (m.emit o).rmap = m.rmap := by cases m; rfl
@[simp] theorem Ctl.emit_deadSpares (m : Ctl) (o : Out) : (m.emit o).deadSpares = m.deadSpares := by cases m; rfl
@[simp] theorem Ctl.emit_badReserved (m : Ctl) (o : Out) : (m.emit o).badReserved = m.badReserved := by cases m; rfl
@[simp] theorem Ctl.emit_held (m : Ctl) (o : Out) : (m.emit o).held = m.held := by cases m; rfl
@[simp] theorem Ctl.emit_ovfNext (m : Ctl) (o : Out) : (m.emit o).ovfNext = m.ovfNext := by cases m; rfl
@[simp] theorem Ctl.emit_cellarOk (m : Ctl) (o : Out) : (m.emit o).cellarOk = m.cellarOk := by cases m; rfl
@[simp] theorem Ctl.emit_ovfRead (m : Ctl) (o : Out) : (m.emit o).ovfRead = m.ovfRead := by cases m; rfl
@[simp] theorem Ctl.emit_links (m : Ctl) (o : Out) : (m.emit o).links = m.links := by cases m; rfl
@[simp] theorem Ctl.emit_mirs (m : Ctl) (o : Out) : (m.emit o).mirs = m.mirs := by cases m; rfl
@[simp] theorem Ctl.emit_mirWait (m : Ctl) (o : Out) : (m.emit o).mirWait = m.mirWait := by cases m; rfl
@[simp] theorem Ctl.emit_bnd (m : Ctl) (o : Out) : (m.emit o).bnd = m.bnd := by cases m; rfl
@[simp] theorem Ctl.emit_dies (m : Ctl) (o : Out) : (m.emit o).dies = m.dies := by cases m; rfl
@[simp] theorem Ctl.emit_acts (m : Ctl) (o : Out) : (m.emit o).acts = m.acts := by cases m; rfl
@[simp] theorem Ctl.emit_orbitAt (m : Ctl) (o : Out) : (m.emit o).orbitAt = m.orbitAt := by cases m; rfl
@[simp] theorem Ctl.emit_pace (m : Ctl) (o : Out) : (m.emit o).pace = m.pace := by cases m; rfl
@[simp] theorem Ctl.emit_clk (m : Ctl) (o : Out) : (m.emit o).clk = m.clk := by cases m; rfl
@[simp] theorem Ctl.emit_orb (m : Ctl) (o : Out) : (m.emit o).orb = m.orb := by cases m; rfl
@[simp] theorem Ctl.emit_entry (m : Ctl) (o : Out) : (m.emit o).entry = m.entry := by cases m; rfl
@[simp] theorem Ctl.emit_idle (m : Ctl) (o : Out) : (m.emit o).idle = m.idle := by cases m; rfl
@[simp] theorem Ctl.emit_worked (m : Ctl) (o : Out) : (m.emit o).worked = m.worked := by cases m; rfl
@[simp] theorem Ctl.emit_wakeHeld (m : Ctl) (o : Out) : (m.emit o).wakeHeld = m.wakeHeld := by cases m; rfl
@[simp] theorem Ctl.emit_image (m : Ctl) (o : Out) : (m.emit o).image = m.image := by cases m; rfl
@[simp] theorem Ctl.emit_overs (m : Ctl) (o : Out) : (m.emit o).overs = m.overs := by cases m; rfl
@[simp] theorem Ctl.emit_lost (m : Ctl) (o : Out) : (m.emit o).lost = m.lost := by cases m; rfl
@[simp] theorem Ctl.emit_resetLow (m : Ctl) (o : Out) : (m.emit o).resetLow = m.resetLow := by cases m; rfl
@[simp] theorem Ctl.emit_vinBad (m : Ctl) (o : Out) : (m.emit o).vinBad = m.vinBad := by cases m; rfl
@[simp] theorem Ctl.emit_vphyBad (m : Ctl) (o : Out) : (m.emit o).vphyBad = m.vphyBad := by cases m; rfl
@[simp] theorem Ctl.emit_stepAge (m : Ctl) (o : Out) : (m.emit o).stepAge = m.stepAge := by cases m; rfl
@[simp] theorem Ctl.emit_warmAge (m : Ctl) (o : Out) : (m.emit o).warmAge = m.warmAge := by cases m; rfl
@[simp] theorem Ctl.emit_cutOff (m : Ctl) (o : Out) : (m.emit o).cutOff = m.cutOff := by cases m; rfl
@[simp] theorem Ctl.emit_shut (m : Ctl) (o : Out) : (m.emit o).shut = m.shut := by cases m; rfl
@[simp] theorem Ctl.emit_sampleAge (m : Ctl) (o : Out) : (m.emit o).sampleAge = m.sampleAge := by cases m; rfl
@[simp] theorem Ctl.emit_fuse (m : Ctl) (o : Out) : (m.emit o).fuse = m.fuse := by cases m; rfl
@[simp] theorem Ctl.emit_fuseSeen (m : Ctl) (o : Out) : (m.emit o).fuseSeen = m.fuseSeen := by cases m; rfl
@[simp] theorem Ctl.emit_fuseOp (m : Ctl) (o : Out) : (m.emit o).fuseOp = m.fuseOp := by cases m; rfl
@[simp] theorem Ctl.emit_fuseWait (m : Ctl) (o : Out) : (m.emit o).fuseWait = m.fuseWait := by cases m; rfl
@[simp] theorem Ctl.emit_lease (m : Ctl) (o : Out) : (m.emit o).lease = m.lease := by cases m; rfl
@[simp] theorem Ctl.emit_absent (m : Ctl) (o : Out) : (m.emit o).absent = m.absent := by cases m; rfl
@[simp] theorem Ctl.emit_longAbsent (m : Ctl) (o : Out) : (m.emit o).longAbsent = m.longAbsent := by cases m; rfl
@[simp] theorem Ctl.emit_commit (m : Ctl) (o : Out) : (m.emit o).commit = m.commit := by cases m; rfl
@[simp] theorem Ctl.emit_commitWait (m : Ctl) (o : Out) : (m.emit o).commitWait = m.commitWait := by cases m; rfl
@[simp] theorem Ctl.emit_digestNew (m : Ctl) (o : Out) : (m.emit o).digestNew = m.digestNew := by cases m; rfl
@[simp] theorem Ctl.emit_bistNext (m : Ctl) (o : Out) : (m.emit o).bistNext = m.bistNext := by cases m; rfl
@[simp] theorem Ctl.emit_bistShort (m : Ctl) (o : Out) : (m.emit o).bistShort = m.bistShort := by cases m; rfl
@[simp] theorem Ctl.emit_bistFatal (m : Ctl) (o : Out) : (m.emit o).bistFatal = m.bistFatal := by cases m; rfl
@[simp] theorem Ctl.emit_deadEngines (m : Ctl) (o : Out) : (m.emit o).deadEngines = m.deadEngines := by cases m; rfl
@[simp] theorem Ctl.emit_deadUnits (m : Ctl) (o : Out) : (m.emit o).deadUnits = m.deadUnits := by cases m; rfl
@[simp] theorem Ctl.emit_cycles (m : Ctl) (o : Out) : (m.emit o).cycles = m.cycles := by cases m; rfl
@[simp] theorem Ctl.emit_sliceNo (m : Ctl) (o : Out) : (m.emit o).sliceNo = m.sliceNo := by cases m; rfl
@[simp] theorem Ctl.emit_sliceDue (m : Ctl) (o : Out) : (m.emit o).sliceDue = m.sliceDue := by cases m; rfl
@[simp] theorem Ctl.emit_sliceBnd (m : Ctl) (o : Out) : (m.emit o).sliceBnd = m.sliceBnd := by cases m; rfl
@[simp] theorem Ctl.emit_scrubBnd (m : Ctl) (o : Out) : (m.emit o).scrubBnd = m.scrubBnd := by cases m; rfl
@[simp] theorem Ctl.emit_present (m : Ctl) (o : Out) : (m.emit o).present = m.present := by cases m; rfl
@[simp] theorem Ctl.emit_slices (m : Ctl) (o : Out) : (m.emit o).slices = m.slices := by cases m; rfl
@[simp] theorem Ctl.emit_march (m : Ctl) (o : Out) : (m.emit o).march = m.march := by cases m; rfl
@[simp] theorem Ctl.emit_trims (m : Ctl) (o : Out) : (m.emit o).trims = m.trims := by cases m; rfl
@[simp] theorem Ctl.emit_factoryReq (m : Ctl) (o : Out) : (m.emit o).factoryReq = m.factoryReq := by cases m; rfl

@[simp] theorem Ctl.edit_now (m : Ctl) (e : Edit) : (m.edit e).now = m.now := by cases m; rfl
@[simp] theorem Ctl.edit_free (m : Ctl) (e : Edit) : (m.edit e).free = m.free := by cases m; rfl
@[simp] theorem Ctl.edit_power (m : Ctl) (e : Edit) : (m.edit e).power = m.power := by cases m; rfl
@[simp] theorem Ctl.edit_flds (m : Ctl) (e : Edit) : (m.edit e).flds = m.flds := by cases m; rfl
@[simp] theorem Ctl.edit_staged (m : Ctl) (e : Edit) : (m.edit e).staged = m.staged := by cases m; rfl
@[simp] theorem Ctl.edit_sesPend (m : Ctl) (e : Edit) : (m.edit e).sesPend = m.sesPend := by cases m; rfl
@[simp] theorem Ctl.edit_caps (m : Ctl) (e : Edit) : (m.edit e).caps = m.caps := by cases m; rfl
@[simp] theorem Ctl.edit_pcs (m : Ctl) (e : Edit) : (m.edit e).pcs = m.pcs := by cases m; rfl
@[simp] theorem Ctl.edit_pa (m : Ctl) (e : Edit) : (m.edit e).pa = m.pa := by cases m; rfl
@[simp] theorem Ctl.edit_pb (m : Ctl) (e : Edit) : (m.edit e).pb = m.pb := by cases m; rfl
@[simp] theorem Ctl.edit_comets (m : Ctl) (e : Edit) : (m.edit e).comets = m.comets := by cases m; rfl
@[simp] theorem Ctl.edit_rings (m : Ctl) (e : Edit) : (m.edit e).rings = m.rings := by cases m; rfl
@[simp] theorem Ctl.edit_engines (m : Ctl) (e : Edit) : (m.edit e).engines = m.engines := by cases m; rfl
@[simp] theorem Ctl.edit_rrRing (m : Ctl) (e : Edit) : (m.edit e).rrRing = m.rrRing := by cases m; rfl
@[simp] theorem Ctl.edit_raised (m : Ctl) (e : Edit) : (m.edit e).raised = m.raised := by cases m; rfl
@[simp] theorem Ctl.edit_out (m : Ctl) (e : Edit) : (m.edit e).out = m.out := by cases m; rfl
@[simp] theorem Ctl.edit_svc (m : Ctl) (e : Edit) : (m.edit e).svc = m.svc := by cases m; rfl
@[simp] theorem Ctl.edit_tel (m : Ctl) (e : Edit) : (m.edit e).tel = m.tel := by cases m; rfl
@[simp] theorem Ctl.edit_qmax (m : Ctl) (e : Edit) : (m.edit e).qmax = m.qmax := by cases m; rfl
@[simp] theorem Ctl.edit_rmap (m : Ctl) (e : Edit) : (m.edit e).rmap = m.rmap := by cases m; rfl
@[simp] theorem Ctl.edit_deadSpares (m : Ctl) (e : Edit) : (m.edit e).deadSpares = m.deadSpares := by cases m; rfl
@[simp] theorem Ctl.edit_badReserved (m : Ctl) (e : Edit) : (m.edit e).badReserved = m.badReserved := by cases m; rfl
@[simp] theorem Ctl.edit_held (m : Ctl) (e : Edit) : (m.edit e).held = m.held := by cases m; rfl
@[simp] theorem Ctl.edit_ovfNext (m : Ctl) (e : Edit) : (m.edit e).ovfNext = m.ovfNext := by cases m; rfl
@[simp] theorem Ctl.edit_cellarOk (m : Ctl) (e : Edit) : (m.edit e).cellarOk = m.cellarOk := by cases m; rfl
@[simp] theorem Ctl.edit_ovfRead (m : Ctl) (e : Edit) : (m.edit e).ovfRead = m.ovfRead := by cases m; rfl
@[simp] theorem Ctl.edit_links (m : Ctl) (e : Edit) : (m.edit e).links = m.links := by cases m; rfl
@[simp] theorem Ctl.edit_mirs (m : Ctl) (e : Edit) : (m.edit e).mirs = m.mirs := by cases m; rfl
@[simp] theorem Ctl.edit_mirWait (m : Ctl) (e : Edit) : (m.edit e).mirWait = m.mirWait := by cases m; rfl
@[simp] theorem Ctl.edit_bnd (m : Ctl) (e : Edit) : (m.edit e).bnd = m.bnd := by cases m; rfl
@[simp] theorem Ctl.edit_dies (m : Ctl) (e : Edit) : (m.edit e).dies = m.dies := by cases m; rfl
@[simp] theorem Ctl.edit_acts (m : Ctl) (e : Edit) : (m.edit e).acts = m.acts := by cases m; rfl
@[simp] theorem Ctl.edit_orbitAt (m : Ctl) (e : Edit) : (m.edit e).orbitAt = m.orbitAt := by cases m; rfl
@[simp] theorem Ctl.edit_pace (m : Ctl) (e : Edit) : (m.edit e).pace = m.pace := by cases m; rfl
@[simp] theorem Ctl.edit_clk (m : Ctl) (e : Edit) : (m.edit e).clk = m.clk := by cases m; rfl
@[simp] theorem Ctl.edit_orb (m : Ctl) (e : Edit) : (m.edit e).orb = m.orb := by cases m; rfl
@[simp] theorem Ctl.edit_entry (m : Ctl) (e : Edit) : (m.edit e).entry = m.entry := by cases m; rfl
@[simp] theorem Ctl.edit_idle (m : Ctl) (e : Edit) : (m.edit e).idle = m.idle := by cases m; rfl
@[simp] theorem Ctl.edit_worked (m : Ctl) (e : Edit) : (m.edit e).worked = m.worked := by cases m; rfl
@[simp] theorem Ctl.edit_wakeHeld (m : Ctl) (e : Edit) : (m.edit e).wakeHeld = m.wakeHeld := by cases m; rfl
@[simp] theorem Ctl.edit_image (m : Ctl) (e : Edit) : (m.edit e).image = m.image := by cases m; rfl
@[simp] theorem Ctl.edit_overs (m : Ctl) (e : Edit) : (m.edit e).overs = m.overs := by cases m; rfl
@[simp] theorem Ctl.edit_lost (m : Ctl) (e : Edit) : (m.edit e).lost = m.lost := by cases m; rfl
@[simp] theorem Ctl.edit_resetLow (m : Ctl) (e : Edit) : (m.edit e).resetLow = m.resetLow := by cases m; rfl
@[simp] theorem Ctl.edit_vinBad (m : Ctl) (e : Edit) : (m.edit e).vinBad = m.vinBad := by cases m; rfl
@[simp] theorem Ctl.edit_vphyBad (m : Ctl) (e : Edit) : (m.edit e).vphyBad = m.vphyBad := by cases m; rfl
@[simp] theorem Ctl.edit_stepAge (m : Ctl) (e : Edit) : (m.edit e).stepAge = m.stepAge := by cases m; rfl
@[simp] theorem Ctl.edit_warmAge (m : Ctl) (e : Edit) : (m.edit e).warmAge = m.warmAge := by cases m; rfl
@[simp] theorem Ctl.edit_cutOff (m : Ctl) (e : Edit) : (m.edit e).cutOff = m.cutOff := by cases m; rfl
@[simp] theorem Ctl.edit_shut (m : Ctl) (e : Edit) : (m.edit e).shut = m.shut := by cases m; rfl
@[simp] theorem Ctl.edit_sampleAge (m : Ctl) (e : Edit) : (m.edit e).sampleAge = m.sampleAge := by cases m; rfl
@[simp] theorem Ctl.edit_fuse (m : Ctl) (e : Edit) : (m.edit e).fuse = m.fuse := by cases m; rfl
@[simp] theorem Ctl.edit_fuseSeen (m : Ctl) (e : Edit) : (m.edit e).fuseSeen = m.fuseSeen := by cases m; rfl
@[simp] theorem Ctl.edit_fuseOp (m : Ctl) (e : Edit) : (m.edit e).fuseOp = m.fuseOp := by cases m; rfl
@[simp] theorem Ctl.edit_fuseWait (m : Ctl) (e : Edit) : (m.edit e).fuseWait = m.fuseWait := by cases m; rfl
@[simp] theorem Ctl.edit_lease (m : Ctl) (e : Edit) : (m.edit e).lease = m.lease := by cases m; rfl
@[simp] theorem Ctl.edit_absent (m : Ctl) (e : Edit) : (m.edit e).absent = m.absent := by cases m; rfl
@[simp] theorem Ctl.edit_longAbsent (m : Ctl) (e : Edit) : (m.edit e).longAbsent = m.longAbsent := by cases m; rfl
@[simp] theorem Ctl.edit_commit (m : Ctl) (e : Edit) : (m.edit e).commit = m.commit := by cases m; rfl
@[simp] theorem Ctl.edit_commitWait (m : Ctl) (e : Edit) : (m.edit e).commitWait = m.commitWait := by cases m; rfl
@[simp] theorem Ctl.edit_digestNew (m : Ctl) (e : Edit) : (m.edit e).digestNew = m.digestNew := by cases m; rfl
@[simp] theorem Ctl.edit_bistNext (m : Ctl) (e : Edit) : (m.edit e).bistNext = m.bistNext := by cases m; rfl
@[simp] theorem Ctl.edit_bistShort (m : Ctl) (e : Edit) : (m.edit e).bistShort = m.bistShort := by cases m; rfl
@[simp] theorem Ctl.edit_bistFatal (m : Ctl) (e : Edit) : (m.edit e).bistFatal = m.bistFatal := by cases m; rfl
@[simp] theorem Ctl.edit_deadEngines (m : Ctl) (e : Edit) : (m.edit e).deadEngines = m.deadEngines := by cases m; rfl
@[simp] theorem Ctl.edit_deadUnits (m : Ctl) (e : Edit) : (m.edit e).deadUnits = m.deadUnits := by cases m; rfl
@[simp] theorem Ctl.edit_cycles (m : Ctl) (e : Edit) : (m.edit e).cycles = m.cycles := by cases m; rfl
@[simp] theorem Ctl.edit_sliceNo (m : Ctl) (e : Edit) : (m.edit e).sliceNo = m.sliceNo := by cases m; rfl
@[simp] theorem Ctl.edit_sliceDue (m : Ctl) (e : Edit) : (m.edit e).sliceDue = m.sliceDue := by cases m; rfl
@[simp] theorem Ctl.edit_sliceBnd (m : Ctl) (e : Edit) : (m.edit e).sliceBnd = m.sliceBnd := by cases m; rfl
@[simp] theorem Ctl.edit_scrubBnd (m : Ctl) (e : Edit) : (m.edit e).scrubBnd = m.scrubBnd := by cases m; rfl
@[simp] theorem Ctl.edit_present (m : Ctl) (e : Edit) : (m.edit e).present = m.present := by cases m; rfl
@[simp] theorem Ctl.edit_slices (m : Ctl) (e : Edit) : (m.edit e).slices = m.slices := by cases m; rfl
@[simp] theorem Ctl.edit_march (m : Ctl) (e : Edit) : (m.edit e).march = m.march := by cases m; rfl
@[simp] theorem Ctl.edit_trims (m : Ctl) (e : Edit) : (m.edit e).trims = m.trims := by cases m; rfl
@[simp] theorem Ctl.edit_factoryReq (m : Ctl) (e : Edit) : (m.edit e).factoryReq = m.factoryReq := by cases m; rfl

@[simp] theorem Ctl.raiseAs_now (m : Ctl) (s : Source) (n : Nat) (b : Bool) : (m.raiseAs s n b).now = m.now := by cases m; rfl
@[simp] theorem Ctl.raiseAs_free (m : Ctl) (s : Source) (n : Nat) (b : Bool) : (m.raiseAs s n b).free = m.free := by cases m; rfl
@[simp] theorem Ctl.raiseAs_power (m : Ctl) (s : Source) (n : Nat) (b : Bool) : (m.raiseAs s n b).power = m.power := by cases m; rfl
@[simp] theorem Ctl.raiseAs_flds (m : Ctl) (s : Source) (n : Nat) (b : Bool) : (m.raiseAs s n b).flds = m.flds := by cases m; rfl
@[simp] theorem Ctl.raiseAs_staged (m : Ctl) (s : Source) (n : Nat) (b : Bool) : (m.raiseAs s n b).staged = m.staged := by cases m; rfl
@[simp] theorem Ctl.raiseAs_sesPend (m : Ctl) (s : Source) (n : Nat) (b : Bool) : (m.raiseAs s n b).sesPend = m.sesPend := by cases m; rfl
@[simp] theorem Ctl.raiseAs_caps (m : Ctl) (s : Source) (n : Nat) (b : Bool) : (m.raiseAs s n b).caps = m.caps := by cases m; rfl
@[simp] theorem Ctl.raiseAs_pcs (m : Ctl) (s : Source) (n : Nat) (b : Bool) : (m.raiseAs s n b).pcs = m.pcs := by cases m; rfl
@[simp] theorem Ctl.raiseAs_pa (m : Ctl) (s : Source) (n : Nat) (b : Bool) : (m.raiseAs s n b).pa = m.pa := by cases m; rfl
@[simp] theorem Ctl.raiseAs_pb (m : Ctl) (s : Source) (n : Nat) (b : Bool) : (m.raiseAs s n b).pb = m.pb := by cases m; rfl
@[simp] theorem Ctl.raiseAs_comets (m : Ctl) (s : Source) (n : Nat) (b : Bool) : (m.raiseAs s n b).comets = m.comets := by cases m; rfl
@[simp] theorem Ctl.raiseAs_rings (m : Ctl) (s : Source) (n : Nat) (b : Bool) : (m.raiseAs s n b).rings = m.rings := by cases m; rfl
@[simp] theorem Ctl.raiseAs_engines (m : Ctl) (s : Source) (n : Nat) (b : Bool) : (m.raiseAs s n b).engines = m.engines := by cases m; rfl
@[simp] theorem Ctl.raiseAs_rrRing (m : Ctl) (s : Source) (n : Nat) (b : Bool) : (m.raiseAs s n b).rrRing = m.rrRing := by cases m; rfl
@[simp] theorem Ctl.raiseAs_edits (m : Ctl) (s : Source) (n : Nat) (b : Bool) : (m.raiseAs s n b).edits = m.edits := by cases m; rfl
@[simp] theorem Ctl.raiseAs_out (m : Ctl) (s : Source) (n : Nat) (b : Bool) : (m.raiseAs s n b).out = m.out := by cases m; rfl
@[simp] theorem Ctl.raiseAs_svc (m : Ctl) (s : Source) (n : Nat) (b : Bool) : (m.raiseAs s n b).svc = m.svc := by cases m; rfl
@[simp] theorem Ctl.raiseAs_tel (m : Ctl) (s : Source) (n : Nat) (b : Bool) : (m.raiseAs s n b).tel = m.tel := by cases m; rfl
@[simp] theorem Ctl.raiseAs_qmax (m : Ctl) (s : Source) (n : Nat) (b : Bool) : (m.raiseAs s n b).qmax = m.qmax := by cases m; rfl
@[simp] theorem Ctl.raiseAs_rmap (m : Ctl) (s : Source) (n : Nat) (b : Bool) : (m.raiseAs s n b).rmap = m.rmap := by cases m; rfl
@[simp] theorem Ctl.raiseAs_deadSpares (m : Ctl) (s : Source) (n : Nat) (b : Bool) : (m.raiseAs s n b).deadSpares = m.deadSpares := by cases m; rfl
@[simp] theorem Ctl.raiseAs_badReserved (m : Ctl) (s : Source) (n : Nat) (b : Bool) : (m.raiseAs s n b).badReserved = m.badReserved := by cases m; rfl
@[simp] theorem Ctl.raiseAs_held (m : Ctl) (s : Source) (n : Nat) (b : Bool) : (m.raiseAs s n b).held = m.held := by cases m; rfl
@[simp] theorem Ctl.raiseAs_ovfNext (m : Ctl) (s : Source) (n : Nat) (b : Bool) : (m.raiseAs s n b).ovfNext = m.ovfNext := by cases m; rfl
@[simp] theorem Ctl.raiseAs_cellarOk (m : Ctl) (s : Source) (n : Nat) (b : Bool) : (m.raiseAs s n b).cellarOk = m.cellarOk := by cases m; rfl
@[simp] theorem Ctl.raiseAs_ovfRead (m : Ctl) (s : Source) (n : Nat) (b : Bool) : (m.raiseAs s n b).ovfRead = m.ovfRead := by cases m; rfl
@[simp] theorem Ctl.raiseAs_links (m : Ctl) (s : Source) (n : Nat) (b : Bool) : (m.raiseAs s n b).links = m.links := by cases m; rfl
@[simp] theorem Ctl.raiseAs_mirs (m : Ctl) (s : Source) (n : Nat) (b : Bool) : (m.raiseAs s n b).mirs = m.mirs := by cases m; rfl
@[simp] theorem Ctl.raiseAs_mirWait (m : Ctl) (s : Source) (n : Nat) (b : Bool) : (m.raiseAs s n b).mirWait = m.mirWait := by cases m; rfl
@[simp] theorem Ctl.raiseAs_bnd (m : Ctl) (s : Source) (n : Nat) (b : Bool) : (m.raiseAs s n b).bnd = m.bnd := by cases m; rfl
@[simp] theorem Ctl.raiseAs_dies (m : Ctl) (s : Source) (n : Nat) (b : Bool) : (m.raiseAs s n b).dies = m.dies := by cases m; rfl
@[simp] theorem Ctl.raiseAs_acts (m : Ctl) (s : Source) (n : Nat) (b : Bool) : (m.raiseAs s n b).acts = m.acts := by cases m; rfl
@[simp] theorem Ctl.raiseAs_orbitAt (m : Ctl) (s : Source) (n : Nat) (b : Bool) : (m.raiseAs s n b).orbitAt = m.orbitAt := by cases m; rfl
@[simp] theorem Ctl.raiseAs_pace (m : Ctl) (s : Source) (n : Nat) (b : Bool) : (m.raiseAs s n b).pace = m.pace := by cases m; rfl
@[simp] theorem Ctl.raiseAs_clk (m : Ctl) (s : Source) (n : Nat) (b : Bool) : (m.raiseAs s n b).clk = m.clk := by cases m; rfl
@[simp] theorem Ctl.raiseAs_orb (m : Ctl) (s : Source) (n : Nat) (b : Bool) : (m.raiseAs s n b).orb = m.orb := by cases m; rfl
@[simp] theorem Ctl.raiseAs_entry (m : Ctl) (s : Source) (n : Nat) (b : Bool) : (m.raiseAs s n b).entry = m.entry := by cases m; rfl
@[simp] theorem Ctl.raiseAs_idle (m : Ctl) (s : Source) (n : Nat) (b : Bool) : (m.raiseAs s n b).idle = m.idle := by cases m; rfl
@[simp] theorem Ctl.raiseAs_worked (m : Ctl) (s : Source) (n : Nat) (b : Bool) : (m.raiseAs s n b).worked = m.worked := by cases m; rfl
@[simp] theorem Ctl.raiseAs_wakeHeld (m : Ctl) (s : Source) (n : Nat) (b : Bool) : (m.raiseAs s n b).wakeHeld = m.wakeHeld := by cases m; rfl
@[simp] theorem Ctl.raiseAs_image (m : Ctl) (s : Source) (n : Nat) (b : Bool) : (m.raiseAs s n b).image = m.image := by cases m; rfl
@[simp] theorem Ctl.raiseAs_overs (m : Ctl) (s : Source) (n : Nat) (b : Bool) : (m.raiseAs s n b).overs = m.overs := by cases m; rfl
@[simp] theorem Ctl.raiseAs_lost (m : Ctl) (s : Source) (n : Nat) (b : Bool) : (m.raiseAs s n b).lost = m.lost := by cases m; rfl
@[simp] theorem Ctl.raiseAs_resetLow (m : Ctl) (s : Source) (n : Nat) (b : Bool) : (m.raiseAs s n b).resetLow = m.resetLow := by cases m; rfl
@[simp] theorem Ctl.raiseAs_vinBad (m : Ctl) (s : Source) (n : Nat) (b : Bool) : (m.raiseAs s n b).vinBad = m.vinBad := by cases m; rfl
@[simp] theorem Ctl.raiseAs_vphyBad (m : Ctl) (s : Source) (n : Nat) (b : Bool) : (m.raiseAs s n b).vphyBad = m.vphyBad := by cases m; rfl
@[simp] theorem Ctl.raiseAs_stepAge (m : Ctl) (s : Source) (n : Nat) (b : Bool) : (m.raiseAs s n b).stepAge = m.stepAge := by cases m; rfl
@[simp] theorem Ctl.raiseAs_warmAge (m : Ctl) (s : Source) (n : Nat) (b : Bool) : (m.raiseAs s n b).warmAge = m.warmAge := by cases m; rfl
@[simp] theorem Ctl.raiseAs_cutOff (m : Ctl) (s : Source) (n : Nat) (b : Bool) : (m.raiseAs s n b).cutOff = m.cutOff := by cases m; rfl
@[simp] theorem Ctl.raiseAs_shut (m : Ctl) (s : Source) (n : Nat) (b : Bool) : (m.raiseAs s n b).shut = m.shut := by cases m; rfl
@[simp] theorem Ctl.raiseAs_sampleAge (m : Ctl) (s : Source) (n : Nat) (b : Bool) : (m.raiseAs s n b).sampleAge = m.sampleAge := by cases m; rfl
@[simp] theorem Ctl.raiseAs_fuse (m : Ctl) (s : Source) (n : Nat) (b : Bool) : (m.raiseAs s n b).fuse = m.fuse := by cases m; rfl
@[simp] theorem Ctl.raiseAs_fuseSeen (m : Ctl) (s : Source) (n : Nat) (b : Bool) : (m.raiseAs s n b).fuseSeen = m.fuseSeen := by cases m; rfl
@[simp] theorem Ctl.raiseAs_fuseOp (m : Ctl) (s : Source) (n : Nat) (b : Bool) : (m.raiseAs s n b).fuseOp = m.fuseOp := by cases m; rfl
@[simp] theorem Ctl.raiseAs_fuseWait (m : Ctl) (s : Source) (n : Nat) (b : Bool) : (m.raiseAs s n b).fuseWait = m.fuseWait := by cases m; rfl
@[simp] theorem Ctl.raiseAs_lease (m : Ctl) (s : Source) (n : Nat) (b : Bool) : (m.raiseAs s n b).lease = m.lease := by cases m; rfl
@[simp] theorem Ctl.raiseAs_absent (m : Ctl) (s : Source) (n : Nat) (b : Bool) : (m.raiseAs s n b).absent = m.absent := by cases m; rfl
@[simp] theorem Ctl.raiseAs_longAbsent (m : Ctl) (s : Source) (n : Nat) (b : Bool) : (m.raiseAs s n b).longAbsent = m.longAbsent := by cases m; rfl
@[simp] theorem Ctl.raiseAs_commit (m : Ctl) (s : Source) (n : Nat) (b : Bool) : (m.raiseAs s n b).commit = m.commit := by cases m; rfl
@[simp] theorem Ctl.raiseAs_commitWait (m : Ctl) (s : Source) (n : Nat) (b : Bool) : (m.raiseAs s n b).commitWait = m.commitWait := by cases m; rfl
@[simp] theorem Ctl.raiseAs_digestNew (m : Ctl) (s : Source) (n : Nat) (b : Bool) : (m.raiseAs s n b).digestNew = m.digestNew := by cases m; rfl
@[simp] theorem Ctl.raiseAs_bistNext (m : Ctl) (s : Source) (n : Nat) (b : Bool) : (m.raiseAs s n b).bistNext = m.bistNext := by cases m; rfl
@[simp] theorem Ctl.raiseAs_bistShort (m : Ctl) (s : Source) (n : Nat) (b : Bool) : (m.raiseAs s n b).bistShort = m.bistShort := by cases m; rfl
@[simp] theorem Ctl.raiseAs_bistFatal (m : Ctl) (s : Source) (n : Nat) (b : Bool) : (m.raiseAs s n b).bistFatal = m.bistFatal := by cases m; rfl
@[simp] theorem Ctl.raiseAs_deadEngines (m : Ctl) (s : Source) (n : Nat) (b : Bool) : (m.raiseAs s n b).deadEngines = m.deadEngines := by cases m; rfl
@[simp] theorem Ctl.raiseAs_deadUnits (m : Ctl) (s : Source) (n : Nat) (b : Bool) : (m.raiseAs s n b).deadUnits = m.deadUnits := by cases m; rfl
@[simp] theorem Ctl.raiseAs_cycles (m : Ctl) (s : Source) (n : Nat) (b : Bool) : (m.raiseAs s n b).cycles = m.cycles := by cases m; rfl
@[simp] theorem Ctl.raiseAs_sliceNo (m : Ctl) (s : Source) (n : Nat) (b : Bool) : (m.raiseAs s n b).sliceNo = m.sliceNo := by cases m; rfl
@[simp] theorem Ctl.raiseAs_sliceDue (m : Ctl) (s : Source) (n : Nat) (b : Bool) : (m.raiseAs s n b).sliceDue = m.sliceDue := by cases m; rfl
@[simp] theorem Ctl.raiseAs_sliceBnd (m : Ctl) (s : Source) (n : Nat) (b : Bool) : (m.raiseAs s n b).sliceBnd = m.sliceBnd := by cases m; rfl
@[simp] theorem Ctl.raiseAs_scrubBnd (m : Ctl) (s : Source) (n : Nat) (b : Bool) : (m.raiseAs s n b).scrubBnd = m.scrubBnd := by cases m; rfl
@[simp] theorem Ctl.raiseAs_present (m : Ctl) (s : Source) (n : Nat) (b : Bool) : (m.raiseAs s n b).present = m.present := by cases m; rfl
@[simp] theorem Ctl.raiseAs_slices (m : Ctl) (s : Source) (n : Nat) (b : Bool) : (m.raiseAs s n b).slices = m.slices := by cases m; rfl
@[simp] theorem Ctl.raiseAs_march (m : Ctl) (s : Source) (n : Nat) (b : Bool) : (m.raiseAs s n b).march = m.march := by cases m; rfl
@[simp] theorem Ctl.raiseAs_trims (m : Ctl) (s : Source) (n : Nat) (b : Bool) : (m.raiseAs s n b).trims = m.trims := by cases m; rfl
@[simp] theorem Ctl.raiseAs_factoryReq (m : Ctl) (s : Source) (n : Nat) (b : Bool) : (m.raiseAs s n b).factoryReq = m.factoryReq := by cases m; rfl

@[simp] theorem Ctl.setPort_pa (m : Ctl) (x : PortSt) : m.setPort .a x = { m with pa := x } := rfl
@[simp] theorem Ctl.port_pa (m : Ctl) : m.port .a = m.pa := rfl
@[simp] theorem Ctl.setPort_pb (m : Ctl) (x : PortSt) : m.setPort .b x = { m with pb := x } := rfl
@[simp] theorem Ctl.port_pb (m : Ctl) : m.port .b = m.pb := rfl
@[simp] theorem Ctl.fresh_now (m : Ctl) : m.fresh.now = m.now := by cases m; rfl
@[simp] theorem Ctl.fresh_free (m : Ctl) : m.fresh.free = m.free := by cases m; rfl
@[simp] theorem Ctl.fresh_power (m : Ctl) : m.fresh.power = m.power := by cases m; rfl
@[simp] theorem Ctl.fresh_flds (m : Ctl) : m.fresh.flds = m.flds := by cases m; rfl
@[simp] theorem Ctl.fresh_staged (m : Ctl) : m.fresh.staged = m.staged := by cases m; rfl
@[simp] theorem Ctl.fresh_sesPend (m : Ctl) : m.fresh.sesPend = m.sesPend := by cases m; rfl
@[simp] theorem Ctl.fresh_caps (m : Ctl) : m.fresh.caps = m.caps := by cases m; rfl
@[simp] theorem Ctl.fresh_pcs (m : Ctl) : m.fresh.pcs = m.pcs := by cases m; rfl
@[simp] theorem Ctl.fresh_pa (m : Ctl) : m.fresh.pa = m.pa := by cases m; rfl
@[simp] theorem Ctl.fresh_pb (m : Ctl) : m.fresh.pb = m.pb := by cases m; rfl
@[simp] theorem Ctl.fresh_comets (m : Ctl) : m.fresh.comets = m.comets := by cases m; rfl
@[simp] theorem Ctl.fresh_rings (m : Ctl) : m.fresh.rings = m.rings := by cases m; rfl
@[simp] theorem Ctl.fresh_engines (m : Ctl) : m.fresh.engines = m.engines := by cases m; rfl
@[simp] theorem Ctl.fresh_rrRing (m : Ctl) : m.fresh.rrRing = m.rrRing := by cases m; rfl
@[simp] theorem Ctl.fresh_edits (m : Ctl) : m.fresh.edits = [] := by cases m; rfl
@[simp] theorem Ctl.fresh_raised (m : Ctl) : m.fresh.raised = [] := by cases m; rfl
@[simp] theorem Ctl.fresh_out (m : Ctl) : m.fresh.out = [] := by cases m; rfl
@[simp] theorem Ctl.fresh_svc (m : Ctl) : m.fresh.svc = m.svc := by cases m; rfl
@[simp] theorem Ctl.fresh_tel (m : Ctl) : m.fresh.tel = m.tel := by cases m; rfl
@[simp] theorem Ctl.fresh_qmax (m : Ctl) : m.fresh.qmax = m.qmax := by cases m; rfl
@[simp] theorem Ctl.fresh_rmap (m : Ctl) : m.fresh.rmap = m.rmap := by cases m; rfl
@[simp] theorem Ctl.fresh_deadSpares (m : Ctl) : m.fresh.deadSpares = m.deadSpares := by cases m; rfl
@[simp] theorem Ctl.fresh_badReserved (m : Ctl) : m.fresh.badReserved = m.badReserved := by cases m; rfl
@[simp] theorem Ctl.fresh_held (m : Ctl) : m.fresh.held = m.held := by cases m; rfl
@[simp] theorem Ctl.fresh_ovfNext (m : Ctl) : m.fresh.ovfNext = m.ovfNext := by cases m; rfl
@[simp] theorem Ctl.fresh_cellarOk (m : Ctl) : m.fresh.cellarOk = m.cellarOk := by cases m; rfl
@[simp] theorem Ctl.fresh_ovfRead (m : Ctl) : m.fresh.ovfRead = m.ovfRead := by cases m; rfl
@[simp] theorem Ctl.fresh_links (m : Ctl) : m.fresh.links = m.links := by cases m; rfl
@[simp] theorem Ctl.fresh_mirs (m : Ctl) : m.fresh.mirs = m.mirs := by cases m; rfl
@[simp] theorem Ctl.fresh_mirWait (m : Ctl) : m.fresh.mirWait = m.mirWait := by cases m; rfl
@[simp] theorem Ctl.fresh_bnd (m : Ctl) : m.fresh.bnd = m.bnd := by cases m; rfl
@[simp] theorem Ctl.fresh_dies (m : Ctl) : m.fresh.dies = m.dies := by cases m; rfl
@[simp] theorem Ctl.fresh_acts (m : Ctl) : m.fresh.acts = m.acts := by cases m; rfl
@[simp] theorem Ctl.fresh_orbitAt (m : Ctl) : m.fresh.orbitAt = m.orbitAt := by cases m; rfl
@[simp] theorem Ctl.fresh_pace (m : Ctl) : m.fresh.pace = m.pace := by cases m; rfl
@[simp] theorem Ctl.fresh_clk (m : Ctl) : m.fresh.clk = m.clk := by cases m; rfl
@[simp] theorem Ctl.fresh_orb (m : Ctl) : m.fresh.orb = m.orb := by cases m; rfl
@[simp] theorem Ctl.fresh_entry (m : Ctl) : m.fresh.entry = m.entry := by cases m; rfl
@[simp] theorem Ctl.fresh_idle (m : Ctl) : m.fresh.idle = m.idle := by cases m; rfl
@[simp] theorem Ctl.fresh_worked (m : Ctl) : m.fresh.worked = m.worked := by cases m; rfl
@[simp] theorem Ctl.fresh_wakeHeld (m : Ctl) : m.fresh.wakeHeld = m.wakeHeld := by cases m; rfl
@[simp] theorem Ctl.fresh_image (m : Ctl) : m.fresh.image = m.image := by cases m; rfl
@[simp] theorem Ctl.fresh_overs (m : Ctl) : m.fresh.overs = m.overs := by cases m; rfl
@[simp] theorem Ctl.fresh_lost (m : Ctl) : m.fresh.lost = m.lost := by cases m; rfl
@[simp] theorem Ctl.fresh_resetLow (m : Ctl) : m.fresh.resetLow = m.resetLow := by cases m; rfl
@[simp] theorem Ctl.fresh_vinBad (m : Ctl) : m.fresh.vinBad = m.vinBad := by cases m; rfl
@[simp] theorem Ctl.fresh_vphyBad (m : Ctl) : m.fresh.vphyBad = m.vphyBad := by cases m; rfl
@[simp] theorem Ctl.fresh_stepAge (m : Ctl) : m.fresh.stepAge = m.stepAge := by cases m; rfl
@[simp] theorem Ctl.fresh_warmAge (m : Ctl) : m.fresh.warmAge = m.warmAge := by cases m; rfl
@[simp] theorem Ctl.fresh_cutOff (m : Ctl) : m.fresh.cutOff = m.cutOff := by cases m; rfl
@[simp] theorem Ctl.fresh_shut (m : Ctl) : m.fresh.shut = m.shut := by cases m; rfl
@[simp] theorem Ctl.fresh_sampleAge (m : Ctl) : m.fresh.sampleAge = m.sampleAge := by cases m; rfl
@[simp] theorem Ctl.fresh_fuse (m : Ctl) : m.fresh.fuse = m.fuse := by cases m; rfl
@[simp] theorem Ctl.fresh_fuseSeen (m : Ctl) : m.fresh.fuseSeen = m.fuseSeen := by cases m; rfl
@[simp] theorem Ctl.fresh_fuseOp (m : Ctl) : m.fresh.fuseOp = m.fuseOp := by cases m; rfl
@[simp] theorem Ctl.fresh_fuseWait (m : Ctl) : m.fresh.fuseWait = m.fuseWait := by cases m; rfl
@[simp] theorem Ctl.fresh_lease (m : Ctl) : m.fresh.lease = m.lease := by cases m; rfl
@[simp] theorem Ctl.fresh_absent (m : Ctl) : m.fresh.absent = m.absent := by cases m; rfl
@[simp] theorem Ctl.fresh_longAbsent (m : Ctl) : m.fresh.longAbsent = m.longAbsent := by cases m; rfl
@[simp] theorem Ctl.fresh_commit (m : Ctl) : m.fresh.commit = m.commit := by cases m; rfl
@[simp] theorem Ctl.fresh_commitWait (m : Ctl) : m.fresh.commitWait = m.commitWait := by cases m; rfl
@[simp] theorem Ctl.fresh_digestNew (m : Ctl) : m.fresh.digestNew = m.digestNew := by cases m; rfl
@[simp] theorem Ctl.fresh_bistNext (m : Ctl) : m.fresh.bistNext = m.bistNext := by cases m; rfl
@[simp] theorem Ctl.fresh_bistShort (m : Ctl) : m.fresh.bistShort = m.bistShort := by cases m; rfl
@[simp] theorem Ctl.fresh_bistFatal (m : Ctl) : m.fresh.bistFatal = m.bistFatal := by cases m; rfl
@[simp] theorem Ctl.fresh_deadEngines (m : Ctl) : m.fresh.deadEngines = m.deadEngines := by cases m; rfl
@[simp] theorem Ctl.fresh_deadUnits (m : Ctl) : m.fresh.deadUnits = m.deadUnits := by cases m; rfl
@[simp] theorem Ctl.fresh_cycles (m : Ctl) : m.fresh.cycles = m.cycles := by cases m; rfl
@[simp] theorem Ctl.fresh_sliceNo (m : Ctl) : m.fresh.sliceNo = m.sliceNo := by cases m; rfl
@[simp] theorem Ctl.fresh_sliceDue (m : Ctl) : m.fresh.sliceDue = m.sliceDue := by cases m; rfl
@[simp] theorem Ctl.fresh_sliceBnd (m : Ctl) : m.fresh.sliceBnd = m.sliceBnd := by cases m; rfl
@[simp] theorem Ctl.fresh_scrubBnd (m : Ctl) : m.fresh.scrubBnd = m.scrubBnd := by cases m; rfl
@[simp] theorem Ctl.fresh_present (m : Ctl) : m.fresh.present = m.present := by cases m; rfl
@[simp] theorem Ctl.fresh_slices (m : Ctl) : m.fresh.slices = m.slices := by cases m; rfl
@[simp] theorem Ctl.fresh_march (m : Ctl) : m.fresh.march = m.march := by cases m; rfl
@[simp] theorem Ctl.fresh_trims (m : Ctl) : m.fresh.trims = m.trims := by cases m; rfl
@[simp] theorem Ctl.fresh_factoryReq (m : Ctl) : m.fresh.factoryReq = m.factoryReq := by cases m; rfl

@[simp] theorem Ctl.rest_now (m : Ctl) : m.rest.now = m.now := by cases m; rfl
@[simp] theorem Ctl.rest_free (m : Ctl) : m.rest.free = m.free := by cases m; rfl
@[simp] theorem Ctl.rest_power (m : Ctl) : m.rest.power = m.power := by cases m; rfl
@[simp] theorem Ctl.rest_flds (m : Ctl) : m.rest.flds = [] := by cases m; rfl
@[simp] theorem Ctl.rest_staged (m : Ctl) : m.rest.staged = m.staged := by cases m; rfl
@[simp] theorem Ctl.rest_sesPend (m : Ctl) : m.rest.sesPend = m.sesPend := by cases m; rfl
@[simp] theorem Ctl.rest_caps (m : Ctl) : m.rest.caps = m.caps := by cases m; rfl
@[simp] theorem Ctl.rest_pcs (m : Ctl) : m.rest.pcs = m.pcs := by cases m; rfl
@[simp] theorem Ctl.rest_pa (m : Ctl) : m.rest.pa = m.pa := by cases m; rfl
@[simp] theorem Ctl.rest_pb (m : Ctl) : m.rest.pb = m.pb := by cases m; rfl
@[simp] theorem Ctl.rest_comets (m : Ctl) : m.rest.comets = m.comets := by cases m; rfl
@[simp] theorem Ctl.rest_rings (m : Ctl) : m.rest.rings = m.rings := by cases m; rfl
@[simp] theorem Ctl.rest_engines (m : Ctl) : m.rest.engines = m.engines := by cases m; rfl
@[simp] theorem Ctl.rest_rrRing (m : Ctl) : m.rest.rrRing = m.rrRing := by cases m; rfl
@[simp] theorem Ctl.rest_edits (m : Ctl) : m.rest.edits = [] := by cases m; rfl
@[simp] theorem Ctl.rest_raised (m : Ctl) : m.rest.raised = [] := by cases m; rfl
@[simp] theorem Ctl.rest_out (m : Ctl) : m.rest.out = [] := by cases m; rfl
@[simp] theorem Ctl.rest_svc (m : Ctl) : m.rest.svc = m.svc := by cases m; rfl
@[simp] theorem Ctl.rest_tel (m : Ctl) : m.rest.tel = m.tel := by cases m; rfl
@[simp] theorem Ctl.rest_qmax (m : Ctl) : m.rest.qmax = m.qmax := by cases m; rfl
@[simp] theorem Ctl.rest_rmap (m : Ctl) : m.rest.rmap = m.rmap := by cases m; rfl
@[simp] theorem Ctl.rest_deadSpares (m : Ctl) : m.rest.deadSpares = m.deadSpares := by cases m; rfl
@[simp] theorem Ctl.rest_badReserved (m : Ctl) : m.rest.badReserved = m.badReserved := by cases m; rfl
@[simp] theorem Ctl.rest_held (m : Ctl) : m.rest.held = m.held := by cases m; rfl
@[simp] theorem Ctl.rest_ovfNext (m : Ctl) : m.rest.ovfNext = m.ovfNext := by cases m; rfl
@[simp] theorem Ctl.rest_cellarOk (m : Ctl) : m.rest.cellarOk = m.cellarOk := by cases m; rfl
@[simp] theorem Ctl.rest_ovfRead (m : Ctl) : m.rest.ovfRead = m.ovfRead := by cases m; rfl
@[simp] theorem Ctl.rest_links (m : Ctl) : m.rest.links = m.links := by cases m; rfl
@[simp] theorem Ctl.rest_mirs (m : Ctl) : m.rest.mirs = m.mirs := by cases m; rfl
@[simp] theorem Ctl.rest_mirWait (m : Ctl) : m.rest.mirWait = m.mirWait := by cases m; rfl
@[simp] theorem Ctl.rest_bnd (m : Ctl) : m.rest.bnd = m.bnd := by cases m; rfl
@[simp] theorem Ctl.rest_dies (m : Ctl) : m.rest.dies = m.dies := by cases m; rfl
@[simp] theorem Ctl.rest_acts (m : Ctl) : m.rest.acts = m.acts := by cases m; rfl
@[simp] theorem Ctl.rest_orbitAt (m : Ctl) : m.rest.orbitAt = m.orbitAt := by cases m; rfl
@[simp] theorem Ctl.rest_pace (m : Ctl) : m.rest.pace = m.pace := by cases m; rfl
@[simp] theorem Ctl.rest_clk (m : Ctl) : m.rest.clk = m.clk := by cases m; rfl
@[simp] theorem Ctl.rest_orb (m : Ctl) : m.rest.orb = m.orb := by cases m; rfl
@[simp] theorem Ctl.rest_entry (m : Ctl) : m.rest.entry = m.entry := by cases m; rfl
@[simp] theorem Ctl.rest_idle (m : Ctl) : m.rest.idle = m.idle := by cases m; rfl
@[simp] theorem Ctl.rest_wakeHeld (m : Ctl) : m.rest.wakeHeld = m.wakeHeld := by cases m; rfl
@[simp] theorem Ctl.rest_image (m : Ctl) : m.rest.image = m.image := by cases m; rfl
@[simp] theorem Ctl.rest_overs (m : Ctl) : m.rest.overs = m.overs := by cases m; rfl
@[simp] theorem Ctl.rest_lost (m : Ctl) : m.rest.lost = m.lost := by cases m; rfl
@[simp] theorem Ctl.rest_resetLow (m : Ctl) : m.rest.resetLow = m.resetLow := by cases m; rfl
@[simp] theorem Ctl.rest_vinBad (m : Ctl) : m.rest.vinBad = m.vinBad := by cases m; rfl
@[simp] theorem Ctl.rest_vphyBad (m : Ctl) : m.rest.vphyBad = m.vphyBad := by cases m; rfl
@[simp] theorem Ctl.rest_stepAge (m : Ctl) : m.rest.stepAge = m.stepAge := by cases m; rfl
@[simp] theorem Ctl.rest_warmAge (m : Ctl) : m.rest.warmAge = m.warmAge := by cases m; rfl
@[simp] theorem Ctl.rest_cutOff (m : Ctl) : m.rest.cutOff = m.cutOff := by cases m; rfl
@[simp] theorem Ctl.rest_shut (m : Ctl) : m.rest.shut = m.shut := by cases m; rfl
@[simp] theorem Ctl.rest_sampleAge (m : Ctl) : m.rest.sampleAge = m.sampleAge := by cases m; rfl
@[simp] theorem Ctl.rest_fuse (m : Ctl) : m.rest.fuse = m.fuse := by cases m; rfl
@[simp] theorem Ctl.rest_fuseSeen (m : Ctl) : m.rest.fuseSeen = m.fuseSeen := by cases m; rfl
@[simp] theorem Ctl.rest_fuseOp (m : Ctl) : m.rest.fuseOp = m.fuseOp := by cases m; rfl
@[simp] theorem Ctl.rest_fuseWait (m : Ctl) : m.rest.fuseWait = m.fuseWait := by cases m; rfl
@[simp] theorem Ctl.rest_lease (m : Ctl) : m.rest.lease = m.lease := by cases m; rfl
@[simp] theorem Ctl.rest_absent (m : Ctl) : m.rest.absent = m.absent := by cases m; rfl
@[simp] theorem Ctl.rest_longAbsent (m : Ctl) : m.rest.longAbsent = m.longAbsent := by cases m; rfl
@[simp] theorem Ctl.rest_commit (m : Ctl) : m.rest.commit = m.commit := by cases m; rfl
@[simp] theorem Ctl.rest_commitWait (m : Ctl) : m.rest.commitWait = m.commitWait := by cases m; rfl
@[simp] theorem Ctl.rest_digestNew (m : Ctl) : m.rest.digestNew = m.digestNew := by cases m; rfl
@[simp] theorem Ctl.rest_bistNext (m : Ctl) : m.rest.bistNext = m.bistNext := by cases m; rfl
@[simp] theorem Ctl.rest_bistShort (m : Ctl) : m.rest.bistShort = m.bistShort := by cases m; rfl
@[simp] theorem Ctl.rest_bistFatal (m : Ctl) : m.rest.bistFatal = m.bistFatal := by cases m; rfl
@[simp] theorem Ctl.rest_deadEngines (m : Ctl) : m.rest.deadEngines = m.deadEngines := by cases m; rfl
@[simp] theorem Ctl.rest_deadUnits (m : Ctl) : m.rest.deadUnits = m.deadUnits := by cases m; rfl
@[simp] theorem Ctl.rest_cycles (m : Ctl) : m.rest.cycles = m.cycles := by cases m; rfl
@[simp] theorem Ctl.rest_sliceNo (m : Ctl) : m.rest.sliceNo = m.sliceNo := by cases m; rfl
@[simp] theorem Ctl.rest_sliceDue (m : Ctl) : m.rest.sliceDue = m.sliceDue := by cases m; rfl
@[simp] theorem Ctl.rest_sliceBnd (m : Ctl) : m.rest.sliceBnd = m.sliceBnd := by cases m; rfl
@[simp] theorem Ctl.rest_scrubBnd (m : Ctl) : m.rest.scrubBnd = m.scrubBnd := by cases m; rfl
@[simp] theorem Ctl.rest_present (m : Ctl) : m.rest.present = m.present := by cases m; rfl
@[simp] theorem Ctl.rest_slices (m : Ctl) : m.rest.slices = m.slices := by cases m; rfl
@[simp] theorem Ctl.rest_march (m : Ctl) : m.rest.march = m.march := by cases m; rfl
@[simp] theorem Ctl.rest_trims (m : Ctl) : m.rest.trims = m.trims := by cases m; rfl
@[simp] theorem Ctl.rest_factoryReq (m : Ctl) : m.rest.factoryReq = m.factoryReq := by cases m; rfl

/-! ## Register fields -/

/-- A field reads as what was written to it, cut to its width. -/
@[simp] theorem Ctl.get_set_same (m : Ctl) (f : Fld) (i v : Nat) : (m.set f i v).get f i = v % 2 ^ f.width := by
  simp [Ctl.get, Ctl.set]

/-- Writing one field copy leaves every other one as it was. -/
theorem Ctl.get_set_other (m : Ctl) (f g : Fld) (i j v : Nat) (h : fkey g j ≠ fkey f i) :
    (m.set f i v).get g j = m.get g j := by
  simp [Ctl.get, Ctl.set, Sparse.getD, Sparse.find_setD_other _ _ _ _ _ h]

/-- A cleared field reads as its reset value. -/
@[simp] theorem Ctl.get_clear_same (m : Ctl) (f : Fld) (i : Nat) : (m.clear f i).get f i = f.reset i := by
  simp [Ctl.get, Ctl.clear, Sparse.getD]

theorem Ctl.get_clear_other (m : Ctl) (f g : Fld) (i j : Nat) (h : fkey g j ≠ fkey f i) :
    (m.clear f i).get g j = m.get g j := by
  simp [Ctl.get, Ctl.clear, Sparse.getD, Sparse.find_del_other _ _ _ h]

/-- Fields depend on the field table alone. -/
theorem Ctl.get_congr {m m' : Ctl} (h : m'.flds = m.flds) (f : Fld) (i : Nat) : m'.get f i = m.get f i := by
  simp [Ctl.get, h]

@[simp] theorem Ctl.get_setPc (m : Ctl) (i : Nat) (x : Pc) (f : Fld) (j : Nat) : (m.setPc i x).get f j = m.get f j := by cases m; rfl
@[simp] theorem Ctl.get_emit (m : Ctl) (o : Out) (f : Fld) (j : Nat) : (m.emit o).get f j = m.get f j := by cases m; rfl
@[simp] theorem Ctl.get_edit (m : Ctl) (e : Edit) (f : Fld) (j : Nat) : (m.edit e).get f j = m.get f j := by cases m; rfl
@[simp] theorem Ctl.get_raiseAs (m : Ctl) (s : Source) (n : Nat) (b : Bool) (f : Fld) (j : Nat) :
    (m.raiseAs s n b).get f j = m.get f j := by cases m; rfl
@[simp] theorem Ctl.get_fresh (m : Ctl) (f : Fld) (j : Nat) : m.fresh.get f j = m.get f j := by cases m; rfl

@[simp] theorem Ctl.rest_of_set (m : Ctl) (f : Fld) (i v : Nat) : (m.set f i v).rest = m.rest := by cases m; rfl
@[simp] theorem Ctl.rest_of_fresh (m : Ctl) : m.fresh.rest = m.rest := by cases m; rfl
@[simp] theorem Ctl.rest_of_emit (m : Ctl) (o : Out) : (m.emit o).rest = m.rest := by cases m; rfl
@[simp] theorem Ctl.rest_of_edit (m : Ctl) (e : Edit) : (m.edit e).rest = m.rest := by cases m; rfl
@[simp] theorem Ctl.rest_of_raiseAs (m : Ctl) (s : Source) (n : Nat) (b : Bool) : (m.raiseAs s n b).rest = m.rest := by cases m; rfl

theorem Ctl.SameFlds.refl (m : Ctl) (l : List (Fld × Nat)) : m.SameFlds m l := fun _ _ _ => rfl

/-- Frames compose. -/
theorem Ctl.SameFlds.trans {m m' m'' : Ctl} {l l' : List (Fld × Nat)} (h : m.SameFlds m' l) (h' : m'.SameFlds m'' l') :
    m.SameFlds m'' (l ++ l') := by
  intro f i hn
  simp only [List.map_append, List.mem_append, not_or] at hn
  rw [h' f i hn.2, h f i hn.1]

/-- A frame with fewer fields is a frame with more. -/
theorem Ctl.SameFlds.mono {m m' : Ctl} {l l' : List (Fld × Nat)} (h : m.SameFlds m' l) (hs : ∀ x ∈ l, x ∈ l') :
    m.SameFlds m' l' := by
  intro f i hn
  refine h f i fun hc => hn ?_
  obtain ⟨x, hx, he⟩ := List.mem_map.mp hc
  exact List.mem_map.mpr ⟨x, hs x hx, he⟩

/-- A write changes the field copy it names and no other. -/
theorem Ctl.SameFlds.set (m : Ctl) (f : Fld) (i v : Nat) : m.SameFlds (m.set f i v) [(f, i)] := by
  intro g j h
  exact m.get_set_other f g i j v (by simpa using h)

/-- States with one field table agree on every field. -/
theorem Ctl.SameFlds.of_flds {m m' : Ctl} (h : m'.flds = m.flds) (l : List (Fld × Nat)) : m.SameFlds m' l :=
  fun f i _ => Ctl.get_congr h f i

/-! ## The array -/

/-- A store of a byte leaves what unlisted bytes read as. -/
@[simp] theorem Arr.bg_setByte (a : Arr) (addr x : Nat) (v : Byte) : (a.setByte addr v).bg x = a.bg x := rfl

/-- Without a saved table an unlisted byte reads as 0. -/
theorem Arr.bg_plain {a : Arr} (h : a.image = false) (x : Nat) : a.bg x = 0 := by simp [Arr.bg, h]

/-- Outside the rows of the save an unlisted byte reads as 0. -/
theorem Arr.bg_far (a : Arr) {x : Nat} (h : imageRow (x / 1152) = false) : a.bg x = 0 := by
  simp [Arr.bg, imageByte, h]

/-- P0 and P1 of a row of reset contexts are those that R189 computes. -/
theorem ctxPage_encode : pageEncode (List.replicate 32 ctxReset) = (ctxPage, ctxPage) := by decide +kernel

/-- Every byte of a one-byte store but the stored one reads as before. -/
theorem Arr.byte_setByte (a : Arr) (addr x : Nat) (v : Byte) :
    (a.setByte addr v).byte x = if x = addr then v else a.byte x := by
  rw [Arr.byte, Arr.bg_setByte]
  by_cases h : x = addr
  · subst h; rw [if_pos rfl]; exact Sparse.getD_setD_same _ _ _ _
  · rw [if_neg h]; exact Sparse.getD_setD_other _ _ _ _ _ _ h

/-- After a store of bytes, the stored range reads as what was stored and everything else as before. -/
theorem Arr.byte_setBytes (a : Arr) (addr x : Nat) (bs : List Byte) :
    (a.setBytes addr bs).byte x = if addr ≤ x ∧ x < addr + bs.length then bs.getD (x - addr) 0 else a.byte x := by
  induction bs generalizing a addr with
  | nil => simp only [Arr.setBytes, List.length_nil]; rw [if_neg (by omega)]
  | cons b r ih =>
    simp only [Arr.setBytes, ih, Arr.byte_setByte, List.length_cons]
    by_cases h : x = addr
    · subst h; rw [if_neg (by omega), if_pos rfl, if_pos (by omega)]; simp
    · by_cases h2 : addr + 1 ≤ x ∧ x < addr + 1 + r.length
      · rw [if_pos h2, if_pos (by omega)]
        obtain ⟨k, hk⟩ : ∃ k, x - addr = k + 1 := ⟨x - addr - 1, by omega⟩
        rw [hk]; simp [show x - (addr + 1) = k by omega]
      · rw [if_neg h2, if_neg h, if_neg (by omega)]

theorem Arr.setBytes_errs (a : Arr) (addr : Nat) (bs : List Byte) : (a.setBytes addr bs).errs = a.errs := by
  induction bs generalizing a addr with
  | nil => rfl
  | cons b r ih => simp only [Arr.setBytes, ih]; rfl

theorem Arr.setBytes_marks (a : Arr) (addr : Nat) (bs : List Byte) : (a.setBytes addr bs).marks = a.marks := by
  induction bs generalizing a addr with
  | nil => rfl
  | cons b r ih => simp only [Arr.setBytes, ih]; rfl

theorem Arr.setBytes_image (a : Arr) (addr : Nat) (bs : List Byte) : (a.setBytes addr bs).image = a.image := by
  induction bs generalizing a addr with
  | nil => rfl
  | cons b r ih => simp only [Arr.setBytes, ih]; rfl

/-- The canonical form, part by part. -/
theorem Memory.wf_iff (a : Arr) : Memory.wf a = true ↔
    Sparse.rising a.mem = true ∧ (∀ c ∈ a.mem, c.2 ≠ a.bg c.1) ∧ Sparse.wf a.errs 0 = true ∧ Sparse.wf a.marks false = true := by
  simp [Memory.wf, and_assoc]

/-- A one-byte store keeps the canonical form. -/
theorem Memory.wf_setByte {a : Arr} (addr : Nat) (v : Byte) (h : Memory.wf a = true) :
    Memory.wf (a.setByte addr v) = true := by
  rw [Memory.wf_iff] at h ⊢
  refine ⟨?_, ?_, h.2.2⟩
  · simp only [Arr.setByte, Sparse.setD]
    split
    · exact Sparse.rising_filter _ h.1
    · exact Sparse.rising_put addr v h.1
  · intro c hc
    simp only [Arr.setByte, Sparse.setD] at hc
    split at hc
    · exact h.2.1 c (List.mem_filter.mp hc).1
    · next hv =>
      rcases Sparse.mem_put hc with rfl | hc
      · exact hv
      · exact h.2.1 c hc

/-- Keeping rows whose unlisted bytes read as before keeps the canonical form. -/
theorem Memory.wf_keepRows {a : Arr} (f : Nat → Bool) (image : Bool) (h : Memory.wf a = true)
    (hb : ∀ x, f (x / 1152) = true → (a.keepRows f image).bg x = a.bg x) : Memory.wf (a.keepRows f image) = true := by
  rw [Memory.wf_iff] at h ⊢
  refine ⟨Sparse.rising_filter _ h.1, ?_, Sparse.wf_filter _ h.2.2.1, Sparse.wf_filter _ h.2.2.2⟩
  intro c hc
  obtain ⟨h1, h2⟩ := List.mem_filter.mp hc
  rw [hb c.1 h2]
  exact h.2.1 c h1

/-- A store of bytes keeps the canonical form. -/
theorem Memory.wf_setBytes {a : Arr} (addr : Nat) (bs : List Byte) (h : Memory.wf a = true) :
    Memory.wf (a.setBytes addr bs) = true := by
  induction bs generalizing a addr with
  | nil => exact h
  | cons b r ih => exact ih (addr + 1) (Memory.wf_setByte addr b h)

/-- A wipe keeps the canonical form. -/
theorem Memory.wf_wipe {a : Arr} (lo hi : Nat) (h : Memory.wf a = true) : Memory.wf (a.wipe lo hi) = true := by
  have hk : Memory.wf (a.keepRows (fun k => decide (k < lo) || decide (hi ≤ k))
      (a.image && !(lo == 0 && decide (1024 * 8272 ≤ hi)))) = true := by
    refine Memory.wf_keepRows _ _ h fun x hx => ?_
    by_cases hw : lo = 0 ∧ 1024 * 8272 ≤ hi
    · have hr : imageRow (x / 1152) = false := by
        simp only [Bool.or_eq_true, decide_eq_true_eq] at hx
        have : ¬ x / 1152 < 1024 * 8272 := by omega
        simp only [imageRow, this, decide_false, Bool.false_and]
      rw [Arr.bg_far _ hr, Arr.bg_far _ hr]
    · have : (lo == 0 && decide (1024 * 8272 ≤ hi)) = false := by
        rw [Bool.eq_false_iff]; intro hc; apply hw; simpa using hc
      simp [Arr.bg, Arr.keepRows, this]
  have hf : ∀ (bs : List Byte) (l : List Nat) (b : Arr), Memory.wf b = true →
      Memory.wf (l.foldl (fun b k => b.setBytes (k * 1152) bs) b) = true := by
    intro bs l
    induction l with
    | nil => exact fun _ hb => hb
    | cons k r ih => exact fun b hb => ih _ (Memory.wf_setBytes _ bs hb)
  unfold Arr.wipe
  simp only
  split
  · exact hf _ _ _ hk
  · exact hk

/-- Every change of the array keeps the canonical form. -/
theorem Memory.wf_apply {a : Arr} (e : Edit) (h : Memory.wf a = true) : Memory.wf (a.apply e) = true := by
  cases e with
  | bytes addr bs => exact Memory.wf_setBytes addr bs h
  | word w err =>
    rw [Memory.wf_iff] at h ⊢
    exact ⟨h.1, h.2.1, Sparse.wf_setD w err h.2.2.1, h.2.2.2⟩
  | mark w b =>
    rw [Memory.wf_iff] at h ⊢
    exact ⟨h.1, h.2.1, h.2.2.1, Sparse.wf_setD w b h.2.2.2⟩
  | wipe lo hi => exact Memory.wf_wipe lo hi h
  | image =>
    refine Memory.wf_keepRows _ _ h fun x hx => ?_
    have hr : imageRow (x / 1152) = false := by simpa using hx
    rw [Arr.bg_far _ hr, Arr.bg_far _ hr]

/-- Every list of changes keeps the canonical form. -/
theorem Memory.wf_applyAll {a : Arr} (l : List Edit) (h : Memory.wf a = true) : Memory.wf (a.applyAll l) = true := by
  induction l generalizing a with
  | nil => exact h
  | cons e r ih => exact ih (Memory.wf_apply e h)

@[simp] theorem Arr.applyAll_nil (a : Arr) : a.applyAll [] = a := rfl
@[simp] theorem Arr.applyAll_cons (a : Arr) (e : Edit) (l : List Edit) : a.applyAll (e :: l) = (a.apply e).applyAll l := rfl

theorem Arr.applyAll_append (a : Arr) (l l' : List Edit) : a.applyAll (l ++ l') = (a.applyAll l).applyAll l' := by
  simp [Arr.applyAll, List.foldl_append]

end Sys2Proof.Machine
end

