-- ==== Sys2Proof/Laws/Run.lean ====
section
/-!
SUPPORT. The one way a command changes the state: what `run` always does, and what the end of a command comes to when no
request waits.
-/

namespace Sys2Proof.Machine

/-! ## The pin -/

/-- Driving the pin writes the pin or nothing. -/
theorem Ctl.drive_cases (m : Ctl) : m.drive = m ∨ ∃ v, m.drive = m.set F.FLT_STATUS_FAULTN 0 v := by
  unfold Ctl.drive
  split
  · exact Or.inr ⟨_, rfl⟩
  · split
    · exact Or.inr ⟨_, rfl⟩
    · exact Or.inl rfl

@[simp] theorem Ctl.rest_of_drive (m : Ctl) : m.drive.rest = m.rest := by
  rcases m.drive_cases with h | ⟨v, h⟩ <;> simp [h]

@[simp] theorem Ctl.out_drive (m : Ctl) : m.drive.out = m.out := by
  rcases m.drive_cases with h | ⟨v, h⟩ <;> simp [h]

@[simp] theorem Ctl.edits_drive (m : Ctl) : m.drive.edits = m.edits := by
  rcases m.drive_cases with h | ⟨v, h⟩ <;> simp [h]

/-- Driving the pin changes no other field. -/
theorem Ctl.get_drive (m : Ctl) (f : Fld) (i : Nat) (h : fkey f i ≠ fkey F.FLT_STATUS_FAULTN 0) :
    m.drive.get f i = m.get f i := by
  rcases m.drive_cases with e | ⟨v, e⟩
  · rw [e]
  · rw [e, Ctl.get_set_other _ _ _ _ _ _ h]

theorem Ctl.SameFlds.drive (m : Ctl) : m.SameFlds m.drive [pinFld] := by
  intro f i h
  exact m.get_drive f i (by simpa [pinFld] using h)

/-! ## Requests and faults -/

/-- Where no code path failed, no block reset starts for one. -/
theorem Ctl.codeResets_clean {m : Ctl} (h : m.Clean) : m.codeResets = m := by
  have : ∀ l : List (Nat × Pc), (∀ e ∈ l, e.2.codeErr = false) → ∀ n : Ctl,
      l.foldl (fun n e => if e.2.codeErr then (n.modPc e.1 fun x => { x with codeErr := false }).blockReset e.1 3 true else n) n = n := by
    intro l
    induction l with
    | nil => intro _ n; rfl
    | cons e r ih =>
      intro hl n
      rw [List.foldl_cons, if_neg (by simp [hl e (by simp)])]
      exact ih (fun x hx => hl x (by simp [hx])) n
  exact this m.pcs h.1 m

/-- Where every bitmap is in the cellar, none is written. -/
theorem Ctl.bitmaps_clean {m : Ctl} (h : m.Clean) (a : Arr) : m.bitmaps a = m := by
  have : m.mirs.filter (fun e => e.2.stale) = [] := by
    rw [List.filter_eq_nil_iff]; intro e he; simp [h.2 e he]
  unfold Ctl.bitmaps
  split
  · rw [this]; rfl
  · rfl

/-- With no request waiting nothing is performed. -/
theorem Ctl.drainOne_quiet {m : Ctl} (h : m.Quiet) (a : Arr) : m.drainOne a = none := by
  obtain ⟨h1, h2, h3, -⟩ := h
  simp [Ctl.drainOne, Ctl.drainPort, Ctl.drainSvc, Ctl.port, h1, h2, h3]

theorem Ctl.settleLoop_done {m : Ctl} (h : m.Quiet) (hr : m.raised = []) (a : Arr) (n : Nat) :
    Ctl.settleLoop n a m = m := by
  cases n with
  | zero => rfl
  | succ n => simp [Ctl.settleLoop, Ctl.drainOne_quiet h, hr]

/-- A command with no request waiting and no fault raised ends by driving the pin. -/
theorem Ctl.settle_quiet {m : Ctl} (h : m.Quiet) (hr : m.raised = []) (a : Arr) : m.settle a = m.drive := by
  rw [Ctl.settle, Ctl.codeResets_clean h.2.2.2, Ctl.settleLoop_done h hr, Ctl.bitmaps_clean h.2.2.2]

/-- A command with no request waiting whose faults leave none waiting ends by handling them and driving the pin. -/
theorem Ctl.settle_raised {m : Ctl} (h : m.Quiet) (hr : m.raised ≠ []) (a : Arr) (h' : (m.reactAll a).Quiet)
    (hr' : (m.reactAll a).raised = []) : m.settle a = (m.reactAll a).drive := by
  rw [Ctl.settle, Ctl.codeResets_clean h.2.2.2, Ctl.settleLoop, Ctl.drainOne_quiet h]
  have : m.raised.isEmpty = false := by simpa using hr
  simp only [this]
  rw [if_neg (by simp), Ctl.settleLoop_done h' hr', Ctl.bitmaps_clean h'.2.2.2]

/-! ## `run` -/

@[simp] theorem run_pending (s : State) (g : Arr → Ctl → Ctl) : (run s g).pending = s.pending := rfl
@[simp] theorem run_edits (s : State) (g : Arr → Ctl → Ctl) : (run s g).ctl.edits = [] := rfl
@[simp] theorem run_raised (s : State) (g : Arr → Ctl → Ctl) : (run s g).ctl.raised = [] := rfl

/-- Every command keeps the canonical form of the array. -/
theorem run_wf (s : State) (g : Arr → Ctl → Ctl) (h : Memory.wf s.arr = true) : Memory.wf (run s g).arr = true :=
  Memory.wf_applyAll _ h

/-- A command whose effect leaves no request waiting, raises no fault and changes no byte of the array. -/
theorem run_quiet (s : State) (g : Arr → Ctl → Ctl) (hq : (g s.arr s.ctl.fresh).Quiet)
    (hr : (g s.arr s.ctl.fresh).raised = []) (he : (g s.arr s.ctl.fresh).edits = []) :
    run s g = { s with ctl := { (g s.arr s.ctl.fresh).drive with edits := [], raised := [] } } := by
  simp only [run, Ctl.settle_quiet hq hr, Ctl.edits_drive, he, Arr.applyAll_nil]

/-- The frame of such a command. -/
theorem Ends.of_quiet (s : State) (g : Arr → Ctl → Ctl) (l : List (Fld × Nat)) (m : Ctl)
    (hq : (g s.arr s.ctl.fresh).Quiet) (hr : (g s.arr s.ctl.fresh).raised = []) (he : (g s.arr s.ctl.fresh).edits = [])
    (hf : s.ctl.SameFlds (g s.arr s.ctl.fresh) l) (hm : (g s.arr s.ctl.fresh).rest = m.rest) :
    Ends s (run s g) l m := by
  rw [run_quiet s g hq hr he]
  refine ⟨rfl, rfl, ?_, ?_⟩
  · have h := hf.trans (Ctl.SameFlds.drive (g s.arr s.ctl.fresh))
    intro f i hn
    exact Eq.trans rfl (h f i (by simpa [or_comm] using hn))
  · exact (show _ = (g s.arr s.ctl.fresh).drive.rest from rfl).trans ((Ctl.rest_of_drive _).trans hm)

/-- The fields of a state that such a command leaves, but the pin. -/
theorem get_run_quiet (s : State) (g : Arr → Ctl → Ctl) (f : Fld) (i : Nat) (hq : (g s.arr s.ctl.fresh).Quiet)
    (hr : (g s.arr s.ctl.fresh).raised = []) (he : (g s.arr s.ctl.fresh).edits = [])
    (h : fkey f i ≠ fkey F.FLT_STATUS_FAULTN 0) : (run s g).ctl.get f i = (g s.arr s.ctl.fresh).get f i := by
  rw [run_quiet s g hq hr he]
  exact (Eq.trans rfl (Ctl.get_drive _ f i h))

/-! ## A logged raise -/

theorem Ctl.SameFlds.put (m : Ctl) (f : Fld) (v : Nat) : m.SameFlds (m.put f v) [(f, 0)] := Ctl.SameFlds.set m f 0 v
theorem Ctl.SameFlds.bump (m : Ctl) (f : Fld) (i n : Nat) : m.SameFlds (m.bump f i n) [(f, i)] := Ctl.SameFlds.set m f i _
theorem Ctl.SameFlds.setPend (m : Ctl) (s : Source) : m.SameFlds (m.setPend s) [(F.FLT_PEND_PEND, s / 32)] :=
  Ctl.SameFlds.set m _ _ _

/-- A log entry is four words. -/
theorem Ctl.setLog_eq (m : Ctl) (i v : Nat) : m.setLog i v =
    (((m.set F.FLT_LOG_DATA (4 * i + 0) (v >>> (32 * 0))).set F.FLT_LOG_DATA (4 * i + 1) (v >>> (32 * 1))).set
      F.FLT_LOG_DATA (4 * i + 2) (v >>> (32 * 2))).set F.FLT_LOG_DATA (4 * i + 3) (v >>> (32 * 3)) := rfl

theorem Ctl.SameFlds.setLog (m : Ctl) (i v : Nat) :
    m.SameFlds (m.setLog i v) ((List.range 4).map fun k => (F.FLT_LOG_DATA, 4 * i + k)) := by
  rw [Ctl.setLog_eq]
  exact ((((Ctl.SameFlds.set m _ _ _).trans (Ctl.SameFlds.set _ _ _ _)).trans (Ctl.SameFlds.set _ _ _ _)).trans
    (Ctl.SameFlds.set _ _ _ _))

/-- The log entry of a raise, its counts and the pending bit. -/
@[irreducible] def Ctl.logWrite (m : Ctl) (r : Raised) : Ctl :=
  (((m.setLog (m.get F.FLT_LOG_HEAD_HEAD) (logEntry r)).put F.FLT_LOG_HEAD_HEAD (m.get F.FLT_LOG_HEAD_HEAD + 1)).bump
    F.FLT_LOG_HEAD_TOTAL).setPend r.source

theorem Ctl.rest_of_logWrite (m : Ctl) (r : Raised) : (m.logWrite r).rest = m.rest := by
  simp only [Ctl.logWrite, Ctl.setPend, Ctl.bump_eq, Ctl.put_eq, Ctl.setLog_eq, Ctl.rest_of_set]
theorem Ctl.raised_logWrite (m : Ctl) (r : Raised) : (m.logWrite r).raised = m.raised := by
  simp only [Ctl.logWrite, Ctl.setPend, Ctl.bump_eq, Ctl.put_eq, Ctl.setLog_eq, Ctl.set_raised]
theorem Ctl.edits_logWrite (m : Ctl) (r : Raised) : (m.logWrite r).edits = m.edits := by
  simp only [Ctl.logWrite, Ctl.setPend, Ctl.bump_eq, Ctl.put_eq, Ctl.setLog_eq, Ctl.set_edits]
theorem Ctl.quiet_logWrite {m : Ctl} (r : Raised) (h : m.Quiet) : (m.logWrite r).Quiet := by
  unfold Ctl.Quiet Ctl.Clean at h ⊢
  simpa only [Ctl.logWrite, Ctl.setPend, Ctl.bump_eq, Ctl.put_eq, Ctl.setLog_eq, Ctl.set_pa, Ctl.set_pb, Ctl.set_svc, Ctl.set_pcs,
    Ctl.set_mirs] using h

/-- Logging a raise writes the log, its counts and the pending bits, and no other field. -/
theorem Ctl.SameFlds.logWrite (m : Ctl) (r : Raised) :
    m.SameFlds (m.logWrite r) ((((List.range 4).map (fun k => (F.FLT_LOG_DATA, 4 * m.get F.FLT_LOG_HEAD_HEAD + k)) ++
      [(F.FLT_LOG_HEAD_HEAD, 0)]) ++ [(F.FLT_LOG_HEAD_TOTAL, 0)]) ++ [(F.FLT_PEND_PEND, r.source / 32)]) := by
  rw [Ctl.logWrite]
  generalize logEntry r = v
  exact (((Ctl.SameFlds.setLog m _ _).trans (Ctl.SameFlds.put _ _ _)).trans (Ctl.SameFlds.bump _ _ _ _)).trans
    (Ctl.SameFlds.setPend _ _)

/-- What a raise of a severity without reactions does to a state whose log has a free entry: before TRAINING it is also
noted as held (R402, R464). -/
def Ctl.logged (m : Ctl) (r : Raised) : Ctl :=
  if (m.logWrite r).inMode [.powered, .fuseload, .selftest] then
    { m.logWrite r with
      held := (m.logWrite r).held ++ [(r, if m.pendOf r.source then none else some (m.get F.FLT_LOG_HEAD_HEAD))] }
  else m.logWrite r

theorem Ctl.logged_cases (m : Ctl) (r : Raised) : ∃ h, m.logged r = { m.logWrite r with held := h } := by
  unfold Ctl.logged
  generalize m.logWrite r = n
  split
  · exact ⟨_, rfl⟩
  · exact ⟨n.held, by cases n; rfl⟩

theorem Ctl.withHeld_reads (n : Ctl) (h : List (Raised × Option Nat)) :
    (({ n with held := h } : Ctl).Quiet ↔ n.Quiet) ∧ ({ n with held := h } : Ctl).raised = n.raised ∧
      ({ n with held := h } : Ctl).edits = n.edits ∧ ({ n with held := h } : Ctl).flds = n.flds ∧
      ({ n with held := h } : Ctl).rest = { n.rest with held := h } := by
  cases n; exact ⟨Iff.rfl, rfl, rfl, rfl, rfl⟩

/-- What such a raise leaves. -/
theorem Ctl.logged_reads (m : Ctl) (r : Raised) :
    (m.Quiet → (m.logged r).Quiet) ∧ (m.logged r).raised = m.raised ∧ (m.logged r).edits = m.edits ∧
      (m.logged r).flds = (m.logWrite r).flds ∧ (m.logged r).rest = { m.rest with held := (m.logged r).held } := by
  obtain ⟨h, hl⟩ := m.logged_cases r
  obtain ⟨h1, h2, h3, h4, h5⟩ := (m.logWrite r).withHeld_reads h
  have h6 : (m.logged r).held = h := by rw [hl]
  rw [h6, hl, h2, h3, h4, h5, Ctl.raised_logWrite, Ctl.edits_logWrite, Ctl.rest_of_logWrite]
  exact ⟨fun q => h1.mpr (Ctl.quiet_logWrite r q), rfl, rfl, rfl, rfl⟩

/-- Keys of different fields differ. -/
theorem fkey_ne {f g : Fld} {i j : Nat} (h : f.id ≠ g.id) (hi : i < 1048576) (hj : j < 1048576) : fkey f i ≠ fkey g j := by
  simp only [fkey]; omega

/-- Logging a raise leaves the fields it does not list. -/
theorem Ctl.get_logWrite (m : Ctl) (r : Raised) (f : Fld) (i : Nat) (hf : f.id ∉ [427, 417, 416, 425]) (hi : i < 1048576)
    (hh : m.get F.FLT_LOG_HEAD_HEAD < 256) (hs : r.source < 512) : (m.logWrite r).get f i = m.get f i := by
  refine Ctl.SameFlds.logWrite m r f i ?_
  simp only [List.mem_cons, List.not_mem_nil, or_false, not_or] at hf
  simp only [List.map_append, List.map_map, List.mem_append, List.mem_map, List.mem_range, List.map_cons, List.map_nil,
    List.mem_cons, List.not_mem_nil, not_or, Function.comp, or_false]
  refine ⟨⟨⟨?_, ?_⟩, ?_⟩, ?_⟩
  · rintro ⟨k, hk, he⟩
    exact fkey_ne (f := F.FLT_LOG_DATA) (g := f) (Ne.symm hf.1) (by omega) hi he
  · exact fkey_ne hf.2.1 hi (by omega)
  · exact fkey_ne hf.2.2.1 hi (by omega)
  · exact fkey_ne hf.2.2.2 hi (by omega)

/-- A raise of a severity without reactions takes none. -/
theorem Ctl.react_calm {n : Ctl} {r : Raised} (h : n.reactOf r.sev = 0) (log : Option Nat) : n.react r log = n := by
  cases log <;> simp [Ctl.react, Ctl.reactSend, h, bit]

/-- Such a raise is handled by logging it. -/
theorem Ctl.handle_calm (m : Ctl) (a : Arr) (r : Raised) (hc : m.reactOf r.sev = 0) (hs : r.sev < 8)
    (hh : m.get F.FLT_LOG_HEAD_HEAD < 256) (hr : r.source < 512) (ht : m.get F.FLT_LOG_HEAD_TOTAL < 256) :
    m.handle a r = m.logged r := by
  have hlt : ¬ 256 ≤ m.get F.FLT_LOG_HEAD_TOTAL := by omega
  have hw : m.writeLog a r = ((((m.setLog (m.get F.FLT_LOG_HEAD_HEAD) (logEntry r)).put F.FLT_LOG_HEAD_HEAD
      (m.get F.FLT_LOG_HEAD_HEAD + 1)).bump F.FLT_LOG_HEAD_TOTAL), m.get F.FLT_LOG_HEAD_HEAD) := by
    simp only [Ctl.writeLog, hlt, decide_false, Bool.false_and, Bool.false_eq_true, if_false]
  have hl : ((((m.setLog (m.get F.FLT_LOG_HEAD_HEAD) (logEntry r)).put F.FLT_LOG_HEAD_HEAD
      (m.get F.FLT_LOG_HEAD_HEAD + 1)).bump F.FLT_LOG_HEAD_TOTAL)).setPend r.source = m.logWrite r := by rw [Ctl.logWrite]
  have hz : (m.logWrite r).reactOf r.sev = 0 :=
    (Ctl.get_logWrite m r F.FLT_REACT r.sev (by decide) (by omega) hh hr).trans hc
  unfold Ctl.handle Ctl.logged
  simp only [hw, hl]
  by_cases h : (m.logWrite r).inMode [.powered, .fuseload, .selftest] = true
  · rw [if_pos h, if_pos h]
  · rw [if_neg h, if_neg h, Ctl.react_calm hz]

/-- A command that leaves no request waiting and raises one fault of a severity without reactions. -/
theorem Ctl.settle_calm {m : Ctl} (a : Arr) (r : Raised) (hq : m.Quiet) (hr : m.raised = [r]) (hc : m.reactOf r.sev = 0)
    (hs : r.sev < 8) (hh : m.get F.FLT_LOG_HEAD_HEAD < 256) (hsrc : r.source < 512)
    (ht : m.get F.FLT_LOG_HEAD_TOTAL < 256) : m.settle a = (({ m with raised := [] } : Ctl).logged r).drive := by
  obtain ⟨n, hn⟩ : ∃ n : Ctl, n = { m with raised := [] } := ⟨_, rfl⟩
  have hg : ∀ f i, n.get f i = m.get f i := by intro f i; rw [hn]; rfl
  have hnq : n.Quiet := by rw [hn]; exact hq
  have hnr : n.raised = [] := by rw [hn]
  have he : m.reactAll a = n.logged r := by
    have hw : n.wantsReset r = false := by
      have : n.reactOf r.sev = 0 := (hg _ _).trans hc
      simp [Ctl.wantsReset, this, bit]
    have hsrt : ([r] : List Raised).sorted (fun x y => decide (x.source ≤ y.source)) = [r] := rfl
    unfold Ctl.reactAll
    rw [hr, hsrt, ← hn]
    simp only [List.any_cons, List.any_nil, hw, List.foldl_cons, List.foldl_nil, Bool.or_false, Bool.false_eq_true, if_false]
    exact Ctl.handle_calm _ a r ((hg _ _).trans hc) hs (by rw [hg]; exact hh) hsrc (by rw [hg]; exact ht)
  obtain ⟨h1, h2, _⟩ := n.logged_reads r
  rw [← hn, ← he]
  exact Ctl.settle_raised hq (by simp [hr]) a (by rw [he]; exact h1 hnq) (by rw [he, h2]; exact hnr)

/-- A pending bit that was set reads as set. -/
theorem Ctl.pendOf_logWrite (m : Ctl) (r : Raised) : (m.logWrite r).pendOf r.source = true := by
  rw [Ctl.logWrite]
  generalize ((m.setLog _ _).put _ _).bump _ = n
  unfold Ctl.pendOf Ctl.setPend bit
  rw [Ctl.get_set_same]
  have h : r.source % 32 < 32 := Nat.mod_lt _ (by decide)
  show ((n.get F.FLT_PEND_PEND (r.source / 32) ||| 2 ^ (r.source % 32)) % 2 ^ 32).testBit (r.source % 32) = true
  rw [Nat.testBit_mod_two_pow]
  simp [h, Nat.testBit_or]

/-- A command that leaves no request waiting and changes no byte, and raises one fault of a severity without reactions: its
frame, its pending bit, and the fields it leaves. `x` is the state in which it raises. -/
theorem EndsRaised.of_calm (s : State) (g : Arr → Ctl → Ctl) (src info : Nat) (inj : Bool) (l : List (Fld × Nat)) (m : Ctl)
    (x : Ctl) (hc : s.ctl.Calm src) (hsrc : src < 512) (hx : g s.arr s.ctl.fresh = x.raiseAs src info inj) (hq : x.Quiet)
    (hr : x.raised = []) (he : x.edits = []) (hf : s.ctl.SameFlds x l)
    (hl : ∀ e ∈ l, e.1.id ∉ [413, 426, 427, 417, 416, 425] ∧ e.2 < 1048576) (hm : x.rest = m.rest) :
    EndsRaised s (run s g) src l m ∧ ∀ f i, f.id ∉ [415, 427, 417, 416, 425] → i < 1048576 →
      (run s g).ctl.get f i = x.get f i := by
  have hkeep : ∀ f i, f.id ∈ [413, 426, 427, 417, 416, 425] → i < 1048576 → x.get f i = s.ctl.get f i := by
    intro f i hid hi
    refine hf f i ?_
    intro hc
    obtain ⟨e, hel, hek⟩ := List.mem_map.mp hc
    have := hl e hel
    refine fkey_ne (f := e.1) (g := f) ?_ this.2 hi hek
    intro hh; rw [hh] at this; exact this.1 hid
  obtain ⟨hsev, hnone, hhead, hroom⟩ := hc
  have hsev' : x.sevOf src = s.ctl.sevOf src := hkeep _ _ (by decide) (by omega)
  have hhd : x.get F.FLT_LOG_HEAD_HEAD = s.ctl.get F.FLT_LOG_HEAD_HEAD := hkeep _ _ (by decide) (by omega)
  have htt : x.get F.FLT_LOG_HEAD_TOTAL = s.ctl.get F.FLT_LOG_HEAD_TOTAL := hkeep _ _ (by decide) (by omega)
  have hre : x.reactOf (x.sevOf src) = 0 := by
    rw [hsev', ← hnone]; exact hkeep F.FLT_REACT _ (by decide) (by omega)
  obtain ⟨r, hrdef⟩ : ∃ r : Raised, r = { source := src, info := info, injected := inj, sev := x.sevOf src, orbit := x.orbit, nvalid := x.numValid } := ⟨_, rfl⟩
  have hset : (g s.arr s.ctl.fresh).settle s.arr = (x.logged r).drive := by
    have hraise : (g s.arr s.ctl.fresh).raised = [r] := by
      rw [hx, hrdef]; show x.raised ++ _ = _; rw [hr]; rfl
    have hq' : (g s.arr s.ctl.fresh).Quiet := by rw [hx]; exact hq
    have hgg : ∀ f i, (g s.arr s.ctl.fresh).get f i = x.get f i := by intro f i; rw [hx, Ctl.get_raiseAs]
    rw [Ctl.settle_calm s.arr r hq' hraise ((hgg _ _).trans (by rw [hrdef]; exact hre)) (by rw [hrdef]; show x.sevOf src < 8; omega)
      (by rw [hgg, hhd]; exact hhead) (by rw [hrdef]; exact hsrc) (by rw [hgg, htt]; exact hroom)]
    have hnx : ({ g s.arr s.ctl.fresh with raised := [] } : Ctl) = x := by
      rw [hx, Ctl.raiseAs]; cases x; simp only at hr; subst hr; rfl
    rw [hnx]
  obtain ⟨lq, lr, le, lf, lrest⟩ := x.logged_reads r
  have hsf : s.ctl.SameFlds (x.logged r).drive (l ++ (((((List.range 4).map (fun k => (F.FLT_LOG_DATA, 4 * x.get F.FLT_LOG_HEAD_HEAD + k)) ++
      [(F.FLT_LOG_HEAD_HEAD, 0)]) ++ [(F.FLT_LOG_HEAD_TOTAL, 0)]) ++ [(F.FLT_PEND_PEND, r.source / 32)])) ++ [pinFld]) := by
    refine (hf.trans ?_).trans (Ctl.SameFlds.drive _)
    intro f i hn
    rw [Ctl.get_congr lf]
    exact Ctl.SameFlds.logWrite x r f i hn
  have hctl : (run s g).ctl = { (x.logged r).drive with edits := [], raised := [] } := by unfold run; rw [hset]
  have hrget : ∀ f i, (run s g).ctl.get f i = (x.logged r).drive.get f i := by
    intro f i; rw [hctl]; exact Ctl.get_congr rfl f i
  have hsrc' : r.source = src := by rw [hrdef]
  refine ⟨⟨⟨rfl, ?_, ?_, ?_⟩, ?_⟩, ?_⟩
  · have h0 : (run s g).arr = s.arr.applyAll (x.logged r).drive.edits := by unfold run; rw [hset]
    rw [h0, Ctl.edits_drive, le, he, Arr.applyAll_nil]
  · intro f i hn
    rw [hrget]
    refine hsf f i ?_
    rw [hhd, hsrc']
    intro hc
    apply hn
    obtain ⟨e, he1, he2⟩ := List.mem_map.mp hc
    refine List.mem_map.mpr ⟨e, ?_, he2⟩
    simp only [Ctl.logFlds, List.mem_append, List.mem_cons, List.not_mem_nil, or_false] at he1 ⊢
    rcases he1 with (h | ((h | h) | h) | h) | h <;> simp only [h, true_or, or_true]
  · have h1 : (run s g).ctl.rest = (x.logged r).rest := by
      rw [hctl]
      refine Eq.trans ?_ (Ctl.rest_of_drive _)
      generalize (x.logged r).drive = n; cases n; rfl
    have h2 : (run s g).ctl.held = (x.logged r).held := by
      have h3 : (run s g).ctl.rest.held = (run s g).ctl.held := by generalize (run s g).ctl = n; cases n; rfl
      have h4 : (x.logged r).rest.held = (x.logged r).held := by generalize x.logged r = n; cases n; rfl
      rw [← h3, h1, h4]
    rw [h2, h1, lrest, hm]
    generalize (x.logged r).held = q
    cases m; rfl
  · have : (run s g).ctl.pendOf src = (x.logWrite r).pendOf src := by
      unfold Ctl.pendOf
      rw [hrget, Ctl.get_drive _ _ _ (fkey_ne (by decide) (by omega) (by omega)), Ctl.get_congr lf]
    rw [this]
    have h9 := Ctl.pendOf_logWrite x r
    rwa [hsrc'] at h9
  · intro f i hid hi
    simp only [List.mem_cons, List.not_mem_nil, or_false, not_or] at hid
    rw [hrget, Ctl.get_drive _ _ _ (fkey_ne hid.1 hi (by omega)), Ctl.get_congr lf]
    exact Ctl.get_logWrite x r f i (by simp only [List.mem_cons, List.not_mem_nil, or_false, not_or]; exact ⟨hid.2.1, hid.2.2.1, hid.2.2.2.1, hid.2.2.2.2⟩) hi (by rw [hhd]; exact hhead) (by rw [hsrc']; exact hsrc)

/-! ## Several logged raises -/

theorem List.mem_insertSorted {α : Type} (le : α → α → Bool) (x y : α) (l : List α) :
    y ∈ List.insertSorted le x l ↔ y = x ∨ y ∈ l := by
  induction l with
  | nil => simp [List.insertSorted]
  | cons z r ih =>
    unfold List.insertSorted
    split
    · simp
    · simp only [List.mem_cons, ih]; tauto

/-- Sorting keeps the members of a list. -/
theorem List.mem_sorted {α : Type} (l : List α) (le : α → α → Bool) (y : α) : y ∈ l.sorted le ↔ y ∈ l := by
  unfold List.sorted
  induction l with
  | nil => simp
  | cons x r ih => simp only [List.foldr_cons, List.mem_insertSorted, ih, List.mem_cons]

theorem List.length_insertSorted {α : Type} (le : α → α → Bool) (x : α) (l : List α) :
    (List.insertSorted le x l).length = l.length + 1 := by
  induction l with
  | nil => rfl
  | cons z r ih =>
    unfold List.insertSorted
    split
    · rfl
    · simp only [List.length_cons, ih]

/-- Sorting keeps the length of a list. -/
theorem List.length_sorted {α : Type} (l : List α) (le : α → α → Bool) : (l.sorted le).length = l.length := by
  unfold List.sorted
  induction l with
  | nil => rfl
  | cons x r ih => simp only [List.foldr_cons, List.length_insertSorted, ih, List.length_cons]

/-- What logging leaves as it was: everything but the log, its counts, the pending bits, and what is held. -/
structure Ctl.OnlyLogged (m n : Ctl) : Prop where
  flds : ∀ f i, f.id ∉ [427, 417, 416, 418, 425] → i < 1048576 → n.get f i = m.get f i
  rest : n.rest = { m.rest with held := n.held }
  quiet : m.Quiet → n.Quiet
  edits : n.edits = m.edits
  raised : n.raised = m.raised
  head : n.get F.FLT_LOG_HEAD_HEAD < 256
  out : n.out = m.out

theorem Ctl.out_logWrite (m : Ctl) (r : Raised) : (m.logWrite r).out = m.out := by
  simp only [Ctl.logWrite, Ctl.setPend, Ctl.bump_eq, Ctl.put_eq, Ctl.setLog_eq, Ctl.set_out]

theorem Ctl.head_logWrite (m : Ctl) (r : Raised) (hr : r.source < 512) : (m.logWrite r).get F.FLT_LOG_HEAD_HEAD < 256 := by
  rw [Ctl.logWrite]
  generalize m.setLog _ _ = n
  unfold Ctl.setPend
  rw [Ctl.get_set_other _ _ _ _ _ _ (fkey_ne (by decide) (by omega) (by omega)), Ctl.bump_eq,
    Ctl.get_set_other _ _ _ _ _ _ (fkey_ne (by decide) (by omega) (by omega)), Ctl.put_eq, Ctl.get_set_same]
  exact Nat.mod_lt _ (by decide)

theorem Ctl.total_logWrite (m : Ctl) (r : Raised) (hr : r.source < 512) (hh : m.get F.FLT_LOG_HEAD_HEAD < 256) :
    (m.logWrite r).get F.FLT_LOG_HEAD_TOTAL ≤ m.get F.FLT_LOG_HEAD_TOTAL + 1 := by
  have e : ((m.setLog (m.get F.FLT_LOG_HEAD_HEAD) (logEntry r)).put F.FLT_LOG_HEAD_HEAD
      (m.get F.FLT_LOG_HEAD_HEAD + 1)).get F.FLT_LOG_HEAD_TOTAL = m.get F.FLT_LOG_HEAD_TOTAL := by
    rw [Ctl.put_eq, Ctl.get_set_other _ _ _ _ _ _ (fkey_ne (by decide) (by omega) (by omega))]
    refine Ctl.SameFlds.setLog m _ _ _ _ ?_
    simp only [List.map_map, List.mem_map, List.mem_range, Function.comp, not_exists, not_and]
    intro k hk
    exact fkey_ne (by decide) (by omega) (by omega)
  rw [Ctl.logWrite]
  unfold Ctl.setPend
  rw [Ctl.get_set_other _ _ _ _ _ _ (fkey_ne (by decide) (by omega) (by omega)), Ctl.bump_eq, Ctl.get_set_same, e]
  exact Nat.le_trans (Nat.mod_le _ _) (Nat.min_le_left _ _)

/-- May a raise that has reactions not take them, or has it none (R402, R463)? -/
def Ctl.Silent (m : Ctl) : Prop :=
  m.inMode [.powered, .fuseload, .selftest] = true ∨ ∀ v < 8, m.reactOf v = 0

theorem Ctl.OnlyLogged.refl {m : Ctl} (h : m.get F.FLT_LOG_HEAD_HEAD < 256) : m.OnlyLogged m :=
  ⟨fun _ _ _ _ => rfl, by generalize m = n; cases n; rfl, id, rfl, rfl, h, rfl⟩

theorem Ctl.OnlyLogged.trans {m n k : Ctl} (h : m.OnlyLogged n) (h' : n.OnlyLogged k) : m.OnlyLogged k := by
  refine ⟨fun f i hf hi => (h'.flds f i hf hi).trans (h.flds f i hf hi), ?_, fun q => h'.quiet (h.quiet q),
    h'.edits.trans h.edits, h'.raised.trans h.raised, h'.head, h'.out.trans h.out⟩
  rw [h'.rest, h.rest]

theorem Ctl.OnlyLogged.power {m n : Ctl} (h : m.OnlyLogged n) : n.power = m.power := by
  have h1 : n.rest.power = m.rest.power := by rw [h.rest]
  simpa using h1

theorem Ctl.OnlyLogged.cellarOk {m n : Ctl} (h : m.OnlyLogged n) : n.cellarOk = m.cellarOk := by
  have h1 : n.rest.cellarOk = m.rest.cellarOk := by rw [h.rest]
  simpa using h1

theorem Ctl.OnlyLogged.inMode {m n : Ctl} (h : m.OnlyLogged n) (l : List Mode) : n.inMode l = m.inMode l := by
  unfold Ctl.inMode Ctl.mode
  rw [h.power, h.flds _ _ (by decide) (by omega)]

theorem Ctl.OnlyLogged.silent {m n : Ctl} (h : m.OnlyLogged n) (hs : m.Silent) : n.Silent := by
  rcases hs with hs | hs
  · exact Or.inl ((h.inMode _).trans hs)
  · exact Or.inr fun v hv => (h.flds F.FLT_REACT v (by decide) (by omega)).trans (hs v hv)

theorem Ctl.OnlyLogged.canCopy {m n : Ctl} (h : m.OnlyLogged n) : n.canCopy = m.canCopy := by
  unfold Ctl.canCopy; rw [h.cellarOk, h.inMode]

/-- A raise that takes no reaction, in a state whose log has an entry for it or does not overflow, is only logged. -/
theorem Ctl.OnlyLogged.handle {m : Ctl} (a : Arr) (r : Raised) (hs : m.Silent) (hv : r.sev < 8) (hr : r.source < 512)
    (hh : m.get F.FLT_LOG_HEAD_HEAD < 256) (ht : m.canCopy = false ∨ m.get F.FLT_LOG_HEAD_TOTAL < 256) :
    m.OnlyLogged (m.handle a r) ∧
      (m.handle a r).get F.FLT_LOG_HEAD_TOTAL ≤ m.get F.FLT_LOG_HEAD_TOTAL + 1 := by
  obtain ⟨n, hn, hl, htot⟩ : ∃ n, ((m.writeLog a r).1.setPend r.source) = n ∧ m.OnlyLogged n ∧
      n.get F.FLT_LOG_HEAD_TOTAL ≤ m.get F.FLT_LOG_HEAD_TOTAL + 1 := by
    by_cases hlt : 256 ≤ m.get F.FLT_LOG_HEAD_TOTAL
    · have hcc : m.canCopy = false := by rcases ht with h | h; exact h; omega
      refine ⟨(m.bump F.FLT_LOG_LOST_COUNT).setPend r.source, ?_, ?_, ?_⟩
      · simp only [Ctl.writeLog, hlt, hcc, decide_true, Bool.not_false, Bool.true_and, if_true]
      · refine ⟨fun f i hf hi => ?_, ?_, fun q => ?_, ?_, ?_, ?_, ?_⟩
        · simp only [List.mem_cons, List.not_mem_nil, or_false, not_or] at hf
          unfold Ctl.setPend
          rw [Ctl.get_set_other _ _ _ _ _ _ (fkey_ne hf.2.2.2.2 hi (by omega)), Ctl.bump_eq,
            Ctl.get_set_other _ _ _ _ _ _ (fkey_ne hf.2.2.2.1 hi (by omega))]
        · simp only [Ctl.setPend, Ctl.bump_eq, Ctl.rest_of_set, Ctl.set_held]
          generalize m = n; cases n; rfl
        · unfold Ctl.Quiet Ctl.Clean at q ⊢
          simpa only [Ctl.setPend, Ctl.bump_eq, Ctl.set_pa, Ctl.set_pb, Ctl.set_svc, Ctl.set_pcs, Ctl.set_mirs] using q
        · simp only [Ctl.setPend, Ctl.bump_eq, Ctl.set_edits]
        · simp only [Ctl.setPend, Ctl.bump_eq, Ctl.set_raised]
        · unfold Ctl.setPend
          rw [Ctl.get_set_other _ _ _ _ _ _ (fkey_ne (by decide) (by omega) (by omega)), Ctl.bump_eq,
            Ctl.get_set_other _ _ _ _ _ _ (fkey_ne (by decide) (by omega) (by omega))]
          exact hh
        · simp only [Ctl.setPend, Ctl.bump_eq, Ctl.set_out]
      · unfold Ctl.setPend
        rw [Ctl.get_set_other _ _ _ _ _ _ (fkey_ne (by decide) (by omega) (by omega)), Ctl.bump_eq,
          Ctl.get_set_other _ _ _ _ _ _ (fkey_ne (by decide) (by omega) (by omega))]
        omega
    · refine ⟨m.logWrite r, ?_, ?_, Ctl.total_logWrite m r hr hh⟩
      · simp only [Ctl.writeLog, hlt, decide_false, Bool.false_and, Bool.false_eq_true, if_false]
        rw [Ctl.logWrite]
      · refine ⟨fun f i hf hi => Ctl.get_logWrite m r f i ?_ hi hh hr, ?_, Ctl.quiet_logWrite r, Ctl.edits_logWrite m r,
          Ctl.raised_logWrite m r, Ctl.head_logWrite m r hr, Ctl.out_logWrite m r⟩
        · simp only [List.mem_cons, List.not_mem_nil, or_false, not_or] at hf ⊢
          exact ⟨hf.1, hf.2.1, hf.2.2.1, hf.2.2.2.2⟩
        · have h1 : (m.logWrite r).held = m.held := by
            have h2 : (m.logWrite r).rest.held = m.rest.held := by rw [Ctl.rest_of_logWrite]
            simpa using h2
          rw [Ctl.rest_of_logWrite, h1]
          generalize m = n; cases n; rfl
  have hheld : ∀ q, m.OnlyLogged { n with held := q } ∧
      ({ n with held := q } : Ctl).get F.FLT_LOG_HEAD_TOTAL = n.get F.FLT_LOG_HEAD_TOTAL := by
    intro q
    refine ⟨⟨fun f i hf hi => (Ctl.get_congr rfl f i).trans (hl.flds f i hf hi), ?_, fun h => hl.quiet h, hl.edits, hl.raised,
      (Ctl.get_congr rfl _ _).trans_lt hl.head, hl.out⟩, Ctl.get_congr rfl _ _⟩
    have := hl.rest
    calc ({ n with held := q } : Ctl).rest = { n.rest with held := q } := by generalize n = k; cases k; rfl
      _ = _ := by rw [this]
  unfold Ctl.handle
  simp only [hn]
  by_cases hm : n.inMode [.powered, .fuseload, .selftest] = true
  · rw [if_pos hm]
    exact ⟨(hheld _).1, (hheld _).2 ▸ htot⟩
  · rw [if_neg hm]
    have hz : n.reactOf r.sev = 0 := by
      rcases hl.silent hs with h | h
      · exact absurd h hm
      · exact h _ hv
    rw [Ctl.react_calm hz]
    exact ⟨hl, htot⟩

/-- A list of such raises is only logged. -/
theorem Ctl.OnlyLogged.fold (a : Arr) (l : List Raised) (m : Ctl) (hs : m.Silent)
    (hr : ∀ r ∈ l, r.sev < 8 ∧ r.source < 512) (hh : m.get F.FLT_LOG_HEAD_HEAD < 256)
    (ht : m.canCopy = false ∨ m.get F.FLT_LOG_HEAD_TOTAL + l.length ≤ 256) :
    m.OnlyLogged (l.foldl (fun m r => m.handle a r) m) := by
  induction l generalizing m with
  | nil => exact Ctl.OnlyLogged.refl hh
  | cons r l ih =>
    obtain ⟨h1, h2⟩ := hr r (by simp)
    simp only [List.length_cons] at ht
    obtain ⟨g1, g2⟩ := Ctl.OnlyLogged.handle a r hs h1 h2 hh (by rcases ht with h | h; exact Or.inl h; right; omega)
    refine g1.trans (ih _ (g1.silent hs) (fun x hx => hr x (by simp [hx])) g1.head ?_)
    rcases ht with h | h
    · exact Or.inl (g1.canCopy.trans h)
    · right; omega

/-- A command with no request waiting whose raises take no reactions ends by logging them and driving the pin. -/
theorem Ctl.OnlyLogged.settle {m : Ctl} (a : Arr) (hq : m.Quiet) (hs : m.Silent)
    (hr : ∀ r ∈ m.raised, r.sev < 8 ∧ r.source < 512) (hh : m.get F.FLT_LOG_HEAD_HEAD < 256)
    (ht : m.canCopy = false ∨ m.get F.FLT_LOG_HEAD_TOTAL + m.raised.length ≤ 256) :
    ∃ n : Ctl, ({ m with raised := [] } : Ctl).OnlyLogged n ∧ m.settle a = n.drive := by
  by_cases hne : m.raised = []
  · refine ⟨m, ?_, Ctl.settle_quiet hq hne a⟩
    have : ({ m with raised := [] } : Ctl) = m := by cases m; simp only at hne; subst hne; rfl
    rw [this]
    exact Ctl.OnlyLogged.refl hh
  obtain ⟨k, hk⟩ : ∃ k : Ctl, k = { m with raised := [] } := ⟨_, rfl⟩
  have hg : ∀ f i, k.get f i = m.get f i := by intro f i; rw [hk]; exact Ctl.get_congr rfl f i
  have hkq : k.Quiet := by rw [hk]; exact hq
  have hkr : k.raised = [] := by rw [hk]
  have hks : k.Silent := by
    rcases hs with h | h
    · left; rw [hk]; exact h
    · right; intro v hv; exact (hg _ _).trans (h v hv)
  have hkc : k.canCopy = m.canCopy := by rw [hk]; rfl
  have hf := Ctl.OnlyLogged.fold a (m.raised.sorted fun x y => decide (x.source ≤ y.source)) k hks
    (fun r h => hr r ((List.mem_sorted _ _ _).mp h)) ((hg _ _).trans_lt hh)
    (by rw [hkc, hg, List.length_sorted]; exact ht)
  have he : m.reactAll a = (m.raised.sorted fun x y => decide (x.source ≤ y.source)).foldl (fun m r => m.handle a r) k := by
    have hw : (m.raised.sorted fun x y => decide (x.source ≤ y.source)).any (fun r => k.wantsReset r) = false := by
      rw [List.any_eq_false]
      intro r hm
      have hv := (hr r ((List.mem_sorted _ _ _).mp hm)).1
      rcases hks with h | h
      · have : k.inMode [.powered, .fuseload, .selftest, .training, .quarantine, .factory] = true := by
          simp only [Ctl.inMode, Bool.and_eq_true, List.any_cons, List.any_nil, Bool.or_false, Bool.or_eq_true] at h ⊢
          tauto
        simp [Ctl.wantsReset, this]
      · simp [Ctl.wantsReset, h r.sev hv, bit]
    unfold Ctl.reactAll
    rw [← hk]
    simp only [hw, Bool.false_eq_true, if_false]
  have hx : ∃ n : Ctl, k.OnlyLogged n ∧ m.settle a = n.drive :=
    ⟨_, hf, by
      rw [← he]
      exact Ctl.settle_raised hq hne a (by rw [he]; exact hf.quiet hkq) (by rw [he, hf.raised]; exact hkr)⟩
  rwa [hk] at hx

end Sys2Proof.Machine
end

