-- ==== Sys2Proof/Laws/Exec.lean ====
section
/-!
SUPPORT. What a command can answer at all: it is carried out by `run`, or its operands do not have the form that the part's
interfaces can deliver.
-/

namespace Sys2Proof.Machine

/-- Everything that a command can answer. -/
theorem exec_cases (c : Instr) (s : State) :
    (∃ g, exec c s = .next (run s g)) ∨ ∃ name, exec c s = .refused (.illFormed name) := by
  cases c with
  | controlFlit => simp only [exec, execControlFlit]; split <;> first | exact Or.inl ⟨_, rfl⟩ | exact Or.inr ⟨_, rfl⟩
  | write => simp only [exec, execWrite]; split <;> first | exact Or.inl ⟨_, rfl⟩ | exact Or.inr ⟨_, rfl⟩
  | writeMasked => simp only [exec, execWriteMasked]; split <;> first | exact Or.inl ⟨_, rfl⟩ | exact Or.inr ⟨_, rfl⟩
  | descriptorFetch =>
    simp only [exec, execDescriptorFetch]
    split
    · exact Or.inl ⟨_, rfl⟩
    · split <;> first | exact Or.inl ⟨_, rfl⟩ | exact Or.inr ⟨_, rfl⟩
  | burstStart => simp only [exec, execBurstStart]; split <;> first | exact Or.inl ⟨_, rfl⟩ | exact Or.inr ⟨_, rfl⟩
  | pair => simp only [exec, execPair]; split <;> first | exact Or.inl ⟨_, rfl⟩ | exact Or.inr ⟨_, rfl⟩
  | wr => simp only [exec, execWr]; split <;> first | exact Or.inl ⟨_, rfl⟩ | exact Or.inr ⟨_, rfl⟩
  | rdData => simp only [exec, execRdData]; split <;> first | exact Or.inl ⟨_, rfl⟩ | exact Or.inr ⟨_, rfl⟩
  | mirWr => simp only [exec, execMirWr]; split <;> first | exact Or.inl ⟨_, rfl⟩ | exact Or.inr ⟨_, rfl⟩
  | resyncWr => simp only [exec, execResyncWr]; split <;> first | exact Or.inl ⟨_, rfl⟩ | exact Or.inr ⟨_, rfl⟩
  | bar2Read => simp only [exec, execBar2Read]; split <;> first | exact Or.inl ⟨_, rfl⟩ | exact Or.inr ⟨_, rfl⟩
  | bar2Write => simp only [exec, execBar2Write]; split <;> first | exact Or.inl ⟨_, rfl⟩ | exact Or.inr ⟨_, rfl⟩
  | _ => exact Or.inl ⟨_, rfl⟩

/-- A next state of a command is one that `run` made. -/
theorem exec_next {c : Instr} {s t : State} (h : exec c s = .next t) : ∃ g, t = run s g := by
  rcases exec_cases c s with ⟨g, hg⟩ | ⟨n, hn⟩
  · rw [hg] at h; injection h with h; exact ⟨g, h.symm⟩
  · rw [hn] at h; cases h

end Sys2Proof.Machine
end

