-- ==== Sys2Proof/Tests/Slice0.lean ====
section
/-!
SUPPORT. Small checks: the form of commands, worked examples of the manual, and for every statement with hypotheses a
concrete state and operands that meet them (`wit_<Name>`), clause by clause.
-/

open Sys2Proof Sys2Proof.Machine

namespace Sys2Proof.Tests

set_option Elab.async false

/-- No severity has a reaction, so that every raise is only logged. -/
def noReact : List (Fld × Nat × Nat) := (List.range 8).map fun i => (F.FLT_REACT, i, 0)

/-- A running stack in a mode, with some register fields set. -/
def st (mode : Mode) (l : List (Fld × Nat × Nat)) (c : Ctl := {}) (arr : Arr := {}) : State :=
  { arr := arr
    ctl := (l ++ noReact).foldl (fun m e => m.set e.1 e.2.1 e.2.2) ({ c with power := .run }.put F.GL_MODE_STATE mode.code) }

/-- The bytes 0, 1, 2, … -/
def count (n : Nat) : List Byte := (List.range n).map (BitVec.ofNat 8)

/-- Bytes of a descriptor by its fields (R241). -/
def desc (op arg16 len src dst : Nat) (arg32 : Nat := 0) (argx : Nat := 0) (flags : Nat := 0) : List Byte :=
  leBytes 1 op ++ leBytes 1 flags ++ leBytes 2 arg16 ++ leBytes 4 len ++ leBytes 8 src ++ leBytes 8 dst ++ leBytes 4 5 ++
    leBytes 4 arg32 ++ leBytes 2 0 ++ leBytes 6 0 ++ leBytes 8 0 ++ leBytes 14 argx ++ leBytes 2 0

/-- The same with its CRC. -/
def descCrc (op arg16 len src dst : Nat) : List Byte :=
  let b := desc op arg16 len src dst
  b.take 62 ++ leBytes 2 (crc16 (b.take 62))

theorem calm_iff (m : Ctl) (src : Source) : m.Calm src ↔ m.sevOf src < 8 ∧ m.reactOf (m.sevOf src) = 0 ∧
    m.get F.FLT_LOG_HEAD_HEAD < 256 ∧ m.get F.FLT_LOG_HEAD_TOTAL < 256 :=
  ⟨fun h => ⟨h.1, h.2, h.3, h.4⟩, fun h => ⟨h.1, h.2.1, h.2.2.1, h.2.2.2⟩⟩

theorem ready_iff (m : Ctl) (p : Port) (g tag : Nat) : m.Ready p g tag ↔ m.Quiet ∧ (m.port p).hdrs = [] ∧
    m.pairOpen p g = true ∧ m.tagLive p tag = false ∧ m.inMode [.drowse] = false ∧ m.entry = none :=
  ⟨fun h => ⟨h.1, h.2, h.3, h.4, h.5, h.6⟩, fun h => ⟨h.1, h.2.1, h.2.2.1, h.2.2.2.1, h.2.2.2.2.1, h.2.2.2.2.2⟩⟩

theorem works_iff (m : Ctl) (r i op : Nat) (d : Prog) : m.Works r i op d ↔ m.Quiet ∧ m.moverRuns = true ∧
    m.ring r = { prog := [d] } ∧ d.idx = i ∧ d.phase = .running ∧ d.op = op ∧
    (opEngine d.op = true → m.stalledProg r d.idx = false ∧ ∃ e ∈ m.engines, e.2 = (r, d.idx)) :=
  ⟨fun h => ⟨h.1, h.2, h.3, h.4, h.5, h.6, h.7⟩,
    fun h => ⟨h.1, h.2.1, h.2.2.1, h.2.2.2.1, h.2.2.2.2.1, h.2.2.2.2.2.1, h.2.2.2.2.2.2⟩⟩

theorem bare_iff (m : Ctl) (i : Nat) : m.Bare i ↔ (m.lnk i).ops = [] ∧
    ∀ r < 16, m.get F.MIR_CTRL_LINK r = i → m.mirState r = 0 :=
  ⟨fun h => ⟨h.1, h.2⟩, fun h => ⟨h.1, h.2⟩⟩

theorem inv_iff (s : State) : Inv s ↔ Memory.wf s.arr = true ∧ s.ctl.edits = [] ∧ s.ctl.raised = [] ∧ FaultPin s.ctl :=
  ⟨fun h => ⟨h.1, h.2, h.3, h.4⟩, fun h => ⟨h.1, h.2.1, h.2.2.1, h.2.2.2⟩⟩

theorem getD_one {α : Type} (k j : Nat) (v d : α) : Sparse.getD [(k, v)] j d = if k = j then v else d := by
  simp only [Sparse.getD, Sparse.find]; split <;> rfl

/-- PC 3 with some contents, in mode FULL. -/
def ch (x : Pc) (l : List (Fld × Nat × Nat) := []) (c : Ctl := {}) (arr : Arr := {}) : State :=
  st .active ([(F.CH_STATUS_MODE, 3, 0), (F.CMT_CFG_EN, 0, 0), (F.PWR_FILL_DIES, 0, 0)] ++ l)
    { c with now := 12345, pcs := Sparse.put c.pcs 3 x, dies := Sparse.put c.dies 0 { transit := true } } arr

/-! ## The form of commands -/

/-- Four raw slots, and no other number (R68). -/
theorem test_form_controlFlit : exec (.controlFlit .a 0 0 [0, 0, 0]) {} = .refused (.illFormed "CONTROL_FLIT") := by rfl

/-- As much data as SIZE says (R114). -/
theorem test_form_write : (Instr.write .a 0 0 0 0 .s32 (count 31)).wellFormed = false := by decide +kernel

theorem test_form_writeMasked : (Instr.writeMasked .a 0 0 0 0 .s64 none (count 63)).wellFormed = false := by decide +kernel

/-- Whole slots of 64 B for a service ring (R342). -/
theorem test_form_descriptorFetch : (Instr.descriptorFetch 140 [] (.data (count 65))).wellFormed = false := by decide +kernel

/-- At most 470 pairs, and not none (R298). -/
theorem test_form_burstStart : exec (.burstStart .l0 0) {} = .refused (.illFormed "BURST_START") ∧
    exec (.burstStart .l0 471) {} = .refused (.illFormed "BURST_START") := ⟨rfl, rfl⟩

/-- A level of each of a pair's 3600 PAM4 symbols, and the 680 data symbols that are left where a codeword is given up. -/
theorem test_form_pair : (Instr.pair .l0 0 (List.replicate 3599 .l3) (List.replicate 680 0)).wellFormed = false ∧
    (Instr.pair .l0 0 (List.replicate 3600 .l3) (List.replicate 679 0)).wellFormed = false := by decide +kernel

/-- A payload of 1 to 8 words, of 1 or 2 with enables (R318). -/
theorem test_form_wr : (Instr.wr .l0 0 0 none (count 33) false).wellFormed = false ∧
    (Instr.wr .l0 0 0 (some 1) (count 96) false).wellFormed = false := by decide +kernel

theorem test_form_rdData : (Instr.rdData .l0 0 0 0 [] false).wellFormed = false := by decide +kernel

theorem test_form_mirWr : (Instr.mirWr .l0 0 0 0 none (count 288) false).wellFormed = false := by decide +kernel

theorem test_form_resyncWr : (Instr.resyncWr .l0 0 0 0 (count 16) false).wellFormed = false := by decide +kernel

/-- At most 4 KiB read and 512 B written (R335), with one enable for each byte. -/
theorem test_form_bar2Read : exec (.bar2Read 0 4097) {} = .refused (.illFormed "BAR2_READ") := by rfl

theorem test_form_bar2Write : exec (.bar2Write 0 [1, 2] [true]) {} = .refused (.illFormed "BAR2_WRITE") := by rfl

/-! ## Witnesses: the whole machine -/

/-- A stack in ACTIVE with a command waiting, which its first step runs. -/
theorem wit_StepKeepsInv : ∃ s : State, Inv s ∧ s.pending ≠ [] ∧ ∃ t, step s = .next t :=
  ⟨{ st .active [(F.FLT_STATUS_FAULTN, 0, 1)] with pending := [.bypass] }, by
    simp only [inv_iff, FaultPin]; decide +kernel, by decide, ⟨_, rfl⟩⟩

theorem wit_StepRunsFront : (st .active []).pending = [] ∧ State.reset.pending = [] := ⟨rfl, rfl⟩

theorem wit_ExecAnswers : (∃ c : Instr, c.wellFormed = true) ∧ (∃ c : Instr, c.wellFormed = false) ∧
    ∃ t, exec .bypass (st .training []) = .next t :=
  ⟨⟨.bar2Read 0 4096, rfl⟩, ⟨.bar2Read 0 4097, rfl⟩, ⟨_, rfl⟩⟩

/-! ## Witnesses: clocks and start-up -/

theorem wit_PowerOnReset : (∃ s : State, s.ctl.Quiet ∧ s.ctl.power = .off) ∧ (∃ s : State, s.ctl.Quiet ∧ s.ctl.power = .run) ∧
    (∃ s : State, s.ctl.Quiet ∧ s.ctl.power = .porHeld ∧ s.ctl.power ≠ .off) :=
  ⟨⟨{ ctl := { power := .off } }, by decide +kernel⟩, ⟨st .ready [], by decide +kernel⟩, ⟨{}, by decide +kernel⟩⟩

/-- Both ranges of the window, and the last attempt that is retried. -/
theorem wit_XtalStart :
    (∀ r < 2, ∃ s : State, s.ctl.Quiet ∧ s.ctl.power = .run ∧ s.ctl.clk.ampOff = false ∧
      s.ctl.get F.CLK_STATUS_XTAL_GOOD = 0 ∧ s.ctl.get F.CLK_STATUS_MON_RANGE = r ∧ s.ctl.clk.bads = 3) ∧
    (∃ s : State, s.ctl.Quiet ∧ s.ctl.power = .run ∧ s.ctl.clk.ampOff = true ∧ s.ctl.clk.attempt < 16) := by
  refine ⟨fun r hr => ?_, ⟨st .powered [] { clk := { ampOff := true, attempt := 15 } }, ?_⟩⟩
  · rcases Nat.lt_or_ge r 1 with h | h
    · exact ⟨st .powered [(F.CLK_STATUS_MON_RANGE, 0, 0)] { clk := { bads := 3 } }, by
        obtain rfl : r = 0 := by omega
        simp only [Ctl.Quiet]; decide +kernel⟩
    · exact ⟨st .powered [(F.CLK_STATUS_MON_RANGE, 0, 1)] { clk := { bads := 3 } }, by
        obtain rfl : r = 1 := by omega
        simp only [Ctl.Quiet]; decide +kernel⟩
  · simp only [Ctl.Quiet]; decide +kernel

theorem wit_CrossingsAndGates :
    (∃ s : State, s.ctl.Quiet ∧ s.ctl.power = .run ∧ s.ctl.Calm 0x011 ∧ s.ctl.Calm 0x012) ∧
    (∃ (s : State) (dom : Fin 102), s.ctl.Quiet ∧ s.ctl.power = .run ∧ s.ctl.get F.CLK_CFG_GATE_EN = 1 ∧
      dom.val ∉ [95, 96, 99, 100] ∧ dom.val ∉ s.ctl.clk.gated ∧ dom.val ∉ s.ctl.clk.asked) ∧
    ∃ (s : State) (dom : Fin 102), s.ctl.Quiet ∧ dom.val ∈ s.ctl.clk.asked := by
  simp only [Ctl.Quiet, calm_iff]
  exact ⟨⟨st .active [], by decide +kernel⟩, ⟨st .active [(F.CLK_CFG_GATE_EN, 0, 1)], 101, by decide +kernel⟩,
    ⟨st .active [] { clk := { asked := [101] } }, 101, by decide +kernel⟩⟩

theorem wit_FuseSense : ∃ (s : State) (sample : Sample), s.ctl.Quiet ∧ s.ctl.inMode [.fuseload] = true ∧ s.ctl.cellarOk = false ∧
    s.ctl.get F.FLT_LOG_HEAD_HEAD < 256 ∧ (∀ i < 36, s.ctl.tempAt i < 460) ∧ ∀ e ∈ sample, ∀ x, e.2 = some x → x < 460 :=
  ⟨st .fuseload [], [(3, some 459)], by decide +kernel, by decide +kernel, rfl, by decide +kernel, by decide +kernel, by
    intro e he x hx
    obtain rfl : e = (3, some 459) := by simpa using he
    simp at hx; omega⟩

/-- Every unit, and unit 2 as the last after a chip reset. -/
theorem wit_PowerOnBist : (∀ unit : Fin 7, ∃ s : State, s.ctl.Quiet ∧ s.ctl.inMode [.selftest] = true ∧
    s.ctl.bistNext = unit.val ∧
      s.ctl.get F.BIST_STATUS_WIPING = 0 ∧ (∀ v < 6, s.ctl.goldenBad v = false) ∧ s.ctl.bistFatal = false ∧ s.ctl.held = []) ∧
    ∃ s : State, s.ctl.Quiet ∧ s.ctl.inMode [.selftest] = true ∧ s.ctl.bistNext = 2 ∧ s.ctl.get F.BIST_STATUS_WIPING = 0 ∧
      s.ctl.bistShort = true ∧ s.ctl.bistFatal = false ∧ s.ctl.held = [] := by
  simp only [Ctl.Quiet]
  exact ⟨fun u => ⟨st .selftest ((List.range 12).map fun v => (F.FUSE_WORD_HI_SENSE, 96 + v, 1)) { bistNext := u.val }, by
    revert u; decide +kernel⟩,
    ⟨st .selftest [] { bistNext := 2, bistShort := true }, by decide +kernel⟩⟩

theorem wit_TsvTraining : ∃ s : State, s.ctl.Quiet ∧ s.ctl.inMode [.training] = true ∧ s.ctl.bistShort = false ∧
    (∀ p < 64, (s.ctl.pc p).tsv.dead = false ∧ ((s.ctl.pc p).tsv.badHalf.length = 1 → s.ctl.narrow p = true)) ∧
    (s.ctl.pc 5).tsv.badHalf.length = 1 ∧ s.ctl.link .a = 1 ∧ s.ctl.get F.PA_STATUS_GROUPS 0 ≠ 0 ∧ s.ctl.link .b = 0 := by
  simp only [Ctl.Quiet]
  exact ⟨st .training [(F.CH_STATUS_MODE, 5, 1), (F.PA_STATUS_LINK, 0, 1), (F.PA_STATUS_GROUPS, 0, 1)]
    { pcs := [(5, { tsv := { badHalf := [1] } })] }, by decide +kernel⟩

/-! ## Witnesses: orbit time -/

/-- The last number before the counter wraps is one away from a multiple of 64, where a sample would fall due. -/
theorem wit_OrbitBoundary : ∃ s : State, s.ctl.Quiet ∧ s.ctl.power = .run ∧ s.ctl.orb.run = true ∧ s.ctl.orb.cut = false ∧
    s.ctl.orb.slew = 0 ∧ s.ctl.orb.step = none ∧ s.ctl.commit = none ∧ s.ctl.orb.source ≠ 1 ∧ s.ctl.orb.source ≠ 2 ∧
    (∀ e ∈ s.ctl.pcs, e.2.nrefs = []) ∧ s.ctl.scrubRuns = true ∧
    s.ctl.bnd ≠ s.ctl.rowDue (s.ctl.get F.REP_SCRUB_POS_STEP) ∧ s.ctl.get F.THM_STATUS_FAST = 0 ∧
    (s.ctl.orbit + 1) % 2 ^ 48 % 64 ≠ 0 ∧ s.ctl.get F.THM_STATUS_STEPS = 0 ∧
      tempOf (s.ctl.get F.THM_MAX_TEMP) < s.ctl.throttleAt ∧
    s.ctl.reserves = [] ∧ 0 < s.ctl.lease ∧ (s.ctl.die 3).transit = true ∧ (s.ctl.die 0).st = .cut ∧ (s.ctl.die 5).st = .cut ∧
    s.ctl.orbitAt + s.ctl.orb.period < s.ctl.now ∧ s.ctl.pa.silent = some 63 := by
  simp only [Ctl.Quiet]
  exact ⟨st .active [(F.ORB_NOW, 0, 2 ^ 48 - 2), (F.PA_STATUS_LINK, 0, 2), (F.PWR_FILL_DIES, 0, 0)]
    { orb := { run := true, source := 3 }, lease := 5, now := 5000000, bnd := 3, pa := { silent := some 63 }
      dies := [(0, { st := .cut }), (3, { transit := true }), (5, { st := .cut })] }, by decide +kernel⟩

/-- A die above 85 degC, one at 82 degC, one whose sensors all failed. -/
theorem wit_ThermalSample : ∃ (s : State) (sample : Sample), s.ctl.Quiet ∧ s.ctl.power = .run ∧
    s.ctl.inMode [.quarantine] = false ∧
    s.ctl.get F.THM_STATUS_SAMPLED = 1 ∧ (∃ i < 4, s.ctl.sensorWorks i = true) ∧ (∀ i < 36, s.ctl.tempAt i < s.ctl.warnAt) ∧
    (sample.map (·.1)).Nodup ∧ (∀ e ∈ sample, ∃ x, e.2 = some x ∧ -160 ≤ x ∧ x < s.ctl.warnAt) ∧
    (∃ k < 2, s.ctl.sensorWorks (4 + k) = true) ∧ (∀ k < 2, s.ctl.sensorWorks (6 + k) = true) ∧
    ¬ ∃ k < 2, s.ctl.sensorWorks (8 + k) = true :=
  ⟨st .active [(F.THM_STATUS_SAMPLED, 0, 1), (F.THM_SENSOR_FAILED, 8, 1), (F.THM_SENSOR_FAILED, 9, 1)],
    [(0, some (-160)), (4, some 341), (6, some 328), (7, some 328)], by decide +kernel, rfl, by decide +kernel, by decide +kernel,
    ⟨0, by decide, by decide +kernel⟩, by decide +kernel, by decide, by
      intro e he
      have h : e = (0, some (-160)) ∨ e = (4, some 341) ∨ e = (6, some 328) ∨ e = (7, some 328) := by simpa using he
      rcases h with rfl | rfl | rfl | rfl <;> exact ⟨_, rfl, by decide +kernel, by decide +kernel⟩,
    ⟨0, by decide, by decide +kernel⟩, by decide +kernel, by decide +kernel⟩

/-- Bits of a frame for a number, with its CRC-8 (R37). -/
def frameBits (n : Nat) : List Bool :=
  let bs := (List.range 48).map (bit n) ++ (List.range 8).map (bit 2)
  bs ++ (List.range 8).map (bit (crc8 bs))

/-- A locked orbit, of which no neighbour listens. -/
def locked (o : Orb) (n : Nat := 99) (valid : Nat := 1) : State :=
  st .active [(F.ORB_CFG_SOURCE, 0, 0), (F.ORB_STATUS_STATE, 0, 1), (F.ORB_NOW, 0, n), (F.ORB_STATUS_NUMBER_VALID, 0,
    valid)] { orb := { o with run := true } }

/-- The ends of the window, within a frame; a whole frame in the last 64 markers; a second edge in one window; a first and a second
missing marker; free orbit with a run of 15 edges at 0, 64 and 65 phases, and one that breaks off. -/
theorem wit_BeatMarkers :
    let listens := fun (s : State) (state : Nat) => s.ctl.Quiet ∧ s.ctl.orb.run = true ∧ s.ctl.get F.ORB_STATUS_STATE = state ∧
      s.ctl.orb.slew = 0 ∧ s.ctl.orb.cut = false ∧ s.ctl.get F.ORB_CFG_SOURCE = 0
    let alone := fun (s : State) => listens s 1 ∧ s.ctl.orb.source = 0 ∧ s.ctl.plUp 0 = false ∧ s.ctl.plUp 1 = false
    (∃ (s : State) (offset : Int), alone s ∧ s.ctl.orb.seen = false ∧ offset.natAbs = 8 ∧ s.ctl.orb.synced = true ∧
      s.ctl.orb.align ≠ some (s.ctl.bnd % 64) ∧ s.ctl.orb.markAt = some 77 ∧ 77 < s.ctl.offTime offset) ∧
    (∃ (s : State) (highNs : Nat) (bs : List Bool), alone s ∧ s.ctl.orb.seen = false ∧ s.ctl.orb.synced = false ∧
      s.ctl.numValid = false ∧ s.ctl.orb.first = false ∧ s.ctl.commit = none ∧ s.ctl.commitWait = [] ∧
      frameOk ((s.ctl.orb.frame ++ [bitOf highNs]).drop (s.ctl.orb.frame.length + 1 - 64)) = some bs) ∧
    (∃ s : State, alone s ∧ s.ctl.orb.seen = true) ∧
    (∃ s : State, alone s ∧ s.ctl.orb.seen = false ∧ s.ctl.orb.missed = 0 ∧ s.ctl.orb.align ≠ some (s.ctl.bnd % 64)) ∧
    (∃ s : State, alone s ∧ s.ctl.orb.seen = false ∧ s.ctl.orb.missed ≠ 0 ∧ s.ctl.orb.align = none ∧ s.ctl.Calm 0x060) ∧
    (∀ e ∈ [0, 64, 65], ∃ (s : State) (r : List Int), listens s 2 ∧
      Sparse.getD s.ctl.orb.runs 0 [] = ((s.ctl.bnd : Int) * 4096 + e - 4096) :: r ∧ r.length = 14) ∧
    ∃ (s : State) (x : Int), listens s 2 ∧ Sparse.getD s.ctl.orb.runs 0 [] = [x] ∧
      2 < ((s.ctl.bnd : Int) * 4096 - x - 4096).natAbs := by
  simp only [Ctl.Quiet, calm_iff]
  refine ⟨⟨locked { synced := true, align := some 63, markAt := some 77 }, 8, by decide +kernel⟩,
    ⟨locked { frame := (frameBits 640).dropLast.map some } 99 0, 200, frameBits 640, by decide +kernel⟩,
    ⟨locked { seen := true }, by decide +kernel⟩, ⟨locked {}, by decide +kernel⟩,
    ⟨locked { missed := 1 }, by decide +kernel⟩, fun e h => ?_,
    ⟨st .active [(F.ORB_CFG_SOURCE, 0, 0), (F.ORB_STATUS_STATE, 0, 2)]
      { orb := { run := true, source := 3, runs := [(0, [3])] }, bnd := 1 }, 3, by decide +kernel⟩⟩
  refine ⟨st .active [(F.ORB_CFG_SOURCE, 0, 0), (F.ORB_STATUS_STATE, 0, 2)]
    { orb := { run := true, source := 3, runs := [(0, (List.range 15).map fun k => e - 4096 * (k : Int))] }, bnd := 1 },
    (List.range 14).map fun k => e - 4096 * ((k + 1 : Nat) : Int), ?_⟩
  revert h; revert e
  decide +kernel

/-- A die in each stage of its eclipse, hot and not, in this orbit, and die 0, whose eclipse begins with the next. -/
theorem wit_ScheduledEclipse :
    (∀ d ∈ [(0 : Fin 16), 15], ∃ s : State, s.ctl.Quiet ∧ s.ctl.orb.run = true ∧ (s.ctl.die d.val).st = .quiet ∧
      (s.ctl.die d.val).ecl ≠ some (if d.val = 0 then s.ctl.bnd + 1 else s.ctl.bnd) ∧
      s.ctl.now ≤ s.ctl.phaseAt (if d.val = 0 then 4096 else 256 * d.val) ∧ ∀ e ∈ s.ctl.pcs, e.2.targets = [] ∧ e.2.bg = []) ∧
    (∃ (s : State) (die : Fin 16), s.ctl.Quiet ∧ (s.ctl.die die.val).st = .cut ∧ (s.ctl.die die.val).catchup = false ∧
      (s.ctl.die die.val).ecl = some s.ctl.bnd ∧ ∀ p b, b / 16 = die.val → ((s.ctl.pc p).bank b).row = none) ∧
    (∀ hot : Bool, ∃ s : State, s.ctl.Quiet ∧ (s.ctl.die 0).st = .lead ∧ (s.ctl.die 0).hot = hot ∧ (s.ctl.die 0).row = 8191 ∧
      s.ctl.dark 5 = false ∧ s.ctl.dark 6 = true) ∧
    (∃ s : State, s.ctl.Quiet ∧ (s.ctl.die 0).st = .refresh ∧ (s.ctl.die 0).hot = false) ∧
    ∃ (s : State) (die : Fin 16), s.ctl.Quiet ∧ (s.ctl.die die.val).st = .cut ∧ (s.ctl.die die.val).catchup = false ∧
      (s.ctl.die die.val).ecl = some s.ctl.bnd ∧
      (∀ p b, b / 16 = die.val → ((s.ctl.pc p).bank b).rets = [] ∧ ((s.ctl.pc p).bank b).pce.loading = false ∧
        (((s.ctl.pc p).bank b).pce.st = .dirty → ((s.ctl.pc p).bank b).pce.err = [])) ∧
      ((s.ctl.pc 3).bank 17).row = some 5 ∧ ((s.ctl.pc 3).bank 17).pce.st = .dirty := by
  refine ⟨fun d h => ⟨st .active [] { orb := { run := true }, dies := [(15, { ecl := some 8 })], bnd := 9 }, ?_⟩,
    ⟨st .active [] { dies := [(1, { st := .cut, ecl := some 7 })], bnd := 7 }, 1, by decide +kernel, rfl, rfl, rfl,
      fun _ _ _ => rfl⟩,
    fun hot => ⟨st .active [(F.CH_STATUS_MODE, 5, 0), (F.CH_STATUS_MODE, 6, 2)] { dies := [(0, { st := .lead, row := 8191, hot := hot })] }, ?_⟩,
    ⟨st .active [] { dies := [(0, { st := .refresh })] }, by decide +kernel⟩,
    ⟨st .active [] { dies := [(1, { st := .cut, ecl := some 7 })], bnd := 7
                     pcs := [(3, { banks := [(17, { row := some 5, pce := { st := .dirty } })] })] }, 1,
      by decide +kernel, rfl, rfl, rfl, fun p b _ => ?_, rfl, rfl⟩⟩
  · revert h; revert d; decide +kernel
  · revert hot; decide +kernel
  · show (Pc.bank (Sparse.getD [_] p _) b).rets = [] ∧ (Pc.bank (Sparse.getD [_] p _) b).pce.loading = false ∧
      ((Pc.bank (Sparse.getD [_] p _) b).pce.st = .dirty → (Pc.bank (Sparse.getD [_] p _) b).pce.err = [])
    simp only [getD_one, Pc.bank]
    split <;> simp only [getD_one] <;> (try split) <;> exact ⟨rfl, rfl, fun _ => rfl⟩

theorem wit_RefreshDebt :
    (∃ s : State, s.ctl.Quiet ∧ s.ctl.dieKept 0 = true ∧ (s.ctl.die 0).debt = 7) ∧
    (∃ s : State, s.ctl.Quiet ∧ s.ctl.dieKept 3 = false) ∧
    (∃ (s : State) (die : Fin 16), s.ctl.Quiet ∧ (s.ctl.die die.val).st = .quiet ∧ 4 ≤ (s.ctl.die die.val).debt ∧
      s.ctl.dieKept die.val = true ∧ (∀ e ∈ s.ctl.pcs, e.2.targets = [] ∧ e.2.bg = []) ∧ s.ctl.Calm 0x062) ∧
    ∃ (s : State) (die : Fin 16), s.ctl.Quiet ∧ (s.ctl.die die.val).st = .cut ∧ (s.ctl.die die.val).catchup = true ∧
      (∀ e ∈ s.ctl.pcs, e.2.banks = [] ∧ e.2.flights = [] ∧ e.2.curd = []) ∧ s.ctl.pcs ≠ [] := by
  simp only [calm_iff]
  exact ⟨⟨st .active [] { dies := [(0, { debt := 7 })] }, by decide +kernel⟩, ⟨st .crescent [(F.PWR_KEEP_DIES, 0, 1)],
      by decide +kernel⟩,
    ⟨st .active [] { dies := [(15, { debt := 4 })], pcs := [(3, {})] }, 15, by decide +kernel⟩,
    ⟨st .active [] { dies := [(15, { st := .cut, catchup := true })], pcs := [(3, { queue := [] })] }, 15, by decide +kernel⟩⟩

/-! ## Witnesses: host ports -/

/-- Port A UP on pair 3. -/
def up (q : Grp := {}) (l : List (Fld × Nat × Nat) := []) (mode : Mode := .active) (x : PortSt := {}) (c : Ctl := {}) : State :=
  st mode ([(F.PA_STATUS_LINK, 0, 2), (F.PA_STATUS_GROUPS, 0, 8), (F.PA_LANE_DISABLED, 3, 0)] ++ l) { c with pa := x.setGrp 3 q }

/-- A downstream control flit by its fields (R72, R73). -/
def flit (typ seq hv body crcFlip : Nat) : BitVec 512 :=
  let v := body + (typ + seq * 256 + hv * 2 ^ 40) * 2 ^ 384
  BitVec.ofNat 512 (v + (crc32c (leBytes 60 v) ^^^ crcFlip) * 2 ^ 480)

/-- A damaged flit, a NULL, another number than the one expected, and one accepted with two reads in it. -/
theorem wit_ControlFlit :
    let body := 5 * 64 + 9 * 2 ^ 20 + (7 * 64) * 2 ^ 96
    (∃ s : State, s.ctl.Quiet ∧ s.ctl.linkUp .a = true ∧ s.ctl.grpOn .a 3 = true ∧ (s.ctl.grp .a 3).rxIdle = false ∧
      (s.ctl.grp .a 3).buf = [] ∧ (flitOf (flit 2 7 3 body 1).toNat).crcOk = false ∧
      (let f := flitOf (flit 0 0 0 0 0).toNat
      f.crcOk = true ∧ f.nak = false ∧ f.recov = false ∧ f.typ = 0) ∧
      (let f := flitOf (flit 1 8 0 0 0).toNat
      f.crcOk = true ∧ f.nak = false ∧ f.recov = false ∧ f.seq ≠ (s.ctl.grp .a 3).e) ∧
      (let f := flitOf (flit 2 7 3 body 0).toNat
      let hs := reqHeaders f.body f.hv 4 0
      f.crcOk = true ∧ f.nak = false ∧ f.recov = false ∧ f.typ = 2 ∧ f.seq = (s.ctl.grp .a 3).e ∧ (s.ctl.grp .a 3).recov = false ∧
        (s.ctl.grp .a 3).txIdle = false ∧ f.dv = 0 ∧ judgeFlit (s.ctl.grp .a 3) f hs = [] ∧
        (hs.all fun h => decide (h.1 % 16 < 7)) = true ∧ s.ctl.inMode [.drowse] = false ∧ s.ctl.entry = none ∧
          hs.length = 2)) := by
  simp only [Ctl.Quiet]
  exact ⟨up { e := 7 }, by decide +kernel⟩

theorem wit_ControlPeriod : ∀ n < 2, ∃ (s : State) (up : List UpItem), s.ctl.Quiet ∧ s.ctl.linkUp .a = true ∧
    s.ctl.get F.PA_STATUS_GROUPS 0 = 2 ^ 3 ∧ s.ctl.pa.events = [] ∧ (s.ctl.grp .a 3).txIdle = false ∧ (s.ctl.grp .a 3).again = 0 ∧
    (s.ctl.grp .a 3).slots = [] ∧ (s.ctl.grp .a 3).rhDue = 0 ∧ (s.ctl.grp .a 3).wdDue = 0 ∧ (s.ctl.grp .a 3).buf = [] ∧
    (s.ctl.grp .a 3).up = up ∧ up = if n = 0 then [] else [UpItem.cpl 5 0 none false none 9 (.fresh false) 77] := by
  intro n h
  rcases Nat.lt_or_ge n 1 with k | k
  · obtain rfl : n = 0 := by omega
    exact ⟨up { seq := 4095, period := 4095 }, [], by simp only [Ctl.Quiet]; decide +kernel⟩
  · obtain rfl : n = 1 := by omega
    exact ⟨up { up := [.cpl 5 0 none false none 9 (.fresh false) 77] }, [.cpl 5 0 none false none 9 (.fresh false) 77],
      by simp only [Ctl.Quiet]; decide +kernel⟩

/-- The third replay from one oldest SEQ, and the fourth, asked for by a NAK with a new ACK, by an old one, and by the idle age; and
nothing that asks for one. -/
theorem wit_Replay :
    let sends := fun (s : State) (o : TxFlit) => s.ctl.Quiet ∧ s.ctl.linkUp .a = true ∧ s.ctl.grpOn .a 3 = true ∧
      (s.ctl.grp .a 3).txIdle = false ∧ (s.ctl.grp .a 3).buf = o :: [o]
    (∀ n ∈ [2, 3], ∀ e ∈ [(some 3, 5, 0), (some 4, 64, 0), (none, 5, 256)], ∃ (s : State) (o : TxFlit), sends s o ∧
      ((s.ctl.grp .a 3).nakIn.isSome = true ∧
          ((s.ctl.grp .a 3).nakIn ≠ (s.ctl.grp .a 3).nakAck ∨ 64 ≤ (s.ctl.grp .a 3).replayAge) ∨
        256 ≤ (s.ctl.grp .a 3).idleAge) ∧
      (s.ctl.grp .a 3).nakIn = e.1 ∧ (s.ctl.grp .a 3).fromCount = n ∧ (s.ctl.grp .a 3).fromSeq = o.seq) ∧
    ∃ (s : State) (o : TxFlit), sends s o ∧ (s.ctl.grp .a 3).nakIn = (s.ctl.grp .a 3).nakAck ∧ (s.ctl.grp .a 3).replayAge < 64 ∧
      (s.ctl.grp .a 3).idleAge < 256 := by
  simp only [Ctl.Quiet]
  let o : TxFlit := { typ := 3, seq := 6, period := 5 }
  refine ⟨fun n h e h' => ⟨up { buf := [o, o], fromCount := n, fromSeq := 6, nakIn := e.1, nakAck := some 4, replayAge := e.2.1
                                idleAge := e.2.2 }, o, ?_⟩,
    ⟨up { buf := [o, o], nakIn := some 4, nakAck := some 4, replayAge := 63, idleAge := 255 }, o, by decide +kernel⟩⟩
  revert h'; revert e; revert h; revert n
  decide +kernel

/-- A pair among others, and the last one, with a lane that its spare replaces, and with two lanes for one spare. -/
theorem wit_PairRecovery : ∀ groups ∈ [8, 9], ∃ s : State, s.ctl.Quiet ∧ s.ctl.pa.hdrs = [] ∧ s.ctl.linkUp .a = true ∧
    s.ctl.grpOn .a 3 = true ∧ s.ctl.get F.PA_STATUS_GROUPS 0 = groups ∧ groups < 65536 ∧
    ((s.ctl.bump F.PA_COUNT_RECOVERIES 0).takeSpares .a 3 [(.down, .data, 63)]).isSome = true ∧
    (s.ctl.bump F.PA_COUNT_RECOVERIES 0).takeSpares .a 3 [(.down, .data, 63), (.down, .data, 62)] = none ∧
    (s.ctl.grp .a 3).up = [] ∧ (s.ctl.grp .a 3).buf = [] ∧ s.ctl.Calm (groupSource .a) := by
  simp only [Ctl.Quiet, calm_iff]
  exact fun g hg => ⟨up {} [(F.PA_STATUS_GROUPS, 0, g)], by revert hg; revert g; decide +kernel⟩

/-- In TRAINING and in READY, and the retry; results that take a group, none, and one whose failed lanes need more spares than it
has. -/
theorem wit_PortTraining :
    let takes := fun (s : State) (r : PortTrain) (g : Nat) => r.groups.getLsbD g = true ∧
      (s.ctl.takeSpares .a g ((r.spared.filter fun e => e.1.val == g).map (·.2))).isSome = true
    (∀ mode ∈ [Mode.training, .ready], ∃ s : State, s.ctl.Quiet ∧ s.ctl.mayTrain .a = true ∧ s.ctl.mode = mode.code ∧
      s.ctl.get F.PA_SIDEBAND_HOSTPRES 0 = 1 ∧ s.ctl.pa.retry = true ∧
      (∃ r : PortTrain, ∀ g < 16, takes s r g) ∧
      (∃ r : PortTrain, (∀ g < 16, ¬ takes s r g) ∧ r.groups ≠ 0 ∧ ∀ g < 16, s.ctl.get F.PA_LANE_DISABLED g ≠ 0)) ∧
    ∃ (s : State) (r : PortTrain), s.ctl.Quiet ∧ s.ctl.mayTrain .a = true ∧
      (¬ takes s r 5 ∧ ¬ s.ctl.get F.PA_LANE_DISABLED 5 ≠ 0) ∧
      (∀ g < 16, ¬ takes s r g ∧ ¬ s.ctl.get F.PA_LANE_DISABLED g ≠ 0 → g = 5) ∧ s.ctl.Calm (groupSource .a) := by
  simp only [Ctl.Quiet, calm_iff]
  refine ⟨fun mode h => ⟨{ st mode ([(F.PA_CTRL_ENABLE, 0, 1), (F.PA_SIDEBAND_HOSTPRES, 0, 1)] ++
        (List.range 16).map fun g => (F.PA_LANE_DISABLED, g, 1)) { pa := { retry := true } } with pending := [] }, ?_⟩,
    ⟨st .ready [(F.PA_CTRL_ENABLE, 0, 1), (F.PA_LANE_DISABLED, 5, 0)], ⟨0xFFDF, 1, []⟩, by decide +kernel⟩⟩
  revert h; revert mode
  intro mode h
  have h : mode = .training ∨ mode = .ready := by simpa using h
  rcases h with rfl | rfl <;>
  exact ⟨by decide +kernel, by decide +kernel, by decide +kernel, by decide +kernel, by decide +kernel,
    ⟨⟨0xFFFF, 1, []⟩, by decide +kernel⟩, ⟨⟨2, 1, [(1, .up, .ctrl, 3), (1, .up, .ctrl, 4)]⟩, by decide +kernel⟩⟩

/-- A margin at its minimum and one below it; the last lane and the number after it. -/
theorem wit_LaneSparing :
    (∃ (s : State) (h v : BitVec 6), s.ctl.Quiet ∧ s.ctl.linkUp .a = true ∧ s.ctl.grpOn .a 3 = true ∧
      ¬ (h.toNat < s.ctl.get F.PA_EYE_CFG_H_MIN 0 ∨ v.toNat < s.ctl.get F.PA_EYE_CFG_V_MIN 0)) ∧
    (∃ (s : State) (lane : Fin 82) (h v : BitVec 6), s.ctl.Quiet ∧ s.ctl.linkUp .a = true ∧ s.ctl.grpOn .a 3 = true ∧
      (h.toNat < s.ctl.get F.PA_EYE_CFG_H_MIN 0 ∨ v.toNat < s.ctl.get F.PA_EYE_CFG_V_MIN 0) ∧ lane.val < 64 ∧
      Sparse.getD s.ctl.pa.poor (3 * 128 + lane.val) 0 = 3 ∧ s.ctl.get F.PA_CTRL_SPARE_EN 0 = 1 ∧
      s.ctl.get F.PA_LANE_RX_DUSED 3 = 0 ∧ s.ctl.pa.switching = [] ∧ (s.ctl.grp .a 3).txIdle = false) ∧
    (∃ s : State, s.ctl.Quiet ∧ s.ctl.pa.switching = [(3, .data, 63)] ∧ s.ctl.Calm 0x081) ∧
    (∀ k < 2, ∀ v ∈ [none, some (if k = 0 then 63 else 15)], ∃ s : State, s.ctl.Quiet ∧ s.ctl.pairOpen .a 3 = true ∧
      s.ctl.inMode [.drowse] = false ∧ s.ctl.entry = none ∧ (s.ctl.grp .a 3).txIdle = false ∧ s.ctl.portLane 0 3 1 k = v) ∧
    (∃ n : BitVec 8, n.toNat = 64) ∧ (∃ n : BitVec 8, n.toNat = 16) := by
  simp only [Ctl.Quiet, calm_iff]
  refine ⟨⟨up {} [(F.PA_EYE_CFG_H_MIN, 0, 10), (F.PA_EYE_CFG_V_MIN, 0, 10)], 10, 10, by decide +kernel⟩,
    ⟨up {} [(F.PA_EYE_CFG_H_MIN, 0, 10), (F.PA_CTRL_SPARE_EN, 0, 1)] .active { poor := [(3 * 128 + 63, 3)] }, 63, 9, 10,
      by decide +kernel⟩,
    ⟨up {} [] .active { switching := [(3, .data, 63)] }, by decide +kernel⟩,
    fun k h v h' => ⟨up {} (if v = none then [] else if k = 0 then [(F.PA_LANE_TX_DUSED, 3, 1), (F.PA_LANE_TX_DLANE, 3, 63)]
      else [(F.PA_LANE_TX_CUSED, 3, 1), (F.PA_LANE_TX_CLANE, 3, 15)]), ?_⟩, ⟨64, rfl⟩, ⟨16, rfl⟩⟩
  have k' : k = 0 ∨ k = 1 := by omega
  rcases k' with rfl | rfl <;> revert h' <;> revert v <;> decide +kernel

/-- Each way of idling, and the wake of the whole port from its lowest pair and of another pair alone. -/
theorem wit_PortIdleWake :
    (∃ s : State, s.ctl.Quiet ∧ s.ctl.power = .run ∧ s.ctl.get F.PA_SIDEBAND_HOSTPRES 0 = 1) ∧
    (∃ s : State, s.ctl.Quiet ∧ s.ctl.pairOpen .a 3 = true ∧ s.ctl.inMode [.drowse] = false ∧ s.ctl.entry = none ∧
      (s.ctl.grp .a 3).txIdle = false) ∧
    (∃ s : State, s.ctl.Quiet ∧ s.ctl.linkUp .a = true ∧ s.ctl.grpOn .a 3 = true ∧ (s.ctl.grp .a 3).rxIdle = true ∧
      (s.ctl.grp .a 3).txIdle = false ∧ (s.ctl.grp .a 3).quiet = 64 ∧ (s.ctl.grp .a 3).buf = [] ∧ (s.ctl.grp .a 3).up = [] ∧
      (s.ctl.grp .a 3).slots = [] ∧ s.ctl.lowest .a = some 3 ∧ s.ctl.pa.events = []) ∧
    (∀ e ∈ [(64, false), (1, true)], ∃ s : State, s.ctl.Quiet ∧ (s.ctl.grp .a 3).ackOnly = some e.1 ∧
      (s.ctl.grp .a 3).txIdle = false ∧ s.ctl.upWaits .a 3 = false ∧ (s.ctl.grp .a 3).rxIdle = e.2) ∧
    (∃ s : State, s.ctl.Quiet ∧ s.ctl.linkUp .a = true ∧ s.ctl.grpOn .a 3 = true ∧ (s.ctl.grp .a 3).rxAck = true) ∧
    (∀ low ∈ [3, 2], ∃ s : State, s.ctl.Quiet ∧ s.ctl.inMode [.ready, .active] = true ∧ s.ctl.entry = none ∧
      s.ctl.linkUp .a = true ∧ s.ctl.grpOn .a 3 = true ∧ (s.ctl.grp .a 3).rxIdle = true ∧ s.ctl.lowest .a = some low) ∧
    ∀ mode ∈ [Mode.drowse, .hibernate, .crescent], ∃ s : State, s.ctl.Quiet ∧ s.ctl.mode = mode.code := by
  simp only [Ctl.Quiet]
  refine ⟨⟨up {} [(F.PA_SIDEBAND_HOSTPRES, 0, 1)], by decide +kernel⟩, ⟨up, by decide +kernel⟩,
    ⟨up { rxIdle := true, quiet := 64 }, by decide +kernel⟩, fun e h => ⟨up { ackOnly := some e.1, rxIdle := e.2 }, ?_⟩,
    ⟨up { rxAck := true }, by decide +kernel⟩,
    fun low h => ⟨up { rxIdle := true } [(F.PA_STATUS_GROUPS, 0, if low = 3 then 8 else 12), (F.PA_LANE_DISABLED, 2, 0)], ?_⟩,
    fun mode h => ⟨up {} [] mode, ?_⟩⟩
  · revert h; revert e; decide +kernel
  · revert h; revert low; decide +kernel
  · revert h; revert mode; decide +kernel

theorem wit_PartnerLoss : (∀ cause : PartnerCause, ∃ s : State, s.ctl.Quiet ∧ s.ctl.power = .run ∧
      (match cause with
        | .hostpresLow => s.ctl.get F.PA_SIDEBAND_HOSTPRES 0 = 1 ∧ 1 ≤ s.ctl.link .a ∧ s.ctl.link .a ≤ 3
        | .clockLoss => 1 ≤ s.ctl.link .a ∧ s.ctl.link .a ≤ 3
        | .silence => s.ctl.link .a = 2 ∧ s.ctl.pa.silent = some 64) ∧
      (∃ g < 16, s.ctl.grpOn .a g = true ∧ (s.ctl.grp .a g).rxIdle = false) ∧
      s.ctl.pa.hdrs = [] ∧ (∀ e ∈ s.ctl.pa.grps, e.2.up = []) ∧
      (∀ q, (s.ctl.pc q).ingress = [] ∧ (s.ctl.pc q).queue = [] ∧ (s.ctl.pc q).flights = [] ∧ (s.ctl.pc q).rebuilds = []) ∧
      (∀ k < 64, (s.ctl.ring (64 * 0 + k)).prog = []) ∧ s.ctl.owner ≠ 0 + 1 ∧ s.ctl.Calm 0x082 ∧ s.ctl.ringState 3 = 2 ∧
      s.ctl.inMode [.active] = true) ∧
    ∀ link ∈ [0, 4], ∃ s : State, s.ctl.Quiet ∧ s.ctl.power = .run ∧ s.ctl.link .a = link := by
  simp only [Ctl.Quiet, calm_iff]
  refine ⟨fun c => ⟨up {} [(F.PA_SIDEBAND_HOSTPRES, 0, 1), (F.RING_STATUS_STATE, 3, 2)] .active { silent := some 64 }, by decide +kernel,
      rfl, by cases c <;> decide +kernel, ⟨3, by decide, by decide +kernel⟩, rfl, by decide +kernel,
      fun _ => ⟨rfl, rfl, rfl, rfl⟩, by decide +kernel⟩,
    fun link h => ⟨up {} [(F.PA_STATUS_LINK, 0, link)], ?_⟩⟩
  revert h; revert link; decide +kernel

/-- Window 2 of port A over the first 101 blocks of 64 KiB, and the last request that fits at its upper end. -/
def open_ (l : List (Fld × Nat × Nat) := []) : State :=
  up {} ([(F.PA_WCTRL_EN, 2, 1), (F.PA_WCTRL_RD, 2, 1), (F.PA_WCTRL_WR, 2, 1), (F.PA_WLIMIT_LIMIT, 2, 100)] ++ l)

/-- Every size, in label mode with the last place of its session free, and outside label mode. -/
theorem wit_UserRequests : ∀ mode < 2, ∀ size ∈ [ReqSize.s32, .s64, .s128, .s256], ∃ (s : State) (addr : BitVec 37),
    s.ctl.Ready .a 3 4 ∧ addr.toNat % size.bytes = 0 ∧ s.ctl.aperture addr.toNat = none ∧ s.ctl.labelMode = decide (mode = 0) ∧
    (s.ctl.labelMode = true → s.ctl.get F.SES_STAT_OUTST 5 < s.ctl.get F.SES_ACT0_LIMIT 5) ∧
    s.ctl.dark (s.ctl.place addr.toNat).pc = false ∧ s.ctl.filling addr.toNat = false ∧
    s.ctl.windowOk .a false addr.toNat size.bytes = true ∧ s.ctl.windowOk .a true addr.toNat size.bytes = true ∧
    s.ctl.frozen addr.toNat = false ∧ s.ctl.Answers .a 3 := by
  simp only [ready_iff, Ctl.Quiet, Ctl.Answers]
  intro mode hm size hs
  refine ⟨open_ [(F.QOS_CFG_MODE, 0, mode), (F.SES_ACT0_LIMIT, 5, 3), (F.SES_STAT_OUTST, 5, 2)],
    BitVec.ofNat 37 (101 * 65536 - size.bytes), ?_⟩
  revert hs; revert size; revert hm; revert mode
  decide +kernel

/-- A misaligned address, a range that leaves the space, and an aligned request with and without enables. -/
theorem wit_BadUserRequests : ∃ s : State, s.ctl.Ready .a 3 4 ∧ s.ctl.Answers .a 3 ∧
    (∃ addr : BitVec 37, addr.toNat % ReqSize.s32.bytes ≠ 0) ∧
    (∃ addr : BitVec 37, addr.toNat % ReqSize.s64.bytes ≠ 0 ∧ 2 ^ 37 < addr.toNat + ReqSize.s64.bytes) ∧
    (∃ addr : BitVec 37, addr.toNat % ReqSize.s128.bytes = 0 ∧ addr.toNat + ReqSize.s128.bytes = 2 ^ 37) ∧
    64 < ReqSize.s128.bytes := by
  simp only [ready_iff, Ctl.Quiet, Ctl.Answers]
  exact ⟨open_, by decide +kernel, by decide +kernel, ⟨33, by decide⟩, ⟨2 ^ 37 - 32, by decide⟩, ⟨2 ^ 37 - 128, by decide⟩, by decide⟩

theorem wit_ConfigRequests :
    (∃ s : State, s.ctl.Ready .a 3 4 ∧ s.ctl.Answers .a 3 ∧ s.ctl.owner ≠ 0 + 1) ∧
    (∀ e ∈ [(D.PA_EYE_MIN, 1), (D.CH_HELD, 63), (D.QOS_CFG, 0)], ∃ (caddr : BitVec 24),
      (findReg caddr.toNat).map (fun x => (x.1.base, x.2)) = some (e.1.base, e.2) ∧ caddr.toNat % 4 = 0 ∧
      configGap caddr.toNat 4 = false ∧ inMsix caddr.toNat = false ∧ doorbellRing caddr.toNat = none ∧ e.1.reg ≠ .SEM_CLAIM ∧
      isPairLow e.1.reg = false ∧ isPairHigh e.1.reg = false ∧ isRing e.1.reg = false) ∧
    D.CH_HELD.kind = .status ∧ D.QOS_CFG.kind = .setup ∧
    ∃ (s : State) (caddr : BitVec 24) (data : BitVec 32) (r : Nat), s.ctl.Ready .a 3 4 ∧ s.ctl.Answers .a 3 ∧
      doorbellRing caddr.toNat = some r ∧ ringMaster r = 0 + 1 ∧ caddr.toNat % 4 = 0 ∧ s.ctl.ringState r = 1 ∧
      data.toNat % 131072 ≠ s.ctl.get F.RING_PROD_PROD r ∧
      ixSub (data.toNat % 131072) (s.ctl.get F.RING_PROD_PROD r) +
        ixSub (s.ctl.get F.RING_PROD_PROD r) (s.ctl.get F.RING_CONS_CONS r) = s.ctl.ringSize r := by
  simp only [ready_iff, Ctl.Quiet, Ctl.Answers]
  refine ⟨⟨up, by decide +kernel⟩, fun e he => ⟨BitVec.ofNat 24 (e.1.addr e.2), ?_⟩, rfl, rfl,
    ⟨up {} [(F.RING_STATUS_STATE, 3, 1), (F.RING_PROD_PROD, 3, 131070), (F.RING_CONS_CONS, 3, 131069), (F.RING_CFG_SIZE, 3, 9)],
      0x203000, BitVec.ofNat 32 (131069 + 512 - 131072), 3, by decide +kernel⟩⟩
  have h : e = (D.PA_EYE_MIN, 1) ∨ e = (D.CH_HELD, 63) ∨ e = (D.QOS_CFG, 0) := by simpa using he
  rcases h with rfl | rfl | rfl <;> decide +kernel

/-- The last word of the last unassigned range. -/
theorem wit_ConfigGap : ∃ (s : State) (caddr : BitVec 24), s.ctl.Ready .a 3 4 ∧ s.ctl.Answers .a 3 ∧ caddr.toNat % 4 = 0 ∧
    configGap caddr.toNat 4 = true := by
  simp only [ready_iff, Ctl.Quiet, Ctl.Answers]
  exact ⟨up, 0x7FFFFC, by decide +kernel⟩

/-! ## Witnesses: channels -/

/-- A granule of the mover, a port's read of one line, and the request behind it. -/
def jobW : Job :=
  { who := .engine 4 5 6 false, acc := .write, addr := 256 * 3, len := 64, data := count 64, be := 2 ^ 64 - 1, todo := [12] }
def jobR : Job := { who := .engine 4 5 6 true, acc := .read, addr := 256 * 3, len := 64, todo := [12] }
def jobP : Job := { who := .port .a 7, acc := .read, addr := 256 * 3, len := 64, label := 9, pos := 7 }
def reqP : Req := { pos := 7, g := 3, tag := 6, op := 0, session := 9, addr := 256 * 3, len := 64, st := .held, accAt := 77 }

/-- One level below the high-water mark, and at it. -/
theorem wit_YieldFloor : ∀ n ∈ [63, 64], ∃ m : Ctl, max 64 (m.get F.QOS_FB_HIGH_WATER) = 64 ∧
    m.shown F.CH_STATUS_QLEVEL 3 = n := by
  intro n hn
  have h : n = 63 ∨ n = 64 := by simpa using hn
  rcases h with rfl | rfl
  · exact ⟨(ch { queue := List.replicate 63 jobW } [(F.QOS_FB_HIGH_WATER, 0, 10)]).ctl, by decide +kernel⟩
  · exact ⟨(ch { queue := List.replicate 64 jobW } [(F.QOS_FB_HIGH_WATER, 0, 10)]).ctl, by decide +kernel⟩

/-- A job that enters, one that is withheld, one that finds the queue full, the expiry of each time limit. -/
theorem wit_QueueEntry :
    let alone := fun (s : State) (j : Job) => (s.ctl.pc 3).matesOf j = [] ∧ (∀ q ∈ (s.ctl.pc 3).queue, q.old = false ∨ q.todo = []) ∧
      s.ctl.bgNext 3 .rcw = none ∧ s.ctl.bgNext 3 .copy = none ∧ s.ctl.bgNext 3 .scrub = none
    (∃ (s : State) (j : Job), s.ctl.Settled ∧ (s.ctl.pc 3).ingress = [j] ∧ (s.ctl.pc 3).reset = none ∧
      s.ctl.refusal 3 j = none ∧ s.ctl.ingressBlocked j = false ∧ s.ctl.serialBlocked j = false ∧
      (∀ i, (s.ctl.pc i).curd = []) ∧ (j.isPort = true → j.acc = .read → s.ctl.get F.CMT_CFG_EN = 0) ∧
      alone s j ∧ ∃ b, s.ctl.judgeEntry (s.ctl.pc 3) j = .enter b) ∧
    (∃ (s : State) (j : Job), s.ctl.Settled ∧ (s.ctl.pc 3).ingress = [j] ∧ (s.ctl.pc 3).reset = none ∧
      s.ctl.refusal 3 j = none ∧ s.ctl.ingressBlocked j = false ∧ s.ctl.serialBlocked j = false ∧
      (∀ i, (s.ctl.pc i).curd = []) ∧ (j.isPort = true → j.acc = .read → s.ctl.get F.CMT_CFG_EN = 0) ∧
      alone s j ∧ s.ctl.judgeEntry (s.ctl.pc 3) j = .withhold ∧ j.withheld = none) ∧
    (∃ (s : State) (j : Job), s.ctl.Settled ∧ (s.ctl.pc 3).ingress = [j] ∧ (s.ctl.pc 3).reset = none ∧
      s.ctl.refusal 3 j = none ∧ s.ctl.ingressBlocked j = false ∧ s.ctl.serialBlocked j = false ∧
      (∀ i, (s.ctl.pc i).curd = []) ∧ (j.isPort = true → j.acc = .read → s.ctl.get F.CMT_CFG_EN = 0) ∧
      alone s j ∧ s.ctl.judgeEntry (s.ctl.pc 3) j = .full) ∧
    (∃ (s : State) (j : Job), s.ctl.Settled ∧ (s.ctl.pc 3).ingress = [j] ∧ j.withheld = some 400 ∧ j.expired = false) ∧
    ∃ (s : State) (j : Job) (r : Req), s.ctl.Settled ∧ (s.ctl.pc 3).ingress = [j] ∧
      (s.ctl.pc 3).reset ≠ none ∧ j.who = .port .a r.pos ∧ s.ctl.pa.reqs = [r] ∧ r.orphan = false ∧ r.rh = 0 ∧ r.wd = 0 ∧
      s.ctl.Answers .a r.g := by
  have none_ : ∀ (x : Pc) (i : Nat), x.curd = [] → (Sparse.getD [(3, x)] i {}).curd = [] := by
    intro x i h; rw [getD_one]; split <;> first | exact h | rfl
  refine ⟨⟨ch { ingress := [jobP], scrubbed := 1 } [] { pa := { reqs := [reqP] } }, jobP, ?_, by decide +kernel, by decide +kernel,
    by decide +kernel,
      by decide +kernel, by decide +kernel, fun i => none_ _ i rfl, by decide +kernel, by decide +kernel, ⟨_, rfl⟩⟩,
    ⟨ch { ingress := [jobW], queue := List.replicate 100 jobW, scrubbed := 1 }
        [(F.QOS_FB_HIGH_WATER, 0, 64), (F.QOS_CFG_MODE, 0, 1), (F.QOS_IRANK_A, 0, 12)], jobW, ?_, by decide +kernel,
          by decide +kernel,
      by decide +kernel, by decide +kernel, by decide +kernel, fun i => none_ _ i rfl, by decide +kernel, by decide +kernel,
      by decide +kernel, rfl⟩,
    ⟨ch { ingress := [{ jobW with expired := true }], queue := List.replicate 256 jobW, scrubbed := 1 }, { jobW with expired := true }, ?_,
      by decide +kernel, by decide +kernel, by decide +kernel,
      by decide +kernel, by decide +kernel, fun i => none_ _ i rfl, by decide +kernel, by decide +kernel, by decide +kernel⟩,
    ⟨ch { ingress := [{ jobW with withheld := some 400 }] }, { jobW with withheld := some 400 }, ?_, by decide +kernel, rfl, rfl⟩,
    ⟨ch { ingress := [jobP], reset := some { since := 30, codePath := false } } [(F.PA_LANE_DISABLED, 3,
      0)] { pa := { reqs := [reqP] } },
      jobP, reqP, ?_, by decide +kernel, by decide +kernel, rfl, rfl, rfl, rfl, rfl, ?_⟩⟩
  all_goals simp only [Ctl.Settled, Ctl.Answers]
  all_goals decide +kernel

/-- A queue with nothing eligible, one with an entry, and one whose first entry a block reset left there. -/
theorem wit_SlotSelection :
    (∃ (m : Ctl) (pc t : Nat) (ok : Move → Bool), (¬ ∃ q ∈ (m.pc pc).queue, q.old = true ∧ q.todo ≠ []) ∧ m.select pc t ok = none) ∧
    (∃ (m : Ctl) (pc t : Nat) (ok : Move → Bool), (¬ ∃ q ∈ (m.pc pc).queue, q.old = true ∧ q.todo ≠ []) ∧
      (m.select pc t ok).isSome = true) ∧
    ∃ (m : Ctl) (pc t : Nat) (ok : Move → Bool), (∃ q ∈ (m.pc pc).queue, q.old = true ∧ q.todo ≠ []) ∧
      (m.select pc t ok).isSome = true :=
  ⟨⟨(ch {}).ctl, 3, 12345, fun _ => true, by decide +kernel⟩, ⟨(ch { queue := [jobW] }).ctl, 3, 12345, fun _ => true, by decide +kernel⟩,
    ⟨(ch { queue := [{ jobW with old := true }, jobR] }).ctl, 3, 12345, fun _ => true, by decide +kernel⟩⟩

/-- The bank and row of the line of `jobW`, open there, open elsewhere, or closed. -/
def slot (j : Job) (b : Bank) : State := ch { queue := [j], banks := [(0, b)] } [(F.CFG_ADDRMAP_MAP, 0, 0)]

theorem wit_CommandSlot :
    let free := fun (s : State) => s.ctl.Quiet ∧ s.ctl.pcRuns 3 = true ∧ (s.ctl.pc 3).nrefs = [] ∧ (s.ctl.pc 3).nrefDue = [] ∧
      (s.ctl.pc 3).bg = [] ∧ (s.ctl.pc 3).targets = [] ∧ s.ctl.pace = 0 ∧ (s.ctl.pc 3).slotAt = none
    let choice := fun (s : State) =>
      (s.ctl.withPc s.ctl.now 3 { s.ctl.pc 3 with slotAt := some s.ctl.now }).select 3 s.ctl.now fun _ => true
    (∃ s : State, free s ∧ choice s = none ∧ s.ctl.get F.CMT_CFG_EN = 0) ∧
    (∀ c ∈ [(jobW, ({} : Bank), Move.act 0 0), (jobW, { row := some 5 }, .pre 0), (jobW, { row := some 0 }, .load 0 0),
        (jobR, { row := some 0 }, .read 12 false), (jobW, { row := some 0, pce := { st := .clean } }, .write 12)],
      ∃ s : State, free s ∧ (s.ctl.pc 3).queue = [c.1] ∧ c.1.isPort = false ∧ choice s = some (c.1, c.2.2)) ∧
    (∃ r i g q, jobR.who = .engine r i g q) ∧
    ∃ s : State, (∃ r i g q, jobW.who = .engine r i g q ∧ g ≠ recordGran) ∧ s.ctl.rings = [] ∧ jobW.acc = .write ∧
      jobW.todo = [12] ∧ jobW.addr = 64 * 12 ∧ jobW.len = 64 ∧ jobW.data.length = 64 ∧ jobW.be = 2 ^ 64 - 1 ∧ jobW.bads = [] ∧
      (s.ctl.pc 3).spares = [] ∧ s.ctl.mirAt 1 (64 * 12) = none ∧ s.ctl.mirHeld jobW.who = false := by
  simp only [Ctl.Quiet]
  refine ⟨⟨ch {}, by decide +kernel⟩, fun c h => ⟨slot c.1 c.2.1, ?_⟩, ⟨4, 5, 6, true, rfl⟩,
    ⟨slot jobW { row := some 0, pce := { st := .clean } }, ⟨4, 5, 6, false, rfl, by decide⟩, by decide +kernel⟩⟩
  revert h; revert c
  decide +kernel

/-- A line in flight for a port. -/
def flight : Flight :=
  { who := .port .a 7, line := 12, bank := 5, row := 9, col := 4, raw := [{ data := 77 }, { data := 2 ^ 255 }], time := 99 }

/-- An exchange-write whose old contents return. -/
def exch : Exch := { row := 9, col := 4, en := [true, true], new := [1, 2], old := [{ data := 3 }, { data := 2 ^ 77 }] }

theorem wit_Returns :
    (∃ (s : State) (f : Flight) (j : Job) (r : Req), s.ctl.Settled ∧ (s.ctl.pc 3).flights = [f] ∧ (s.ctl.pc 3).queue = [j] ∧
      (s.ctl.pc 3).rebuilds = [] ∧ (s.ctl.pc 3).spares = [] ∧ j.who = f.who ∧ j.who = .port .a r.pos ∧ s.ctl.pa.reqs = [r] ∧
      r.orphan = false ∧ r.op = 0 ∧ r.len = 64 ∧ r.rh = 0 ∧ r.wd = 0 ∧ s.ctl.Answers .a r.g ∧ j.acc = .read ∧ j.todo = [] ∧
      j.out = [f.line] ∧ j.got = [] ∧ j.bads = [] ∧ j.corr = false ∧ j.addr = 64 * f.line ∧ j.len = 64 ∧ f.merge = false ∧
      f.raw.map Got.ofRaw = [.clean 77, .clean (2 ^ 255)]) ∧
    (∃ (s : State) (e : Exch), s.ctl.Settled ∧ (s.ctl.pc 3).banks = [(5, { (s.ctl.pc 3).bank 5 with rets := [e] })] ∧
      ((s.ctl.pc 3).bank 5).row = some e.row ∧ ((s.ctl.pc 3).bank 5).pce.st = .dirty ∧ ((s.ctl.pc 3).bank 5).pce.err = [] ∧
      e.en = [true, true] ∧
      e.old.map Got.ofRaw = [.clean 3, .clean (2 ^ 77)]) ∧
    (∃ (s : State) (k : Bank), s.ctl.Settled ∧ (s.ctl.pc 3).banks = [(5, k)] ∧ k.pce.loading = true ∧ k.pce.err = [] ∧
      k.row = some 9) ∧
    (∃ (s : State) (c : Curd), s.ctl.Settled ∧ (s.ctl.pc 3).curd = [c] ∧ c.st = .issued ∧
      c.raw.map Got.ofRaw = [3, 4].map Got.clean) ∧
    (∃ (s : State) (c : Curd), s.ctl.Settled ∧ (s.ctl.pc 3).curd = [c] ∧ c.st = .issued ∧
      ∃ r ∈ c.raw, ∀ d, Got.ofRaw r ≠ .clean d) ∧
    ∃ (s : State) (r : Rebuild) (j : Job), s.ctl.Settled ∧ (s.ctl.pc 3).rebuilds = [r] ∧ (s.ctl.pc 3).queue = [j] ∧
      r.who = j.who ∧ (∃ a b g q, j.who = .engine a b g q) ∧ j.acc = .read ∧ j.todo ≠ [] ∧ (s.ctl.pc 3).unrep = [] ∧
      (s.ctl.pc 3).catcher = [] ∧ (s.ctl.pc 3).spares = [] ∧ (s.ctl.pc 3).suspect = [] ∧ (s.ctl.pc 3).banks = [] ∧
      r.merge = false ∧ (s.ctl.die (r.loc.bank / 16)).st = .quiet ∧ r.loc.word % 2 = 0 ∧ j.addr = 64 * r.line ∧ j.len = 64 ∧
      j.out = [r.line] ∧ (s.ctl.pageRebuild s.arr 3 r.loc.bank r.loc.row r.loc.word).isSome = true := by
  simp only [Ctl.Settled, Ctl.Answers]
  refine ⟨⟨ch { flights := [flight], queue := [{ jobP with out := [12] }] } [(F.PA_LANE_DISABLED, 3,
    0)] { pa := { reqs := [reqP] } },
      flight, { jobP with out := [12] }, reqP, by decide +kernel⟩,
    ⟨ch { banks := [(5, { row := some 9, pce := { st := .dirty }, rets := [exch] })] }, exch, by decide +kernel, rfl, rfl, rfl,
      rfl, rfl, by decide +kernel⟩,
    ⟨ch { banks := [(5, { row := some 9, pce := { loading := true } })] }, _, by decide +kernel, rfl, rfl, rfl, rfl⟩,
    ⟨ch { curd := [{ line := 5, st := .issued, raw := [{ data := 3 }, { data := 4 }] }] }, _, by decide +kernel, rfl, rfl,
      by decide +kernel⟩,
    ⟨ch { curd := [{ line := 5, st := .issued, raw := [{ data := 3 }, { data := 4, err := 1 }] }] }, _, by decide +kernel, rfl,
      rfl,
      { data := 4, err := 1 }, by decide +kernel, fun d => ?_⟩,
    ⟨ch { rebuilds := [{ loc := ⟨5, 9, 6⟩, who := .engine 1 2 3 true, line := 12 }],
          queue := [{ who := .engine 1 2 3 true, acc := .read, addr := 768, len := 64, out := [12], todo := [13] }] }, _, _,
      by decide +kernel, rfl, rfl, rfl, ⟨1, 2, 3, true, rfl⟩, rfl, by decide, rfl, rfl, rfl, rfl, rfl, rfl, rfl, rfl, rfl, rfl,
        rfl,
      by decide +kernel⟩⟩
  rw [show Got.ofRaw { data := 4, err := 1 } = .corrected 4 from by decide +kernel]
  exact fun h => nomatch h

/-- A count below the threshold, at it with 63 rows waiting; and what makes a refresh due at once: twice the threshold, a hot die, 64
rows waiting. -/
theorem wit_Disturbance :
    let row := fun (s : State) => s.ctl.Quiet ∧ s.ctl.pcLive 3 = true ∧ 512 * (s.ctl.get F.CH_CFG_ACT_THRESH 3 + 1) = 512 ∧
      (∀ w ∈ (s.ctl.pc 3).nrefs, w.row ≠ ⟨5, 9⟩) ∧ ⟨5, 9⟩ ∉ (s.ctl.pc 3).nrefDue ∧ ((s.ctl.pc 3).bank 5).nref ≠ some 9
    (∀ n ∈ [511, 512, 1023], ∃ s : State, row s ∧ Sparse.getD s.ctl.acts (rowIx 3 5 9) 0 = n ∧ s.ctl.hotDie 0 = false ∧
      (s.ctl.pc 3).nrefs.length = 63) ∧
    (∀ e ∈ [(1024, 0, 63), (512, 1, 63), (512, 0, 64)], ∃ s : State, row s ∧ Sparse.getD s.ctl.acts (rowIx 3 5 9) 0 = e.1 ∧
      s.ctl.hotDie 0 = decide (e.2.1 = 1) ∧ (s.ctl.pc 3).nrefs.length = e.2.2 ∧ s.ctl.Calm 0x103) ∧
    (∃ s : State, s.ctl.Quiet ∧ s.ctl.pcLive 3 = true ∧ ((s.ctl.pc 3).bank 5).nref = some 9) ∧
    (∃ s : State, s.ctl.Quiet ∧ s.ctl.pcLive 3 = true ∧ s.ctl.get F.CH_STATUS_IRDROP 3 = 2 ∧ s.ctl.Calm 0x102) ∧
    (∃ (s : State) (lane : Fin 136) (sp : Nat), s.ctl.Quiet ∧ s.ctl.pcLive 3 = true ∧
      (s.ctl.pc 3).tsv.spareLane (groupOf lane) = some sp) ∧
    ∃ (s : State) (lane : Fin 136), s.ctl.Quiet ∧ s.ctl.pcLive 3 = true ∧ (s.ctl.pc 3).tsv.spareLane (groupOf lane) = none ∧
      (s.ctl.pc 3).tsv.badHalf = [] ∧ (s.ctl.pc 3).reset = none ∧ s.ctl.Calm 0x100 := by
  simp only [Ctl.Quiet, calm_iff]
  let hit := fun (n waiting hot : Nat) => ch { nrefs := List.replicate waiting ⟨⟨5, 8⟩, none⟩ }
    [(F.CH_CFG_ACT_THRESH, 3, 0), (F.ORB_HOTMAP_HOT, 0, hot)] { acts := [(rowIx 3 5 9, n)], orb := { run := true } }
  refine ⟨fun n h => ⟨hit n 63 0, ?_⟩, fun e h => ⟨hit e.1 e.2.2 e.2.1, ?_⟩,
    ⟨ch { banks := [(5, { nref := some 9 })] }, by decide +kernel⟩,
    ⟨ch {} [(F.CH_STATUS_IRDROP, 3, 2)], by decide +kernel⟩, ⟨ch {}, 135, (({} : Tsv).spareLane (groupOf 135)).getD 0,
      by decide +kernel⟩,
    ⟨ch { tsv := { lanes := [(0, 0), (3, 1)] } }, 5, by decide +kernel⟩⟩
  · revert h; revert n; decide +kernel
  · revert h; revert e; decide +kernel

theorem wit_BlockResets :
    (∃ (s : State) (x : Master), s.ctl.Quiet ∧ s.ctl.power = .run ∧ s.ctl.owner = x.code ∧ s.ctl.dark 3 = false ∧
      (s.ctl.pc 3).reset = none ∧ (s.ctl.pc 3).curd = [] ∧ (s.ctl.pc 3).targets = [] ∧ s.ctl.slices = []) ∧
    (∃ (s : State) (x : Master), s.ctl.Quiet ∧ s.ctl.power = .run ∧ s.ctl.owner ≠ x.code ∧ x ≠ .svc) ∧
    ∃ (s : State) (r : BlockReset), s.ctl.Quiet ∧ s.ctl.power = .run ∧ (s.ctl.pc 3).reset = some r ∧ (s.ctl.pc 3).flights = [] ∧
      (∀ e ∈ (s.ctl.pc 3).banks, e.2.pce.loading = false ∧ e.2.rets = [] ∧ e.2.pce.st ≠ .dirty) ∧
      (s.ctl.pc 3).suspect.length = 32 ∧ (s.ctl.pc 3).banks ≠ [] := by
  simp only [Ctl.Quiet]
  exact ⟨⟨ch {} [(F.SEM_OWNER_OWNER, 0, 3)], .svc, by decide +kernel⟩, ⟨ch {} [(F.SEM_OWNER_OWNER, 0, 1)], .b, by decide +kernel⟩,
    ⟨ch { banks := [(7, { row := some 4 }), (9, { nref := some 5 })], reset := some { since := 5, codePath := true, mode := 1 }
          suspect := List.replicate 32 ⟨5, 8⟩ }, { since := 5, codePath := true, mode := 1 }, by decide +kernel⟩⟩

/-- The granules of an operation, as they stand in the queue of PC 3. -/
def bgJobs (g : Bg) : List Job := g.grans.map fun n => { who := .bg g.kind g.bank g.row n, acc := .write, addr := 0, len := 64 }

/-- An operation that has had its column slots, with its granules queued. -/
def ready (g : Bg) (x : Pc) : Pc := { x with bg := [g], queue := bgJobs g }

theorem wit_RepairScrub :
    let runs := fun (s : State) (g : Bg) (js : List Job) => s.ctl.Quiet ∧ s.ctl.pcRuns 3 = true ∧ g.kind.slots ≤ g.turns ∧
      (∀ j ∈ js, g.holds j = true) ∧ js.length = if g.kind = .rcw then 1 else 16
    (∃ (s : State) (g : Bg) (js : List Job) (c : Catch), runs s g js ∧ g.kind = .rcw ∧
      s.ctl.pc 3 = { catcher := [c], bg := [g], queue := js } ∧ c.loc = ⟨g.bank, g.row, g.word⟩ ∧ g.word = 31 ∧
      (∀ i, (s.ctl.pc i).curd = []) ∧ s.ctl.capture s.arr 3 c.loc = { data := 5, err := 1#272 }) ∧
    (∃ (s : State) (g : Bg) (js : List Job), runs s g js ∧ g.kind = .copy ∧
      s.ctl.pc 3 = { copies := [⟨g.bank, g.row, none⟩], bg := [g], queue := js } ∧ g.bank = 255 ∧ g.row = 8191 ∧
      s.ctl.freeRow 3 g.bank = some 0 ∧ s.ctl.rmap = [] ∧ s.arr.marks = [] ∧ s.arr.errs = []) ∧
    (∃ (s : State) (g : Bg) (js : List Job), runs s g js ∧ g.kind = .scrub ∧ s.ctl.pc 3 = { bg := [g], queue := js } ∧
      s.ctl.rings = [] ∧ ∀ w < 36, s.arr.raw 3 g.bank g.row w = { data := 0 }) ∧
    (∀ n < 2, ∃ s : State, s.ctl.Quiet ∧ s.ctl.scrubRuns = true ∧
      s.ctl.bnd + n = s.ctl.scrubBnd + 2117632 * s.ctl.get F.REP_SCRUB_INTERVAL_I) ∧
    (∀ n < 2, ∃ s : State, s.ctl.Quiet ∧ s.ctl.scrubRuns = true ∧ s.ctl.get F.REP_SCRUB_POS_STEP + 1 = 2117631 + n ∧
      s.ctl.scrubBnd + (s.ctl.get F.REP_SCRUB_POS_STEP + 1) * s.ctl.get F.REP_SCRUB_INTERVAL_I ≤ s.ctl.bnd) := by
  simp only [Ctl.Quiet]
  let rcw : Bg := { kind := .rcw, bank := 5, row := 9, word := 31, turns := 3 }
  let copy : Bg := { kind := .copy, bank := 255, row := 8191, turns := 33 }
  let scrub : Bg := { kind := .scrub, bank := 0, row := 0, walk := true, turns := 16 }
  refine ⟨⟨ch (ready rcw { catcher := [{ loc := ⟨5, 9, 31⟩, count := 3, pending := true }] }) [] {}
      (Arr.applyAll {} (wordEdits 3 5 9 31 5 ++ [.word (wordIx 3 5 9 31) 1])), rcw, bgJobs rcw,
      { loc := ⟨5, 9, 31⟩, count := 3, pending := true }, by decide +kernel, rfl, by decide +kernel, rfl, rfl, fun i => ?_,
      by decide +kernel⟩,
    ⟨ch (ready copy { copies := [⟨255, 8191, none⟩] }), copy, bgJobs copy, by decide +kernel⟩,
    ⟨ch (ready scrub {}), scrub, bgJobs scrub, by decide +kernel⟩,
    fun n h => ⟨ch {} [(F.REP_SCRUB_INTERVAL_I, 0, 4)] { bnd := 8 + 2117632 * 4 - n, scrubBnd := 8 }, ?_⟩,
    fun n h => ⟨ch {} [(F.REP_SCRUB_INTERVAL_I, 0, 4), (F.REP_SCRUB_POS_STEP, 0, 2117630 + n)] { bnd := 8 + 2117632 * 4, scrubBnd := 8 }, ?_⟩⟩
  · show Pc.curd (Sparse.getD [_] i _) = []
    rw [getD_one]; split <;> rfl
  · revert h; revert n; decide +kernel
  · revert h; revert n; decide +kernel

/-! ## Witnesses: rings and the mover -/

/-- Ring 70 with descriptor 7 in progress, on engine 0. -/
def turn (d : Prog) (l : List (Fld × Nat × Nat) := []) (c : Ctl := {}) (arr : Arr := {}) : State :=
  ch {} ([(F.RING_STATUS_STATE, 70, 2), (F.PL_PHY_STATUS_STATE, 1, 2), (F.SEM_OWNER_OWNER, 0, 2),
    (F.ORB_STATUS_NUMBER_VALID, 0, 1)] ++ l) { c with rings := [(70, { prog := [d] })], engines := [(0, (70, 7))] } arr

/-- A started descriptor. -/
def run (op arg16 len src dst : Nat) (arg32 : Nat := 0) (argx : Nat := 0) : Prog :=
  { idx := 7, bytes := desc op arg16 len src dst arg32 argx, phase := .running }

/-- Ring 70 with one slot published, the last of 16, at 16 KiB, inside window 2 of port B; service ring 140 at its wrap. -/
def rings : List (Fld × Nat × Nat) :=
  [(F.RING_STATUS_STATE, 70, 2), (F.RING_STATUS_STATE, 140, 2), (F.RING_PROD_PROD, 70, 16), (F.RING_NEXT_NEXT, 70, 15),
   (F.RING_CONS_CONS, 70, 15), (F.RING_CFG_SIZE, 70, 4), (F.RING_BASE_BASE, 70, 4), (F.RING_PROD_PROD, 140, 0),
   (F.RING_NEXT_NEXT, 140, 131071), (F.RING_CONS_CONS, 140, 131071), (F.RING_CFG_SIZE, 140, 5), (F.SVC_STATUS_BME, 0, 1),
   (F.PA_WCTRL_EN, 18, 1), (F.PA_WCTRL_RD, 18, 1), (F.PA_WCTRL_WR, 18, 1), (F.PA_WLIMIT_LIMIT, 18, 100), (F.CFG_ADDRMAP_MAP, 0,
     0)]

theorem noFetch_of (m : Ctl) (r : Nat) (x : Pc) (h : m.pcs = [(3, x)]) (h' : x.agents = []) : m.NoFetch r := by
  intro p i src
  simp only [Ctl.pc, h, getD_one]
  split
  · simp [h']
  · exact List.not_mem_nil

/-- Every data opcode with its last byte or element still to move; a GATHER with an index to fetch. -/
theorem wit_DataTurns :
    (∀ e ∈ [(1, { run 1 0 257 8192 65536 with next := 256 }), (3, { run 3 0 257 8192 65536 with next := 256 }),
        (7, { run 7 1 257 8192 65536 with next := 256 }), (2, { run 2 0 264 0 65536 with next := 263 })],
      ∃ s : State, s.ctl.Works 70 7 e.1 e.2 ∧ e.2.stop = none ∧ e.2.next + 1 = e.2.length ∧
        s.ctl.plUp (e.2.arg16 % 2) = decide (e.1 = 7)) ∧
    (∃ (s : State) (d : Prog), s.ctl.Works 70 7 4 d ∧ d.stop = none ∧ d.next + 1 = d.length ∧
      Sparse.find d.idxs d.next = some 77 ∧
      d.src + 77 * d.elem + d.elem ≤ 2 ^ 37 ∧ s.ctl.windowBad 70 false (d.src + 77 * d.elem) d.elem = false) ∧
    (∃ (s : State) (d : Prog), s.ctl.Works 70 7 5 d ∧ d.stop = none ∧ d.next + 1 = d.length ∧
      Sparse.find d.idxs d.next = some 77 ∧
      d.dst + 77 * d.elem + d.elem ≤ 2 ^ 37 ∧ s.ctl.windowBad 70 true (d.dst + 77 * d.elem) d.elem = false) ∧
    (∃ (s : State) (d : Prog), s.ctl.Works 70 7 4 d ∧ d.stop = none ∧ d.next < d.length ∧ Sparse.find d.idxs d.next = none ∧
      d.grans = []) ∧
    ∃ (s : State) (d : Prog), s.ctl.Works 70 7 0x14 d ∧ d.stop = none ∧ d.next < d.length ∧
      (∀ k < (min (d.length - d.next) (64 - (d.dst + d.next) % 64)) / 4, ((findReg (d.src + d.next + 4 * k)).all fun e =>
        decide (e.1.reg ≠ .SEM_CLAIM) && !isPairLow e.1.reg && !isPairHigh e.1.reg && e.1.parts.all fun p => !isTelId p.fld.id) = true) ∧
      (d.src + d.next) % 4 = 0 ∧ configGap (d.src + d.next) (min (d.length - d.next) (64 - (d.dst + d.next) % 64)) = false ∧
      inMsix (d.src + d.next) = false ∧ inMsix (d.src + d.next + 64) = false ∧ doorbellRing (d.src + d.next) = none ∧
      doorbellRing (d.src + d.next + 64) = none ∧ d.highs = [] := by
  simp only [works_iff, Ctl.Quiet]
  refine ⟨fun e h => ⟨turn e.2, ?_⟩,
    ⟨turn { run 4 2 5 4096 65536 0 8192 with next := 4, idxs := [(4, 77)] } rings,
      { run 4 2 5 4096 65536 0 8192 with next := 4, idxs := [(4, 77)] },
      by decide +kernel⟩,
    ⟨turn { run 5 2 5 4096 65536 0 8192 with next := 4, idxs := [(4, 77)] } rings,
      { run 5 2 5 4096 65536 0 8192 with next := 4, idxs := [(4, 77)] },
      by decide +kernel⟩,
    ⟨turn (run 4 0 20 4096 65536 0 8224), run 4 0 20 4096 65536 0 8224, by decide +kernel⟩,
    ⟨turn (run 0x14 0 64 (D.PA_EYE_CFG.addr 0) 65536), run 0x14 0 64 (D.PA_EYE_CFG.addr 0) 65536, by decide +kernel⟩⟩
  revert h; revert e
  decide +kernel

theorem wit_ControlOpcodes :
    (∃ (s : State) (d : Prog), s.ctl.Works 70 7 6 d ∧ d.stop = none ∧ d.next < d.length ∧ s.ctl.plUp (d.arg16 % 2) = true ∧
      s.ctl.freeTag (d.arg16 % 2) = some 0) ∧
    (∃ (s : State) (d : Prog), s.ctl.Works 70 7 6 d ∧ d.stop = none ∧ d.next < d.length ∧ s.ctl.plUp (d.arg16 % 2) = false ∧
      d.grans = [] ∧ s.ctl.ringState 70 = rsRunning ∧ s.ctl.NoFetch 70) ∧
    (∃ (s : State) (d : Prog), s.ctl.Works 70 7 0 d) ∧
    (∃ (s : State) (d : Prog), s.ctl.Works 70 7 8 d ∧ d.others = []) ∧
    (∃ (s : State) (d : Prog), s.ctl.Works 70 7 9 d ∧ d.armed = false ∧ d.arg32 = 1) ∧
    (∃ (s : State) (d : Prog), s.ctl.Works 70 7 9 d ∧ d.armed = true ∧ d.count = 0 ∧ s.ctl.numValid = true) ∧
    (∃ (s : State) (d : Prog), s.ctl.Works 70 7 0x18 d ∧ d.armed = false ∧ s.ctl.owner = ringMaster 70 ∧ s.ctl.commit = none ∧
      d.argx6 = 0) ∧
    (∃ (s : State) (d : Prog), s.ctl.Works 70 7 0x18 d ∧ d.armed = false ∧ s.ctl.owner ≠ ringMaster 70 ∧
      s.ctl.ringState 70 = rsRunning ∧ s.ctl.NoFetch 70) ∧
    ∀ k ∈ [1, 2], ∃ (s : State) (d : Prog), s.ctl.Works 70 7 0x19 d ∧ d.armed = false ∧ s.ctl.entry = none ∧ d.arg16 % 4 = k := by
  simp only [works_iff, Ctl.Quiet]
  refine ⟨⟨turn (run 6 1 64 4096 65536), run 6 1 64 4096 65536, by decide +kernel⟩,
    ⟨turn (run 6 0 64 4096 65536), run 6 0 64 4096 65536, by decide +kernel, by decide +kernel, by decide +kernel,
      by decide +kernel, by decide +kernel, by decide +kernel, noFetch_of _ _ {} rfl rfl⟩, ⟨turn (run 0 0 0 0 0), run 0 0 0 0 0,
      by decide +kernel⟩,
    ⟨turn (run 8 0 0 0 0), run 8 0 0 0 0, by decide +kernel⟩, ⟨turn (run 9 0 0 0 0 1), run 9 0 0 0 0 1, by decide +kernel⟩,
    ⟨turn { run 9 0 0 0 0 1 with armed := true }, { run 9 0 0 0 0 1 with armed := true }, by decide +kernel⟩,
    ⟨turn (run 0x18 0 0 0 0), run 0x18 0 0 0 0, by decide +kernel⟩,
    ⟨turn (run 0x18 0 0 0 0) [(F.SEM_OWNER_OWNER, 0, 1)], run 0x18 0 0 0 0, by decide +kernel, by decide +kernel,
      by decide +kernel, by decide +kernel, noFetch_of _ _ {} rfl rfl⟩,
    fun k h => ⟨turn (run 0x19 k 0 0 0), run 0x19 k 0 0 0, ?_⟩⟩
  revert h; revert k
  decide +kernel

/-- A COPY descriptor, as it lies in the slot of ring 70. -/
def copyBytes : List Byte := descCrc 1 0 64 8192 65536
/-- A waiting descriptor of a ring. -/
def wait (r : Nat) (d : Prog) : State := ch {} rings { rings := [(r, { prog := [d] })] }

/-- Ring 70 with its slot fetched. -/
def fetched (bytes : List Byte) : State := ch {} rings { rings := [(70, { pre := [{ idx := 15, bytes := some bytes }] })] }

/-- A slot of a port's ring and of a service ring, at its wrap; a fetched slot that passes the checks and one that fails them;
descriptors that pass the start checks, with and without an engine, and that fail them with each kind of status. -/
theorem wit_DescriptorStart :
    (∃ s : State, s.ctl.Quiet ∧ s.ctl.NoFetch 140 ∧ s.ctl.ring 140 = {} ∧ s.ctl.fetchable 140 = (s.ctl.get F.RING_NEXT_NEXT 140, 0 + 1) ∧
      s.ctl.Calm 0x0E0) ∧
    (∃ (s : State) (bytes : List Byte), s.ctl.Quiet ∧ s.ctl.NoFetch 140 ∧ s.ctl.ring 140 = {} ∧ s.ctl.fetchable 140 = (131071, 1) ∧
      bytes.length = 64 ∧ fetchCheck bytes = 0) ∧
    (∃ s : State, s.ctl.Quiet ∧ s.ctl.NoFetch 70 ∧ s.ctl.ring 70 = {} ∧ s.ctl.fetchable 70 = (15, 1) ∧
      s.ctl.windowBad 70 false (s.ctl.slotOf 70 15) 64 = false) ∧
    (∀ ok : Bool, ∃ (s : State) (bytes : List Byte), s.ctl.Quiet ∧ s.ctl.NoFetch 70 ∧
      s.ctl.ring 70 = { pre := [{ idx := 15, bytes := some bytes }] } ∧ s.ctl.ringTakes 70 = true ∧
      s.ctl.get F.RING_PROD_PROD 70 = (15 + 1) % 131072 ∧ if ok then fetchCheck bytes = 0 else 0x10 ≤ fetchCheck bytes) ∧
    ∀ e ∈ [({ run 1 0 64 8192 65536 with phase := .waiting }, 0), ({ run 0 0 0 0 0 with phase := .waiting }, 0),
        ({ run 1 0 0 8192 65536 with phase := .waiting }, 1),
        ({ run 1 0 64 8192 (2 ^ 37 - 63) with phase := .waiting }, 0x10)], ∃ s : State, s.ctl.Quiet ∧ s.ctl.NoFetch 70 ∧
          s.ctl.ring 70 = { prog := [e.1] } ∧
      e.1.phase = .waiting ∧ s.ctl.startable 70 = some e.1 ∧ e.1.op ≠ 8 ∧ e.1.op ≠ 0x14 ∧
      (opEngine e.1.op = true → s.ctl.engines = [] ∧ s.ctl.deadEngines = [] ∧ 70 ∈ s.ctl.engineLine.take 32) ∧
      ¬ (e.1.op = 6 ∨ e.1.op = 7) ∧ (if e.2 < 2 then s.ctl.startCheck 70 e.1 = e.2 else 0x10 ≤ s.ctl.startCheck 70 e.1) := by
  simp only [calm_iff, Ctl.Quiet]
  refine ⟨⟨ch {} rings, by decide +kernel, noFetch_of _ _ {} rfl rfl, by decide +kernel⟩,
    ⟨ch {} rings, descCrc 1 0 64 8192 65536, by decide +kernel, noFetch_of _ _ {} rfl rfl, by decide +kernel⟩,
    ⟨ch {} rings, by decide +kernel, noFetch_of _ _ {} rfl rfl, by decide +kernel⟩,
    fun ok => ⟨fetched (if ok then copyBytes else desc 1 0 64 8192 65536), if ok then copyBytes else desc 1 0 64 8192 65536,
      by revert ok; decide +kernel, noFetch_of _ _ {} rfl rfl, by revert ok; decide +kernel⟩,
    fun e h => ⟨wait 70 e.1, ?_, noFetch_of _ _ {} rfl rfl, ?_⟩⟩
  all_goals revert h; revert e; decide +kernel

/-- The last descriptor of a service ring at its wrap, and of a port's ring, whose record goes to the array. -/
theorem wit_DescriptorEnd : ∀ r ∈ [70, 140], ∃ (s : State) (d : Prog), s.ctl.Quiet ∧ s.ctl.moverRuns = true ∧
    s.ctl.ring r = { prog := [d] } ∧ d.idx = (if r = 70 then 15 else 131071) ∧ d.phase = .ended ∧ s.ctl.ringState r = rsRunning ∧
    s.ctl.get F.RING_CONS_CONS r = d.idx ∧ bit d.flags 0 = false ∧ s.ctl.get F.SVC_STATUS_BME = 1 ∧
    (r < 128 → s.ctl.recordRefusal r (s.ctl.slotOf r d.idx + 32) = none ∧
      s.ctl.underWay (.engine r d.idx recordGran false) = false) := by
  simp only [Ctl.Quiet]
  refine fun r h => ⟨wait r { run 1 0 64 8192 65536 with idx := if r = 70 then 15 else 131071, phase := .ended },
    { run 1 0 64 8192 65536 with idx := if r = 70 then 15 else 131071, phase := .ended }, ?_⟩
  revert h; revert r
  decide +kernel

/-- Size 0 and the two sides of the placement check; a halted and an aborted ring, drained and not. -/
theorem wit_RingRegisters :
    (∀ hi ∈ [31, 32], ∃ s : State, s.ctl.Quiet ∧ s.ctl.power = .run ∧ ringOwner 70 = .b ∧ s.ctl.ringQuiet 70 = true ∧
      s.ctl.get F.RING_BASE_HI_BASE_HI 70 = hi) ∧
    (∀ e ∈ [(3, 5), (4, 4)], ∃ s : State, s.ctl.Quiet ∧ s.ctl.power = .run ∧ ringOwner 70 = .b ∧ s.ctl.ringState 70 = e.1 ∧
      (s.ctl.ringState 70 = rsHalted ∨ s.ctl.ringState 70 = rsAborted) ∧ s.ctl.ring 70 = {} ∧
      s.ctl.get F.RING_CONS_CONS 70 = 4 ∧ s.ctl.get F.RING_PROD_PROD 70 = e.2) ∧
    ∃ (s : State) (x : Master), s.ctl.Quiet ∧ s.ctl.power = .run ∧ ringOwner 70 ≠ x ∧ x ≠ .svc := by
  simp only [Ctl.Quiet]
  refine ⟨fun hi h => ⟨st .active [(F.RING_BASE_HI_BASE_HI, 70, hi)], ?_⟩,
    fun e h => ⟨st .active [(F.RING_STATUS_STATE, 70, e.1), (F.RING_CONS_CONS, 70, 4), (F.RING_PROD_PROD, 70, e.2)], ?_⟩,
    ⟨st .active [], .a, by decide +kernel⟩⟩
  · revert h; revert hi; decide +kernel
  · revert h; revert e; decide +kernel

/-- A repair record of a word, in the ARGX of an APPLY (R443). -/
def record : Nat := encodeRecord (.word 4 ⟨21, 9, 6⟩)

/-- A slice that ring 70 asked for. -/
def asked70 (k : Nat) : Slice := { kind := k, pc := 9, desc := some (70, 7) }

theorem wit_Maintenance :
    (∃ (s : State) (d : Prog), s.ctl.Works 70 7 0x10 d ∧ d.armed = false ∧ 0 < d.length ∧ d.dst % 256 + d.length = 256 ∧
      (s.ctl.pc (s.ctl.wordAt (256 * (d.dst / 256))).1).rows = []) ∧
    (∃ (s : State) (d : Prog), s.ctl.Works 70 7 0x10 d ∧ d.armed = true ∧ d.idxs = []) ∧
    (∀ k ∈ [1, 2, 3], ∃ (s : State) (d : Prog), s.ctl.NoFetch 70 ∧ s.ctl.Works 70 7 0x11 d ∧ d.arg16 % 4 = k ∧ d.armed = false ∧
      s.ctl.fieldOn = false ∧
      s.ctl.ringState 70 = rsRunning) ∧
    (∀ k ∈ [1, 2, 3], ∃ (s : State) (d : Prog), s.ctl.Works 70 7 0x11 d ∧ d.arg16 % 4 = k ∧ d.armed = false ∧
      s.ctl.fieldOn = true ∧
      s.ctl.slices = [] ∧ s.ctl.entry = none ∧
      ((s.ctl.testTarget (70, 7) d).any fun z => s.ctl.mayBegin z) = true) ∧
    (∀ k ∈ [1, 3], ∃ (s : State) (d : Prog), s.ctl.Works 70 7 0x11 d ∧ d.arg16 % 4 = k ∧ d.armed = true ∧
      s.ctl.slices = [asked70 k]) ∧
    (∃ (s : State) (d : Prog), s.ctl.Works 70 7 0x12 d ∧ d.armed = false ∧ d.arg16 % 4 = 0 ∧ bit d.flags 1 = false ∧
      decodeRecord (dfield d.bytes 48 7) = some (.word 4 ⟨21, 9, 6⟩) ∧ s.ctl.dark 4 = false ∧ s.ctl.pc 4 = {} ∧ s.ctl.Calm 0x106 ∧
      Got.ofRaw (s.arr.raw 4 21 9 6) = .clean 0 ∧ ∀ q, (s.ctl.pc q).curd = []) ∧
    (∃ (s : State) (d : Prog), s.ctl.Works 70 7 0x12 d ∧ d.armed = false ∧ d.arg16 % 4 = 1 ∧ s.ctl.fuseOp = none ∧
      s.ctl.softRecords = []) ∧
    (∃ (s : State) (d : Prog), s.ctl.Works 70 7 0x12 d ∧ d.armed = false ∧ d.arg16 % 4 = 1 ∧ s.ctl.fuseOp = none ∧
      s.ctl.softRecords = record :: [] ∧ s.ctl.regionState 2 ≠ 2 ∧ s.ctl.fuseLocked 2 = false ∧
      (s.ctl.freeRecord.any fun n => (s.ctl.fuseRefuse n).isNone) = true) ∧
    (∀ e ∈ [(0, 900, 0), (1, 0, 2), (2, 0, 1 * 256 + 4)], ∀ wl ∈ [0, 31], ∃ (s : State) (d : Prog), s.ctl.NoFetch 70 ∧ s.ctl.Works 70 7 0x13 d ∧
      d.armed = false ∧ d.arg16 % 4 = e.1 ∧ s.ctl.fuseOp = none ∧
      (if e.1 = 0 then fuseRegion (dfield d.bytes 48 2 % 1024) = 3 ∧ (s.ctl.fuseRefuse 900).isSome = decide (wl ≠ 0)
       else if e.1 = 1 then dfield d.bytes 48 1 = 2 ∧ s.ctl.regionState 2 ≠ 2 ∧
         ((List.range (regionSpan 2).2).all fun k => !s.ctl.wordBad ((regionSpan 2).1 + k)) = true ∧
         (s.ctl.fuseRefuse 994).isSome = decide (wl ≠ 0)
       else dfield d.bytes 48 1 = 4 ∧ dfield d.bytes 49 1 = 1 ∧ s.ctl.lockWord 9 = false) ∧ s.ctl.ringState 70 = rsRunning) ∧
    ∃ (s : State) (d : Prog) (f : FuseOp), s.ctl.NoFetch 70 ∧ s.ctl.Works 70 7 0x13 d ∧ s.ctl.fuseOp = some f ∧ f.repair = false ∧ f.desc = (70,
      d.idx) ∧
      s.ctl.fuseWait = [] ∧ s.ctl.ringState 70 = rsRunning := by
  simp only [works_iff, calm_iff, Ctl.Quiet]
  refine ⟨⟨turn (run 0x10 0 192 0 4160), run 0x10 0 192 0 4160, by decide +kernel⟩,
    ⟨turn { run 0x10 0 192 0 4160 with armed := true }, { run 0x10 0 192 0 4160 with armed := true }, by decide +kernel⟩,
    fun k h => ⟨turn (run 0x11 k 0 0 0) [(F.BIST_CFG_BUDGET, 0, 0)], run 0x11 k 0 0 0, noFetch_of _ _ {} rfl rfl, ?_⟩,
    fun k h => ⟨turn (run 0x11 (k + 4 * 9) 0 0 0 3) [(F.BIST_CFG_BUDGET, 0, 2)]
      { orb := { period := 250000 } }, run 0x11 (k + 4 * 9) 0 0 0 3, ?_⟩,
    fun k h => ⟨turn { run 0x11 (k + 4 * 9) 0 0 0 with armed := true } [] { slices := [asked70 k] },
      { run 0x11 (k + 4 * 9) 0 0 0 with armed := true }, ?_⟩,
    ⟨turn (run 0x12 0 0 0 0 0 record), run 0x12 0 0 0 0 0 record, by decide +kernel, by decide +kernel, by decide +kernel,
      by decide +kernel, by decide +kernel, by decide +kernel, by decide +kernel, by decide +kernel, by decide +kernel,
        fun i => by show Pc.curd (Sparse.getD [_] i _) = []; rw [getD_one]; split <;> rfl⟩,
    ⟨turn (run 0x12 1 0 0 0), run 0x12 1 0 0 0, by decide +kernel⟩,
    ⟨turn (run 0x12 1 0 0 0) [] { pcs := [(4, { spares := [(0, { loc := ⟨21, 9, 6⟩ })] })] }, run 0x12 1 0 0 0,
      by decide +kernel⟩,
    fun e h wl h' => ⟨turn (run 0x13 e.1 0 0 0 0 (e.2.1 + e.2.2)) [(F.FUSE_LOCK_WL, 0, wl)],
      run 0x13 e.1 0 0 0 0 (e.2.1 + e.2.2), noFetch_of _ _ {} rfl rfl, ?_⟩,
    ⟨turn (run 0x13 0 0 0 0) [] { fuseOp := some { word := 901, data := 5, desc := (70, 7) } }, run 0x13 0 0 0 0,
      { word := 901, data := 5, desc := (70, 7) }, noFetch_of _ _ {} rfl rfl, by decide +kernel⟩⟩
  · revert h; revert k; decide +kernel
  · revert h; revert k; decide +kernel
  · revert h; revert k; decide +kernel
  · revert h'; revert wl; revert h; revert e; decide +kernel

/-! ## Witnesses: ownership, configuration and registers -/

theorem wit_Semaphore :
    let runs := fun (s : State) => s.ctl.Quiet ∧ s.ctl.power = .run
    (∀ alt < 2, ∃ (s : State) (c : Claims), runs s ∧ s.ctl.owner = 0 ∧ s.ctl.inMode [.factory] = false ∧ c.portA = true ∧
      c.portB = true ∧ s.ctl.get F.SEM_OWNER_ALT = alt) ∧
    (∀ ok : Bool, ∃ (s : State) (c : Claims), runs s ∧ s.ctl.owner = 0 ∧ s.ctl.inMode [.factory] = false ∧ c.portA = false ∧
      c.portB = false ∧ c.svc = true ∧ s.ctl.svcEligible = ok) ∧
    (∀ own < 4, ∃ s : State, runs s ∧ s.ctl.inMode [.factory] = true ∧ s.ctl.owner = own) ∧
    (∃ s : State, runs s ∧ s.ctl.owner ≠ 0 ∧ s.ctl.inMode [.factory] = false) ∧
    (∀ lease < 2, ∃ (s : State) (x : Master) (value : BitVec 32), runs s ∧ s.ctl.owner = x.code ∧
      value.getLsbD 0 = true ∧ value.getLsbD 1 = false ∧ s.ctl.lease = lease ∧ s.ctl.leaseRuns = true ∧ x ≠ .svc) ∧
    (∃ (s : State) (x : Master), runs s ∧ s.ctl.owner ≠ x.code ∧ x ≠ .svc) ∧
    (∃ (s : State) (x : Master) (value : BitVec 32), runs s ∧ s.ctl.commit = none ∧
      s.ctl.commitWait = [] ∧ s.ctl.sesPend = [] ∧ s.ctl.owner = x.code ∧ value.getLsbD 1 = true ∧ s.ctl.staged ≠ []) ∧
    (∃ s : State, runs s ∧ s.ctl.commit = none ∧ s.ctl.commitWait = [] ∧ s.ctl.sesPend = [] ∧
      s.ctl.owner ≠ 0 ∧ s.ctl.lease = 0 ∧ s.ctl.leaseRuns = true ∧ s.ctl.Calm 0x001) ∧
    ∃ s : State, runs s ∧ s.ctl.portAbsent .a = true ∧ s.ctl.portAbsent .b = true ∧
      s.ctl.absent = s.ctl.leaseLen := by
  simp only [calm_iff, Ctl.Quiet]
  refine ⟨fun alt h => ⟨st .active [(F.SEM_OWNER_ALT, 0, alt)], ⟨true, true, true⟩, ?_⟩,
    fun ok => ⟨st .active [(F.SEM_SVC_ALLOW_ALLOW, 0, b2n ok), (F.PA_STATUS_LINK, 0, 4)] { longAbsent := ok }, ⟨false, false, true⟩, ?_⟩,
    fun own h => ⟨st .factory [(F.SEM_OWNER_OWNER, 0, own)], ?_⟩,
    ⟨st .active [(F.SEM_OWNER_OWNER, 0, 2)], by decide +kernel⟩,
    fun lease h => ⟨st .active [(F.SEM_OWNER_OWNER, 0, 2)] { lease := lease }, .b, 1, ?_⟩,
    ⟨st .active [(F.SEM_OWNER_OWNER, 0, 1)], .b, by decide +kernel⟩,
    ⟨st .active [(F.SEM_OWNER_OWNER, 0, 2)] { staged := [(7, 5)] }, .b, 2, by decide +kernel⟩,
    ⟨st .active [(F.SEM_OWNER_OWNER, 0, 2)], by decide +kernel⟩,
    ⟨st .active [] { absent := (st .active []).ctl.leaseLen }, by decide +kernel⟩⟩
  · revert h; revert alt; decide +kernel
  · revert ok; decide +kernel
  · revert h; revert own; decide +kernel
  · revert h; revert lease; decide +kernel

/-- The owner's states: nothing armed, a commit armed; ORBIT 0, now, and on both sides of now. -/
theorem wit_SetupCommits :
    (∃ (s : State) (x : Master) (caddr : BitVec 24), s.ctl.Quiet ∧ s.ctl.power = .run ∧ s.ctl.owner = x.code ∧
      (findReg caddr.toNat).map (fun x => (x.1.base, x.2)) = some (D.CH_CFG.base, 3) ∧ caddr.toNat % 4 = 0 ∧
      configGap caddr.toNat 4 = false ∧ doorbellRing caddr.toNat = none ∧ inMsix caddr.toNat = false ∧
        isRing D.CH_CFG.reg = false ∧
      isSession D.CH_CFG.reg = false ∧ D.CH_CFG.kind = .setup) ∧
    (∃ (s : State) (x : Master), s.ctl.Quiet ∧ s.ctl.power = .run ∧ s.ctl.owner ≠ x.code ∧ x ≠ .svc) ∧
    (∃ (s : State) (x : Master) (value : BitVec 32), s.ctl.Quiet ∧ s.ctl.power = .run ∧ s.ctl.owner = x.code ∧
      value.getLsbD 0 = true ∧ s.ctl.commit = none ∧ s.ctl.sesPend = []) ∧
    (∃ (s : State) (x : Master) (value : BitVec 32), s.ctl.Quiet ∧ s.ctl.power = .run ∧ s.ctl.owner = x.code ∧
      value.getLsbD 0 = true ∧ value.getLsbD 31 = true ∧ s.ctl.commit ≠ none) ∧
    (∀ e ∈ [(0, 7, 1), (5, 5, 1), (6, 5, 1), (6, 5, 0), (4, 5, 1)], ∃ (s : State) (x : Master) (value : BitVec 32), s.ctl.Quiet ∧
      s.ctl.power = .run ∧ s.ctl.owner = x.code ∧ value.getLsbD 31 = true ∧ s.ctl.commit = none ∧
      (let orbit := s.ctl.get F.CFG_COMMIT_ORBIT % 2 ^ 32 + value.toNat % 2 ^ 16 * 2 ^ 32
      orbit = e.1 ∧ s.ctl.numValid = decide (e.2.2 = 1) ∧
        judgeOrbit orbit s.ctl.orbit = (if e.1 = 5 then .current else if e.1 = 6 then .future else .past)) ∧ s.ctl.Calm 0x002) ∧
    ∃ s : State, s.ctl.Quiet ∧ s.ctl.power = .run ∧ s.ctl.get F.CFG_STATUS_DIGEST_BUSY ≠ 0 := by
  simp only [calm_iff, Ctl.Quiet]
  refine ⟨⟨st .active [(F.SEM_OWNER_OWNER, 0, 1)], .a, BitVec.ofNat 24 (D.CH_CFG.addr 3), by decide +kernel⟩,
    ⟨st .active [(F.SEM_OWNER_OWNER, 0, 1)], .b, by decide +kernel⟩,
    ⟨st .active [(F.SEM_OWNER_OWNER, 0, 1)] { staged := [(7, 5)] }, .a, 1, by decide +kernel⟩,
    ⟨st .active [(F.SEM_OWNER_OWNER, 0, 1)] { commit := some { orbit := 4, judged := true, by_ := 1 } }, .a, 0x80000001,
      by decide +kernel⟩,
    fun e h => ⟨st .active [(F.SEM_OWNER_OWNER, 0, 1), (F.ORB_NOW, 0, e.2.1), (F.ORB_STATUS_NUMBER_VALID, 0, e.2.2),
      (F.CFG_COMMIT_ORBIT, 0, e.1)], .a, 0x80000000, ?_⟩, ⟨st .active [(F.CFG_STATUS_DIGEST_BUSY, 0, 1)], by decide +kernel⟩⟩
  revert h; revert e; decide +kernel

theorem wit_ControlRegisters :
    (∃ (s : State) (x : Master) (value : BitVec 32), s.ctl.Quiet ∧ s.ctl.power = .run ∧ s.ctl.owner = x.code ∧
      value.getLsbD 0 = true ∧
      s.ctl.pcs = [] ∧ s.ctl.fuseOp = none ∧ s.ctl.inMode [.factory] = false) ∧
    (∃ (s : State) (x : Master) (value : BitVec 32), s.ctl.Quiet ∧ s.ctl.power = .run ∧ s.ctl.owner = x.code ∧
      s.ctl.inMode [.factory] = true ∧ sources.contains (value.toNat % 512) = true ∧ s.ctl.Calm (value.toNat % 512)) ∧
    (∀ v ∈ [1, 2], ∃ (s : State) (x : Master) (value : BitVec 32), s.ctl.Quiet ∧ s.ctl.power = .run ∧ s.ctl.owner = x.code ∧
      s.ctl.get F.PL_PHY_STATUS_STATE 1 = 0 ∧ value.toNat % 8 = v) ∧
    (∃ (s : State) (x : Master) (value : BitVec 32), s.ctl.Quiet ∧ s.ctl.power = .run ∧ s.ctl.owner = x.code ∧
      s.ctl.get F.PL_PHY_STATUS_STATE 1 ≠ 0 ∧ value.toNat % 8 = 7) ∧
    (∃ (s : State) (x : Master), s.ctl.Quiet ∧ s.ctl.power = .run ∧ s.ctl.owner ≠ x.code ∧ x ≠ .svc) ∧
    (∃ s : State, s.ctl.Quiet ∧ s.ctl.power = .run ∧ s.ctl.ovfRead = true) ∧
    ∀ e ∈ [(D.ORB_NOW, 0), (D.PA_EYE_MIN, 1)], ∃ (caddr : BitVec 24),
      (findReg caddr.toNat).map (fun x => (x.1.base, x.2)) = some (e.1.base, e.2) ∧ caddr.toNat % 4 = 0 ∧
      configGap caddr.toNat 4 = false ∧ doorbellRing caddr.toNat = none ∧ inMsix caddr.toNat = false ∧
      (if e.2 = 0 then isPairLow e.1.reg = true ∧ e.1.reg ≠ .SEM_CLAIM else isRing e.1.reg = false ∧ e.1.kind = .status) := by
  simp only [calm_iff, Ctl.Quiet]
  refine ⟨⟨st .active [(F.SEM_OWNER_OWNER, 0, 1)], .a, 1, by decide +kernel⟩,
    ⟨st .factory [(F.SEM_OWNER_OWNER, 0, 1)], .a, 0x060, by decide +kernel⟩,
    fun v h => ⟨st .active [(F.SEM_OWNER_OWNER, 0, 1)], .a, BitVec.ofNat 32 v, ?_⟩,
    ⟨st .active [(F.SEM_OWNER_OWNER, 0, 1), (F.PL_PHY_STATUS_STATE, 1, 2)], .a, 7, by decide +kernel⟩,
    ⟨st .active [(F.SEM_OWNER_OWNER, 0, 1)], .b, by decide +kernel⟩, ⟨st .active [] { ovfRead := true }, by decide +kernel⟩,
    fun e h => ⟨BitVec.ofNat 24 (e.1.addr e.2), ?_⟩⟩
  · revert h; revert v; decide +kernel
  · have h' : e = (D.ORB_NOW, 0) ∨ e = (D.PA_EYE_MIN, 1) := by simpa using h
    rcases h' with rfl | rfl <;> decide +kernel

/-! ## Witnesses: peer links -/

/-- Link 1 UP with a state of its own. -/
def peer (x : LinkSt := {}) (l : List (Fld × Nat × Nat) := []) (c : Ctl := {}) (mode : Mode := .active) : State :=
  st mode ((F.PL_PHY_STATUS_STATE, 1, 2) :: l) { c with now := 12345, links := [(1, x)] }

theorem wit_LinkTraining :
    (∀ mode ∈ [Mode.training, .ready], ∃ s : State, s.ctl.Quiet ∧ s.ctl.mayTrainLink 1 = true ∧ s.ctl.Calm (plSource 1 0x0B2) ∧
      s.ctl.get F.PL_TRAIN_COUNT 1 ≠ 0 ∧ s.ctl.inMode [.training] = decide (mode = .training) ∧
      (s.ctl.widthOf 1 0xFF).isSome = true ∧ s.ctl.widthOf 1 0x7F = none) := by
  simp only [calm_iff, Ctl.Quiet]
  exact fun mode h => ⟨st mode [(F.PL_PHY_CTRL_ENABLE, 1, 1), (F.PL_PHY_CTRL_X4_EN, 1, 0), (F.PL_TRAIN_COUNT, 1, 1)], by
    revert h; revert mode; decide +kernel⟩

theorem wit_LinkBursts :
    (∃ s : State, s.ctl.Quiet ∧ s.ctl.linkLive 1 = true ∧ (s.ctl.lnk 1).again = [] ∧ (s.ctl.lnk 1).tx = []) ∧
    (∃ (s : State) (b : Nat), s.ctl.Quiet ∧ s.ctl.linkLive 1 = true ∧ (s.ctl.lnk 1).again = [] ∧ (s.ctl.lnk 1).tx = [.ctl b] ∧
      sequenced b = true ∧ (s.ctl.lnk 1).cbuf.length = 255 ∧ (s.ctl.lnk 1).cseq = 4095) ∧
    (∀ n ∈ [14, 15], ∃ (s : State) (lane : Fin 8), s.ctl.Quiet ∧ s.ctl.linkLive 1 = true ∧ lane.val ∈ s.ctl.lanesOf 1 ∧
      (s.ctl.lnk 1).rxDead = true ∧ Sparse.getD (s.ctl.lnk 1).aborts lane.val 0 = n ∧ s.ctl.Bare 1 ∧
        s.ctl.Calm (plSource 1 0x0B0) ∧
      s.ctl.Calm (plSource 1 0x0B1) ∧ s.ctl.get F.FLT_LOG_HEAD_TOTAL < 255) ∧
    (∃ s : State, s.ctl.Quiet ∧ s.ctl.linkLive 1 = true ∧ s.ctl.get F.PL_PHY_CFG_SLEEP_AFTER 1 ≠ 0 ∧
      s.ctl.get F.PL_FAB_STATUS_PEER_BORROWS 1 = 0) ∧
    (∃ s : State, s.ctl.Quiet ∧ s.ctl.linkLive 1 = true ∧ s.ctl.get F.PL_PHY_CFG_SLEEP_AFTER 1 = 0) ∧
    (∃ s : State, s.ctl.Quiet ∧ s.ctl.inMode [.ready, .active] = true ∧ s.ctl.entry = none) ∧
    ∃ s : State, s.ctl.Quiet ∧ s.ctl.plUp 1 = true ∧ s.ctl.inMode [.drowse] = true := by
  simp only [calm_iff, bare_iff, Ctl.Quiet]
  refine ⟨⟨peer, by decide +kernel⟩,
    ⟨peer { tx := [.ctl 0x72], cseq := 4095, cbuf := List.replicate 255 ⟨5, 0x12⟩ }, 0x72, by decide +kernel⟩,
    fun n h => ⟨peer { aborts := [(2, n)], rxDead := true }, 2, ?_⟩, ⟨peer {} [(F.PL_PHY_CFG_SLEEP_AFTER, 1, 1)],
      by decide +kernel⟩,
    ⟨peer {} [(F.PL_PHY_CFG_SLEEP_AFTER, 1, 0)], by decide +kernel⟩, ⟨peer, by decide +kernel⟩, ⟨peer {} [] {} .drowse,
      by decide +kernel⟩⟩
  revert h; revert n; decide +kernel

/-- The bytes of a pair whose header carries one control unit. -/
def pairOf (unit : List Byte) : List Byte :=
  let head := leBytes 14 1
  head ++ leBytes 4 (crc32c head) ++ unit ++ List.replicate 800 (0 : Byte)

/-- Some levels of a pair decode to these bytes with this outcome (R296, R297). -/
def takes (bytes : List Byte) (outcome : PairOutcome) : Prop := ∃ (levels : List Level) (left : List (BitVec 10)),
  levels.length = 3600 ∧ left.length = 680 ∧ decodePair levels (left.map (·.toNat)) = (bytes, outcome)

theorem takes_of {bytes : List Byte} {outcome : PairOutcome} (levels : List Level) (left : List (BitVec 10))
    (h : levels.length = 3600 ∧ left.length = 680 ∧ decodePair levels (left.map (·.toNat)) = (bytes, outcome)) :
    takes bytes outcome := ⟨levels, left, h⟩

/-- Nothing wrong. -/
theorem takes_clean : takes (pairOf (List.replicate 32 5)) .clean :=
  takes_of (pairLevels (pairOf (List.replicate 32 5))) (List.replicate 680 0) (by decide +kernel)

/-- One wrong level of a pair is corrected. -/
theorem takes_corrected : takes (pairOf (unitOf 0x72)) .corrected :=
  takes_of ((pairLevels (pairOf (unitOf 0x72))).set 0 .l3) (List.replicate 680 0) (by decide +kernel)

/-- Eleven wrong symbols in one of its two codewords are not, and leave what the decoder gives up. -/
theorem takes_failed : takes (List.replicate 850 0) .failed :=
  takes_of ((List.range 3600).map fun n => if n % 10 = 0 && n < 110 then .l1 else .l0) (List.replicate 680 0) (by decide +kernel)

/-- A pair whose header fails, one whose unit is the one expected or another, and one whose unit is damaged; the third replay from one
oldest CSEQ, and the fourth. -/
theorem wit_Pairs :
    (∀ ce ∈ [7, 8], ∃ (s : State) (lane : Fin 8) (body : Nat), s.ctl.Quiet ∧ s.ctl.linkLive 1 = true ∧ lane.val ∈ s.ctl.lanesOf 1 ∧
      s.ctl.rxBurst 1 = true ∧ (s.ctl.lnk 1).rxDead = false ∧ body < 2 ^ 224 ∧ sequenced body = true ∧ body % 16 ≠ 3 ∧
      (s.ctl.lnk 1).ce = ce ∧ (bits body 4 12 = ce ↔ ce = 7) ∧ takes (pairOf (unitOf body)) .corrected) ∧
    (∃ bytes : List Byte, bytes.length = 850 ∧ crc32c (bytes.take 14) ≠ leNat ((bytes.drop 14).take 4) ∧ takes bytes .failed) ∧
    (∃ unit : List Byte, unit.length = 32 ∧ crc32c (unit.take 28) ≠ leNat (unit.drop 28) ∧ takes (pairOf unit) .clean) ∧
    (∀ n ∈ [2, 3], ∃ (s : State) (o : CFrame) (r : List CFrame), s.ctl.Quiet ∧ s.ctl.linkLive 1 = true ∧
      (s.ctl.lnk 1).cbuf = o :: r ∧
      (s.ctl.lnk 1).nakIn = true ∧ (s.ctl.lnk 1).fromCount = n ∧ (s.ctl.lnk 1).fromSeq = o.cseq ∧ s.ctl.Bare 1 ∧
      s.ctl.Calm (plSource 1 0x0B0)) := by
  simp only [calm_iff, bare_iff, Ctl.Quiet]
  refine ⟨fun ce h => ⟨peer { rxAt := some 12000, ce := ce }, 6, 0x72, ?_, ?_, ?_, ?_, ?_, ?_, ?_, ?_, ?_, ?_, takes_corrected⟩,
    ⟨List.replicate 850 0, List.length_replicate, by decide +kernel, takes_failed⟩,
    ⟨List.replicate 32 5, rfl, by decide +kernel, takes_clean⟩,
    fun n h => ⟨peer { rxAt := some 12000, cbuf := [⟨5, 0x222⟩, ⟨6, 0x32⟩], cseq := 7, fromSeq := 5, fromCount := n, nakIn := true },
      ⟨5, 0x222⟩, [⟨6, 0x32⟩], ?_⟩⟩
  all_goals (first | (revert h; revert ce; decide +kernel) | (revert h; revert n; decide +kernel))

/-- Link 1 with region 3, of 51 granules from 0 up, in a state, and ingress window 1 over the first four blocks. -/
def mirror (role state : Nat) (x : LinkSt := {}) (y : Mir := {}) (l : List (Fld × Nat × Nat) := []) (c : Ctl := {}) : State :=
  peer x ([(F.MIR_STATUS_STATE, 3, state), (F.MIR_CTRL_ROLE, 3, role), (F.MIR_CTRL_LINK, 3, 1), (F.MIR_SIZE_LAST, 3, 50)] ++ l)
    { c with mirs := [(3, y)] }

/-- The request that ends at the upper end of the window, one beyond it, and a mirror write at the last line of the region. -/
theorem wit_PeerRequests :
    (∀ size ∈ [ReqSize.s32, .s64, .s128, .s256], ∃ (s : State) (addr : BitVec 37), s.ctl.Quiet ∧ s.ctl.linkLive 1 = true ∧
      s.ctl.inMode [.drowse] = false ∧ s.ctl.entry = none ∧ (s.ctl.lnk 1).rx = [] ∧ addr.toNat % size.bytes = 0 ∧
      s.ctl.ingressOk 1 false addr.toNat = true ∧ addr.toNat + size.bytes = 4 * 65536 ∧
      s.ctl.ingressOk 1 false (addr.toNat + size.bytes - 1) = true ∧ s.ctl.ingressOk 1 false (addr.toNat + size.bytes) = false) ∧
    (∃ addr : BitVec 37, addr.toNat % ReqSize.s64.bytes ≠ 0) ∧
    (∀ a ∈ [0x3FFE0, 0x40000], ∃ (s : State) (addr : BitVec 37) (data : List Byte), s.ctl.Quiet ∧ s.ctl.linkLive 1 = true ∧
      s.ctl.inMode [.drowse] = false ∧ s.ctl.entry = none ∧ (s.ctl.lnk 1).rx = [] ∧ addr.toNat = a ∧ payloadOk data none = true ∧
      a % 32 = 0 ∧ badRange a data.length = false ∧ a % 64 + data.length ≤ 64 ∧ data.length = 32 ∧
      s.ctl.ingressOk 1 true a = decide (a < 0x40000) ∧
      s.ctl.ingressOk 1 true (a + data.length - 1) = decide (a < 0x40000) ∧ s.ctl.Calm (plSource 1 0x0B3)) ∧
    (∃ (s : State) (addr : BitVec 37) (data : List Byte), s.ctl.Quiet ∧ s.ctl.linkLive 1 = true ∧ s.ctl.inMode [.drowse] = false ∧
      s.ctl.entry = none ∧ (s.ctl.lnk 1).rx = [] ∧ payloadOk data none = true ∧ addr.toNat % 32 = 0 ∧
      badRange addr.toNat data.length = false ∧ addr.toNat % 64 + data.length ≤ 64 ∧ s.ctl.mirIs 3 2 = true ∧
      s.ctl.get F.MIR_CTRL_LINK 3 = 1 ∧ s.ctl.get F.MIR_LBASE_BASE 3 * 65536 ≤ addr.toNat ∧
      addr.toNat + data.length = s.ctl.get F.MIR_LBASE_BASE 3 * 65536 + s.ctl.mirSize 3 * 65536) ∧
    ∃ (s : State) (addr : BitVec 37) (data : List Byte), s.ctl.Quiet ∧ s.ctl.linkLive 1 = true ∧ s.ctl.inMode [.drowse] = false ∧
      s.ctl.entry = none ∧ (s.ctl.lnk 1).rx = [] ∧ payloadOk data none = true ∧ addr.toNat % 32 = 0 ∧
      badRange addr.toNat data.length = false ∧ s.ctl.mirIs 4 2 = false ∧ s.ctl.frozen addr.toNat = true := by
  simp only [calm_iff, Ctl.Quiet]
  refine ⟨fun size h => ⟨peer {} [(F.PL_RW_CTRL_EN, 5, 1), (F.PL_RW_CTRL_RD, 5, 1), (F.PL_RW_LIMIT_LIMIT, 5, 3)],
      BitVec.ofNat 37 (4 * 65536 - size.bytes), ?_⟩, ⟨32, by decide⟩,
    fun a h => ⟨peer {} [(F.PL_RW_CTRL_EN, 5, 1), (F.PL_RW_CTRL_WR, 5, 1), (F.PL_RW_LIMIT_LIMIT, 5, 3)], BitVec.ofNat 37 a,
      count 32, ?_⟩,
    ⟨mirror 2 1, 51 * 65536 - 64, count 64, by decide +kernel⟩, ⟨mirror 2 3, 4096, count 32, by decide +kernel⟩⟩
  · revert h; revert size; decide +kernel
  · revert h; revert a; decide +kernel

/-- Every PC FULL. -/
def full : List (Fld × Nat × Nat) := (List.range 64).map fun p => (F.CH_STATUS_MODE, p, 0)

theorem shelf_of (m : Ctl) (a : Arr) (r : Nat) (h : m.pcs = []) (h' : Memory.wf a = true ∧ m.rmap = [] ∧ m.darkCount = 0 ∧
    ∀ w < (m.mirSize r + 255) / 256, m.readWord a (m.cellarAt (bitmapAt r + 32 * w)).1 (m.cellarAt (bitmapAt r + 32 * w)).2.1 = .clean 0) :
    m.Shelf a r :=
  ⟨h'.1, fun q => by simp only [Ctl.pc, h]; rfl, h'.2.1, h'.2.2.1, fun w hw => ⟨0, h'.2.2.2 w hw⟩⟩

/-- A line of a mirror region and a read of a port in flight under TAG 9. -/
def mirOp (dead : Bool) : LinkOp := { tag := 9, kind := .mirror 3 none, addr := 0x340, loc := 0x30340, len := 64, dead := dead }
def rdOp (kind : OpKind) : LinkOp := { tag := 9, kind := kind, addr := 0x340, len := 64 }
def remote : Req := { pos := 6, g := 5, tag := 77, op := 0, session := 12, st := .remote, accAt := 3 }
def remoteDesc : Prog := { run 6 0 64 0 4096 with next := 64, grans := [⟨2, 0, 64, 4096, 0⟩] }

/-- The cellar that holds the bitmap of a region may be written, and it may not yet. -/
def shelved (s : State) (ok : Bool) : Prop := s.ctl.cellarOk = ok ∧ (s.ctl.cellarOk = true → s.ctl.Shelf s.arr 3)

theorem wit_PeerAnswers :
    (∀ dead ok : Bool, ∃ s : State, s.ctl.Settled ∧ s.ctl.plUp 1 = true ∧ s.ctl.linkLive 1 = true ∧ (s.ctl.lnk 1).rx = [] ∧
      (s.ctl.lnk 1).ops = [mirOp dead] ∧ s.ctl.mirIs 3 1 = true ∧ s.ctl.mirState 3 = 1 ∧ shelved s ok) ∧
    (∃ s : State, s.ctl.Settled ∧ s.ctl.plUp 1 = true ∧ s.ctl.linkLive 1 = true ∧ (s.ctl.lnk 1).rx = [] ∧
      (s.ctl.lnk 1).ops = [rdOp (.rdPort .a 6)] ∧ s.ctl.pa.reqs = [remote] ∧ remote.orphan = false ∧ remote.rh = 0 ∧
      remote.wd = 0 ∧ s.ctl.Answers .a 5) ∧
    (∃ data : List Byte, payloadOk data none = true ∧ data.length = (rdOp (.rdPort .a 6)).len) ∧
    ∃ s : State, s.ctl.Settled ∧ s.ctl.plUp 1 = true ∧ s.ctl.linkLive 1 = true ∧ (s.ctl.lnk 1).rx = [] ∧
      (s.ctl.lnk 1).ops = [rdOp (.rdDesc 70 7 2)] ∧ (s.ctl.ring 70).prog = [remoteDesc] ∧ remoteDesc.grans = [⟨2, 0, 64, 4096,
        0⟩] ∧ remoteDesc.stop = none := by
  simp only [Ctl.Settled, Ctl.Answers]
  refine ⟨fun dead ok => ⟨mirror 1 1 { ops := [mirOp dead] } {} full { cellarOk := ok }, by revert ok; revert dead; decide +kernel,
      by revert ok; revert dead; decide +kernel, by revert ok; revert dead; decide +kernel, rfl, rfl,
      by revert ok; revert dead; decide +kernel, by revert ok; revert dead; decide +kernel, rfl, fun _ => shelf_of _ _ _ rfl
      (by revert ok; revert dead; decide +kernel)⟩,
    ⟨peer { ops := [rdOp (.rdPort .a 6)] } [(F.PA_LANE_DISABLED, 5, 0)] { pa := { reqs := [remote] } }, by decide +kernel⟩,
    ⟨count 64, by decide +kernel⟩, ⟨peer { ops := [rdOp (.rdDesc 70 7 2)] } [] { rings := [(70, { prog := [remoteDesc] })] },
      by decide +kernel⟩⟩

/-- Roles, sizes and states of a region, with and without a valid copy. -/
theorem wit_MirrorJoin :
    (∀ v < 2, ∃ s : State, s.ctl.Quiet ∧ s.ctl.linkLive 1 = true ∧ (s.ctl.lnk 1).rx = [] ∧ s.ctl.get F.MIR_CTRL_LINK 3 = 1 ∧
      s.ctl.mirIs 3 2 = true ∧ s.ctl.get F.MIR_SIZE_LAST 3 = 50 ∧ s.ctl.get F.MIR_STATUS_VALID_COPY 3 = v ∧ s.ctl.Calm 0x0B9) ∧
    (∀ b ∈ [3, 4], ∃ s : State, s.ctl.Quiet ∧ s.ctl.linkLive 1 = true ∧ (s.ctl.lnk 1).rx = [] ∧ s.ctl.get F.MIR_CTRL_LINK 3 = 1 ∧
      s.ctl.mirIs 3 1 = true ∧ s.ctl.mirState 3 = b ∧ s.ctl.Calm 0x0B9 ∧ shelved s true) ∧
    (∃ s : State, s.ctl.Quiet ∧ s.ctl.linkLive 1 = true ∧ (s.ctl.lnk 1).rx = [] ∧ s.ctl.get F.MIR_CTRL_LINK 3 = 1 ∧
      s.ctl.mirIs 3 2 = true ∧ s.ctl.mirState 3 = 2) ∧
    ∃ s : State, s.ctl.Quiet ∧ s.ctl.linkLive 1 = true ∧ (s.ctl.lnk 1).rx = [] ∧ s.ctl.mirState 3 = 0 := by
  simp only [calm_iff, Ctl.Quiet]
  refine ⟨fun v h => ⟨mirror 2 3 {} {} [(F.MIR_STATUS_VALID_COPY, 3, v)], ?_⟩,
    fun b h => ⟨mirror 1 b {} {} full { cellarOk := true }, ?_, ?_, rfl, ?_, ?_, ?_, ?_, rfl, fun k => shelf_of _ _ _ rfl (by
      clear k; revert h; revert b; decide +kernel)⟩,
    ⟨mirror 2 2, by decide +kernel⟩, ⟨peer, by decide +kernel⟩⟩
  · revert h; revert v; decide +kernel
  all_goals revert h; revert b; decide +kernel

theorem wit_MirrorResync :
    (∃ s : State, s.ctl.Quiet ∧ s.ctl.mirIs 3 1 = true ∧ s.ctl.get F.MIR_CTRL_LAG 3 ≠ 0 ∧ s.ctl.lagging 3 = true ∧
      s.ctl.Calm 0x0BA) ∧
    (∃ s : State, s.ctl.Quiet ∧ s.ctl.linkLive 1 = true ∧ s.ctl.mirIs 3 1 = true ∧ s.ctl.mirState 3 = 2 ∧
      (s.ctl.mir 3).walk = none ∧
      (s.ctl.mir 3).dirty = [] ∧ ∀ o ∈ (s.ctl.lnk 1).ops, o.kind ≠ .resync 3) ∧
    (∃ s : State, s.ctl.Quiet ∧ s.ctl.linkLive 1 = true ∧ s.ctl.mirIs 3 1 = true ∧ s.ctl.mirState 3 = 2 ∧
      (s.ctl.mir 3).walk = none ∧
      (s.ctl.mir 3).dirty = (50, 51) :: [] ∧ s.ctl.freeTag 1 = none ∧ s.ctl.filling (50 * 65536) = false ∧
      s.ctl.dark (s.ctl.place (50 * 65536)).pc = false ∧ (s.ctl.pc (s.ctl.place (50 * 65536)).pc).reset = none ∧ shelved s true) ∧
    ∃ s : State, s.ctl.Quiet ∧ s.ctl.linkLive 1 = true ∧ s.ctl.mirIs 3 1 = true ∧ s.ctl.mirState 3 = 2 ∧
      (s.ctl.mir 3).walk = some (50, 1023) ∧ s.ctl.freeTag 1 = some 0 ∧
      (let addr := 50 * 65536 + 64 * 1023
      let w := s.ctl.wordAt addr
      s.ctl.dark (s.ctl.place addr).pc = false ∧ Got.ofRaw (s.ctl.capture s.arr w.1 w.2) = .clean 0 ∧
        Got.ofRaw (s.ctl.capture s.arr (s.ctl.wordAt (addr + 32)).1 (s.ctl.wordAt (addr + 32)).2) = .clean 0) ∧
      ∀ q, (s.ctl.pc q).reset = none ∧ (s.ctl.pc q).spares = [] := by
  simp only [calm_iff, Ctl.Quiet]
  refine ⟨⟨mirror 1 2 { ops := [{ mirOp false with sent := 3 }] } {} [(F.MIR_CTRL_LAG, 3, 4)] { bnd := 9 }, by decide +kernel⟩,
    ⟨mirror 1 2 { ops := [mirOp false] }, by decide +kernel⟩,
    ⟨mirror 1 2 { ops := (List.range 256).map fun t => { mirOp false with tag := t } } { dirty := [(50, 51)] }
      (full ++ [(F.PWR_FILL_DIES, 0, 0)]) { cellarOk := true }, by decide +kernel, by decide +kernel, by decide +kernel, by decide +kernel, rfl, rfl,
      by decide +kernel, by decide +kernel, by decide +kernel, rfl, rfl, fun _ => shelf_of _ _ _ rfl (by decide +kernel)⟩,
    ⟨mirror 1 2 {} { walk := some (50, 1023) } full, by decide +kernel,
      by decide +kernel,
      by decide +kernel, by decide +kernel, by decide +kernel, by decide +kernel, by decide +kernel, fun _ => ⟨rfl, rfl⟩⟩⟩

/-- Each origin and source of a beat; the ages 255 and 256; a region that waits to join; numbers and digests that agree and differ. -/
theorem wit_Beacons :
    let live := fun (s : State) => s.ctl.Quiet ∧ s.ctl.linkLive 1 = true ∧ (s.ctl.lnk 1).rx = []
    let idle := fun (s : State) => ∀ q < 16, s.ctl.get F.MIR_CTRL_LINK q = 1 → s.ctl.mirState q = 0
    (∃ (s : State) (origin : BitVec 64), live s ∧ origin.toNat = s.ctl.serial) ∧
    (∀ e ∈ [(osLocked, 0), (osFree, 3)], ∃ (s : State) (origin : BitVec 64), live s ∧ origin.toNat ≠ s.ctl.serial ∧
      s.ctl.orbState = e.1 ∧ s.ctl.orb.source = e.2) ∧
    (∃ (s : State) (origin : BitVec 64), live s ∧ origin.toNat ≠ s.ctl.serial ∧ s.ctl.orb.run = true ∧ s.ctl.sourceOk 2 = true ∧
      s.ctl.orbState = osAcquire ∧ s.ctl.orb.slew = 0 ∧ s.ctl.orb.cut = false ∧ Sparse.getD s.ctl.orb.runs 2 [] = []) ∧
    (∃ (s : State) (origin : BitVec 64), live s ∧ origin.toNat ≠ s.ctl.serial ∧ s.ctl.orb.run = true ∧ s.ctl.orbState = osBorrowed ∧
      s.ctl.orb.source = 2 ∧ s.ctl.orb.slew = 0 ∧ s.ctl.orb.cut = false ∧ s.ctl.orb.synced = true ∧ s.ctl.orb.seen = false ∧
      (s.ctl.offOf (s.ctl.beatTime 1 0)).natAbs ≤ 8) ∧
    (∀ n ∈ [5, 6], ∃ s : State, live s ∧ s.ctl.numValid = true ∧ (s.ctl.lnk 1).sentOrbit = some n ∧ s.ctl.orb.source ≠ 2 ∧ idle s ∧
      s.ctl.Calm 0x063) ∧
    (∃ s : State, live s ∧ (s.ctl.lnk 1).idSeen = false ∧
      s.ctl.numValid = false ∧ (∀ q < 16, s.ctl.get F.MIR_CTRL_LINK q = 1 → s.ctl.mirState q = 0 ∨ q = 3) ∧
      s.ctl.get F.MIR_CTRL_LINK 3 = 1 ∧ s.ctl.mirIs 3 1 = true ∧ s.ctl.mirState 3 = 3 ∧ (s.ctl.mir 3).retry = true) ∧
    (∀ n ∈ [255, 256], ∃ s : State, live s ∧ (s.ctl.lnk 1).idAge = n ∧
      s.ctl.Bare 1 ∧ s.ctl.Calm (plSource 1 0x0B0)) ∧
    (∀ b ∈ [1, 2], ∃ s : State, live s ∧ 256 ≤ (s.ctl.lnk 1).idAge ∧
      s.ctl.get F.MIR_CTRL_LINK 3 = 1 ∧ s.ctl.mirState 3 = b ∧ (s.ctl.mir 3).walk = none ∧ (s.ctl.lnk 1).ops = [] ∧
      (∀ q < 16, s.ctl.get F.MIR_CTRL_LINK q = 1 → s.ctl.mirState q = 0 ∨ q = 3) ∧ s.ctl.Calm (plSource 1 0x0B0) ∧
      s.ctl.Calm 0x0B8 ∧ s.ctl.get F.FLT_LOG_HEAD_TOTAL < 255) ∧
    ∃ (s : State) (group : BitVec 16) (d : Nat) (boundary : BitVec 48), live s ∧
      group.toNat ≠ 0 ∧ group.toNat = s.ctl.get F.CFG_GROUP_GROUP ∧ (s.ctl.lnk 1).sentDig = some (d, boundary.toNat) ∧
        s.ctl.Calm 0x003 := by
  simp only [calm_iff, bare_iff, Ctl.Quiet]
  refine ⟨⟨peer, 0, by decide +kernel⟩, fun e h => ⟨peer {} [(F.ORB_STATUS_STATE, 0, e.1)] { orb := { source := e.2 } }, 1, ?_⟩,
    ⟨peer {} [(F.ORB_STATUS_STATE, 0, osAcquire), (F.ORB_CFG_SOURCE, 0, 3)] { orb := { run := true } }, 1, by decide +kernel⟩,
    ⟨peer {} [(F.ORB_STATUS_STATE, 0, osBorrowed)]
      { orb := { run := true, source := 2, synced := true }, orbitAt := 12345 }, 1, by decide +kernel⟩,
    fun n h => ⟨peer { sentOrbit := some n } [(F.ORB_STATUS_NUMBER_VALID, 0, 1)], ?_⟩,
    ⟨mirror 1 3 {} { retry := true }, by decide +kernel⟩, fun n h => ⟨peer { idAge := n }, ?_⟩, fun b h => ⟨mirror 1 b { idAge := 256 }, ?_⟩,
    ⟨peer { sentDig := some (7, 5) } [(F.CFG_GROUP_GROUP, 0, 5)], 5, 7, 5, by decide +kernel⟩⟩
  · revert h; revert e; decide +kernel
  · revert h; revert n; decide +kernel
  · revert h; revert n; decide +kernel
  · revert h; revert b; decide +kernel

/-! ## Witnesses: the service port -/

/-- The service link up. -/
def svc (mode : Mode) (x : SvcSt := {}) (l : List (Fld × Nat × Nat) := []) (c : Ctl := {}) : State :=
  st mode ((F.SVC_STATUS_LINK, 0, 1) :: l) { c with svc := x }

theorem wit_ServiceLink :
    (∀ mode ∈ [Mode.selftest, .ready, .quarantine], ∃ s : State, s.ctl.Quiet ∧
      s.ctl.inMode [.selftest, .training, .ready, .active, .quarantine] = true ∧ s.ctl.get F.SVC_STATUS_LINK = 0 ∧
      4 ∉ s.ctl.deadUnits ∧ s.ctl.mode = mode.code) ∧
    (∃ s : State, s.ctl.Quiet ∧ s.ctl.get F.SVC_STATUS_LINK = 1 ∧ s.ctl.inMode [.selftest, .training] = true) ∧
    (∃ (s : State) (reg : BitVec 10), s.ctl.Quiet ∧ s.ctl.get F.SVC_STATUS_LINK = 1 ∧ s.ctl.inMode [.ready, .active,
      .quarantine] = true ∧
      s.ctl.entry = none ∧ reg ≠ 1 ∧ s.ctl.svc.pba = 0) ∧
    (∃ (s : State) (v : Fin 64), s.ctl.Quiet ∧ s.ctl.get F.SVC_STATUS_LINK = 1 ∧ s.ctl.inMode [.ready, .active,
      .quarantine] = true ∧
      s.ctl.entry = none ∧ s.ctl.svc.pba = 2 ^ v.val ∧ s.ctl.svc.msixOn = true ∧ s.ctl.svc.msixMask = false ∧
      bit (s.ctl.svc.tableDw (4 * v.val + 3)) 0 = false ∧ s.ctl.get F.SVC_STATUS_DSTATE = 0) ∧
    ∃ s : State, s.ctl.Quiet ∧ s.ctl.power = .run ∧ s.ctl.get F.SVC_STATUS_LINK = 1 ∧ s.ctl.svc.tlps = [] ∧ s.ctl.pcs = [] ∧
      s.ctl.owner ≠ 3 ∧ (∀ k < 32, (s.ctl.ring (128 + k)).prog = []) ∧ s.ctl.ringState 140 = 2 ∧
        s.ctl.inMode [.active] = true := by
  simp only [Ctl.Quiet]
  refine ⟨fun mode h => ⟨st mode [], ?_⟩, ⟨svc .training, by decide +kernel⟩, ⟨svc .ready, 2, by decide +kernel⟩,
    ⟨svc .ready { pba := 2 ^ 63, msixOn := true, table := [(255, 0)] }, 63, by decide +kernel⟩,
    ⟨svc .active {} [(F.RING_STATUS_STATE, 140, 2)], by decide +kernel⟩⟩
  revert h; revert mode; decide +kernel

/-- The last byte of the window and the first beyond it; registers of both kinds; a form that is refused. -/
theorem wit_ServiceAccess :
    (∃ (s : State) (offset : BitVec 24), s.ctl.Quiet ∧ s.ctl.get F.SVC_STATUS_LINK = 1 ∧ s.ctl.get F.SVC_STATUS_DSTATE = 0 ∧
      s.ctl.entry = none ∧ s.ctl.inMode [.ready, .active, .quarantine] = true ∧ configGap offset.toNat 4 = false ∧
      offset.toNat % 4 = 0 ∧ (findReg offset.toNat).map (fun x => (x.1.base, x.2)) = some (D.PA_EYE_MIN.base, 1) ∧
      inMsix offset.toNat = false ∧ doorbellRing offset.toNat = none ∧ isRing D.PA_EYE_MIN.reg = false ∧
        D.PA_EYE_MIN.kind = .status ∧
      D.PA_EYE_MIN.reg ≠ .SEM_CLAIM ∧ isPairLow D.PA_EYE_MIN.reg = false ∧ isPairHigh D.PA_EYE_MIN.reg = false) ∧
    (∃ (s : State) (offset : BitVec 24), s.ctl.Quiet ∧ s.ctl.get F.SVC_STATUS_LINK = 1 ∧ s.ctl.get F.SVC_STATUS_DSTATE = 0 ∧
      s.ctl.entry = none ∧ s.ctl.inMode [.ready, .active, .quarantine] = true ∧ configGap offset.toNat 4 = false ∧
        offset.toNat % 4 ≠ 0) ∧
    (∃ (s : State) (o : BitVec 30), s.ctl.Quiet ∧ s.ctl.get F.SVC_STATUS_LINK = 1 ∧ s.ctl.get F.SVC_STATUS_DSTATE = 0 ∧
      s.ctl.entry = none ∧ s.ctl.inMode [.ready, .active] = true ∧ s.ctl.windowAddr o.toNat % 64 + 1 ≤ 64 ∧
      o.toNat + 1 = s.ctl.windowBytes) ∧
    (∃ (s : State) (o : BitVec 30), s.ctl.Quiet ∧ s.ctl.get F.SVC_STATUS_LINK = 1 ∧ s.ctl.get F.SVC_STATUS_DSTATE = 0 ∧
      s.ctl.entry = none ∧ s.ctl.inMode [.ready, .active] = true ∧ o.toNat = s.ctl.windowBytes) ∧
    ∃ s : State, s.ctl.Quiet ∧ s.ctl.get F.SVC_STATUS_LINK = 1 ∧ s.ctl.get F.SVC_STATUS_DSTATE = 0 ∧ s.ctl.entry = none ∧
      s.ctl.inMode [.quarantine] = true := by
  simp only [Ctl.Quiet]
  exact ⟨⟨svc .ready, BitVec.ofNat 24 (D.PA_EYE_MIN.addr 1), by decide +kernel⟩, ⟨svc .ready, 2, by decide +kernel⟩,
    ⟨svc .ready {} [(F.SVC_WIN_SIZE_SIZE, 0, 2), (F.SVC_WIN_BASE_BASE, 0, 3)],
      BitVec.ofNat 30 ((svc .ready {} [(F.SVC_WIN_SIZE_SIZE, 0, 2), (F.SVC_WIN_BASE_BASE, 0, 3)]).ctl.windowBytes - 1),
        by decide +kernel⟩,
    ⟨svc .ready {} [(F.SVC_WIN_SIZE_SIZE, 0, 2)], BitVec.ofNat 30 (svc .ready {} [(F.SVC_WIN_SIZE_SIZE, 0, 2)]).ctl.windowBytes,
      by decide +kernel⟩, ⟨svc .quarantine, by decide +kernel⟩⟩

/-! ## Witnesses: power -/

/-- A measurement at I_now and above it, with 14 and 15 above it before; every rail; the supplies; both ends of `RESET_N`. -/
theorem wit_PowerEvents :
    (∀ e ∈ [(0, 0), (1, 14), (1, 15)], ∃ (s : State) (q : Nat), s.ctl.Quiet ∧ s.ctl.power = .run ∧ s.ctl.vinBad = false ∧
      q = s.ctl.iNow + e.1 ∧ s.ctl.overs = e.2 ∧ s.ctl.Calm 0x021) ∧
    (∃ s : State, s.ctl.Quiet ∧ s.ctl.power = .run ∧ s.ctl.pcs = [] ∧ s.ctl.fuseOp = none ∧ s.ctl.inMode [.factory] = false ∧
      s.ctl.get F.FLT_LOG_HEAD_HEAD = 255 ∧ s.ctl.railOn .vcore = true ∧ s.ctl.railOn .vret = true ∧ s.ctl.railOn .varray = true ∧
      s.ctl.railOn .vtsv = true ∧ s.ctl.vinBad = false ∧ s.ctl.vphyBad = false ∧
      s.ctl.inMode [.drowse, .hibernate, .crescent] = false ∧ s.ctl.resetLow = false) ∧
    (∃ s : State, s.ctl.Quiet ∧ s.ctl.power = .run ∧ s.ctl.inMode [.powered] = true ∧ s.ctl.get F.CLK_STATUS_XTAL_GOOD = 1 ∧
      s.ctl.resetLow = false ∧ s.ctl.vinBad = false ∧ s.ctl.vphyBad = false) ∧
    ∃ s : State, s.ctl.Quiet ∧ s.ctl.power = .run ∧ ¬ (s.ctl.inMode [.powered] = true ∧
      s.ctl.get F.CLK_STATUS_XTAL_GOOD = 1) := by
  simp only [calm_iff, Ctl.Quiet]
  refine ⟨fun e h => ⟨st .active [] { overs := e.2 }, (st .active []).ctl.iNow + e.1, ?_⟩,
    ⟨st .active [(F.FLT_LOG_HEAD_HEAD, 0, 255)], by decide +kernel⟩, ⟨st .powered [(F.CLK_STATUS_XTAL_GOOD, 0, 1)],
      by decide +kernel⟩,
    ⟨st .active [], by decide +kernel⟩⟩
  revert h; revert e; decide +kernel

theorem wit_EntryHandshake :
    (∃ s : State, s.ctl.Quiet ∧ s.ctl.entry = none ∧ s.ctl.inMode [.ready, .active] = true ∧ s.ctl.get F.PWR_CFG_DROWSE_IDLE ≠ 0 ∧
      s.ctl.get F.PWR_CFG_DROWSE_IDLE = s.ctl.idle) ∧
    (∃ (s : State) (e : EntryReq) (b : EntryBlock), s.ctl.Quiet ∧ s.ctl.entry = some e ∧ (b ∈ asked e.target ∧ b ∉ e.accepted) ∧
      s.ctl.blockReady e.keep b = true ∧ b ∉ e.delayed) ∧
    (∃ (s : State) (e : EntryReq) (b : EntryBlock), s.ctl.Quiet ∧ s.ctl.entry = some e ∧ (b ∈ asked e.target ∧ b ∉ e.accepted) ∧
      s.ctl.blockReady e.keep b = false ∧ e.desc = none) ∧
    (∃ (s : State) (e : EntryReq) (b : EntryBlock), s.ctl.Quiet ∧ s.ctl.entry = some e ∧ b ∈ e.delayed ∧ e.desc = none ∧
      s.ctl.inMode [.ready, .active] = true) ∧
    (∃ (s : State) (e : EntryReq), s.ctl.Quiet ∧ s.ctl.entry = some e ∧ s.ctl.inMode [.ready, .active] = true ∧ e.target = 1 ∧
      ∀ q ∈ asked 1, q ∈ e.accepted) ∧
    ∃ s : State, s.ctl.Quiet ∧ s.ctl.inMode [.drowse] = true := by
  simp only [Ctl.Quiet]
  exact ⟨⟨st .active [(F.PWR_CFG_DROWSE_IDLE, 0, 5)] { idle := 5 }, by decide +kernel⟩,
    ⟨st .active [] { entry := some { target := 2 } }, { target := 2 }, .cfg, by decide +kernel⟩,
    ⟨st .active [] { entry := some { target := 2 }, commit := some { orbit := 5, judged := true, by_ := 1 } }, { target := 2 },
      .cfg,
      by decide +kernel⟩,
    ⟨st .active [] { entry := some { target := 3, delayed := [.mir] } }, { target := 3, delayed := [.mir] }, .mir,
      by decide +kernel⟩,
    ⟨st .active [] { entry := some { target := 1, accepted := asked 1 } }, { target := 1, accepted := asked 1 },
      by decide +kernel⟩,
    ⟨st .drowse [], by decide +kernel⟩⟩

/-- The cellar of a saved table in which the context of label 5 is the word 77, readable or not. -/
def saved (good : Bool) : Arr :=
  let c := cellarPlace (32 * 5)
  Arr.applyAll { image := true } (wordEdits c.pc c.bank c.row c.word 77 ++ [.mark (wordIx c.pc c.bank c.row c.word) (!good)])

/-- A stack in CRESCENT with such a table and the CRC of it. -/
def asleep (good : Bool) : State :=
  st .crescent ((F.PWR_KEEP_DIES, 0, 0x0109) :: (F.PL_PHY_STATUS_STATE, 1, 2) :: full) { image := some (imageCrc [(5, 77)]) } (saved good)

/-- Both sleeps from READY, the wake of a stack with a peer link UP, with a saved table and with one that cannot be read, and the
fill of the first and the last die. -/
theorem wit_Sleep :
    (∀ k ∈ [2, 3], ∃ (s : State) (e : EntryReq), s.ctl.Quiet ∧ s.ctl.entry = some e ∧ e.desc = none ∧
      s.ctl.inMode [.ready, .active] = true ∧ s.ctl.pcs = [] ∧ s.ctl.slices = [] ∧ s.ctl.rmap = [] ∧ Memory.wf s.arr = true ∧
      e.target = k ∧ ∀ q ∈ asked k, q ∈ e.accepted) ∧
    (∀ good : Bool, ∃ s : State, s.ctl.Quiet ∧ s.ctl.inMode [.crescent] = true ∧ s.ctl.wakeHeld = none ∧
      s.ctl.get F.PWR_FILL_DIES < 65536 ∧ (∀ f ∈ s.ctl.flds, isSesKey f.1 = false) ∧ s.ctl.ctxTouched s.arr = [5] ∧
      s.ctl.cellarGet s.arr (32 * 5) = (if good then some 77 else none) ∧ s.ctl.image = some (imageCrc [(5, 77)]) ∧
      (∀ p < 64, s.ctl.dark p = false) ∧ s.ctl.get F.PWR_KEEP_DIES = 0x0109 ∧ s.ctl.Calm 0x022 ∧
      s.ctl.plUp 1 = true ∧ s.ctl.Bare 0 ∧ s.ctl.Bare 1) ∧
    ∀ d ∈ [(0 : Fin 16), 15], ∃ s : State, s.ctl.Quiet ∧ s.ctl.inMode [.ready, .active, .drowse] = true ∧
      bit (s.ctl.get F.PWR_FILL_DIES) d.val = true ∧ ∀ k < d.val, bit (s.ctl.get F.PWR_FILL_DIES) k = false := by
  simp only [Ctl.Quiet, calm_iff, bare_iff]
  refine ⟨fun k h => ⟨st .ready [] { entry := some { target := k, accepted := asked k } },
      { target := k, accepted := asked k }, ?_⟩, fun good => ⟨asleep good, ?_⟩,
    fun d h => ⟨st .active [(F.PWR_FILL_DIES, 0, 2 ^ d.val)], ?_⟩⟩
  · revert h; revert k; decide +kernel
  · revert good; decide +kernel
  · revert h; revert d; decide +kernel

/-! ## Witnesses: self-test, calibration and JTAG -/

/-- A march of PC 3, and its delay slice. -/
def marchSlice : Slice := { kind := 2, pc := 3, die := 15, bank := 15, row := 15 }
def delaySlice : Slice := { kind := 1, pc := 3, group := 3 }

/-- The trim of driver impedance at its last step, one beyond it, and 15 and 16 pairs that disagree. -/
theorem wit_FieldSlices :
    (∃ s : State, s.ctl.Quiet ∧ s.ctl.inMode [.ready, .active, .drowse] = true ∧ s.ctl.get F.BIST_CFG_BUDGET ≠ 0 ∧
      s.ctl.sliceBnd + 2 ^ s.ctl.get F.BIST_CFG_INTERVAL = s.ctl.bnd ∧ s.ctl.dark (s.ctl.sliceNo % 64) = false ∧
      s.ctl.sliceNo / 64 % 6 = 3 ∧ s.ctl.groupUsed (s.ctl.sliceNo % 64) (s.ctl.sliceNo / 64 % 6) = true) ∧
    (∃ (s : State) (z : Slice), s.ctl.Quiet ∧ s.ctl.inMode [.ready, .active, .drowse] = true ∧ s.ctl.get F.BIST_CFG_BUDGET ≠ 0 ∧
      s.ctl.entry = none ∧ s.ctl.sliceDue = [z] ∧ s.ctl.dark z.pc = false ∧ s.ctl.mayBegin z = true) ∧
    (∃ (s : State) (z : Slice), s.ctl.Quiet ∧ s.ctl.inMode [.ready, .active, .drowse] = true ∧ s.ctl.slices = [z] ∧
      z.desc = none ∧
      (z.kind = 1 ∨ z.kind = 3)) ∧
    (∃ (s : State) (z : Slice), s.ctl.Quiet ∧ s.ctl.inMode [.ready, .active, .drowse] = true ∧ s.ctl.slices = [z] ∧
      z.desc = none ∧
      z.kind = 2 ∧ z.pc < 64 ∧ z.die < 16 ∧ z.bank < 16 ∧ z.row < 16 ∧ s.ctl.Calm 0x072) ∧
    (∀ e ∈ [(0, 0), (1, 0), (0, 1)], ∃ (s : State) (a b lo hi : Int), s.ctl.Quiet ∧ s.ctl.inMode [.ready, .active,
      .drowse] = true ∧
      s.ctl.get F.CAL_CFG_EN = 1 ∧ s.ctl.trimBusy (trimCode .driverZ) 0 = false ∧ 0 < trimCount (trimCode .driverZ) ∧
      trimRange (trimCode .driverZ) = some (lo, hi) ∧
      (if e.2 = 0 then s.ctl.agree a b = true ∧ pairMean (s.ctl.trim (trimCode .driverZ) 0).cur a b = hi + e.1
       else s.ctl.agree a b = false) ∧ s.ctl.Calm 0x075) ∧
    ∀ n ∈ [14, 15], ∃ (s : State) (a b : Int), s.ctl.Quiet ∧ s.ctl.inMode [.ready, .active, .drowse] = true ∧
      s.ctl.get F.CAL_CFG_EN = 1 ∧ s.ctl.trimBusy (trimCode .driverZ) 0 = false ∧ s.ctl.agree a b = false ∧
      (s.ctl.trim (trimCode .driverZ) 0).bads = n ∧ s.ctl.Calm 0x074 := by
  simp only [calm_iff, Ctl.Quiet]
  let cal := fun (n : Nat) => st .active [(F.CAL_CFG_EN, 0, 1), (F.CAL_CFG_TOL, 0, 2), (F.PA_STATUS_LINK, 0, 2)]
    { trims := [(trimKey (trimCode .driverZ) 0, { cur := 5, target := 5, bads := n })] }
  let hi := (trimRange (trimCode .driverZ)).getD (0, 0)
  refine ⟨⟨st .active [(F.BIST_CFG_BUDGET, 0, 5), (F.BIST_CFG_INTERVAL, 0, 2), (F.CH_STATUS_MODE, 5, 0)]
      { bnd := 9, sliceBnd := 5, sliceNo := 5 + 64 * 3 }, by decide +kernel⟩,
    ⟨st .active [(F.BIST_CFG_BUDGET, 0, 5), (F.CH_STATUS_MODE, 3,
      0)] { sliceDue := [delaySlice], dies := [(0, { transit := true })], now := 180000 }, delaySlice,
      by decide +kernel⟩,
    ⟨st .active [] { slices := [delaySlice] }, delaySlice, by decide +kernel⟩, ⟨st .active [] { slices := [marchSlice] },
      marchSlice, by decide +kernel⟩,
    fun e h => ⟨cal 0, hi.2 + e.1, hi.2 + e.1 + 40 * e.2, hi.1, hi.2, ?_⟩, fun n h => ⟨cal n, 0, 40, ?_⟩⟩
  · revert h; revert e; decide +kernel
  · revert h; revert n; decide +kernel

theorem wit_Factory :
    (∃ s : State, s.ctl.Quiet ∧ s.ctl.power = .run ∧ s.ctl.inMode [.factory] = false ∧ s.ctl.inMode [.selftest] = true) ∧
    (∃ (s : State) (word : Fin 1024) (bit : Fin 64), s.ctl.Quiet ∧ s.ctl.power = .run ∧ s.ctl.inMode [.factory] = true ∧
      s.ctl.fuseBitSet word.val bit.val = false) ∧
    (∃ (s : State) (source : BitVec 9), s.ctl.Quiet ∧ s.ctl.power = .run ∧ s.ctl.inMode [.factory] = true ∧
      sources.contains source.toNat = true ∧ s.ctl.Calm source.toNat) ∧
    ∃ s : State, s.ctl.Quiet ∧ s.ctl.inMode [.selftest] = true ∧ s.ctl.get F.BIST_STATUS_WIPING = 1 := by
  simp only [calm_iff, Ctl.Quiet]
  exact ⟨⟨st .selftest [], by decide +kernel⟩, ⟨st .factory [], 1023, 63, by decide +kernel⟩, ⟨st .factory [], 0x060,
    by decide +kernel⟩,
    ⟨st .selftest [(F.BIST_STATUS_WIPING, 0, 1)], by decide +kernel⟩⟩

/-! ## Worked examples of the manual -/

/-- The state that a command leaves. -/
def after (c : Instr) (s : State) : Ctl :=
  match exec c s with
  | .next t => t.ctl
  | _ => s.ctl

def digits : List Byte := [0x31, 0x32, 0x33, 0x34, 0x35, 0x36, 0x37, 0x38, 0x39]

/-- The check values of R73, R243 and R286. -/
theorem test_crc : crc32c digits = 0xE3069283 ∧ crc16 digits = 0x29B1 ∧ crc64 digits = 0x6C40DF5F0B497347 := by decide +kernel

/-- Address 0x1A_4C3B_5E40 (chapter 1): die 13, row 1219, PC 30, word 10, byte 0; bank group 2, bank 3, or bank 0 under HASHED. -/
theorem test_address_map :
    place false 0x1A4C3B5E40 = { pc := 30, bank := 13 * 16 + 2 * 4 + 3, row := 1219, word := 10, byte := 0 } ∧
    place true 0x1A4C3B5E40 = { pc := 30, bank := 13 * 16 + 2 * 4 + 0, row := 1219, word := 10, byte := 0 } := by decide +kernel

/-- The inverse map takes both back. -/
theorem test_address_back : addrOf false 30 219 1219 10 = 0x1A4C3B5E40 ∧
    addrOf true 30 216 1219 10 = 0x1A4C3B5E40 := by decide +kernel

/-- Entries located in chapter 21. -/
theorem test_register_addresses : D.SES_STG1.addr 0x1234 = 0x82468C ∧ doorbellRing 0x283000 = some 131 ∧
    doorbellRing 0x283FFC = some 131 ∧ D.CH_REMAP.addr 30 = 0x11E10C ∧ D.FUSE_WORD.addr 652 = 0x042460 := by decide +kernel

/-- A late commit and one that waits 64 orbits (chapter 2). -/
theorem test_judge_orbit : judgeOrbit 0x00000FFFFFC0 0x000010000000 = .past ∧ judgeOrbit 0x000010000040 0x000010000000 = .future ∧
    judgeOrbit 0x000010000000 0x000010000000 = .current := by decide +kernel

/-- The default scrub period (chapter 7): I is 5222, 435 for one hour and 73,114 for 168. -/
theorem test_scrub_interval : scrubInterval 12 = 5222 ∧ scrubInterval 1 = 435 ∧ scrubInterval 168 = 73114 := by decide +kernel

/-- Session 0x0_1234 with BASE 2, TARGET 50, BIND 1 and `URG_A` 1 (chapter 8), and with `URG_A` 3. -/
def session (meas urg : Nat) : Ctl :=
  (st .active [(F.SES_ACT0_BASE, 0x1234, 2), (F.SES_ACT0_TARGET, 0x1234, 50), (F.SES_ACT1_BIND, 0x1234, 1),
    (F.PA_SIDEBAND_HOSTPRES, 0, 1),
    (F.PA_SIDEBAND_URG, 0, urg), (F.SES_STAT_MEAS, 0x1234, meas), (F.SES_STAT_MEAS_VALID, 0x1234, 1)]).ctl

theorem test_class : (session 30 1).entryClass 0x1234 = 3 ∧ (session 38 1).entryClass 0x1234 = 4 ∧
    (session 46 1).entryClass 0x1234 = 5 ∧
    (session 52 1).entryClass 0x1234 = 6 ∧ (session 52 3).entryClass 0x1234 = 7 := by decide +kernel

/-- The throttle walk of chapter 17: a VIN limit of 40 A with steps of 2 A and one hot die leaves 190, 180 and 170 entries. -/
theorem test_capacity : ∀ k < 3, (st .active [(F.PWR_VIN_LIMIT_LIMIT, 0, 160), (F.THM_STEP_STEP, 0, 8), (F.THM_STATUS_STEPS, 0,
    k),
    (F.ORB_HOTMAP_HOT, 0, 512)] { orb := { run := true } }).ctl.capWith 160 8 = 190 - 10 * k := by decide +kernel

/-- A trip before TRO has started (chapter 14): of the first two windows the one of 140 is bad, and the one of 320 starts the
judgement and clears the latch. -/
theorem test_xtal_windows :
    let s := st .powered [] { clk := { trip := true } }
    let m := after (.xtalWindow 140 false) s
    let n := after (.xtalWindow 320 false) { s with ctl := m }
    m.clk.total = 0 ∧ m.clk.trip = true ∧ n.clk.total = 320 ∧ n.clk.trip = false ∧
      n.get F.CLK_STATUS_XTAL_GOOD = 0 := by decide +kernel

/-- The limits of a clean window (R353): 192 to 344 under COARSE, 240 to 272 under FINE. -/
theorem test_xtal_limits : ∀ e ∈ [(0, 191, 0), (0, 192, 192), (0, 344, 344), (0, 345, 0), (1, 239, 0), (1, 240, 240), (1, 272,
    272), (1, 273, 0)],
    (after (.xtalWindow e.2.1 false) (st .powered [(F.CLK_STATUS_MON_RANGE, 0, e.1)])).clk.total = e.2.2 := by decide +kernel

/-- The 205th clean window of 320 makes XTAL stable. -/
theorem test_xtal_stable : (after (.xtalWindow 320 false) (st .powered [] { clk := { total := 204 * 320 } })).get F.CLK_STATUS_XTAL_GOOD = 1 := by
  decide +kernel

/-! ## Single commands -/

/-- Of two claims in one cycle ALT picks A, and then B (R271). -/
theorem test_claim : (after (.semClaim ⟨true, true, true⟩) (st .active [])).owner = 1 ∧
    (after (.semClaim ⟨true, true, true⟩) (st .active [(F.SEM_OWNER_ALT, 0, 1)])).owner = 2 := by decide +kernel

/-- Orbit 2^48 - 1 is followed by 0 (R60). -/
theorem test_orbit_wraps : (after (.orbitBoundary [] 0) (st .active [(F.ORB_NOW, 0,
    2 ^ 48 - 1)] { orb := { run := true } })).orbit = 0 := by
  decide +kernel

/-- BYPASS captures one bit, 0 (R456). -/
theorem test_bypass : (after .bypass (st .ready [])).out = [.jtag 0 1] := by decide +kernel

/-- A NULL flit and a bad CRC leave the expected number (R87); the next one expected moves it, from 4095 to 0. -/
theorem test_flit : (after (.controlFlit .a 3 (flit 0 0 0 0 0) [0, 0, 0, 0]) (up { e := 4095 })).pa.grps.map (·.2.e) = [4095] ∧
    (after (.controlFlit .a 3 (flit 1 4095 0 0 1) [0, 0, 0, 0]) (up { e := 4095 })).pa.grps.map (fun g => (g.2.e,
      g.2.nak)) = [(4095, true)] ∧
    (after (.controlFlit .a 3 (flit 1 4095 0 0 0) [0, 0, 0, 0]) (up { e := 4095 })).pa.grps.map (·.2.e) = [0] := by decide +kernel

/-- A read at the last 32 B of user space is executed; one byte less is misaligned (R25, R114). -/
theorem test_last_word :
    (after (.read .a 3 4 5 0x1FFFFFFFE0 .s32) (open_ [(F.PA_WLIMIT_LIMIT, 2, 2 ^ 21 - 1), (F.QOS_CFG_MODE, 0, 1)])).pcs.map
      (fun e => (e.1, e.2.ingress.length)) = [(63, 1)] ∧
    (after (.read .a 3 4 5 0x1FFFFFFFDF .s32) (open_ [])).get F.PA_REQERR_ALIGN 0 = 1 := by decide +kernel

/-- A store of a line: its 64 bytes and no others change (R145); byte 0 stores a 0, which memory does not list. -/
theorem test_store :
    let s := slot jobW { row := some 0, pce := { st := .clean } }
    let a := match exec (.commandSlot 3 []) s with
      | .next t => t.arr
      | _ => s.arr
    a.byte (slotAddr 3 0 0 0 + 1) = 1 ∧ a.byte (slotAddr 3 0 0 0 + 63) = 63 ∧ a.mem.length = 63 := by decide +kernel

/-- 850 bytes, as a pair carries them. -/
theorem wit_PairCode : (List.replicate 850 (255 : Byte)).length = 850 := by decide +kernel

/-- No row of the table has bits, so that no word spells a command, and none is put in front. -/
theorem test_decode : decodeTableWord 16 0 = none ∧ (State.reset.withFetchWord 16 0).pending = [] := ⟨rfl, rfl⟩

end Sys2Proof.Tests
end

section
/-!
The statements of chapter 0. Both quantify over every value of type `State`, and their counterexamples lie in what they do not
exclude: for `ControlRegisters` an array change that is still listed, which no command leaves (`run_edits`), and for `Sleep` a
session context listed in the field table that the register map does not have.
-/

namespace Sys2Proof.Machine

/-! ## An array change left over before an overflow read -/

/-- Overflow entry 0 is being read, and a change of its first byte stands in `edits`. Between commands `Inv` has none there:
`run` starts every command without one, while a statement that applies `Ctl.ovfEntry` to this state looks through it. -/
def leftoverEdit : State :=
  { ctl :=
      { power := .run
        flds := [(fkey F.GL_MODE_STATE 0, Mode.active.code)]
        cellarOk := true
        ovfRead := true
        edits := [.bytes (slotAddr 0 8 8216 0) [1]] } }

theorem leftoverEdit_quiet : leftoverEdit.ctl.Quiet := by
  simp [leftoverEdit, Ctl.Quiet, Ctl.Clean]

/-- Seen through the change, the entry is 1. -/
theorem leftoverEdit_ovfEntry : leftoverEdit.ctl.ovfEntry leftoverEdit.arr (leftoverEdit.ctl.get F.FLT_OVF_IDX_INDEX) = some 1 := by
  decide +kernel

/-- The command reads the array as it is, where the entry is 0. -/
theorem leftoverEdit_overflowReadDone {t : State} (h : exec (.overflowReadDone []) leftoverEdit = .next t) :
    t.ctl.get F.FLT_OVF_ENTRY_DATA 0 = 0 := by
  injection h with h
  subst h
  decide +kernel

/-- Refutes O44: its clause on OVERFLOW_READ_DONE takes the entry from `s.ctl.ovfEntry s.arr`, which applies `s.ctl.edits`
first, and the command drops those edits before it reads. At `leftoverEdit` it claims data 1, and the register shows 0. -/
theorem not_controlRegisters : ¬ Obligations.ControlRegisters := by
  unfold Obligations.ControlRegisters
  intro h
  obtain ⟨-, -, hread, -⟩ := h leftoverEdit .a .l0 0 0 0 D.FLT_STATUS 0 leftoverEdit_quiet rfl
  obtain ⟨t, ht, -, -, -, hdata⟩ := hread rfl
  have hclaimed : t.ctl.get F.FLT_OVF_ENTRY_DATA 0 = 1 := by
    rw [hdata 0 (by decide), leftoverEdit_ovfEntry]
    rfl
  rw [leftoverEdit_overflowReadDone ht] at hclaimed
  exact Nat.zero_ne_one hclaimed

/-! ## A session context beyond the table -/

/-- READY with every block asked for HIBERNATE having accepted, and a field of context 262,144 listed: the labels of R215 end
at 262,143. -/
def strayContext : State :=
  { ctl :=
      { power := .run
        flds := [(fkey F.SES_ACT0_BASE 262144, 5), (fkey F.GL_MODE_STATE 0, Mode.ready.code), (fkey F.FLT_STATUS_FAULTN 0, 1)]
        entry := some { target := 2, accepted := asked 2 } } }

/-- The model's own invariant does not exclude such a table. -/
theorem strayContext_inv : Inv strayContext where
  memory := rfl
  edits := rfl
  raised := rfl
  pin := by unfold FaultPin; decide +kernel

theorem strayContext_quiet : strayContext.ctl.Quiet := by
  simp [strayContext, Ctl.Quiet, Ctl.Clean]

/-- A byte of LIMIT in the word that a save gives context 262,144: cellar offset 2^23 is row 8216, the first row after the
save's (R509). -/
def strayByte : Nat := slotAddr 0 0 8216 0 + 2

theorem strayByte_outside : imageRow (strayByte / 1152) = false := by decide +kernel

/-- The save stores that word too. -/
theorem strayContext_hibernateEntry {t : State} (h : exec .hibernateEntry strayContext = .next t) :
    t.arr.byte strayByte = 0xFF := by
  injection h with h
  subst h
  decide +kernel

/-- Refutes O58: its clause on HIBERNATE_ENTRY claims that every byte outside rows 8208 to 8215 of die 0 reads as before, and
`Ctl.saveTable` stores every context that the field table lists, whatever its label. At `strayContext` a byte of row 8216
turns from 0 to 0xFF. -/
theorem not_sleep : ¬ Obligations.Sleep := by
  unfold Obligations.Sleep
  intro h
  obtain ⟨hentry, -⟩ := h strayContext { target := 2, accepted := asked 2 } ⟨[], []⟩ (fun _ => 0) 0 strayContext_quiet
  obtain ⟨hhibernate, -⟩ := hentry rfl rfl (by decide +kernel) rfl rfl rfl strayContext_inv.memory
  obtain ⟨t, ht, ⟨-, hbytes, -⟩, -⟩ := hhibernate rfl fun _ hq => hq
  have hclaimed : t.arr.byte strayByte = 0 := hbytes strayByte strayByte_outside
  rw [strayContext_hibernateEntry ht] at hclaimed
  exact absurd hclaimed (by decide)

end Sys2Proof.Machine
end

section
/-!
Rules of the state that the statements of chapter 1 rest on, beside those under Laws: what a write of a table, a field, a host port or
a PC leaves unchanged, and the frame of a command whose effect is known as a state.
-/

namespace Sys2Proof

/-- A table entry after a write is the one written, or was there before. -/
theorem Sparse.mem_setD {α : Type} [DecidableEq α] {t : Sparse α} {k : Nat} {v d : α} {e : Nat × α}
    (h : e ∈ Sparse.setD t k v d) : e = (k, v) ∨ e ∈ t := by
  unfold Sparse.setD at h
  split at h
  · exact .inr (List.mem_filter.mp h).1
  · exact Sparse.mem_put h

/-- A value read from a table is listed there, or the one that unlisted keys have. -/
theorem Sparse.getD_cases {α : Type} (t : Sparse α) (k : Nat) (d : α) :
    Sparse.getD t k d = d ∨ ∃ j, (j, Sparse.getD t k d) ∈ t := by
  induction t with
  | nil => exact .inl rfl
  | cons e t ih =>
    obtain ⟨j, v⟩ := e
    by_cases hj : j = k
    · exact .inr ⟨j, by simp [Sparse.getD, Sparse.find, hj]⟩
    · have hread : Sparse.getD ((j, v) :: t) k d = Sparse.getD t k d := by simp [Sparse.getD, Sparse.find, hj]
      rw [hread]
      exact ih.imp_right fun ⟨i, hi⟩ => ⟨i, List.mem_cons_of_mem _ hi⟩

end Sys2Proof

namespace Sys2Proof.Machine

/-! ## Register fields -/

/-- A write of one field leaves every copy of another. -/
theorem Ctl.get_set_fld (m : Ctl) {f g : Fld} {i j : Nat} (v : Nat) (hid : g.id ≠ f.id) (hi : i < 1048576) (hj : j < 1048576) :
    (m.set f i v).get g j = m.get g j :=
  m.get_set_other f g i j v (fkey_ne hid hj hi)

/-- A counter that has been counted up reads as one more, and stays at its limit. -/
theorem Ctl.get_bump_same (m : Ctl) (f : Fld) (i : Nat) : (m.bump f i).get f i = min (m.get f i + 1) (2 ^ f.width - 1) := by
  have : 0 < 2 ^ f.width := Nat.two_pow_pos _
  rw [Ctl.bump_eq, Ctl.get_set_same, Nat.mod_eq_of_lt (by omega)]

theorem Ctl.Quiet.fresh {m : Ctl} (h : m.Quiet) : m.fresh.Quiet := h
theorem Ctl.Quiet.set {m : Ctl} (h : m.Quiet) (f : Fld) (i v : Nat) : (m.set f i v).Quiet := h
theorem Ctl.Quiet.bump {m : Ctl} (h : m.Quiet) (f : Fld) (i : Nat) : (m.bump f i).Quiet := h

/-! ## A host port -/

@[simp] theorem Ctl.port_setPort (m : Ctl) (p : Port) (x : PortSt) : (m.setPort p x).port p = x := by cases p <;> rfl
@[simp] theorem Ctl.setPort_setPort (m : Ctl) (p : Port) (x y : PortSt) : (m.setPort p x).setPort p y = m.setPort p y := by
  cases p <;> rfl
@[simp] theorem Ctl.port_set (m : Ctl) (f : Fld) (i v : Nat) (p : Port) : (m.set f i v).port p = m.port p := by cases p <;> rfl
@[simp] theorem Ctl.get_setPort (m : Ctl) (p : Port) (x : PortSt) (f : Fld) (i : Nat) : (m.setPort p x).get f i = m.get f i := by
  cases p <;> rfl
@[simp] theorem Ctl.setPort_raised (m : Ctl) (p : Port) (x : PortSt) : (m.setPort p x).raised = m.raised := by cases p <;> rfl
@[simp] theorem Ctl.setPort_edits (m : Ctl) (p : Port) (x : PortSt) : (m.setPort p x).edits = m.edits := by cases p <;> rfl
theorem Ctl.set_setPort (m : Ctl) (p : Port) (x : PortSt) (f : Fld) (i v : Nat) :
    (m.setPort p x).set f i v = (m.set f i v).setPort p x := by cases p <;> rfl
@[simp] theorem PortSt.grp_setGrp (x : PortSt) (g : Nat) (v : Grp) : (x.setGrp g v).grp g = v := Sparse.getD_setD_same _ _ _ _

theorem Ctl.rest_setPort (m : Ctl) (p : Port) (x : PortSt) : (m.setPort p x).rest = m.rest.setPort p x := by cases p <;> rfl

/-- A port without a request makes none wait. -/
theorem Ctl.Quiet.setPort {m : Ctl} (h : m.Quiet) (p : Port) {x : PortSt} (hx : x.reqs = []) : (m.setPort p x).Quiet := by
  obtain ⟨ha, hb, hrest⟩ := h
  cases p
  · exact ⟨hx, hb, hrest⟩
  · exact ⟨ha, hx, hrest⟩

/-- With no request waiting a port has none. -/
theorem Ctl.Quiet.reqs {m : Ctl} (h : m.Quiet) (p : Port) : (m.port p).reqs = [] := by
  obtain ⟨ha, hb, -⟩ := h
  cases p
  · exact ha
  · exact hb

/-! ## A PC -/

@[simp] theorem Ctl.pc_setPc (m : Ctl) (i : Nat) (x : Pc) : (m.setPc i x).pc i = x := Sparse.getD_setD_same _ _ _ _

theorem Ctl.set_setPc (m : Ctl) (i : Nat) (x : Pc) (f : Fld) (j v : Nat) : (m.setPc i x).set f j v = (m.set f j v).setPc i x := rfl
theorem Ctl.rest_setPc (m : Ctl) (i : Nat) (x : Pc) : (m.setPc i x).rest = m.rest.setPc i x := rfl

theorem Ctl.SameFlds.setPc {m n : Ctl} {l : List (Fld × Nat)} (h : m.SameFlds n l) (i : Nat) (x : Pc) : m.SameFlds (n.setPc i x) l :=
  fun f j hj => (Ctl.get_setPc n i x f j).trans (h f j hj)

/-- With no request waiting no PC has a failed code path. -/
theorem Ctl.Quiet.codeErr {m : Ctl} (h : m.Quiet) (i : Nat) : (m.pc i).codeErr = false := by
  obtain ⟨-, -, -, hpcs, -⟩ := h
  rcases Sparse.getD_cases m.pcs i {} with hx | ⟨j, hj⟩
  · unfold Ctl.pc; rw [hx]
  · exact hpcs _ hj

/-- A change of a PC that fails no code path makes no request wait. -/
theorem Ctl.Quiet.setPc {m : Ctl} (h : m.Quiet) (i : Nat) {x : Pc} (hx : x.codeErr = (m.pc i).codeErr) : (m.setPc i x).Quiet := by
  have hcode := hx.trans (h.codeErr i)
  obtain ⟨ha, hb, hsvc, hpcs, hmirs⟩ := h
  refine ⟨ha, hb, hsvc, fun e he => ?_, hmirs⟩
  rcases Sparse.mem_setD he with rfl | he
  · exact hcode
  · exact hpcs e he

/-! ## Frames by the effect of a command -/

/-- The frame of a command whose effect, the state `x`, leaves no request waiting, raises no fault and changes no byte. -/
theorem Ends.of_effect {s : State} {g : Arr → Ctl → Ctl} {x : Ctl} {l : List (Fld × Nat)} {m : Ctl}
    (hx : g s.arr s.ctl.fresh = x) (hq : x.Quiet) (hr : x.raised = []) (he : x.edits = []) (hf : s.ctl.SameFlds x l)
    (hm : x.rest = m.rest) : Ends s (run s g) l m := by
  subst hx; exact Ends.of_quiet s g l m hq hr he hf hm

/-- The fields that such a command leaves, but the pin. -/
theorem get_of_effect {s : State} {g : Arr → Ctl → Ctl} {x : Ctl} {f : Fld} (hx : g s.arr s.ctl.fresh = x) (hq : x.Quiet)
    (hr : x.raised = []) (he : x.edits = []) (i : Nat) (h : fkey f i ≠ fkey F.FLT_STATUS_FAULTN 0) :
    (run s g).ctl.get f i = x.get f i := by
  subst hx; exact get_run_quiet s g f i hq hr he h

end Sys2Proof.Machine
end

section
/-!
A config access in an unassigned range (R30): what a host port and its completions do on the way, and the refusal of the header as
it arrives.
-/

namespace Sys2Proof.Machine

/-! ## Completions -/

/-- A stack that has noted that its orbit is not idle. -/
def Ctl.noted (m : Ctl) : Ctl := { m with worked := true }

@[simp] theorem Ctl.port_noted (m : Ctl) (p : Port) : m.noted.port p = m.port p := by cases p <;> rfl
@[simp] theorem Ctl.noted_raised (m : Ctl) : m.noted.raised = m.raised := rfl
@[simp] theorem Ctl.noted_edits (m : Ctl) : m.noted.edits = m.edits := rfl
@[simp] theorem Ctl.get_noted (m : Ctl) (f : Fld) (i : Nat) : m.noted.get f i = m.get f i := rfl
@[simp] theorem Ctl.noted_now (m : Ctl) : m.noted.now = m.now := rfl
@[simp] theorem Ctl.rest_of_noted (m : Ctl) : m.noted.rest = m.rest := rfl

/-- New work of an awake stack without a handshake is only noted. -/
theorem Ctl.newWork_awake {m : Ctl} (hm : m.inMode [.drowse] = false) (he : m.entry = none) (b : EntryBlock) :
    m.newWork b = m.noted := by
  have hm' : m.noted.inMode [.drowse] = false := hm
  have he' : m.noted.entry = none := he
  show (if m.noted.inMode [.drowse] then _ else match m.noted.entry with | some e => _ | none => m.noted) = m.noted
  rw [hm', he']
  rfl

/-- An upstream direction that is awake needs no wake. -/
theorem Ctl.resumeUp_awake {m : Ctl} {p : Port} {g : Nat} (h : (m.grp p g).txIdle = false) : m.resumeUp p g = m := by
  simp [Ctl.resumeUp, Ctl.resumeOn, h]

/-- An item queued on the upstream direction of a pair. -/
def PortSt.push (x : PortSt) (g : Nat) (u : UpItem) : PortSt := x.setGrp g { x.grp g with up := (x.grp g).up ++ [u] }

/-- A completion of an enabled pair whose upstream direction is awake joins its queue. -/
theorem Ctl.pushCpl_awake {m : Ctl} {p : Port} {g : Nat} (h : m.Answers p g) (u : UpItem) :
    m.pushCpl p g u = m.setPort p ((m.port p).push g u) := by
  obtain ⟨hawake, hon⟩ := h
  have hawake' : ((m.setPort p ((m.port p).push g u)).grp p g).txIdle = false := by
    simpa [Ctl.grp, PortSt.push] using hawake
  unfold Ctl.pushCpl
  rw [if_neg (by simp [Ctl.is, hon])]
  exact Ctl.resumeUp_awake hawake'

/-- A request that took no credits, and that ends with a status after POISON as the only one of its port: its completion joins the
queue of its pair (R122). -/
theorem Ctl.finishReq_only {m : Ctl} {p : Port} {r : Req} {status : Nat} (hr : (m.port p).reqs = [r])
    (hrh : r.rh = 0) (hwd : r.wd = 0) (ho : r.orphan = false) (hs : 1 < status) (ha : m.Answers p r.g) :
    m.finishReq p r.pos status = m.setPort p
      ({ m.port p with reqs := [] }.push r.g
        (UpItem.cpl r.tag status none false none r.session (.fresh r.admitted) r.accAt)) := by
  have ha' : (m.setPort p { m.port p with reqs := [] }).Answers p r.g := by
    refine ⟨?_, by simpa using ha.2⟩
    rw [← ha.1]; simp [Ctl.grp, PortSt.grp]
  have hst : ¬ status ≤ 1 := by omega
  simp [Ctl.finishReq, Ctl.credit, hr, hrh, hwd, ho, hst, Ctl.pushCpl_awake ha']

/-! ## A config access in an unassigned range -/

/-- What the header of a config access carries (R117). -/
theorem configHeader_fields {op tag session caddr : Nat} (data : Nat) (ho : op < 16) (ht : tag < 2 ^ 14) (hs : session < 2 ^ 18)
    (hc : caddr < 2 ^ 24) :
    configHeader op tag session caddr data % 16 = op ∧ bits (configHeader op tag session caddr data) 6 14 = tag ∧
      bits (configHeader op tag session caddr data) 20 18 = session ∧
      bits (configHeader op tag session caddr data) 38 24 = caddr := by
  simp only [configHeader, bits, Nat.shiftRight_eq_div_pow]
  omega

/-- An unassigned range is the only fault of an aligned config access there (R30, R136). -/
theorem Req.faults_configGap {r : Req} (hop : r.op = 4 ∨ r.op = 5) (ha : r.addr % 4 = 0) (hgap : configGap r.addr 4 = true)
    (masked : Bool) : r.faults false masked = [F.PA_REQERR_CFG_BLOCK] := by
  rcases hop with hop | hop <;> simp [Req.faults, hop, ha, hgap]

/-- The request of a config access that arrives by its own command. -/
def configReq (pos g op tag session caddr data now : Nat) : Req :=
  { pos := pos, g := g, tag := tag, op := op, session := session, addr := caddr, st := .waiting, accAt := now
    value := bits (configHeader op tag session caddr data) 64 32 }

/-- The header of a config access that has faults is refused as its command brings it: every fault is shown, and it completes with
BAD_REQUEST (R136). -/
theorem Ctl.header_configFaults {m : Ctl} {p : Port} {g op tag session caddr data : Nat} {f : Fld} {fs : List Fld}
    (hop : op = 4 ∨ op = 5) (hr : m.Ready p g tag) (ht : tag < 2 ^ 14) (hs : session < 2 ^ 18) (hc : caddr < 2 ^ 24)
    (hf : (configReq (m.port p).nextPos g op tag session caddr data m.now).faults false false = f :: fs) :
    m.header p g (configHeader op tag session caddr data) none none =
      ((f :: fs).foldl (fun n f => n.set f p.idx 1) (m.noted.setPort p
        { m.port p with nextPos := (m.port p).nextPos + 1, silent := none,
                        reqs := [configReq (m.port p).nextPos g op tag session caddr data m.now] })).finishReq
        p (m.port p).nextPos stBadRequest := by
  obtain ⟨hq, hh, hpair, htag, hmode, hentry⟩ := hr
  have hreqs := hq.reqs p
  have hreuse : m.noted.tagOpen p tag = false := by simpa [Ctl.tagOpen, Ctl.tagLive, hh] using htag
  have huser : ¬ op ≤ 2 := by omega
  have hfence : op ≠ 3 := by omega
  obtain ⟨hbop, hbtag, hbses, hbaddr⟩ := configHeader_fields data (show op < 16 by omega) ht hs hc
  unfold configReq at hf ⊢
  simp [Ctl.header, hh, hpair, Ctl.newWork_awake hmode hentry, Ctl.judge, Hdr.op, hbop, hbtag, hbses, hbaddr, hreuse, hreqs, huser,
    hfence, hf]

/-- A field of a port that is not a lane's, and a port with the same pairs, leave a completion of a pair as free to go out. -/
theorem Ctl.Answers.set_setPort {m : Ctl} {p : Port} {g : Nat} (h : m.Answers p g) (hg : g < 16) {f : Fld}
    (hf : F.PA_LANE_DISABLED.id ≠ f.id) (v : Nat) {x : PortSt} (hx : x.grps = (m.port p).grps) :
    ((m.noted.set f p.idx v).setPort p x).Answers p g := by
  obtain ⟨hawake, hon⟩ := h
  have hidx : p.idx < 2 := by cases p <;> decide
  refine ⟨?_, ?_⟩
  · rw [← hawake]; simp [Ctl.grp, PortSt.grp, hx]
  · rw [← hon, Ctl.get_setPort, Ctl.get_set_other _ _ _ _ _ _ (fkey_ne hf (by omega) (by omega)), Ctl.get_noted]

/-- The header of a config access to an unassigned range is refused as it arrives, and changes nothing else (R30). -/
theorem Ctl.header_configGap {m : Ctl} {p : Port} {g op tag session caddr : Nat} (data : Nat) (hop : op = 4 ∨ op = 5)
    (hr : m.Ready p g tag) (hans : m.Answers p g) (hg : g < 16) (ht : tag < 2 ^ 14) (hs : session < 2 ^ 18) (hc : caddr < 2 ^ 24)
    (hal : caddr % 4 = 0) (hgap : configGap caddr 4 = true) :
    m.header p g (configHeader op tag session caddr data) none none =
      (m.noted.set F.PA_REQERR_CFG_BLOCK p.idx 1).setPort p
        ((m.port p).answered g (.cpl tag stBadRequest none false none session (.fresh false) m.now)) := by
  obtain ⟨r, hrdef⟩ : ∃ r, r = configReq (m.port p).nextPos g op tag session caddr data m.now := ⟨_, rfl⟩
  obtain ⟨x, hx⟩ : ∃ x, x = { m.port p with nextPos := (m.port p).nextPos + 1, silent := none, reqs := [r] } := ⟨_, rfl⟩
  have hf : r.faults false false = [F.PA_REQERR_CFG_BLOCK] := by
    rw [hrdef]; exact Req.faults_configGap hop hal hgap false
  have hnans : ((m.noted.set F.PA_REQERR_CFG_BLOCK p.idx 1).setPort p x).Answers p r.g := by
    rw [hrdef]; exact hans.set_setPort hg (by decide) 1 (by rw [hx])
  have hx' : ({ x with reqs := [] } : PortSt).push r.g (.cpl r.tag stBadRequest none false none r.session (.fresh r.admitted) r.accAt) =
      (m.port p).answered g (.cpl tag stBadRequest none false none session (.fresh false) m.now) := by
    simp [hx, hrdef, configReq, PortSt.push, PortSt.answered, PortSt.setGrp, PortSt.grp, hr.quiet.reqs p]
  calc m.header p g (configHeader op tag session caddr data) none none
      = ((m.noted.setPort p x).set F.PA_REQERR_CFG_BLOCK p.idx 1).finishReq p r.pos stBadRequest := by
        rw [Ctl.header_configFaults hop hr ht hs hc (hrdef ▸ hf), ← hrdef, ← hx, hrdef]; rfl
    _ = _ := by
        rw [Ctl.set_setPort, Ctl.finishReq_only (by simp [hx]) (by rw [hrdef]; rfl) (by rw [hrdef]; rfl) (by rw [hrdef]; rfl)
          (by decide) hnans, Ctl.setPort_setPort, Ctl.port_setPort, hx']

/-- A state that is ready, or answers, is so as a command starts. -/
theorem Ctl.Ready.fresh {m : Ctl} {p : Port} {g tag : Nat} (h : m.Ready p g tag) : m.fresh.Ready p g tag := by
  obtain ⟨hq, hh, hpair, htag, hmode, hentry⟩ := h
  cases p
  · exact ⟨hq, hh, hpair, htag, hmode, hentry⟩
  · exact ⟨hq, hh, hpair, htag, hmode, hentry⟩

theorem Ctl.Answers.fresh {m : Ctl} {p : Port} {g : Nat} (h : m.Answers p g) : m.fresh.Answers p g := by
  cases p
  · exact h
  · exact h

/-- The frame of a config access of either kind to an unassigned range. -/
theorem Ends.of_configGap {s : State} {p : Port} {g : Fin 16} {op : Nat} (tag : BitVec 14) (session : BitVec 18) (caddr : BitVec 24)
    (data : Nat) (hop : op = 4 ∨ op = 5) (hr : s.ctl.Ready p g.val tag.toNat) (hans : s.ctl.Answers p g.val)
    (hal : caddr.toNat % 4 = 0) (hgap : configGap caddr.toNat 4 = true) :
    Ends s (run s fun _ m => m.header p g.val (configHeader op tag.toNat session.toNat caddr.toNat data) none none)
      [(F.PA_REQERR_CFG_BLOCK, p.idx)]
      (s.ctl.setPort p ((s.ctl.port p).answered g.val
        (.cpl tag.toNat 8 none false none session.toNat (.fresh false) s.ctl.now))) := by
  have hport : s.ctl.fresh.port p = s.ctl.port p := by cases p <;> rfl
  have he := Ctl.header_configGap data hop hr.fresh hans.fresh g.isLt tag.isLt session.isLt caddr.isLt hal hgap
  rw [hport, Ctl.fresh_now] at he
  refine Ends.of_effect he ?_ (by simp) (by simp) ?_ ?_
  · refine Ctl.Quiet.setPort ?_ p ?_
    · exact hr.quiet
    · exact hr.quiet.reqs p
  · exact fun f i hn => (Ctl.get_setPort _ _ _ _ _).trans (Ctl.SameFlds.set s.ctl.fresh.noted F.PA_REQERR_CFG_BLOCK p.idx 1 f i hn)
  · rw [Ctl.rest_setPort, Ctl.rest_of_set, Ctl.rest_of_noted, Ctl.rest_of_fresh, Ctl.rest_setPort]
    rfl

end Sys2Proof.Machine

namespace Sys2Proof.StackAnatomy

open Sys2Proof.Machine

/-- Settles O27: the header is refused as it arrives, by the same steps for a read and a write. -/
theorem configGap : Obligations.ConfigGap := by
  unfold Obligations.ConfigGap
  intro s p g tag session caddr data m hready hanswers hal hgap
  exact ⟨⟨_, rfl, Ends.of_configGap tag session caddr 0 (.inl rfl) hready hanswers hal hgap⟩,
    ⟨_, rfl, Ends.of_configGap tag session caddr data.toNat (.inr rfl) hready hanswers hal hgap⟩⟩

end Sys2Proof.StackAnatomy
end

section
/-!
Disturbance and failing bundles (R15, R16, R156 to R159, R162): what each command does to its PC, and its frame.
-/

namespace Sys2Proof.Machine

/-! ## Alerts -/

/-- No neighbour refresh around a row is pending, due or under way. -/
def Ctl.NoNref (m : Ctl) (pc : Nat) (b : BankIx) (row : Nat) : Prop :=
  (∀ w ∈ (m.pc pc).nrefs, w.row ≠ ⟨b, row⟩) ∧ (⟨b, row⟩ : Row) ∉ (m.pc pc).nrefDue ∧ ((m.pc pc).bank b).nref ≠ some row

/-- A neighbour refresh around a row cannot wait for a transit (R158). -/
def Ctl.NrefAtOnce (m : Ctl) (pc : Nat) (b : BankIx) (row : Nat) : Prop :=
  2 * m.actLimit pc ≤ Sparse.getD m.acts (rowIx pc b row) 0 ∨ m.hotDie (b / 16) = true ∨ 64 ≤ (m.pc pc).nrefs.length

/-- The PC once a neighbour refresh waits for the transit after an eclipse of its die: the one about to begin, or the one after the
latest (R157). -/
def Ctl.nrefWaiting (m : Ctl) (pc : Nat) (b : BankIx) (row : Nat) : Pc :=
  { m.pc pc with nrefs := (m.pc pc).nrefs ++
      [{ row := ⟨b, row⟩, ecl := if (m.die (b / 16)).st = .cut then none else (m.die (b / 16)).ecl }] }

/-- The PC once a neighbour refresh is due at once (R158). -/
def Ctl.nrefAdded (m : Ctl) (pc : Nat) (b : BankIx) (row : Nat) : Pc :=
  { m.pc pc with nrefDue := (m.pc pc).nrefDue ++ [⟨b, row⟩] }

/-- A row whose count is below the threshold is left alone (R156). -/
theorem Ctl.alert_below {m : Ctl} {pc : Nat} {b : BankIx} {row : Nat}
    (h : Sparse.getD m.acts (rowIx pc b row) 0 < m.actLimit pc) : m.alert pc b row = m := by
  simp [Ctl.alert, h]

/-- Counting an alert changes neither the threshold nor which dies are hot. -/
theorem Ctl.bump_alerts (m : Ctl) {pc : Nat} (hpc : pc < 64) (d : Nat) :
    (m.bump F.CH_ACT_ALERTS pc).actLimit pc = m.actLimit pc ∧ (m.bump F.CH_ACT_ALERTS pc).hotDie d = m.hotDie d := by
  rw [Ctl.bump_eq]
  generalize min (m.get F.CH_ACT_ALERTS pc + 1) (2 ^ F.CH_ACT_ALERTS.width - 1) = v
  have hother : ∀ f : Fld, f.id ≠ F.CH_ACT_ALERTS.id → ∀ i < 1048576, (m.set F.CH_ACT_ALERTS pc v).get f i = m.get f i :=
    fun f hf i hi => m.get_set_fld v hf (by omega) hi
  have hmap := hother F.ORB_HOTMAP_HOT (by decide) 0 (by decide)
  have hhot := hother F.THM_HOT_HOT (by decide) 0 (by decide)
  have hmode := hother F.GL_MODE_STATE (by decide) 0 (by decide)
  have hin : ∀ l, (m.set F.CH_ACT_ALERTS pc v).inMode l = m.inMode l := fun l => by
    unfold Ctl.inMode Ctl.mode; rw [hmode, Ctl.set_power]
  exact ⟨by unfold Ctl.actLimit; rw [hother _ (by decide) _ (by omega)],
    by unfold Ctl.hotDie; rw [hin, hmap, hhot, Ctl.set_orb]⟩

/-- A row that has reached the threshold is counted, and what follows turns on whether its refresh may wait (R156, R158). -/
theorem Ctl.alert_counted {m : Ctl} {pc : Nat} {b : BankIx} {row : Nat} (hpc : pc < 64)
    (h : m.actLimit pc ≤ Sparse.getD m.acts (rowIx pc b row) 0) (hn : m.NoNref pc b row) :
    (m.NrefAtOnce pc b row → m.alert pc b row = (m.bump F.CH_ACT_ALERTS pc).nrefNow pc b row) ∧
      (¬ m.NrefAtOnce pc b row → m.alert pc b row = (m.bump F.CH_ACT_ALERTS pc).setPc pc (m.nrefWaiting pc b row)) := by
  obtain ⟨hwait, hdue, hrun⟩ := hn
  obtain ⟨hlimit, hhot⟩ := m.bump_alerts hpc (b / 16)
  have hpends : (m.pc pc).nrefPends b row = false := by simpa [Pc.nrefPends] using hwait
  have hskip : (decide (Sparse.getD m.acts (rowIx pc b row) 0 < m.actLimit pc) || (m.pc pc).nrefPends b row ||
      (m.pc pc).nrefDue.contains ⟨b, row⟩ || ((m.pc pc).bank b).nref == some row) = false := by
    simp [hpends, hdue, hrun, h]
  have hatOnce : (decide (2 * (m.bump F.CH_ACT_ALERTS pc).actLimit pc ≤ Sparse.getD m.acts (rowIx pc b row) 0) ||
      (m.bump F.CH_ACT_ALERTS pc).hotDie (b / 16) || decide (64 ≤ (m.pc pc).nrefs.length)) = true ↔ m.NrefAtOnce pc b row := by
    simp [hlimit, hhot, Ctl.NrefAtOnce, or_assoc]
  unfold Ctl.alert
  simp only [hskip, Bool.false_eq_true, if_false]
  exact ⟨fun hnow => if_pos (hatOnce.mpr hnow), fun hlater => if_neg (mt hatOnce.mp hlater)⟩

/-- A refresh at once around a row with none is due, counted and reported (R158, R159). -/
theorem Ctl.nrefNow_of_noNref {m : Ctl} {pc : Nat} {b : BankIx} {row : Nat} (hn : m.NoNref pc b row) :
    ∃ info, m.nrefNow pc b row =
      ((m.bump F.CH_ACT_IMMEDIATE pc).setPc pc (m.nrefAdded pc b row)).raiseAs 0x103 info false := by
  obtain ⟨hwait, -, -⟩ := hn
  have hkeep : ((m.pc pc).nrefs.filter fun n => n.row != (⟨b, row⟩ : Row)) = (m.pc pc).nrefs :=
    List.filter_eq_self.mpr fun w hw => by simpa using hwait w hw
  exact ⟨_, by rw [Ctl.nrefNow, Ctl.modPc_eq, hkeep, Ctl.raise_eq]; rfl⟩

/-! ## The refresh's end, IR drop and the TSV ladder -/

/-- The end of the refresh that a bank runs (R157). -/
theorem Ctl.nrefDone_running {m : Ctl} {pc : Nat} {b : BankIx} {row : Nat} (h : ((m.pc pc).bank b).nref = some row) :
    m.nrefDone pc b row = { m.withPc (max m.now (((m.pc pc).bank b).nrefAt + 60000)) pc
      ((m.pc pc).setBank b { (m.pc pc).bank b with nref := none, nrefAt := 0 }) with
        acts := Sparse.del m.acts (rowIx pc b row) } := by
  unfold Ctl.nrefDone
  simp only [h, beq_self_eq_true, if_true]
  rfl

/-- An IR-drop step below the last is raised and reported (R162). -/
theorem Ctl.irStep_below {m : Ctl} {pc : Nat} (h : m.get F.CH_STATUS_IRDROP pc < 3) :
    ∃ info, m.irStep pc = (m.set F.CH_STATUS_IRDROP pc (m.get F.CH_STATUS_IRDROP pc + 1)).raiseAs 0x102 info false :=
  ⟨_, if_pos h⟩

/-- A failing lane takes a spare of its strobe group (R15). -/
theorem Ctl.tsvFault_spared {m : Ctl} {pc sp : Nat} {lane : Fin 136} (hd : m.dark pc = false)
    (h : (m.pc pc).tsv.spareLane (groupOf lane) = some sp) :
    m.tsvFault pc (.lane lane) = m.setPc pc { m.pc pc with
      tsv := { (m.pc pc).tsv with lanes := (m.pc pc).tsv.lanes ++ [(lane.val, sp)] } } := by
  simp [Ctl.tsvFault, hd, h]

/-- The PC once a half has an unrepaired lane, as its first (R16). -/
def Ctl.halfLost (m : Ctl) (pc half : Nat) : Pc := { m.pc pc with tsv := { (m.pc pc).tsv with badHalf := [half] } }

/-- The first lane without a spare takes its half out of service, and the PC goes narrow on the other (R16). -/
theorem Ctl.tsvFault_narrow {m : Ctl} {pc : Nat} {lane : Fin 136} (hd : m.dark pc = false)
    (h : (m.pc pc).tsv.spareLane (groupOf lane) = none) (hb : (m.pc pc).tsv.badHalf = []) (hr : (m.pc pc).reset = none) :
    ∃ info, m.tsvFault pc (.lane lane) =
      (((m.set F.CH_STATUS_MODE pc 1).set F.CH_STATUS_HALF pc (1 - groupOf lane / 2)).setPc pc
        (m.halfLost pc (groupOf lane / 2))).raiseAs 0x100 info false := by
  refine ⟨infoPc pc 0 (1 - groupOf lane / 2), ?_⟩
  simp [Ctl.tsvFault, Ctl.goNarrow, Ctl.halfLost, hd, h, hb, hr, Ctl.set_setPc]

/-- A PC that works is not dark. -/
theorem Ctl.dark_of_pcLive {m : Ctl} {pc : Nat} (h : m.pcLive pc = true) : m.dark pc = false := by
  unfold Ctl.pcLive at h
  simpa using (Bool.and_eq_true_iff.mp h).2

/-! ## Frames of the commands -/

section
variable {s : State} {pc : Nat}

/-- An alert, an IR-drop step or a TSV failure of a PC that works takes its effect. -/
theorem run_live (hlive : s.ctl.pcLive pc = true) (f : Ctl → Ctl) :
    (run s fun _ m => if m.pcLive pc then f m else m) = run s fun _ m => f m := by
  have h : (if s.ctl.fresh.pcLive pc then f s.ctl.fresh else s.ctl.fresh) = f s.ctl.fresh := if_pos hlive
  simp only [run, h]

theorem exec_activationAlert {pc : Fin 64} (hlive : s.ctl.pcLive pc.val = true) (die : Fin 16) (group bank : Fin 4)
    (row : Fin 8272) : exec (.activationAlert pc die group bank row) s =
      .next (run s fun _ m => m.alert pc.val (die.val * 16 + (group.val * 4 + bank.val)) row.val) :=
  congrArg Host.Outcome.next (run_live hlive _)

theorem exec_irDropStep {pc : Fin 64} (hlive : s.ctl.pcLive pc.val = true) :
    exec (.irDropStep pc) s = .next (run s fun _ m => m.irStep pc.val) :=
  congrArg Host.Outcome.next (run_live hlive _)

theorem exec_tsvFault {pc : Fin 64} (hlive : s.ctl.pcLive pc.val = true) (e : TsvElem) :
    exec (.tsvFault pc e) s = .next (run s fun _ m => m.tsvFault pc.val e) :=
  congrArg Host.Outcome.next (run_live hlive _)

variable {b : BankIx} {row : Nat}

/-- An alert below the threshold has no effect. -/
theorem Ends.of_alert_below (hq : s.ctl.Quiet) (h : Sparse.getD s.ctl.acts (rowIx pc b row) 0 < s.ctl.actLimit pc) :
    Ends s (run s fun _ m => m.alert pc b row) [] s.ctl :=
  Ends.of_effect (x := s.ctl.fresh) (Ctl.alert_below h) hq rfl rfl (Ctl.SameFlds.refl s.ctl.fresh []) (by simp)

/-- An alert at the threshold whose refresh may wait: it is counted, and the row waits for a transit. -/
theorem Ends.of_alert_waits (hpc : pc < 64) (hq : s.ctl.Quiet)
    (h : s.ctl.actLimit pc ≤ Sparse.getD s.ctl.acts (rowIx pc b row) 0) (hn : s.ctl.NoNref pc b row)
    (hw : ¬ s.ctl.NrefAtOnce pc b row) :
    Ends s (run s fun _ m => m.alert pc b row) [(F.CH_ACT_ALERTS, pc)] (s.ctl.setPc pc (s.ctl.nrefWaiting pc b row)) ∧
      (run s fun _ m => m.alert pc b row).ctl.get F.CH_ACT_ALERTS pc =
        min (s.ctl.get F.CH_ACT_ALERTS pc + 1) (2 ^ F.CH_ACT_ALERTS.width - 1) := by
  have hix : pc < 1048576 := hpc.trans (by decide)
  have hx : s.ctl.fresh.alert pc b row = (s.ctl.fresh.bump F.CH_ACT_ALERTS pc).setPc pc (s.ctl.nrefWaiting pc b row) :=
    (Ctl.alert_counted (m := s.ctl.fresh) hpc h hn).2 hw
  have hquiet : ((s.ctl.fresh.bump F.CH_ACT_ALERTS pc).setPc pc (s.ctl.nrefWaiting pc b row)).Quiet :=
    Ctl.Quiet.setPc hq pc rfl
  have hfld : s.ctl.SameFlds (s.ctl.fresh.bump F.CH_ACT_ALERTS pc) [(F.CH_ACT_ALERTS, pc)] :=
    Ctl.SameFlds.bump s.ctl.fresh F.CH_ACT_ALERTS pc 1
  refine ⟨Ends.of_effect hx hquiet rfl rfl (hfld.setPc _ _) ?_, ?_⟩
  · rw [Ctl.rest_setPc, Ctl.bump_eq, Ctl.rest_of_set, Ctl.rest_of_fresh, Ctl.rest_setPc]
  · rw [get_of_effect hx hquiet rfl rfl _ (fkey_ne (by decide) hix (by decide)), Ctl.get_setPc, Ctl.get_bump_same,
      Ctl.get_fresh]

/-- The frame of a command that writes fields of a PC and raises one fault of a severity without reactions: `x` is the state in which
it raises. -/
theorem EndsRaised.of_pcFlds {g : Arr → Ctl → Ctl} {src info : Nat} {x m : Ctl} (fs : List Fld) (hpc : pc < 64) (hc : s.ctl.Calm src)
    (hsrc : src < 512) (hx : g s.arr s.ctl.fresh = x.raiseAs src info false) (hq : x.Quiet) (hr : x.raised = []) (he : x.edits = [])
    (hf : s.ctl.SameFlds x (fs.map fun f => (f, pc))) (hfs : ∀ f ∈ fs, f.id ∉ [413, 426, 427, 417, 416, 425])
    (hm : x.rest = m.rest) :
    EndsRaised s (run s g) src (fs.map fun f => (f, pc)) m ∧
      ∀ f : Fld, f.id ∉ [415, 427, 417, 416, 425] → (run s g).ctl.get f pc = x.get f pc := by
  have hix : pc < 1048576 := hpc.trans (by decide)
  have hids : ∀ e ∈ fs.map (fun f => (f, pc)), e.1.id ∉ [413, 426, 427, 417, 416, 425] ∧ e.2 < 1048576 :=
    List.forall_mem_map.mpr fun f h => ⟨hfs f h, hix⟩
  obtain ⟨hends, hget⟩ := EndsRaised.of_calm s g src info false _ m x hc hsrc hx hq hr he hf hids hm
  exact ⟨hends, fun f hid => hget f pc hid hix⟩

/-- An alert at the threshold whose refresh may not wait: it is counted as an alert and as an immediate refresh, due and reported. -/
theorem EndsRaised.of_alert_atOnce (hpc : pc < 64) (hq : s.ctl.Quiet) (hc : s.ctl.Calm 0x103)
    (h : s.ctl.actLimit pc ≤ Sparse.getD s.ctl.acts (rowIx pc b row) 0) (hn : s.ctl.NoNref pc b row)
    (hw : s.ctl.NrefAtOnce pc b row) :
    let t := run s fun _ m => m.alert pc b row
    EndsRaised s t 0x103 [(F.CH_ACT_ALERTS, pc), (F.CH_ACT_IMMEDIATE, pc)] (s.ctl.setPc pc (s.ctl.nrefAdded pc b row)) ∧
      t.ctl.get F.CH_ACT_ALERTS pc = min (s.ctl.get F.CH_ACT_ALERTS pc + 1) (2 ^ F.CH_ACT_ALERTS.width - 1) ∧
      t.ctl.get F.CH_ACT_IMMEDIATE pc = min (s.ctl.get F.CH_ACT_IMMEDIATE pc + 1) (2 ^ F.CH_ACT_IMMEDIATE.width - 1) := by
  have hix : pc < 1048576 := hpc.trans (by decide)
  obtain ⟨n, hndef⟩ : ∃ n, n = (s.ctl.fresh.bump F.CH_ACT_ALERTS pc).bump F.CH_ACT_IMMEDIATE pc := ⟨_, rfl⟩
  obtain ⟨info, hx⟩ : ∃ info, s.ctl.fresh.alert pc b row = (n.setPc pc (s.ctl.nrefAdded pc b row)).raiseAs 0x103 info false := by
    obtain ⟨info, hnow⟩ := Ctl.nrefNow_of_noNref (m := s.ctl.fresh.bump F.CH_ACT_ALERTS pc) hn
    exact ⟨info, ((Ctl.alert_counted (m := s.ctl.fresh) hpc h hn).1 hw).trans (hndef ▸ hnow)⟩
  have hfld : s.ctl.SameFlds n [(F.CH_ACT_ALERTS, pc), (F.CH_ACT_IMMEDIATE, pc)] :=
    hndef ▸ (Ctl.SameFlds.bump s.ctl.fresh _ _ _).trans (Ctl.SameFlds.bump _ _ _ _)
  have hrest : n.rest = s.ctl.rest := by
    rw [hndef, Ctl.bump_eq, Ctl.rest_of_set, Ctl.bump_eq, Ctl.rest_of_set, Ctl.rest_of_fresh]
  have hquiet : (n.setPc pc (s.ctl.nrefAdded pc b row)).Quiet :=
    Ctl.Quiet.setPc (hndef ▸ (hq.fresh.bump _ _).bump _ _) pc (by rw [hndef]; rfl)
  obtain ⟨hends, hget⟩ := EndsRaised.of_pcFlds (g := fun _ m => m.alert pc b row) [F.CH_ACT_ALERTS, F.CH_ACT_IMMEDIATE] hpc hc
    (by decide) hx hquiet (by rw [hndef]; rfl) (by rw [hndef]; rfl) (hfld.setPc _ _) (by decide)
    (m := s.ctl.setPc pc (s.ctl.nrefAdded pc b row)) (by rw [Ctl.rest_setPc, hrest, Ctl.rest_setPc])
  refine ⟨hends, (hget _ (by decide)).trans ?_, (hget _ (by decide)).trans ?_⟩
  · rw [Ctl.get_setPc, hndef, Ctl.bump_eq, Ctl.get_set_fld _ _ (by decide) hix hix, Ctl.get_bump_same, Ctl.get_fresh]
  · rw [Ctl.get_setPc, hndef, Ctl.get_bump_same, Ctl.bump_eq s.ctl.fresh, Ctl.get_set_fld _ _ (by decide) hix hix, Ctl.get_fresh]

/-- The end of a neighbour refresh clears the row's count (R157). -/
theorem Ends.of_nrefDone (hq : s.ctl.Quiet) (h : ((s.ctl.pc pc).bank b).nref = some row) :
    Ends s (run s fun _ m => m.nrefDone pc b row) [] { s.ctl.withPc (max s.ctl.now (((s.ctl.pc pc).bank b).nrefAt + 60000)) pc
      ((s.ctl.pc pc).setBank b { (s.ctl.pc pc).bank b with nref := none, nrefAt := 0 }) with
        acts := Sparse.del s.ctl.acts (rowIx pc b row) } :=
  Ends.of_effect (Ctl.nrefDone_running (m := s.ctl.fresh) h) (Ctl.Quiet.setPc hq pc rfl) rfl rfl
    (Ctl.SameFlds.of_flds rfl []) rfl

/-- An IR-drop step below the last is shown and reported (R162). -/
theorem EndsRaised.of_irStep (hpc : pc < 64) (hq : s.ctl.Quiet) (hc : s.ctl.Calm 0x102) (h : s.ctl.get F.CH_STATUS_IRDROP pc < 3) :
    let t := run s fun _ m => m.irStep pc
    EndsRaised s t 0x102 [(F.CH_STATUS_IRDROP, pc)] s.ctl ∧
      t.ctl.get F.CH_STATUS_IRDROP pc = s.ctl.get F.CH_STATUS_IRDROP pc + 1 := by
  obtain ⟨info, hx⟩ := Ctl.irStep_below (m := s.ctl.fresh) h
  obtain ⟨hends, hget⟩ := EndsRaised.of_pcFlds (g := fun _ m => m.irStep pc) (m := s.ctl) [F.CH_STATUS_IRDROP] hpc hc (by decide) hx hq
    rfl rfl (Ctl.SameFlds.set s.ctl.fresh _ _ _) (by decide) (by simp)
  refine ⟨hends, (hget _ (by decide)).trans ?_⟩
  rw [Ctl.get_set_same, Ctl.get_fresh]
  exact Nat.mod_eq_of_lt (show _ < 4 by omega)

/-- A lane that fails takes a spare of its strobe group (R15). -/
theorem Ends.of_tsvFault_spared {lane : Fin 136} {sp : Nat} (hq : s.ctl.Quiet) (hd : s.ctl.dark pc = false)
    (h : (s.ctl.pc pc).tsv.spareLane (groupOf lane) = some sp) :
    Ends s (run s fun _ m => m.tsvFault pc (.lane lane)) [] (s.ctl.setPc pc { s.ctl.pc pc with
      tsv := { (s.ctl.pc pc).tsv with lanes := (s.ctl.pc pc).tsv.lanes ++ [(lane.val, sp)] } }) :=
  Ends.of_effect (Ctl.tsvFault_spared (m := s.ctl.fresh) hd h) (Ctl.Quiet.setPc hq pc rfl) rfl rfl
    (Ctl.SameFlds.of_flds rfl []) rfl

/-- A lane that fails without a spare, as the first of its PC, leaves the PC narrow on the other half (R16). -/
theorem EndsRaised.of_tsvFault_narrow {lane : Fin 136} (hpc : pc < 64) (hq : s.ctl.Quiet) (hc : s.ctl.Calm 0x100)
    (hd : s.ctl.dark pc = false) (h : (s.ctl.pc pc).tsv.spareLane (groupOf lane) = none) (hb : (s.ctl.pc pc).tsv.badHalf = [])
    (hr : (s.ctl.pc pc).reset = none) :
    let t := run s fun _ m => m.tsvFault pc (.lane lane)
    EndsRaised s t 0x100 [(F.CH_STATUS_MODE, pc), (F.CH_STATUS_HALF, pc)] (s.ctl.setPc pc (s.ctl.halfLost pc (groupOf lane / 2))) ∧
      t.ctl.get F.CH_STATUS_MODE pc = 1 ∧ t.ctl.get F.CH_STATUS_HALF pc = 1 - groupOf lane / 2 := by
  have hix : pc < 1048576 := hpc.trans (by decide)
  obtain ⟨n, hndef⟩ : ∃ n, n = (s.ctl.fresh.set F.CH_STATUS_MODE pc 1).set F.CH_STATUS_HALF pc (1 - groupOf lane / 2) := ⟨_, rfl⟩
  obtain ⟨info, hx⟩ : ∃ info, s.ctl.fresh.tsvFault pc (.lane lane) =
      (n.setPc pc (s.ctl.halfLost pc (groupOf lane / 2))).raiseAs 0x100 info false :=
    hndef ▸ Ctl.tsvFault_narrow (m := s.ctl.fresh) hd h hb hr
  have hfld : s.ctl.SameFlds n [(F.CH_STATUS_MODE, pc), (F.CH_STATUS_HALF, pc)] :=
    hndef ▸ (Ctl.SameFlds.set s.ctl.fresh _ _ _).trans (Ctl.SameFlds.set _ _ _ _)
  have hrest : n.rest = s.ctl.rest := by rw [hndef, Ctl.rest_of_set, Ctl.rest_of_set, Ctl.rest_of_fresh]
  have hquiet : (n.setPc pc (s.ctl.halfLost pc (groupOf lane / 2))).Quiet :=
    Ctl.Quiet.setPc (hndef ▸ (hq.fresh.set _ _ _).set _ _ _) pc (by rw [hndef]; rfl)
  obtain ⟨hends, hget⟩ := EndsRaised.of_pcFlds (g := fun _ m => m.tsvFault pc (.lane lane)) [F.CH_STATUS_MODE, F.CH_STATUS_HALF]
    hpc hc (by decide) hx hquiet (by rw [hndef]; rfl) (by rw [hndef]; rfl) (hfld.setPc _ _) (by decide)
    (m := s.ctl.setPc pc (s.ctl.halfLost pc (groupOf lane / 2))) (by rw [Ctl.rest_setPc, hrest, Ctl.rest_setPc])
  refine ⟨hends, (hget _ (by decide)).trans ?_, (hget _ (by decide)).trans ?_⟩
  · rw [Ctl.get_setPc, hndef, Ctl.get_set_fld _ _ (by decide) hix hix, Ctl.get_set_same]
    rfl
  · rw [Ctl.get_setPc, hndef, Ctl.get_set_same]
    exact Nat.mod_eq_of_lt (show _ < 2 by omega)

end

end Sys2Proof.Machine

namespace Sys2Proof.StackAnatomy

open Sys2Proof.Machine

/-- Settles O33: each clause is the frame of its command, and the bank of an alert, `die * 16 + group * 4 + bank`, lies on its die. -/
theorem disturbance : Obligations.Disturbance := by
  unfold Obligations.Disturbance
  intro s pc die group bank row x b q k limit n d now idle alerts hq hlive
  have hpc := pc.isLt
  have hdie : b / 16 = die.val := by omega
  have hdark := Ctl.dark_of_pcLive hlive
  have hwaiting : s.ctl.nrefWaiting pc.val b row.val =
      { x with nrefs := x.nrefs ++ [{ row := q, ecl := if d.st = .cut then none else d.ecl }] } := by
    rw [Ctl.nrefWaiting, hdie]
  have hnow : s.ctl.NrefAtOnce pc.val b row.val ↔ now := by rw [Ctl.NrefAtOnce, hdie]; rfl
  have halert := exec_activationAlert hlive die group bank row
  refine ⟨fun hbelow => ⟨_, halert, Ends.of_alert_below hq hbelow⟩, fun hlimit hidle hlater => ?_,
    fun hlimit hidle hatOnce hcalm => ?_, fun hrun => ⟨_, rfl, Ends.of_nrefDone hq hrun⟩, fun hstep hcalm => ?_,
    fun lane sp hspare => ?_, fun lane hnone hhalf hreset hcalm => ?_⟩
  · obtain ⟨hends, hcount⟩ := Ends.of_alert_waits hpc hq hlimit hidle (mt hnow.mp hlater)
    exact ⟨_, halert, hwaiting ▸ hends, hcount⟩
  · exact ⟨_, halert, EndsRaised.of_alert_atOnce hpc hq hcalm hlimit hidle (hnow.mpr hatOnce)⟩
  · exact ⟨_, exec_irDropStep hlive, EndsRaised.of_irStep hpc hq hcalm hstep⟩
  · exact ⟨_, exec_tsvFault hlive _, Ends.of_tsvFault_spared hq hdark hspare⟩
  · exact ⟨_, exec_tsvFault hlive _, EndsRaised.of_tsvFault_narrow hpc hq hcalm hdark hnone hhalf hreset⟩

end Sys2Proof.StackAnatomy
end

section
/-!
Rules of the state that the statements of chapter 2 rest on: what the frame of a command says of a part of the state, a PC by the
table of PCs, and the core dies under the updates of their table.
-/

namespace Sys2Proof

/-- What a table finds at a key is listed there. -/
theorem Sparse.mem_of_find {α : Type} {t : Sparse α} {k : Nat} {v : α} (h : Sparse.find t k = some v) : (k, v) ∈ t := by
  induction t with
  | nil => simp at h
  | cons e t ih =>
    obtain ⟨j, w⟩ := e
    by_cases hj : j = k
    · simp only [Sparse.find, hj, if_true, Option.some.injEq] at h
      simp [hj, h]
    · simp only [Sparse.find, hj, if_false] at h
      exact List.mem_cons_of_mem _ (ih h)

end Sys2Proof

namespace Sys2Proof.Machine

/-! ## Parts of a state by the frame of a command -/

section
variable {s t : State} {l : List (Fld × Nat)} {m m' : Ctl} {src : Source}

/-- What a part of the state that is no register becomes by a frame. -/
theorem Ends.part {α : Type} (h : Ends s t l m) (part : Ctl → α) (hpart : ∀ n : Ctl, part n.rest = part n) :
    part t.ctl = part m := by
  rw [← hpart t.ctl, h.rest, hpart]

theorem Ends.of_rest (h : Ends s t l m) (hm : m.rest = m'.rest) : Ends s t l m' := ⟨h.pending, h.arr, h.flds, h.rest.trans hm⟩

theorem Ends.die (h : Ends s t l m) (d : Nat) : t.ctl.die d = m.die d := h.part (·.die d) fun _ => rfl

/-- The same of a part that the held reactions do not belong to, by the frame of a command that raises a fault. -/
theorem EndsRaised.part {α : Type} (h : EndsRaised s t src l m) (part : Ctl → α) (hpart : ∀ n : Ctl, part n.rest = part n)
    (hheld : ∀ (n : Ctl) q, part { n with held := q } = part n) : part t.ctl = part m :=
  (h.1.part part hpart).trans (hheld m _)

theorem EndsRaised.of_rest (h : EndsRaised s t src l m) (hm : m.rest = m'.rest) : EndsRaised s t src l m' := by
  refine ⟨h.1.of_rest ?_, h.2⟩
  exact congrArg (fun n : Ctl => { n with held := t.ctl.held }) hm

theorem EndsRaised.die (h : EndsRaised s t src l m) (d : Nat) : t.ctl.die d = m.die d :=
  h.part (·.die d) (fun _ => rfl) fun _ _ => rfl

/-- Two effects that agree on the state as the command starts. -/
theorem run_congr {g g' : Arr → Ctl → Ctl} (h : g s.arr s.ctl.fresh = g' s.arr s.ctl.fresh) : run s g = run s g' := by
  simp only [run, h]

/-- The next state of a command whose effect, the state `x`, leaves no request waiting, raises no fault and changes no byte. -/
theorem exec_of_effect {c : Instr} {g : Arr → Ctl → Ctl} {x : Ctl} (hc : exec c s = .next (run s g)) (hx : g s.arr s.ctl.fresh = x)
    (hq : x.Quiet) (hr : x.raised = []) (he : x.edits = []) (hf : s.ctl.SameFlds x l) :
    ∃ t, exec c s = .next t ∧ Ends s t l x ∧
      ∀ f i, fkey f i ≠ fkey F.FLT_STATUS_FAULTN 0 → t.ctl.get f i = x.get f i :=
  ⟨_, hc, Ends.of_effect hx hq hr he hf rfl, fun _ i h => get_of_effect hx hq hr he i h⟩

/-- The same of an effect that writes no register. -/
theorem exec_of_noField {c : Instr} {g : Arr → Ctl → Ctl} {x : Ctl} (hc : exec c s = .next (run s g)) (hx : g s.arr s.ctl.fresh = x)
    (hq : x.Quiet) (hr : x.raised = []) (he : x.edits = []) (hflds : x.flds = s.ctl.flds) : ∃ t, exec c s = .next t ∧ Ends s t [] x :=
  ⟨_, hc, Ends.of_effect hx hq hr he (Ctl.SameFlds.of_flds hflds []) rfl⟩

end

/-! ## Fields outside a frame -/

/-- A field of which no copy is listed reads as before. -/
theorem Ctl.SameFlds.get_eq {m n : Ctl} {l : List (Fld × Nat)} {f : Fld} {i : Nat} (h : m.SameFlds n l)
    (hf : ∀ e ∈ l, f.id ≠ e.1.id ∧ e.2 < 1048576) (hi : i < 1048576) : n.get f i = m.get f i := by
  refine h f i fun hc => ?_
  obtain ⟨e, he, hkey⟩ := List.mem_map.mp hc
  obtain ⟨hid, hcopy⟩ := hf e he
  exact fkey_ne hid hi hcopy hkey.symm

/-! ## A state as a command starts -/

@[simp] theorem Ctl.fresh_die (m : Ctl) (d : Nat) : m.fresh.die d = m.die d := rfl
@[simp] theorem Ctl.fresh_phasePs (m : Ctl) (p : Nat) : m.fresh.phasePs p = m.phasePs p := rfl
@[simp] theorem Ctl.fresh_phaseAt (m : Ctl) (p : Nat) : m.fresh.phaseAt p = m.phaseAt p := rfl
@[simp] theorem Ctl.fresh_eclOrbit (m : Ctl) (d : Nat) : m.fresh.eclOrbit d = m.eclOrbit d := rfl
@[simp] theorem Ctl.fresh_hotDie (m : Ctl) (d : Nat) : m.fresh.hotDie d = m.hotDie d := rfl
@[simp] theorem Ctl.fresh_dieKept (m : Ctl) (d : Nat) : m.fresh.dieKept d = m.dieKept d := rfl

/-! ## PCs -/

/-- What holds of every listed PC and of an untouched one holds of each PC. -/
theorem Ctl.pc_of_pcs {m : Ctl} {P : Pc → Prop} (hnew : P {}) (h : ∀ e ∈ m.pcs, P e.2) (p : Nat) : P (m.pc p) := by
  rcases Sparse.getD_cases m.pcs p {} with hp | ⟨j, hj⟩
  · unfold Ctl.pc; rw [hp]; exact hnew
  · exact h _ hj

/-- A fold of which no step changes the state leaves it. -/
theorem foldl_same {α β : Type} {f : β → α → β} {x : β} {l : List α} (h : ∀ a ∈ l, f x a = x) : l.foldl f x = x := by
  induction l with
  | nil => rfl
  | cons a l ih => rw [List.foldl_cons, h a (by simp), ih fun b hb => h b (by simp [hb])]

/-- With no background operation in a queue none is abandoned. -/
theorem Ctl.bgAbandon_none {m : Ctl} (h : ∀ e ∈ m.pcs, e.2.bg = []) (d : Nat) : m.bgAbandon d = m :=
  foldl_same fun e he => by rw [h e he]; rfl

/-- With no target pending none is dropped. -/
theorem Ctl.pruneTargets_none {m : Ctl} {p : Nat} (h : (m.pc p).targets = []) : m.pruneTargets p = m := by
  simp [Ctl.pruneTargets, h]

theorem Ctl.dropTargetsOf_none {m : Ctl} (h : ∀ p, (m.pc p).targets = []) (d : Nat) : m.dropTargetsOf d = m :=
  foldl_same fun p _ => by simp [h p]

/-! ## Core dies -/

@[simp] theorem Ctl.die_modDie_same (m : Ctl) (d : Nat) (f : Die → Die) : (m.modDie d f).die d = f (m.die d) :=
  Sparse.getD_setD_same _ _ _ _

theorem Ctl.die_modDie_other (m : Ctl) {d e : Nat} (f : Die → Die) (h : e ≠ d) : (m.modDie d f).die e = m.die e :=
  Sparse.getD_setD_other _ _ _ _ _ _ h

end Sys2Proof.Machine
end

section
/-!
Eclipses and refresh debt (R44, R47, R48, R58, R59, R151 to R153): the flush lead, the refresh of a die and its counters, and the
credit of every die.
-/

namespace Sys2Proof.Machine

/-! ## The refresh of a die -/

/-- A refreshed row of a die is forgotten in every PC that is not dark, with the row of the spare and reserved sub-array that the same
refresh covers (R12, R156). -/
theorem Ctl.acts_refreshRow (m : Ctl) (d row : Nat) {pc b r : Nat} (hpc : pc < 64) (hr : r < 8272) :
    Sparse.getD (m.refreshRow d row).acts (rowIx pc b r) 0 =
      if m.dark pc = false ∧ b / 16 = d ∧ (r = row ∨ row < 80 ∧ r = 8192 + row) then 0
      else Sparse.getD m.acts (rowIx pc b r) 0 := by
  have hkeep := Sparse.find_filter m.acts (fun k => m.dark (k / 8272 / 16 % 64) ||
    !((k / 8272 / 1024 == d) && (k % 8272 == row || (decide (row < 80) && k % 8272 == 8192 + row)))) (rowIx pc b r)
  have hpcOf : rowIx pc b r / 8272 / 16 % 64 = pc := by unfold rowIx; omega
  have hdieOf : rowIx pc b r / 8272 / 1024 = b / 16 := by unfold rowIx; omega
  have hrowOf : rowIx pc b r % 8272 = r := by unfold rowIx; omega
  have hcond : (m.dark pc || !((b / 16 == d) && (r == row || (decide (row < 80) && r == 8192 + row)))) = true ↔
      ¬ (m.dark pc = false ∧ b / 16 = d ∧ (r = row ∨ row < 80 ∧ r = 8192 + row)) := by
    cases m.dark pc <;> simp [imp_iff_not_or]
  unfold Ctl.refreshRow Sparse.getD
  rw [hkeep, hpcOf, hdieOf, hrowOf]
  simp only [hcond, ite_not, apply_ite (fun o : Option Nat => o.getD 0), Option.getD_none]

/-- What the refresh of several rows of a die, `row k` for each `k` of a list, does to the counts of activations. -/
theorem Ctl.refreshRows_effect (d : Nat) (row : Nat → Nat) (ks : List Nat) (m : Ctl) :
    ∃ acts, ks.foldl (fun m k => m.refreshRow d (row k)) m = { m with acts := acts } ∧
      (∀ pc < 64, m.dark pc = false → ∀ b, b / 16 = d → ∀ r < 8272,
        ((∃ k ∈ ks, r = row k) ∨ Sparse.getD m.acts (rowIx pc b r) 0 = 0) → Sparse.getD acts (rowIx pc b r) 0 = 0) ∧
      ∀ pc < 64, ∀ b, m.dark pc = true ∨ b / 16 ≠ d → ∀ r < 8272,
        Sparse.getD acts (rowIx pc b r) 0 = Sparse.getD m.acts (rowIx pc b r) 0 := by
  induction ks generalizing m with
  | nil => exact ⟨m.acts, rfl, by simp, fun _ _ _ _ _ _ => rfl⟩
  | cons k ks ih =>
    obtain ⟨acts, heq, hgone, hkept⟩ := ih (m.refreshRow d (row k))
    refine ⟨acts, heq, fun pc hpc hlit b hb r hr h => ?_, fun pc hpc b h r hr => ?_⟩
    · refine hgone pc hpc hlit b hb r hr ?_
      rw [Ctl.acts_refreshRow m d (row k) hpc hr]
      rcases h with ⟨j, hj, rfl⟩ | h
      · rcases List.mem_cons.mp hj with rfl | hj
        · exact .inr (if_pos ⟨hlit, hb, .inl rfl⟩)
        · exact .inl ⟨j, hj, rfl⟩
      · rw [h, ite_self]; exact .inr rfl
    · rw [hkept pc hpc b h r hr, Ctl.acts_refreshRow m d (row k) hpc hr]
      refine if_neg fun ⟨hlit, hb, _⟩ => ?_
      rcases h with h | h
      · exact absurd (hlit.symm.trans h) (by decide)
      · exact h hb

/-- A die after the refresh of its next rows: as many as the form of its eclipse covers (R44, R47, R58). -/
def Die.refreshed (x : Die) : Die :=
  { x with row := (x.row + formRows x.hot) % 8192, debt := x.debt - formRows x.hot }

/-- The refresh of a die in the form of its eclipse: its counters, and the activations that it forgets. -/
theorem Ctl.refreshDie_effect (m : Ctl) (d : Nat) :
    ∃ acts, m.refreshDie d = ({ m with acts := acts } : Ctl).modDie d Die.refreshed ∧
      (∀ pc < 64, m.dark pc = false → ∀ b, b / 16 = d → ∀ k < formRows (m.die d).hot,
        Sparse.getD acts (rowIx pc b (((m.die d).row + k) % 8192)) 0 = 0) ∧
      ∀ pc < 64, ∀ b, m.dark pc = true ∨ b / 16 ≠ d → ∀ r < 8272,
        Sparse.getD acts (rowIx pc b r) 0 = Sparse.getD m.acts (rowIx pc b r) 0 := by
  obtain ⟨acts, heq, hgone, hkept⟩ :=
    Ctl.refreshRows_effect d (fun k => ((m.die d).row + k) % 8192) (List.range (formRows (m.die d).hot)) m
  refine ⟨acts, ?_, fun pc hpc hlit b hb k hk => ?_, hkept⟩
  · unfold Ctl.refreshDie
    simp only [heq]
    rfl
  · exact hgone pc hpc hlit b hb _ (by omega) (.inl ⟨k, List.mem_range.mpr hk, rfl⟩)

/-! ## The flush lead -/

/-- A bank after a precharge. -/
def Bank.closed (k : Bank) : Bank := { k with row := none, pce := {}, spec := false }

@[simp] theorem Pc.bank_setBank_same (x : Pc) (b : BankIx) (k : Bank) : (x.setBank b k).bank b = k := Sparse.getD_setD_same _ _ _ _

theorem Pc.bank_setBank_other (x : Pc) {b c : BankIx} (k : Bank) (h : c ≠ b) : (x.setBank b k).bank c = x.bank c :=
  Sparse.getD_setD_other _ _ _ _ _ _ h

theorem Ctl.pc_setPc_other (m : Ctl) {p q : Nat} (x : Pc) (h : q ≠ p) : (m.setPc p x).pc q = m.pc q :=
  Sparse.getD_setD_other _ _ _ _ _ _ h

/-- A flush lead of a die can close its banks at once: no exchange return and no page-code load is under way, and each DIRTY entry
reads without an error. -/
def Ctl.Flushable (m : Ctl) (d : Nat) : Prop :=
  ∀ p b, b / 16 = d → ((m.pc p).bank b).rets = [] ∧ ((m.pc p).bank b).pce.loading = false ∧
    (((m.pc p).bank b).pce.st = .dirty → ((m.pc p).bank b).pce.err = [])

/-- From `m` to `n` some banks of a die are closed, no fault is raised and no request comes to wait. -/
structure Ctl.Closes (m n : Ctl) (d : Nat) : Prop where
  banks : ∀ p b, (n.pc p).bank b = (m.pc p).bank b ∨ b / 16 = d ∧ (n.pc p).bank b = ((m.pc p).bank b).closed
  raised : n.raised = m.raised
  quiet : m.Quiet → n.Quiet

theorem Ctl.Closes.refl (m : Ctl) (d : Nat) : m.Closes m d := ⟨fun _ _ => .inl rfl, rfl, id⟩

theorem Ctl.Closes.trans {m n k : Ctl} {d : Nat} (h : m.Closes n d) (h' : n.Closes k d) : m.Closes k d := by
  refine ⟨fun p b => ?_, h'.raised.trans h.raised, h'.quiet ∘ h.quiet⟩
  rcases h.banks p b with hn | ⟨hb, hn⟩ <;> rcases h'.banks p b with hk | ⟨hb', hk⟩ <;> rw [hk, hn]
  · exact .inl rfl
  · exact .inr ⟨hb', rfl⟩
  · exact .inr ⟨hb, rfl⟩
  · exact .inr ⟨hb, rfl⟩

/-- A bank that is closed stays so. -/
theorem Ctl.Closes.row_none {m n : Ctl} {d p b : Nat} (h : m.Closes n d) (hrow : ((m.pc p).bank b).row = none) :
    ((n.pc p).bank b).row = none := by
  rcases h.banks p b with hn | ⟨-, hn⟩ <;> rw [hn]
  · exact hrow
  · rfl

theorem Ctl.Closes.flushable {m n : Ctl} {d : Nat} (h : m.Closes n d) (hf : m.Flushable d) : n.Flushable d := by
  intro p b hb
  obtain ⟨hrets, hload, herr⟩ := hf p b hb
  rcases h.banks p b with hn | ⟨-, hn⟩ <;> rw [hn]
  · exact ⟨hrets, hload, herr⟩
  · exact ⟨hrets, rfl, fun _ => rfl⟩

/-- From `m` to `n` one bank of a PC becomes `k` and no other bank changes, no fault is raised and no request comes to wait. -/
structure Ctl.Touches (m n : Ctl) (p : Nat) (b : BankIx) (k : Bank) : Prop where
  bank : (n.pc p).bank b = k
  others : ∀ q c, ¬ (q = p ∧ c = b) → (n.pc q).bank c = (m.pc q).bank c
  raised : n.raised = m.raised
  quiet : m.Quiet → n.Quiet

theorem Ctl.Touches.trans {m n o : Ctl} {p : Nat} {b : BankIx} {k k' : Bank} (h : m.Touches n p b k) (h' : n.Touches o p b k') :
    m.Touches o p b k' :=
  ⟨h'.bank, fun q c hc => (h'.others q c hc).trans (h.others q c hc), h'.raised.trans h.raised, h'.quiet ∘ h.quiet⟩

/-- A change of one PC that leaves its banks but one and fails no code path. -/
theorem Ctl.Touches.setPc {m : Ctl} {p : Nat} {x : Pc} {b : BankIx} {k : Bank} (hbank : x.bank b = k)
    (hother : ∀ c, c ≠ b → x.bank c = (m.pc p).bank c) (hcode : x.codeErr = (m.pc p).codeErr) :
    m.Touches (m.setPc p x) p b k := by
  refine ⟨by rw [Ctl.pc_setPc]; exact hbank, fun q c hc => ?_, rfl, fun h => h.setPc p hcode⟩
  by_cases hq : q = p
  · subst hq
    rw [Ctl.pc_setPc]
    exact hother c fun h => hc ⟨rfl, h⟩
  · rw [Ctl.pc_setPc_other m x hq]

theorem Ctl.Touches.setBank (m : Ctl) (p : Nat) (b : BankIx) (k : Bank) : m.Touches (m.setPc p ((m.pc p).setBank b k)) p b k :=
  .setPc (Pc.bank_setBank_same _ b k) (fun _ hc => Pc.bank_setBank_other _ k hc) rfl

/-- The note of an issued command changes no bank. -/
theorem Ctl.Touches.note (m : Ctl) (p : Nat) (c : Cmd) (b : BankIx) (t : Nat) :
    m.Touches (m.note p c b t) p b ((m.pc p).bank b) :=
  .setPc rfl (fun _ _ => rfl) rfl

/-- A precharge closes its bank. -/
theorem Ctl.Touches.precharge (m : Ctl) (p : Nat) (b : BankIx) (t : Nat) :
    m.Touches (m.precharge p b t) p b ((m.pc p).bank b).closed := by
  have hnote := Ctl.Touches.note (m.setPc p ((m.pc p).setBank b ((m.pc p).bank b).closed)) p .pre b t
  rw [Ctl.pc_setPc, Pc.bank_setBank_same] at hnote
  exact (Ctl.Touches.setBank m p b _).trans hnote

/-- So does the write-back of a DIRTY entry that reads without an error, with auto-precharge. -/
theorem Ctl.Touches.writeBack {m : Ctl} {p : Nat} {b : BankIx} {row : Nat} (hrow : ((m.pc p).bank b).row = some row)
    (herr : ((m.pc p).bank b).pce.err = []) (t : Nat) :
    m.Touches (m.writeBack p b t true) p b ((m.pc p).bank b).closed := by
  obtain ⟨k, hk⟩ : ∃ k, k = (m.pc p).bank b := ⟨_, rfl⟩
  rw [← hk] at hrow herr ⊢
  obtain ⟨m', hm'⟩ : ∃ m', m' = (m.edit (.bytes (slotAddr p b row 34) (leBytes 32 k.pce.p0))).edit
      (.bytes (slotAddr p b row 35) (leBytes 32 k.pce.p1)) := ⟨_, rfl⟩
  obtain ⟨n, hn⟩ : ∃ n, n = (m'.setPc p ((m'.pc p).setBank b { k with pce := { k.pce with st := .clean } })).bump F.CH_WB p :=
    ⟨_, rfl⟩
  have hwrite : m.Touches n p b { k with pce := { k.pce with st := .clean } } := by
    rw [hn, hm']
    exact ⟨(Ctl.Touches.setBank _ p b _).bank, (Ctl.Touches.setBank m p b _).others, rfl, (Ctl.Touches.setBank m p b _).quiet⟩
  have heq : m.writeBack p b t true = (n.note p .wr b t).precharge p b (t + 4000) := by
    have hbank : ((m'.pc p).bank b) = k := by rw [hm', hk]; rfl
    rw [hn, Ctl.writeBack]
    simp only [Ctl.checkEntry, ← hk, herr, List.isEmpty_nil, if_true, hrow, Ctl.entryLost, Bool.not_true, Bool.false_eq_true, if_false,
      Ctl.modPc_eq, ← hm', hbank]
  have hpre := Ctl.Touches.precharge (n.note p .wr b t) p b (t + 4000)
  rw [(Ctl.Touches.note n p .wr b t).bank, hwrite.bank] at hpre
  rw [heq]
  exact (hwrite.trans (Ctl.Touches.note n p .wr b t)).trans hpre

/-- A bank of a die that can be closed at once is closed (R142, R152). -/
theorem Ctl.Touches.forceClose {m : Ctl} {p : Nat} {b : BankIx} {row : Nat} (hf : m.Flushable (b / 16))
    (hrow : ((m.pc p).bank b).row = some row) (a : Arr) (t : Nat) :
    m.Touches (m.forceClose a p b t) p b ((m.pc p).bank b).closed := by
  obtain ⟨hrets, hload, herr⟩ := hf p b rfl
  simp only [Ctl.forceClose, hrow, hload, hrets, Bool.false_eq_true, if_false, List.foldl_nil]
  split
  · next hdirty => exact Ctl.Touches.writeBack hrow (herr hdirty) _
  · exact Ctl.Touches.precharge m p b _

/-- A closed bank stays as it is. -/
theorem Ctl.forceClose_closed {m : Ctl} {p : Nat} {b : BankIx} (hrow : ((m.pc p).bank b).row = none) (a : Arr) (t : Nat) :
    m.forceClose a p b t = m := by
  simp [Ctl.forceClose, hrow]

theorem Ctl.Closes.forceClose {m : Ctl} {p : Nat} {b : BankIx} {d : Nat} (hb : b / 16 = d) (hf : m.Flushable d) (a : Arr) (t : Nat) :
    m.Closes (m.forceClose a p b t) d ∧ (((m.forceClose a p b t).pc p).bank b).row = none := by
  subst hb
  cases hrow : ((m.pc p).bank b).row with
  | none =>
    rw [Ctl.forceClose_closed hrow]
    exact ⟨.refl m _, hrow⟩
  | some row =>
    obtain ⟨hbank, hothers, hraised, hquiet⟩ := Ctl.Touches.forceClose hf hrow a t
    refine ⟨⟨fun q c => ?_, hraised, hquiet⟩, by rw [hbank]; rfl⟩
    by_cases hc : q = p ∧ c = b
    · obtain ⟨rfl, rfl⟩ := hc; exact .inr ⟨rfl, hbank⟩
    · exact .inl (hothers q c hc)

/-- The banks that a flush lead closes are of its die. -/
theorem Pc.mem_openOn {x : Pc} {d : Nat} {b : BankIx} (h : b ∈ x.openOn d) : b / 16 = d := by
  simp only [Pc.openOn, Pc.dirtyOf, List.mem_append, List.mem_map, List.mem_sorted, List.mem_filter, Bool.and_eq_true,
    beq_iff_eq] at h
  rcases h with ⟨e, ⟨-, hdie, -⟩, rfl⟩ | ⟨e, ⟨-, ⟨hdie, -⟩, -⟩, rfl⟩
  · exact hdie
  · exact hdie

/-- Every open bank of the die is among them. -/
theorem Pc.mem_openOn_of_row {x : Pc} {b : BankIx} (h : (x.bank b).row ≠ none) : b ∈ x.openOn (b / 16) := by
  have hlisted : (b, x.bank b) ∈ x.banks := by
    refine Sparse.mem_of_find ?_
    cases hfind : Sparse.find x.banks b with
    | none => exact absurd (by rw [Pc.bank, Sparse.getD, hfind]; rfl) h
    | some k => rw [Pc.bank, Sparse.getD, hfind]; rfl
  simp only [Pc.openOn, Pc.dirtyOf, List.mem_append, List.mem_map, List.mem_sorted, List.mem_filter]
  by_cases hdirty : (x.bank b).pce.st = .dirty
  · exact .inl ⟨_, ⟨hlisted, by simp [hdirty]⟩, rfl⟩
  · exact .inr ⟨_, ⟨hlisted, by simp [hdirty, Option.isSome_iff_ne_none, h]⟩, rfl⟩

/-- A flush lead closes the banks of a list one after another. -/
theorem Ctl.Closes.forceCloses {d : Nat} (a : Arr) (p t : Nat) (bs : List BankIx) (m : Ctl) (hf : m.Flushable d)
    (hbs : ∀ b ∈ bs, b / 16 = d) :
    m.Closes (bs.foldl (fun m b => m.forceClose a p b t) m) d ∧
      ∀ b ∈ bs, (((bs.foldl (fun m b => m.forceClose a p b t) m).pc p).bank b).row = none := by
  induction bs generalizing m with
  | nil => exact ⟨.refl m d, by simp⟩
  | cons b bs ih =>
    obtain ⟨hfirst, hclosed⟩ := Ctl.Closes.forceClose (p := p) (hbs b (by simp)) hf a t
    obtain ⟨hrest, hall⟩ := ih _ (hfirst.flushable hf) fun c hc => hbs c (by simp [hc])
    refine ⟨hfirst.trans hrest, fun c hc => ?_⟩
    rcases List.mem_cons.mp hc with rfl | hc
    · exact hrest.row_none hclosed
    · exact hall c hc

/-- A flush lead in the PCs of a list closes every bank of the die there. -/
theorem Ctl.Closes.flushPcs {d : Nat} (a : Arr) (t : Nat) (ps : List Nat) (m : Ctl) (hf : m.Flushable d) :
    let n := ps.foldl (fun m p => ((m.pc p).openOn d).foldl (fun m b => m.forceClose a p b t) m) m
    m.Closes n d ∧ ∀ p ∈ ps, ∀ b, b / 16 = d → ((n.pc p).bank b).row = none := by
  induction ps generalizing m with
  | nil => exact ⟨.refl m d, by simp⟩
  | cons p ps ih =>
    obtain ⟨hfirst, hclosed⟩ := Ctl.Closes.forceCloses a p t ((m.pc p).openOn d) m hf fun b hb => Pc.mem_openOn hb
    obtain ⟨hrest, hall⟩ := ih _ (hfirst.flushable hf)
    refine ⟨hfirst.trans hrest, fun q hq b hb => ?_⟩
    rcases List.mem_cons.mp hq with rfl | hq
    · refine hrest.row_none ?_
      by_cases hrow : ((m.pc q).bank b).row = none
      · exact hfirst.row_none hrow
      · exact hclosed b (hb ▸ Pc.mem_openOn_of_row hrow)
    · exact hall q hq b hb

theorem Ctl.Closes.flushDie {m : Ctl} {d : Nat} (hf : m.Flushable d) (a : Arr) (t : Nat) :
    m.Closes (m.flushDie a d t) d ∧ ∀ p < 64, ∀ b, b / 16 = d → (((m.flushDie a d t).pc p).bank b).row = none := by
  obtain ⟨hcloses, hall⟩ := Ctl.Closes.flushPcs a t (List.range 64) m hf
  exact ⟨hcloses, fun p hp => hall p (List.mem_range.mpr hp)⟩

/-- A flush lead of a die with no bank open does nothing. -/
theorem Ctl.flushDie_closed {m : Ctl} {d : Nat} (h : ∀ p b, b / 16 = d → ((m.pc p).bank b).row = none) (a : Arr) (t : Nat) :
    m.flushDie a d t = m :=
  foldl_same fun p _ => foldl_same fun b hb => Ctl.forceClose_closed (h p b (Pc.mem_openOn hb)) a t

/-! ## Frames of the eclipse commands -/

/-- The phase of the current orbit at which the next flush lead of a die begins: that of die 0 opens the next orbit (R44). -/
def leadPhase (d : Nat) : Nat := if d = 0 then 4096 else 256 * d

/-- The stack at the write cut-off of a die, with nothing to abandon or to drop (R151). -/
def Ctl.atCutOff (m : Ctl) (d : Nat) : Ctl :=
  (m.reach (m.phaseAt (leadPhase d - 20))).modDie d fun x =>
    { x with st := .cut, catchup := false, leadAt := some (m.phaseAt (leadPhase d)), ecl := some (m.eclOrbit d) }

section
variable {s : State} {die : Fin 16}

theorem Ends.of_writeCutOff (hq : s.ctl.Quiet) (hrun : s.ctl.orb.run = true) (hst : (s.ctl.die die.val).st = .quiet)
    (hecl : (s.ctl.die die.val).ecl ≠ some (s.ctl.eclOrbit die.val)) (hnow : s.ctl.now ≤ s.ctl.phaseAt (leadPhase die.val))
    (hpcs : ∀ e ∈ s.ctl.pcs, e.2.targets = [] ∧ e.2.bg = []) :
    ∃ t, exec (.writeCutOff die) s = .next t ∧ Ends s t [] (s.ctl.fresh.atCutOff die.val) := by
  have hpc : ∀ p, ((s.ctl.fresh.atCutOff die.val).pc p).targets = [] :=
    Ctl.pc_of_pcs (P := fun y => y.targets = []) rfl fun e he => (hpcs e he).1
  have hbg : (s.ctl.fresh.atCutOff die.val).bgAbandon die.val = s.ctl.fresh.atCutOff die.val :=
    Ctl.bgAbandon_none (m := s.ctl.fresh.atCutOff die.val) (fun e he => (hpcs e he).2) _
  refine exec_of_noField (s := s) rfl ((if_pos ?_).trans ?_) hq rfl rfl rfl
  · simpa [hrun, hst, hecl, leadPhase] using hnow
  · show (List.range 64).foldl Ctl.pruneTargets ((s.ctl.fresh.atCutOff die.val).bgAbandon die.val) = s.ctl.fresh.atCutOff die.val
    rw [hbg]
    exact foldl_same fun p _ => Ctl.pruneTargets_none (hpc p)

/-- A scheduled flush lead takes the form of its die's hot state (R44, R46). -/
def Ctl.atLead (m : Ctl) (d : Nat) : Ctl :=
  (m.reach ((m.die d).leadAt.getD m.now)).modDie d fun x => { x with st := .lead, hot := m.hotDie d }

/-- What FLUSH_LEAD does in the orbit of the eclipse that its die was cut off for. -/
theorem Ctl.flushLead_effect (hst : (s.ctl.die die.val).st = .cut) (hcatchup : (s.ctl.die die.val).catchup = false)
    (hecl : (s.ctl.die die.val).ecl = some s.ctl.bnd) :
    exec (.flushLead die) s = .next (run s fun a m => (m.atLead die.val).flushDie a die.val (m.atLead die.val).now) := by
  refine congrArg Host.Outcome.next (run_congr ?_)
  exact if_pos (by simp [hst, hcatchup, hecl])

theorem Ends.of_flushLead (hq : s.ctl.Quiet) (hst : (s.ctl.die die.val).st = .cut) (hcatchup : (s.ctl.die die.val).catchup = false)
    (hecl : (s.ctl.die die.val).ecl = some s.ctl.bnd) (hclosed : ∀ p b, b / 16 = die.val → ((s.ctl.pc p).bank b).row = none) :
    ∃ t, exec (.flushLead die) s = .next t ∧ Ends s t [] (s.ctl.fresh.atLead die.val) :=
  exec_of_noField (Ctl.flushLead_effect hst hcatchup hecl) (Ctl.flushDie_closed (m := s.ctl.fresh.atLead die.val) hclosed _ _) hq
    rfl rfl rfl

theorem Ctl.pcs_drive (m : Ctl) : m.drive.pcs = m.pcs := by
  rcases m.drive_cases with h | ⟨v, h⟩ <;> simp [h]

/-- The PCs of a state that a command leaves whose effect raises no fault and leaves no request waiting. -/
theorem pcs_run_quiet {g : Arr → Ctl → Ctl} (hq : (g s.arr s.ctl.fresh).Quiet) (hr : (g s.arr s.ctl.fresh).raised = []) :
    (run s g).ctl.pcs = (g s.arr s.ctl.fresh).pcs := by
  rw [run, Ctl.settle_quiet hq hr]
  exact Ctl.pcs_drive _

/-- A flush lead of a die whose banks can be closed at once closes them, and no other bank. -/
theorem banks_of_flushLead (hq : s.ctl.Quiet) (hst : (s.ctl.die die.val).st = .cut) (hcatchup : (s.ctl.die die.val).catchup = false)
    (hecl : (s.ctl.die die.val).ecl = some s.ctl.bnd) (hf : s.ctl.Flushable die.val) :
    ∃ t, exec (.flushLead die) s = .next t ∧ t.pending = s.pending ∧
      (∀ p < 64, ∀ b, b / 16 = die.val → ((t.ctl.pc p).bank b).row = none) ∧
      ∀ p < 64, ∀ b, b / 16 ≠ die.val → (t.ctl.pc p).bank b = (s.ctl.pc p).bank b := by
  obtain ⟨⟨hbanks, hraised, hquiet⟩, hclosed⟩ := Ctl.Closes.flushDie (m := s.ctl.fresh.atLead die.val) hf s.arr
    (s.ctl.fresh.atLead die.val).now
  have hpcs := pcs_run_quiet (s := s) (g := fun a m => (m.atLead die.val).flushDie a die.val (m.atLead die.val).now) (hquiet hq)
    hraised
  refine ⟨_, Ctl.flushLead_effect hst hcatchup hecl, run_pending _ _, ?_, ?_⟩ <;> intro p hp b hb <;> rw [Ctl.pc, hpcs]
  · exact hclosed p hp b hb
  · exact (hbanks p b).resolve_right fun h => hb h.1

/-- The stack as a die is refreshed, 24 phases after its lead began. -/
def Ctl.atRefresh (m : Ctl) (d : Nat) : Ctl := m.reach ((m.die d).leadAt.getD m.now + m.phasePs 24)

/-- ECLIPSE_REFRESH of a die in its lead, with the counts of activations that are left. -/
theorem Ends.of_eclipseRefresh (hq : s.ctl.Quiet) (hst : (s.ctl.die die.val).st = .lead) :
    ∃ acts t, exec (.eclipseRefresh die) s = .next t ∧
      Ends s t [] ((({ s.ctl.fresh.atRefresh die.val with acts := acts } : Ctl).modDie die.val Die.refreshed).modDie die.val fun x =>
        { x with st := .refresh }) ∧
      (∀ pc < 64, s.ctl.dark pc = false → ∀ b, b / 16 = die.val → ∀ k < formRows (s.ctl.die die.val).hot,
        Sparse.getD acts (rowIx pc b (((s.ctl.die die.val).row + k) % 8192)) 0 = 0) ∧
      ∀ pc < 64, ∀ b, s.ctl.dark pc = true ∨ b / 16 ≠ die.val → ∀ r < 8272,
        Sparse.getD acts (rowIx pc b r) 0 = Sparse.getD s.ctl.acts (rowIx pc b r) 0 := by
  obtain ⟨acts, heq, hacts⟩ := Ctl.refreshDie_effect (s.ctl.fresh.atRefresh die.val) die.val
  have heffect : ∃ t, exec (.eclipseRefresh die) s = .next t ∧ Ends s t [] ((({ s.ctl.fresh.atRefresh die.val with
      acts := acts } : Ctl).modDie die.val Die.refreshed).modDie die.val fun x => { x with st := .refresh }) := by
    refine exec_of_noField (s := s) rfl ((if_pos ?_).trans ?_) hq rfl rfl rfl
    · simp [hst]
    · exact congrArg (fun m : Ctl => m.modDie die.val fun x => { x with st := .refresh }) heq
  obtain ⟨t, ht, hends⟩ := heffect
  exact ⟨acts, t, ht, hends, hacts⟩

/-- The end of an eclipse (R45, R48): the transit of its die begins where its slot still runs. -/
def Ctl.atEnd (m : Ctl) (d : Nat) : Ctl :=
  let m := m.reach ((m.die d).leadAt.getD m.now + m.phasePs (if (m.die d).hot then 256 else 184))
  m.modDie d fun x =>
    { x with st := .quiet, catchup := false, leadAt := none, hot := false
             transit := !x.catchup && !x.hot && decide (256 * d + 184 ≤ m.phase) && decide (m.phase ≤ 256 * d + 255) }

theorem Ends.of_eclipseEnd (hq : s.ctl.Quiet) (hst : (s.ctl.die die.val).st = .refresh) :
    ∃ t, exec (.eclipseEnd die) s = .next t ∧ Ends s t [] (s.ctl.fresh.atEnd die.val) := by
  refine exec_of_noField (s := s) rfl ?_ hq rfl rfl rfl
  exact if_pos (by simp [hst])

end

end Sys2Proof.Machine

namespace Sys2Proof.OrbitTime

open Sys2Proof.Machine

/-- Settles O14: each clause is the effect of its command on the die. -/
theorem scheduledEclipse : Obligations.ScheduledEclipse := by
  unfold Obligations.ScheduledEclipse
  refine ⟨?_, fun s die hq hst hcatchup hecl hf => banks_of_flushLead hq hst hcatchup hecl hf⟩
  intro s die d x lead bnd others n hq
  refine ⟨fun hrun hst hecl hnow hpcs => ?_, fun hst hcatchup hecl hclosed => ?_, fun hst => ?_, fun hst => ?_⟩
  · obtain ⟨t, ht, hends⟩ := Ends.of_writeCutOff hq hrun hst hecl hnow hpcs
    have hdies := hends.part Ctl.dies Ctl.rest_dies
    refine ⟨t, ht, hends.of_rest ?_, (hends.die d).trans (Ctl.die_modDie_same _ _ _),
      fun e he => (hends.die e).trans (Ctl.die_modDie_other _ _ he)⟩
    rw [hdies]; rfl
  · obtain ⟨t, ht, hends⟩ := Ends.of_flushLead hq hst hcatchup hecl hclosed
    have hdies := hends.part Ctl.dies Ctl.rest_dies
    refine ⟨t, ht, hends.of_rest ?_, (hends.die d).trans (Ctl.die_modDie_same _ _ _),
      fun e he => (hends.die e).trans (Ctl.die_modDie_other _ _ he)⟩
    rw [hdies]; rfl
  · obtain ⟨acts, t, ht, hends, hgone, hkept⟩ := Ends.of_eclipseRefresh hq hst
    have hdies := hends.part Ctl.dies Ctl.rest_dies
    have hacts := hends.part Ctl.acts Ctl.rest_acts
    refine ⟨t, ht, hends.of_rest ?_, (hends.die d).trans ?_, fun e he => (hends.die e).trans ?_, ?_, ?_⟩
    · rw [hdies, hacts]; rfl
    · rw [Ctl.die_modDie_same, Ctl.die_modDie_same]; rfl
    · rw [Ctl.die_modDie_other _ _ he, Ctl.die_modDie_other _ _ he]; rfl
    · rw [hacts]; exact hgone
    · rw [hacts]; exact fun pc hpc b _ => hkept pc hpc b
  · obtain ⟨t, ht, hends⟩ := Ends.of_eclipseEnd hq hst
    have hdies := hends.part Ctl.dies Ctl.rest_dies
    have hphase := hends.part Ctl.phase fun _ => rfl
    refine ⟨t, ht, hends.of_rest ?_, (hends.die d).trans ?_, fun e he => (hends.die e).trans (Ctl.die_modDie_other _ _ he)⟩
    · rw [hdies]; rfl
    · rw [hphase]; exact Ctl.die_modDie_same _ _ _

end Sys2Proof.OrbitTime
end

section
/-!
Refresh debt and catch-up eclipses (R58, R59, R153): the credit of every die, and the eclipse that the retention sequencer inserts.
-/

namespace Sys2Proof.Machine

/-! ## Credits -/

/-- Nothing but the dies and the contents noted as lost differs. -/
def Ctl.OnlyDies (m n : Ctl) : Prop := n = { m with dies := n.dies, lost := n.lost }

/-- A die, and whether its contents are noted as lost, are as before. -/
def Ctl.SameDie (m n : Ctl) (e : Nat) : Prop := n.die e = m.die e ∧ bit n.lost e = bit m.lost e

/-- A credit interval of a die (R58, R394): a kept die has one row more to refresh, two while it is hot, and its contents are lost at a
debt of 8. -/
def Ctl.Credited (m n : Ctl) (e : Nat) : Prop :=
  (m.dieKept e = true → n.die e = { m.die e with debt := (m.die e).debt + formRows (m.hotDie e) } ∧
    bit n.lost e = (bit m.lost e || decide (8 ≤ (m.die e).debt + formRows (m.hotDie e)))) ∧
  (m.dieKept e = false → m.SameDie n e)

theorem Ctl.OnlyDies.trans {m n k : Ctl} (h : m.OnlyDies n) (h' : n.OnlyDies k) : m.OnlyDies k := by
  unfold Ctl.OnlyDies at *; rw [h', h]

theorem Ctl.OnlyDies.dieKept {m n : Ctl} (h : m.OnlyDies n) (e : Nat) : n.dieKept e = m.dieKept e := by rw [h]; rfl

theorem Ctl.OnlyDies.hotDie {m n : Ctl} (h : m.OnlyDies n) (e : Nat) : n.hotDie e = m.hotDie e := by rw [h]; rfl

theorem bit_or_two_pow (v d e : Nat) : bit (v ||| 2 ^ d) e = (bit v e || decide (d = e)) := by
  simp [bit, Nat.testBit_or, Nat.testBit_two_pow]

theorem Ctl.creditDie_effect (m : Ctl) (d : Nat) :
    m.OnlyDies (m.creditDie d) ∧ m.Credited (m.creditDie d) d ∧ ∀ e, e ≠ d → m.SameDie (m.creditDie d) e := by
  obtain ⟨x, hx⟩ : ∃ x, x = { m.die d with debt := (m.die d).debt + formRows (m.hotDie d) } := ⟨_, rfl⟩
  obtain ⟨n, hn⟩ : ∃ n, n = m.modDie d fun _ => x := ⟨_, rfl⟩
  have hdie : n.die d = x := by rw [hn, Ctl.die_modDie_same]
  have hother : ∀ e, e ≠ d → n.die e = m.die e := fun e he => by rw [hn, Ctl.die_modDie_other _ _ he]
  have hdebt : x.debt = (m.die d).debt + formRows (m.hotDie d) := by rw [hx]
  have hlost : n.lost = m.lost := by rw [hn]; rfl
  cases hkept : m.dieKept d with
  | false =>
    have heq : m.creditDie d = m := by simp [Ctl.creditDie, hkept]
    rw [heq]
    exact ⟨rfl, ⟨fun h => absurd (hkept.symm.trans h) (by decide), fun _ => ⟨rfl, rfl⟩⟩, fun _ _ => ⟨rfl, rfl⟩⟩
  | true =>
    have heq : m.creditDie d = if 8 ≤ x.debt then { n with lost := n.lost ||| 2 ^ d } else n := by
      have hmod : (m.modDie d fun x => { x with debt := x.debt + formRows (m.hotDie d) }) = n := by rw [hn, hx]; rfl
      simp only [Ctl.creditDie, hkept, Bool.not_true, Bool.false_eq_true, if_false, hmod, hdie]
    rw [heq]
    have hnot : ¬ m.dieKept d = false := by rw [hkept]; decide
    split
    · next h8 =>
      refine ⟨by rw [hn]; rfl, ⟨fun _ => ⟨hdie.trans hx, ?_⟩, fun h => absurd h hnot⟩, fun e he => ⟨hother e he, ?_⟩⟩
      · rw [bit_or_two_pow, hlost, ← hdebt]; simp [h8]
      · rw [bit_or_two_pow, hlost]; simp [Ne.symm he]
    · next h8 =>
      refine ⟨by rw [hn]; rfl, ⟨fun _ => ⟨hdie.trans hx, ?_⟩, fun h => absurd h hnot⟩,
        fun e he => ⟨hother e he, by rw [hlost]⟩⟩
      rw [hlost, ← hdebt]; simp [h8]

/-- A credit interval of the dies of a list without repetition. -/
theorem Ctl.creditDies_effect (ds : List Nat) (m : Ctl) (hds : ds.Nodup) :
    m.OnlyDies (ds.foldl Ctl.creditDie m) ∧ (∀ e ∈ ds, m.Credited (ds.foldl Ctl.creditDie m) e) ∧
      ∀ e, e ∉ ds → m.SameDie (ds.foldl Ctl.creditDie m) e := by
  induction ds generalizing m with
  | nil => exact ⟨rfl, by simp, fun _ _ => ⟨rfl, rfl⟩⟩
  | cons d ds ih =>
    obtain ⟨hd, hds⟩ := List.nodup_cons.mp hds
    obtain ⟨honly, hfirst, hkeeps⟩ := m.creditDie_effect d
    obtain ⟨honly', hrest, hkeeps'⟩ := ih (m.creditDie d) hds
    refine ⟨honly.trans honly', fun e he => ?_, fun e he => ?_⟩
    · rcases List.mem_cons.mp he with rfl | he
      · obtain ⟨hdie, hlost⟩ := hkeeps' e hd
        unfold Ctl.Credited Ctl.SameDie at hfirst ⊢
        rw [List.foldl_cons, hdie, hlost]
        exact hfirst
      · obtain ⟨hdie, hlost⟩ := hkeeps e fun h => hd (h ▸ he)
        have := hrest e he
        unfold Ctl.Credited Ctl.SameDie at this ⊢
        rwa [honly.dieKept, honly.hotDie, hdie, hlost] at this
    · obtain ⟨hne, hnot⟩ := not_or.mp (mt List.mem_cons.mpr he)
      exact ⟨(hkeeps' e hnot).1.trans (hkeeps e hne).1, (hkeeps' e hnot).2.trans (hkeeps e hne).2⟩

/-! ## Frames of the commands -/

section
variable {s : State}

theorem Ends.of_retentionCredit (hq : s.ctl.Quiet) :
    ∃ t, exec .retentionCredit s = .next t ∧ Ends s t [] { s.ctl with dies := t.ctl.dies, lost := t.ctl.lost } ∧
      ∀ e < 16, s.ctl.Credited t.ctl e := by
  obtain ⟨x, hx⟩ : ∃ x, x = (List.range 16).foldl Ctl.creditDie s.ctl.fresh := ⟨_, rfl⟩
  obtain ⟨honly, hcredit, -⟩ := Ctl.creditDies_effect (List.range 16) s.ctl.fresh List.nodup_range
  rw [← hx] at honly hcredit
  have heffect : ∃ t, exec .retentionCredit s = .next t ∧ Ends s t [] x := by
    refine exec_of_noField (s := s) rfl hx.symm ?_ ?_ ?_ ?_ <;> rw [honly]
    · exact hq
    all_goals rfl
  obtain ⟨t, ht, hends⟩ := heffect
  have hdies := hends.part Ctl.dies Ctl.rest_dies
  have hlost := hends.part Ctl.lost Ctl.rest_lost
  refine ⟨t, ht, hends.of_rest ?_, fun e he => ?_⟩
  · rw [hdies, hlost]; exact (congrArg Ctl.rest honly).trans rfl
  · have := hcredit e (List.mem_range.mpr he)
    unfold Ctl.Credited Ctl.SameDie at this ⊢
    rw [hends.die, hlost]
    exact this

variable {die : Fin 16}

/-- A die at the write cut-off of a catch-up eclipse (R59, R153). -/
def Die.caughtUp (x : Die) : Die := { x with st := .cut, catchup := true, transit := false, leadAt := none }

/-- CATCHUP_ECLIPSE of a die with nothing to abandon or to drop. -/
theorem EndsRaised.of_catchupEclipse (hq : s.ctl.Quiet) (hst : (s.ctl.die die.val).st = .quiet) (hdebt : 4 ≤ (s.ctl.die die.val).debt)
    (hkept : s.ctl.dieKept die.val = true) (hpcs : ∀ e ∈ s.ctl.pcs, e.2.targets = [] ∧ e.2.bg = []) (hcalm : s.ctl.Calm 0x062) :
    ∃ t, exec (.catchupEclipse die) s = .next t ∧
      EndsRaised s t 0x062 [(F.ORB_CATCHUP_COUNT, die.val)] (s.ctl.modDie die.val Die.caughtUp) ∧
      t.ctl.get F.ORB_CATCHUP_COUNT die.val =
        min (s.ctl.get F.ORB_CATCHUP_COUNT die.val + 1) (2 ^ F.ORB_CATCHUP_COUNT.width - 1) := by
  obtain ⟨x, hx⟩ : ∃ x, x = (s.ctl.fresh.modDie die.val Die.caughtUp).bump F.ORB_CATCHUP_COUNT die.val := ⟨_, rfl⟩
  have hix : die.val < 1048576 := by omega
  have hpc : ∀ p, ((x.raiseAs 0x062 0 false).pc p).targets = [] := by
    rw [hx]; exact Ctl.pc_of_pcs (P := fun y => y.targets = []) rfl fun e he => (hpcs e he).1
  have hbg : ∀ e ∈ (x.raiseAs 0x062 0 false).pcs, e.2.bg = [] := by rw [hx]; exact fun e he => (hpcs e he).2
  have hrun : exec (.catchupEclipse die) s = .next (run s fun _ m =>
      ((((m.modDie die.val Die.caughtUp).bump F.ORB_CATCHUP_COUNT die.val).raise 0x062).dropTargetsOf die.val).bgAbandon die.val) := by
    refine congrArg Host.Outcome.next (run_congr ?_)
    exact if_pos (by simp [hst, hdebt, hkept])
  have hflds : s.ctl.SameFlds x [(F.ORB_CATCHUP_COUNT, die.val)] := by
    rw [hx]; exact Ctl.SameFlds.bump (s.ctl.fresh.modDie die.val Die.caughtUp) _ _ _
  obtain ⟨hends, hget⟩ := EndsRaised.of_calm s (fun _ m =>
      ((((m.modDie die.val Die.caughtUp).bump F.ORB_CATCHUP_COUNT die.val).raise 0x062).dropTargetsOf die.val).bgAbandon die.val)
    0x062 0 false [(F.ORB_CATCHUP_COUNT, die.val)] x x hcalm (by decide)
    (by simp only [← hx, Ctl.raise_eq, Ctl.dropTargetsOf_none hpc, Ctl.bgAbandon_none hbg])
    (by rw [hx]; exact hq) (by rw [hx]; rfl) (by rw [hx]; rfl) hflds (by simpa using ⟨by decide, hix⟩) rfl
  refine ⟨_, hrun, hends.of_rest (by rw [hx]; rfl), (hget _ _ (by decide) hix).trans ?_⟩
  rw [hx, Ctl.get_bump_same]
  rfl

/-- The flush lead of a catch-up eclipse, in the next command slot (R59, R153). -/
def Ctl.atCatchupLead (m : Ctl) (d : Nat) : Ctl :=
  (m.reach (m.now + m.slotPs)).modDie d fun x => { x with st := .lead, hot := m.hotDie d, leadAt := some (m.now + m.slotPs) }

theorem Ctl.die_atCatchupLead_same (m : Ctl) (d : Nat) :
    (m.atCatchupLead d).die d = { m.die d with st := .lead, hot := m.hotDie d, leadAt := some (m.now + m.slotPs) } :=
  Ctl.die_modDie_same _ _ _

theorem Ctl.die_atCatchupLead_other (m : Ctl) {d e : Nat} (h : e ≠ d) : (m.atCatchupLead d).die e = m.die e :=
  Ctl.die_modDie_other _ _ h

/-- A PC with no bank in use and no read in hand is busy on no die. -/
theorem Pc.busyOn_idle {x : Pc} (h : x.banks = [] ∧ x.flights = [] ∧ x.curd = []) (d : Nat) : x.busyOn d = false := by
  obtain ⟨hbanks, hflights, hcurd⟩ := h
  simp [Pc.busyOn, hbanks, hflights, hcurd]

/-- CATCHUP_FLUSH_LEAD with nothing under way and no bank open: the lead, and the refresh with it. -/
theorem Ends.of_catchupFlushLead (hq : s.ctl.Quiet) (hst : (s.ctl.die die.val).st = .cut) (hcatchup : (s.ctl.die die.val).catchup = true)
    (hpcs : ∀ e ∈ s.ctl.pcs, e.2.banks = [] ∧ e.2.flights = [] ∧ e.2.curd = []) :
    ∃ acts t, exec (.catchupFlushLead die) s = .next t ∧
      Ends s t [] ((({ s.ctl.fresh.atCatchupLead die.val with acts := acts } : Ctl).modDie die.val Die.refreshed).modDie die.val
        fun x => { x with st := .refresh }) := by
  obtain ⟨acts, heq, -⟩ := Ctl.refreshDie_effect (s.ctl.fresh.atCatchupLead die.val) die.val
  have hbanks : ∀ p, ((s.ctl.fresh.atCatchupLead die.val).pc p).banks = [] :=
    Ctl.pc_of_pcs (P := fun y => y.banks = []) rfl fun e he => (hpcs e he).1
  have hflush : ∀ a t, (s.ctl.fresh.atCatchupLead die.val).flushDie a die.val t = s.ctl.fresh.atCatchupLead die.val :=
    Ctl.flushDie_closed fun p b _ => by rw [Pc.bank, hbanks p]; rfl
  have hidle : (s.ctl.fresh.pcs.any fun e => e.2.busyOn die.val) = false :=
    List.any_eq_false.mpr fun e he => by simp [Pc.busyOn_idle (hpcs e he)]
  have hrun : exec (.catchupFlushLead die) s = .next (run s fun a m =>
      (((m.atCatchupLead die.val).flushDie a die.val (m.now + m.slotPs)).refreshDie die.val).modDie die.val
        fun x => { x with st := .refresh }) := by
    refine congrArg Host.Outcome.next (run_congr ?_)
    exact if_pos (by simp only [Ctl.fresh_die, hst, hcatchup, hidle]; rfl)
  refine ⟨acts, exec_of_noField hrun ?_ hq rfl rfl rfl⟩
  show (((s.ctl.fresh.atCatchupLead die.val).flushDie s.arr die.val _).refreshDie die.val).modDie die.val _ = _
  rw [hflush, heq]

end

end Sys2Proof.Machine

namespace Sys2Proof.OrbitTime

open Sys2Proof.Machine

/-- Settles O15: each clause is the effect of its command on the dies. -/
theorem refreshDebt : Obligations.RefreshDebt := by
  unfold Obligations.RefreshDebt
  intro s die d x rows slot hq
  refine ⟨Ends.of_retentionCredit hq, fun hst hdebt hkept hpcs hcalm => ?_, fun hst hcatchup hpcs => ?_⟩
  · obtain ⟨t, ht, hends, hcount⟩ := EndsRaised.of_catchupEclipse hq hst hdebt hkept hpcs hcalm
    have hdies := hends.part Ctl.dies Ctl.rest_dies fun _ _ => rfl
    refine ⟨t, ht, hends.of_rest ?_, (hends.die d).trans (Ctl.die_modDie_same _ _ _), hcount,
      fun e he => (hends.die e).trans (Ctl.die_modDie_other _ _ he)⟩
    rw [hdies]; rfl
  · obtain ⟨acts, t, ht, hends⟩ := Ends.of_catchupFlushLead hq hst hcatchup hpcs
    have hdies := hends.part Ctl.dies Ctl.rest_dies
    have hacts := hends.part Ctl.acts Ctl.rest_acts
    have hnow : max s.ctl.now slot = slot := Nat.max_eq_right (Nat.le_add_right _ _)
    refine ⟨t, ht, hends.of_rest ?_, (hends.die d).trans ?_, fun e he => (hends.die e).trans ?_⟩
    · rw [hdies, hacts, ← hnow]; rfl
    · rw [Ctl.die_modDie_same, Ctl.die_modDie_same]
      show ({ ((s.ctl.fresh.atCatchupLead d).die d).refreshed with st := .refresh } : Die) = _
      rw [Ctl.die_atCatchupLead_same]
      rfl
    · rw [Ctl.die_modDie_other _ _ he, Ctl.die_modDie_other _ _ he]
      exact Ctl.die_atCatchupLead_other s.ctl.fresh he

end Sys2Proof.OrbitTime
end

section
/-!
Markers of the beat input (R32 to R37, R40, R42, R51, R52): a marker in its window, a missing one, and the edges of a returned beat.
-/

namespace Sys2Proof.Machine

/-! ## Bits of a frame -/

/-- The bits of the latest 64 markers, with one more. -/
def lastBits (l : List (Option Bool)) (b : Option Bool) : List (Option Bool) := (l ++ [b]).drop (l.length + 1 - 64)

/-- A frame with a bit missing is not accepted (R37). -/
theorem frameOk_missing (l : List (Option Bool)) : frameOk (lastBits l none) = none := by
  obtain ⟨f, hf⟩ : ∃ f, f = lastBits l none := ⟨_, rfl⟩
  have hmem : none ∈ f := by
    rw [hf, lastBits, List.drop_append_of_le_length (by omega)]
    simp
  have hshort : (f.filterMap id).length < f.length := List.length_filterMap_lt_length_iff_exists.mpr ⟨none, hmem, rfl⟩
  rw [← hf, frameOk]
  refine if_neg fun h => ?_
  simp only [Bool.and_eq_true, decide_eq_true_eq] at h
  omega

/-- A number of bits is below the power of two of their count. -/
theorem frameNum_lt (l : List Bool) (lo n : Nat) : frameNum l lo n < 2 ^ n := by
  unfold frameNum
  have hbits : ∀ bs : List Bool, bs.foldr (fun b acc => b2n b + 2 * acc) 0 < 2 ^ bs.length := by
    intro bs
    induction bs with
    | nil => simp
    | cons b bs ih =>
      have hb : b2n b ≤ 1 := by cases b <;> decide
      rw [List.foldr_cons, List.length_cons, Nat.pow_succ]
      omega
  exact (hbits _).trans_le (Nat.pow_le_pow_right (by decide) (List.length_take_le _ _))

/-- Record a bit. -/
def Ctl.noteBit (m : Ctl) (b : Option Bool) : Ctl := m.modOrb fun o => { o with frame := lastBits o.frame b }

theorem lastBits_eq (l : List (Option Bool)) (b : Option Bool) : (l ++ [b]).drop ((l ++ [b]).length - 64) = lastBits l b := by
  simp [lastBits]

/-- A bit that ends no frame is recorded, where the start of the frames is known or the latest 64 bits are none. -/
theorem Ctl.pushBit_within {m : Ctl} {b : Option Bool} {last : Option Bool}
    (hends : last.getD (m.orb.align == some (m.bnd % 64)) = false)
    (h : m.orb.synced = true ∨ frameOk (lastBits m.orb.frame b) = none) : m.pushBit b last = m.noteBit b := by
  unfold Ctl.pushBit
  simp only [lastBits_eq]
  cases hok : frameOk (lastBits m.orb.frame b) with
  | none =>
    refine if_pos ?_
    show (!last.getD (m.orb.align == some (m.bnd % 64))) = true
    rw [hends]
    rfl
  | some bs =>
    have hsynced : m.orb.synced = true := h.resolve_right (by rw [hok]; exact Option.some_ne_none bs)
    refine if_neg ?_
    show ¬ (last.getD (m.orb.align == some (m.bnd % 64)) || !m.orb.synced) = true
    rw [hends, hsynced]
    decide

/-- While the start of the frames is not known, every 64 bits that make up a frame are accepted (R36, R37). -/
theorem Ctl.pushBit_frame {m : Ctl} {b : Option Bool} {last : Option Bool} {bs : List Bool} (hsynced : m.orb.synced = false)
    (hok : frameOk (lastBits m.orb.frame b) = some bs) : m.pushBit b last = (m.noteBit b).acceptFrame bs := by
  unfold Ctl.pushBit
  simp only [lastBits_eq, hok]
  refine if_pos ?_
  show (_ || !m.orb.synced) = true
  rw [hsynced]
  simp

/-- The number that a frame gives at its end, and its flags (R36, R38). -/
def Ctl.numbered (m : Ctl) (bs : List Bool) : Ctl :=
  (((m.put F.ORB_STATUS_FLAGS (frameNum bs 48 8)).modOrb fun o => { o with synced := true, align := some (m.bnd % 64) }).put F.ORB_NOW
    ((frameNum bs 0 48 + 63) % 2 ^ 48)).put F.ORB_STATUS_NUMBER_VALID 1

@[simp] theorem Ctl.get_modOrb (m : Ctl) (f : Orb → Orb) (g : Fld) (i : Nat) : (m.modOrb f).get g i = m.get g i := rfl

theorem Ctl.rest_modOrb (m : Ctl) (f : Orb → Orb) : (m.modOrb f).rest = m.rest.modOrb f := rfl

/-- With none armed no commit is judged. -/
theorem Ctl.commitJudge_none {m : Ctl} (h : m.commit = none) : m.commitJudge = m := by
  simp [Ctl.commitJudge, h]

/-- The first frame since the lock gives the number, with no sleep to end and no commit to judge (R42). -/
theorem Ctl.acceptFrame_first {m : Ctl} (bs : List Bool) (hvalid : m.numValid = false) (hfirst : m.orb.first = false)
    (hcommit : m.commit = none) : m.acceptFrame bs = m.numbered bs := by
  have hinvalid : ((m.put F.ORB_STATUS_FLAGS (frameNum bs 48 8)).modOrb fun o =>
      { o with synced := true, align := some (m.bnd % 64) }).numValid = false := by
    rw [← hvalid, Ctl.numValid, Ctl.is, Ctl.get_modOrb, Ctl.put_eq, Ctl.get_set_fld _ _ (by decide) (by decide) (by decide)]
    rfl
  have hnotFirst : ¬ (m.numbered bs).orb.first = true := by
    show ¬ m.orb.first = true
    rw [hfirst]
    decide
  refine (if_pos (by rw [hinvalid]; rfl)).trans ?_
  exact (congrArg Ctl.commitJudge (if_neg hnotFirst)).trans (Ctl.commitJudge_none hcommit)

theorem Ctl.get_numbered (m : Ctl) (bs : List Bool) : (m.numbered bs).get F.ORB_NOW = (frameNum bs 0 48 + 63) % 2 ^ 48 ∧
    (m.numbered bs).get F.ORB_STATUS_NUMBER_VALID = 1 ∧ (m.numbered bs).get F.ORB_STATUS_FLAGS = frameNum bs 48 8 := by
  have hother : ∀ (n : Ctl) (f g : Fld) (v : Nat), g.id ≠ f.id → (n.put f v).get g = n.get g :=
    fun n f g v h => n.get_set_fld v h (by decide) (by decide)
  have hsame : ∀ (n : Ctl) (f : Fld) (v : Nat), v < 2 ^ f.width → (n.put f v).get f = v :=
    fun n f v h => (n.get_set_same f 0 v).trans (Nat.mod_eq_of_lt h)
  refine ⟨?_, hsame _ _ _ (by decide), ?_⟩
  · rw [Ctl.numbered, hother _ _ _ _ (by decide), hsame _ _ _ (show _ < 2 ^ 48 from Nat.mod_lt _ (by decide))]
  · rw [Ctl.numbered, hother _ _ _ _ (by decide), hother _ _ _ _ (by decide), Ctl.get_modOrb,
      hsame _ _ _ (show _ < 2 ^ 8 from frameNum_lt _ _ _)]

theorem Ctl.rest_numbered (m : Ctl) (bs : List Bool) :
    (m.numbered bs).rest = (m.modOrb fun o => { o with synced := true, align := some (m.bnd % 64) }).rest := by
  rw [Ctl.numbered, Ctl.put_eq, Ctl.rest_of_set, Ctl.put_eq, Ctl.rest_of_set, Ctl.rest_modOrb, Ctl.put_eq, Ctl.rest_of_set, Ctl.rest_modOrb]

theorem Ctl.SameFlds.numbered (m : Ctl) (bs : List Bool) :
    m.SameFlds (m.numbered bs) [(F.ORB_STATUS_FLAGS, 0), (F.ORB_NOW, 0), (F.ORB_STATUS_NUMBER_VALID, 0)] := by
  have hflags : m.SameFlds ((m.put F.ORB_STATUS_FLAGS (frameNum bs 48 8)).modOrb fun o =>
      { o with synced := true, align := some (m.bnd % 64) }) [(F.ORB_STATUS_FLAGS, 0)] := Ctl.SameFlds.put m _ _
  exact (hflags.trans (Ctl.SameFlds.put _ _ _)).trans (Ctl.SameFlds.put _ _ _)

/-! ## A marker in its window -/

/-- With neither link UP a marker is carried to no neighbour. -/
theorem Ctl.sendBeats_alone {m : Ctl} (h0 : m.plUp 0 = false) (h1 : m.plUp 1 = false) (b : Option Bool) : m.sendBeats b = m := by
  simp [Ctl.sendBeats, h0, h1]

theorem Ctl.die_follow (m : Ctl) (time d : Nat) : (m.follow time).die d =
    if d = 0 ∧ (m.die 0).leadAt.isSome = true ∧ (m.die 0).catchup = false ∧ (m.die 0).ecl = some m.bnd
    then { m.die d with leadAt := some time } else m.die d := by
  obtain ⟨late, hlate⟩ : ∃ late : Die → Bool, late = fun x => x.leadAt.isSome && !x.catchup && decide (x.ecl = some m.bnd) :=
    ⟨_, rfl⟩
  have heq : (m.follow time).die d = ((m.reach time).modDie 0 fun x => if late x then { x with leadAt := some time } else x).die d := by
    rw [hlate]; rfl
  rw [heq]
  by_cases hd : d = 0
  · subst hd
    rw [Ctl.die_modDie_same]
    show (if late (m.die 0) = true then _ else m.die 0) = _
    simp [hlate, and_assoc]
    rfl
  · rw [Ctl.die_modDie_other _ _ hd, if_neg fun h => hd h.1]
    rfl

/-- The phase is locked to the beat input, as `ORB_CFG.SOURCE` asks, it is neither slewed nor about to be stepped, and no neighbour
listens. -/
structure Ctl.OnBeat (m : Ctl) : Prop where
  run : m.orb.run = true
  state : m.orbState = osLocked
  source : m.orb.source = 0
  slew : m.orb.slew = 0
  cut : m.orb.cut = false
  cfg : m.get F.ORB_CFG_SOURCE = 0
  link0 : m.plUp 0 = false
  link1 : m.plUp 1 = false

theorem Ctl.OnBeat.follows {m : Ctl} (h : m.OnBeat) : m.follows 0 = true := by
  simp [Ctl.follows, h.state, h.source, h.slew, h.cut]

theorem Ctl.OnBeat.sourceOk {m : Ctl} (h : m.OnBeat) : m.sourceOk 0 = true := by
  simp [Ctl.sourceOk, h.cfg]

section
variable {s : State}

theorem exec_beatMarker (h : s.ctl.OnBeat) (offset : Int) (highNs : Nat) : exec (.beatMarker offset highNs) s =
    .next (run s fun _ m => m.inWindow offset (m.offTime offset) (bitOf highNs) none) := by
  have hfollows : s.ctl.fresh.follows 0 = true := h.follows
  have hok : s.ctl.fresh.sourceOk 0 = true := h.sourceOk
  refine congrArg Host.Outcome.next (run_congr ?_)
  refine (if_neg ?_).trans (if_pos hfollows)
  simp [h.run, hok]

/-- A marker of the current orbit, as far as its bit is recorded. -/
def Ctl.marked (m : Ctl) (offset : Int) (highNs : Nat) : Ctl := (m.follow (m.offTime offset)).noteBit (bitOf highNs)

/-- The first marker in the window of an orbit (R34). -/
theorem Ctl.inWindow_first {m : Ctl} {offset : Int} (hin : offset.natAbs ≤ 8) (hseen : m.orb.seen = false) (time : Nat)
    (b last : Option Bool) : m.inWindow offset time b last = ((m.follow time).pushBit b last).sendBeats b :=
  if_pos (by simp [hin, hseen])

/-- An edge outside the window, or a second one in it (R34). -/
theorem Ctl.inWindow_other {m : Ctl} {offset : Int} (h : 8 < offset.natAbs ∨ m.orb.seen = true) (time : Nat)
    (b last : Option Bool) : m.inWindow offset time b last = m := by
  refine if_neg fun hc => ?_
  simp only [Bool.and_eq_true, decide_eq_true_eq, Bool.not_eq_true'] at hc
  rcases h with h | h
  · omega
  · exact absurd (hc.2.symm.trans h) (by decide)

/-- The end of no frame at this boundary. -/
theorem Ctl.ends_false {m : Ctl} (h : m.orb.align ≠ some (m.bnd % 64)) :
    (none : Option Bool).getD (m.orb.align == some (m.bnd % 64)) = false :=
  beq_eq_false_iff_ne.mpr h

variable {offset : Int} {highNs : Nat}

/-- A marker within a frame opens the orbit and gives its bit. -/
theorem Ends.of_beatMarker_within (hq : s.ctl.Quiet) (h : s.ctl.OnBeat) (hin : offset.natAbs ≤ 8) (hseen : s.ctl.orb.seen = false)
    (hsynced : s.ctl.orb.synced = true) (hbetween : s.ctl.orb.align ≠ some (s.ctl.bnd % 64)) :
    ∃ t, exec (.beatMarker offset highNs) s = .next t ∧ Ends s t [] (s.ctl.fresh.marked offset highNs) := by
  refine exec_of_noField (exec_beatMarker h offset highNs) ?_ hq rfl rfl rfl
  show s.ctl.fresh.inWindow offset (s.ctl.fresh.offTime offset) (bitOf highNs) none = _
  rw [Ctl.inWindow_first (by exact hin) (by exact hseen), Ctl.pushBit_within (by exact Ctl.ends_false hbetween) (.inl (by exact hsynced))]
  exact Ctl.sendBeats_alone (m := s.ctl.fresh.marked offset highNs) h.link0 h.link1 _

/-- The last marker of the first frame since the lock gives the number as well. -/
theorem Ends.of_beatMarker_frame (hq : s.ctl.Quiet) (h : s.ctl.OnBeat) (hin : offset.natAbs ≤ 8) (hseen : s.ctl.orb.seen = false)
    (hsynced : s.ctl.orb.synced = false) (hvalid : s.ctl.numValid = false) (hfirst : s.ctl.orb.first = false)
    (hcommit : s.ctl.commit = none) {bs : List Bool} (hok : frameOk (lastBits s.ctl.orb.frame (bitOf highNs)) = some bs) :
    ∃ t, exec (.beatMarker offset highNs) s = .next t ∧
      Ends s t [(F.ORB_STATUS_FLAGS, 0), (F.ORB_NOW, 0), (F.ORB_STATUS_NUMBER_VALID, 0)]
        ((s.ctl.fresh.marked offset highNs).numbered bs) ∧
      t.ctl.orbit = (frameNum bs 0 48 + 63) % 2 ^ 48 ∧ t.ctl.numValid = true ∧
      t.ctl.get F.ORB_STATUS_FLAGS = frameNum bs 48 8 := by
  obtain ⟨x, hx⟩ : ∃ x, x = (s.ctl.fresh.marked offset highNs).numbered bs := ⟨_, rfl⟩
  have hflds : s.ctl.SameFlds x [(F.ORB_STATUS_FLAGS, 0), (F.ORB_NOW, 0), (F.ORB_STATUS_NUMBER_VALID, 0)] := by
    rw [hx]; exact Ctl.SameFlds.numbered (s.ctl.fresh.marked offset highNs) bs
  have hlink : ∀ l < 2, x.plUp l = s.ctl.plUp l := fun l hl => by
    rw [Ctl.plUp, hflds.get_eq (by decide) (by omega)]; rfl
  have heffect : s.ctl.fresh.inWindow offset (s.ctl.fresh.offTime offset) (bitOf highNs) none = x := by
    rw [Ctl.inWindow_first (by exact hin) (by exact hseen), Ctl.pushBit_frame (by exact hsynced) (by exact hok),
      Ctl.acceptFrame_first bs (by exact hvalid) (by exact hfirst) (by exact hcommit), hx]
    rw [hx] at hlink
    exact Ctl.sendBeats_alone ((hlink 0 (by decide)).trans h.link0) ((hlink 1 (by decide)).trans h.link1) _
  obtain ⟨hnow, hnumValid, hflags⟩ := (s.ctl.fresh.marked offset highNs).get_numbered bs
  rw [← hx] at hnow hnumValid hflags ⊢
  obtain ⟨t, ht, hends, hget⟩ := exec_of_effect (exec_beatMarker h offset highNs) heffect (by rw [hx]; exact hq) (by rw [hx]; rfl)
    (by rw [hx]; rfl) hflds
  refine ⟨t, ht, hends, (hget _ _ (by decide)).trans hnow, ?_, (hget _ _ (by decide)).trans hflags⟩
  rw [Ctl.numValid, Ctl.is, hget _ _ (by decide), hnumValid]
  rfl

/-- An edge outside the window, or a second one in it, is none. -/
theorem Ends.of_beatMarker_other (hq : s.ctl.Quiet) (h : s.ctl.OnBeat) (hother : 8 < offset.natAbs ∨ s.ctl.orb.seen = true) :
    ∃ t, exec (.beatMarker offset highNs) s = .next t ∧ Ends s t [] s.ctl.fresh :=
  exec_of_noField (exec_beatMarker h offset highNs) (Ctl.inWindow_other (by exact hother) _ _ _) hq rfl rfl rfl

end

/-! ## A missing marker -/

/-- A missing marker, counted and recorded as a bit (R34). -/
def Ctl.missedOne (m : Ctl) : Ctl :=
  ((m.bump F.ORB_EVENTS_MISSED).modOrb fun o => { o with seen := true, markAt := none }).noteBit none

theorem Ctl.SameFlds.missedOne (m : Ctl) : m.SameFlds m.missedOne [(F.ORB_EVENTS_MISSED, 0)] := Ctl.SameFlds.bump m _ _ _

theorem Ctl.rest_missedOne (m : Ctl) : m.missedOne.rest = (m.modOrb fun o =>
    { o with frame := lastBits o.frame none, seen := true, markAt := none }).rest := by
  rw [Ctl.missedOne, Ctl.noteBit, Ctl.rest_modOrb, Ctl.rest_modOrb, Ctl.bump_eq, Ctl.rest_of_set]
  rfl

theorem Ctl.missing_eq {m : Ctl} (h : m.OnBeat) (hseen : m.orb.seen = false) (hbetween : m.orb.align ≠ some (m.bnd % 64)) :
    m.missing = if m.orb.missed + 1 < 2 then m.missedOne.modOrb fun o => { o with missed := m.orb.missed + 1 }
      else m.missedOne.loseBeat := by
  have hgo : (!m.orb.run || !m.follows m.orb.source || m.orb.seen) = false := by
    simp [h.run, h.source, h.follows, hseen]
  have hbit : ((m.bump F.ORB_EVENTS_MISSED).modOrb fun o => { o with seen := true, markAt := none }).pushBit none none = m.missedOne :=
    Ctl.pushBit_within (by exact Ctl.ends_false hbetween) (.inr (frameOk_missing _))
  have hmissed : m.missedOne.orb.missed = m.orb.missed := rfl
  unfold Ctl.missing
  simp only [hgo, Bool.false_eq_true, if_false, hbit, hmissed]

/-- Free orbit (R51). -/
def Ctl.freed (m : Ctl) : Ctl :=
  ((m.put F.ORB_STATUS_STATE osFree).put F.ORB_STATUS_PHASE_LOCKED 0).modOrb fun o =>
    { o with source := 3, missed := 0, runs := [], frame := [], synced := false, markAt := none }

theorem Ctl.SameFlds.freed (m : Ctl) : m.SameFlds m.freed [(F.ORB_STATUS_STATE, 0), (F.ORB_STATUS_PHASE_LOCKED, 0)] :=
  fun f i hn => (Ctl.get_modOrb _ _ f i).trans (((Ctl.SameFlds.put m _ osFree).trans (Ctl.SameFlds.put _ _ 0)) f i hn)

theorem Ctl.rest_freed (m : Ctl) : m.freed.rest = (m.modOrb fun o =>
    { o with source := 3, missed := 0, runs := [], frame := [], synced := false, markAt := none }).rest := by
  rw [Ctl.freed, Ctl.rest_modOrb, Ctl.put_eq, Ctl.rest_of_set, Ctl.put_eq, Ctl.rest_of_set, Ctl.rest_modOrb]

theorem Ctl.Quiet.missedOne {m : Ctl} (h : m.Quiet) : m.missedOne.Quiet := h
theorem Ctl.Quiet.freed {m : Ctl} (h : m.Quiet) : m.freed.Quiet := h

/-- With no frame under way, and no link to borrow from, the lost beat leads to free orbit (R35, R51, R55). -/
theorem Ctl.loseBeat_free {m : Ctl} (halign : m.orb.align = none) (hcfg : m.get F.ORB_CFG_SOURCE = 0) :
    m.loseBeat = m.freed.raise 0x060 := by
  have hframe : m.cutFrame = m := by simp [Ctl.cutFrame, halign]
  have hborrow : m.borrowFrom = none := by simp [Ctl.borrowFrom, hcfg]
  unfold Ctl.loseBeat
  simp only [hframe, hborrow]
  rfl

section
variable {s : State}

theorem Ends.of_missingMarker_first (hq : s.ctl.Quiet) (h : s.ctl.OnBeat) (hseen : s.ctl.orb.seen = false)
    (hmissed : s.ctl.orb.missed = 0) (hbetween : s.ctl.orb.align ≠ some (s.ctl.bnd % 64)) :
    ∃ t, exec .missingMarker s = .next t ∧
      Ends s t [(F.ORB_EVENTS_MISSED, 0)] (s.ctl.fresh.missedOne.modOrb fun o => { o with missed := 1 }) ∧
      t.ctl.get F.ORB_EVENTS_MISSED = min (s.ctl.get F.ORB_EVENTS_MISSED + 1) (2 ^ F.ORB_EVENTS_MISSED.width - 1) := by
  have heffect : s.ctl.fresh.missing = s.ctl.fresh.missedOne.modOrb fun o => { o with missed := 1 } := by
    rw [Ctl.missing_eq (m := s.ctl.fresh) ⟨h.run, h.state, h.source, h.slew, h.cut, h.cfg, h.link0, h.link1⟩ hseen hbetween]
    simp only [Ctl.fresh_orb, hmissed]
    rfl
  obtain ⟨t, ht, hends, hget⟩ := exec_of_effect (s := s) (c := .missingMarker) rfl heffect hq rfl rfl
    (Ctl.SameFlds.missedOne s.ctl.fresh)
  exact ⟨t, ht, hends, (hget _ _ (by decide)).trans (Ctl.get_bump_same s.ctl.fresh _ _)⟩

theorem EndsRaised.of_missingMarker_second (hq : s.ctl.Quiet) (h : s.ctl.OnBeat) (hseen : s.ctl.orb.seen = false)
    (hmissed : s.ctl.orb.missed ≠ 0) (halign : s.ctl.orb.align = none) (hcalm : s.ctl.Calm 0x060) :
    ∃ t, exec .missingMarker s = .next t ∧
      EndsRaised s t 0x060 [(F.ORB_EVENTS_MISSED, 0), (F.ORB_STATUS_STATE, 0), (F.ORB_STATUS_PHASE_LOCKED, 0)]
        s.ctl.fresh.missedOne.freed ∧
      t.ctl.get F.ORB_STATUS_STATE = 2 ∧ t.ctl.get F.ORB_STATUS_PHASE_LOCKED = 0 := by
  obtain ⟨x, hx⟩ : ∃ x, x = s.ctl.fresh.missedOne.freed := ⟨_, rfl⟩
  have hcfg : s.ctl.fresh.missedOne.get F.ORB_CFG_SOURCE = 0 :=
    ((Ctl.SameFlds.missedOne s.ctl.fresh).get_eq (by decide) (by decide)).trans h.cfg
  have heffect : s.ctl.fresh.missing = x.raiseAs 0x060 0 false := by
    rw [Ctl.missing_eq (m := s.ctl.fresh) ⟨h.run, h.state, h.source, h.slew, h.cut, h.cfg, h.link0, h.link1⟩ hseen
      (by rw [Ctl.fresh_orb, halign]; exact (Option.some_ne_none _).symm)]
    rw [if_neg (by rw [Ctl.fresh_orb]; omega), Ctl.loseBeat_free (by exact halign) hcfg, hx]
    rfl
  have hflds : s.ctl.SameFlds x [(F.ORB_EVENTS_MISSED, 0), (F.ORB_STATUS_STATE, 0), (F.ORB_STATUS_PHASE_LOCKED, 0)] := by
    rw [hx]
    exact (Ctl.SameFlds.missedOne s.ctl.fresh).trans (Ctl.SameFlds.freed _)
  obtain ⟨hends, hget⟩ := EndsRaised.of_calm s (fun _ m => m.missing) 0x060 0 false _ x x hcalm (by decide) heffect
    (by rw [hx]; exact hq.fresh.missedOne.freed) (by rw [hx]; rfl) (by rw [hx]; rfl) hflds (by decide) rfl
  refine ⟨_, rfl, hx ▸ hends, (hget _ _ (by decide) (by decide)).trans ?_, (hget _ _ (by decide) (by decide)).trans ?_⟩
  · rw [hx, Ctl.freed, Ctl.get_modOrb, Ctl.put_eq _ F.ORB_STATUS_PHASE_LOCKED, Ctl.get_set_fld _ _ (by decide) (by decide) (by decide)]
    exact Ctl.get_set_same _ _ _ _
  · rw [hx, Ctl.freed, Ctl.get_modOrb]
    exact Ctl.get_set_same _ _ _ _

end

/-! ## A returned beat -/

/-- The position of an edge, in phases from boundary 0. -/
def Ctl.edgeAt (m : Ctl) (offset : Int) : Int := (m.bnd : Int) * 4096 + offset

/-- An edge that does not come one period after the one before begins a new run (R52). -/
theorem Ctl.edgeRun_new {m : Ctl} {src : Nat} {offset : Int}
    (h : ∀ e r, Sparse.getD m.orb.runs src [] = e :: r → 2 < (m.edgeAt offset - e - 4096).natAbs) :
    m.edgeRun src offset = [m.edgeAt offset] := by
  unfold Ctl.edgeRun
  cases hrun : Sparse.getD m.orb.runs src [] with
  | nil => rfl
  | cons e r => exact if_neg (Nat.not_le.mpr (h e r hrun))

/-- One that does goes on with the run. -/
theorem Ctl.edgeRun_next {m : Ctl} {src : Nat} {offset : Int} {e : Int} {r : List Int}
    (hrun : Sparse.getD m.orb.runs src [] = e :: r) (h : (m.edgeAt offset - e - 4096).natAbs ≤ 2) :
    m.edgeRun src offset = m.edgeAt offset :: e :: r := by
  unfold Ctl.edgeRun
  rw [hrun]
  exact if_pos h

/-- A run that is short of sixteen edges is kept. -/
theorem Ctl.edge_short {m : Ctl} {src : Nat} {offset : Int} (h : (m.edgeRun src offset).length < 16) (step : Bool) :
    m.edge src offset step = m.modOrb fun o => { o with runs := Sparse.put o.runs src (m.edgeRun src offset) } :=
  if_pos h

/-- The sixteenth edge of a run brings the phase to its source (R52). -/
theorem Ctl.edge_full {m : Ctl} {src : Nat} {offset : Int} (h : 16 ≤ (m.edgeRun src offset).length) :
    m.edge src offset false = (m.modOrb fun o => { o with frame := [], synced := false, missed := 0 }).moveTo src
      (meanOff (m.edgeRun src offset)) offset :=
  if_neg (Nat.not_lt.mpr h)

/-- Free orbit with `ORB_CFG.SOURCE` at BEAT, the phase neither slewed nor about to be stepped. -/
structure Ctl.Adrift (m : Ctl) : Prop where
  run : m.orb.run = true
  state : m.orbState = osFree
  slew : m.orb.slew = 0
  cut : m.orb.cut = false
  cfg : m.get F.ORB_CFG_SOURCE = 0

section
variable {s : State} {offset : Int}

/-- The time of an edge has come. -/
def Ctl.atEdge (m : Ctl) (offset : Int) : Ctl := m.reach (m.offTime offset)

theorem exec_beatRejoin (h : s.ctl.Adrift) (offset : Int) :
    exec (.beatRejoin offset) s = .next (run s fun _ m => (m.atEdge offset).edge 0 offset false) := by
  have hstate : s.ctl.fresh.orbState = osFree := h.state
  have hok : s.ctl.fresh.sourceOk 0 = true := by
    have hcfg : s.ctl.fresh.get F.ORB_CFG_SOURCE = 0 := h.cfg
    simp [Ctl.sourceOk, hcfg]
  refine congrArg Host.Outcome.next (run_congr ?_)
  exact if_pos (by simp [h.run, h.slew, h.cut, hstate, hok])

theorem Ends.of_beatRejoin_new (hq : s.ctl.Quiet) (h : s.ctl.Adrift)
    (hnew : ∀ e r, Sparse.getD s.ctl.orb.runs 0 [] = e :: r → 2 < (s.ctl.edgeAt offset - e - 4096).natAbs) :
    ∃ t, exec (.beatRejoin offset) s = .next t ∧ Ends s t [] ((s.ctl.fresh.atEdge offset).modOrb fun o =>
      { o with runs := Sparse.put o.runs 0 [s.ctl.edgeAt offset] }) := by
  have hrun : (s.ctl.fresh.atEdge offset).edgeRun 0 offset = [s.ctl.edgeAt offset] := Ctl.edgeRun_new hnew
  refine exec_of_noField (exec_beatRejoin h offset) ?_ hq rfl rfl rfl
  show (s.ctl.fresh.atEdge offset).edge 0 offset false = _
  rw [Ctl.edge_short (by rw [hrun]; exact (by decide : 1 < 16)), hrun]

/-- The stack at the sixteenth edge of a run, with what it knew of frames forgotten. -/
def Ctl.returned (m : Ctl) (offset : Int) : Ctl :=
  (m.atEdge offset).modOrb fun o => { o with frame := [], synced := false, missed := 0 }

theorem Ctl.get_locked (m : Ctl) : (m.locked 0).get F.ORB_STATUS_STATE = 1 ∧ (m.locked 0).get F.ORB_STATUS_PHASE_LOCKED = 1 := by
  refine ⟨Ctl.get_set_same (m.put F.ORB_STATUS_PHASE_LOCKED 1) F.ORB_STATUS_STATE 0 osLocked, ?_⟩
  exact (Ctl.get_set_fld (m.put F.ORB_STATUS_PHASE_LOCKED 1) (f := F.ORB_STATUS_STATE) osLocked (by decide) (by decide)
    (by decide)).trans (Ctl.get_set_same m F.ORB_STATUS_PHASE_LOCKED 0 1)

theorem Ctl.rest_locked (m : Ctl) :
    (m.locked 0).rest = (m.modOrb fun o => { o with source := 0, missed := 0, runs := [], slew := 0 }).rest := by
  rw [Ctl.rest_modOrb, ← Ctl.rest_of_set m F.ORB_STATUS_PHASE_LOCKED 0 1, ← Ctl.rest_of_set _ F.ORB_STATUS_STATE 0 osLocked]
  rfl

theorem Ctl.SameFlds.locked (m : Ctl) : m.SameFlds (m.locked 0) [(F.ORB_STATUS_PHASE_LOCKED, 0), (F.ORB_STATUS_STATE, 0)] :=
  (Ctl.SameFlds.put m F.ORB_STATUS_PHASE_LOCKED 1).trans (Ctl.SameFlds.put _ F.ORB_STATUS_STATE osLocked)

variable {e : Int} {r : List Int}

theorem exec_beatRejoin_full (h : s.ctl.Adrift) (hrun : Sparse.getD s.ctl.orb.runs 0 [] = e :: r)
    (hnext : (s.ctl.edgeAt offset - e - 4096).natAbs ≤ 2) (hlen : r.length = 14) :
    exec (.beatRejoin offset) s = .next (run s fun _ m =>
      (m.returned offset).moveTo 0 (meanOff (s.ctl.edgeAt offset :: e :: r)) offset) := by
  have hes : (s.ctl.fresh.atEdge offset).edgeRun 0 offset = s.ctl.edgeAt offset :: e :: r := Ctl.edgeRun_next hrun hnext
  rw [exec_beatRejoin h]
  refine congrArg Host.Outcome.next (run_congr ?_)
  show (s.ctl.fresh.atEdge offset).edge 0 offset false = _
  rw [Ctl.edge_full (by rw [hes]; simp [hlen]), hes]
  rfl

variable (hq : s.ctl.Quiet) (h : s.ctl.Adrift) (hrun : Sparse.getD s.ctl.orb.runs 0 [] = e :: r)
  (hnext : (s.ctl.edgeAt offset - e - 4096).natAbs ≤ 2) (hlen : r.length = 14)
include hq h hrun hnext hlen

/-- A phase that is in place is locked. -/
theorem Ends.of_beatRejoin_inPlace (hmean : meanOff (s.ctl.edgeAt offset :: e :: r) = 0) :
    ∃ t, exec (.beatRejoin offset) s = .next t ∧
      Ends s t [(F.ORB_STATUS_STATE, 0), (F.ORB_STATUS_PHASE_LOCKED, 0)] ((s.ctl.fresh.returned offset).locked 0) ∧
      t.ctl.get F.ORB_STATUS_STATE = 1 ∧ t.ctl.get F.ORB_STATUS_PHASE_LOCKED = 1 := by
  have hflds : s.ctl.SameFlds ((s.ctl.fresh.returned offset).locked 0)
      [(F.ORB_STATUS_STATE, 0), (F.ORB_STATUS_PHASE_LOCKED, 0)] :=
    (Ctl.SameFlds.locked (s.ctl.fresh.returned offset)).mono fun x hx => by simpa [or_comm] using hx
  obtain ⟨t, ht, hends, hget⟩ := exec_of_effect (exec_beatRejoin_full h hrun hnext hlen) (if_pos hmean) hq rfl rfl hflds
  obtain ⟨hstate, hlocked⟩ := Ctl.get_locked (s.ctl.fresh.returned offset)
  exact ⟨t, ht, hends, (hget _ _ (by decide)).trans hstate, (hget _ _ (by decide)).trans hlocked⟩

/-- A phase that is off by at most 64 phases is slewed. -/
theorem Ends.of_beatRejoin_near (hmean : meanOff (s.ctl.edgeAt offset :: e :: r) ≠ 0)
    (hnear : (meanOff (s.ctl.edgeAt offset :: e :: r)).natAbs ≤ 64) :
    ∃ t, exec (.beatRejoin offset) s = .next t ∧ Ends s t [] ((s.ctl.fresh.returned offset).modOrb fun o =>
      { o with source := 0, slew := meanOff (s.ctl.edgeAt offset :: e :: r), runs := [] }) :=
  exec_of_noField (exec_beatRejoin_full h hrun hnext hlen) ((if_neg hmean).trans (if_pos hnear)) hq rfl rfl rfl

/-- A phase that is off by more lets the next marker end the orbit. -/
theorem Ends.of_beatRejoin_far (hfar : 64 < (meanOff (s.ctl.edgeAt offset :: e :: r)).natAbs) :
    ∃ t, exec (.beatRejoin offset) s = .next t ∧ Ends s t [] ((s.ctl.fresh.returned offset).cutNext 0 offset) :=
  exec_of_noField (exec_beatRejoin_full h hrun hnext hlen)
    ((if_neg (by omega)).trans (if_neg (Nat.not_le.mpr hfar))) hq rfl rfl rfl

end

end Sys2Proof.Machine

namespace Sys2Proof.OrbitTime

open Sys2Proof.Machine

/-- Settles O13: each clause is the effect of its command on the orbit logic. -/
theorem beatMarkers : Obligations.BeatMarkers := by
  unfold Obligations.BeatMarkers
  constructor
  · intro s offset highNs o seen at_ now between moved hq hrun hstate hsource hslew hcut hcfg hlink0 hlink1
    have hbeat : s.ctl.OnBeat := ⟨hrun, hstate, hsource, hslew, hcut, hcfg, hlink0, hlink1⟩
    refine ⟨fun hin hnew hsynced hbetween => ?_, fun hin hnew hsynced hvalid hfirst hcommit _ bs hok => ?_, fun hother => ?_,
      fun hnew hmissed hbetween => ?_, fun hnew hmissed halign hcalm => ?_⟩
    · obtain ⟨t, ht, hends⟩ := Ends.of_beatMarker_within hq hbeat hin hnew hsynced hbetween
      have hdies := hends.part Ctl.dies Ctl.rest_dies
      refine ⟨t, ht, hends.of_rest ?_, fun d => (hends.die d).trans (Ctl.die_follow s.ctl.fresh at_ d)⟩
      rw [hdies]; rfl
    · obtain ⟨t, ht, hends, horbit, hnumValid, hflags⟩ :=
        Ends.of_beatMarker_frame hq hbeat hin hnew hsynced hvalid hfirst hcommit hok
      have hdies := hends.part Ctl.dies Ctl.rest_dies
      refine ⟨t, ht, hends.of_rest ?_, fun d => (hends.die d).trans (Ctl.die_follow s.ctl.fresh at_ d), horbit, hnumValid, hflags⟩
      rw [hdies, Ctl.rest_numbered]
      rfl
    · obtain ⟨t, ht, hends⟩ := Ends.of_beatMarker_other (highNs := highNs) hq hbeat hother
      exact ⟨t, ht, hends.of_rest (Ctl.rest_of_fresh _)⟩
    · obtain ⟨t, ht, hends, hcount⟩ := Ends.of_missingMarker_first hq hbeat hnew hmissed hbetween
      refine ⟨t, ht, hends.of_rest ?_, hcount⟩
      rw [Ctl.rest_modOrb, Ctl.rest_missedOne]
      rfl
    · obtain ⟨t, ht, hends, hfields⟩ := EndsRaised.of_missingMarker_second hq hbeat hnew hmissed halign hcalm
      refine ⟨t, ht, hends.of_rest ?_, hfields⟩
      rw [Ctl.rest_freed, Ctl.rest_modOrb, Ctl.rest_missedOne]
      rfl
  · intro s offset o pos run m hq hrun hstate hslew hcut hcfg
    have hadrift : s.ctl.Adrift := ⟨hrun, hstate, hslew, hcut, hcfg⟩
    refine ⟨fun hnew => ?_, fun e r hedges hnext hlen => ?_⟩
    · obtain ⟨t, ht, hends⟩ := Ends.of_beatRejoin_new (offset := offset) hq hadrift hnew
      exact ⟨t, ht, hends.of_rest rfl⟩
    · intro mean p
      have hmean : mean = meanOff (s.ctl.edgeAt offset :: e :: r) := by rw [← hedges]; rfl
      rw [hmean]
      have hcases : meanOff (s.ctl.edgeAt offset :: e :: r) = 0 ∨
          (meanOff (s.ctl.edgeAt offset :: e :: r) ≠ 0 ∧ (meanOff (s.ctl.edgeAt offset :: e :: r)).natAbs ≤ 64) ∨
          64 < (meanOff (s.ctl.edgeAt offset :: e :: r)).natAbs := by omega
      rcases hcases with hzero | ⟨hne, hnear⟩ | hfar
      · obtain ⟨t, ht, hends, hfields⟩ := Ends.of_beatRejoin_inPlace hq hadrift hedges hnext hlen hzero
        refine ⟨t, ht, fun _ => ⟨hends.of_rest ?_, hfields⟩, fun hne => absurd hzero hne, fun hfar => by omega⟩
        rw [Ctl.rest_locked]
        show _ = ({ m with orb := { p with slew := s.ctl.orb.slew } } : Ctl).rest
        rw [hslew]
        rfl
      · obtain ⟨t, ht, hends⟩ := Ends.of_beatRejoin_near hq hadrift hedges hnext hlen hne hnear
        exact ⟨t, ht, fun hzero => absurd hzero hne, fun _ _ => hends.of_rest rfl, fun hfar => by omega⟩
      · obtain ⟨t, ht, hends⟩ := Ends.of_beatRejoin_far hq hadrift hedges hnext hlen hfar
        exact ⟨t, ht, fun hzero => by omega, fun _ hnear => by omega, fun _ => hends.of_rest rfl⟩

end Sys2Proof.OrbitTime
end

section
/-!
The orbit boundary (R416) at which nothing else falls due: its stages one by one, each by the registers that it writes and by what
else it changes.
-/

namespace Sys2Proof.Machine

/-! ## Stages that only write registers -/

/-- Every field but the copies of those listed reads as before. -/
def Ctl.KeepsBut (m n : Ctl) (l : List Fld) : Prop := ∀ f i, i < 1048576 → f.id ∉ l.map Fld.id → n.get f i = m.get f i

theorem Ctl.KeepsBut.trans {m n k : Ctl} {l l' : List Fld} (h : m.KeepsBut n l) (h' : n.KeepsBut k l') : m.KeepsBut k (l ++ l') := by
  intro f i hi hf
  rw [List.map_append, List.mem_append, not_or] at hf
  obtain ⟨hl, hl'⟩ := hf
  rw [h' f i hi hl', h f i hi hl]

theorem Ctl.KeepsBut.of_flds {m n : Ctl} (h : n.flds = m.flds) : m.KeepsBut n [] := fun f i _ _ => Ctl.get_congr h f i

theorem Ctl.KeepsBut.put (m : Ctl) (f : Fld) (v : Nat) : m.KeepsBut (m.put f v) [f] :=
  fun g i hi hg => m.get_set_fld v (by simpa using hg) (by decide) hi

/-- Nothing differs but the fields listed. -/
structure Ctl.Shows (m n : Ctl) (l : List Fld) : Prop where
  keeps : m.KeepsBut n l
  same : n = { m with flds := n.flds }

theorem Ctl.Shows.trans {m n k : Ctl} {l l' : List Fld} (h : m.Shows n l) (h' : n.Shows k l') : m.Shows k (l ++ l') :=
  ⟨h.keeps.trans h'.keeps, by rw [h'.same, h.same]⟩

theorem Ctl.Shows.put (m : Ctl) (f : Fld) (v : Nat) : m.Shows (m.put f v) [f] := ⟨.put m f v, rfl⟩

/-- The current capacity (R416 step 5). -/
theorem Ctl.Shows.capacity (m : Ctl) : m.Shows m.capacity [F.PWR_STATUS_INOW, F.QOS_CAP_CAP] := (Shows.put m _ _).trans (.put _ _ _)

theorem Ctl.Shows.setCut (m : Ctl) : m.Shows m.setCut [F.QOS_CUT_VALID, F.QOS_CUT_RANK, F.QOS_CUT_LABEL] := by
  unfold Ctl.setCut
  split
  · exact ((Shows.put _ _ _).trans (.put _ _ _)).trans (.put _ _ _)
  · exact ((Shows.put _ _ _).trans (.put _ _ _)).trans (.put _ _ _)

theorem Ctl.Shows.showRes (m : Ctl) : m.Shows m.showRes [F.QOS_RES_ACTIVE_SUM, F.QOS_RES_ACTIVE_INFORCE] :=
  (Shows.put m _ _).trans (.put _ _ _)

/-- No session has a reservation where no copy of the field is listed. -/
theorem Ctl.reserves_eq_nil {m : Ctl} : m.reserves = [] ↔ ∀ e ∈ m.flds, e.1 / 1048576 ≠ F.SES_ACT1_RESERVE.id := by
  simp [Ctl.reserves, List.filterMap_eq_nil_iff]

/-- A write of another field makes no reservation. -/
theorem Ctl.reserves_put {m : Ctl} (h : m.reserves = []) {f : Fld} (hf : f.id ≠ F.SES_ACT1_RESERVE.id) (v : Nat) :
    (m.put f v).reserves = [] := by
  rw [Ctl.reserves_eq_nil] at h ⊢
  intro e he
  rcases Sparse.mem_setD he with rfl | he
  · simpa [fkey] using hf
  · exact h e he

/-- With no reservation none is suspended or resumed (R233, R234). -/
theorem Ctl.oversub_none {m : Ctl} (h : m.reserves = []) : m.oversub = m.setCut.showRes := by
  have horder : m.suspOrder = [] := by rw [Ctl.suspOrder, h]; rfl
  have hsum : m.resInForce = 0 := by rw [Ctl.resInForce, h]; rfl
  unfold Ctl.oversub
  rw [horder, hsum]
  simp [Ctl.resumeFrom]

/-- The fields that show the capacity and the reservations. -/
def capacityFlds : List Fld :=
  [F.PWR_STATUS_INOW, F.QOS_CAP_CAP, F.QOS_CUT_VALID, F.QOS_CUT_RANK, F.QOS_CUT_LABEL, F.QOS_RES_ACTIVE_SUM,
    F.QOS_RES_ACTIVE_INFORCE]

theorem Ctl.Shows.capacity_oversub {m : Ctl} (h : m.reserves = []) : m.Shows m.capacity.oversub capacityFlds := by
  have hnone : m.capacity.reserves = [] := Ctl.reserves_put (Ctl.reserves_put h (by decide) _) (by decide) _
  rw [Ctl.oversub_none hnone]
  exact (Shows.capacity m).trans ((Shows.setCut _).trans (.showRes _))

/-! ## Stages of which nothing falls due -/

theorem Ctl.hotNrefs_none {m : Ctl} (h : ∀ e ∈ m.pcs, e.2.nrefs = []) : m.hotNrefs = m :=
  foldl_same fun e he => by rw [h e he]; rfl

theorem Ctl.scrubLate_none {m : Ctl} (h : m.scrubRuns = true → m.bnd ≠ m.rowDue (m.get F.REP_SCRUB_POS_STEP) + 1) :
    m.scrubLate = m := by
  refine if_neg fun hc => ?_
  simp only [Bool.and_eq_true, beq_iff_eq] at hc
  exact h hc.1 hc.2

/-- Below the throttle point a walk that has made no step makes none (R415). -/
theorem Ctl.stepWalk_cool {m : Ctl} (hsteps : m.get F.THM_STATUS_STEPS = 0) (hcool : tempOf (m.get F.THM_MAX_TEMP) < m.throttleAt) :
    m.stepWalk = m := by
  unfold Ctl.stepWalk
  simp [hsteps, Int.not_le.mpr hcool]

theorem Ctl.commitBoundary_none {m : Ctl} (h : m.commit = none) : m.commitBoundary = m := by simp [Ctl.commitBoundary, h]

theorem Ctl.numberStep_none {m : Ctl} (h : m.orb.step = none) : m.numberStep = m := by simp [Ctl.numberStep, h]

/-- A link that is not the source has no marker of the orbit. -/
theorem Ctl.takeCarried_other {m : Ctl} {l : Nat} (h : m.orb.source ≠ l + 1) : m.takeCarried l = m :=
  if_pos (by simp [Ctl.follows, h])

/-! ## The dies at a boundary -/

/-- Every die of a list takes the boundary. -/
def Ctl.diesTurn (m : Ctl) (ds : List Nat) : Ctl := ds.foldl (fun m d => m.modDie d fun x => x.atBoundary d m.now) m

theorem Ctl.diesTurn_same (m : Ctl) (ds : List Nat) : m.diesTurn ds = { m with dies := (m.diesTurn ds).dies } := by
  induction ds generalizing m with
  | nil => rfl
  | cons d ds ih => exact (ih (m.modDie d fun x => x.atBoundary d m.now)).trans rfl

theorem Ctl.diesTurn_other {ds : List Nat} (m : Ctl) {d : Nat} (h : d ∉ ds) : (m.diesTurn ds).die d = m.die d := by
  induction ds generalizing m with
  | nil => rfl
  | cons e ds ih =>
    obtain ⟨hne, hnot⟩ := not_or.mp (List.mem_cons.not.mp h)
    exact (ih _ hnot).trans (Ctl.die_modDie_other m _ hne)

theorem Ctl.diesTurn_die {ds : List Nat} (m : Ctl) (hds : ds.Nodup) {d : Nat} (hd : d ∈ ds) :
    (m.diesTurn ds).die d = (m.die d).atBoundary d m.now := by
  induction ds generalizing m with
  | nil => simp at hd
  | cons e ds ih =>
    obtain ⟨he, hds⟩ := List.nodup_cons.mp hds
    rcases List.mem_cons.mp hd with rfl | hd
    · exact (Ctl.diesTurn_other _ he).trans (Ctl.die_modDie_same m d _)
    · have hne : d ≠ e := fun h => he (h ▸ hd)
      refine (ih (m.modDie e fun x => x.atBoundary e m.now) hds hd).trans ?_
      rw [Ctl.die_modDie_other m _ hne]
      rfl

/-- A die that is not cut for a scheduled eclipse. -/
theorem Die.atBoundary_other {x : Die} (h : x.st ≠ .cut ∨ x.catchup = true) (d now : Nat) :
    x.atBoundary d now = { x with transit := false } := by
  refine if_neg fun hc => ?_
  simp only [Bool.and_eq_true, decide_eq_true_eq, Bool.not_eq_true'] at hc
  rcases h with h | h
  · exact h hc.1
  · exact absurd (hc.2.symm.trans h) (by decide)

/-- One that is has missed its eclipse, but for die 0, whose eclipse begins with the orbit (R44, R52). -/
theorem Die.atBoundary_cut {x : Die} (hcut : x.st = .cut) (hcatch : x.catchup = false) (d now : Nat) : x.atBoundary d now =
    if d = 0 then { x with transit := false, leadAt := some now } else { x with transit := false, st := .quiet, leadAt := none } :=
  if_pos (by simp [hcut, hcatch])

/-! ## The new orbit -/

/-- The boundary as the phase PLL has it, with the dies `ds`. -/
def Ctl.opened (m : Ctl) (ds : Sparse Die) : Ctl :=
  { m with
    now := max m.now (m.orbitAt + m.orb.period)
    orbitAt := max m.now (m.orbitAt + m.orb.period)
    dies := ds
    orb := { m.orb with markAt := if m.orb.seen then m.orb.markAt else none, seen := false } }

/-- The dies that have taken the boundary. -/
def Ctl.Turned (m : Ctl) (ds : Sparse Die) : Prop :=
  ∀ d < 16, Sparse.getD ds d {} = (m.die d).atBoundary d (max m.now (m.orbitAt + m.orb.period))

theorem Ctl.phaseBoundary_plain {m : Ctl} (hcut : m.orb.cut = false) (hslew : m.orb.slew = 0) :
    ∃ ds, m.phaseBoundary = m.opened ds ∧ m.Turned ds := by
  obtain ⟨r, hr⟩ : ∃ r, r = m.reach (m.orbitAt + m.orb.period) := ⟨_, rfl⟩
  obtain ⟨x, hx⟩ : ∃ x, x = r.diesTurn (List.range 16) := ⟨_, rfl⟩
  have hsame : x = { r with dies := x.dies } := by rw [hx]; exact r.diesTurn_same _
  have hps : m.orbitPs = m.orb.period := if_pos hslew
  have hfold : (List.range 16).foldl (fun m d => m.modDie d fun x => x.atBoundary d m.now) r = x := hx.symm
  refine ⟨x.dies, ?_, fun d hd => ?_⟩
  · unfold Ctl.phaseBoundary
    rw [hcut, hps]
    simp only [Bool.false_eq_true, if_false]
    rw [← hr, hfold]
    refine (if_pos (show r.orb.slew = 0 by rw [hr]; exact hslew)).trans ?_
    rw [hsame, hr]
    rfl
  · have hdie : x.die d = (r.die d).atBoundary d r.now := by
      rw [hx]; exact r.diesTurn_die List.nodup_range (List.mem_range.mpr hd)
    rw [hr] at hdie
    exact hdie

/-- The number advances. -/
def Ctl.advance (m : Ctl) : Ctl := { m.put F.ORB_NOW ((m.orbit + 1) % 2 ^ 48) with bnd := m.bnd + 1 }

/-- The sample of a boundary. -/
def Ctl.sampled (m : Ctl) (a : Arr) (l : Sample) : Ctl :=
  if m.is F.THM_STATUS_SAMPLED && (m.is F.THM_STATUS_FAST || m.orbit % 64 = 0) then m.takeSample a l
  else { m with sampleAge := m.sampleAge + 1 }

/-- Trims at a boundary (R460). -/
def Ctl.walkTrims (m : Ctl) : Ctl :=
  let m := { m with trims := m.trims.map fun (e : Nat × Trim) => if m.laneOut e.1 then e else (e.1, e.2.walk) }
  match Sparse.find m.trims (5 * 65536) with
  | some t => m.put F.CAL_TRO_TRIM t.cur.toNat
  | none => m

/-- The hot states and what follows them, up to the trims (R416). -/
def Ctl.latch (m : Ctl) : Ctl :=
  ((m.put F.ORB_HOTMAP_HOT (m.get F.THM_HOT_HOT)).hotNrefs.scrubLate.stepWalk.commitBoundary).capacity.oversub.walkTrims

/-- A boundary from its sample on. -/
def Ctl.close (m : Ctl) (iavg : Nat) : Ctl := if !m.orb.run then m else m.latch.countOrbit.beacons.telCapture iavg

theorem Ctl.boundary_stages (m : Ctl) (a : Arr) (l : Sample) (iavg : Nat) : m.boundary a l iavg =
    (((m.phaseBoundary.advance.numberStep.takeCarried 0).takeCarried 1).stepAges.sampled a l).close iavg := by
  unfold Ctl.boundary
  extract_lets phased put advanced numbered aged sampled hot shown walked trimmed
  have hadvance : advanced = phased.advance := rfl
  have hnumber : numbered = advanced.numberStep := rfl
  have hage : aged = ((numbered.takeCarried 0).takeCarried 1).stepAges := rfl
  have hsample : sampled = aged.sampled a l := rfl
  show _ = (((phased.advance.numberStep.takeCarried 0).takeCarried 1).stepAges.sampled a l).close iavg
  rw [← hadvance, ← hnumber, ← hage, ← hsample]
  clear_value sampled
  refine if_congr Iff.rfl rfl ?_
  have hshown : shown = (hot.stepWalk.commitBoundary).capacity.oversub := rfl
  clear_value shown
  have htrimmed : trimmed = shown.walkTrims := rfl
  rw [htrimmed, hshown]
  rfl

/-- The boundary up to the sample: the number advances, and the counts of boundaries go on. -/
def Ctl.newOrbit (m : Ctl) (ds : Sparse Die) : Ctl :=
  { (m.opened ds).advance.stepAges with sampleAge := m.sampleAge + 1 }

theorem Ctl.newOrbit_keeps (m : Ctl) (ds : Sparse Die) : m.KeepsBut (m.newOrbit ds) [F.ORB_NOW] :=
  Ctl.KeepsBut.put m F.ORB_NOW ((m.orbit + 1) % 2 ^ 48)

theorem Ctl.newOrbit_orbit (m : Ctl) (ds : Sparse Die) : (m.newOrbit ds).orbit = (m.orbit + 1) % 2 ^ 48 :=
  (m.get_set_same F.ORB_NOW 0 _).trans (Nat.mod_mod _ _)

theorem Ctl.newOrbit_reserves {m : Ctl} (ds : Sparse Die) (h : m.reserves = []) : (m.newOrbit ds).reserves = [] :=
  Ctl.reserves_put (m := m) h (by decide) _

/-- Nothing falls due at the next boundary. -/
structure Ctl.Plain (m : Ctl) : Prop where
  run : m.orb.run = true
  cut : m.orb.cut = false
  slew : m.orb.slew = 0
  step : m.orb.step = none
  commit : m.commit = none
  link0 : m.orb.source ≠ 1
  link1 : m.orb.source ≠ 2
  nrefs : ∀ e ∈ m.pcs, e.2.nrefs = []
  scrub : m.scrubRuns = true → m.bnd ≠ m.rowDue (m.get F.REP_SCRUB_POS_STEP)
  fast : m.get F.THM_STATUS_FAST = 0
  sample : (m.orbit + 1) % 2 ^ 48 % 64 ≠ 0
  steps : m.get F.THM_STATUS_STEPS = 0
  cool : tempOf (m.get F.THM_MAX_TEMP) < m.throttleAt
  reserves : m.reserves = []

/-- What is latched and shown where nothing falls due. -/
def Ctl.latched (m : Ctl) : Ctl := (m.put F.ORB_HOTMAP_HOT (m.get F.THM_HOT_HOT)).capacity.oversub.walkTrims

/-- The new orbit with the hot states latched. -/
def Ctl.hotOrbit (m : Ctl) (ds : Sparse Die) : Ctl := (m.newOrbit ds).put F.ORB_HOTMAP_HOT ((m.newOrbit ds).get F.THM_HOT_HOT)

theorem Ctl.hotOrbit_keeps (m : Ctl) (ds : Sparse Die) : m.KeepsBut (m.hotOrbit ds) [F.ORB_NOW, F.ORB_HOTMAP_HOT] :=
  (m.newOrbit_keeps ds).trans (Ctl.KeepsBut.put _ _ _)

section
variable {m : Ctl}

theorem Ctl.hotOrbit_get (ds : Sparse Die) {f : Fld} (hf : f.id ∉ [F.ORB_NOW, F.ORB_HOTMAP_HOT].map Fld.id) :
    (m.hotOrbit ds).get f = m.get f := m.hotOrbit_keeps ds f 0 (by decide) hf

theorem Ctl.hotOrbit_inMode (ds : Sparse Die) (l : List Mode) : (m.hotOrbit ds).inMode l = m.inMode l := by
  have hmode : (m.hotOrbit ds).mode = m.mode := Ctl.hotOrbit_get ds (by decide)
  unfold Ctl.inMode
  rw [hmode]
  rfl

theorem Ctl.Plain.scrubLate (h : m.Plain) (ds : Sparse Die) : (m.hotOrbit ds).scrubLate = m.hotOrbit ds := by
  refine Ctl.scrubLate_none fun hruns => ?_
  have hdue : (m.hotOrbit ds).rowDue ((m.hotOrbit ds).get F.REP_SCRUB_POS_STEP) = m.rowDue (m.get F.REP_SCRUB_POS_STEP) := by
    unfold Ctl.rowDue
    rw [Ctl.hotOrbit_get ds (by decide), Ctl.hotOrbit_get ds (by decide)]
    rfl
  have hbnd := h.scrub ((Ctl.hotOrbit_inMode ds _).symm.trans hruns)
  rw [hdue]
  exact fun heq => hbnd (Nat.succ.inj heq)

theorem Ctl.Plain.stepWalk (h : m.Plain) (ds : Sparse Die) : (m.hotOrbit ds).stepWalk = m.hotOrbit ds := by
  refine Ctl.stepWalk_cool ((Ctl.hotOrbit_get ds (by decide)).trans h.steps) ?_
  rw [Ctl.throttleAt, Ctl.hotOrbit_get ds (by decide), Ctl.hotOrbit_get ds (by decide)]
  exact h.cool

theorem Ctl.Plain.latch (h : m.Plain) (ds : Sparse Die) : (m.newOrbit ds).latch = (m.newOrbit ds).latched := by
  have hnrefs : (m.hotOrbit ds).hotNrefs = m.hotOrbit ds := Ctl.hotNrefs_none h.nrefs
  have hcommit : (m.hotOrbit ds).commitBoundary = m.hotOrbit ds := Ctl.commitBoundary_none h.commit
  show (m.hotOrbit ds).hotNrefs.scrubLate.stepWalk.commitBoundary.capacity.oversub.walkTrims = _
  rw [hnrefs, h.scrubLate, h.stepWalk, hcommit]
  rfl

theorem Ctl.Plain.sampled (h : m.Plain) (ds : Sparse Die) (a : Arr) (l : Sample) :
    (m.opened ds).advance.stepAges.sampled a l = m.newOrbit ds := by
  have horbit : (m.opened ds).advance.stepAges.orbit = (m.orbit + 1) % 2 ^ 48 := m.newOrbit_orbit ds
  have hfast : (m.opened ds).advance.stepAges.get F.THM_STATUS_FAST = 0 :=
    (m.newOrbit_keeps ds F.THM_STATUS_FAST 0 (by decide) (by decide)).trans h.fast
  refine if_neg ?_
  rw [Ctl.is, Ctl.is, horbit, hfast, decide_eq_false h.sample]
  simp

/-- A plain boundary is the new orbit, what is latched, the counts, the beacons, and the capture. -/
theorem Ctl.Plain.boundary_eq (h : m.Plain) (a : Arr) (l : Sample) (iavg : Nat) : ∃ ds, m.Turned ds ∧
    m.boundary a l iavg = (m.newOrbit ds).latched.countOrbit.beacons.telCapture iavg := by
  obtain ⟨ds, hphase, hturned⟩ := Ctl.phaseBoundary_plain h.cut h.slew
  refine ⟨ds, hturned, ?_⟩
  have hstep : (m.opened ds).advance.numberStep = (m.opened ds).advance := Ctl.numberStep_none h.step
  have hlink0 : (m.opened ds).advance.takeCarried 0 = (m.opened ds).advance := Ctl.takeCarried_other h.link0
  have hlink1 : (m.opened ds).advance.takeCarried 1 = (m.opened ds).advance := Ctl.takeCarried_other h.link1
  have hrun : ¬ (!(m.newOrbit ds).orb.run) = true := by
    show ¬ (!m.orb.run) = true
    rw [h.run]
    decide
  rw [Ctl.boundary_stages, hphase, hstep, hlink0, hlink1, h.sampled, Ctl.close, if_neg hrun, h.latch]

end

/-! ## What is latched -/

theorem Ctl.walkTrims_same (m : Ctl) : m.walkTrims = { m with flds := m.walkTrims.flds, trims := m.walkTrims.trims } := by
  unfold Ctl.walkTrims
  extract_lets n
  split
  · rfl
  · rfl

theorem Ctl.walkTrims_keeps (m : Ctl) : m.KeepsBut m.walkTrims [F.CAL_TRO_TRIM] := by
  unfold Ctl.walkTrims
  extract_lets n
  split
  · exact Ctl.KeepsBut.put n _ _
  · exact fun _ _ _ _ => rfl

theorem Ctl.latched_eq {m : Ctl} (h : m.reserves = []) : m.latched = { m with flds := m.latched.flds, trims := m.latched.trims } ∧
    m.KeepsBut m.latched ([F.ORB_HOTMAP_HOT] ++ capacityFlds ++ [F.CAL_TRO_TRIM]) ∧
    m.latched.get F.ORB_HOTMAP_HOT = m.get F.THM_HOT_HOT % 65536 := by
  obtain ⟨x, hx⟩ : ∃ x, x = m.put F.ORB_HOTMAP_HOT (m.get F.THM_HOT_HOT) := ⟨_, rfl⟩
  obtain ⟨y, hy⟩ : ∃ y, y = x.capacity.oversub := ⟨_, rfl⟩
  have hreserves : x.reserves = [] := by rw [hx]; exact Ctl.reserves_put h (by decide) _
  have hhot : m.Shows x [F.ORB_HOTMAP_HOT] := by rw [hx]; exact Ctl.Shows.put _ _ _
  have hshows : x.Shows y capacityFlds := by rw [hy]; exact Ctl.Shows.capacity_oversub hreserves
  have heq : m.latched = y.walkTrims := by rw [hy, hx]; rfl
  have hkeeps := hshows.keeps.trans y.walkTrims_keeps
  rw [heq]
  refine ⟨?_, (hhot.trans hshows).keeps.trans y.walkTrims_keeps, ?_⟩
  · rw [y.walkTrims_same, (hhot.trans hshows).same]
  · rw [hkeeps F.ORB_HOTMAP_HOT 0 (by decide) (by decide), hx]
    exact m.get_set_same F.ORB_HOTMAP_HOT 0 _

/-! ## The counts of an orbit -/

/-- A port with the count of whole orbits in which it has received no good flit (R109). -/
def Ctl.silenced (m : Ctl) (p : Port) : PortSt :=
  { m.port p with silent := if m.link p == 2 then some (min 64 (((m.port p).silent.map (· + 1)).getD 0)) else none }

theorem Ctl.silenced_eq (m : Ctl) (p : Port) : m.silenced p = { m.port p with
    silent := if m.link p = 2 then some (min 64 (((m.port p).silent.map (· + 1)).getD 0)) else none } := by
  simp only [Ctl.silenced, beq_iff_eq]

theorem Ctl.notePresent_eq (m : Ctl) : ∃ absent longAbsent, m.notePresent = { m with absent := absent, longAbsent := longAbsent } := by
  unfold Ctl.notePresent
  split
  · exact ⟨_, _, rfl⟩
  · exact ⟨_, _, rfl⟩

theorem Ctl.countOrbit_eq (m : Ctl) : ∃ absent longAbsent rings idle, m.countOrbit = { m with
    pa := m.silenced .a, pb := m.silenced .b, lease := if m.leaseRuns then m.lease - 1 else m.lease
    absent := absent, longAbsent := longAbsent, rings := rings, idle := idle, worked := false } := by
  unfold Ctl.countOrbit
  extract_lets counted noted leased tick ticked
  have hcounted : counted = { m with pa := m.silenced .a, pb := m.silenced .b } := rfl
  have hruns : counted.leaseRuns = m.leaseRuns := rfl
  have hnoted : ∃ absent longAbsent, noted = { counted with absent := absent, longAbsent := longAbsent } := counted.notePresent_eq
  clear_value counted tick noted
  have hleased : ∃ absent longAbsent, leased = { m with
      pa := m.silenced .a, pb := m.silenced .b, lease := if m.leaseRuns then m.lease - 1 else m.lease
      absent := absent, longAbsent := longAbsent } := by
    obtain ⟨absent, longAbsent, hnoted⟩ := hnoted
    unfold leased
    rw [hruns, hnoted, hcounted]
    split
    · exact ⟨_, _, rfl⟩
    · exact ⟨_, _, rfl⟩
  obtain ⟨absent, longAbsent, hleased⟩ := hleased
  clear_value leased
  have hticked : ticked = { leased with rings := ticked.rings } := rfl
  clear_value ticked
  have hcounts : ∀ idle, { ticked with idle := idle, worked := false } = { m with
      pa := m.silenced .a, pb := m.silenced .b, lease := if m.leaseRuns then m.lease - 1 else m.lease
      absent := absent, longAbsent := longAbsent, rings := ticked.rings, idle := idle, worked := false } := by
    intro idle
    rw [hticked, hleased]
  exact ⟨_, _, _, _, hcounts _⟩

/-! ## Beacons -/

/-- Nothing but the links and the mirror regions differs, and no dirty bitmap waits that did not wait before. -/
structure Ctl.Links (m n : Ctl) : Prop where
  same : n = { m with links := n.links, mirs := n.mirs }
  clean : (∀ e ∈ m.mirs, e.2.stale = false) → ∀ e ∈ n.mirs, e.2.stale = false

theorem Ctl.Links.refl (m : Ctl) : m.Links m := ⟨rfl, id⟩

theorem Ctl.Links.trans {m n k : Ctl} (h : m.Links n) (h' : n.Links k) : m.Links k :=
  ⟨by rw [h'.same, h.same], h'.clean ∘ h.clean⟩

theorem Ctl.Links.modLnk (m : Ctl) (l : Nat) (f : LinkSt → LinkSt) : m.Links (m.modLnk l f) := ⟨rfl, id⟩

theorem Ctl.Links.modMir (m : Ctl) (r : Nat) {f : Mir → Mir} (hf : ∀ x, (f x).stale = x.stale) : m.Links (m.modMir r f) := by
  refine ⟨rfl, fun hclean e he => ?_⟩
  rcases Sparse.mem_setD he with rfl | he
  · rw [hf, Ctl.mir]
    rcases Sparse.getD_cases m.mirs r {} with hr | ⟨j, hj⟩
    · rw [hr]
    · exact hclean _ hj
  · exact hclean e he

theorem Ctl.Links.sendCtl (m : Ctl) (l body : Nat) : m.Links (m.sendCtl l body) := by
  unfold Ctl.sendCtl
  split
  · exact .modLnk m l _
  · exact .refl m

/-- Where every step of a fold does no more, the fold does no more. -/
theorem Ctl.Links.foldl {α : Type} {f : Ctl → α → Ctl} (hf : ∀ (n : Ctl) (a : α), n.Links (f n a)) (as : List α) (m : Ctl) :
    m.Links (as.foldl f m) := by
  induction as generalizing m with
  | nil => exact .refl m
  | cons a as ih => exact (hf m a).trans (ih _)

theorem Ctl.Links.joins (m : Ctl) (l : Nat) (conflict : Bool) : m.Links (m.joins l conflict) := by
  refine Ctl.Links.foldl (fun m r => ?_) _ m
  split
  · exact (Ctl.Links.sendCtl m l _).trans (.modMir _ r fun _ => rfl)
  · exact .refl m

/-- What a boundary does to a link where no beacon is due. -/
def Ctl.linkAged (m : Ctl) (l : Nat) : Ctl :=
  (if m.plUp l then m.modLnk l fun x => { x with idAge := x.idAge + 1 } else m).joins l false

theorem Ctl.Links.linkAged (m : Ctl) (l : Nat) : m.Links (m.linkAged l) := by
  unfold Ctl.linkAged
  split
  · exact (Ctl.Links.modLnk m l _).trans (.joins _ l false)
  · exact .joins m l false

theorem Ctl.Links.orbit {m n : Ctl} (h : m.Links n) : n.orbit = m.orbit := by rw [h.same]; rfl

/-- The beacons of one link at a boundary. -/
def Ctl.beacon (m : Ctl) (l : Nat) : Ctl :=
  let m := if m.plUp l then m.modLnk l fun x => { x with idAge := x.idAge + 1 } else m
  let m := if m.orbit % 64 = 0 then m.sendId l else m
  let m := if m.orbit % 1024 = 0 then m.sendDig l else m
  m.joins l false

theorem Ctl.beacons_eq (m : Ctl) : m.beacons = [0, 1].foldl Ctl.beacon m := rfl

theorem Ctl.beacon_none {m : Ctl} (h : m.orbit % 64 ≠ 0) (l : Nat) : m.beacon l = m.linkAged l := by
  unfold Ctl.beacon Ctl.linkAged
  extract_lets aged identified digested
  have haged : m.Links aged := by
    unfold aged
    split
    · exact .modLnk m l _
    · exact .refl m
  have h64 : ¬ aged.orbit % 64 = 0 := by rw [haged.orbit]; exact h
  have h1024 : ¬ aged.orbit % 1024 = 0 := by omega
  have hidentified : identified = aged := if_neg h64
  have hdigested : digested = aged := by
    unfold digested
    rw [hidentified]
    exact if_neg h1024
  rw [hdigested]

/-- In an orbit at which no beacon is due none is sent (R332, R334). -/
theorem Ctl.Links.beacons {m : Ctl} (h : m.orbit % 64 ≠ 0) : m.Links m.beacons := by
  have hfirst := Ctl.Links.linkAged m 0
  have hsecond : (m.linkAged 0).orbit % 64 ≠ 0 := by rw [hfirst.orbit]; exact h
  rw [Ctl.beacons_eq, List.foldl_cons, List.foldl_cons, List.foldl_nil, Ctl.beacon_none h, Ctl.beacon_none hsecond]
  exact hfirst.trans (.linkAged _ 1)

/-! ## The capture -/

/-- The registers that show a live count each, with its number. -/
def telFlds : List (Fld × Nat) :=
  [F.TEL_PA_RD, F.TEL_PA_WR, F.TEL_PB_RD, F.TEL_PB_WR, F.TEL_SVC_RD, F.TEL_SVC_WR, F.TEL_ARR_RD, F.TEL_ARR_WR].zipIdx

/-- Show the live counts. -/
def Ctl.showTel (m : Ctl) (l : List (Fld × Nat)) : Ctl := l.foldl (fun m e => m.put e.1 (Sparse.getD m.tel e.2 0)) m

theorem Ctl.Shows.showTel (m : Ctl) (l : List (Fld × Nat)) : m.Shows (m.showTel l) (l.map (·.1)) := by
  induction l generalizing m with
  | nil => exact ⟨fun _ _ _ _ => rfl, rfl⟩
  | cons e l ih => exact (Ctl.Shows.put m e.1 _).trans (ih _)

theorem Ctl.showTel_get (m : Ctl) {l : List (Fld × Nat)} (hl : (l.map fun e => e.1.id).Nodup) {e : Fld × Nat} (he : e ∈ l) :
    (m.showTel l).get e.1 = Sparse.getD m.tel e.2 0 % 2 ^ e.1.width := by
  induction l generalizing m with
  | nil => simp at he
  | cons x l ih =>
    obtain ⟨hx, hl⟩ := List.nodup_cons.mp hl
    rcases List.mem_cons.mp he with rfl | he
    · have hlater : e.1.id ∉ (l.map (·.1)).map Fld.id := by simpa using hx
      exact ((Ctl.Shows.showTel (m.put e.1 _) l).keeps e.1 0 (by decide) hlater).trans (m.get_set_same e.1 0 _)
    · exact ih (m.put x.1 _) hl he

/-- The registers of the capture. -/
def captureFlds : List Fld := [F.TEL_ORBIT] ++ telFlds.map (·.1) ++ [F.TEL_LOAD_IAVG, F.TEL_LOAD_QMAX, F.TEL_LOAD_QPC]

theorem Ctl.telCapture_eq (m : Ctl) (iavg : Nat) : m.telCapture iavg = { m with
      flds := (m.telCapture iavg).flds, qmax := (m.telCapture iavg).qmax } ∧
    m.KeepsBut (m.telCapture iavg) captureFlds ∧ (m.telCapture iavg).get F.TEL_ORBIT = m.orbit % 2 ^ 48 ∧
    ∀ e ∈ telFlds, (m.telCapture iavg).get e.1 = Sparse.getD m.tel e.2 0 % 2 ^ e.1.width := by
  unfold Ctl.telCapture
  extract_lets numbered shown loaded level
  have hnumbered : m.Shows numbered [F.TEL_ORBIT] := .put m F.TEL_ORBIT m.orbit
  have hshown : shown = numbered.showTel telFlds := rfl
  have htel : numbered.tel = m.tel := rfl
  have hvalue : numbered.get F.TEL_ORBIT = m.orbit % 2 ^ 48 := m.get_set_same F.TEL_ORBIT 0 m.orbit
  clear_value numbered
  have hnext : numbered.Shows shown (telFlds.map (·.1)) := by rw [hshown]; exact Ctl.Shows.showTel numbered telFlds
  have hcounts : ∀ e ∈ telFlds, shown.get e.1 = Sparse.getD m.tel e.2 0 % 2 ^ e.1.width := fun e he => by
    rw [hshown, ← htel]; exact numbered.showTel_get (by decide) he
  clear_value shown
  have hloaded : shown.Shows loaded [F.TEL_LOAD_IAVG, F.TEL_LOAD_QMAX, F.TEL_LOAD_QPC] :=
    ((Ctl.Shows.put shown F.TEL_LOAD_IAVG iavg).trans (.put _ F.TEL_LOAD_QMAX _)).trans (.put _ F.TEL_LOAD_QPC _)
  clear_value loaded level
  have hall := (hnumbered.trans hnext).trans hloaded
  refine ⟨by rw [hall.same], hall.keeps, ?_, fun e he => ?_⟩
  · exact ((hnext.trans hloaded).keeps F.TEL_ORBIT 0 (by decide) (by decide)).trans hvalue
  · have hlater : ∀ e ∈ telFlds, e.1.id ∉ [F.TEL_LOAD_IAVG, F.TEL_LOAD_QMAX, F.TEL_LOAD_QPC].map Fld.id := by decide
    exact (hloaded.keeps e.1 0 (by decide) (hlater e he)).trans (hcounts e he)

/-! ## A plain boundary -/

/-- The fields that a plain boundary writes. -/
def boundaryFlds : List Fld := [F.ORB_NOW] ++ ([F.ORB_HOTMAP_HOT] ++ capacityFlds ++ [F.CAL_TRO_TRIM]) ++ captureFlds

/-- What a plain boundary makes of a state. -/
structure Ctl.Bounded (m n : Ctl) : Prop where
  same : n = { m with
    flds := n.flds
    now := max m.now (m.orbitAt + m.orb.period)
    orbitAt := max m.now (m.orbitAt + m.orb.period)
    bnd := m.bnd + 1
    dies := n.dies
    sampleAge := m.sampleAge + 1
    stepAge := m.stepAge.map (· + 1)
    warmAge := m.warmAge + 1
    trims := n.trims
    rings := n.rings
    lease := if m.leaseRuns then m.lease - 1 else m.lease
    absent := n.absent
    longAbsent := n.longAbsent
    idle := n.idle
    worked := false
    links := n.links
    mirs := n.mirs
    pa := m.silenced .a
    pb := m.silenced .b
    qmax := n.qmax
    orb := { m.orb with markAt := if m.orb.seen then m.orb.markAt else none, seen := false } }
  keeps : m.KeepsBut n boundaryFlds
  turned : m.Turned n.dies
  clean : (∀ e ∈ m.mirs, e.2.stale = false) → ∀ e ∈ n.mirs, e.2.stale = false
  orbit : n.orbit = (m.orbit + 1) % 2 ^ 48
  hot : n.get F.ORB_HOTMAP_HOT = m.get F.THM_HOT_HOT % 65536
  telOrbit : n.get F.TEL_ORBIT = (m.orbit + 1) % 2 ^ 48
  tel : ∀ e ∈ telFlds, n.get e.1 = Sparse.getD m.tel e.2 0 % 2 ^ e.1.width

theorem Ctl.Plain.bounded {m : Ctl} (h : m.Plain) (a : Arr) (l : Sample) (iavg : Nat) : m.Bounded (m.boundary a l iavg) := by
  obtain ⟨ds, hturned, heq⟩ := h.boundary_eq a l iavg
  rw [heq]
  obtain ⟨orbited, horbited⟩ : ∃ x, x = m.newOrbit ds := ⟨_, rfl⟩
  obtain ⟨latched, hlatched⟩ : ∃ x, x = orbited.latched := ⟨_, rfl⟩
  obtain ⟨counted, hcounted⟩ : ∃ x, x = latched.countOrbit := ⟨_, rfl⟩
  obtain ⟨linked, hlinked⟩ : ∃ x, x = counted.beacons := ⟨_, rfl⟩
  obtain ⟨shown, hshown⟩ : ∃ x, x = linked.telCapture iavg := ⟨_, rfl⟩
  have hreserves : orbited.reserves = [] := by rw [horbited]; exact Ctl.newOrbit_reserves ds h.reserves
  have hnumber : orbited.orbit = (m.orbit + 1) % 2 ^ 48 := by rw [horbited]; exact m.newOrbit_orbit ds
  have hkeeps : m.KeepsBut orbited [F.ORB_NOW] := by rw [horbited]; exact m.newOrbit_keeps ds
  obtain ⟨hlatchSame, hlatchKeeps, hlatchHot⟩ := Ctl.latched_eq hreserves
  obtain ⟨absent, longAbsent, rings, idle, hcountSame⟩ := latched.countOrbit_eq
  obtain ⟨htelSame, htelKeeps, htelOrbit, htelCounts⟩ := linked.telCapture_eq iavg
  rw [← horbited, ← hlatched, ← hcounted, ← hlinked, ← hshown]
  rw [← hlatched] at hlatchSame hlatchKeeps hlatchHot
  rw [← hcounted] at hcountSame
  rw [← hshown] at htelSame htelKeeps htelOrbit htelCounts
  have hcountOrbit : counted.orbit = (m.orbit + 1) % 2 ^ 48 := by
    have hlatchOrbit : latched.orbit = orbited.orbit := hlatchKeeps F.ORB_NOW 0 (by decide) (by decide)
    rw [hcountSame]
    exact hlatchOrbit.trans hnumber
  have hlinks : counted.Links linked := by rw [hlinked]; exact Ctl.Links.beacons (by rw [hcountOrbit]; exact h.sample)
  have hlinkFlds : linked.flds = latched.flds := by rw [hlinks.same, hcountSame]
  have hbase : latched = { m.newOrbit ds with flds := latched.flds, trims := latched.trims } := by rw [← horbited]; exact hlatchSame
  have hlatchAll := hkeeps.trans hlatchKeeps
  have hsilenced : ∀ p, latched.silenced p = m.silenced p := by
    intro p
    have hlink : latched.link p = m.link p := hlatchAll F.PA_STATUS_LINK p.idx (by cases p <;> decide) (by decide)
    have hport : latched.port p = m.port p := by rw [hbase]; cases p <;> rfl
    rw [Ctl.silenced, Ctl.silenced, hlink, hport]
  have hruns : latched.leaseRuns = m.leaseRuns := by
    have hmode : latched.mode = m.mode := hlatchAll F.GL_MODE_STATE 0 (by decide) (by decide)
    have hpower : latched.power = m.power := by rw [hbase]; rfl
    rw [Ctl.leaseRuns, Ctl.leaseRuns, Ctl.inMode, Ctl.inMode, hmode, hpower]
  rw [hsilenced, hsilenced, hruns] at hcountSame
  have hallKeeps := (hlatchAll.trans (Ctl.KeepsBut.of_flds hlinkFlds)).trans htelKeeps
  have hshownDies : shown.dies = ds := by rw [htelSame, hlinks.same, hcountSame, hbase]; rfl
  have hshownMirs : shown.mirs = linked.mirs := by rw [htelSame]
  have hcountMirs : counted.mirs = m.mirs := by rw [hcountSame, hbase]; rfl
  have hlinkTel : linked.tel = m.tel := by rw [hlinks.same, hcountSame, hbase]; rfl
  have hlinkOrbit : linked.orbit = (m.orbit + 1) % 2 ^ 48 := hlinks.orbit.trans hcountOrbit
  refine ⟨?_, ?_, by rw [hshownDies]; exact hturned, ?_, ?_, ?_, ?_, fun e he => by rw [htelCounts e he, hlinkTel]⟩
  · rw [htelSame, hlinks.same, hcountSame, hbase]
    rfl
  · exact fun f i hi hf => hallKeeps f i hi (by simpa [boundaryFlds] using hf)
  · rw [hshownMirs, ← hcountMirs]
    exact hlinks.clean
  · exact (htelKeeps F.ORB_NOW 0 (by decide) (by decide)).trans hlinkOrbit
  · have hkept : shown.get F.ORB_HOTMAP_HOT = latched.get F.ORB_HOTMAP_HOT :=
      (htelKeeps F.ORB_HOTMAP_HOT 0 (by decide) (by decide)).trans (Ctl.get_congr hlinkFlds _ _)
    rw [hkept, hlatchHot, hkeeps F.THM_HOT_HOT 0 (by decide) (by decide)]
  · rw [htelOrbit, hlinkOrbit, Nat.mod_mod]

/-! ## The command -/

/-- The frame by whole fields of a command whose effect, the state `x`, leaves no request waiting, raises no fault and changes no byte. -/
theorem EndsBut.of_effect {s : State} {g : Arr → Ctl → Ctl} {x m : Ctl} {l : List Fld} (hx : g s.arr s.ctl.fresh = x) (hq : x.Quiet)
    (hr : x.raised = []) (he : x.edits = []) (hf : s.ctl.KeepsBut x l) (hm : x.rest = m.rest) : EndsBut s (run s g) l m := by
  subst hx
  rw [run_quiet s g hq hr he]
  refine ⟨rfl, rfl, fun f i hi hn => ?_, ?_⟩
  · obtain ⟨hpin, hl⟩ := not_or.mp (List.mem_cons.not.mp hn)
    exact (Eq.trans rfl (Ctl.get_drive _ f i (fkey_ne hpin hi (by decide)))).trans (hf f i hi hl)
  · exact (show _ = (g s.arr s.ctl.fresh).drive.rest from rfl).trans ((Ctl.rest_of_drive _).trans hm)

/-- What a part of the state that is no register becomes by such a frame. -/
theorem EndsBut.part {s t : State} {l : List Fld} {m : Ctl} {α : Type} (h : EndsBut s t l m) (part : Ctl → α)
    (hpart : ∀ n : Ctl, part n.rest = part n) : part t.ctl = part m := by
  rw [← hpart t.ctl, h.rest, hpart]

/-- The state after a plain boundary as the statement lists it: what is listed is as in `n`, or as said. -/
def Ctl.turnedTo (m n : Ctl) : Ctl :=
  { m with
    now := n.now, orbitAt := n.orbitAt, bnd := m.bnd + 1, dies := n.dies, sampleAge := m.sampleAge + 1
    stepAge := m.stepAge.map (· + 1), warmAge := m.warmAge + 1, trims := n.trims, rings := n.rings, lease := n.lease
    absent := n.absent, longAbsent := n.longAbsent, idle := n.idle, links := n.links, mirs := n.mirs, pa := n.pa, pb := n.pb
    qmax := n.qmax
    orb := { m.orb with markAt := if m.orb.seen then m.orb.markAt else none, seen := false } }

theorem Ctl.turnedTo_rest (m n : Ctl) : m.turnedTo n.rest = m.turnedTo n := rfl

theorem Ctl.Bounded.rest {m n : Ctl} (h : m.Bounded n) : n.rest = (m.turnedTo n).rest := by
  rw [h.same]
  rfl

theorem Ctl.Bounded.port {m n : Ctl} (h : m.Bounded n) (p : Port) : n.port p = m.silenced p := by
  rw [h.same]
  cases p <;> rfl

theorem Ctl.Bounded.quiet {m n : Ctl} (h : m.Bounded n) (hq : m.Quiet) : n.Quiet := by
  obtain ⟨hpa, hpb, hsvc, hpcs, hmirs⟩ := hq
  refine ⟨?_, ?_, ?_, ?_, h.clean hmirs⟩
  · rw [h.same]; exact hpa
  · rw [h.same]; exact hpb
  · rw [h.same]; exact hsvc
  · rw [h.same]; exact hpcs

section
variable {s : State}

/-- A plain boundary by the frame of its command. -/
theorem EndsBut.of_orbitBoundary (sample : Sample) (iavg : BitVec 8) (hq : s.ctl.Quiet) (hpower : s.ctl.power = .run)
    (h : s.ctl.fresh.Plain) : ∃ t x, exec (.orbitBoundary sample iavg) s = .next t ∧ s.ctl.fresh.Bounded x ∧
      EndsBut s t boundaryFlds x ∧
      ∀ f i, fkey f i ≠ fkey F.FLT_STATUS_FAULTN 0 → t.ctl.get f i = x.get f i := by
  obtain ⟨x, hx⟩ : ∃ x, x = s.ctl.fresh.boundary s.arr sample iavg.toNat := ⟨_, rfl⟩
  have hbounded : s.ctl.fresh.Bounded x := by rw [hx]; exact h.bounded _ _ _
  have hruns : (s.ctl.fresh.orb.run && s.ctl.fresh.alive) = true := by
    rw [h.run, Ctl.alive, Ctl.fresh, hpower]
    rfl
  have heffect : (if s.ctl.fresh.orb.run && s.ctl.fresh.alive then s.ctl.fresh.boundary s.arr sample iavg.toNat else s.ctl.fresh) = x :=
    (if_pos hruns).trans hx.symm
  have hquiet := hbounded.quiet hq.fresh
  have hraised : x.raised = [] := by rw [hbounded.same]; rfl
  have hedits : x.edits = [] := by rw [hbounded.same]; rfl
  refine ⟨_, x, rfl, hbounded, EndsBut.of_effect heffect hquiet hraised hedits hbounded.keeps rfl, fun f i hf => ?_⟩
  exact get_of_effect heffect hquiet hraised hedits i hf

end

end Sys2Proof.Machine

namespace Sys2Proof.OrbitTime

open Sys2Proof.Machine

/-- Settles O11: each stage of the boundary in turn, and the frame of the whole. -/
theorem orbitBoundary : Obligations.OrbitBoundary := by
  unfold Obligations.OrbitBoundary
  intro s sample iavg hq hpower hrun hcut hslew hstep hcommit hsource0 hsource1 hnrefs hscrub hfast hsample hsteps hcool hreserves
  have hplain : s.ctl.fresh.Plain :=
    ⟨hrun, hcut, hslew, hstep, hcommit, hsource0, hsource1, hnrefs, hscrub, hfast, hsample, hsteps, hcool, hreserves⟩
  obtain ⟨t, x, ht, hbounded, hends, hget⟩ := EndsBut.of_orbitBoundary sample iavg hq hpower hplain
  have hturned : s.ctl.fresh.turnedTo x = s.ctl.fresh.turnedTo t.ctl := (hends.part (s.ctl.fresh.turnedTo ·) fun _ => rfl).symm
  have hrest : t.ctl.rest = (s.ctl.fresh.turnedTo t.ctl).rest := by rw [hends.rest, hbounded.rest, hturned]
  have hnow : t.ctl.now = max s.ctl.now (s.ctl.orbitAt + s.ctl.orb.period) :=
    (hends.part (·.now) fun _ => rfl).trans (by rw [hbounded.same]; rfl)
  have horbitAt : t.ctl.orbitAt = max s.ctl.now (s.ctl.orbitAt + s.ctl.orb.period) :=
    (hends.part (·.orbitAt) fun _ => rfl).trans (by rw [hbounded.same]; rfl)
  have hdie : ∀ d < 16, t.ctl.die d = (s.ctl.die d).atBoundary d t.ctl.now := fun d hd => by
    rw [hnow]
    exact (hends.part (·.die d) fun _ => rfl).trans (hbounded.turned d hd)
  have htel : ∀ e ∈ telFlds, t.ctl.get e.1 = Sparse.getD s.ctl.tel e.2 0 % 2 ^ e.1.width := fun e he =>
    (hget e.1 0 (by revert e; decide)).trans (hbounded.tel e he)
  refine ⟨t, ht, ⟨hends.pending, hends.arr, hends.flds, hrest⟩, ?_, hnow, horbitAt.trans hnow.symm, ?_, fun d hd hother => ?_,
    fun d hd hst hcatchup => ?_, fun p => ?_, ?_, htel (F.TEL_PA_RD, 0) (by simp [telFlds]),
    htel (F.TEL_ARR_WR, 7) (by simp [telFlds]), ?_⟩
  · exact (hget _ _ (by decide)).trans hbounded.orbit
  · exact (hget _ _ (by decide)).trans hbounded.hot
  · exact (hdie d hd).trans (Die.atBoundary_other hother _ _)
  · exact (hdie d hd).trans (Die.atBoundary_cut hst hcatchup _ _)
  · have hport : t.ctl.port p = x.port p := hends.part (·.port p) fun _ => by cases p <;> rfl
    exact (hport.trans (hbounded.port p)).trans (s.ctl.fresh.silenced_eq p)
  · exact (hget _ _ (by decide)).trans hbounded.telOrbit
  · exact (hends.part (·.lease) fun _ => rfl).trans (by rw [hbounded.same]; rfl)

end Sys2Proof.OrbitTime
end

section
/-!
Beacons of a peer (R332, R333). `Obligations.Beacons` states what a link keeps when its peer has been silent for 256 boundaries as
`LinkSt.afterDown`, which resets the roles of the latest ID_BEACON, and `Ctl.linkDown` keeps them: the next ID_BEACON of the link sets
them, and R330 compares them only after one has come.
-/

namespace Sys2Proof.Machine

/-- Link 1 UP for 256 boundaries since its latest ID_BEACON, which showed region 0 of the peer as a PRIMARY. No severity that the fault
of the link can have has a reaction. -/
def silentPeer : State :=
  { ctl :=
      { power := .run
        flds := (fkey F.GL_MODE_STATE 0, Mode.active.code) :: (fkey F.PL_PHY_STATUS_STATE 1, 2) ::
          (List.range 8).map fun v => (fkey F.FLT_REACT v, 0)
        links := [(1, { idAge := 256, roles := 1 })] } }

theorem silentPeer_quiet : silentPeer.ctl.Quiet := by
  simp [silentPeer, Ctl.Quiet, Ctl.Clean]

theorem silentPeer_bare : silentPeer.ctl.Bare 1 where
  ops := rfl
  regions := by decide +kernel

theorem silentPeer_calm : silentPeer.ctl.Calm (plSource 1 0x0B0) where
  sev := by decide +kernel
  none := by decide +kernel
  head := by decide +kernel
  room := by decide +kernel

/-- The link goes DOWN, and keeps the roles. -/
theorem silentPeer_idBeaconTimeout {t : State} (h : exec (.idBeaconTimeout .l1) silentPeer = .next t) :
    t.ctl.plUp 1 = false ∧ (t.ctl.lnk 1).roles = 1 := by
  injection h with h
  subst h
  decide +kernel

end Sys2Proof.Machine

namespace Sys2Proof.OrbitTime

open Sys2Proof.Machine

/-- Refutes O53: its clause on ID_BEACON_TIMEOUT of a bare link claims that the link is left as `LinkSt.afterDown`, with ROLES 0. At
`silentPeer` the link that goes DOWN keeps ROLES 1. -/
theorem not_beacons : ¬ Obligations.Beacons := by
  unfold Obligations.Beacons
  intro h
  obtain ⟨-, -, -, -, -, -, -, -, hdown, -⟩ :=
    h silentPeer .l1 0 0 false 0 0 0 0 0 0 0 0 false false 0 0 0 silentPeer_quiet (by decide +kernel) rfl
  obtain ⟨t, ht, ⟨-, -, hlink⟩, -⟩ := hdown (by decide) silentPeer_bare silentPeer_calm
  have hclaimed : (t.ctl.lnk 1).roles = 0 := congrArg LinkSt.roles hlink
  rw [(silentPeer_idBeaconTimeout ht).2] at hclaimed
  exact Nat.one_ne_zero hclaimed

end Sys2Proof.OrbitTime
end

section
/-!
Power-on reset and the start of TRO (R103, R350 to R352, R378).
-/

namespace Sys2Proof.Machine

/-! ## What drives the pin -/

/-- While power-on reset is not released no mode drives `FAULT_N`. -/
theorem Ctl.drive_unpowered {m : Ctl} (h : m.power ≠ .run) : m.drive = m := by
  have hmode : ∀ l, m.inMode l = false := fun l => by simp [Ctl.inMode, h]
  simp [Ctl.drive, hmode]

/-- In the modes before TRAINING `FAULT_N` is low (R390). -/
theorem Ctl.drive_low {m : Ctl} (hlow : m.inMode [.powered, .fuseload, .selftest, .quarantine] = true)
    (hhigh : m.inMode [.training, .ready, .active, .drowse] = false) : m.drive.get F.FLT_STATUS_FAULTN = 0 := by
  simp [Ctl.drive, hlow, hhigh]

/-! ## Power-on reset -/

/-- A power-on reset leaves no request and no raise. -/
theorem Ctl.quiet_powerOn (m : Ctl) (p : Power) : (m.powerOn p).Quiet := by
  simp [Ctl.powerOn, Ctl.Quiet, Ctl.Clean]

section
variable {s : State} {c : Instr} {g : Arr → Ctl → Ctl}

/-- A command whose effect is a power-on reset that stays held, or the loss of VAON (R350, R351). -/
theorem FromPowerOn.of_effect {p : Power} (hc : exec c s = .next (run s g)) (hx : g s.arr s.ctl.fresh = s.ctl.fresh.powerOn p)
    (hp : p ≠ .run) : ∃ t, exec c s = .next t ∧ FromPowerOn s t p := by
  have hdrive : (s.ctl.fresh.powerOn p).drive = s.ctl.fresh.powerOn p := Ctl.drive_unpowered hp
  have hcut : s.ctl.fresh.fuseCut.fuse = s.ctl.fuseCut.fuse := by
    unfold Ctl.fuseCut
    rw [Ctl.fresh_fuseOp]
    cases s.ctl.fuseOp <;> rfl
  have hrun := run_quiet s g (by rw [hx]; exact Ctl.quiet_powerOn _ _) (by rw [hx]; rfl) (by rw [hx]; rfl)
  rw [hx, hdrive] at hrun
  refine ⟨_, hc, ?_⟩
  rw [hrun]
  refine ⟨rfl, rfl, fun _ _ => rfl, ?_⟩
  rw [← hcut]
  rfl

/-- What the start of TRO makes of a state (R103, R350, R352). -/
def Ctl.troStarted (m : Ctl) : Ctl :=
  (({ m with power := .run, present := some true }.put F.CLK_STATUS_TRO_STARTED 1).put F.CLK_STATUS_MON_ARMED 1).put F.GL_MODE_STATE
    Mode.powered.code

theorem Ctl.get_troStarted (m : Ctl) : m.troStarted.get F.CLK_STATUS_TRO_STARTED = 1 ∧
    m.troStarted.get F.CLK_STATUS_MON_ARMED = 1 ∧ m.troStarted.mode = Mode.powered.code := by
  have hother : ∀ (n : Ctl) (f g : Fld) (v : Nat), g.id ≠ f.id → (n.put f v).get g = n.get g :=
    fun n f g v h => n.get_set_fld v h (by decide) (by decide)
  refine ⟨?_, ?_, Ctl.get_set_same _ _ _ _⟩
  · rw [Ctl.troStarted, hother _ _ _ _ (by decide), hother _ _ _ _ (by decide)]
    exact Ctl.get_set_same _ _ _ _
  · rw [Ctl.troStarted, hother _ _ _ _ (by decide)]
    exact Ctl.get_set_same _ _ _ _

theorem Ctl.inMode_troStarted (m : Ctl) (l : List Mode) : m.troStarted.inMode l = l.any fun x => x.code == Mode.powered.code := by
  obtain ⟨-, -, hmode⟩ := m.get_troStarted
  have hpower : m.troStarted.power = .run := rfl
  simp [Ctl.inMode, hmode, hpower]

/-- TRO_START releases power-on reset into POWERED. -/
theorem Ends.of_troStart (hq : s.ctl.Quiet) (hpower : s.ctl.power = .porHeld) : ∃ t, exec .troStart s = .next t ∧
    Ends s t [(F.CLK_STATUS_TRO_STARTED, 0), (F.CLK_STATUS_MON_ARMED, 0), (F.GL_MODE_STATE, 0)] s.ctl.fresh.troStarted ∧
    t.ctl.get F.CLK_STATUS_TRO_STARTED = 1 ∧ t.ctl.get F.CLK_STATUS_MON_ARMED = 1 ∧ t.ctl.mode = Mode.powered.code ∧
    t.ctl.get F.FLT_STATUS_FAULTN = 0 := by
  obtain ⟨x, hx⟩ : ∃ x, x = s.ctl.fresh.troStarted := ⟨_, rfl⟩
  have hrun : exec .troStart s = .next (run s fun _ m => m.troStarted) :=
    congrArg Host.Outcome.next (run_congr (if_pos hpower))
  have hquiet : x.Quiet := by rw [hx]; exact hq
  have hraised : x.raised = [] := by rw [hx]; rfl
  have hedits : x.edits = [] := by rw [hx]; rfl
  have hflds : s.ctl.SameFlds x [(F.CLK_STATUS_TRO_STARTED, 0), (F.CLK_STATUS_MON_ARMED, 0), (F.GL_MODE_STATE, 0)] := by
    rw [hx]
    exact (((Ctl.SameFlds.of_flds rfl []).trans (Ctl.SameFlds.put _ _ 1)).trans (Ctl.SameFlds.put _ _ 1)).trans
      (Ctl.SameFlds.put _ _ _)
  obtain ⟨t, ht, hends, hget⟩ := exec_of_effect hrun hx.symm hquiet hraised hedits hflds
  obtain ⟨hstarted, harmed, hmode⟩ := s.ctl.fresh.get_troStarted
  rw [← hx] at hstarted harmed hmode ⊢
  refine ⟨t, ht, hends, (hget _ _ (by decide)).trans hstarted, (hget _ _ (by decide)).trans harmed,
    (hget _ _ (by decide)).trans hmode, ?_⟩
  have hrunEq := run_quiet s (fun _ m => m.troStarted) (by rw [← hx]; exact hquiet) (by rw [← hx]; exact hraised)
    (by rw [← hx]; exact hedits)
  rw [hrun] at ht
  injection ht with ht
  rw [← ht, hrunEq]
  exact Ctl.drive_low (Ctl.inMode_troStarted _ _) (Ctl.inMode_troStarted _ _)

end

end Sys2Proof.Machine

namespace Sys2Proof.HostPorts

open Sys2Proof.Machine

/-- Settles O5: each clause is the effect of its command. -/
theorem powerOnReset : Obligations.PowerOnReset := by
  unfold Obligations.PowerOnReset
  intro s hq
  refine ⟨fun hoff => ?_, fun hrun => ?_, fun hon => ?_, fun _ => ?_, fun hheld => ?_⟩
  · exact FromPowerOn.of_effect rfl (if_pos hoff) (by decide)
  · exact FromPowerOn.of_effect rfl (if_pos (by rw [Ctl.alive, Ctl.fresh_power, hrun]; rfl)) (by decide)
  · exact FromPowerOn.of_effect rfl (if_neg hon) (by decide)
  · obtain ⟨t, ht, hends⟩ := exec_of_noField (s := s) (c := .troStartTimeout) rfl rfl hq.fresh rfl rfl rfl
    exact ⟨t, ht, hends.of_rest rfl⟩
  · obtain ⟨t, ht, hends, hgets⟩ := Ends.of_troStart hq hheld
    exact ⟨t, ht, hends.of_rest rfl, hgets⟩

end Sys2Proof.HostPorts
end

section
/-!
Rules of the state that the statements of chapter 3 rest on: a group pair after each update of its port, what a command reads of a host
port as it starts, and the frame of a command that changes one port.
-/

namespace Sys2Proof

/-- A second put at a key takes the place of the first. -/
theorem Sparse.put_put {α : Type} (t : Sparse α) (k : Nat) (v w : α) : Sparse.put (Sparse.put t k v) k w = Sparse.put t k w := by
  induction t with
  | nil => simp [Sparse.put]
  | cons e t ih =>
    obtain ⟨j, u⟩ := e
    rcases lt_trichotomy k j with h | rfl | h
    · simp [Sparse.put, h]
    · simp [Sparse.put]
    · simp [Sparse.put, Nat.not_lt_of_gt h, (Nat.ne_of_lt h).symm, ih]

/-- A delete undoes a put at its key. -/
theorem Sparse.del_put {α : Type} (t : Sparse α) (k : Nat) (v : α) : Sparse.del (Sparse.put t k v) k = Sparse.del t k := by
  induction t with
  | nil => simp [Sparse.put, Sparse.del]
  | cons e t ih =>
    obtain ⟨j, u⟩ := e
    rcases lt_trichotomy k j with h | rfl | h
    · simp [Sparse.put, Sparse.del, h]
    · simp [Sparse.put, Sparse.del]
    · have hne : j ≠ k := Nat.ne_of_lt h
      unfold Sparse.del at ih ⊢
      simp [Sparse.put, Nat.not_lt_of_gt h, hne.symm, hne, ih]

/-! ## Copies of the fields of a port -/

theorem Port.idx_lt (p : Port) : p.idx < 2 := by cases p <;> decide
theorem Port.idx_injective : Function.Injective Port.idx := fun p q h => by
  cases p <;> cases q <;> simp_all [Port.idx]
theorem Port.copy_lt (p : Port) : p.idx < 1048576 := p.idx_lt.trans (by decide)
theorem Port.lane_lt (p : Port) (g : Fin 16) : p.idx * 16 + g.val < 1048576 := by
  have := p.idx_lt
  omega

end Sys2Proof

namespace Sys2Proof.Machine

/-! ## Group pairs -/

theorem Ctl.modGrp_eq (m : Ctl) (p : Port) (g : Nat) (f : Grp → Grp) :
    m.modGrp p g f = m.setPort p ((m.port p).setGrp g (f ((m.port p).grp g))) := rfl

theorem PortSt.grp_setGrp_other (x : PortSt) {g k : Nat} (v : Grp) (h : k ≠ g) : (x.setGrp g v).grp k = x.grp k :=
  Sparse.getD_setD_other _ _ _ _ _ _ h

/-- A pair that is set twice, first to what an unlisted pair is not, is what it was set to last. -/
theorem PortSt.setGrp_setGrp (x : PortSt) (g : Nat) {v : Grp} (w : Grp) (h : v ≠ {}) : (x.setGrp g v).setGrp g w = x.setGrp g w := by
  have hgrps : Sparse.setD (Sparse.setD x.grps g v {}) g w {} = Sparse.setD x.grps g w {} := by
    by_cases hw : w = {}
    · simp [Sparse.setD, h, hw, Sparse.del_put]
    · simp [Sparse.setD, h, hw, Sparse.put_put]
  simp [PortSt.setGrp, hgrps]


/-! ## A port as a command starts, and after updates elsewhere -/

@[simp] theorem Ctl.port_fresh (m : Ctl) (p : Port) : m.fresh.port p = m.port p := by cases p <;> rfl
@[simp] theorem Ctl.grp_fresh (m : Ctl) (p : Port) (g : Nat) : m.fresh.grp p g = m.grp p g := by cases p <;> rfl
theorem Ctl.grp_eq (m : Ctl) (p : Port) (g : Nat) : m.grp p g = (m.port p).grp g := rfl
theorem Ctl.port_setPort_other (m : Ctl) {p q : Port} (x : PortSt) (h : q ≠ p) : (m.setPort p x).port q = m.port q := by
  match p, q, h with
  | .a, .a, h | .b, .b, h => exact absurd rfl h
  | .a, .b, _ | .b, .a, _ => rfl
@[simp] theorem Ctl.setPort_flds (m : Ctl) (p : Port) (x : PortSt) : (m.setPort p x).flds = m.flds := by cases p <;> rfl
@[simp] theorem Ctl.setPort_out (m : Ctl) (p : Port) (x : PortSt) : (m.setPort p x).out = m.out := by cases p <;> rfl
@[simp] theorem Ctl.setPort_entry (m : Ctl) (p : Port) (x : PortSt) : (m.setPort p x).entry = m.entry := by cases p <;> rfl
@[simp] theorem Ctl.inMode_setPort (m : Ctl) (p : Port) (x : PortSt) (l : List Mode) : (m.setPort p x).inMode l = m.inMode l := by
  cases p <;> rfl
theorem Ctl.noted_setPort (m : Ctl) (p : Port) (x : PortSt) : (m.setPort p x).noted = m.noted.setPort p x := by cases p <;> rfl
@[simp] theorem Ctl.setPort_self (m : Ctl) (p : Port) : m.setPort p (m.port p) = m := by cases p <;> rfl

/-- What a command reads of a link and its groups is a matter of the register fields. -/
theorem Ctl.link_congr {m n : Ctl} (h : n.flds = m.flds) (p : Port) :
    n.link p = m.link p ∧ n.linkUp p = m.linkUp p ∧ (∀ g, n.grpOn p g = m.grpOn p g) ∧ n.lowest p = m.lowest p := by
  have hget : ∀ f i, n.get f i = m.get f i := Ctl.get_congr h
  refine ⟨hget _ _, ?_, fun g => ?_, ?_⟩
  · simp only [Ctl.linkUp, Ctl.link, hget]
  · simp only [Ctl.grpOn, hget]
  · simp only [Ctl.lowest, Ctl.grpOn, hget]

@[simp] theorem Ctl.linkUp_setPort (m : Ctl) (p q : Port) (x : PortSt) : (m.setPort q x).linkUp p = m.linkUp p :=
  (Ctl.link_congr (Ctl.setPort_flds m q x) p).2.1
@[simp] theorem Ctl.grpOn_setPort (m : Ctl) (p q : Port) (x : PortSt) (g : Nat) : (m.setPort q x).grpOn p g = m.grpOn p g :=
  (Ctl.link_congr (Ctl.setPort_flds m q x) p).2.2.1 g
@[simp] theorem Ctl.lowest_setPort (m : Ctl) (p q : Port) (x : PortSt) : (m.setPort q x).lowest p = m.lowest p :=
  (Ctl.link_congr (Ctl.setPort_flds m q x) p).2.2.2

/-! ## Updates that write registers only -/

/-- From `m` to `n` only the register fields of `l` are written; what is sent, and the note of an orbit that is not idle, may differ. -/
structure Ctl.OnlyFlds (m n : Ctl) (l : List (Fld × Nat)) : Prop where
  rest : n.rest = m.rest
  raised : n.raised = m.raised
  edits : n.edits = m.edits
  flds : m.SameFlds n l

section
variable {m n k : Ctl} {l l' : List (Fld × Nat)}

theorem Ctl.OnlyFlds.refl (m : Ctl) : m.OnlyFlds m [] := ⟨rfl, rfl, rfl, Ctl.SameFlds.refl _ _⟩

theorem Ctl.OnlyFlds.trans (h : m.OnlyFlds n l) (h' : n.OnlyFlds k l') : m.OnlyFlds k (l ++ l') :=
  ⟨h'.rest.trans h.rest, h'.raised.trans h.raised, h'.edits.trans h.edits, h.flds.trans h'.flds⟩

theorem Ctl.OnlyFlds.mono (h : m.OnlyFlds n l) (hl : ∀ e ∈ l, e ∈ l') : m.OnlyFlds n l' :=
  ⟨h.rest, h.raised, h.edits, h.flds.mono hl⟩

theorem Ctl.OnlyFlds.set (m : Ctl) (f : Fld) (i v : Nat) : m.OnlyFlds (m.set f i v) [(f, i)] :=
  ⟨Ctl.rest_of_set _ _ _ _, rfl, rfl, Ctl.SameFlds.set m f i v⟩

theorem Ctl.OnlyFlds.noted (m : Ctl) : m.OnlyFlds m.noted [] := ⟨rfl, rfl, rfl, Ctl.SameFlds.refl _ _⟩

theorem Ctl.OnlyFlds.emit (m : Ctl) (o : Out) : m.OnlyFlds (m.emit o) [] := ⟨rfl, rfl, rfl, Ctl.SameFlds.refl _ _⟩

theorem Ctl.OnlyFlds.setPort (h : m.OnlyFlds n l) (p : Port) (x : PortSt) : (m.setPort p x).OnlyFlds (n.setPort p x) l := by
  refine ⟨?_, ?_, ?_, fun f i hf => ?_⟩
  · rw [Ctl.rest_setPort, Ctl.rest_setPort, h.rest]
  · rw [Ctl.setPort_raised, Ctl.setPort_raised, h.raised]
  · rw [Ctl.setPort_edits, Ctl.setPort_edits, h.edits]
  · rw [Ctl.get_setPort, Ctl.get_setPort]
    exact h.flds f i hf

/-- What a part of the state that is no register is as before. -/
theorem Ctl.OnlyFlds.part {α : Type} (h : m.OnlyFlds n l) (part : Ctl → α) (hpart : ∀ n : Ctl, part n.rest = part n) :
    part n = part m := by
  rw [← hpart n, h.rest, hpart]

theorem Ctl.OnlyFlds.port (h : m.OnlyFlds n l) (p : Port) : n.port p = m.port p :=
  h.part (·.port p) fun _ => by cases p <;> rfl

/-- No request comes to wait with a change of registers. -/
theorem Ctl.OnlyFlds.quiet (h : m.OnlyFlds n l) (hq : m.Quiet) : n.Quiet := by
  have hparts : (n.pa, n.pb, n.svc, n.pcs, n.mirs) = (m.pa, m.pb, m.svc, m.pcs, m.mirs) :=
    h.part (fun m => (m.pa, m.pb, m.svc, m.pcs, m.mirs)) fun _ => rfl
  simp only [Prod.mk.injEq] at hparts
  obtain ⟨hpa, hpb, hsvc, hpcs, hmirs⟩ := hparts
  unfold Ctl.Quiet Ctl.Clean
  rw [hpa, hpb, hsvc, hpcs, hmirs]
  exact hq

/-- The modes that a stack is in turn on one register. -/
theorem Ctl.OnlyFlds.inMode (h : m.OnlyFlds n l) (hl : ∀ e ∈ l, F.GL_MODE_STATE.id ≠ e.1.id ∧ e.2 < 1048576) (ms : List Mode) :
    n.inMode ms = m.inMode ms := by
  have hmode : n.mode = m.mode := h.flds.get_eq hl (by decide)
  have hpower : n.power = m.power := h.part (·.power) fun _ => rfl
  unfold Ctl.inMode
  rw [hmode, hpower]

end

/-! ## Frames of the commands of a port -/

section
variable {s : State} {c : Instr} {g : Arr → Ctl → Ctl} {p : Port} {x : Ctl} {y : PortSt} {l : List (Fld × Nat)}

/-- The next state of a command that changes one port, which has no request, and writes registers. -/
theorem exec_of_port (hc : exec c s = .next (run s g)) (hx : g s.arr s.ctl.fresh = x)
    (h : (s.ctl.fresh.setPort p y).OnlyFlds x l) (hq : s.ctl.Quiet) (hy : y.reqs = []) :
    ∃ t, exec c s = .next t ∧ Ends s t l (s.ctl.setPort p y) ∧
      ∀ f i, f.id ≠ F.FLT_STATUS_FAULTN.id → i < 1048576 → t.ctl.get f i = x.get f i := by
  have hflds : s.ctl.SameFlds x l := fun f i hf => (h.flds f i hf).trans (Ctl.get_setPort _ _ _ _ _)
  have hraised : x.raised = [] := h.raised.trans (Ctl.setPort_raised _ _ _)
  have hedits : x.edits = [] := h.edits.trans (Ctl.setPort_edits _ _ _)
  obtain ⟨t, ht, hends, hget⟩ := exec_of_effect hc hx (h.quiet (hq.fresh.setPort p hy)) hraised hedits hflds
  refine ⟨t, ht, hends.of_rest ?_, fun f i hf hi => hget f i (fkey_ne hf hi (by decide))⟩
  rw [h.rest, Ctl.rest_setPort, Ctl.rest_setPort, Ctl.rest_of_fresh]

/-- The same of a command that writes no register. -/
theorem exec_of_portOnly (hc : exec c s = .next (run s g)) (hx : g s.arr s.ctl.fresh = s.ctl.fresh.setPort p y)
    (hq : s.ctl.Quiet) (hy : y.reqs = []) : ∃ t, exec c s = .next t ∧ Ends s t [] (s.ctl.setPort p y) := by
  obtain ⟨t, ht, hends, -⟩ := exec_of_port hc hx (Ctl.OnlyFlds.refl _) hq hy
  exact ⟨t, ht, hends⟩

/-- The same of a command that raises a fault which takes no reaction. -/
theorem exec_of_portRaised {src info : Nat} (hc : exec c s = .next (run s g)) (hx : g s.arr s.ctl.fresh = x.raiseAs src info false)
    (h : (s.ctl.fresh.setPort p y).OnlyFlds x l) (hq : s.ctl.Quiet) (hy : y.reqs = []) (hcalm : s.ctl.Calm src) (hsrc : src < 512)
    (hl : ∀ e ∈ l, e.1.id ∉ [413, 426, 427, 417, 416, 425] ∧ e.2 < 1048576) :
    ∃ t, exec c s = .next t ∧ EndsRaised s t src l (s.ctl.setPort p y) ∧
      ∀ f i, f.id ∉ [415, 427, 417, 416, 425] → i < 1048576 → t.ctl.get f i = x.get f i := by
  have hrest : x.rest = (s.ctl.setPort p y).rest := by
    rw [h.rest, Ctl.rest_setPort, Ctl.rest_setPort, Ctl.rest_of_fresh]
  obtain ⟨hends, hget⟩ := EndsRaised.of_calm s g src info false l _ x hcalm hsrc hx (h.quiet (hq.fresh.setPort p hy))
    (h.raised.trans (Ctl.setPort_raised _ _ _)) (h.edits.trans (Ctl.setPort_edits _ _ _))
    (fun f i hf => (h.flds f i hf).trans (Ctl.get_setPort _ _ _ _ _)) hl hrest
  exact ⟨_, hc, hends, hget⟩

/-- What the latest command sent. -/
theorem out_of_effect (hx : g s.arr s.ctl.fresh = x) (hq : x.Quiet) (hr : x.raised = []) (he : x.edits = []) :
    (run s g).ctl.out = x.out := by
  subst hx
  rw [run_quiet s g hq hr he]
  exact Ctl.out_drive _

end

end Sys2Proof.Machine
end

section
/-!
Replays (R90, R91).
-/

namespace Sys2Proof.Machine

/-- What a replay is due for (R90): a NAK with a new ACK, one that is 64 periods old, or 256 periods without a release. -/
theorem Grp.replayDue_iff (q : Grp) : q.replayDue = true ↔
    (q.nakIn.isSome = true ∧ (q.nakIn ≠ q.nakAck ∨ 64 ≤ q.replayAge)) ∨ 256 ≤ q.idleAge := by
  simp [Grp.replayDue]

/-- How many replays in a row start from the oldest flit, with one that starts now. -/
def Grp.inRow (q : Grp) (o : TxFlit) : Nat := if q.fromCount ≠ 0 ∧ q.fromSeq = o.seq then q.fromCount + 1 else 1

/-- A pair whose replay has begun: every unacknowledged flit is to be resent (R91). -/
def Grp.replaying (q : Grp) (o : TxFlit) : Grp :=
  { q with again := q.buf.length, nakAck := if q.nakIn.isSome then q.nakIn else q.nakAck, nakIn := none
           replayAge := 0, idleAge := 0, fromSeq := o.seq, fromCount := q.inRow o }

/-- A pair that asks for recovery in place of a fourth replay in a row (R91). -/
def Grp.givesUp (q : Grp) : Grp := { q with recov := true, nakIn := none, fromCount := 0 }

section
variable {m : Ctl} {p : Port} {g : Nat} {o : TxFlit} {r : List TxFlit}

/-- What REPLAY does to an awake pair with flits that are not acknowledged. -/
theorem Ctl.replay_eq (hup : m.linkUp p = true) (hon : m.grpOn p g = true) (hawake : (m.grp p g).txIdle = false)
    (hbuf : (m.grp p g).buf = o :: r) :
    m.replay p g =
      if (m.grp p g).replayDue = false then m
      else if 4 ≤ (m.grp p g).inRow o then m.modGrp p g Grp.givesUp
      else (m.modGrp p g fun q => q.replaying o).bump F.PA_COUNT_REPLAYS p.idx := by
  unfold Ctl.replay
  simp only [hbuf, hup, hon, hawake, Bool.not_true, Bool.or_false, Bool.false_eq_true, if_false, Bool.not_eq_true']
  have hrow : (if ((m.grp p g).fromCount != 0 && decide ((m.grp p g).fromSeq = o.seq)) = true then (m.grp p g).fromCount + 1 else 1) =
      (m.grp p g).inRow o := by
    simp [Grp.inRow]
  simp only [hrow]
  rfl

end

end Sys2Proof.Machine

namespace Sys2Proof.HostPorts

open Sys2Proof.Machine

/-- Settles O18: by whether a replay is due, and whether it would be the fourth in a row. -/
theorem replay : Obligations.Replay := by
  unfold Obligations.Replay
  intro s p g o r q n after hq hup hon hawake hbuf due
  have hport : s.ctl.fresh.port p = s.ctl.port p := s.ctl.port_fresh p
  have hgrp : s.ctl.fresh.grp p g.val = q := by rw [Ctl.grp_eq, hport]; rfl
  have heq := Ctl.replay_eq (m := s.ctl.fresh) (p := p) (g := g.val) (o := o) (r := r) hup hon (by rw [hgrp]; exact hawake)
    (by rw [hgrp]; exact hbuf)
  have hdue : due ↔ q.replayDue = true := q.replayDue_iff.symm
  have hreqs : ∀ y, ((s.ctl.port p).setGrp g.val y).reqs = [] := fun _ => hq.reqs p
  have hrow : q.inRow o = n := rfl
  rw [hgrp, hrow] at heq
  by_cases hd : due
  · rw [if_neg (by simp [hdue.mp hd])] at heq
    by_cases hn : 4 ≤ n
    · rw [if_pos hn, Ctl.modGrp_eq, hport] at heq
      obtain ⟨t, ht, hends⟩ := exec_of_portOnly (c := .replay p g) rfl heq hq (hreqs _)
      exact ⟨t, ht, fun h => absurd hd h, fun _ h => absurd hn (by omega), fun _ _ => hends⟩
    · rw [if_neg hn, Ctl.modGrp_eq, hport] at heq
      obtain ⟨t, ht, hends, hget⟩ := exec_of_port (c := .replay p g) rfl heq (Ctl.OnlyFlds.set _ _ _ _) hq (hreqs _)
      refine ⟨t, ht, fun h => absurd hd h, fun _ _ => ⟨?_, ?_⟩, fun _ h => absurd h hn⟩
      · have hagain : q.replaying o = { q with
            again := r.length + 1, nakAck := if q.nakIn.isSome then q.nakIn else q.nakAck, nakIn := none,
            replayAge := 0, idleAge := 0, fromSeq := o.seq, fromCount := n } := by
          rw [Grp.replaying, hbuf]; rfl
        rw [← hagain]
        exact hends
      · rw [hget _ _ (by decide) p.copy_lt, Ctl.get_bump_same, Ctl.get_setPort]
        rfl
  · rw [if_pos (by simpa [hdue] using hd)] at heq
    obtain ⟨t, ht, hends⟩ := exec_of_noField (c := .replay p g) rfl heq hq.fresh rfl rfl rfl
    exact ⟨t, ht, fun _ => hends.of_rest rfl, fun h => absurd h hd, fun h => absurd h hd⟩

end Sys2Proof.HostPorts
end

section
/-!
The upstream period of a port with one pair in use (R68, R79, R86).
-/

namespace Sys2Proof.Machine

/-! ## A port with one pair in use -/

/-- A fold of which one element alone acts, on a state that keeps what makes the others idle, is that element's step. -/
theorem foldl_one {α β : Type} {f : β → α → β} {P : β → Prop} {a : α} (hother : ∀ x b, P x → b ≠ a → f x b = x) {x : β} (hx : P x)
    (hkept : P (f x a)) {l : List α} (hl : l.Nodup) (hmem : a ∈ l) : l.foldl f x = f x a := by
  induction l with
  | nil => exact absurd hmem List.not_mem_nil
  | cons b l ih =>
    obtain ⟨hb, hl⟩ := List.nodup_cons.mp hl
    rw [List.foldl_cons]
    by_cases hba : b = a
    · subst hba
      exact foldl_same fun c hc => hother _ c hkept fun h => hb (h ▸ hc)
    · rw [hother x b hx hba]
      exact ih hl ((List.mem_cons.mp hmem).resolve_left (Ne.symm hba))

section
variable {m : Ctl} {p : Port} {g : Nat}

theorem Ctl.grpOn_single (h : m.get F.PA_STATUS_GROUPS p.idx = 2 ^ g) (k : Nat) : m.grpOn p k = decide (g = k) := by
  rw [Ctl.grpOn, h, bit, Nat.testBit_two_pow]

/-- With no event record waiting none is placed on a pair. -/
theorem Ctl.placeEvents_none (h : (m.port p).events = []) : m.placeEvents p = m := by
  unfold Ctl.placeEvents
  cases m.lowest p with
  | none => rfl
  | some g => simp [h]

/-- With nothing to send a pair may go idle as its downstream direction and its replay buffer allow. -/
theorem Ctl.mayIdle_of_nothing (hevents : (m.port p).events = []) (hup : (m.grp p g).up = []) (hslots : (m.grp p g).slots = []) :
    m.mayIdle p g = ((m.grp p g).rxIdle && (m.grp p g).buf.isEmpty) := by
  simp [Ctl.mayIdle, Ctl.upWaits, hevents, hup, hslots]

/-! ## The period of a pair -/

/-- A pair once its period has passed. -/
def Grp.aged (y : Grp) : Grp :=
  { y with period := (y.period + 1) % 4096, replayAge := min 64 (y.replayAge + 1)
           idleAge := if y.buf.isEmpty then 0 else min 256 (y.idleAge + 1), ackOnly := y.ackOnly.map (· + 1)
           quiet := if y.rxIdle && y.buf.isEmpty && y.up.isEmpty && y.slots.isEmpty then min 64 (y.quiet + 1) else 0 }

/-- The end of a pair's period: its ages. -/
def Ctl.agePair (m : Ctl) (p : Port) (g : Nat) : Ctl :=
  m.modGrp p g fun x =>
    { x with period := (x.period + 1) % 4096, replayAge := min 64 (x.replayAge + 1),
             idleAge := if x.buf.isEmpty then 0 else min 256 (x.idleAge + 1),
             ackOnly := x.ackOnly.map (· + 1), quiet := if m.mayIdle p g then min 64 (x.quiet + 1) else 0 }

theorem Ctl.agePair_eq (hevents : (m.port p).events = []) (hup : (m.grp p g).up = []) (hslots : (m.grp p g).slots = []) :
    m.agePair p g = m.setPort p ((m.port p).setGrp g (m.grp p g).aged) := by
  have hquiet : m.mayIdle p g = ((m.grp p g).rxIdle && (m.grp p g).buf.isEmpty && (m.grp p g).up.isEmpty &&
      (m.grp p g).slots.isEmpty) := by
    rw [Ctl.mayIdle_of_nothing hevents hup hslots, hup, hslots]
    simp
  rw [Ctl.agePair, hquiet]
  rfl

theorem Ctl.agePair_emit (m : Ctl) (o : Out) (p : Port) (g : Nat) : (m.emit o).agePair p g = (m.agePair p g).emit o := by
  cases p <;> rfl

/-- The period of an awake pair that resends nothing, and whose queue holds no LINK_IDLE. -/
theorem Ctl.pairPeriod_new (hawake : (m.grp p g).txIdle = false) (hagain : (m.grp p g).again = 0)
    (hidles : (m.grp p g).up.any UpItem.idles = false) :
    m.pairPeriod p g = (m.sendNew p g (m.recordWaits p)).agePair p g := by
  simp [Ctl.pairPeriod, hawake, hagain, hidles, Ctl.agePair]

/-- A pair with nothing to carry sends a NULL (R79). -/
theorem Ctl.sendNew_null (held : Nat → Bool) (hup : (m.grp p g).up = []) (hslots : (m.grp p g).slots = [])
    (hrh : (m.grp p g).rhDue = 0) (hwd : (m.grp p g).wdDue = 0) :
    m.sendNew p g held = m.emit (.flit p g (flitBits (m.grp p g) { typ := 0, seq := 0, period := (m.grp p g).period }) []) := by
  simp [Ctl.sendNew, hup, hslots, hrh, hwd]

/-- A completion without payload or CONFIG_READ value, of a request that no session counts. -/
def plainCpl (tag status session at_ : Nat) (sent : Sent) : UpItem := .cpl tag status none false none session sent at_

/-- The CPL flit of one such completion (R121). -/
def cplFlit (q : Grp) (tag status session at_ : Nat) : TxFlit :=
  { typ := 3, seq := q.seq, hv := 1, period := q.period, body := tag + status * 2 ^ 14
    items := [plainCpl tag status session at_ (.again false)] }

/-- A pair that has sent its one completion, and keeps its flit for replay (R86). -/
def Grp.sentCpl (q : Grp) (tag status session at_ : Nat) : Grp :=
  { q with up := [], seq := (q.seq + 1) % 4096, buf := [cplFlit q tag status session at_], ackOnly := none }

/-- A pair with one completion waiting, and every earlier flit acknowledged, sends it in a CPL flit (R86). -/
theorem Ctl.sendNew_cpl {held : Nat → Bool} {tag status session at_ : Nat} (hslots : (m.grp p g).slots = [])
    (hrh : (m.grp p g).rhDue = 0) (hwd : (m.grp p g).wdDue = 0) (hbuf : (m.grp p g).buf = [])
    (hup : (m.grp p g).up = [plainCpl tag status session at_ (.fresh false)]) (hheld : status = 1 → held tag = false) :
    m.sendNew p g held =
      (m.setPort p ((m.port p).setGrp g ((m.grp p g).sentCpl tag status session at_))).emit
        (.flit p g (flitBits (m.grp p g) (cplFlit (m.grp p g) tag status session at_)) []) := by
  have hgoes : (status == 1 && held tag) = false := by
    by_cases h : status = 1
    · simp [hheld h]
    · simp [h]
  have htake : takeCpls held 0 [plainCpl tag status session at_ (.fresh false)] = [plainCpl tag status session at_ (.fresh false)] := by
    simp [takeCpls, plainCpl, cplSize, hgoes]
  have hchoice : chooseFlit held [plainCpl tag status session at_ (.fresh false)] =
      (3, [plainCpl tag status session at_ (.fresh false)], tag + status * 2 ^ 14, 1) := by
    show (if (takeCpls held 0 [plainCpl tag status session at_ (.fresh false)]).isEmpty then 1 else 3, _, _, _) = _
    rw [htake]
    simp [plainCpl, cplBody', cplBits, cplHv, cplSize, b2n]
  simp only [Ctl.sendNew, hup, hslots, hrh, hwd, hbuf, hchoice]
  simp [plainCpl, payloadSlots, UpItem.kept, Ctl.sentCpl, Ctl.sentSlots, Ctl.modGrp_eq, Grp.sentCpl, cplFlit, ← Ctl.grp_eq, hslots, hrh,
    hwd, hbuf, hup]

/-! ## The period of the port -/

/-- When the next control period of a port begins (R66, R68). -/
def Ctl.nextPeriod (m : Ctl) (p : Port) : Nat :=
  match (m.port p).periodAt with
  | some s => max m.now (s + m.periodPs p)
  | none => m.now

theorem Ctl.now_le_nextPeriod (m : Ctl) (p : Port) : m.now ≤ m.nextPeriod p := by
  unfold Ctl.nextPeriod
  split
  · exact Nat.le_max_left _ _
  · exact Nat.le_refl _

/-- A state in which the next control period of a port has begun. -/
def Ctl.inPeriod (m : Ctl) (p : Port) : Ctl :=
  { m with now := m.nextPeriod p }.setPort p { m.port p with periodAt := some (m.nextPeriod p) }

theorem Ctl.port_inPeriod (m : Ctl) (p : Port) : (m.inPeriod p).port p = { m.port p with periodAt := some (m.nextPeriod p) } :=
  Ctl.port_setPort _ _ _

theorem Ctl.grp_inPeriod (m : Ctl) (p : Port) (g : Nat) : (m.inPeriod p).grp p g = m.grp p g := by
  rw [Ctl.grp_eq, Ctl.port_inPeriod]
  rfl

theorem Ctl.inPeriod_flds (m : Ctl) (p : Port) : (m.inPeriod p).flds = m.flds := Ctl.setPort_flds _ _ _

theorem Ctl.recordWaits_inPeriod (m : Ctl) (p : Port) (tag : Nat) : (m.inPeriod p).recordWaits p tag = m.recordWaits p tag := by
  unfold Ctl.recordWaits
  rw [Ctl.port_inPeriod]

/-- The period of a port with one pair in use is that of the pair. -/
theorem Ctl.controlPeriod_one (hlink : m.linkUp p = true) (hgroups : m.get F.PA_STATUS_GROUPS p.idx = 2 ^ g) (hg : g < 16)
    (hevents : (m.port p).events = []) (hkept : ((m.inPeriod p).pairPeriod p g).flds = m.flds) :
    m.controlPeriod p = (m.inPeriod p).pairPeriod p g := by
  have hstart : (m.reach (m.nextPeriod p)).modPort p (fun x => { x with periodAt := some (m.nextPeriod p) }) = m.inPeriod p := by
    have hnow : m.reach (m.nextPeriod p) = { m with now := m.nextPeriod p } := by
      rw [Ctl.reach, Nat.max_eq_right (m.now_le_nextPeriod p)]
    rw [hnow, Ctl.modPort_eq, Ctl.inPeriod]
    cases p <;> rfl
  have hplace : (m.inPeriod p).placeEvents p = m.inPeriod p :=
    Ctl.placeEvents_none (by rw [Ctl.port_inPeriod]; exact hevents)
  have hfold : (List.range 16).foldl (fun n k => if n.grpOn p k then n.pairPeriod p k else n) (m.inPeriod p) =
      if (m.inPeriod p).grpOn p g then (m.inPeriod p).pairPeriod p g else m.inPeriod p := by
    have hon : ∀ n : Ctl, n.flds = m.flds → ∀ k, n.grpOn p k = decide (g = k) :=
      fun n hn => Ctl.grpOn_single ((Ctl.get_congr hn _ _).trans hgroups)
    refine foldl_one (P := fun n : Ctl => n.flds = m.flds) (f := fun n k => if n.grpOn p k then n.pairPeriod p k else n)
      (fun n k hn hk => ?_) (m.inPeriod_flds p) ?_ List.nodup_range (List.mem_range.mpr hg)
    · simp [hon n hn, Ne.symm hk]
    · simpa [hon _ (m.inPeriod_flds p)] using hkept
  have hon : (m.inPeriod p).grpOn p g = true := by
    rw [Ctl.grpOn_single ((Ctl.get_congr (m.inPeriod_flds p) _ _).trans hgroups)]
    simp
  calc m.controlPeriod p
      = (List.range 16).foldl (fun n k => if n.grpOn p k then n.pairPeriod p k else n)
          (((m.reach (m.nextPeriod p)).modPort p fun x => { x with periodAt := some (m.nextPeriod p) }).placeEvents p) :=
        if_neg (by simp [hlink])
    _ = (m.inPeriod p).pairPeriod p g := by rw [hstart, hplace, hfold, if_pos hon]

end

/-! ## The command -/

section
variable {s : State} {p : Port} {g : Fin 16}

/-- The period of a port that has one pair in use, of a pair that ends the period as `y` and has sent a flit. -/
theorem Ends.of_controlPeriod {y : Grp} {o : Out} (hq : s.ctl.Quiet) (hlink : s.ctl.linkUp p = true)
    (hgroups : s.ctl.get F.PA_STATUS_GROUPS p.idx = 2 ^ g.val) (hevents : (s.ctl.port p).events = [])
    (hpair : (s.ctl.fresh.inPeriod p).pairPeriod p g.val =
      ((s.ctl.fresh.inPeriod p).setPort p (((s.ctl.fresh.inPeriod p).port p).setGrp g.val y)).emit o) :
    ∃ t, exec (.controlPeriod p) s = .next t ∧
      Ends s t [] ({ s.ctl with now := s.ctl.fresh.nextPeriod p }.setPort p
        ({ s.ctl.port p with periodAt := some (s.ctl.fresh.nextPeriod p) }.setGrp g.val y)) ∧
      t.ctl.out = [o] := by
  obtain ⟨x, hx⟩ : ∃ x, x = ((s.ctl.fresh.inPeriod p).setPort p (((s.ctl.fresh.inPeriod p).port p).setGrp g.val y)).emit o := ⟨_, rfl⟩
  have hflds : x.flds = s.ctl.flds := by
    rw [hx, Ctl.emit_flds, Ctl.setPort_flds, Ctl.inPeriod_flds, Ctl.fresh_flds]
  have heffect : s.ctl.fresh.controlPeriod p = x := by
    rw [hx, ← hpair]
    exact Ctl.controlPeriod_one hlink hgroups g.isLt (by rw [Ctl.port_fresh]; exact hevents) (by rw [hpair, ← hx, hflds]; rfl)
  have heq : x = ({ s.ctl.fresh with now := s.ctl.fresh.nextPeriod p }.setPort p
      ({ s.ctl.port p with periodAt := some (s.ctl.fresh.nextPeriod p) }.setGrp g.val y)).emit o := by
    rw [hx, Ctl.port_inPeriod, Ctl.inPeriod, Ctl.setPort_setPort, Ctl.port_fresh]
  have hbegun : ({ s.ctl.fresh with now := s.ctl.fresh.nextPeriod p } : Ctl).Quiet := hq
  have hquiet : x.Quiet := by
    rw [heq]
    exact hbegun.setPort p (hq.reqs p)
  have hraised : x.raised = [] := by rw [heq, Ctl.emit_raised, Ctl.setPort_raised]; rfl
  have hedits : x.edits = [] := by rw [heq, Ctl.emit_edits, Ctl.setPort_edits]; rfl
  refine ⟨_, rfl, Ends.of_effect heffect hquiet hraised hedits (Ctl.SameFlds.of_flds hflds []) ?_,
    (out_of_effect heffect hquiet hraised hedits).trans ?_⟩
  · rw [heq, Ctl.rest_of_emit, Ctl.rest_setPort, Ctl.rest_setPort]
    rfl
  · rw [heq]
    show ((Ctl.setPort _ _ _).out ++ [o]) = [o]
    rw [Ctl.setPort_out]
    rfl

end

end Sys2Proof.Machine

namespace Sys2Proof.HostPorts

open Sys2Proof.Machine

/-- Settles O17: the period of the pair, with nothing to carry and with one completion. -/
theorem controlPeriod : Obligations.ControlPeriod := by
  unfold Obligations.ControlPeriod
  intro s p g q x now aged hq hlink hgroups hevents hawake hagain hslots hrh hwd
  obtain ⟨m, hm⟩ : ∃ m, m = s.ctl.fresh.inPeriod p := ⟨_, rfl⟩
  have hgrp : m.grp p g.val = q := by rw [hm, Ctl.grp_inPeriod, Ctl.grp_fresh]
  have hmevents : (m.port p).events = [] := by rw [hm, Ctl.port_inPeriod, Ctl.port_fresh]; exact hevents
  have hnow : s.ctl.fresh.nextPeriod p = now := by
    unfold Ctl.nextPeriod
    rw [Ctl.port_fresh]
    rfl
  have hnew : q.up.any UpItem.idles = false → m.pairPeriod p g.val = (m.sendNew p g.val (m.recordWaits p)).agePair p g.val :=
    fun h => Ctl.pairPeriod_new (by rw [hgrp]; exact hawake) (by rw [hgrp]; exact hagain) (by rw [hgrp]; exact h)
  refine ⟨fun hup => ?_, fun tag status session at_ hbuf hup hrecord => ?_⟩
  · have hpair : m.pairPeriod p g.val = (m.setPort p ((m.port p).setGrp g.val q.aged)).emit
        (.flit p g.val (flitBits q { typ := 0, seq := 0, period := q.period }) []) := by
      rw [hnew (by simp [hup]), Ctl.sendNew_null _ (by rw [hgrp]; exact hup) (by rw [hgrp]; exact hslots) (by rw [hgrp]; exact hrh)
        (by rw [hgrp]; exact hwd), Ctl.agePair_emit,
        Ctl.agePair_eq hmevents (by rw [hgrp]; exact hup) (by rw [hgrp]; exact hslots), hgrp]
    rw [hm] at hpair
    rw [← hnow]
    exact Ends.of_controlPeriod hq hlink hgroups hevents hpair
  · intro c
    obtain ⟨y, hy⟩ : ∃ y, y = q.sentCpl tag status session at_ := ⟨_, rfl⟩
    have hyne : y ≠ {} := by
      rw [hy]
      exact fun h => absurd (congrArg Grp.buf h) (List.cons_ne_nil _ _)
    have hwaits : status = 1 → m.recordWaits p tag = false := by
      rw [hm, Ctl.recordWaits_inPeriod, Ctl.recordWaits, Ctl.port_fresh]
      exact hrecord
    have hpair : m.pairPeriod p g.val = (m.setPort p ((m.port p).setGrp g.val y.aged)).emit (.flit p g.val (flitBits q c) []) := by
      rw [hnew (by rw [hup]; rfl), Ctl.sendNew_cpl (by rw [hgrp]; exact hslots) (by rw [hgrp]; exact hrh) (by rw [hgrp]; exact hwd)
        (by rw [hgrp]; exact hbuf) (by rw [hgrp]; exact hup) hwaits, Ctl.agePair_emit, hgrp, ← hy,
        Ctl.agePair_eq (by rw [Ctl.port_setPort]; exact hmevents) (by rw [Ctl.grp_eq, Ctl.port_setPort, PortSt.grp_setGrp, hy]; rfl)
          (by rw [Ctl.grp_eq, Ctl.port_setPort, PortSt.grp_setGrp, hy]; exact hslots),
        Ctl.grp_eq, Ctl.port_setPort, PortSt.grp_setGrp, Ctl.setPort_setPort, PortSt.setGrp_setGrp _ _ _ hyne]
      rfl
    rw [hm] at hpair
    rw [← hnow]
    rw [hy] at hpair
    exact Ends.of_controlPeriod hq hlink hgroups hevents hpair

end Sys2Proof.HostPorts
end

section
/-!
Downstream flits (R68, R80, R87, R129): a flit by its CRC, its type and its SEQ, and the headers of an accepted one.
-/

namespace Sys2Proof.Machine

/-! ## What a flit changes of its port -/

/-- From `x` to `y` no request of a port and none but one of its pairs changes. -/
structure PortSt.KeepsBut (x y : PortSt) (g : Nat) : Prop where
  reqs : y.reqs = x.reqs
  others : ∀ k, k ≠ g → y.grp k = x.grp k

theorem PortSt.KeepsBut.refl (x : PortSt) (g : Nat) : x.KeepsBut x g := ⟨rfl, fun _ _ => rfl⟩

theorem PortSt.KeepsBut.trans {x y z : PortSt} {g : Nat} (h : x.KeepsBut y g) (h' : y.KeepsBut z g) : x.KeepsBut z g :=
  ⟨h'.reqs.trans h.reqs, fun k hk => (h'.others k hk).trans (h.others k hk)⟩

theorem PortSt.KeepsBut.setGrp (x : PortSt) (g : Nat) (v : Grp) : x.KeepsBut (x.setGrp g v) g :=
  ⟨rfl, fun _ hk => x.grp_setGrp_other v hk⟩

/-- From `x` to `y` a pair has taken headers, which hold the next places in port order (R129); of the pair itself only the payload that
it waits for may change. -/
structure PortSt.Headed (x y : PortSt) (g : Nat) (hs : List (Nat × Option Nat)) : Prop where
  keeps : x.KeepsBut y g
  hdrs : y.hdrs.map (fun h => (h.pos, h.bits, h.ext)) =
    x.hdrs.map (fun h => (h.pos, h.bits, h.ext)) ++ hs.zipIdx.map fun e => (x.nextPos + e.2, e.1.1, e.1.2)
  nextPos : y.nextPos = x.nextPos + hs.length
  silent : y.silent = x.silent
  grp : y.grp g = { x.grp g with needs := (y.grp g).needs }

/-- A port that has taken one header. -/
def PortSt.takeHdr (x : PortSt) (g : Nat) (h : Hdr) : PortSt :=
  let y := { x with hdrs := x.hdrs ++ [h], nextPos := x.nextPos + 1 }
  if h.need = 0 then y else y.setGrp g { y.grp g with needs := (y.grp g).needs ++ [(h.pos, h.need)] }

theorem PortSt.Headed.nil (x : PortSt) (g : Nat) : x.Headed x g [] := ⟨.refl x g, by simp, rfl, rfl, rfl⟩

theorem PortSt.headed_takeHdr (x : PortSt) (g : Nat) (h : Hdr) (hpos : h.pos = x.nextPos) :
    x.Headed (x.takeHdr g h) g [(h.bits, h.ext)] := by
  unfold PortSt.takeHdr
  extract_lets y
  split
  · exact ⟨⟨rfl, fun _ _ => rfl⟩, by simp [y, hpos], rfl, rfl, rfl⟩
  · refine ⟨⟨rfl, fun k hk => y.grp_setGrp_other _ hk⟩, ?_, rfl, rfl, ?_⟩
    · simp [y, hpos, PortSt.setGrp]
    · rw [PortSt.grp_setGrp]; rfl

theorem PortSt.Headed.cons {x y z : PortSt} {g : Nat} {e : Nat × Option Nat} {hs : List (Nat × Option Nat)} (h : x.Headed y g [e])
    (h' : y.Headed z g hs) : x.Headed z g (e :: hs) := by
  refine ⟨h.keeps.trans h'.keeps, ?_, ?_, h'.silent.trans h.silent, ?_⟩
  · have hshift : hs.zipIdx 1 = hs.zipIdx.map fun e => (e.1, e.2 + 1) := List.zipIdx_succ
    rw [h'.hdrs, h.hdrs, h.nextPos]
    simp [List.zipIdx_cons, hshift, Function.comp_def, Nat.add_assoc, Nat.add_comm 1]
  · rw [h'.nextPos, h.nextPos]
    simp only [List.length_cons, List.length_nil]
    omega
  · rw [h'.grp, h.grp]

/-- The headers of an accepted flit, none with a reserved OP, take their places in turn (R129). -/
theorem Ctl.takeHeaders_headed {p : Port} {g : Nat} {hs : List (Nat × Option Nat)} (m : Ctl)
    (hop : ∀ e ∈ hs, e.1 % 16 < 7) : ∃ y, m.takeHeaders p g hs = m.setPort p y ∧ (m.port p).Headed y g hs := by
  induction hs generalizing m with
  | nil => exact ⟨m.port p, (m.setPort_self p).symm, .nil _ _⟩
  | cons e hs ih =>
    obtain ⟨h, hh⟩ : ∃ h : Hdr, h = { pos := (m.port p).nextPos, g := g, bits := e.1, ext := e.2, rh := rhCost e, need := slotNeed e.1,
                                      accAt := m.now, reuse := m.tagOpen p (bits e.1 6 14) } := ⟨_, rfl⟩
    have hfirst : m.takeHeaders p g (e :: hs) = (m.setPort p ((m.port p).takeHdr g h)).takeHeaders p g hs := by
      have hop7 : ¬ 7 ≤ e.1 % 16 := by have := hop e (by simp); omega
      have hneed : h.need = slotNeed e.1 := by rw [hh]
      unfold PortSt.takeHdr
      rw [hneed]
      simp only [Ctl.takeHeaders, hop7, if_false, Ctl.modGrp_eq, Ctl.port_setPort, Ctl.setPort_setPort, ← hh]
      split
      · rfl
      · rw [hh]
    obtain ⟨y, hy, hheaded⟩ := ih (m.setPort p ((m.port p).takeHdr g h)) fun e he => hop e (List.mem_cons_of_mem _ he)
    rw [Ctl.port_setPort] at hheaded
    have hone := (m.port p).headed_takeHdr g h (by rw [hh])
    refine ⟨y, by rw [hfirst, hy, Ctl.setPort_setPort], PortSt.Headed.cons ?_ hheaded⟩
    rw [hh] at hone ⊢
    exact hone

/-! ## A flit of an awake pair -/

/-- A pair that has heard one more period, with its raw data slots (R80). -/
def Grp.hear (q : Grp) (slots : List Nat) : Grp :=
  { q with hold := (q.hold.filter fun e => decide (seqSub q.rxPeriod e.1 < 64)) |> fun h => Sparse.put h q.rxPeriod slots }

/-- What a flit does but for the count of periods. -/
def Ctl.actFlit (m : Ctl) (p : Port) (g : Nat) (f : Flit) : Ctl :=
  if !f.crcOk then (m.set F.PA_ERR_CRC p.idx 1).modGrp p g fun x => { x with nak := true }
  else
    let m := (m.modPort p fun x => { x with silent := none }).takeAck p g f
    let x := m.grp p g
    if f.typ = 0 || f.seq != x.e then m
    else
      let hs := if f.typ = 2 then reqHeaders f.body f.hv 4 0 else []
      match judgeFlit x f hs with
      | [] => m.acceptFlit p g f hs
      | es => (es.foldl (fun m e => m.flitError p e) m).modGrp p g fun x => { x with recov := true }

section
variable {m : Ctl} {p : Port} {g : Nat} {f : Flit}

/-- A flit of a pair whose downstream direction is awake, and stays so. -/
theorem Ctl.controlFlit_awake {v : Nat} {slots : List Nat} (hup : m.linkUp p = true) (hon : m.grpOn p g = true)
    (hawake : (m.grp p g).rxIdle = false)
    (hstays : (((m.modGrp p g fun q => q.hear slots).actFlit p g (flitOf v)).grp p g).rxIdle = false) :
    m.controlFlit p g v slots =
      ((m.modGrp p g fun q => q.hear slots).actFlit p g (flitOf v)).modGrp p g
        fun x => { x with rxPeriod := ((m.grp p g).rxPeriod + 1) % 4096 } := by
  have hlast : ∀ n : Ctl, (n.grp p g).rxIdle = false →
      (n.modGrp p g fun x => if x.rxIdle then x else { x with rxPeriod := ((m.grp p g).rxPeriod + 1) % 4096 }) =
        n.modGrp p g fun x => { x with rxPeriod := ((m.grp p g).rxPeriod + 1) % 4096 } := by
    intro n hn
    rw [Ctl.grp_eq] at hn
    simp [Ctl.modGrp_eq, hn]
  have hdef : m.controlFlit p g v slots = ((m.modGrp p g fun q => q.hear slots).actFlit p g (flitOf v)).modGrp p g
      fun x => if x.rxIdle then x else { x with rxPeriod := ((m.grp p g).rxPeriod + 1) % 4096 } := by
    refine (if_neg (by simp [hup, hon])).trans ((if_neg (by simp [hawake])).trans ?_)
    rfl
  rw [hdef, hlast _ hstays]

theorem Ctl.actFlit_badCrc (h : f.crcOk = false) :
    m.actFlit p g f = (m.set F.PA_ERR_CRC p.idx 1).modGrp p g fun x => { x with nak := true } :=
  if_pos (by simp [h])

/-- With no flit to release and nothing asked by the host, the acknowledgement of a flit changes nothing. -/
theorem Ctl.takeAck_none (hbuf : (m.grp p g).buf = []) (hnak : f.nak = false) (hrecov : f.recov = false) : m.takeAck p g f = m := by
  simp [Ctl.takeAck, hbuf, hnak, hrecov]

/-- A port that has had a flit with a good CRC (R109). -/
def Ctl.heard (m : Ctl) (p : Port) : Ctl := m.setPort p { m.port p with silent := none }

theorem Ctl.grp_heard (m : Ctl) (p : Port) (g : Nat) : (m.heard p).grp p g = m.grp p g := by
  rw [Ctl.grp_eq, Ctl.heard, Ctl.port_setPort]
  rfl

/-- A NULL, or a flit out of its turn, is not accepted (R87). -/
theorem Ctl.actFlit_passed (hcrc : f.crcOk = true) (hbuf : (m.grp p g).buf = []) (hnak : f.nak = false) (hrecov : f.recov = false)
    (h : f.typ = 0 ∨ f.seq ≠ (m.grp p g).e) : m.actFlit p g f = m.heard p := by
  have hack : (m.heard p).takeAck p g f = m.heard p := Ctl.takeAck_none (by rw [Ctl.grp_heard]; exact hbuf) hnak hrecov
  refine (if_neg (by simp [hcrc])).trans ?_
  show (if f.typ = 0 || f.seq != (((m.heard p).takeAck p g f).grp p g).e then (m.heard p).takeAck p g f else _) = _
  rw [hack, Ctl.grp_heard]
  exact if_pos (by simpa using h)

/-- A flit in its turn without a protocol error is accepted (R87). -/
theorem Ctl.actFlit_accepted {hs : List (Nat × Option Nat)} (hcrc : f.crcOk = true) (hbuf : (m.grp p g).buf = []) (hnak : f.nak = false)
    (hrecov : f.recov = false) (htyp : f.typ ≠ 0) (hseq : f.seq = (m.grp p g).e)
    (hhs : hs = if f.typ = 2 then reqHeaders f.body f.hv 4 0 else []) (hjudge : judgeFlit (m.grp p g) f hs = []) :
    m.actFlit p g f = (m.heard p).acceptFlit p g f hs := by
  have hack : (m.heard p).takeAck p g f = m.heard p := Ctl.takeAck_none (by rw [Ctl.grp_heard]; exact hbuf) hnak hrecov
  have hheard : (m.modPort p fun x => { x with silent := none }) = m.heard p := rfl
  refine (if_neg (by simp [hcrc])).trans ?_
  simp only [hheard, hack, Ctl.grp_heard, ← hhs, hjudge]
  exact if_neg (by simp [htyp, hseq])

/-- A pair that has accepted a sequenced flit (R87, R88). -/
def Grp.took (q : Grp) : Grp :=
  { q with e := (q.e + 1) % 4096, taken := true, nak := false, rxAck := false, ackOnly := q.ackOnly.map fun _ => 0 }

theorem Grp.took_ne (q : Grp) : q.took ≠ {} := fun h => absurd (congrArg Grp.taken h) (by decide : ¬ true = false)

theorem Ctl.tookFlit_eq (m : Ctl) (p : Port) (g : Nat) :
    m.tookFlit p g = m.setPort p { (m.port p).setGrp g (m.grp p g).took with silent := none } := by
  unfold Ctl.tookFlit
  rw [Ctl.modPort_eq, Ctl.modGrp_eq, Ctl.setPort_setPort, Ctl.port_setPort]
  rfl

/-- A pair that has accepted a flit, with the credits that its headers take (R87, R116). -/
def Grp.accepts (q : Grp) (hs : List (Nat × Option Nat)) : Grp := { q.took with rh := q.rh - (hs.map rhCost).sum }

/-- A side that is awake needs no resume to acknowledge. -/
theorem Ctl.resumeToAck_awake (h : (m.grp p g).txIdle = false) : m.resumeToAck p g = m := by
  simp [Ctl.resumeToAck, h]

/-- An accepted flit without payload or a link-control command, on an awake pair of an awake stack (R87, R129). -/
theorem Ctl.acceptFlit_headed {hs : List (Nat × Option Nat)} (hdrowse : m.inMode [.drowse] = false) (hentry : m.entry = none)
    (hdv : f.dv = 0) (htyp : f.typ ≠ 5) (hawake : (m.grp p g).txIdle = false) (hop : ∀ e ∈ hs, e.1 % 16 < 7) :
    ∃ y, m.acceptFlit p g f hs = m.noted.setPort p y ∧
      ({ (m.port p).setGrp g ((m.grp p g).accepts hs) with silent := none } : PortSt).Headed y g hs := by
  obtain ⟨x, hx⟩ : ∃ x : PortSt, x = { (m.port p).setGrp g ((m.grp p g).accepts hs) with silent := none } := ⟨_, rfl⟩
  have hpicked : ((List.range 4).filter fun s => bit f.dv s) = [] := by simp [hdv, bit]
  obtain ⟨y, hy, hheaded⟩ := (m.noted.setPort p x).takeHeaders_headed (p := p) (g := g) (hs := hs) hop
  rw [Ctl.port_setPort] at hheaded
  refine ⟨y, ?_, by rw [← hx]; exact hheaded⟩
  have htook : (m.noted.tookFlit p g).modGrp p g (fun x => { x with rh := x.rh - (hs.map rhCost).sum, wd := x.wd - 0 }) =
      m.noted.setPort p x := by
    have htwice := (m.port p).setGrp_setGrp g ((m.grp p g).accepts hs) (m.grp p g).took_ne
    have hgrp : ({ (m.port p).setGrp g (m.grp p g).took with silent := none } : PortSt).grp g = (m.grp p g).took :=
      PortSt.grp_setGrp _ _ _
    have hnoted : m.noted.grp p g = m.grp p g := by rw [Ctl.grp_eq, Ctl.port_noted]; rfl
    rw [Ctl.tookFlit_eq, hnoted, Ctl.port_noted, Ctl.modGrp_eq, Ctl.setPort_setPort, Ctl.port_setPort, hgrp, hx, ← htwice]
    rfl
  have hstays : ((m.noted.setPort p y).grp p g).txIdle = false := by
    rw [Ctl.grp_eq, Ctl.port_setPort, hheaded.grp, hx]
    show (((m.port p).setGrp g ((m.grp p g).accepts hs)).grp g).txIdle = false
    rw [PortSt.grp_setGrp]
    exact hawake
  unfold Ctl.acceptFlit
  simp only [Ctl.newWork_awake hdrowse hentry, hpicked, List.length_nil, List.map_nil, htook, hy, Ctl.setPort_setPort, Ctl.bindSlots,
    Ctl.resumeToAck_awake hstays]
  exact if_neg htyp

end

/-! ## The command -/

section
variable {s t : State} {p : Port} {l : List (Fld × Nat)}

/-- What the frame of a command that changes one port says of the ports. -/
theorem Ends.ports {y : PortSt} (h : Ends s t l (s.ctl.setPort p y)) :
    Ends s t l { s.ctl with pa := t.ctl.pa, pb := t.ctl.pb } ∧ t.ctl.port p = y ∧ ∀ q, q ≠ p → t.ctl.port q = s.ctl.port q := by
  have hport : ∀ q, t.ctl.port q = (s.ctl.setPort p y).port q := fun q => h.part (·.port q) fun _ => by cases q <;> rfl
  refine ⟨h.of_rest ?_, (hport p).trans (Ctl.port_setPort _ _ _), fun q hq => (hport q).trans (Ctl.port_setPort_other _ _ hq)⟩
  have ha := hport .a
  have hb := hport .b
  simp only [Ctl.port] at ha hb
  rw [ha, hb]
  cases p <;> rfl

variable {g : Fin 16} {flit : BitVec 512} {slots : List (BitVec 512)} {n : Ctl} {y : PortSt}

/-- A flit of a pair whose downstream direction is awake, from what it does to its port but for the count of periods. -/
theorem exec_of_flit (hlen : slots.length = 4) (hq : s.ctl.Quiet) (hup : s.ctl.linkUp p = true) (hon : s.ctl.grpOn p g.val = true)
    (hawake : (s.ctl.grp p g.val).rxIdle = false)
    (hact : (s.ctl.fresh.modGrp p g.val fun q => q.hear (slots.map BitVec.toNat)).actFlit p g.val (flitOf flit.toNat) = n.setPort p y)
    (hn : s.ctl.fresh.OnlyFlds n l) (hy : (s.ctl.port p).KeepsBut y g.val) (hstays : (y.grp g.val).rxIdle = false) :
    ∃ t, exec (.controlFlit p g flit slots) s = .next t ∧ Ends s t l { s.ctl with pa := t.ctl.pa, pb := t.ctl.pb } ∧
      ((∀ q, q ≠ p → t.ctl.port q = s.ctl.port q) ∧ ∀ k, k ≠ g.val → t.ctl.grp p k = s.ctl.grp p k) ∧
      t.ctl.port p = y.setGrp g.val { y.grp g.val with rxPeriod := ((s.ctl.grp p g.val).rxPeriod + 1) % 4096 } ∧
      ∀ f i, f.id ≠ F.FLT_STATUS_FAULTN.id → i < 1048576 → t.ctl.get f i = n.get f i := by
  obtain ⟨z, hz⟩ : ∃ z, z = y.setGrp g.val { y.grp g.val with rxPeriod := ((s.ctl.grp p g.val).rxPeriod + 1) % 4096 } := ⟨_, rfl⟩
  have heffect : s.ctl.fresh.controlFlit p g.val flit.toNat (slots.map BitVec.toNat) = n.setPort p z := by
    rw [Ctl.controlFlit_awake (m := s.ctl.fresh) hup hon (by rw [Ctl.grp_fresh]; exact hawake) (by rw [hact, Ctl.grp_eq, Ctl.port_setPort]; exact hstays), hact,
      Ctl.modGrp_eq, Ctl.setPort_setPort, Ctl.port_setPort, Ctl.grp_fresh, hz]
  have hkeeps : (s.ctl.port p).KeepsBut z g.val := by rw [hz]; exact hy.trans (.setGrp _ _ _)
  obtain ⟨t, ht, hends, hget⟩ := exec_of_port (c := .controlFlit p g flit slots) (if_pos hlen) heffect (hn.setPort p z) hq
    (hkeeps.reqs.trans (hq.reqs p))
  obtain ⟨hends', hport, hothers⟩ := hends.ports
  refine ⟨t, ht, hends', ⟨hothers, fun k hk => ?_⟩, hport.trans hz, fun f i hf hi => (hget f i hf hi).trans (Ctl.get_setPort _ _ _ _ _)⟩
  rw [Ctl.grp_eq, hport]
  exact hkeeps.others k hk

end

end Sys2Proof.Machine

namespace Sys2Proof.HostPorts

open Sys2Proof.Machine

/-- Settles O16: a flit with a bad CRC, one that is not accepted, and an accepted one, by what each does to its port. -/
theorem controlFlit : Obligations.ControlFlit := by
  unfold Obligations.ControlFlit
  intro s p g flit slots f x q hs others hlen hq hup hon hawake
  obtain ⟨m, hm⟩ : ∃ m, m = s.ctl.fresh.modGrp p g.val fun q => q.hear (slots.map BitVec.toNat) := ⟨_, rfl⟩
  obtain ⟨r, hr⟩ : ∃ r, r = q.hear (slots.map BitVec.toNat) := ⟨_, rfl⟩
  have hport : m = s.ctl.fresh.setPort p (x.setGrp g.val r) := by rw [hm, hr, Ctl.modGrp_eq, Ctl.port_fresh]; rfl
  have hgrp : m.grp p g.val = r := by rw [hport, Ctl.grp_eq, Ctl.port_setPort, PortSt.grp_setGrp]
  have hfirst : x.KeepsBut (x.setGrp g.val r) g.val := .setGrp _ _ _
  have hhear : r = { q with hold := r.hold } := by rw [hr]; rfl
  refine ⟨fun hcrc => ?_, fun hcrc hbuf hnak hrecov hnot => ?_,
    fun hcrc hbuf hnak hrecov htyp hseq htx hdv hjudge hop hdrowse hentry => ?_⟩
  · have hact : m.actFlit p g.val f =
        (s.ctl.fresh.set F.PA_ERR_CRC p.idx 1).setPort p ((x.setGrp g.val r).setGrp g.val { r with nak := true }) := by
      rw [Ctl.actFlit_badCrc hcrc, Ctl.modGrp_eq, Ctl.port_set, hport, Ctl.port_setPort, PortSt.grp_setGrp, Ctl.set_setPort,
        Ctl.setPort_setPort]
    rw [hm] at hact
    obtain ⟨t, ht, hends, hothers, hend, hget⟩ := exec_of_flit hlen hq hup hon hawake hact (.set _ _ _ _) (hfirst.trans (.setGrp _ _ _))
      (by rw [PortSt.grp_setGrp, hhear]; exact hawake)
    rw [PortSt.grp_setGrp] at hend
    refine ⟨t, ht, hends, hothers, (hget _ _ (by decide) p.copy_lt).trans (Ctl.get_set_same _ _ _ _), ?_, ?_, ?_⟩
    · rw [hend]; rfl
    · rw [hend]; rfl
    · rw [Ctl.grp_eq, hend, PortSt.grp_setGrp, hhear]
  · have hact : m.actFlit p g.val f = s.ctl.fresh.setPort p { x.setGrp g.val r with silent := none } := by
      rw [Ctl.actFlit_passed hcrc (by rw [hgrp, hhear]; exact hbuf) hnak hrecov (by rw [hgrp, hhear]; exact hnot), Ctl.heard, hport,
        Ctl.setPort_setPort, Ctl.port_setPort]
    rw [hm] at hact
    have hsame : ({ x.setGrp g.val r with silent := none } : PortSt).grp g.val = r := PortSt.grp_setGrp _ _ _
    obtain ⟨t, ht, hends, hothers, hend, -⟩ := exec_of_flit hlen hq hup hon hawake hact (.refl _)
      (hfirst.trans ⟨rfl, fun _ _ => rfl⟩) (by rw [hsame, hhear]; exact hawake)
    rw [hsame] at hend
    refine ⟨t, ht, hends, hothers, ?_, ?_, ?_, ?_⟩
    · rw [hend]; rfl
    · rw [hend]; rfl
    · rw [hend]; rfl
    · rw [Ctl.grp_eq, hend, PortSt.grp_setGrp, hhear]
  · have htyp5 : f.typ ≠ 5 := by omega
    obtain ⟨w, hw⟩ : ∃ w : PortSt, w = { x.setGrp g.val r with silent := none } := ⟨_, rfl⟩
    have hheard : m.heard p = s.ctl.fresh.setPort p w := by rw [Ctl.heard, hport, Ctl.port_setPort, Ctl.setPort_setPort, hw]
    have hwgrp : w.grp g.val = r := by rw [hw]; exact PortSt.grp_setGrp _ _ _
    obtain ⟨y, hy, hheaded⟩ := Ctl.acceptFlit_headed (m := s.ctl.fresh.setPort p w) (p := p) (g := g.val) (f := f) (hs := hs)
      (by rw [Ctl.inMode_setPort]; exact hdrowse) (by rw [Ctl.setPort_entry]; exact hentry) hdv htyp5
      (by rw [Ctl.grp_eq, Ctl.port_setPort, hwgrp, hhear]; exact htx) (by simpa using hop)
    rw [Ctl.grp_eq, Ctl.port_setPort, hwgrp] at hheaded
    have hact : m.actFlit p g.val f = s.ctl.fresh.noted.setPort p y := by
      rw [Ctl.actFlit_accepted hcrc (by rw [hgrp, hhear]; exact hbuf) hnak hrecov (by omega) (by rw [hgrp, hhear]; exact hseq) rfl
        (by rw [hgrp, hhear]; exact hjudge), hheard, hy, Ctl.noted_setPort, Ctl.setPort_setPort]
    rw [hm] at hact
    have hwkeeps : x.KeepsBut ({ w.setGrp g.val (r.accepts hs) with silent := none } : PortSt) g.val := by
      rw [hw]
      exact ⟨rfl, (hfirst.trans (.setGrp (x.setGrp g.val r) g.val (r.accepts hs))).others⟩
    obtain ⟨ns, hns⟩ : ∃ ns, y.grp g.val = { r.accepts hs with needs := ns } := by
      have hset : ({ w.setGrp g.val (r.accepts hs) with silent := none } : PortSt).grp g.val = r.accepts hs := PortSt.grp_setGrp _ _ _
      exact ⟨_, hset ▸ hheaded.grp⟩
    obtain ⟨t, ht, hends, hothers, hend, -⟩ := exec_of_flit hlen hq hup hon hawake hact (.noted _) (hwkeeps.trans hheaded.keeps)
      (by rw [hns, hhear]; exact hawake)
    refine ⟨t, ht, hends, hothers, ?_, ?_, ?_, ?_⟩
    · rw [hend]
      exact hheaded.hdrs.trans (by rw [hw]; rfl)
    · rw [hend]
      exact hheaded.nextPos.trans (by rw [hw]; rfl)
    · rw [hend]
      exact hheaded.silent
    · rw [Ctl.grp_eq, hend, PortSt.grp_setGrp, hns, hhear]
      rfl

end Sys2Proof.HostPorts
end

section
/-!
Lane health and spare lanes (R95, R96, R98, R99).
-/

namespace Sys2Proof.Machine

/-! ## Measurements -/

/-- The fields that show the worst lane of a port. -/
def eyeFlds (p : Port) : List (Fld × Nat) :=
  [(F.PA_EYE_MIN_LANE, p.idx), (F.PA_EYE_MIN_GROUP, p.idx), (F.PA_EYE_MIN_H, p.idx), (F.PA_EYE_MIN_V, p.idx)]

/-- Show the worst lane of a port (R95). -/
def Ctl.showWorst (m : Ctl) (p : Port) : Ctl :=
  match worstLane (m.port p).margins with
  | some (w, hv) =>
    (((m.set F.PA_EYE_MIN_LANE p.idx (w % 128)).set F.PA_EYE_MIN_GROUP p.idx (w / 128)).set F.PA_EYE_MIN_H p.idx
      (hv / 64)).set F.PA_EYE_MIN_V p.idx (hv % 64)
  | none => m

theorem Ctl.OnlyFlds.showWorst (m : Ctl) (p : Port) : m.OnlyFlds (m.showWorst p) (eyeFlds p) := by
  unfold Ctl.showWorst
  split
  · exact (((Ctl.OnlyFlds.set m _ _ _).trans (.set _ _ _ _)).trans (.set _ _ _ _)).trans (.set _ _ _ _)
  · exact (Ctl.OnlyFlds.refl m).mono (by simp)

/-- A field that shows no worst lane reads as before a measurement. -/
theorem Ctl.get_showWorst (m : Ctl) (p : Port) {f : Fld} {i : Nat} (hf : f.id ∉ [30, 31, 32, 33]) (hi : i < 1048576) :
    (m.showWorst p).get f i = m.get f i := by
  simp only [List.mem_cons, List.not_mem_nil, or_false, not_or] at hf
  obtain ⟨hlane, hgroup, hv, hh⟩ := hf
  refine (Ctl.OnlyFlds.showWorst m p).flds.get_eq (fun e he => ?_) hi
  simp only [eyeFlds, List.mem_cons, List.not_mem_nil, or_false] at he
  have := p.copy_lt
  rcases he with rfl | rfl | rfl | rfl
  · exact ⟨hlane, this⟩
  · exact ⟨hgroup, this⟩
  · exact ⟨hh, this⟩
  · exact ⟨hv, this⟩

/-- A port with one more measurement of a lane, the `n`-th poor one in a row (R95, R96). -/
def PortSt.measured (x : PortSt) (key n hv : Nat) : PortSt :=
  { x with margins := Sparse.put x.margins key hv, poor := Sparse.setD x.poor key n 0 }

/-- Ask the host for a duplicate of a lane on a spare (R96). -/
def Ctl.askSpare (m : Ctl) (p : Port) (g : Nat) (k : LaneKind) (no : Nat) : Ctl :=
  ((m.modPort p fun x => { x with switching := x.switching ++ [(g, k, no)] }).modGrp p g fun x =>
    { x with up := x.up ++ [.linkctl (laneCode k + 1) no] }).resumeUp p g

section
variable {m : Ctl} {p : Port} {g lane h v : Nat}

/-- Is a measurement poor (R95)? -/
def Ctl.Poor (m : Ctl) (p : Port) (h v : Nat) : Prop := h < m.get F.PA_EYE_CFG_H_MIN p.idx ∨ v < m.get F.PA_EYE_CFG_V_MIN p.idx

/-- A measurement of a lane of an enabled pair, the `n`-th poor one in a row. -/
theorem Ctl.eye_eq (hup : m.linkUp p = true) (hon : m.grpOn p g = true) {n : Nat} {m' : Ctl}
    (hn : (if decide (h < m.get F.PA_EYE_CFG_H_MIN p.idx) || decide (v < m.get F.PA_EYE_CFG_V_MIN p.idx) then
      min 4 (Sparse.getD (m.port p).poor (g * 128 + lane) 0 + 1) else 0) = n)
    (hm : (m.setPort p ((m.port p).measured (g * 128 + lane) n (h * 64 + v))).showWorst p = m') :
    m.eye p g lane h v =
      if 4 ≤ n && lane < 80 && m'.is F.PA_CTRL_SPARE_EN p.idx && (m'.portLane p.idx g 0 (if lane < 64 then 0 else 1)).isNone &&
          !((m'.port p).switching.any fun s => s.1 == g && decide (s.2.1 = if lane < 64 then LaneKind.data else .ctrl)) then
        m'.askSpare p g (if lane < 64 then .data else .ctrl) (if lane < 64 then lane else lane - 64)
      else m' := by
  subst hn hm
  refine (if_neg (by simp [hup, hon])).trans ?_
  by_cases hlane : lane < 64 <;> simp only [hlane, if_true, if_false] <;> rfl

/-- A good measurement ends a lane's run of poor ones. -/
theorem Ctl.eye_good (hup : m.linkUp p = true) (hon : m.grpOn p g = true) (hgood : ¬ m.Poor p h v) :
    m.eye p g lane h v = (m.setPort p ((m.port p).measured (g * 128 + lane) 0 (h * 64 + v))).showWorst p := by
  refine (Ctl.eye_eq hup hon (if_neg ?_) rfl).trans (if_neg (by simp))
  simpa [Ctl.Poor, not_or] using hgood

/-- The fourth poor measurement of a data lane in a row, with its spare free. -/
theorem Ctl.eye_fourth (hup : m.linkUp p = true) (hon : m.grpOn p g = true) (hpoor : m.Poor p h v) (hlane : lane < 64) (hg : g < 16)
    (hthree : Sparse.getD (m.port p).poor (g * 128 + lane) 0 = 3) (hen : m.get F.PA_CTRL_SPARE_EN p.idx = 1)
    (hfree : m.get F.PA_LANE_RX_DUSED (p.idx * 16 + g) = 0) (hnone : (m.port p).switching = []) :
    m.eye p g lane h v =
      ((m.setPort p ((m.port p).measured (g * 128 + lane) 4 (h * 64 + v))).showWorst p).askSpare p g .data lane := by
  obtain ⟨n, hn⟩ : ∃ n, n = (m.setPort p ((m.port p).measured (g * 128 + lane) 4 (h * 64 + v))).showWorst p := ⟨_, rfl⟩
  have hget : ∀ f : Fld, f.id ∉ [30, 31, 32, 33] → ∀ i < 1048576, n.get f i = m.get f i := fun f hf i hi => by
    rw [hn, Ctl.get_showWorst _ _ hf hi, Ctl.get_setPort]
  have hnport : n.port p = (m.port p).measured (g * 128 + lane) 4 (h * 64 + v) := by
    rw [hn, (Ctl.OnlyFlds.showWorst _ p).port, Ctl.port_setPort]
  have hspare : n.is F.PA_CTRL_SPARE_EN p.idx = true := by rw [Ctl.is, hget _ (by decide) _ p.copy_lt, hen]; rfl
  have hlanes : n.portLane p.idx g 0 0 = none := by
    show (if n.is F.PA_LANE_RX_DUSED (p.idx * 16 + g) then _ else _) = _
    rw [Ctl.is, hget _ (by decide) _ (p.lane_lt ⟨g, hg⟩), hfree]
    rfl
  have hswitch : (n.port p).switching = [] := by rw [hnport]; exact hnone
  have hcount : (if decide (h < m.get F.PA_EYE_CFG_H_MIN p.idx) || decide (v < m.get F.PA_EYE_CFG_V_MIN p.idx) then
      min 4 (Sparse.getD (m.port p).poor (g * 128 + lane) 0 + 1) else 0) = 4 := by
    rw [hthree]
    exact if_pos (by simpa [Ctl.Poor] using hpoor)
  have hlane80 : lane < 80 := by omega
  rw [Ctl.eye_eq hup hon hcount hn.symm, ← hn]
  simp [hlane, hlane80, hspare, hlanes, hswitch]

/-- A pair whose upstream direction is awake takes the request for a spare into its queue. -/
theorem Ctl.askSpare_awake (k : LaneKind) (no : Nat) (hawake : (m.grp p g).txIdle = false) :
    m.askSpare p g k no = m.setPort p
      ({ m.port p with switching := (m.port p).switching ++ [(g, k, no)] }.push g (.linkctl (laneCode k + 1) no)) := by
  have heq : ((m.modPort p fun x => { x with switching := x.switching ++ [(g, k, no)] }).modGrp p g fun x =>
      { x with up := x.up ++ [.linkctl (laneCode k + 1) no] }) = m.setPort p
      ({ m.port p with switching := (m.port p).switching ++ [(g, k, no)] }.push g (.linkctl (laneCode k + 1) no)) := by
    rw [Ctl.modPort_eq, Ctl.modGrp_eq, Ctl.setPort_setPort, Ctl.port_setPort]
    rfl
  unfold Ctl.askSpare
  rw [heq]
  refine Ctl.resumeUp_awake ?_
  rw [Ctl.grp_eq, Ctl.port_setPort, PortSt.push, PortSt.grp_setGrp]
  exact hawake

/-! ## The switch -/

/-- The switch of a data lane to the spare that its pair has asked for (R96). -/
theorem Ctl.spareSwitch_data (hswitch : (m.port p).switching = [(g, .data, lane)]) : ∃ info,
    m.spareSwitch p g .data = (((m.setPort p { m.port p with switching := [] }).set F.PA_LANE_RX_DUSED (p.idx * 16 + g) 1).set
      F.PA_LANE_RX_DLANE (p.idx * 16 + g) lane).raiseAs (match p with | .a => 0x081 | .b => 0x091) info false := by
  refine ⟨g + (lane + 64 * laneCode .data) * 2 ^ 4, ?_⟩
  unfold Ctl.spareSwitch
  simp only [hswitch, List.find?_cons, beq_self_eq_true, decide_true, Bool.and_self, Ctl.modPort_eq, List.filter_cons, Bool.not_true,
    List.filter_nil]
  rfl

/-- With no lane of its pair being spared a switch does nothing. -/
theorem Ctl.spareSwitch_none (k : LaneKind) (hswitch : (m.port p).switching = []) : m.spareSwitch p g k = m := by
  simp [Ctl.spareSwitch, hswitch]

/-! ## The host's own requests -/

/-- A pair of an awake stack that has accepted a flit of the host. -/
def Ctl.tookOne (m : Ctl) (p : Port) (g : Nat) : Ctl :=
  m.noted.setPort p { (m.port p).setGrp g (m.grp p g).took with silent := none }

/-- A LINKCTL flit on an awake pair of an awake stack is accepted, and acted on (R87, R98). -/
theorem Ctl.linkctlFlit_awake (hopen : m.pairOpen p g = true) (hdrowse : m.inMode [.drowse] = false) (hentry : m.entry = none)
    (hawake : (m.grp p g).txIdle = false) (body : Nat) : m.linkctlFlit p g body = (m.tookOne p g).linkctl p g body := by
  have hgrp : m.noted.grp p g = m.grp p g := by rw [Ctl.grp_eq, Ctl.port_noted]; rfl
  have htook : m.noted.tookFlit p g = m.tookOne p g := by rw [Ctl.tookFlit_eq, hgrp, Ctl.port_noted]; rfl
  have hstays : ((m.tookOne p g).grp p g).txIdle = false := by
    have hset : ({ (m.port p).setGrp g (m.grp p g).took with silent := none } : PortSt).grp g = (m.grp p g).took :=
      PortSt.grp_setGrp _ _ _
    rw [Ctl.grp_eq, Ctl.tookOne, Ctl.port_setPort, hset]
    exact hawake
  refine (if_pos hopen).trans ?_
  rw [Ctl.newWork_awake hdrowse hentry, htook, Ctl.resumeToAck_awake hstays]

/-- How many lanes of a kind a group has, and the fields that show the upstream spare of that kind. -/
def laneLimit : LaneKind → Nat
  | .data => 64
  | .ctrl => 16

/-- Is the upstream spare of a kind used? -/
def upUsed : LaneKind → Fld
  | .data => F.PA_LANE_TX_DUSED
  | .ctrl => F.PA_LANE_TX_CUSED

/-- The lane that the upstream spare of a kind replaces. -/
def upLane : LaneKind → Fld
  | .data => F.PA_LANE_TX_DLANE
  | .ctrl => F.PA_LANE_TX_CLANE

/-- What the host's request for a duplicate does, by the lane and by what the spare replaces (R98, R99). -/
theorem Ctl.spareUp_eq (m : Ctl) (p : Port) (g : Nat) (k : LaneKind) (lane : Nat) : m.spareUp p g k lane =
    if laneLimit k ≤ lane then m.set F.PA_ERR_LINKCTL_BAD p.idx 1
    else match m.portLane p.idx g 1 (laneCode k) with
      | some n => if n = lane then m else m.set F.PA_ERR_LINKCTL_BAD p.idx 1
      | none => (m.set (upUsed k) (p.idx * 16 + g) 1).set (upLane k) (p.idx * 16 + g) lane := by
  cases k <;> rfl

theorem Ctl.portLane_congr {m n : Ctl} (h : n.flds = m.flds) (p g d k : Nat) : n.portLane p g d k = m.portLane p g d k := by
  have hget : ∀ f i, n.get f i = m.get f i := Ctl.get_congr h
  unfold Ctl.portLane Ctl.is
  simp only [hget]

/-- A LINKCTL body that asks for a duplicate of a lane (R98). -/
theorem Ctl.linkctl_spare (m : Ctl) (p : Port) (g : Nat) (k : LaneKind) (n : BitVec 8) :
    m.linkctl p g (laneCode k + 1 + n.toNat * 2 ^ 8) = m.spareUp p g k n.toNat := by
  have hn := n.isLt
  have hlane : bits (laneCode k + 1 + n.toNat * 2 ^ 8) 8 8 = n.toNat := by
    simp only [bits, Nat.shiftRight_eq_div_pow]
    cases k <;> simp only [laneCode] <;> omega
  have hcode : (laneCode k + 1 + n.toNat * 2 ^ 8) % 256 = laneCode k + 1 := by
    cases k <;> simp only [laneCode] <;> omega
  unfold Ctl.linkctl
  rw [hcode, hlane]
  cases k <;> rfl

end

/-! ## The commands -/

section
variable {s : State} {p : Port} {g : Fin 16} {lane : Fin 82} {h v : BitVec 6}

theorem Ends.of_eye_good (hq : s.ctl.Quiet) (hup : s.ctl.linkUp p = true) (hon : s.ctl.grpOn p g.val = true)
    (hgood : ¬ s.ctl.Poor p h.toNat v.toNat) : ∃ t, exec (.eyeMeasurement p g lane h v) s = .next t ∧
      Ends s t (eyeFlds p) (s.ctl.setPort p ((s.ctl.port p).measured (g.val * 128 + lane.val) 0 (h.toNat * 64 + v.toNat))) := by
  have heq := Ctl.eye_good (m := s.ctl.fresh) (g := g.val) (lane := lane.val) hup hon hgood
  rw [Ctl.port_fresh] at heq
  obtain ⟨t, ht, hends, -⟩ := exec_of_port (c := .eyeMeasurement p g lane h v) rfl heq (.showWorst _ p) hq (hq.reqs p)
  exact ⟨t, ht, hends⟩

theorem Ends.of_eye_fourth (hq : s.ctl.Quiet) (hup : s.ctl.linkUp p = true) (hon : s.ctl.grpOn p g.val = true)
    (hpoor : s.ctl.Poor p h.toNat v.toNat) (hlane : lane.val < 64)
    (hthree : Sparse.getD (s.ctl.port p).poor (g.val * 128 + lane.val) 0 = 3) (hen : s.ctl.get F.PA_CTRL_SPARE_EN p.idx = 1)
    (hfree : s.ctl.get F.PA_LANE_RX_DUSED (p.idx * 16 + g.val) = 0) (hnone : (s.ctl.port p).switching = [])
    (hawake : (s.ctl.grp p g.val).txIdle = false) : ∃ t, exec (.eyeMeasurement p g lane h v) s = .next t ∧
      Ends s t (eyeFlds p) (s.ctl.setPort p
        ({ (s.ctl.port p).measured (g.val * 128 + lane.val) 4 (h.toNat * 64 + v.toNat) with
          switching := [(g.val, .data, lane.val)] }.push g.val (.linkctl 1 lane.val))) := by
  obtain ⟨x, hx⟩ : ∃ x, x = (s.ctl.port p).measured (g.val * 128 + lane.val) 4 (h.toNat * 64 + v.toNat) := ⟨_, rfl⟩
  have hport : ((s.ctl.fresh.setPort p x).showWorst p).port p = x := by
    rw [(Ctl.OnlyFlds.showWorst _ p).port, Ctl.port_setPort]
  have hswitch : x.switching = [] := by rw [hx]; exact hnone
  have honly := (Ctl.OnlyFlds.showWorst (s.ctl.fresh.setPort p x) p).setPort p
    ({ x with switching := [(g.val, .data, lane.val)] }.push g.val (.linkctl 1 lane.val))
  rw [Ctl.setPort_setPort] at honly
  have heq := Ctl.eye_fourth (m := s.ctl.fresh) hup hon hpoor hlane g.isLt (by rw [Ctl.port_fresh]; exact hthree) hen hfree
    (by rw [Ctl.port_fresh]; exact hnone)
  rw [Ctl.port_fresh, ← hx, Ctl.askSpare_awake .data lane.val (by rw [Ctl.grp_eq, hport, hx]; exact hawake), hport, hswitch] at heq
  obtain ⟨t, ht, hends, -⟩ := exec_of_port (c := .eyeMeasurement p g lane h v) rfl heq
    honly hq (by rw [hx]; exact hq.reqs p)
  rw [← hx]
  exact ⟨t, ht, hends⟩

theorem EndsRaised.of_spareSwitch {src : Source} (hsrc : src = match p with | .a => 0x081 | .b => 0x091) (hq : s.ctl.Quiet)
    (hswitch : (s.ctl.port p).switching = [(g.val, .data, lane.val)]) (hcalm : s.ctl.Calm src) :
    ∃ t, exec (.spareSwitch p g .data) s = .next t ∧
      EndsRaised s t src [(F.PA_LANE_RX_DUSED, p.idx * 16 + g.val), (F.PA_LANE_RX_DLANE, p.idx * 16 + g.val)]
        (s.ctl.setPort p { s.ctl.port p with switching := [] }) ∧
      t.ctl.get F.PA_LANE_RX_DUSED (p.idx * 16 + g.val) = 1 ∧
      t.ctl.get F.PA_LANE_RX_DLANE (p.idx * 16 + g.val) = lane.val % 2 ^ F.PA_LANE_RX_DLANE.width := by
  have hi := p.lane_lt g
  obtain ⟨info, heq⟩ := Ctl.spareSwitch_data (m := s.ctl.fresh) (g := g.val) (by rw [Ctl.port_fresh]; exact hswitch)
  rw [Ctl.port_fresh, ← hsrc] at heq
  obtain ⟨t, ht, hends, hget⟩ := exec_of_portRaised (c := .spareSwitch p g .data) rfl heq
    ((Ctl.OnlyFlds.set _ F.PA_LANE_RX_DUSED _ _).trans (.set _ F.PA_LANE_RX_DLANE _ _)) hq (hq.reqs p) hcalm
    (by rw [hsrc]; cases p <;> decide) (by simpa using ⟨⟨by decide, hi⟩, by decide, hi⟩)
  refine ⟨t, ht, hends, ?_, ?_⟩
  · rw [hget _ _ (by decide) hi, Ctl.get_set_fld _ _ (by decide) hi hi, Ctl.get_set_same]
    rfl
  · rw [hget _ _ (by decide) hi, Ctl.get_set_same]

/-- A pair that has accepted a flit of the host differs from it before by the port. -/
theorem Ctl.OnlyFlds.tookOne (m : Ctl) (p : Port) (g : Nat) :
    (m.setPort p { (m.port p).setGrp g (m.grp p g).took with silent := none }).OnlyFlds (m.tookOne p g) [] :=
  (Ctl.OnlyFlds.noted m).setPort p _

/-- A LINKCTL flit of the host, by what it asks of the pair that has accepted it. -/
theorem exec_of_linkctl {c : Instr} {body : Nat} {x : Ctl} {l : List (Fld × Nat)} (hq : s.ctl.Quiet)
    (hopen : s.ctl.pairOpen p g.val = true) (hdrowse : s.ctl.inMode [.drowse] = false) (hentry : s.ctl.entry = none)
    (hawake : (s.ctl.grp p g.val).txIdle = false) (hc : exec c s = .next (run s fun _ m => m.linkctlFlit p g.val body))
    (hx : (s.ctl.fresh.tookOne p g.val).linkctl p g.val body = x) (honly : (s.ctl.fresh.tookOne p g.val).OnlyFlds x l) :
    ∃ t, exec c s = .next t ∧
      Ends s t l (s.ctl.setPort p { (s.ctl.port p).setGrp g.val (s.ctl.grp p g.val).took with silent := none }) ∧
      ∀ f i, f.id ≠ F.FLT_STATUS_FAULTN.id → i < 1048576 → t.ctl.get f i = x.get f i := by
  have hopen' : s.ctl.fresh.pairOpen p g.val = true := by
    rw [Ctl.pairOpen, Ctl.grp_fresh]
    exact hopen
  have hfirst := Ctl.OnlyFlds.tookOne s.ctl.fresh p g.val
  rw [Ctl.port_fresh, Ctl.grp_fresh] at hfirst
  refine exec_of_port hc ?_ (hfirst.trans honly) hq (hq.reqs p)
  rw [Ctl.linkctlFlit_awake hopen' hdrowse hentry (by rw [Ctl.grp_fresh]; exact hawake), hx]

/-- The host asks for a duplicate of a lane (R98, R99), by the command of either kind of lane. -/
theorem Ends.of_duplicate (k : LaneKind) (n : BitVec 8) {c : Instr} (hq : s.ctl.Quiet) (hopen : s.ctl.pairOpen p g.val = true)
    (hdrowse : s.ctl.inMode [.drowse] = false) (hentry : s.ctl.entry = none) (hawake : (s.ctl.grp p g.val).txIdle = false)
    (hc : exec c s = .next (run s fun _ m => m.linkctlFlit p g.val (laneCode k + 1 + n.toNat * 2 ^ 8))) :
    let i := p.idx * 16 + g.val
    let cur := s.ctl.portLane p.idx g.val 1 (laneCode k)
    let took := s.ctl.setPort p { (s.ctl.port p).setGrp g.val (s.ctl.grp p g.val).took with silent := none }
    ∃ t, exec c s = .next t ∧
      (n.toNat < laneLimit k → cur = none → Ends s t [(upUsed k, i), (upLane k, i)] took ∧ t.ctl.get (upUsed k) i = 1 ∧
        t.ctl.get (upLane k) i = n.toNat) ∧
      (cur = some n.toNat → n.toNat < laneLimit k → Ends s t [] took) ∧
      (laneLimit k ≤ n.toNat ∨ (cur.isSome = true ∧ cur ≠ some n.toNat) →
        Ends s t [(F.PA_ERR_LINKCTL_BAD, p.idx)] took ∧ t.ctl.get F.PA_ERR_LINKCTL_BAD p.idx = 1) := by
  intro i cur took
  obtain ⟨m, hm⟩ : ∃ m, m = s.ctl.fresh.tookOne p g.val := ⟨_, rfl⟩
  have hcur : m.portLane p.idx g.val 1 (laneCode k) = cur := by
    rw [hm]
    exact Ctl.portLane_congr (Ctl.setPort_flds _ _ _) _ _ _ _
  have hspare := m.spareUp_eq p g.val k n.toNat
  have hrun : ∀ {x : Ctl} {l : List (Fld × Nat)}, m.spareUp p g.val k n.toNat = x → m.OnlyFlds x l →
      ∃ t, exec c s = .next t ∧ Ends s t l took ∧ ∀ f i, f.id ≠ F.FLT_STATUS_FAULTN.id → i < 1048576 → t.ctl.get f i = x.get f i := by
    intro x l hx honly
    rw [hm] at hx honly
    exact exec_of_linkctl hq hopen hdrowse hentry hawake hc ((Ctl.linkctl_spare _ _ _ _ _).trans hx) honly
  rw [hcur] at hspare
  have hi := p.lane_lt g
  by_cases hlimit : laneLimit k ≤ n.toNat
  · obtain ⟨t, ht, hends, hget⟩ := hrun (hspare.trans (if_pos hlimit)) (.set _ _ _ _)
    exact ⟨t, ht, fun h => absurd hlimit (by omega), fun _ h => absurd hlimit (by omega),
      fun _ => ⟨hends, (hget _ _ (by decide) p.copy_lt).trans (Ctl.get_set_same _ _ _ _)⟩⟩
  · rw [if_neg hlimit] at hspare
    cases hlane : cur with
    | none =>
      rw [hlane] at hspare
      obtain ⟨t, ht, hends, hget⟩ := hrun hspare ((Ctl.OnlyFlds.set _ _ _ _).trans (.set _ _ _ _))
      refine ⟨t, ht, fun hn _ => ⟨hends, ?_, ?_⟩, by simp, by simp [hlimit]⟩
      · rw [hget _ _ (by cases k <;> decide) hi, Ctl.get_set_fld _ _ (by cases k <;> decide) hi hi, Ctl.get_set_same]
        cases k <;> rfl
      · rw [hget _ _ (by cases k <;> decide) hi, Ctl.get_set_same]
        refine Nat.mod_eq_of_lt (hn.trans_le ?_)
        cases k <;> decide
    | some lane =>
      rw [hlane] at hspare
      by_cases heq : lane = n.toNat
      · obtain ⟨t, ht, hends, -⟩ := hrun (hspare.trans (if_pos heq)) (.refl _)
        exact ⟨t, ht, by simp, fun _ _ => hends, fun h => absurd h (by simp [hlimit, heq])⟩
      · obtain ⟨t, ht, hends, hget⟩ := hrun (hspare.trans (if_neg heq)) (.set _ _ _ _)
        exact ⟨t, ht, by simp, fun h => absurd h (by simpa using heq),
          fun _ => ⟨hends, (hget _ _ (by decide) p.copy_lt).trans (Ctl.get_set_same _ _ _ _)⟩⟩

end

end Sys2Proof.Machine

namespace Sys2Proof.HostPorts

open Sys2Proof.Machine

/-- Settles O21: a measurement, the switch to a spare, and the host's requests. -/
theorem laneSparing : Obligations.LaneSparing := by
  unfold Obligations.LaneSparing
  intro s p g lane h v k n key x i src poor eyes margins q took duplicate hq
  refine ⟨fun hup hon hgood => ?_, fun hup hon hpoor hlane hthree hen hfree hnone hawake => ?_, fun hswitch hcalm => ?_,
    fun hopen hdrowse hentry hawake => ⟨?_, ?_⟩, fun _ hnone => ?_⟩
  · obtain ⟨t, ht, hends⟩ := Ends.of_eye_good (lane := lane) hq hup hon hgood
    exact ⟨t, ht, hends⟩
  · exact Ends.of_eye_fourth hq hup hon hpoor hlane hthree hen hfree hnone hawake
  · exact EndsRaised.of_spareSwitch rfl hq hswitch hcalm
  · exact Ends.of_duplicate .data n hq hopen hdrowse hentry hawake rfl
  · exact Ends.of_duplicate .ctrl n hq hopen hdrowse hentry hawake rfl
  · have heq := Ctl.spareSwitch_none (m := s.ctl.fresh) (p := p) (g := g.val) k (by rw [Ctl.port_fresh]; exact hnone)
    obtain ⟨t, ht, hends⟩ := exec_of_noField (c := .spareSwitch p g k) rfl heq hq.fresh rfl rfl rfl
    exact ⟨t, ht, hends.of_rest rfl⟩

end Sys2Proof.HostPorts
end

section
/-!
The side band, idling and waking of a port (R104 to R108, R389, R506, R507).
-/

namespace Sys2Proof.Machine

/-! ## LINK as the directions of a port idle and wake -/

/-- The fields that show whether a port's directions are idle. -/
def idleFlds (p : Port) : List (Fld × Nat) := [(F.PA_STATUS_LINK, p.idx), (F.PA_SIDEBAND_PARTNER_IDLE, p.idx)]

/-- A field that is neither of those that show a port's directions is not listed with them. -/
theorem idleFlds_other (p : Port) {f : Fld} (hf : f.id ∉ [24, 25]) : ∀ e ∈ idleFlds p, f.id ≠ e.1.id ∧ e.2 < 1048576 := by
  simp only [List.mem_cons, List.not_mem_nil, or_false, not_or] at hf
  obtain ⟨hlink, hpartner⟩ := hf
  intro e he
  simp only [idleFlds, List.mem_cons, List.not_mem_nil, or_false] at he
  rcases he with rfl | rfl
  · exact ⟨hlink, p.copy_lt⟩
  · exact ⟨hpartner, p.copy_lt⟩

section
variable {m : Ctl} {p : Port} {g : Nat}

theorem Ctl.OnlyFlds.relink (m : Ctl) (p : Port) : m.OnlyFlds (m.relink p) (idleFlds p) := by
  unfold Ctl.relink
  split
  · exact (Ctl.OnlyFlds.set m _ _ _).trans (.set _ _ _ _)
  · exact (Ctl.OnlyFlds.refl m).mono (by simp)

theorem Ctl.get_relink (m : Ctl) (p : Port) {f : Fld} (hf : f.id ∉ [24, 25]) {i : Nat} (hi : i < 1048576) :
    (m.relink p).get f i = m.get f i := (Ctl.OnlyFlds.relink m p).flds.get_eq (idleFlds_other p hf) hi

theorem Ctl.grpOn_relink (m : Ctl) (p q : Port) (g : Nat) : (m.relink p).grpOn q g = m.grpOn q g := by
  rw [Ctl.grpOn, Ctl.grpOn, Ctl.get_relink _ _ (by decide) q.copy_lt]

theorem Ctl.lowest_relink (m : Ctl) (p q : Port) : (m.relink p).lowest q = m.lowest q := by
  simp only [Ctl.lowest, Ctl.grpOn_relink]

/-- LINK of a port that is up is UP or IDLE. -/
theorem Ctl.link_relink (h : m.linkUp p = true) : (m.relink p).link p =
    if (List.range 16).all (fun g => !m.grpOn p g || ((m.grp p g).rxIdle && (m.grp p g).txIdle)) then 3 else 2 := by
  have hall : ((((List.range 16).filter fun g => m.grpOn p g).all fun g => (m.grp p g).rxIdle) &&
      (((List.range 16).filter fun g => m.grpOn p g).all fun g => (m.grp p g).txIdle)) =
      (List.range 16).all fun g => !m.grpOn p g || ((m.grp p g).rxIdle && (m.grp p g).txIdle) := by
    rw [Bool.eq_iff_iff]
    simp only [Bool.and_eq_true, List.all_eq_true, List.mem_filter, Bool.or_eq_true, Bool.not_eq_true', and_imp]
    refine ⟨fun ⟨hrx, htx⟩ g hg => ?_, fun h => ⟨fun g hg hon => ?_, fun g hg hon => ?_⟩⟩
    · cases hon : m.grpOn p g with
      | false => exact .inl rfl
      | true => exact .inr ⟨hrx g hg hon, htx g hg hon⟩
    · exact ((h g hg).resolve_left (by simp [hon])).1
    · exact ((h g hg).resolve_left (by simp [hon])).2
  unfold Ctl.relink
  rw [if_pos h]
  simp only [hall]
  rw [Ctl.link, Ctl.get_set_fld _ _ (by decide) p.copy_lt p.copy_lt, Ctl.get_set_same]
  split <;> rfl

/-- A port with an enabled pair of which a direction is awake shows UP. -/
theorem Ctl.link_relink_awake (h : m.linkUp p = true) (hg : g < 16) (hon : m.grpOn p g = true)
    (hawake : (m.grp p g).rxIdle = false ∨ (m.grp p g).txIdle = false) : (m.relink p).link p = 2 := by
  rw [Ctl.link_relink h]
  refine if_neg fun hall => ?_
  have hg := List.all_eq_true.mp hall g (List.mem_range.mpr hg)
  rcases hawake with ha | ha <;> simp [hon, ha] at hg

/-- A port is up after the change as it was before. -/
theorem Ctl.linkUp_relink (m : Ctl) (p q : Port) : (m.relink p).linkUp q = m.linkUp q := by
  by_cases hpq : q = p
  · subst hpq
    cases hup : m.linkUp q with
    | true =>
      have hlink := Ctl.link_relink hup
      unfold Ctl.linkUp
      rw [hlink]
      split <;> rfl
    | false => rw [Ctl.relink, if_neg (by simp [hup]), hup]
  · have hidx : q.idx ≠ p.idx := fun h => hpq (Port.idx_injective h)
    have hlink : (m.relink p).link q = m.link q := by
      refine (Ctl.OnlyFlds.relink m p).flds _ _ ?_
      have hp := p.idx_lt
      have hq := q.idx_lt
      simp only [idleFlds, List.map_cons, List.map_nil, List.mem_cons, List.not_mem_nil, or_false, fkey, F.PA_STATUS_LINK,
        F.PA_SIDEBAND_PARTNER_IDLE]
      omega
    unfold Ctl.linkUp
    rw [hlink]

theorem Ctl.anyLink_relink (m : Ctl) (p : Port) : (m.relink p).anyLink = m.anyLink := by
  unfold Ctl.anyLink
  rw [Ctl.linkUp_relink, Ctl.linkUp_relink, Ctl.is, Ctl.is, Ctl.get_relink _ _ (by decide) (by decide)]

/-! ## Pairs that resume -/

/-- A pair whose downstream direction has resumed (R102, R108, R506). -/
def Grp.resumed (q : Grp) : Grp :=
  { q with rxIdle := false, e := 0, taken := false, rxPeriod := 0, hold := [], nak := false, rxAck := true }

/-- A pair as a wake leaves it: it resumes where it is enabled and its downstream direction idle. -/
def Ctl.woken (m : Ctl) (p : Port) (g : Nat) : Grp :=
  if m.grpOn p g = true ∧ (m.grp p g).rxIdle = true then (m.grp p g).resumed else m.grp p g

theorem Ctl.resumePair_eq (m : Ctl) (p : Port) (g : Nat) :
    ∃ grps, m.resumePair p g = m.setPort p { m.port p with grps := grps } ∧
      Sparse.getD grps g {} = m.woken p g ∧ ∀ k, k ≠ g → Sparse.getD grps k {} = m.grp p k := by
  by_cases h : m.grpOn p g = true ∧ (m.grp p g).rxIdle = true
  · refine ⟨((m.port p).setGrp g (m.grp p g).resumed).grps, if_pos (by simp [h]), ?_, fun k hk => ?_⟩
    · rw [Ctl.woken, if_pos h]
      exact PortSt.grp_setGrp _ _ _
    · exact PortSt.grp_setGrp_other _ _ hk
  · refine ⟨(m.port p).grps, ?_, ?_, fun _ _ => rfl⟩
    · refine (if_neg (by simpa using h)).trans ?_
      exact (m.setPort_self p).symm
    · rw [Ctl.woken, if_neg h]
      rfl

/-- A pair that has been woken is as a second wake would leave it. -/
theorem Ctl.woken_woken {m n : Ctl} (hon : n.grpOn p g = m.grpOn p g) (hgrp : n.grp p g = m.woken p g) : n.woken p g = m.woken p g := by
  rw [Ctl.woken, hgrp, hon]
  refine (if_neg fun ⟨hon', hidle⟩ => ?_)
  unfold Ctl.woken at hidle
  split at hidle
  · exact absurd hidle (by simp [Grp.resumed])
  · next h => exact h ⟨hon', hidle⟩

/-- The pairs of a list resume, each where it is enabled and idle. -/
theorem Ctl.resumePairs_eq (gs : List Nat) (m : Ctl) (p : Port) :
    ∃ grps, gs.foldl (fun m g => m.resumePair p g) m = m.setPort p { m.port p with grps := grps } ∧
      ∀ k, Sparse.getD grps k {} = if k ∈ gs then m.woken p k else m.grp p k := by
  induction gs generalizing m with
  | nil => exact ⟨(m.port p).grps, (m.setPort_self p).symm, fun k => by rw [if_neg List.not_mem_nil]; rfl⟩
  | cons g gs ih =>
    obtain ⟨mid, hmid, hsame, hother⟩ := m.resumePair_eq p g
    obtain ⟨grps, heq, hgrps⟩ := ih (m.resumePair p g)
    have hport : (m.resumePair p g).port p = { m.port p with grps := mid } := by rw [hmid, Ctl.port_setPort]
    have hgrp : ∀ k, (m.resumePair p g).grp p k = Sparse.getD mid k {} := fun k => by rw [Ctl.grp_eq, hport]; rfl
    have hon : ∀ k, (m.resumePair p g).grpOn p k = m.grpOn p k := fun k => by rw [hmid, Ctl.grpOn_setPort]
    refine ⟨grps, ?_, fun k => ?_⟩
    · rw [List.foldl_cons, heq, hport, hmid, Ctl.setPort_setPort]
    · rw [hgrps, hgrp]
      by_cases hk : k = g
      · subst hk
        rw [hsame, Ctl.woken_woken (hon k) ((hgrp k).trans hsame)]
        simp
      · have hwoken : (m.resumePair p g).woken p k = m.woken p k := by
          unfold Ctl.woken
          rw [hgrp, hother k hk, hon]
        rw [hwoken, hother k hk]
        simp [hk]

/-- The pairs that a wake on a group is for: all of the port where it is the lowest enabled one, and else that one (R107, R506). -/
def Ctl.wokenPairs (m : Ctl) (p : Port) (g : Nat) : List Nat := if m.lowest p = some g then List.range 16 else [g]

/-- A wake on a group of a port that does not sleep. -/
theorem Ctl.wakeGroup_eq (hmode : m.inMode [.hibernate, .crescent] = false) :
    ∃ grps, m.wakeGroup p g = (m.setPort p { m.port p with grps := grps }).relink p ∧
      ∀ k, Sparse.getD grps k {} = if k ∈ m.wokenPairs p g then m.woken p k else m.grp p k := by
  obtain ⟨grps, heq, hgrps⟩ := Ctl.resumePairs_eq (m.wokenPairs p g) m p
  refine ⟨grps, ?_, hgrps⟩
  have hwake : m.wakeGroup p g = ((m.wokenPairs p g).foldl (fun m g => m.resumePair p g) m).relink p := by
    unfold Ctl.wakeGroup Ctl.wokenPairs
    rw [if_neg (by simp [hmode])]
    by_cases hlow : m.lowest p = some g
    · simp only [hlow, beq_self_eq_true, if_true]
      rfl
    · simp [hlow]
  rw [hwake, heq]

/-! ## Pairs that go idle -/

/-- The port once a LINK_IDLE of the host has been accepted on a pair. -/
def PortSt.hostIdle (x : PortSt) (g : Nat) : PortSt := { x.setGrp g { (x.grp g).took with rxIdle := true } with silent := none }

/-- A LINK_IDLE of the host on an awake pair of an awake stack (R106). -/
theorem Ctl.linkIdle_awake (hopen : m.pairOpen p g = true) (hdrowse : m.inMode [.drowse] = false) (hentry : m.entry = none)
    (hawake : (m.grp p g).txIdle = false) :
    m.linkctlFlit p g 3 = (m.noted.setPort p ((m.port p).hostIdle g)).relink p := by
  have htwice := (m.port p).setGrp_setGrp g { (m.grp p g).took with rxIdle := true } (m.grp p g).took_ne
  have hset : ({ (m.port p).setGrp g (m.grp p g).took with silent := none } : PortSt).grp g = (m.grp p g).took :=
    PortSt.grp_setGrp _ _ _
  have hidle : (m.tookOne p g).modGrp p g (fun x => { x with rxIdle := true }) = m.noted.setPort p ((m.port p).hostIdle g) := by
    rw [Ctl.tookOne, Ctl.modGrp_eq, Ctl.setPort_setPort, Ctl.port_setPort, hset, PortSt.hostIdle, ← Ctl.grp_eq, ← htwice]
    rfl
  have hstays : ((m.noted.setPort p ((m.port p).hostIdle g)).grp p g).txIdle = false := by
    have hend : ((m.port p).hostIdle g).grp g = { (m.grp p g).took with rxIdle := true } := PortSt.grp_setGrp _ _ _
    rw [Ctl.grp_eq, Ctl.port_setPort, hend]
    exact hawake
  rw [Ctl.linkctlFlit_awake hopen hdrowse hentry hawake]
  show (((m.tookOne p g).modGrp p g fun x => { x with rxIdle := true }).resumeToAck p g).relink p = _
  rw [hidle, Ctl.resumeToAck_awake hstays]

/-- Whether traffic waits to be sent on a pair is a matter of its upstream queue. -/
theorem Ctl.upWaits_congr {n : Ctl} (hup : (n.grp p g).up = (m.grp p g).up) (hslots : (n.grp p g).slots = (m.grp p g).slots)
    (hlow : n.lowest p = m.lowest p) (hevents : (n.port p).events = (m.port p).events) : n.upWaits p g = m.upWaits p g := by
  rw [Ctl.upWaits, Ctl.upWaits, hup, hslots, hlow, hevents]

/-- The upstream direction of a pair on which nothing waits goes idle (R106). -/
theorem Ctl.upIdle_eq (hwaits : m.upWaits p g = false) :
    m.upIdle p g = (m.setPort p ((m.port p).setGrp g { m.grp p g with txIdle := true, ackOnly := none })).relink p := by
  obtain ⟨n, hn⟩ : ∃ n, n = (m.setPort p ((m.port p).setGrp g { m.grp p g with txIdle := true, ackOnly := none })).relink p := ⟨_, rfl⟩
  have hport : n.port p = (m.port p).setGrp g { m.grp p g with txIdle := true, ackOnly := none } := by
    rw [hn, (Ctl.OnlyFlds.relink _ p).port, Ctl.port_setPort]
  have hgrp : n.grp p g = { m.grp p g with txIdle := true, ackOnly := none } := by rw [Ctl.grp_eq, hport, PortSt.grp_setGrp]
  have hstill : n.upWaits p g = false := by
    rw [← hwaits]
    refine Ctl.upWaits_congr (by rw [hgrp]) (by rw [hgrp]) ?_ (by rw [hport]; rfl)
    rw [hn, Ctl.lowest_relink, Ctl.lowest_setPort]
  have hdef : m.upIdle p g = if n.upWaits p g then n.resumeUp p g else n := by rw [hn]; rfl
  rw [hdef, if_neg (by simp [hstill]), hn]

end

/-! ## The commands -/

section
variable {s : State} {p : Port} {g : Fin 16}

theorem Ends.of_urgLevel {level : BitVec 2} (hq : s.ctl.Quiet) (hrun : s.ctl.power = .run)
    (hpres : s.ctl.get F.PA_SIDEBAND_HOSTPRES p.idx = 1) : ∃ t, exec (.urgLevel p level) s = .next t ∧
      Ends s t [(F.PA_SIDEBAND_URG, p.idx)] s.ctl ∧ t.ctl.get F.PA_SIDEBAND_URG p.idx = level.toNat ∧ t.ctl.urg p = level.toNat := by
  have hi := p.copy_lt
  have heffect : (if s.ctl.fresh.alive && s.ctl.fresh.is F.PA_SIDEBAND_HOSTPRES p.idx then
      s.ctl.fresh.set F.PA_SIDEBAND_URG p.idx level.toNat else s.ctl.fresh) = s.ctl.fresh.set F.PA_SIDEBAND_URG p.idx level.toNat := by
    refine if_pos ?_
    rw [Ctl.alive, Ctl.is, Ctl.fresh_power, Ctl.get_fresh, hrun, hpres]
    rfl
  obtain ⟨t, ht, hends, hget⟩ := exec_of_effect (s := s) (c := .urgLevel p level) rfl heffect hq.fresh rfl rfl
    (Ctl.SameFlds.set s.ctl.fresh _ _ _)
  have hlevel : t.ctl.get F.PA_SIDEBAND_URG p.idx = level.toNat := by
    rw [hget _ _ (fkey_ne (by decide) hi (by decide)), Ctl.get_set_same]
    exact Nat.mod_eq_of_lt level.isLt
  refine ⟨t, ht, hends.of_rest (by rw [Ctl.rest_of_set, Ctl.rest_of_fresh]), hlevel, ?_⟩
  rw [Ctl.urg, Ctl.is, hget _ _ (fkey_ne (by decide) hi (by decide)), Ctl.get_set_fld _ _ (by decide) hi hi, Ctl.get_fresh, hpres, hlevel]
  rfl

/-- A change of one port after which LINK is made to follow. -/
theorem exec_of_relink {c : Instr} {gg : Arr → Ctl → Ctl} {n : Ctl} {y : PortSt} (hc : exec c s = .next (run s gg))
    (hx : gg s.arr s.ctl.fresh = (n.setPort p y).relink p) (hn : s.ctl.fresh.OnlyFlds n []) (hq : s.ctl.Quiet) (hy : y.reqs = []) :
    ∃ t, exec c s = .next t ∧ Ends s t (idleFlds p) (s.ctl.setPort p y) ∧
      ∀ f i, f.id ≠ F.FLT_STATUS_FAULTN.id → i < 1048576 → t.ctl.get f i = ((n.setPort p y).relink p).get f i :=
  exec_of_port hc hx ((hn.setPort p y).trans (.relink _ p)) hq hy

theorem Ends.of_linkIdle (hq : s.ctl.Quiet) (hopen : s.ctl.pairOpen p g.val = true) (hdrowse : s.ctl.inMode [.drowse] = false)
    (hentry : s.ctl.entry = none) (hawake : (s.ctl.grp p g.val).txIdle = false) : ∃ t, exec (.linkIdle p g) s = .next t ∧
      Ends s t (idleFlds p) (s.ctl.setPort p ((s.ctl.port p).hostIdle g.val)) ∧ t.ctl.link p = 2 := by
  obtain ⟨⟨hup, hon⟩, -⟩ : (s.ctl.linkUp p = true ∧ s.ctl.grpOn p g.val = true) ∧ _ := by
    simpa [Ctl.pairOpen] using hopen
  have heq := Ctl.linkIdle_awake (m := s.ctl.fresh) (p := p) (g := g.val)
    (by rw [Ctl.pairOpen, Ctl.grp_fresh]; exact hopen) hdrowse hentry (by rw [Ctl.grp_fresh]; exact hawake)
  rw [Ctl.port_fresh] at heq
  obtain ⟨t, ht, hends, hget⟩ := exec_of_relink (c := .linkIdle p g) rfl heq (.noted _) hq (hq.reqs p)
  refine ⟨t, ht, hends, (hget _ _ (by decide) p.copy_lt).trans ?_⟩
  have hend : ((s.ctl.port p).hostIdle g.val).grp g.val = { (s.ctl.grp p g.val).took with rxIdle := true } := PortSt.grp_setGrp _ _ _
  refine Ctl.link_relink_awake (g := g.val) ?_ g.isLt ?_ (.inr ?_)
  · rw [Ctl.linkUp_setPort]; exact hup
  · rw [Ctl.grpOn_setPort]; exact hon
  · rw [Ctl.grp_eq, Ctl.port_setPort, hend]; exact hawake

theorem Ends.of_linkIdleSend (hq : s.ctl.Quiet) (hup : s.ctl.linkUp p = true) (hon : s.ctl.grpOn p g.val = true)
    (hrx : (s.ctl.grp p g.val).rxIdle = true) (hawake : (s.ctl.grp p g.val).txIdle = false) (hquiet : 64 ≤ (s.ctl.grp p g.val).quiet)
    (hbuf : (s.ctl.grp p g.val).buf = []) (hempty : (s.ctl.grp p g.val).up = []) (hslots : (s.ctl.grp p g.val).slots = [])
    (hevents : s.ctl.lowest p = some g.val → (s.ctl.port p).events = []) : ∃ t, exec (.linkIdleSend p g) s = .next t ∧
      Ends s t [] (s.ctl.setPort p
        ((s.ctl.port p).setGrp g.val { s.ctl.grp p g.val with up := [.linkctl 3 0], quiet := 0 })) := by
  have hwaits : s.ctl.upWaits p g.val = false := by
    simpa [Ctl.upWaits, hempty, hslots] using hevents
  have hidle : s.ctl.fresh.mayIdle p g.val = true := by
    have hwaits' : s.ctl.fresh.upWaits p g.val = false := by
      rw [← hwaits]
      exact Ctl.upWaits_congr (by rw [Ctl.grp_fresh]) (by rw [Ctl.grp_fresh]) rfl (by rw [Ctl.port_fresh])
    simp [Ctl.mayIdle, hwaits', hrx, hbuf]
  have heffect : (if s.ctl.fresh.linkUp p && s.ctl.fresh.grpOn p g.val && !(s.ctl.fresh.grp p g.val).txIdle &&
        decide (64 ≤ (s.ctl.fresh.grp p g.val).quiet) && s.ctl.fresh.mayIdle p g.val then
      s.ctl.fresh.modGrp p g.val fun x => { x with up := [.linkctl 3 0], quiet := 0 } else s.ctl.fresh) =
      s.ctl.fresh.setPort p ((s.ctl.port p).setGrp g.val { s.ctl.grp p g.val with up := [.linkctl 3 0], quiet := 0 }) := by
    have hup' : s.ctl.fresh.linkUp p = true := hup
    have hon' : s.ctl.fresh.grpOn p g.val = true := hon
    rw [if_pos (by simp [hup', hon', hawake, hquiet, hidle]), Ctl.modGrp_eq, Ctl.port_fresh]
    rfl
  exact exec_of_portOnly (c := .linkIdleSend p g) rfl heffect hq (hq.reqs p)

theorem Ends.of_returnUp {n : Nat} (hq : s.ctl.Quiet) (hack : (s.ctl.grp p g.val).ackOnly = some n)
    (hawake : (s.ctl.grp p g.val).txIdle = false) (hwaits : s.ctl.upWaits p g.val = false)
    (hn : 64 ≤ n ∨ ((s.ctl.grp p g.val).rxIdle = true ∧ 1 ≤ n)) :
    ∃ t, exec (.transmitterReturnToIdle p (g, .up)) s = .next t ∧
      Ends s t (idleFlds p) (s.ctl.setPort p
        ((s.ctl.port p).setGrp g.val { s.ctl.grp p g.val with txIdle := true, ackOnly := none })) := by
  have hwaits' : s.ctl.fresh.upWaits p g.val = false := by
    rw [← hwaits]
    exact Ctl.upWaits_congr (by rw [Ctl.grp_fresh]) (by rw [Ctl.grp_fresh]) rfl (by rw [Ctl.port_fresh])
  have hmay : s.ctl.fresh.mayReturn p g.val = true := by
    simpa [Ctl.mayReturn, hwaits', hawake, hack] using hn
  have heffect : (if s.ctl.fresh.mayReturn p g.val then s.ctl.fresh.upIdle p g.val else s.ctl.fresh) =
      (s.ctl.fresh.setPort p ((s.ctl.port p).setGrp g.val { s.ctl.grp p g.val with txIdle := true, ackOnly := none })).relink p := by
    rw [if_pos hmay, Ctl.upIdle_eq hwaits', Ctl.port_fresh, Ctl.grp_fresh]
  obtain ⟨t, ht, hends, -⟩ := exec_of_relink (c := .transmitterReturnToIdle p (g, .up)) rfl heffect (.refl _) hq (hq.reqs p)
  exact ⟨t, ht, hends⟩

theorem Ends.of_returnDown (hq : s.ctl.Quiet) (hup : s.ctl.linkUp p = true) (hon : s.ctl.grpOn p g.val = true)
    (hack : (s.ctl.grp p g.val).rxAck = true) : ∃ t, exec (.transmitterReturnToIdle p (g, .down)) s = .next t ∧
      Ends s t (idleFlds p) (s.ctl.setPort p
        ((s.ctl.port p).setGrp g.val { s.ctl.grp p g.val with rxIdle := true, rxAck := false })) := by
  have hmay : (s.ctl.fresh.linkUp p && s.ctl.fresh.grpOn p g.val && (s.ctl.fresh.grp p g.val).rxAck) = true := by
    have hup' : s.ctl.fresh.linkUp p = true := hup
    have hon' : s.ctl.fresh.grpOn p g.val = true := hon
    simp [hup', hon', hack]
  have hset : (s.ctl.fresh.modGrp p g.val fun x => { x with rxIdle := true, rxAck := false }) = s.ctl.fresh.setPort p
      ((s.ctl.port p).setGrp g.val { s.ctl.grp p g.val with rxIdle := true, rxAck := false }) := by
    rw [Ctl.modGrp_eq, Ctl.port_fresh]
    rfl
  have heffect : (if s.ctl.fresh.linkUp p && s.ctl.fresh.grpOn p g.val && (s.ctl.fresh.grp p g.val).rxAck then
      (s.ctl.fresh.modGrp p g.val fun x => { x with rxIdle := true, rxAck := false }).relink p else s.ctl.fresh) =
      (s.ctl.fresh.setPort p
        ((s.ctl.port p).setGrp g.val { s.ctl.grp p g.val with rxIdle := true, rxAck := false })).relink p := by
    rw [if_pos hmay, hset]
  obtain ⟨t, ht, hends, -⟩ := exec_of_relink (c := .transmitterReturnToIdle p (g, .down)) rfl heffect (.refl _) hq (hq.reqs p)
  exact ⟨t, ht, hends⟩

/-! ## Wakes -/

/-- The modes of a stack are one at a time. -/
theorem Ctl.inMode_disjoint {m : Ctl} {l l' : List Mode} (h : m.inMode l = true) (hl : ∀ a ∈ l, ∀ b ∈ l', a.code ≠ b.code) :
    m.inMode l' = false := by
  unfold Ctl.inMode at h ⊢
  simp only [Bool.and_eq_true, decide_eq_true_eq, List.any_eq_true, beq_iff_eq] at h
  obtain ⟨-, a, ha, hcode⟩ := h
  refine Bool.and_eq_false_iff.mpr (.inr (List.any_eq_false.mpr fun b hb => ?_))
  rw [beq_iff_eq, ← hcode]
  exact (hl a ha b hb).symm

theorem Ctl.alive_of_inMode {m : Ctl} {l : List Mode} (h : m.inMode l = true) : m.alive = true :=
  (Bool.and_eq_true_iff.mp h).1

/-- The mode of a stack in one mode. -/
theorem Ctl.mode_of_inMode {m : Ctl} {x : Mode} (h : m.inMode [x] = true) : m.mode = x.code := by
  have hcode : x.code = m.mode := by simpa using (Bool.and_eq_true_iff.mp h).2
  exact hcode.symm

/-- A wake of a stack that neither sleeps nor asks its blocks to. -/
theorem Ctl.wakeUp_awake {m : Ctl} (src : WakeSource) (hdrowse : m.inMode [.drowse] = false)
    (hsleeps : m.inMode [.hibernate, .crescent] = false) (hentry : m.entry = none) : m.wakeUp src = m := by
  simp [Ctl.wakeUp, hdrowse, hsleeps, Ctl.entryWake, Ctl.entryRefused, hentry]

/-- A wake of a stack that sleeps is held for the exit. -/
theorem Ctl.wakeUp_asleep {m : Ctl} (src : WakeSource) (hsleeps : m.inMode [.hibernate, .crescent] = true) :
    m.wakeUp src = { m with wakeHeld := some (m.wakeHeld.getD src) } := by
  rw [Ctl.wakeUp, if_neg (by simp [Ctl.inMode_disjoint hsleeps (l' := [.drowse]) (by decide)]), if_pos hsleeps]
  cases m.wakeHeld <;> rfl

/-- The fields that leaving DROWSE writes (R378, R389). -/
def wakeFlds : List Fld := [F.WAKE_SOURCE_SOURCE, F.WAKE_SOURCE_FROM, F.WAKE_SOURCE_COUNT, F.GL_MODE_PREV, F.GL_MODE_STATE]

/-- Whether any link is up turns on the links' own fields. -/
theorem Ctl.KeepsBut.anyLink {m n : Ctl} {l : List Fld} (h : m.KeepsBut n l)
    (hlink : F.PA_STATUS_LINK.id ∉ l.map Fld.id) (hsvc : F.SVC_STATUS_LINK.id ∉ l.map Fld.id) : n.anyLink = m.anyLink := by
  have hport : ∀ q : Port, n.linkUp q = m.linkUp q := fun q => by
    have hq : n.link q = m.link q := h _ _ q.copy_lt hlink
    rw [Ctl.linkUp, Ctl.linkUp, hq]
  rw [Ctl.anyLink, Ctl.anyLink, hport, hport, Ctl.is, Ctl.is, h _ _ (by decide) hsvc]

theorem Ctl.KeepsBut.recordWake (m : Ctl) (src : WakeSource) :
    m.KeepsBut (m.recordWake src) [F.WAKE_SOURCE_SOURCE, F.WAKE_SOURCE_FROM, F.WAKE_SOURCE_COUNT] :=
  ((Ctl.KeepsBut.put m _ _).trans (.put _ _ _)).trans (.put _ _ _)

theorem Ctl.exitMode_recordWake (m : Ctl) (src : WakeSource) : (m.recordWake src).exitMode = m.exitMode := by
  rw [Ctl.exitMode, Ctl.exitMode, (Ctl.KeepsBut.recordWake m src).anyLink (by decide) (by decide)]

/-- A stack whose clock gates have gatesOpen. -/
def Ctl.gatesOpen (m : Ctl) : Ctl := { m with clk := { m.clk with gated := [], asked := [] }, idle := 0 }

theorem Ctl.gatesOpen_flds (m : Ctl) : m.gatesOpen.flds = m.flds := by cases m; rfl
theorem Ctl.gatesOpen_rest (m : Ctl) : m.gatesOpen.rest = m.rest.gatesOpen := by cases m; rfl
theorem Ctl.leaveDrowse_eq (m : Ctl) (src : WakeSource) :
    m.leaveDrowse src = ((m.recordWake src).setMode (m.recordWake src).exitMode).gatesOpen := by rfl

theorem Ctl.KeepsBut.leaveDrowse (m : Ctl) (src : WakeSource) : m.KeepsBut (m.leaveDrowse src) wakeFlds := by
  rw [Ctl.leaveDrowse_eq]
  exact ((Ctl.KeepsBut.recordWake m src).trans ((Ctl.KeepsBut.put _ _ _).trans (.put _ _ _))).trans (.of_flds (Ctl.gatesOpen_flds _))

theorem Ctl.OnlyFlds.setMode (m : Ctl) (x : Mode) : m.OnlyFlds (m.setMode x) [(F.GL_MODE_PREV, 0), (F.GL_MODE_STATE, 0)] :=
  (Ctl.OnlyFlds.set m F.GL_MODE_PREV 0 m.mode).trans (.set _ F.GL_MODE_STATE 0 x.code)

theorem Ctl.OnlyFlds.recordWake (m : Ctl) (src : WakeSource) :
    m.OnlyFlds (m.recordWake src) [(F.WAKE_SOURCE_SOURCE, 0), (F.WAKE_SOURCE_FROM, 0), (F.WAKE_SOURCE_COUNT, 0)] :=
  ((Ctl.OnlyFlds.set m _ _ _).trans (.set _ _ _ _)).trans (.set _ _ _ _)

theorem Ctl.rest_leaveDrowse (m : Ctl) (src : WakeSource) : (m.leaveDrowse src).rest = m.rest.gatesOpen := by
  rw [Ctl.leaveDrowse_eq, Ctl.gatesOpen_rest, (Ctl.OnlyFlds.setMode _ _).rest, (Ctl.OnlyFlds.recordWake m src).rest]

/-- Leaving DROWSE makes no request wait and raises nothing. -/
theorem Ctl.quiet_leaveDrowse {m : Ctl} (src : WakeSource) (hq : m.Quiet) :
    (m.leaveDrowse src).Quiet ∧ (m.leaveDrowse src).raised = m.raised ∧ (m.leaveDrowse src).edits = m.edits := by
  have honly := (Ctl.OnlyFlds.recordWake m src).trans (.setMode _ (m.recordWake src).exitMode)
  rw [Ctl.leaveDrowse_eq]
  exact ⟨honly.quiet hq, honly.raised, honly.edits⟩

/-- What leaving DROWSE records. -/
theorem Ctl.get_leaveDrowse {m : Ctl} (src : WakeSource) (hmode : m.inMode [.drowse] = true) :
    (m.leaveDrowse src).get F.WAKE_SOURCE_SOURCE = wakeCode src % 2 ^ F.WAKE_SOURCE_SOURCE.width ∧
      (m.leaveDrowse src).get F.WAKE_SOURCE_FROM = Mode.drowse.code ∧
      (m.leaveDrowse src).mode = if m.anyLink then Mode.active.code else Mode.ready.code := by
  have hlater : (m.recordWake src).KeepsBut (m.leaveDrowse src) [F.GL_MODE_PREV, F.GL_MODE_STATE] := by
    rw [Ctl.leaveDrowse_eq]
    exact ((Ctl.KeepsBut.put _ _ _).trans (.put _ _ _)).trans (.of_flds (Ctl.gatesOpen_flds _))
  refine ⟨?_, ?_, ?_⟩
  · rw [hlater _ _ (by decide) (by decide), Ctl.recordWake, Ctl.bump_eq, Ctl.put_eq, Ctl.put_eq,
      Ctl.get_set_fld _ _ (by decide) (by decide) (by decide), Ctl.get_set_fld _ _ (by decide) (by decide) (by decide), Ctl.get_set_same]
  · have hkept : (m.put F.WAKE_SOURCE_SOURCE (wakeCode src)).mode = m.mode := m.get_set_fld _ (by decide) (by decide) (by decide)
    rw [hlater _ _ (by decide) (by decide), Ctl.recordWake, Ctl.bump_eq, Ctl.get_set_fld _ _ (by decide) (by decide) (by decide),
      Ctl.put_eq, Ctl.get_set_same, Ctl.mode_of_inMode hmode]
    rfl
  · have hset : (m.leaveDrowse src).mode = (m.recordWake src).exitMode.code % 2 ^ F.GL_MODE_STATE.width := by
      rw [Ctl.mode, Ctl.leaveDrowse_eq, Ctl.get_congr (Ctl.gatesOpen_flds _), Ctl.setMode_eq, Ctl.get_set_same]
    rw [hset, Ctl.exitMode_recordWake, Ctl.exitMode]
    split <;> rfl

/-- A wake pattern in READY or ACTIVE, with no handshake to abandon (R107, R506). -/
theorem Ends.of_wakePattern_awake (hq : s.ctl.Quiet) (hmode : s.ctl.inMode [.ready, .active] = true) (hentry : s.ctl.entry = none) :
    ∃ grps t, exec (.wakePattern (p, g)) s = .next t ∧ Ends s t (idleFlds p) (s.ctl.setPort p { s.ctl.port p with grps := grps }) ∧
      (s.ctl.linkUp p = true → s.ctl.grpOn p g.val = true → t.ctl.link p = 2) ∧
      ∀ k, Sparse.getD grps k {} = if k ∈ s.ctl.wokenPairs p g.val then s.ctl.woken p k else s.ctl.grp p k := by
  have hsleeps : s.ctl.fresh.inMode [.hibernate, .crescent] = false := Ctl.inMode_disjoint (m := s.ctl) hmode (by decide)
  have hdrowse : s.ctl.fresh.inMode [.drowse] = false := Ctl.inMode_disjoint (m := s.ctl) hmode (by decide)
  have halive : s.ctl.fresh.alive = true := Ctl.alive_of_inMode (m := s.ctl) hmode
  obtain ⟨grps, heq, hgrps⟩ := Ctl.wakeGroup_eq (m := s.ctl.fresh) (p := p) (g := g.val) hsleeps
  rw [Ctl.port_fresh] at heq
  obtain ⟨n, hn⟩ : ∃ n, n = s.ctl.fresh.setPort p { s.ctl.port p with grps := grps } := ⟨_, rfl⟩
  rw [← hn] at heq
  have hmodes : ∀ l, (n.relink p).inMode l = s.ctl.fresh.inMode l := fun l => by
    rw [(Ctl.OnlyFlds.relink n p).inMode (idleFlds_other p (by decide)), hn, Ctl.inMode_setPort]
  have hnone : (n.relink p).entry = none := by
    rw [(Ctl.OnlyFlds.relink n p).part (·.entry) fun _ => rfl, hn, Ctl.setPort_entry]
    exact hentry
  have heffect : (if s.ctl.fresh.alive then (s.ctl.fresh.wakeGroup p g.val).wakeUp (portWake p) else s.ctl.fresh) =
      (s.ctl.fresh.setPort p { s.ctl.port p with grps := grps }).relink p := by
    rw [if_pos halive, heq, Ctl.wakeUp_awake _ ((hmodes _).trans hdrowse) ((hmodes _).trans hsleeps) hnone, hn]
  have hgrps' : ∀ k, Sparse.getD grps k {} = if k ∈ s.ctl.wokenPairs p g.val then s.ctl.woken p k else s.ctl.grp p k := fun k => by
    rw [hgrps k, Ctl.grp_fresh]
    unfold Ctl.woken
    rw [Ctl.grp_fresh]
    rfl
  obtain ⟨t, ht, hends, hget⟩ := exec_of_relink (c := .wakePattern (p, g)) rfl heffect (.refl _) hq (hq.reqs p)
  refine ⟨grps, t, ht, hends, fun hup hon => (hget _ _ (by decide) p.copy_lt).trans ?_, hgrps'⟩
  refine Ctl.link_relink_awake (g := g.val) ?_ g.isLt ?_ (.inl ?_)
  · rw [Ctl.linkUp_setPort]; exact hup
  · rw [Ctl.grpOn_setPort]; exact hon
  · have hwoken : g.val ∈ s.ctl.wokenPairs p g.val := by
      unfold Ctl.wokenPairs
      split
      · exact List.mem_range.mpr g.isLt
      · exact List.mem_singleton.mpr rfl
    have hgrp : (s.ctl.fresh.setPort p { s.ctl.port p with grps := grps }).grp p g.val = s.ctl.woken p g.val := by
      have hwoke := hgrps' g.val
      rw [if_pos hwoken] at hwoke
      rw [Ctl.grp_eq, Ctl.port_setPort]
      exact hwoke
    rw [hgrp, Ctl.woken]
    split
    · rfl
    · next h => simpa [hon] using h

/-- A wake pattern in DROWSE ends it (R378, R383, R389). -/
theorem EndsBut.of_wakePattern_drowse (hq : s.ctl.Quiet) (hmode : s.ctl.inMode [.drowse] = true) :
    ∃ t grps, exec (.wakePattern (p, g)) s = .next t ∧
      EndsBut s t ([F.PA_STATUS_LINK, F.PA_SIDEBAND_PARTNER_IDLE] ++ wakeFlds)
        (s.ctl.setPort p { s.ctl.port p with grps := grps }).gatesOpen ∧
      t.ctl.get F.WAKE_SOURCE_SOURCE = p.idx + 1 ∧ t.ctl.get F.WAKE_SOURCE_FROM = Mode.drowse.code ∧
      t.ctl.mode = if s.ctl.anyLink then Mode.active.code else Mode.ready.code := by
  have hsleeps : s.ctl.fresh.inMode [.hibernate, .crescent] = false := Ctl.inMode_disjoint (m := s.ctl) hmode (by decide)
  have halive : s.ctl.fresh.alive = true := Ctl.alive_of_inMode (m := s.ctl) hmode
  obtain ⟨grps, heq, -⟩ := Ctl.wakeGroup_eq (m := s.ctl.fresh) (p := p) (g := g.val) hsleeps
  rw [Ctl.port_fresh] at heq
  obtain ⟨n, hn⟩ : ∃ n, n = (s.ctl.fresh.setPort p { s.ctl.port p with grps := grps }).relink p := ⟨_, rfl⟩
  have honly : (s.ctl.fresh.setPort p { s.ctl.port p with grps := grps }).OnlyFlds n (idleFlds p) := hn ▸ .relink _ p
  have hdrowse : n.inMode [.drowse] = true := by
    rw [honly.inMode (idleFlds_other p (by decide)), Ctl.inMode_setPort]
    exact hmode
  have hlinks : n.anyLink = s.ctl.anyLink := by
    rw [hn, Ctl.anyLink_relink]
    exact Ctl.KeepsBut.anyLink (.of_flds (by rw [Ctl.setPort_flds]; rfl)) (by decide) (by decide)
  have heffect : (if s.ctl.fresh.alive then (s.ctl.fresh.wakeGroup p g.val).wakeUp (portWake p) else s.ctl.fresh) =
      n.leaveDrowse (portWake p) := by
    rw [if_pos halive, heq, ← hn, Ctl.wakeUp, if_pos hdrowse]
  have hquiet : n.Quiet := honly.quiet (hq.fresh.setPort p (hq.reqs p))
  have hraised : n.raised = [] := honly.raised.trans (Ctl.setPort_raised _ _ _)
  have hedits : n.edits = [] := honly.edits.trans (Ctl.setPort_edits _ _ _)
  have hkeeps : s.ctl.KeepsBut n [F.PA_STATUS_LINK, F.PA_SIDEBAND_PARTNER_IDLE] := fun f i hi hf => by
    rw [hn, Ctl.get_relink _ p hf hi, Ctl.get_setPort, Ctl.get_fresh]
  have hexec : exec (.wakePattern (p, g)) s =
      .next (run s fun _ m => if m.alive then (m.wakeGroup p g.val).wakeUp (portWake p) else m) := rfl
  obtain ⟨hquiet', hraised', hedits'⟩ := Ctl.quiet_leaveDrowse (portWake p) hquiet
  have hends := EndsBut.of_effect (s := s) (g := fun _ m => if m.alive then (m.wakeGroup p g.val).wakeUp (portWake p) else m)
    heffect hquiet' (hraised'.trans hraised) (hedits'.trans hedits)
    (hkeeps.trans (.leaveDrowse n _))
    (m := (s.ctl.setPort p { s.ctl.port p with grps := grps }).gatesOpen) ?_
  · have hget := fun f => get_of_effect (s := s) (f := f)
      (g := fun _ m => if m.alive then (m.wakeGroup p g.val).wakeUp (portWake p) else m) heffect hquiet' (hraised'.trans hraised) (hedits'.trans hedits) 0
    obtain ⟨hsource, hfrom, hexit⟩ := Ctl.get_leaveDrowse (portWake p) hdrowse
    refine ⟨_, grps, hexec, hends, (hget F.WAKE_SOURCE_SOURCE (by decide)).trans (hsource.trans ?_),
      (hget F.WAKE_SOURCE_FROM (by decide)).trans hfrom, (hget F.GL_MODE_STATE (by decide)).trans (hexit.trans ?_)⟩
    · cases p <;> rfl
    · rw [hlinks]
  · have hrest : n.rest = (s.ctl.setPort p { s.ctl.port p with grps := grps }).rest := by
      rw [honly.rest, Ctl.rest_setPort, Ctl.rest_setPort, Ctl.rest_of_fresh]
    rw [Ctl.rest_leaveDrowse, hrest, Ctl.gatesOpen_rest]

/-- A wake pattern in HIBERNATE or CRESCENT is held for the exit (R389). -/
theorem Ends.of_wakePattern_asleep (hq : s.ctl.Quiet) (hmode : s.ctl.inMode [.hibernate, .crescent] = true) :
    ∃ t, exec (.wakePattern (p, g)) s = .next t ∧ Ends s t [] { s.ctl with wakeHeld := some (s.ctl.wakeHeld.getD (portWake p)) } := by
  have hsleeps : s.ctl.fresh.inMode [.hibernate, .crescent] = true := hmode
  have halive : s.ctl.fresh.alive = true := Ctl.alive_of_inMode hsleeps
  have heffect : (if s.ctl.fresh.alive then (s.ctl.fresh.wakeGroup p g.val).wakeUp (portWake p) else s.ctl.fresh) =
      { s.ctl.fresh with wakeHeld := some (s.ctl.wakeHeld.getD (portWake p)) } := by
    rw [if_pos halive, Ctl.wakeGroup, if_pos hsleeps, Ctl.wakeUp_asleep _ hsleeps]
    rfl
  obtain ⟨t, ht, hends⟩ := exec_of_noField (c := .wakePattern (p, g)) rfl heffect hq.fresh rfl rfl rfl
  exact ⟨t, ht, hends.of_rest rfl⟩

end

end Sys2Proof.Machine

namespace Sys2Proof.HostPorts

open Sys2Proof.Machine

/-- Settles O22: one command at a time, and a wake by the mode that it finds. -/
theorem portIdleWake : Obligations.PortIdleWake := by
  unfold Obligations.PortIdleWake
  intro s p g level q x link hq
  refine ⟨Ends.of_urgLevel hq, Ends.of_linkIdle hq, fun hup hon hrx htx hquiet hbuf hempty hslots hevents =>
    Ends.of_linkIdleSend hq hup hon hrx htx hquiet hbuf hempty hslots hevents, fun n hack htx hwaits hn =>
    Ends.of_returnUp hq hack htx hwaits hn, Ends.of_returnDown hq, fun hmode hentry => ?_, fun hmode => ?_,
    Ends.of_wakePattern_asleep hq⟩
  · obtain ⟨grps, t, ht, hends, hlink, hgrps⟩ := Ends.of_wakePattern_awake (p := p) (g := g) hq hmode hentry
    have hport : t.ctl.port p = { x with grps := grps } :=
      (hends.part (·.port p) fun _ => by cases p <;> rfl).trans (Ctl.port_setPort _ _ _)
    refine ⟨t, ht, hport ▸ hends, hport ▸ rfl, hlink, fun k hk => ?_⟩
    have hwoken : k ∈ s.ctl.wokenPairs p g.val ↔ k = g.val ∨ s.ctl.lowest p = some g.val := by
      unfold Ctl.wokenPairs
      split <;> simp_all
    have hgrp : t.ctl.grp p k = if k ∈ s.ctl.wokenPairs p g.val then s.ctl.woken p k else s.ctl.grp p k := by
      rw [← hgrps k, Ctl.grp_eq, hport]
      rfl
    rw [hgrp, ite_and]
    exact if_congr hwoken rfl rfl
  · obtain ⟨t, grps, ht, hends, hsource, hfrom, hexit⟩ := EndsBut.of_wakePattern_drowse (p := p) (g := g) hq hmode
    have hport : t.ctl.port p = { x with grps := grps } :=
      (hends.part (·.port p) fun _ => by cases p <;> rfl).trans (by cases p <;> rfl)
    have hgatesOpen : (s.ctl.setPort p { s.ctl.port p with grps := grps }).gatesOpen =
        { s.ctl.setPort p { x with grps := grps } with clk := { s.ctl.clk with gated := [], asked := [] }, idle := 0 } := by
      cases p <;> rfl
    rw [hgatesOpen] at hends
    refine ⟨t, ht, ⟨hends.pending, hends.arr, fun f i hi hf => hends.flds f i hi fun h => hf ?_, hport ▸ hends.rest⟩, hsource, hfrom, hexit⟩
    simp only [wakeFlds, List.map_cons, List.map_nil, List.cons_append, List.nil_append, List.mem_cons] at h ⊢
    tauto

end Sys2Proof.HostPorts
end

section
/-!
Partner loss of a host port (R104, R109, R110): its rings, its block, and the fault that reports it.
-/

namespace Sys2Proof

/-- What a mapped table lists is an image of what the table listed. -/
theorem Sparse.mem_mapD {α : Type} [DecidableEq α] {t : Sparse α} {d : α} {f : Nat → α → α} {e : Nat × α}
    (h : e ∈ Sparse.mapD t d f) : ∃ e' ∈ t, e = (e'.1, f e'.1 e'.2) := by
  induction t with
  | nil => simp at h
  | cons x t ih =>
    rw [Sparse.mapD_cons] at h
    rcases Sparse.mem_setD h with rfl | h
    · exact ⟨x, List.mem_cons_self, rfl⟩
    · obtain ⟨e', he', heq⟩ := ih h
      exact ⟨e', List.mem_cons_of_mem _ he', heq⟩

end Sys2Proof

namespace Sys2Proof.Machine

/-! ## PCs with nothing under way -/

/-- Nothing is under way in any PC. -/
def Ctl.PcsIdle (m : Ctl) : Prop :=
  ∀ q, (m.pc q).ingress = [] ∧ (m.pc q).queue = [] ∧ (m.pc q).flights = [] ∧ (m.pc q).rebuilds = []

/-- Every PC is as before, though the table that lists them may differ. -/
structure Ctl.PcsAs (m n : Ctl) : Prop where
  pc : ∀ q, n.pc q = m.pc q
  clean : (∀ e ∈ m.pcs, e.2.codeErr = false) → ∀ e ∈ n.pcs, e.2.codeErr = false

section
variable {m n k : Ctl}

theorem Ctl.PcsAs.of_eq (h : n.pcs = m.pcs) : m.PcsAs n := ⟨fun q => by rw [Ctl.pc, Ctl.pc, h], fun hc => h ▸ hc⟩

theorem Ctl.PcsAs.trans (h : m.PcsAs n) (h' : n.PcsAs k) : m.PcsAs k :=
  ⟨fun q => (h'.pc q).trans (h.pc q), fun hc => h'.clean (h.clean hc)⟩

theorem Ctl.PcsIdle.congr (h : m.PcsIdle) (hpc : ∀ q, n.pc q = m.pc q) : n.PcsIdle := fun q => by
  rw [hpc q]
  exact h q

/-- Filters of what is under way leave every PC as it is where nothing is. -/
theorem Ctl.PcsAs.mapD {f : Nat → Pc → Pc} (hpcs : n.pcs = Sparse.mapD m.pcs {} f) (hnone : ∀ q, f q {} = {})
    (hpc : ∀ q, f q (m.pc q) = m.pc q) (hcode : ∀ q x, (f q x).codeErr = x.codeErr) : m.PcsAs n := by
  refine ⟨fun q => ?_, fun hc e he => ?_⟩
  · rw [Ctl.pc, hpcs, Sparse.getD_mapD _ _ _ _ (hnone q)]
    exact hpc q
  · rw [hpcs] at he
    obtain ⟨e', he', rfl⟩ := Sparse.mem_mapD he
    exact (hcode _ _).trans (hc e' he')

/-- Is an access other than a fetch of a ring? -/
def Who.otherThanFetch (r : Nat) : Who → Bool
  | .engine q _ g _ => !(q == r && g == fetchGran)
  | _ => true

/-- A PC without the fetches of a ring. -/
def Pc.withoutFetches (x : Pc) (r _ : Nat) : Pc :=
  { x with ingress := x.ingress.filter fun j => j.who.otherThanFetch r, queue := x.queue.filter fun j => j.who.otherThanFetch r
           flights := x.flights.filter fun f => f.who.otherThanFetch r, rebuilds := x.rebuilds.filter fun e => e.who.otherThanFetch r }

/-- Is an access other than one for a discarded request of a port? -/
def Who.otherThanGone (p : Port) (gone : List Nat) : Who → Bool
  | .port q pos => !(decide (q = p) && gone.contains pos)
  | _ => true

/-- A PC without the jobs of discarded requests of a port. -/
def Pc.withoutJobs (x : Pc) (p : Port) (gone : List Nat) (_ : Nat) : Pc :=
  { x with ingress := x.ingress.filter fun j => j.who.otherThanGone p gone, queue := x.queue.filter fun j => j.who.otherThanGone p gone }

theorem Pc.withoutFetches_idle {x : Pc} (r i : Nat) (hingress : x.ingress = []) (hqueue : x.queue = []) (hflights : x.flights = [])
    (hrebuilds : x.rebuilds = []) : x.withoutFetches r i = x := by
  cases x
  cases hingress; cases hqueue; cases hflights; cases hrebuilds
  rfl

theorem Pc.withoutJobs_idle {x : Pc} (p : Port) (gone : List Nat) (i : Nat) (hingress : x.ingress = []) (hqueue : x.queue = []) :
    x.withoutJobs p gone i = x := by
  cases x
  cases hingress; cases hqueue
  rfl

theorem Ctl.PcsAs.dropFetches (h : m.PcsIdle) (r : Nat) : m.PcsAs (m.dropFetches r) := by
  refine .mapD (f := fun i x => x.withoutFetches r i) rfl (fun _ => rfl) (fun q => ?_) fun _ _ => rfl
  obtain ⟨hingress, hqueue, hflights, hrebuilds⟩ := h q
  exact Pc.withoutFetches_idle r q hingress hqueue hflights hrebuilds

theorem Ctl.PcsAs.dropJobs (h : m.PcsIdle) (p : Port) (gone : List Nat) : m.PcsAs (m.dropJobs p gone) := by
  refine .mapD (f := fun i x => x.withoutJobs p gone i) rfl (fun _ => rfl) (fun q => ?_) fun _ _ => rfl
  obtain ⟨hingress, hqueue, -, -⟩ := h q
  exact Pc.withoutJobs_idle p gone q hingress hqueue

/-! ## Rings with nothing in progress -/

/-- From `m` to `n` the rings of a list, with nothing in progress, have been aborted (R268). -/
structure Ctl.Aborted (m n : Ctl) (l : List Nat) : Prop where
  pcs : m.PcsAs n
  same : n = { m with flds := n.flds, pcs := n.pcs, rings := n.rings }
  flds : m.SameFlds n (l.map fun r => (F.RING_STATUS_STATE, r))
  state : ∀ r ∈ l, n.ringState r = if m.ringState r = 0 then 0 else 4
  ring : ∀ r ∈ l, m.ringState r ≠ 0 → n.ring r = { m.ring r with pre := [] }
  other : ∀ r, r ∉ l → n.ring r = m.ring r

/-- The state of another ring. -/
theorem Ctl.ringState_congr {r q : Nat} (h : m.SameFlds n [(F.RING_STATUS_STATE, r)]) (hq : q ≠ r) : n.ringState q = m.ringState q := by
  refine h _ _ ?_
  simp only [List.map_cons, List.map_nil, List.mem_singleton, fkey]
  omega

theorem Ctl.Aborted.ringAbort {r : Nat} (hidle : m.PcsIdle) (hprog : (m.ring r).prog = []) : m.Aborted (m.ringAbort r) [r] := by
  by_cases hoff : m.ringState r = 0
  · have heq : m.ringAbort r = m := if_pos (by simp [hoff, rsDisabled])
    rw [heq]
    refine ⟨.of_eq rfl, rfl, .refl _ _, fun q hq => ?_, fun q hq hon => ?_, fun _ _ => rfl⟩
    · rw [List.mem_singleton.mp hq, if_pos hoff, hoff]
    · exact absurd (List.mem_singleton.mp hq ▸ hoff) hon
  · obtain ⟨n, hn⟩ : ∃ n, n = (m.dropFetches r).set F.RING_STATUS_STATE r rsAborted := ⟨_, rfl⟩
    have hring : (m.dropFetches r).ring r = m.ring r := rfl
    have heq : m.ringAbort r = n.setRing r { m.ring r with pre := [] } := by
      have hdisabled : ¬ ((m.ringState r == rsDisabled) = true) := by simpa [rsDisabled] using hoff
      unfold Ctl.ringAbort
      rw [if_neg hdisabled, hprog]
      simp only [List.filter_nil, List.foldl_nil, List.isEmpty_nil, Bool.not_true, Bool.and_false, Bool.false_eq_true, if_false,
        Ctl.modRing_eq, ← hn]
      have hsame : n.ring r = m.ring r := by rw [hn]; rfl
      rw [hsame, hprog, List.map_nil]
    have hflds : m.SameFlds n [(F.RING_STATUS_STATE, r)] := hn ▸ Ctl.SameFlds.set (m.dropFetches r) _ _ _
    rw [heq]
    refine ⟨(Ctl.PcsAs.dropFetches hidle r).trans (.of_eq (by rw [hn]; rfl)), by rw [hn]; rfl, hflds, fun q hq => ?_, fun q hq _ => ?_,
      fun q hq => ?_⟩
    · rw [List.mem_singleton.mp hq, if_neg hoff]
      have hget : n.get F.RING_STATUS_STATE r = 4 := by rw [hn, Ctl.get_set_same]; rfl
      exact hget
    · rw [List.mem_singleton.mp hq]
      exact Sparse.getD_setD_same _ _ _ _
    · refine (Sparse.getD_setD_other _ _ _ _ _ _ (by simpa using hq)).trans ?_
      rw [hn]
      rfl

theorem Ctl.Aborted.cons {r : Nat} {l : List Nat} (h : m.Aborted n [r]) (h' : n.Aborted k l) (hr : r ∉ l) : m.Aborted k (r :: l) := by
  have hstate : ∀ q ∈ l, n.ringState q = m.ringState q := fun q hq => Ctl.ringState_congr h.flds fun hqr => hr (hqr ▸ hq)
  have hring : ∀ q ∈ l, n.ring q = m.ring q := fun q hq => h.other q fun hqr => hr (List.mem_singleton.mp hqr ▸ hq)
  have hlater : k.ringState r = n.ringState r := by
    refine h'.flds _ _ ?_
    simp only [List.map_map, List.mem_map, Function.comp, fkey, not_exists, not_and]
    intro q hq hkey
    exact hr ((by omega : q = r) ▸ hq)
  refine ⟨h.pcs.trans h'.pcs, by rw [h'.same, h.same], h.flds.trans h'.flds, fun q hq => ?_, fun q hq hon => ?_, fun q hq => ?_⟩
  · rcases List.mem_cons.mp hq with rfl | hq
    · exact hlater.trans (h.state _ (List.mem_singleton_self _))
    · rw [h'.state q hq, hstate q hq]
  · rcases List.mem_cons.mp hq with rfl | hq
    · exact (h'.other _ hr).trans (h.ring _ (List.mem_singleton_self _) hon)
    · rw [h'.ring q hq (by rwa [hstate q hq]), hring q hq]
  · obtain ⟨hqr, hql⟩ := not_or.mp (List.mem_cons.not.mp hq)
    rw [h'.other q hql, h.other q (by simpa using hqr)]

/-- Rings with nothing in progress are aborted one after the other. -/
theorem Ctl.Aborted.fold {l : List Nat} (hl : l.Nodup) (m : Ctl) (hidle : m.PcsIdle) (hprog : ∀ r ∈ l, (m.ring r).prog = []) :
    m.Aborted (l.foldl Ctl.ringAbort m) l := by
  induction l generalizing m with
  | nil => exact ⟨.of_eq rfl, rfl, .refl _ _, by simp, by simp, fun _ _ => rfl⟩
  | cons r l ih =>
    obtain ⟨hr, hl⟩ := List.nodup_cons.mp hl
    have hone := Ctl.Aborted.ringAbort hidle (hprog r List.mem_cons_self)
    refine hone.cons (ih hl (m.ringAbort r) (hidle.congr hone.pcs.pc) fun q hq => ?_) hr
    rw [hone.other q fun hqr => hr (List.mem_singleton.mp hqr ▸ hq)]
    exact hprog q (List.mem_cons_of_mem _ hq)

/-- The rings of a port. -/
def portRings (p : Port) : List Nat := (List.range 64).map fun k => 64 * p.idx + k

theorem mem_portRings {p : Port} {r : Nat} : r ∈ portRings p ↔ 64 * p.idx ≤ r ∧ r < 64 * p.idx + 64 := by
  simp only [portRings, List.mem_map, List.mem_range]
  exact ⟨by rintro ⟨k, hk, rfl⟩; omega, fun ⟨hlo, hhi⟩ => ⟨r - 64 * p.idx, by omega, by omega⟩⟩

theorem Ctl.Aborted.ringsAbort (m : Ctl) (p : Port) (hidle : m.PcsIdle) (hprog : ∀ r ∈ portRings p, (m.ring r).prog = []) :
    m.Aborted (m.ringsAbort (64 * p.idx) 64) (portRings p) := by
  have hfold : m.ringsAbort (64 * p.idx) 64 = (portRings p).foldl Ctl.ringAbort m := by
    rw [portRings, List.foldl_map]
    rfl
  rw [hfold]
  exact .fold (List.nodup_range.map fun _ _ h => Nat.add_left_cancel h) m hidle hprog

/-! ## The block of a port -/

theorem Ctl.OnlyFlds.clear (m : Ctl) (f : Fld) (i : Nat) : m.OnlyFlds (m.clear f i) [(f, i)] :=
  ⟨rfl, rfl, rfl, fun g j h => Ctl.get_clear_other m f g i j (by simpa using h)⟩

/-- The registers of a port whose partner is lost (R110). -/
def Ctl.linkLost (m : Ctl) (p : Port) : Ctl :=
  ((((m.clear F.PA_STATUS_GROUPS p.idx).clear F.PA_STATUS_RATE p.idx).set F.PA_STATUS_LINK p.idx 4).clear
    F.PA_SIDEBAND_PARTNER_IDLE p.idx).clear F.PA_SIDEBAND_URG p.idx

theorem Ctl.OnlyFlds.linkLost (m : Ctl) (p : Port) : m.OnlyFlds (m.linkLost p)
    [(F.PA_STATUS_GROUPS, p.idx), (F.PA_STATUS_RATE, p.idx), (F.PA_STATUS_LINK, p.idx), (F.PA_SIDEBAND_PARTNER_IDLE, p.idx),
      (F.PA_SIDEBAND_URG, p.idx)] :=
  ((((Ctl.OnlyFlds.clear m _ _).trans (.clear _ _ _)).trans (.set _ _ _ _)).trans (.clear _ _ _)).trans (.clear _ _ _)

theorem Ctl.get_clear_fld (m : Ctl) {f g : Fld} {i j : Nat} (hid : g.id ≠ f.id) (hi : i < 1048576) (hj : j < 1048576) :
    (m.clear f i).get g j = m.get g j := m.get_clear_other f g i j (fkey_ne hid hj hi)

theorem Ctl.get_linkLost (m : Ctl) (p : Port) : (m.linkLost p).link p = 4 ∧ (m.linkLost p).get F.PA_STATUS_GROUPS p.idx = 0 := by
  have hi := p.copy_lt
  constructor
  · rw [Ctl.link, Ctl.linkLost, Ctl.get_clear_fld _ (by decide) hi hi, Ctl.get_clear_fld _ (by decide) hi hi, Ctl.get_set_same]
    rfl
  · rw [Ctl.linkLost, Ctl.get_clear_fld _ (by decide) hi hi, Ctl.get_clear_fld _ (by decide) hi hi,
      Ctl.get_set_fld _ _ (by decide) hi hi, Ctl.get_clear_fld _ (by decide) hi hi, Ctl.get_clear_same]
    rfl

theorem Ctl.OnlyFlds.readyOrActive (m : Ctl) : m.OnlyFlds m.readyOrActive [(F.GL_MODE_PREV, 0), (F.GL_MODE_STATE, 0)] := by
  unfold Ctl.readyOrActive
  split
  · exact .setMode _ _
  · split
    · exact .setMode _ _
    · exact (Ctl.OnlyFlds.refl m).mono (by simp)

/-- ACTIVE turns on a link that is up. -/
theorem Ctl.mode_readyOrActive (h : m.inMode [.active] = true) :
    m.readyOrActive.mode = if m.anyLink then Mode.active.code else Mode.ready.code := by
  have hready : m.inMode [.ready] = false := Ctl.inMode_disjoint h (by decide)
  unfold Ctl.readyOrActive
  cases hlink : m.anyLink with
  | true => simpa [hready] using Ctl.mode_of_inMode h
  | false =>
    simp only [hready, h, Bool.false_and, Bool.false_eq_true, if_false, Bool.not_false, Bool.and_true, if_true]
    rw [Ctl.mode, Ctl.setMode_eq, Ctl.get_set_same]
    rfl

/-- Whether any link is up turns on the registers that show the links. -/
theorem Ctl.anyLink_congr (hlink : ∀ q, n.link q = m.link q) (hsvc : n.get F.SVC_STATUS_LINK = m.get F.SVC_STATUS_LINK) :
    n.anyLink = m.anyLink := by
  simp only [Ctl.anyLink, Ctl.linkUp, Ctl.is, hlink, hsvc]

/-! ## The loss -/

/-- The cause of a partner loss as it is recorded (R109). -/
def lossCode : PartnerCause → Nat
  | .hostpresLow => 1
  | .clockLoss => 2
  | .silence => 3

/-- The source that reports the loss of a port's partner. -/
def lossSource : Port → Nat
  | .a => 0x082
  | .b => 0x092

/-- A port with nothing queued once its traffic is discarded (R110). -/
def Ctl.trafficGone (m : Ctl) (p : Port) : Ctl := (m.dropJobs p []).setPort p { nextPos := (m.port p).nextPos }

/-- What the registers show of a lost partner, but for `HOSTPRES`. -/
def Ctl.lossShown (m : Ctl) (p : Port) (code : Nat) : Ctl :=
  ((m.linkLost p).readyOrActive.set F.PA_LOSS_CAUSE p.idx code).bump F.PA_LOSS_COUNT p.idx

/-- `HOSTPRES` has fallen where that is the cause. -/
def Ctl.hostpresShown (m : Ctl) (p : Port) (cause : PartnerCause) : Ctl :=
  if cause = .hostpresLow then m.set F.PA_SIDEBAND_HOSTPRES p.idx 0 else m

/-- The registers that show a lost partner. -/
def lossFlds (p : Port) : List (Fld × Nat) :=
  [(F.PA_STATUS_GROUPS, p.idx), (F.PA_STATUS_RATE, p.idx), (F.PA_STATUS_LINK, p.idx), (F.PA_SIDEBAND_PARTNER_IDLE, p.idx),
    (F.PA_SIDEBAND_URG, p.idx), (F.GL_MODE_PREV, 0), (F.GL_MODE_STATE, 0), (F.PA_LOSS_CAUSE, p.idx), (F.PA_LOSS_COUNT, p.idx),
    (F.PA_SIDEBAND_HOSTPRES, p.idx)]

theorem Ctl.OnlyFlds.hostpresShown (m : Ctl) (p : Port) (cause : PartnerCause) :
    m.OnlyFlds (m.hostpresShown p cause) [(F.PA_SIDEBAND_HOSTPRES, p.idx)] := by
  unfold Ctl.hostpresShown
  split
  · exact .set _ _ _ _
  · exact (Ctl.OnlyFlds.refl m).mono (by simp)

theorem Ctl.OnlyFlds.lossShown (m : Ctl) (p : Port) (cause : PartnerCause) :
    m.OnlyFlds ((m.lossShown p (lossCode cause)).hostpresShown p cause) (lossFlds p) :=
  ((((Ctl.OnlyFlds.linkLost m p).trans (.readyOrActive _)).trans (.set _ _ _ _)).trans (.set _ _ _ _)).trans (.hostpresShown _ p cause)

/-- What is raised does not turn on a field that is written later. -/
theorem Ctl.set_raiseAs (m : Ctl) {f : Fld} {i src : Nat} (v info : Nat) (b : Bool) (hf : f.id ∉ [0, 6, 426]) (hi : i < 1048576)
    (hsrc : src < 1048576) : (m.raiseAs src info b).set f i v = (m.set f i v).raiseAs src info b := by
  simp only [List.mem_cons, List.not_mem_nil, or_false, not_or] at hf
  obtain ⟨horbit, hvalid, hsev⟩ := hf
  have hsevOf : (m.set f i v).sevOf src = m.sevOf src := m.get_set_fld v (Ne.symm hsev) hi hsrc
  have horbitOf : (m.set f i v).orbit = m.orbit := m.get_set_fld v (Ne.symm horbit) hi (by decide)
  have hvalidOf : (m.set f i v).numValid = m.numValid := by
    rw [Ctl.numValid, Ctl.numValid, Ctl.is, Ctl.is, m.get_set_fld v (Ne.symm hvalid) hi (by decide)]
  unfold Ctl.raiseAs
  rw [hsevOf, horbitOf, hvalidOf]
  rfl

variable {p : Port}

/-- A field reads as before where all fields written are others. -/
theorem Ctl.OnlyFlds.get {l : List (Fld × Nat)} {ids : List Nat} {f : Fld} {i : Nat} (h : m.OnlyFlds n l)
    (hl : ∀ e ∈ l, e.1.id ∈ ids ∧ e.2 < 1048576) (hf : f.id ∉ ids) (hi : i < 1048576) : n.get f i = m.get f i :=
  h.flds.get_eq (fun e he => ⟨fun hid => hf (hid ▸ (hl e he).1), (hl e he).2⟩) hi

/-- The reset of a port with nothing queued that does not own the semaphore (R110). -/
theorem Ctl.portReset_eq (hreqs : (m.port p).reqs = []) (hhdrs : (m.port p).hdrs = []) (hup : ∀ e ∈ (m.port p).grps, e.2.up = [])
    (howner : ((m.trafficGone p).ringsAbort (64 * p.idx) 64).owner ≠ p.master.code) :
    m.portReset p = (((m.trafficGone p).ringsAbort (64 * p.idx) 64).linkLost p).readyOrActive := by
  have hdrop : ∀ l : List (Nat × Grp), (∀ e ∈ l, e.2.up = []) → ∀ n : Ctl, l.foldl (fun n e => n.dropUp e.2.up) n = n := by
    intro l hl
    induction l with
    | nil => exact fun _ => rfl
    | cons e l ih =>
      intro n
      rw [List.foldl_cons, hl e List.mem_cons_self]
      exact ih (fun e he => hl e (List.mem_cons_of_mem _ he)) n
  unfold Ctl.portReset
  simp only [hreqs, hhdrs, List.foldl_nil, List.filter_nil, List.map_nil, hdrop _ hup]
  exact congrArg (fun n : Ctl => (n.linkLost p).readyOrActive) (if_neg howner)

/-- The effect of a partner loss on such a port. -/
theorem Ctl.partnerLost_eq (cause : PartnerCause) (hreset : m.portReset p = (n.linkLost p).readyOrActive) :
    (m.partnerLost p (lossCode cause)).hostpresShown p cause =
      ((n.lossShown p (lossCode cause)).hostpresShown p cause).raiseAs (lossSource p) (lossCode cause * 2 ^ 12) false := by
  have hlost : m.partnerLost p (lossCode cause) =
      (n.lossShown p (lossCode cause)).raiseAs (lossSource p) (lossCode cause * 2 ^ 12) false := by
    unfold Ctl.partnerLost
    rw [hreset]
    cases p <;> rfl
  rw [hlost]
  unfold Ctl.hostpresShown
  split
  · exact Ctl.set_raiseAs _ _ _ _ (by decide) p.copy_lt (by cases p <;> decide)
  · rfl

/-- What the registers then show. -/
theorem Ctl.get_lossShown (m : Ctl) (p : Port) (cause : PartnerCause) :
    let n := (m.lossShown p (lossCode cause)).hostpresShown p cause
    n.link p = 4 ∧ n.get F.PA_STATUS_GROUPS p.idx = 0 ∧ n.get F.PA_LOSS_CAUSE p.idx = lossCode cause ∧
      n.get F.PA_SIDEBAND_HOSTPRES p.idx = (if cause = .hostpresLow then 0 else m.get F.PA_SIDEBAND_HOSTPRES p.idx) ∧
      n.get F.PA_LOSS_COUNT p.idx = min (m.get F.PA_LOSS_COUNT p.idx + 1) (2 ^ F.PA_LOSS_COUNT.width - 1) ∧
      (m.inMode [.active] = true → n.mode = if n.anyLink then Mode.active.code else Mode.ready.code) := by
  intro n
  have hi := p.copy_lt
  obtain ⟨hlink, hgroups⟩ := Ctl.get_linkLost m p
  obtain ⟨k, hk⟩ : ∃ k, k = (m.linkLost p).readyOrActive := ⟨_, rfl⟩
  have hlost := Ctl.OnlyFlds.linkLost m p
  have hready : (m.linkLost p).OnlyFlds k [(F.GL_MODE_PREV, 0), (F.GL_MODE_STATE, 0)] := hk ▸ .readyOrActive _
  have hlater : k.OnlyFlds n [(F.PA_LOSS_CAUSE, p.idx), (F.PA_LOSS_COUNT, p.idx), (F.PA_SIDEBAND_HOSTPRES, p.idx)] :=
    hk ▸ ((Ctl.OnlyFlds.set _ _ _ _).trans (.set _ _ _ _)).trans (.hostpresShown _ p cause)
  have hready_ids : ∀ e ∈ [(F.GL_MODE_PREV, 0), (F.GL_MODE_STATE, 0)], e.1.id ∈ [326, 327] ∧ e.2 < 1048576 := by decide
  have hlost_ids : ∀ e ∈ [(F.PA_STATUS_GROUPS, p.idx), (F.PA_STATUS_RATE, p.idx), (F.PA_STATUS_LINK, p.idx),
      (F.PA_SIDEBAND_PARTNER_IDLE, p.idx), (F.PA_SIDEBAND_URG, p.idx)], e.1.id ∈ [22, 23, 24, 25, 26] ∧ e.2 < 1048576 := by
    simp [F.PA_STATUS_GROUPS, F.PA_STATUS_RATE, F.PA_STATUS_LINK, F.PA_SIDEBAND_PARTNER_IDLE, F.PA_SIDEBAND_URG, hi]
  have hlater_ids : ∀ e ∈ [(F.PA_LOSS_CAUSE, p.idx), (F.PA_LOSS_COUNT, p.idx), (F.PA_SIDEBAND_HOSTPRES, p.idx)],
      e.1.id ∈ [27, 42, 43] ∧ e.2 < 1048576 := by
    simp [F.PA_LOSS_CAUSE, F.PA_LOSS_COUNT, F.PA_SIDEBAND_HOSTPRES, hi]
  have hkept : ∀ q : Port, n.link q = (m.linkLost p).link q := fun q =>
    (hlater.get hlater_ids (by decide) q.copy_lt).trans (hready.get hready_ids (by decide) q.copy_lt)
  have hn : n = ((k.set F.PA_LOSS_CAUSE p.idx (lossCode cause)).bump F.PA_LOSS_COUNT p.idx).hostpresShown p cause := by rw [hk]; rfl
  obtain ⟨y, hy⟩ : ∃ y, y = (k.set F.PA_LOSS_CAUSE p.idx (lossCode cause)).bump F.PA_LOSS_COUNT p.idx := ⟨_, rfl⟩
  rw [← hy] at hn
  have hpres : y.OnlyFlds n [(F.PA_SIDEBAND_HOSTPRES, p.idx)] := hn ▸ .hostpresShown _ p cause
  have hpres_ids : ∀ e ∈ [(F.PA_SIDEBAND_HOSTPRES, p.idx)], e.1.id ∈ [27] ∧ e.2 < 1048576 := by simp [F.PA_SIDEBAND_HOSTPRES, hi]
  refine ⟨(hkept p).trans hlink, ?_, ?_, ?_, ?_, fun hactive => ?_⟩
  · rw [hlater.get hlater_ids (by decide) hi, hready.get hready_ids (by decide) hi, hgroups]
  · rw [hpres.get hpres_ids (by decide) hi, hy, Ctl.bump_eq, Ctl.get_set_fld _ _ (by decide) hi hi, Ctl.get_set_same]
    cases cause <;> rfl
  · rw [hn, Ctl.hostpresShown]
    split
    · rw [Ctl.get_set_same]
      rfl
    · rw [hy, Ctl.bump_eq, Ctl.get_set_fld _ _ (by decide) hi hi, Ctl.get_set_fld _ _ (by decide) hi hi,
        hready.get hready_ids (by decide) hi, hlost.get hlost_ids (by decide) hi]
  · rw [hpres.get hpres_ids (by decide) hi, hy, Ctl.get_bump_same, Ctl.get_set_fld _ _ (by decide) hi hi,
      hready.get hready_ids (by decide) hi, hlost.get hlost_ids (by decide) hi]
  · have hmode : (m.linkLost p).inMode [.active] = true := by
      rw [hlost.inMode fun e he => ⟨fun hid => ?_, (hlost_ids e he).2⟩]
      · exact hactive
      · exact absurd (hid ▸ (hlost_ids e he).1) (by decide)
    have hlinks : n.anyLink = (m.linkLost p).anyLink := Ctl.anyLink_congr hkept
      ((hlater.get hlater_ids (by decide) (by decide)).trans (hready.get hready_ids (by decide) (by decide)))
    have hstays : n.mode = k.mode := hlater.get hlater_ids (by decide) (by decide)
    rw [hstays, hk, Ctl.mode_readyOrActive hmode, hlinks]

/-! ## The command -/

/-- Nothing but PCs that stay as they are and rings differs between a port's traffic discarded and its rings aborted. -/
theorem Ctl.Aborted.quiet {l : List Nat} (h : m.Aborted n l) (hq : m.Quiet) : n.Quiet := by
  obtain ⟨hpa, hpb, hsvc, hpcs, hmirs⟩ := hq
  have hclean := h.pcs.clean hpcs
  rw [h.same]
  exact ⟨hpa, hpb, hsvc, hclean, hmirs⟩

theorem Ctl.PcsAs.quiet (h : m.PcsAs n) (hn : n = { m with pcs := n.pcs }) (hq : m.Quiet) : n.Quiet := by
  obtain ⟨hpa, hpb, hsvc, hpcs, hmirs⟩ := hq
  have hclean := h.clean hpcs
  rw [hn]
  exact ⟨hpa, hpb, hsvc, hclean, hmirs⟩

theorem Ctl.trafficGone_flds (m : Ctl) (p : Port) : (m.trafficGone p).flds = m.flds := Ctl.setPort_flds _ _ _

theorem Ctl.trafficGone_ring (m : Ctl) (p : Port) (r : Nat) : (m.trafficGone p).ring r = m.ring r := by cases p <;> rfl

theorem Ctl.PcsAs.trafficGone (h : m.PcsIdle) (p : Port) : m.PcsAs (m.trafficGone p) :=
  (Ctl.PcsAs.dropJobs h p []).trans (.of_eq (by cases p <;> rfl))

theorem Ctl.Quiet.trafficGone (hq : m.Quiet) (hidle : m.PcsIdle) (p : Port) : (m.trafficGone p).Quiet :=
  ((Ctl.PcsAs.dropJobs hidle p []).quiet rfl hq).setPort p rfl

/-- All but the registers is as before the loss, but for the port, and the tables of PCs and rings. -/
theorem Ctl.Aborted.rest_trafficGone {l : List Nat} (h : (m.fresh.trafficGone p).Aborted n l) :
    n.rest = ({ m.setPort p { nextPos := (m.port p).nextPos } with pcs := n.pcs, rings := n.rings } : Ctl).rest := by
  obtain ⟨flds, hflds⟩ : ∃ flds, flds = n.flds := ⟨_, rfl⟩
  obtain ⟨pcs, hpcs⟩ : ∃ pcs, pcs = n.pcs := ⟨_, rfl⟩
  obtain ⟨rings, hrings⟩ : ∃ rings, rings = n.rings := ⟨_, rfl⟩
  have hsame := h.same
  rw [← hflds, ← hpcs, ← hrings] at hsame
  rw [← hpcs, ← hrings, hsame]
  cases p <;> rfl

/-- What holds of a port before its partner is lost, where nothing of it is queued. -/
structure Ctl.Unqueued (m : Ctl) (p : Port) : Prop where
  hdrs : (m.port p).hdrs = []
  up : ∀ e ∈ (m.port p).grps, e.2.up = []
  pcs : m.PcsIdle
  rings : ∀ k < 64, (m.ring (64 * p.idx + k)).prog = []
  owner : m.owner ≠ p.idx + 1

/-- The fields of the states of a port's rings. -/
def ringFlds (p : Port) : List (Fld × Nat) := (portRings p).map fun r => (F.RING_STATUS_STATE, r)

theorem ringFlds_ids (p : Port) : ∀ e ∈ ringFlds p, e.1.id ∈ [184] ∧ e.2 < 1048576 := by
  intro e he
  obtain ⟨r, hr, rfl⟩ := List.mem_map.mp he
  have hrange := mem_portRings.mp hr
  have hi := p.idx_lt
  exact ⟨List.mem_singleton.mpr rfl, by dsimp only; omega⟩

/-- The registers that show a lost partner are the link's, and four more. -/
theorem lossFlds_sub (p : Port) : lossFlds p ⊆ (F.PA_STATUS_RATE, p.idx) :: linkFlds p ++
    [(F.PA_SIDEBAND_URG, p.idx), (F.PA_SIDEBAND_HOSTPRES, p.idx), (F.PA_LOSS_CAUSE, p.idx), (F.PA_LOSS_COUNT, p.idx)] := by
  intro e he
  simp only [lossFlds, List.mem_cons, List.not_mem_nil, or_false] at he
  rcases he with rfl | rfl | rfl | rfl | rfl | rfl | rfl | rfl | rfl | rfl <;>
    simp only [linkFlds, List.cons_append, List.nil_append, List.mem_cons, true_or, or_true]

/-- Of the registers only the states of the rings are written as they are aborted. -/
theorem Ctl.Aborted.ringFlds (h : (m.fresh.trafficGone p).Aborted n (portRings p)) : m.SameFlds n (ringFlds p) := fun f i hf =>
  (h.flds f i hf).trans (Ctl.get_congr (Ctl.trafficGone_flds _ _) f i)

theorem Ctl.Aborted.get {f : Fld} {i : Nat} (h : (m.fresh.trafficGone p).Aborted n (portRings p)) (hf : f.id ≠ 184) (hi : i < 1048576) :
    n.get f i = m.get f i :=
  h.ringFlds.get_eq (fun e he => ⟨fun hid => hf (hid.trans (List.mem_singleton.mp (ringFlds_ids p e he).1)), (ringFlds_ids p e he).2⟩) hi

theorem lossFlds_ids (p : Port) : ∀ e ∈ lossFlds p, e.1.id ∈ [22, 23, 24, 25, 26, 27, 42, 43, 326, 327] ∧ e.2 < 1048576 := by
  have hi := p.copy_lt
  simp [lossFlds, F.PA_STATUS_GROUPS, F.PA_STATUS_RATE, F.PA_STATUS_LINK, F.PA_SIDEBAND_PARTNER_IDLE, F.PA_SIDEBAND_URG,
    F.GL_MODE_PREV, F.GL_MODE_STATE, F.PA_LOSS_CAUSE, F.PA_LOSS_COUNT, F.PA_SIDEBAND_HOSTPRES, hi]

end

section
variable {s : State} {p : Port} {cause : PartnerCause}

/-- PARTNER_LOSS with the code of its cause. -/
theorem exec_partnerLoss : exec (.partnerLoss p cause) s = .next (run s fun _ m => if m.alive then
    (if m.partnerGone p cause then m.partnerLost p (lossCode cause) else m).hostpresShown p cause else m) := by
  cases cause <;> rfl

/-- The loss of the partner of a port with nothing queued: what is left of the rings, and what the registers show. -/
theorem EndsRaised.of_partnerLoss (hq : s.ctl.Quiet) (hrun : s.ctl.power = .run) (hgone : s.ctl.fresh.partnerGone p cause = true)
    (hnone : s.ctl.Unqueued p) (hcalm : s.ctl.Calm (lossSource p)) : ∃ t n, exec (.partnerLoss p cause) s = .next t ∧
      EndsRaised s t (lossSource p) (ringFlds p ++ lossFlds p)
        { s.ctl.setPort p { nextPos := (s.ctl.port p).nextPos } with pcs := n.pcs, rings := n.rings } ∧
      (s.ctl.fresh.trafficGone p).Aborted n (portRings p) ∧
      ∀ f i, f.id ∉ [415, 427, 417, 416, 425] → i < 1048576 →
        t.ctl.get f i = ((n.lossShown p (lossCode cause)).hostpresShown p cause).get f i := by
  obtain ⟨hhdrs, hup, hpcs, hrings, howner⟩ := hnone
  have hidle : s.ctl.fresh.PcsIdle := hpcs
  obtain ⟨n, hn⟩ : ∃ n, n = (s.ctl.fresh.trafficGone p).ringsAbort (64 * p.idx) 64 := ⟨_, rfl⟩
  have habort : (s.ctl.fresh.trafficGone p).Aborted n (portRings p) := by
    rw [hn]
    refine .ringsAbort _ p (hidle.congr (Ctl.PcsAs.trafficGone hidle p).pc) fun r hr => ?_
    obtain ⟨k, hk, rfl⟩ := List.mem_map.mp hr
    rw [Ctl.trafficGone_ring]
    exact hrings k (List.mem_range.mp hk)
  have howner' : n.owner ≠ p.master.code := by
    have hkept : n.owner = s.ctl.owner := habort.get (by decide) (by decide)
    rw [hkept]
    cases p <;> exact howner
  have hreset : s.ctl.fresh.portReset p = (n.linkLost p).readyOrActive := by
    rw [hn] at howner' ⊢
    exact Ctl.portReset_eq (by rw [Ctl.port_fresh]; exact hq.reqs p) (by rw [Ctl.port_fresh]; exact hhdrs)
      (by rw [Ctl.port_fresh]; exact hup) howner'
  have halive : s.ctl.fresh.alive = true := by simp [Ctl.alive, hrun]
  have heffect : (if s.ctl.fresh.alive then (if s.ctl.fresh.partnerGone p cause then s.ctl.fresh.partnerLost p (lossCode cause)
      else s.ctl.fresh).hostpresShown p cause else s.ctl.fresh) =
      ((n.lossShown p (lossCode cause)).hostpresShown p cause).raiseAs (lossSource p) (lossCode cause * 2 ^ 12) false := by
    rw [if_pos halive, if_pos hgone, Ctl.partnerLost_eq cause hreset]
  have hshown := Ctl.OnlyFlds.lossShown n p cause
  have hquiet := hshown.quiet (habort.quiet (hq.fresh.trafficGone hidle p))
  have hraised : n.raised = [] := by
    rw [habort.same]
    exact Ctl.setPort_raised _ _ _
  have hedits : n.edits = [] := by
    rw [habort.same]
    exact Ctl.setPort_edits _ _ _
  have hfree : ∀ e ∈ ringFlds p ++ lossFlds p, e.1.id ∉ [413, 426, 427, 417, 416, 425] ∧ e.2 < 1048576 := fun e he => by
    rcases List.mem_append.mp he with he | he
    · exact ⟨(by decide : ∀ i ∈ [184], i ∉ [413, 426, 427, 417, 416, 425]) _ (ringFlds_ids p e he).1, (ringFlds_ids p e he).2⟩
    · exact ⟨(by decide : ∀ i ∈ [22, 23, 24, 25, 26, 27, 42, 43, 326, 327], i ∉ [413, 426, 427, 417, 416, 425]) _
        (lossFlds_ids p e he).1, (lossFlds_ids p e he).2⟩
  obtain ⟨hends, hget⟩ := EndsRaised.of_calm s
    (fun _ m => if m.alive then
      (if m.partnerGone p cause then m.partnerLost p (lossCode cause) else m).hostpresShown p cause else m)
    (lossSource p) _ false (ringFlds p ++ lossFlds p)
    { s.ctl.setPort p { nextPos := (s.ctl.port p).nextPos } with pcs := n.pcs, rings := n.rings } _ hcalm (by cases p <;> decide)
    heffect hquiet (hshown.raised.trans hraised) (hshown.edits.trans hedits) (habort.ringFlds.trans hshown.flds) hfree
    (hshown.rest.trans habort.rest_trafficGone)
  exact ⟨_, n, exec_partnerLoss, hends, habort, hget⟩

theorem EndsRaised.mono {t : State} {src : Source} {l l' : List (Fld × Nat)} {m : Ctl} (h : EndsRaised s t src l m)
    (hl : ∀ e ∈ l, e ∈ l') : EndsRaised s t src l' m := by
  obtain ⟨⟨hpending, harr, hflds, hrest⟩, hpend⟩ := h
  refine ⟨⟨hpending, harr, hflds.mono fun e he => ?_, hrest⟩, hpend⟩
  simp only [List.mem_cons, List.mem_append] at he ⊢
  exact he.imp_right fun he => he.imp_right (hl e)

/-- HOSTPRES that falls while the link is DOWN or LOST only makes the port absent. -/
theorem Ends.of_hostpresLow (hq : s.ctl.Quiet) (hrun : s.ctl.power = .run) (hlink : s.ctl.link p = 0 ∨ 4 ≤ s.ctl.link p) :
    ∃ t, exec (.partnerLoss p .hostpresLow) s = .next t ∧ Ends s t [(F.PA_SIDEBAND_HOSTPRES, p.idx)] s.ctl ∧
      t.ctl.get F.PA_SIDEBAND_HOSTPRES p.idx = 0 := by
  have halive : s.ctl.fresh.alive = true := by simp [Ctl.alive, hrun]
  have hstays : ¬ s.ctl.fresh.partnerGone p .hostpresLow = true := by
    have hlink' : s.ctl.fresh.link p = s.ctl.link p := rfl
    simp only [Ctl.partnerGone, Ctl.linkUp, hlink', Bool.and_eq_true, Bool.or_eq_true, beq_iff_eq]
    omega
  have heffect : (if s.ctl.fresh.alive then (if s.ctl.fresh.partnerGone p .hostpresLow then
      s.ctl.fresh.partnerLost p (lossCode .hostpresLow) else s.ctl.fresh).hostpresShown p .hostpresLow else s.ctl.fresh) =
      s.ctl.fresh.set F.PA_SIDEBAND_HOSTPRES p.idx 0 := by
    rw [if_pos halive, if_neg hstays]
    rfl
  obtain ⟨t, ht, hends, hget⟩ := exec_of_effect (s := s) (c := .partnerLoss p .hostpresLow) exec_partnerLoss heffect hq.fresh rfl rfl
    (Ctl.SameFlds.set s.ctl.fresh _ _ _)
  refine ⟨t, ht, hends.of_rest (by rw [Ctl.rest_of_set, Ctl.rest_of_fresh]), ?_⟩
  rw [hget _ _ (fkey_ne (by decide) p.copy_lt (by decide)), Ctl.get_set_same]
  rfl

/-- Whether a port's downstream direction is awake on any of its pairs. -/
theorem Ctl.downActive_iff (m : Ctl) (p : Port) :
    m.downActive p = true ↔ ∃ g < 16, m.grpOn p g = true ∧ (m.grp p g).rxIdle = false := by
  simp [Ctl.downActive]

theorem Ctl.link_trained_iff (m : Ctl) (p : Port) :
    (m.linkUp p || m.link p == 1) = true ↔ 1 ≤ m.link p ∧ m.link p ≤ 3 := by
  simp only [Ctl.linkUp, Bool.or_eq_true, beq_iff_eq]
  omega

end

end Sys2Proof.Machine

namespace Sys2Proof.HostPorts

open Sys2Proof.Machine

/-- Settles O23: by the port's reset (R110), ring by ring and register by register, and the raise that reports it. -/
theorem partnerLoss : Obligations.PartnerLoss := by
  unfold Obligations.PartnerLoss
  intro s p cause x src code active gone hq hrun
  refine ⟨fun hgone hhdrs hup hpcs hrings howner hcalm => ?_, Ends.of_hostpresLow hq hrun⟩
  have hsrc : src = lossSource p := by cases p <;> rfl
  have hcode : code = lossCode cause := by cases cause <;> rfl
  have hactive : active ↔ s.ctl.fresh.downActive p = true := by
    rw [Ctl.downActive_iff]
    simp only [Ctl.grp_fresh]
    rfl
  have hlost : s.ctl.fresh.partnerGone p cause = true := by
    have hlink : s.ctl.fresh.link p = s.ctl.link p := rfl
    have htrained := s.ctl.fresh.link_trained_iff p
    rw [hlink] at htrained
    cases cause with
    | hostpresLow =>
      obtain ⟨hpres, hlo, hhi⟩ := hgone
      rw [Ctl.partnerGone, hlink, htrained.mpr ⟨hlo, hhi⟩, Ctl.is, Ctl.get_fresh, hpres]
      rfl
    | clockLoss =>
      obtain ⟨hlo, hhi, hdown⟩ := hgone
      rw [Ctl.partnerGone, hlink, htrained.mpr ⟨hlo, hhi⟩, hactive.mp hdown]
      rfl
    | silence =>
      obtain ⟨hup, hdown, n, hsilent, hn⟩ := hgone
      have hsilent' : (s.ctl.port p).silent = some n := hsilent
      rw [Ctl.partnerGone, hlink, hactive.mp hdown, hup, Ctl.port_fresh, hsilent']
      simpa using hn
  rw [hsrc] at hcalm ⊢
  obtain ⟨t, n, ht, hends, habort, hget⟩ := EndsRaised.of_partnerLoss hq hrun hlost ⟨hhdrs, hup, hpcs, hrings, howner⟩ hcalm
  have hi := p.copy_lt
  have hpcsEq : t.ctl.pcs = n.pcs := hends.part (·.pcs) (fun _ => rfl) fun _ _ => rfl
  have hringsEq : t.ctl.rings = n.rings := hends.part (·.rings) (fun _ => rfl) fun _ _ => rfl
  have hring : ∀ r, t.ctl.ring r = n.ring r := fun r => by rw [Ctl.ring, Ctl.ring, hringsEq]
  have hshown := Ctl.OnlyFlds.lossShown n p cause
  have hact : n.inMode [.active] = s.ctl.inMode [.active] := by
    have hpower : n.power = s.ctl.power := by
      rw [habort.same]
      cases p <;> rfl
    rw [Ctl.inMode, Ctl.inMode, hpower, Ctl.mode, Ctl.mode, habort.get (by decide) (by decide)]
  obtain ⟨hlink, hgroups, hcause, hpres, hcount, hmode⟩ := Ctl.get_lossShown n p cause
  rw [habort.get (by decide) hi] at hpres hcount
  rw [hact] at hmode
  have hlinks := Ctl.anyLink_congr (fun q : Port => hget _ _ (by decide) q.copy_lt) (hget F.SVC_STATUS_LINK 0 (by decide) (by decide))
  have hstate : ∀ k < 64, t.ctl.ringState (64 * p.idx + k) = n.ringState (64 * p.idx + k) := fun k hk => by
    have hlt : 64 * p.idx + k < 1048576 := by have := p.idx_lt; omega
    exact (hget _ _ (by decide) hlt).trans (hshown.get (lossFlds_ids p) (by decide) hlt)
  have hwas : ∀ r, (s.ctl.fresh.trafficGone p).ringState r = s.ctl.ringState r := fun r => Ctl.get_congr (Ctl.trafficGone_flds _ _) _ _
  have hmem : ∀ k < 64, 64 * p.idx + k ∈ portRings p := fun k hk => List.mem_map_of_mem (List.mem_range.mpr hk)
  refine ⟨t, ht, ?_, fun q => ?_, (hget _ _ (by decide) hi).trans hlink, (hget _ _ (by decide) hi).trans hgroups,
    (hget _ _ (by decide) hi).trans (hcause.trans hcode.symm), (hget _ _ (by decide) hi).trans hpres,
    (hget _ _ (by decide) hi).trans hcount, fun k hk => ⟨?_, fun hon => ?_⟩, fun r hr => ?_, fun hactive => ?_⟩
  · rw [hpcsEq, hringsEq]
    refine hends.mono fun e he => ?_
    rcases List.mem_append.mp he with he | he
    · refine List.mem_append_right _ ?_
      rw [ringFlds, portRings, List.map_map] at he
      exact he
    · exact List.mem_append_left _ ((lossFlds_sub p) he)
  · exact (hends.part (·.pc q) (fun _ => rfl) fun _ _ => rfl).trans
      ((habort.pcs.pc q).trans ((Ctl.PcsAs.trafficGone (m := s.ctl.fresh) hpcs p).pc q))
  · rw [hstate k hk, habort.state _ (hmem k hk), hwas]
  · rw [hring, habort.ring _ (hmem k hk) (by rwa [hwas]), Ctl.trafficGone_ring]
    rfl
  · rw [hring, habort.other r fun hmem => absurd (mem_portRings.mp hmem) (by omega), Ctl.trafficGone_ring]
    rfl
  · rw [hlinks]
    exact (hget _ _ (by decide) (by decide)).trans (hmode hactive)

end Sys2Proof.HostPorts
end

section
/-!
Training of a host port (R94, R100, R101, R404): the spares that its groups take, the groups that it disables, and how the port then
comes up or stays DOWN.
-/

namespace Sys2Proof

/-- The lanes of a group that fell short in a training. -/
def PortTrain.short (r : PortTrain) (g : Nat) : List (Dir × LaneKind × Fin 64) := (r.spared.filter fun e => e.1.val == g).map (·.2)

end Sys2Proof

namespace Sys2Proof.Machine

/-! ## Spare lanes of a group -/

/-- The spare lanes of a group are in use for the same lanes. -/
def Ctl.SameSpares (m n : Ctl) (i : Nat) : Prop := ∀ e ∈ spareFlds i, n.get e.1 e.2 = m.get e.1 e.2

section
variable {m n k : Ctl} {p : Port} {g i : Nat}

theorem Ctl.SameSpares.refl (m : Ctl) (i : Nat) : m.SameSpares m i := fun _ _ => rfl

theorem Ctl.SameSpares.trans (h : m.SameSpares n i) (h' : n.SameSpares k i) : m.SameSpares k i := fun e he => (h' e he).trans (h e he)

/-- A field copy that reads alike in two states does so after the same write. -/
theorem Ctl.get_set_congr {f f' : Fld} {j : Nat} (h : n.get f i = m.get f i) (v : Nat) :
    (n.set f' j v).get f i = (m.set f' j v).get f i := by
  by_cases hkey : fkey f i = fkey f' j
  · have hread : ∀ x : Ctl, (x.set f' j v).get f i =
        if v % 2 ^ f'.width = f'.reset j then f.reset i else v % 2 ^ f'.width := fun x => by
      simp only [Ctl.get, Ctl.set, hkey, Sparse.setD, Sparse.getD]
      split <;> simp
    rw [hread, hread]
  · rw [Ctl.get_set_other _ _ _ _ _ _ hkey, Ctl.get_set_other _ _ _ _ _ _ hkey, h]

theorem Ctl.SameSpares.set (h : m.SameSpares n i) (f : Fld) (j v : Nat) : (m.set f j v).SameSpares (n.set f j v) i :=
  fun e he => Ctl.get_set_congr (h e he) v

/-- What a spare of the group replaces is a matter of these fields. -/
theorem Ctl.SameSpares.portLane (h : m.SameSpares n (p.idx * 16 + g)) (d k : Nat) :
    n.portLane p.idx g d k = m.portLane p.idx g d k := by
  have hget : ∀ e ∈ spareFlds (p.idx * 16 + g), n.get e.1 e.2 = m.get e.1 e.2 := h
  simp only [spareFlds, List.mem_cons, List.not_mem_nil, or_false, forall_eq_or_imp, forall_eq] at hget
  obtain ⟨hrdu, hrdl, hrcu, hrcl, htdu, htdl, htcu, htcl⟩ := hget
  unfold Ctl.portLane Ctl.is
  simp only [hrdu, hrdl, hrcu, hrcl, htdu, htdl, htcu, htcl]

theorem Ctl.SameSpares.setPortLane (h : m.SameSpares n i) (d k lane : Nat) :
    (m.setPortLane p.idx g d k lane).SameSpares (n.setPortLane p.idx g d k lane) i := by
  unfold Ctl.setPortLane
  split <;> exact (h.set _ _ _).set _ _ _

/-- Two trials to take a spare agree: both fail, or both succeed with the same spares. -/
def Agree (i : Nat) (x y : Option Ctl) : Prop := (x = none ∧ y = none) ∨ ∃ m n, x = some m ∧ y = some n ∧ m.SameSpares n i

theorem Ctl.SameSpares.takeSpare (h : m.SameSpares n (p.idx * 16 + g)) (l : Dir × LaneKind × Fin 64) :
    Agree (p.idx * 16 + g) (m.takeSpare p g l) (n.takeSpare p g l) := by
  unfold Ctl.takeSpare
  rw [h.portLane]
  split
  · exact .inr ⟨m, n, rfl, rfl, h⟩
  · split
    · split
      · exact .inr ⟨m, n, rfl, rfl, h⟩
      · exact .inl ⟨rfl, rfl⟩
    · exact .inr ⟨_, _, rfl, rfl, h.setPortLane _ _ _⟩

theorem Ctl.SameSpares.takeSpares (h : m.SameSpares n (p.idx * 16 + g)) (ls : List (Dir × LaneKind × Fin 64)) :
    Agree (p.idx * 16 + g) (m.takeSpares p g ls) (n.takeSpares p g ls) := by
  induction ls generalizing m n with
  | nil => exact .inr ⟨m, n, rfl, rfl, h⟩
  | cons l ls ih =>
    unfold Ctl.takeSpares
    rcases h.takeSpare l with ⟨hm, hn⟩ | ⟨m', n', hm, hn, h'⟩
    · rw [hm, hn]
      exact .inl ⟨rfl, rfl⟩
    · rw [hm, hn]
      exact ih h'

theorem Ctl.OnlyFlds.setPortLane (m : Ctl) (p g d k lane : Nat) :
    m.OnlyFlds (m.setPortLane p g d k lane) (spareFlds (p * 16 + g)) := by
  unfold Ctl.setPortLane
  split <;> exact ((Ctl.OnlyFlds.set m _ _ _).trans (.set _ _ _ _)).mono (by simp [spareFlds])

theorem Ctl.OnlyFlds.takeSpare {l : Dir × LaneKind × Fin 64} (h : m.takeSpare p g l = some n) :
    m.OnlyFlds n (spareFlds (p.idx * 16 + g)) := by
  have hrefl : m.OnlyFlds m (spareFlds (p.idx * 16 + g)) := (Ctl.OnlyFlds.refl m).mono (by simp)
  unfold Ctl.takeSpare at h
  split at h
  · exact Option.some.inj h ▸ hrefl
  · split at h
    · split at h
      · exact Option.some.inj h ▸ hrefl
      · exact absurd h (by simp)
    · exact Option.some.inj h ▸ .setPortLane m _ _ _ _ _

theorem Ctl.OnlyFlds.takeSpares {ls : List (Dir × LaneKind × Fin 64)} (h : m.takeSpares p g ls = some n) :
    m.OnlyFlds n (spareFlds (p.idx * 16 + g)) := by
  induction ls generalizing m with
  | nil => exact Option.some.inj h ▸ (Ctl.OnlyFlds.refl m).mono (by simp)
  | cons l ls ih =>
    obtain ⟨m', hone, hrest⟩ := Option.bind_eq_some_iff.mp h
    exact ((Ctl.OnlyFlds.takeSpare hone).trans (ih hrest)).mono (by simp)

/-! ## The groups that are taken -/

/-- Is a group taken: has it come up, and has it the spares that it needs? -/
def Ctl.takes (m : Ctl) (p : Port) (r : PortTrain) (g : Nat) : Prop :=
  r.groups.getLsbD g = true ∧ (m.takeSpares p g (r.short g)).isSome = true

/-- One group of a training, with the mask of the groups taken before. -/
def Ctl.takeGroup (p : Port) (r : PortTrain) (y : Ctl × Nat) (g : Nat) : Ctl × Nat :=
  if r.groups.getLsbD g then
    match y.1.takeSpares p g (r.short g) with
    | some m => (m, y.2 + 2 ^ g)
    | none => y
  else y

theorem spareFlds_copy {e : Fld × Nat} (h : e ∈ spareFlds i) : e.2 = i := by
  simp only [spareFlds, List.mem_cons, List.not_mem_nil, or_false] at h
  rcases h with rfl | rfl | rfl | rfl | rfl | rfl | rfl | rfl <;> rfl

/-- The spares of one group are other fields than those of another. -/
theorem Ctl.SameSpares.of_flds {j : Nat} (h : m.SameFlds n (spareFlds j)) (hij : i ≠ j) (hi : i < 1048576) (hj : j < 1048576) :
    m.SameSpares n i := fun e he => by
  refine h _ _ fun hkey => ?_
  obtain ⟨e', he', hkey⟩ := List.mem_map.mp hkey
  rw [spareFlds_copy he, spareFlds_copy he'] at hkey
  simp only [fkey] at hkey
  omega

/-- The spare lanes of every group of a port. -/
def allSpares (p : Port) : List (Fld × Nat) := (List.range 16).flatMap fun g => spareFlds (p.idx * 16 + g)

/-- The groups below `j` have taken their spares, those that can. `b` is a state with the spares as they were before. -/
structure Ctl.Spared (b m : Ctl) (p : Port) (r : PortTrain) (y : Ctl × Nat) (j : Nat) : Prop where
  only : m.OnlyFlds y.1 (allSpares p)
  small : y.2 < 2 ^ j
  groups : ∀ g < j, (y.2.testBit g = true ↔ b.takes p r g)
  taken : ∀ g < j, b.takes p r g → ∀ n, b.takeSpares p g (r.short g) = some n → n.SameSpares y.1 (p.idx * 16 + g)
  others : ∀ g < 16, ¬ (g < j ∧ b.takes p r g) → b.SameSpares y.1 (p.idx * 16 + g)

variable {b : Ctl} {r : PortTrain} {y : Ctl × Nat}

theorem Ctl.Spared.not_taken (h : b.Spared m p r y g) (hg : ¬ b.takes p r g) : b.Spared m p r y (g + 1) := by
  obtain ⟨honly, hsmall, hgroups, htaken, hothers⟩ := h
  refine ⟨honly, hsmall.trans (Nat.pow_lt_pow_succ (by decide)), fun k hk => ?_, fun k hk hkt => ?_, fun k hk hkt => hothers k hk fun hkg =>
    hkt ⟨by omega, hkg.2⟩⟩
  · rcases Nat.lt_succ_iff_lt_or_eq.mp hk with hk | rfl
    · exact hgroups k hk
    · rw [Nat.testBit_lt_two_pow hsmall]
      simpa using hg
  · rcases Nat.lt_succ_iff_lt_or_eq.mp hk with hk | rfl
    · exact htaken k hk hkt
    · exact absurd hkt hg

theorem Ctl.Spared.took (h : b.Spared m p r y g) (hg16 : g < 16) (hg : b.takes p r g) (hn : y.1.takeSpares p g (r.short g) = some n) :
    b.Spared m p r (n, y.2 + 2 ^ g) (g + 1) := by
  obtain ⟨honly, hsmall, hgroups, htaken, hothers⟩ := h
  have hi := p.idx_lt
  have hwrites := Ctl.OnlyFlds.takeSpares hn
  have hkeeps : ∀ k < 16, k ≠ g → y.1.SameSpares n (p.idx * 16 + k) := fun k hk hkg =>
    .of_flds hwrites.flds (by omega) (by omega) (by omega)
  have hbits : ∀ k, (y.2 + 2 ^ g).testBit k = if k = g then true else y.2.testBit k := fun k => by
    rw [Nat.add_comm]
    rcases lt_trichotomy k g with hk | rfl | hk
    · rw [Nat.testBit_two_pow_add_gt hk, if_neg (by omega)]
    · rw [Nat.testBit_two_pow_add_eq, Nat.testBit_lt_two_pow hsmall, if_pos rfl]
      rfl
    · have hlt : 2 ^ g + y.2 < 2 ^ k := by
        have := Nat.pow_le_pow_right (n := 2) (by decide) (Nat.succ_le_of_lt hk)
        rw [Nat.pow_succ] at this
        omega
      rw [Nat.testBit_lt_two_pow hlt, if_neg (by omega), Nat.testBit_lt_two_pow (by omega)]
  refine ⟨(honly.trans hwrites).mono fun e he => ?_, ?_, fun k hk => ?_, fun k hk hkt n' hn' => ?_, fun k hk hkt => ?_⟩
  · rcases List.mem_append.mp he with he | he
    · exact he
    · exact List.mem_flatMap.mpr ⟨g, List.mem_range.mpr hg16, he⟩
  · rw [Nat.pow_succ]
    dsimp only
    omega
  · rw [hbits]
    split
    · next hkg => simpa [hkg] using hg
    · exact hgroups k (by omega)
  · by_cases hkg : k = g
    · subst hkg
      rcases (hothers k hg16 (by omega)).takeSpares (r.short k) with ⟨hnone, -⟩ | ⟨n₁, n₂, h₁, h₂, hsame⟩
      · exact absurd (hnone.symm.trans hn') (by simp)
      · rw [Option.some.inj (hn'.symm.trans h₁), Option.some.inj (hn.symm.trans h₂)]
        exact hsame
    · exact (htaken k (by omega) hkt n' hn').trans (hkeeps k (by omega) hkg)
  · have hkg : k ≠ g := fun hkg => hkt ⟨by omega, hkg ▸ hg⟩
    exact (hothers k hk fun hlt => hkt ⟨by omega, hlt.2⟩).trans (hkeeps k hk hkg)

theorem Ctl.Spared.step (h : b.Spared m p r y g) (hg16 : g < 16) : b.Spared m p r (Ctl.takeGroup p r y g) (g + 1) := by
  have hagree := (h.others g hg16 (by omega)).takeSpares (r.short g)
  unfold Ctl.takeGroup
  split
  · next hcame =>
    rcases hagree with ⟨hb, hy⟩ | ⟨n₁, n₂, hb, hy, -⟩
    · rw [hy]
      exact h.not_taken fun ⟨_, hsome⟩ => absurd hsome (by simp [hb])
    · rw [hy]
      exact h.took hg16 ⟨hcame, by simp [hb]⟩ hy
  · next hdown => exact h.not_taken fun ⟨hcame, _⟩ => hdown hcame

/-- The groups of a port take their spares in turn. -/
theorem Ctl.Spared.fold (hb : ∀ g < 16, b.SameSpares m (p.idx * 16 + g)) {j : Nat} (hj : j ≤ 16) :
    b.Spared m p r ((List.range j).foldl (Ctl.takeGroup p r) (m, 0)) j := by
  induction j with
  | zero => exact ⟨(Ctl.OnlyFlds.refl m).mono (by simp), by simp, by omega, by omega, fun g hg _ => hb g hg⟩
  | succ j ih =>
    rw [List.range_succ, List.foldl_append]
    exact (ih (by omega)).step (by omega)

/-! ## The groups that are shown disabled -/

/-- The fields that show which groups of a port are disabled. -/
def disabledFlds (p : Port) : List (Fld × Nat) := (List.range 16).map fun g => (F.PA_LANE_DISABLED, p.idx * 16 + g)

/-- What the raise of `FS_PORT_GROUP_DOWN` for a group captures. -/
def Ctl.downRaise (m : Ctl) (p : Port) (g : Nat) : Raised :=
  { source := groupSource p, info := g, injected := false, sev := m.sevOf (groupSource p), orbit := m.orbit, nvalid := m.numValid }

theorem Ctl.groupDown_eq (m : Ctl) (p : Port) (g : Nat) : m.groupDown p g = m.raiseAs (groupSource p) g false := by cases p <;> rfl

/-- Does a training that takes the groups of a mask disable a group anew? -/
def Ctl.newlyDown (m : Ctl) (p : Port) (taken g : Nat) : Bool := !bit taken g && !m.is F.PA_LANE_DISABLED (p.idx * 16 + g)

/-- Show whether a training takes one group, and report it where it is newly disabled. -/
def Ctl.showGroup (p : Port) (taken : Nat) (m : Ctl) (g : Nat) : Ctl :=
  if bit taken g then m.set F.PA_LANE_DISABLED (p.idx * 16 + g) 0
  else if m.is F.PA_LANE_DISABLED (p.idx * 16 + g) then m
  else (m.set F.PA_LANE_DISABLED (p.idx * 16 + g) 1).groupDown p g

/-- Which of the groups below `j` are disabled is shown, and those that are so anew are reported. -/
structure Ctl.Showed (m n : Ctl) (p : Port) (taken j : Nat) : Prop where
  rest : n.rest = m.rest
  edits : n.edits = m.edits
  flds : m.SameFlds n (disabledFlds p)
  lanes : ∀ g < j, (n.get F.PA_LANE_DISABLED (p.idx * 16 + g) ≠ 0 ↔ bit taken g = false)
  later : ∀ g < 16, j ≤ g → n.get F.PA_LANE_DISABLED (p.idx * 16 + g) = m.get F.PA_LANE_DISABLED (p.idx * 16 + g)
  raised : n.raised = m.raised ++ ((List.range j).filter (m.newlyDown p taken)).map (m.downRaise p)

variable {taken : Nat}

theorem disabledFlds_ids (p : Port) : ∀ e ∈ disabledFlds p, e.1.id ∈ [44] ∧ e.2 < 1048576 := by
  intro e he
  obtain ⟨g, hg, rfl⟩ := List.mem_map.mp he
  have hi := p.idx_lt
  have hg := List.mem_range.mp hg
  exact ⟨List.mem_singleton.mpr rfl, by dsimp only; omega⟩

/-- What a raise captures is the source's severity and the orbit. -/
theorem Ctl.downRaise_congr (h : ∀ f i, f.id ∈ [0, 6, 426] → i < 1048576 → n.get f i = m.get f i) : n.downRaise p g = m.downRaise p g := by
  have hsev : n.sevOf (groupSource p) = m.sevOf (groupSource p) := h _ _ (by decide) (by cases p <;> decide)
  have horbit : n.orbit = m.orbit := h _ _ (by decide) (by decide)
  have hvalid : n.numValid = m.numValid := by rw [Ctl.numValid, Ctl.numValid, Ctl.is, Ctl.is, h _ _ (by decide) (by decide)]
  rw [Ctl.downRaise, Ctl.downRaise, hsev, horbit, hvalid]

/-- A field reads as before where all fields written are others. -/
theorem Ctl.SameFlds.get_ids {l : List (Fld × Nat)} {ids : List Nat} {f : Fld} {i : Nat} (h : m.SameFlds n l)
    (hl : ∀ e ∈ l, e.1.id ∈ ids ∧ e.2 < 1048576) (hf : f.id ∉ ids) (hi : i < 1048576) : n.get f i = m.get f i :=
  h.get_eq (fun e he => ⟨fun hid => hf (hid ▸ (hl e he).1), (hl e he).2⟩) hi

theorem Ctl.Showed.set (h : m.Showed n p taken g) (hg : g < 16) {v : Nat} (hv : v < 2) (hbit : v ≠ 0 ↔ bit taken g = false)
    {k : Ctl} (hrest : k.rest = n.rest) (hedits : k.edits = n.edits) (hflds : k.flds = (n.set F.PA_LANE_DISABLED (p.idx * 16 + g) v).flds)
    (hraised : k.raised = n.raised ++ (if m.newlyDown p taken g then [m.downRaise p g] else [])) : m.Showed k p taken (g + 1) := by
  obtain ⟨hrest', hedits', hflds', hlanes, hlater, hraised'⟩ := h
  have hi := p.idx_lt
  have hother : ∀ j < 16, j ≠ g → k.get F.PA_LANE_DISABLED (p.idx * 16 + j) = n.get F.PA_LANE_DISABLED (p.idx * 16 + j) := by
    intro j hj hjg
    rw [Ctl.get_congr hflds, Ctl.get_set_other]
    simp only [fkey]
    omega
  refine ⟨hrest.trans hrest', hedits.trans hedits', ?_, fun j hj => ?_, fun j hj hgj => ?_, ?_⟩
  · refine (hflds'.trans ((Ctl.SameFlds.set n F.PA_LANE_DISABLED (p.idx * 16 + g) v).trans (Ctl.SameFlds.of_flds hflds []))).mono
      fun e he => ?_
    simp only [List.mem_append, List.mem_cons, List.not_mem_nil, or_false] at he
    rcases he with he | rfl
    · exact he
    · exact List.mem_map.mpr ⟨g, List.mem_range.mpr hg, rfl⟩
  · rcases Nat.lt_succ_iff_lt_or_eq.mp hj with hj | rfl
    · rw [hother j (by omega) (by omega)]
      exact hlanes j hj
    · have hwidth : v % 2 ^ F.PA_LANE_DISABLED.width = v := Nat.mod_eq_of_lt hv
      rw [Ctl.get_congr hflds, Ctl.get_set_same, hwidth]
      exact hbit
  · rw [hother j hj (by omega)]
    exact hlater j hj (by omega)
  · rw [hraised, hraised', List.range_succ, List.filter_append, List.map_append, List.append_assoc]
    congr 1
    simp only [List.filter_cons, List.filter_nil]
    split <;> rfl

/-- A group that is shown disabled already stays so, and is not reported. -/
theorem Ctl.Showed.stays (h : m.Showed n p taken g) (hoff : bit taken g = false)
    (hdown : n.get F.PA_LANE_DISABLED (p.idx * 16 + g) ≠ 0) (hold : m.newlyDown p taken g = false) : m.Showed n p taken (g + 1) := by
  obtain ⟨hrest, hedits, hflds, hlanes, hlater, hraised⟩ := h
  refine ⟨hrest, hedits, hflds, fun j hj => ?_, fun j hj hgj => hlater j hj (by omega), ?_⟩
  · rcases Nat.lt_succ_iff_lt_or_eq.mp hj with hj | rfl
    · exact hlanes j hj
    · simpa [hoff] using hdown
  · rw [hraised, List.range_succ, List.filter_append, List.filter_cons_of_neg (by simp [hold]), List.filter_nil, List.append_nil]

theorem Ctl.Showed.step (h : m.Showed n p taken g) (hg : g < 16) : m.Showed (Ctl.showGroup p taken n g) p taken (g + 1) := by
  have hdisabled : n.is F.PA_LANE_DISABLED (p.idx * 16 + g) = m.is F.PA_LANE_DISABLED (p.idx * 16 + g) := by
    rw [Ctl.is, Ctl.is, h.later g hg le_rfl]
  unfold Ctl.showGroup
  split
  · next hon =>
    refine h.set hg (v := 0) (by decide) (by simp [hon]) (by simp) rfl rfl ?_
    simp [Ctl.newlyDown, hon, Ctl.set]
  · next hoff =>
    have hoff' : bit taken g = false := by simpa using hoff
    split
    · next hdown => exact h.stays hoff' (by simpa [Ctl.is] using hdown) (by simp [Ctl.newlyDown, ← hdisabled, hdown])
    · next hup =>
      refine h.set hg (v := 1) (by decide) (by simp [hoff']) ?_ rfl rfl ?_
      · rw [Ctl.groupDown_eq, Ctl.rest_of_raiseAs, Ctl.rest_of_set]
      · have hnew : m.newlyDown p taken g = true := by simpa [Ctl.newlyDown, hoff', ← hdisabled] using hup
        have hrecord : (n.set F.PA_LANE_DISABLED (p.idx * 16 + g) 1).downRaise p g = m.downRaise p g := by
          have hid : ∀ f : Fld, f.id ∈ [0, 6, 426] → f.id ∉ [44] := fun f hf hmem => by
            rw [List.mem_singleton.mp hmem] at hf
            exact absurd hf (by decide)
          refine Ctl.downRaise_congr fun f i hf hi => ?_
          have hlt : p.idx * 16 + g < 1048576 := by have := p.idx_lt; omega
          have hset : f.id ≠ F.PA_LANE_DISABLED.id := by simpa [F.PA_LANE_DISABLED] using hid f hf
          rw [Ctl.get_set_fld _ _ hset hlt hi, h.flds.get_ids (disabledFlds_ids p) (hid f hf) hi]
        rw [if_pos hnew, ← hrecord]
        cases p <;> rfl

/-- The groups of a port are shown in turn. -/
theorem Ctl.Showed.trainedGroups (m : Ctl) (p : Port) (taken : Nat) : m.Showed (m.trainedGroups p taken) p taken 16 := by
  have hfold : ∀ j ≤ 16, m.Showed ((List.range j).foldl (Ctl.showGroup p taken) m) p taken j := by
    intro j
    induction j with
    | zero => exact fun _ => ⟨rfl, rfl, .refl _ _, by omega, fun _ _ _ => rfl, by simp⟩
    | succ j ih =>
      intro hj
      rw [List.range_succ, List.foldl_append]
      exact (ih (by omega)).step (by omega)
  exact hfold 16 le_rfl

/-! ## How a training ends -/

/-- A port that has come up with a training. -/
def PortSt.cameUp (x : PortSt) : PortSt := { x with grps := [], switching := [], periodAt := none, retry := false, silent := none }

/-- A port without a group, which is to train again. -/
def PortSt.stayedDown (x : PortSt) : PortSt := { x with retry := true }

/-- What the registers show of a port that comes up. -/
def Ctl.upShown (m : Ctl) (p : Port) (r : PortTrain) (taken : Nat) : Ctl :=
  (((m.set F.PA_STATUS_GROUPS p.idx taken).set F.PA_STATUS_RATE p.idx (max r.rate.val (m.rateFloor p))).set F.PA_STATUS_LINK p.idx
    (if m.inMode [.training] then 1 else 2)).set F.PA_SIDEBAND_PARTNER_IDLE p.idx 0

/-- The end of a training that takes the groups of a mask. -/
def Ctl.trainEnd (m : Ctl) (p : Port) (r : PortTrain) (taken : Nat) : Ctl :=
  if taken = 0 then
    ((m.set F.PA_STATUS_LINK p.idx 0).set F.PA_ERR_TRAIN_FAIL p.idx 1).modPort p PortSt.stayedDown
  else ((m.modPort p PortSt.cameUp).upShown p r taken).readyOrActive

/-- The groups of a port that a training takes, with their spares. -/
def Ctl.takeGroups (m : Ctl) (p : Port) (r : PortTrain) : Ctl × Nat := (List.range 16).foldl (Ctl.takeGroup p r) (m, 0)

theorem Ctl.portTrain_eq (m : Ctl) (p : Port) (r : PortTrain) :
    m.portTrain p r = ((m.takeGroups p r).1.trainedGroups p (m.takeGroups p r).2).trainEnd p r (m.takeGroups p r).2 := rfl

/-- The state with other raises waiting. -/
def Ctl.raising (m : Ctl) (l : List Raised) : Ctl := { m with raised := l }

theorem Ctl.readyOrActive_raising (m : Ctl) (l : List Raised) : (m.raising l).readyOrActive = m.readyOrActive.raising l := by
  have hlink : (m.raising l).anyLink = m.anyLink := rfl
  have hmode : ∀ ms, (m.raising l).inMode ms = m.inMode ms := fun _ => rfl
  unfold Ctl.readyOrActive
  rw [hlink, hmode, hmode]
  split
  · rfl
  · split <;> rfl

/-- What waits to be raised does not bear on how a training ends. -/
theorem Ctl.trainEnd_raising (m : Ctl) (l : List Raised) (p : Port) (r : PortTrain) (taken : Nat) :
    (m.raising l).trainEnd p r taken = (m.trainEnd p r taken).raising l := by
  unfold Ctl.trainEnd
  split
  · cases p <;> rfl
  · rw [← Ctl.readyOrActive_raising]
    cases p <;> rfl

/-- The fields that a training writes beside those of the lanes. -/
def trainFlds (p : Port) (taken : Nat) : List (Fld × Nat) :=
  if taken = 0 then [(F.PA_STATUS_LINK, p.idx), (F.PA_ERR_TRAIN_FAIL, p.idx)] else (F.PA_STATUS_RATE, p.idx) :: linkFlds p

/-- A port after a training that takes the groups of a mask. -/
def PortSt.afterTraining (x : PortSt) (taken : Nat) : PortSt := if taken = 0 then x.stayedDown else x.cameUp

theorem Ctl.OnlyFlds.upShown (m : Ctl) (p : Port) (r : PortTrain) (taken : Nat) : m.OnlyFlds (m.upShown p r taken)
    [(F.PA_STATUS_GROUPS, p.idx), (F.PA_STATUS_RATE, p.idx), (F.PA_STATUS_LINK, p.idx), (F.PA_SIDEBAND_PARTNER_IDLE, p.idx)] :=
  (((Ctl.OnlyFlds.set m _ _ _).trans (.set _ _ _ _)).trans (.set _ _ _ _)).trans (.set _ _ _ _)

theorem Ctl.OnlyFlds.trainEnd (m : Ctl) (p : Port) (r : PortTrain) (taken : Nat) :
    (m.setPort p ((m.port p).afterTraining taken)).OnlyFlds (m.trainEnd p r taken) (trainFlds p taken) := by
  unfold Ctl.trainEnd trainFlds PortSt.afterTraining
  split
  · have hset : ((m.set F.PA_STATUS_LINK p.idx 0).set F.PA_ERR_TRAIN_FAIL p.idx 1).modPort p PortSt.stayedDown =
        ((m.setPort p (m.port p).stayedDown).set F.PA_STATUS_LINK p.idx 0).set F.PA_ERR_TRAIN_FAIL p.idx 1 := by cases p <;> rfl
    rw [hset]
    exact (Ctl.OnlyFlds.set _ _ _ _).trans (.set _ _ _ _)
  · rw [Ctl.modPort_eq]
    refine ((Ctl.OnlyFlds.upShown _ p r taken).trans (.readyOrActive _)).mono fun e he => ?_
    simp only [List.mem_append, List.mem_cons, List.not_mem_nil, or_false] at he
    rcases he with (rfl | rfl | rfl | rfl) | rfl | rfl <;> simp only [linkFlds, List.mem_cons, true_or, or_true]

theorem trainFlds_ids (p : Port) (taken : Nat) :
    ∀ e ∈ trainFlds p taken, e.1.id ∈ [22, 23, 24, 25, 36, 326, 327] ∧ e.2 < 1048576 := by
  have hi := p.copy_lt
  unfold trainFlds
  split <;> simp [linkFlds, F.PA_STATUS_LINK, F.PA_ERR_TRAIN_FAIL, F.PA_STATUS_RATE, F.PA_STATUS_GROUPS, F.PA_SIDEBAND_PARTNER_IDLE,
    F.GL_MODE_STATE, F.GL_MODE_PREV, hi]

/-- A training that takes no group leaves the link DOWN. -/
theorem Ctl.get_trainEnd_down (m : Ctl) (p : Port) (r : PortTrain) :
    (m.trainEnd p r 0).link p = 0 ∧ (m.trainEnd p r 0).get F.PA_ERR_TRAIN_FAIL p.idx = 1 := by
  have heq : m.trainEnd p r 0 = ((m.set F.PA_STATUS_LINK p.idx 0).set F.PA_ERR_TRAIN_FAIL p.idx 1).setPort p (m.port p).stayedDown := by
    cases p <;> rfl
  have hi := p.copy_lt
  rw [heq, Ctl.link, Ctl.get_setPort, Ctl.get_setPort, Ctl.get_set_fld _ _ (by decide) hi hi, Ctl.get_set_same, Ctl.get_set_same]
  exact ⟨rfl, rfl⟩

/-- With a link up READY becomes ACTIVE. -/
theorem Ctl.mode_readyOrActive_up (h : m.inMode [.ready, .active] = true) (hlink : m.anyLink = true) :
    m.readyOrActive.mode = Mode.active.code := by
  unfold Ctl.readyOrActive
  cases hready : m.inMode [.ready] with
  | true =>
    simp only [hlink, Bool.and_true, if_true]
    rw [Ctl.mode, Ctl.setMode_eq, Ctl.get_set_same]
    rfl
  | false =>
    simp only [hlink, Bool.false_and, Bool.not_true, Bool.and_false, Bool.false_eq_true, if_false]
    obtain ⟨hpower, hmodes⟩ := Bool.and_eq_true_iff.mp h
    simp only [Ctl.inMode, hpower, Bool.true_and, List.any_cons, List.any_nil, Bool.or_false, beq_eq_false_iff_ne] at hready
    simp only [List.any_cons, List.any_nil, Bool.or_false, Bool.or_eq_true, beq_iff_eq] at hmodes
    exact (hmodes.resolve_left hready).symm

/-- A training that takes a group brings the port up. -/
theorem Ctl.get_trainEnd_up (htaken : taken ≠ 0) (hsmall : taken < 2 ^ 16) :
    (m.trainEnd p r taken).get F.PA_STATUS_GROUPS p.idx = taken ∧
      (m.trainEnd p r taken).get F.PA_STATUS_RATE p.idx = max r.rate.val (m.rateFloor p) % 4 ∧
      (m.trainEnd p r taken).link p = (if m.inMode [.training] then 1 else 2) ∧
      (m.inMode [.ready, .active] = true → (m.trainEnd p r taken).mode = Mode.active.code) := by
  have hi := p.copy_lt
  obtain ⟨n, hn⟩ : ∃ n, n = m.setPort p (m.port p).cameUp := ⟨_, rfl⟩
  have hfloor : n.rateFloor p = m.rateFloor p := by rw [hn]; cases p <;> rfl
  have hmode : ∀ ms, n.inMode ms = m.inMode ms := fun ms => by rw [hn, Ctl.inMode_setPort]
  have heq : m.trainEnd p r taken = (n.upShown p r taken).readyOrActive := by
    rw [Ctl.trainEnd, if_neg htaken, Ctl.modPort_eq, ← hn]
  have hready_ids : ∀ e ∈ [(F.GL_MODE_PREV, 0), (F.GL_MODE_STATE, 0)], e.1.id ∈ [326, 327] ∧ e.2 < 1048576 := by decide
  have hlater : ∀ f i, f.id ∉ [326, 327] → i < 1048576 → (m.trainEnd p r taken).get f i = (n.upShown p r taken).get f i := fun f i hf hi => by
    rw [heq]
    exact (Ctl.OnlyFlds.readyOrActive _).get hready_ids hf hi
  have hlink : (n.upShown p r taken).link p = if m.inMode [.training] then 1 else 2 := by
    rw [Ctl.link, Ctl.upShown, Ctl.get_set_fld _ _ (by decide) hi hi, Ctl.get_set_same, hmode]
    split <;> rfl
  refine ⟨?_, ?_, (hlater _ _ (by decide) hi).trans hlink, fun hawake => ?_⟩
  · rw [hlater _ _ (by decide) hi, Ctl.upShown, Ctl.get_set_fld _ _ (by decide) hi hi, Ctl.get_set_fld _ _ (by decide) hi hi,
      Ctl.get_set_fld _ _ (by decide) hi hi, Ctl.get_set_same]
    exact Nat.mod_eq_of_lt hsmall
  · rw [hlater _ _ (by decide) hi, Ctl.upShown, Ctl.get_set_fld _ _ (by decide) hi hi, Ctl.get_set_fld _ _ (by decide) hi hi,
      Ctl.get_set_same, hfloor]
    rfl
  · have htraining : m.inMode [.training] = false := Ctl.inMode_disjoint hawake (by decide)
    have hup : (n.upShown p r taken).linkUp p = true := by
      rw [Ctl.linkUp, hlink, htraining]
      rfl
    have hany : (n.upShown p r taken).anyLink = true := by
      cases p <;> simp [Ctl.anyLink, hup]
    have hawake' : (n.upShown p r taken).inMode [.ready, .active] = true := by
      have hup_ids : ∀ e ∈ [(F.PA_STATUS_GROUPS, p.idx), (F.PA_STATUS_RATE, p.idx), (F.PA_STATUS_LINK, p.idx),
          (F.PA_SIDEBAND_PARTNER_IDLE, p.idx)], F.GL_MODE_STATE.id ≠ e.1.id ∧ e.2 < 1048576 := by
        simp [F.PA_STATUS_GROUPS, F.PA_STATUS_RATE, F.PA_STATUS_LINK, F.PA_SIDEBAND_PARTNER_IDLE, F.GL_MODE_STATE, hi]
      rw [(Ctl.OnlyFlds.upShown n p r taken).inMode hup_ids, hmode, hawake]
    rw [heq]
    exact Ctl.mode_readyOrActive_up hawake' hany

/-- The fastest rate of a port is a matter of its control register, the part's bin and what the fuses failed. -/
theorem Ctl.rateFloor_congr (h : ∀ f i, f.id ∈ [20, 366, 379, 380, 429] → i < 1048576 → n.get f i = m.get f i) :
    n.rateFloor p = m.rateFloor p := by
  have hword : ∀ w < 1048576, n.wordFailed w = m.wordFailed w := fun w hw => by
    have hregion : fuseRegion w < 1048576 := by unfold fuseRegion; split_ifs <;> decide
    simp only [Ctl.wordFailed, Ctl.wordBad, Ctl.regionState, Ctl.senseOf, Ctl.is, h F.FUSE_WORD_HI_FAILED w (by decide) hw,
      h F.FUSE_WORD_HI_SENSE w (by decide) hw, h F.FUSE_REGION_STATE _ (by decide) hregion]
  have htrim : n.portTrimFailed p = m.portTrimFailed p := by
    unfold Ctl.portTrimFailed Ctl.trimFailed
    rw [Bool.eq_iff_iff, List.any_eq_true, List.any_eq_true]
    refine exists_congr fun w => and_congr_right fun hw => ?_
    obtain ⟨j, hj, rfl⟩ := List.mem_map.mp hw
    have hj := List.mem_range.mp hj
    rw [hword _ (by omega)]
  rw [Ctl.rateFloor, Ctl.rateFloor, htrim, h F.PA_CTRL_RATE_MAX p.idx (by decide) p.copy_lt, h F.GL_ID_BIN 0 (by decide) (by decide)]

/-- The fields of the lanes of a port. -/
def laneFlds (p : Port) : List (Fld × Nat) :=
  (List.range 16).flatMap fun g => (F.PA_LANE_DISABLED, p.idx * 16 + g) :: spareFlds (p.idx * 16 + g)

theorem spareFlds_id {e : Fld × Nat} (h : e ∈ spareFlds i) : e.1.id ∈ [45, 46, 47, 48, 49, 50, 51, 52] := by
  simp only [spareFlds, List.mem_cons, List.not_mem_nil, or_false] at h
  rcases h with rfl | rfl | rfl | rfl | rfl | rfl | rfl | rfl <;> simp [F.PA_LANE_RX_DUSED, F.PA_LANE_RX_DLANE, F.PA_LANE_RX_CUSED,
    F.PA_LANE_RX_CLANE, F.PA_LANE_TX_DUSED, F.PA_LANE_TX_DLANE, F.PA_LANE_TX_CUSED, F.PA_LANE_TX_CLANE]

theorem allSpares_ids (p : Port) : ∀ e ∈ allSpares p, e.1.id ∈ [45, 46, 47, 48, 49, 50, 51, 52] ∧ e.2 < 1048576 := by
  intro e he
  obtain ⟨g, hg, he⟩ := List.mem_flatMap.mp he
  have hi := p.idx_lt
  have hg := List.mem_range.mp hg
  exact ⟨spareFlds_id he, by rw [spareFlds_copy he]; omega⟩

theorem laneFlds_ids (p : Port) : ∀ e ∈ laneFlds p, e.1.id ∈ [44, 45, 46, 47, 48, 49, 50, 51, 52] ∧ e.2 < 1048576 := by
  intro e he
  obtain ⟨g, hg, he⟩ := List.mem_flatMap.mp he
  rcases List.mem_cons.mp he with rfl | he
  · obtain ⟨hid, hlt⟩ := disabledFlds_ids p _ (List.mem_map_of_mem hg)
    exact ⟨List.mem_cons.mpr (.inl (List.mem_singleton.mp hid)), hlt⟩
  · obtain ⟨hid, hlt⟩ := allSpares_ids p e (List.mem_flatMap.mpr ⟨g, hg, he⟩)
    exact ⟨List.mem_cons_of_mem _ hid, hlt⟩

theorem allSpares_sub (p : Port) : allSpares p ⊆ laneFlds p := fun e he => by
  obtain ⟨g, hg, he⟩ := List.mem_flatMap.mp he
  exact List.mem_flatMap.mpr ⟨g, hg, List.mem_cons_of_mem _ he⟩

theorem disabledFlds_sub (p : Port) : disabledFlds p ⊆ laneFlds p := fun e he => by
  obtain ⟨g, hg, rfl⟩ := List.mem_map.mp he
  exact List.mem_flatMap.mpr ⟨g, hg, List.mem_cons_self⟩

/-- A training up to the point where it is known which groups it takes; `b` is a state with the spares as they were before. -/
structure Ctl.Lanes (b m k : Ctl) (p : Port) (r : PortTrain) (taken : Nat) : Prop where
  only : m.OnlyFlds k (laneFlds p)
  small : taken < 2 ^ 16
  groups : ∀ g < 16, (bit taken g = true ↔ b.takes p r g)
  disabled : ∀ g < 16, (k.get F.PA_LANE_DISABLED (p.idx * 16 + g) ≠ 0 ↔ bit taken g = false)
  spared : ∀ g < 16, b.takes p r g → ∀ n, b.takeSpares p g (r.short g) = some n → n.SameSpares k (p.idx * 16 + g)
  others : ∀ g < 16, ¬ b.takes p r g → b.SameSpares k (p.idx * 16 + g)

/-- A training of a state in which nothing is raised: its end, and what it raises. -/
theorem Ctl.portTrain_lanes (hb : ∀ g < 16, b.SameSpares m (p.idx * 16 + g)) (hm : m.raised = []) : ∃ k taken,
    b.Lanes m k p r taken ∧
      m.portTrain p r = (k.trainEnd p r taken).raising (((List.range 16).filter (m.newlyDown p taken)).map (m.downRaise p)) := by
  obtain ⟨n, hn⟩ : ∃ n, n = (m.takeGroups p r).1 := ⟨_, rfl⟩
  obtain ⟨taken, htaken⟩ : ∃ taken, taken = (m.takeGroups p r).2 := ⟨_, rfl⟩
  have hspared : b.Spared m p r (m.takeGroups p r) 16 := .fold hb le_rfl
  obtain ⟨honly, hsmall, hgroups, hspares, hothers⟩ := hspared
  rw [← hn] at honly hspares hothers
  rw [← htaken] at hsmall hgroups
  obtain ⟨hrest, hedits, hflds, hlanes, -, hraised⟩ := Ctl.Showed.trainedGroups n p taken
  obtain ⟨k, hk⟩ : ∃ k, k = (n.trainedGroups p taken).raising [] := ⟨_, rfl⟩
  have hkflds : k.flds = (n.trainedGroups p taken).flds := by rw [hk]; rfl
  have hkeeps : ∀ g < 16, n.SameSpares k (p.idx * 16 + g) := fun g hg e he => by
    obtain ⟨hid, hlt⟩ := allSpares_ids p e (List.mem_flatMap.mpr ⟨g, List.mem_range.mpr hg, he⟩)
    rw [Ctl.get_congr hkflds]
    refine hflds.get_ids (disabledFlds_ids p) (fun hdown => ?_) hlt
    rw [List.mem_singleton.mp hdown] at hid
    exact absurd hid (by decide)
  have hnew : (List.range 16).filter (n.newlyDown p taken) = (List.range 16).filter (m.newlyDown p taken) := by
    refine List.filter_congr fun g hg => ?_
    have hlt : p.idx * 16 + g < 1048576 := by
      have := p.idx_lt
      have := List.mem_range.mp hg
      omega
    rw [Ctl.newlyDown, Ctl.newlyDown, Ctl.is, Ctl.is, honly.get (allSpares_ids p) (by decide) hlt]
  have hrecord : n.downRaise p = m.downRaise p := by
    funext g
    refine Ctl.downRaise_congr fun f i hf hi => honly.get (allSpares_ids p) (fun hmem => ?_) hi
    exact (by decide : ∀ i ∈ [0, 6, 426], i ∉ [45, 46, 47, 48, 49, 50, 51, 52]) _ hf hmem
  refine ⟨k, taken, ⟨⟨?_, ?_, ?_, ?_⟩, hsmall, hgroups, fun g hg => ?_, fun g hg ht n' hn' => ?_, fun g hg ht => ?_⟩, ?_⟩
  · rw [hk]
    exact hrest.trans honly.rest
  · rw [hk, hm]
    rfl
  · rw [hk]
    exact hedits.trans honly.edits
  · refine (honly.flds.trans (hflds.trans (Ctl.SameFlds.of_flds hkflds []))).mono fun e he => ?_
    simp only [List.mem_append, List.not_mem_nil, or_false] at he
    exact he.elim (allSpares_sub p ·) (disabledFlds_sub p ·)
  · rw [Ctl.get_congr hkflds]
    exact hlanes g hg
  · exact (hspares g hg ht n' hn').trans (hkeeps g hg)
  · exact (hothers g hg fun hlt => ht hlt.2).trans (hkeeps g hg)
  · have hback : n.trainedGroups p taken = k.raising (n.trainedGroups p taken).raised := by rw [hk]; rfl
    rw [Ctl.portTrain_eq, ← hn, ← htaken, hback, Ctl.trainEnd_raising, hraised, honly.raised, hm, hnew, hrecord, List.nil_append]

/-- The state with other counts of absent hosts. -/
def Ctl.absences (m : Ctl) (absent : Nat) (long : Bool) : Ctl := { m with absent := absent, longAbsent := long }

theorem Ctl.absences_rest (m : Ctl) (absent : Nat) (long : Bool) : (m.absences absent long).rest = m.rest.absences absent long := by
  cases m; rfl

theorem Ctl.raising_rest (m : Ctl) (l : List Raised) : (m.raising l).rest = m.rest := by cases m; rfl

theorem Ctl.Quiet.absences (h : m.Quiet) (l : List Raised) (absent : Nat) (long : Bool) : ((m.raising l).absences absent long).Quiet := by
  cases m; exact h

end

/-! ## The commands -/

/-- The fields that a training writes. -/
def trainingFlds (p : Port) (taken : Nat) : List (Fld × Nat) := (F.PA_SIDEBAND_HOSTPRES, p.idx) :: laneFlds p ++ trainFlds p taken

theorem trainingFlds_ids (p : Port) (taken : Nat) : ∀ e ∈ trainingFlds p taken,
    e.1.id ∈ [22, 23, 24, 25, 27, 36, 44, 45, 46, 47, 48, 49, 50, 51, 52, 326, 327] ∧ e.2 < 1048576 := by
  intro e he
  rcases List.mem_append.mp he with he | he
  · rcases List.mem_cons.mp he with rfl | he
    · exact ⟨by simp [F.PA_SIDEBAND_HOSTPRES], p.copy_lt⟩
    · obtain ⟨hid, hlt⟩ := laneFlds_ids p e he
      refine ⟨(by decide : [44, 45, 46, 47, 48, 49, 50, 51, 52] ⊆ _) hid, hlt⟩
  · obtain ⟨hid, hlt⟩ := trainFlds_ids p taken e he
    exact ⟨(by decide : [22, 23, 24, 25, 36, 326, 327] ⊆ _) hid, hlt⟩

/-- A state in which a port's host is present, as a training finds it. -/
structure Ctl.Found (b m : Ctl) (p : Port) : Prop where
  only : b.fresh.OnlyFlds m [(F.PA_SIDEBAND_HOSTPRES, p.idx)]
  present : m.get F.PA_SIDEBAND_HOSTPRES p.idx = 1

/-- A command has trained a port: `m` is the state that the training found, and `k` the one when its groups were known. -/
structure Trained (s t : State) (p : Port) (r : PortTrain) (l : List (Fld × Nat)) (m k : Ctl) (taken : Nat) : Prop where
  found : s.ctl.Found m p
  lanes : s.ctl.Lanes m k p r taken
  frame : Ends s t (trainingFlds p taken ++ l) { s.ctl.setPort p ((s.ctl.port p).afterTraining taken) with
    absent := t.ctl.absent, longAbsent := t.ctl.longAbsent, held := t.ctl.held }
  shows : ∀ f i, f.id ∉ [415, 427, 417, 416, 425] → i < 1048576 → t.ctl.get f i = (k.trainEnd p r taken).get f i

section
variable {s : State} {p : Port} {r : PortTrain} {m k : Ctl} {taken : Nat} {c : Instr} {gg : Arr → Ctl → Ctl} {absent : Nat} {long : Bool}

theorem Ctl.Found.get {f : Fld} {i : Nat} (h : s.ctl.Found m p) (hf : f.id ∉ [27]) (hi : i < 1048576) : m.get f i = s.ctl.get f i :=
  h.only.get (fun e he => by rw [List.mem_singleton.mp he]; exact ⟨by simp [F.PA_SIDEBAND_HOSTPRES], p.copy_lt⟩) hf hi

theorem Ctl.Found.spares (h : s.ctl.Found m p) {g : Nat} (hg : g < 16) : s.ctl.SameSpares m (p.idx * 16 + g) := fun e he => by
  obtain ⟨hid, hlt⟩ := allSpares_ids p e (List.mem_flatMap.mpr ⟨g, List.mem_range.mpr hg, he⟩)
  exact h.get (fun hmem => (by decide : ∀ i ∈ [45, 46, 47, 48, 49, 50, 51, 52], i ∉ [27]) _ hid hmem) hlt

theorem Ctl.Lanes.only_trainEnd (h : s.ctl.Lanes m k p r taken) (hm : s.ctl.Found m p) :
    (s.ctl.fresh.setPort p ((s.ctl.port p).afterTraining taken)).OnlyFlds (k.trainEnd p r taken) (trainingFlds p taken) := by
  have hk := hm.only.trans h.only
  have hport : k.port p = s.ctl.port p := by rw [hk.port, Ctl.port_fresh]
  have hend := Ctl.OnlyFlds.trainEnd k p r taken
  rw [hport] at hend
  exact (hk.setPort p _).trans hend

theorem PortSt.afterTraining_reqs (x : PortSt) (taken : Nat) : (x.afterTraining taken).reqs = x.reqs := by
  unfold PortSt.afterTraining
  split <;> rfl

/-- Is a group disabled that was not before? -/
def Ctl.Newly (m : Ctl) (p : Port) (r : PortTrain) (g : Nat) : Prop :=
  ¬ m.takes p r g ∧ ¬ m.get F.PA_LANE_DISABLED (p.idx * 16 + g) ≠ 0

theorem Ctl.Lanes.newly (h : s.ctl.Lanes m k p r taken) (hm : s.ctl.Found m p) {g : Nat} (hg : g < 16) :
    m.newlyDown p taken g = true ↔ s.ctl.Newly p r g := by
  have hlt : p.idx * 16 + g < 1048576 := by have := p.idx_lt; omega
  rw [Ctl.Newly, ← h.groups g hg, Ctl.newlyDown, Ctl.is, hm.get (by decide) hlt]
  simp

/-- The registers that a training writes, and all else that it leaves. -/
theorem Ctl.Lanes.flds (h : s.ctl.Lanes m k p r taken) (hm : s.ctl.Found m p) :
    s.ctl.SameFlds (((k.trainEnd p r taken).raising []).absences absent long) (trainingFlds p taken) := fun f i hf =>
  ((h.only_trainEnd hm).flds f i hf).trans (Ctl.get_setPort _ _ _ _ _)

theorem Ctl.Lanes.rest (h : s.ctl.Lanes m k p r taken) (hm : s.ctl.Found m p) :
    (((k.trainEnd p r taken).raising []).absences absent long).rest =
      ((s.ctl.setPort p ((s.ctl.port p).afterTraining taken)).absences absent long).rest := by
  rw [Ctl.absences_rest, Ctl.raising_rest, (h.only_trainEnd hm).rest, Ctl.absences_rest, Ctl.rest_setPort, Ctl.rest_setPort,
    Ctl.rest_of_fresh]

theorem Ctl.Lanes.quiet (h : s.ctl.Lanes m k p r taken) (hm : s.ctl.Found m p) (hq : s.ctl.Quiet) :
    (((k.trainEnd p r taken).raising []).absences absent long).Quiet ∧
      (((k.trainEnd p r taken).raising []).absences absent long).edits = [] :=
  ⟨((h.only_trainEnd hm).quiet (hq.fresh.setPort p ((PortSt.afterTraining_reqs _ _).trans (hq.reqs p)))).absences [] absent long,
    (h.only_trainEnd hm).edits.trans (Ctl.setPort_edits _ _ _)⟩

/-- A training that disables no group anew. -/
theorem Trained.of_quiet (hc : exec c s = .next (run s gg)) (hx : gg s.arr s.ctl.fresh = (m.portTrain p r).absences absent long)
    (hm : s.ctl.Found m p) (hq : s.ctl.Quiet) (hnone : ∀ g < 16, ¬ s.ctl.Newly p r g) :
    ∃ t k taken, exec c s = .next t ∧ t.ctl.held = s.ctl.held ∧ Trained s t p r [] m k taken := by
  obtain ⟨k, taken, hlanes, htrain⟩ := Ctl.portTrain_lanes (p := p) (r := r) (fun g hg => hm.spares hg) (m := m) hm.only.raised
  have hempty : (List.range 16).filter (m.newlyDown p taken) = [] :=
    List.filter_eq_nil_iff.mpr fun g hg => by
      rw [hlanes.newly hm (List.mem_range.mp hg)]
      exact hnone g (List.mem_range.mp hg)
  rw [htrain, hempty, List.map_nil] at hx
  obtain ⟨hquiet, hedits⟩ := hlanes.quiet (absent := absent) (long := long) hm hq
  obtain ⟨t, ht, hends, hget⟩ := exec_of_effect hc hx hquiet rfl hedits (hlanes.flds hm)
  have hends := hends.of_rest (hlanes.rest hm)
  have habsent : t.ctl.absent = absent := hends.part (·.absent) fun _ => rfl
  have hlong : t.ctl.longAbsent = long := hends.part (·.longAbsent) fun _ => rfl
  have hheld : t.ctl.held = s.ctl.held := (hends.part (·.held) fun _ => rfl).trans (by cases p <;> rfl)
  refine ⟨t, k, taken, ht, hheld, hm, hlanes, ?_, fun f i hf hi => ?_⟩
  · rw [List.append_nil, habsent, hlong, hheld]
    refine hends.of_rest ?_
    cases p <;> rfl
  · refine hget f i (fkey_ne (fun hid => hf ?_) hi (by decide))
    rw [hid]
    decide

/-- A training that disables one group anew. -/
theorem Trained.of_raised {h : Nat} (hc : exec c s = .next (run s gg))
    (hx : gg s.arr s.ctl.fresh = (m.portTrain p r).absences absent long) (hm : s.ctl.Found m p) (hq : s.ctl.Quiet) (hh : h < 16)
    (hnew : s.ctl.Newly p r h) (hone : ∀ g < 16, s.ctl.Newly p r g → g = h) (hcalm : s.ctl.Calm (groupSource p)) :
    ∃ t k taken, exec c s = .next t ∧ t.ctl.pendOf (groupSource p) = true ∧
      Trained s t p r (s.ctl.logFlds (groupSource p)) m k taken := by
  obtain ⟨k, taken, hlanes, htrain⟩ := Ctl.portTrain_lanes (p := p) (r := r) (fun g hg => hm.spares hg) (m := m) hm.only.raised
  have hsingle : (List.range 16).filter (m.newlyDown p taken) = [h] := by
    have heq : (List.range 16).filter (m.newlyDown p taken) = (List.range 16).filter (· == h) :=
      List.filter_congr fun g hg => by
        rw [Bool.eq_iff_iff, hlanes.newly hm (List.mem_range.mp hg), beq_iff_eq]
        exact ⟨hone g (List.mem_range.mp hg), fun hgh => hgh ▸ hnew⟩
    rw [heq, List.filter_beq, List.count_eq_one_of_mem List.nodup_range (List.mem_range.mpr hh)]
    rfl
  rw [htrain, hsingle] at hx
  obtain ⟨z, hz⟩ : ∃ z, z = ((k.trainEnd p r taken).raising []).absences absent long := ⟨_, rfl⟩
  have hrecord : z.downRaise p h = m.downRaise p h := by
    refine Ctl.downRaise_congr fun f i hf hi => ?_
    have hwritten : f.id ∉ [22, 23, 24, 25, 27, 36, 44, 45, 46, 47, 48, 49, 50, 51, 52, 326, 327] :=
      (by decide : ∀ i ∈ [0, 6, 426], i ∉ [22, 23, 24, 25, 27, 36, 44, 45, 46, 47, 48, 49, 50, 51, 52, 326, 327]) _ hf
    have hpres : f.id ∉ [27] := (by decide : ∀ i ∈ [0, 6, 426], i ∉ [27]) _ hf
    rw [hz, (hlanes.flds hm).get_ids (trainingFlds_ids p taken) hwritten hi, hm.get hpres hi]
  have hraise : ((k.trainEnd p r taken).raising [m.downRaise p h]).absences absent long = z.raiseAs (groupSource p) h false := by
    have hraised : z.raiseAs (groupSource p) h false = z.raising (z.raised ++ [z.downRaise p h]) := rfl
    rw [hraised, hrecord, hz]
    rfl
  have hx' : gg s.arr s.ctl.fresh = z.raiseAs (groupSource p) h false := hx.trans hraise
  obtain ⟨hquiet, hedits⟩ := hlanes.quiet (absent := absent) (long := long) hm hq
  have hfree : ∀ e ∈ trainingFlds p taken, e.1.id ∉ [413, 426, 427, 417, 416, 425] ∧ e.2 < 1048576 := fun e he => by
    obtain ⟨hid, hlt⟩ := trainingFlds_ids p taken e he
    exact ⟨(by decide : ∀ i ∈ [22, 23, 24, 25, 27, 36, 44, 45, 46, 47, 48, 49, 50, 51, 52, 326, 327],
      i ∉ [413, 426, 427, 417, 416, 425]) _ hid, hlt⟩
  rw [← hz] at hquiet hedits
  obtain ⟨⟨hends, hpend⟩, hget⟩ := EndsRaised.of_calm s gg (groupSource p) h false (trainingFlds p taken)
    ((s.ctl.setPort p ((s.ctl.port p).afterTraining taken)).absences absent long) z hcalm (by cases p <;> decide) hx' hquiet
    (by rw [hz]; rfl) hedits (hz ▸ hlanes.flds hm) hfree (hz ▸ hlanes.rest hm)
  refine ⟨_, k, taken, hc, hpend, hm, hlanes, ?_, fun f i hf hi => (hget f i hf hi).trans (by rw [hz]; rfl)⟩
  have habsent : (run s gg).ctl.absent = absent := hends.part (·.absent) fun _ => rfl
  have hlong : (run s gg).ctl.longAbsent = long := hends.part (·.longAbsent) fun _ => rfl
  rw [habsent, hlong]
  refine ⟨hends.pending, hends.arr, hends.flds.mono fun e he => ?_, hends.rest⟩
  simp only [List.mem_cons, List.mem_append] at he ⊢
  exact he.imp_right Or.symm

/-! ## What a training shows -/

section
variable {t : State} {l : List (Fld × Nat)}

theorem Trained.get_lane (h : Trained s t p r l m k taken) {f : Fld} {i : Nat} (hf : f.id ∈ [27, 44, 45, 46, 47, 48, 49, 50, 51, 52])
    (hi : i < 1048576) : t.ctl.get f i = k.get f i := by
  have hraise : f.id ∉ [415, 427, 417, 416, 425] :=
    (by decide : ∀ i ∈ [27, 44, 45, 46, 47, 48, 49, 50, 51, 52], i ∉ [415, 427, 417, 416, 425]) _ hf
  have hend : f.id ∉ [22, 23, 24, 25, 36, 326, 327] :=
    (by decide : ∀ i ∈ [27, 44, 45, 46, 47, 48, 49, 50, 51, 52], i ∉ [22, 23, 24, 25, 36, 326, 327]) _ hf
  rw [h.shows f i hraise hi, (Ctl.OnlyFlds.trainEnd k p r taken).get (trainFlds_ids p taken) hend hi, Ctl.get_setPort]

theorem Trained.present (h : Trained s t p r l m k taken) : t.ctl.get F.PA_SIDEBAND_HOSTPRES p.idx = 1 := by
  rw [h.get_lane (by decide) p.copy_lt, h.lanes.only.get (laneFlds_ids p) (by decide) p.copy_lt, h.found.present]

theorem Trained.spares (h : Trained s t p r l m k taken) {g : Nat} (hg : g < 16) : k.SameSpares t.ctl (p.idx * 16 + g) := fun e he => by
  obtain ⟨hid, hlt⟩ := allSpares_ids p e (List.mem_flatMap.mpr ⟨g, List.mem_range.mpr hg, he⟩)
  exact h.get_lane ((by decide : [45, 46, 47, 48, 49, 50, 51, 52] ⊆ _) hid) hlt

/-- A group that is taken is enabled, with the spares that it needed. -/
theorem Trained.group_taken (h : Trained s t p r l m k taken) {g : Nat} (hg : g < 16) (ht : s.ctl.takes p r g) :
    ¬ t.ctl.get F.PA_LANE_DISABLED (p.idx * 16 + g) ≠ 0 ∧
      ∀ n, s.ctl.takeSpares p g (r.short g) = some n → ∀ d k, t.ctl.portLane p.idx g d k = n.portLane p.idx g d k := by
  have hlt : p.idx * 16 + g < 1048576 := by have := p.idx_lt; omega
  refine ⟨?_, fun n hn => ((h.lanes.spared g hg ht n hn).trans (h.spares hg)).portLane⟩
  rw [h.get_lane (by decide) hlt, h.lanes.disabled g hg, (h.lanes.groups g hg).mpr ht]
  decide

/-- A group that is not taken is disabled, with its spares as they were. -/
theorem Trained.group_left (h : Trained s t p r l m k taken) {g : Nat} (hg : g < 16) (ht : ¬ s.ctl.takes p r g) :
    t.ctl.get F.PA_LANE_DISABLED (p.idx * 16 + g) ≠ 0 ∧ ∀ d k, t.ctl.portLane p.idx g d k = s.ctl.portLane p.idx g d k := by
  have hlt : p.idx * 16 + g < 1048576 := by have := p.idx_lt; omega
  refine ⟨?_, ((h.lanes.others g hg ht).trans (h.spares hg)).portLane⟩
  rw [h.get_lane (by decide) hlt, h.lanes.disabled g hg]
  exact Bool.eq_false_iff.mpr fun hbit => ht ((h.lanes.groups g hg).mp hbit)

theorem Ctl.Lanes.taken_ne_zero (h : s.ctl.Lanes m k p r taken) {g : Nat} (hg : g < 16) (ht : s.ctl.takes p r g) : taken ≠ 0 := by
  rintro rfl
  exact absurd ((h.groups g hg).mpr ht) (by simp [bit])

theorem Ctl.Lanes.taken_eq_zero (h : s.ctl.Lanes m k p r taken) (hnone : ∀ g < 16, ¬ s.ctl.takes p r g) : taken = 0 := by
  refine Nat.zero_of_testBit_eq_false fun g => ?_
  by_cases hg : g < 16
  · exact Bool.eq_false_iff.mpr fun hbit => hnone g hg ((h.groups g hg).mp hbit)
  · exact Nat.testBit_lt_two_pow (h.small.trans_le (Nat.pow_le_pow_right (by decide) (by omega)))

/-- A field that no group is shown in is as the training found it. -/
theorem Trained.get_found (h : Trained s t p r l m k taken) {f : Fld} {i : Nat} (hf : f.id ∉ [27, 44, 45, 46, 47, 48, 49, 50, 51, 52])
    (hi : i < 1048576) : k.get f i = s.ctl.get f i := by
  rw [h.lanes.only.get (laneFlds_ids p) (fun hmem => hf (List.mem_cons_of_mem _ hmem)) hi,
    h.found.get (fun hmem => hf (by rw [List.mem_singleton.mp hmem]; decide)) hi]

theorem Trained.inMode (h : Trained s t p r l m k taken) (ms : List Mode) : k.inMode ms = s.ctl.inMode ms := by
  have hpower : k.power = s.ctl.power := (h.found.only.trans h.lanes.only).part (·.power) fun _ => rfl
  rw [Ctl.inMode, Ctl.inMode, hpower, Ctl.mode, Ctl.mode, h.get_found (by decide) (by decide)]

/-- The port comes up at its rate, and waits for READY in TRAINING (R404). -/
theorem Trained.up (h : Trained s t p r l m k taken) (ht : taken ≠ 0) :
    t.ctl.get F.PA_STATUS_GROUPS p.idx = taken ∧ t.ctl.get F.PA_STATUS_RATE p.idx = max r.rate.val (s.ctl.rateFloor p) % 4 ∧
      t.ctl.link p = (if s.ctl.inMode [.training] then 1 else 2) ∧
      (s.ctl.inMode [.ready, .active] = true → t.ctl.mode = Mode.active.code) := by
  have hi := p.copy_lt
  obtain ⟨hgroups, hrate, hlink, hmode⟩ := Ctl.get_trainEnd_up (m := k) (p := p) (r := r) ht h.lanes.small
  have hfloor : k.rateFloor p = s.ctl.rateFloor p := Ctl.rateFloor_congr fun f i hf hi => h.get_found
    ((by decide : ∀ i ∈ [20, 366, 379, 380, 429], i ∉ [27, 44, 45, 46, 47, 48, 49, 50, 51, 52]) _ hf) hi
  rw [h.inMode] at hlink hmode
  rw [hfloor] at hrate
  exact ⟨(h.shows _ _ (by decide) hi).trans hgroups, (h.shows _ _ (by decide) hi).trans hrate, (h.shows _ _ (by decide) hi).trans hlink,
    fun hawake => (h.shows _ _ (by decide) (by decide)).trans (hmode hawake)⟩

theorem Trained.down (h : Trained s t p r l m k 0) : t.ctl.link p = 0 ∧ t.ctl.get F.PA_ERR_TRAIN_FAIL p.idx = 1 := by
  obtain ⟨hlink, hfail⟩ := Ctl.get_trainEnd_down k p r
  exact ⟨(h.shows _ _ (by decide) p.copy_lt).trans hlink, (h.shows _ _ (by decide) p.copy_lt).trans hfail⟩

end

/-! ## The two commands that train -/

/-- The state that PORT_TRAINING trains in: the port's host is present. -/
theorem Ctl.Found.set (m : Ctl) (p : Port) : m.Found (m.fresh.set F.PA_SIDEBAND_HOSTPRES p.idx 1) p :=
  ⟨.set _ _ _ _, by rw [Ctl.get_set_same]; rfl⟩

theorem Ctl.Found.fresh (h : m.get F.PA_SIDEBAND_HOSTPRES p.idx = 1) : m.Found m.fresh p :=
  ⟨(Ctl.OnlyFlds.refl _).mono (by simp), h⟩

theorem Ctl.Found.mayTrain (h : s.ctl.Found m p) : m.mayTrain p = s.ctl.mayTrain p := by
  have hi := p.copy_lt
  have hparts : (m.power, m.deadUnits) = (s.ctl.power, s.ctl.deadUnits) := h.only.part (fun m => (m.power, m.deadUnits)) fun _ => rfl
  obtain ⟨hpower, hdead⟩ := Prod.mk.inj hparts
  simp only [Ctl.mayTrain, Ctl.inMode, Ctl.mode, Ctl.is, Ctl.linkUp, Ctl.link, hpower, hdead, h.get (f := F.GL_MODE_STATE) (i := 0)
    (by decide) (by decide), h.get (f := F.PA_CTRL_ENABLE) (by decide) hi, h.get (f := F.PA_STATUS_LINK) (by decide) hi]

theorem Ctl.notePresent_absences (m : Ctl) : ∃ absent long, m.notePresent = m.absences absent long := m.notePresent_eq

/-- PORT_TRAINING of a port that may train. -/
theorem exec_portTraining (hmay : s.ctl.mayTrain p = true) : ∃ gg absent long, exec (.portTraining p r) s = .next (run s gg) ∧
    gg s.arr s.ctl.fresh = ((s.ctl.fresh.set F.PA_SIDEBAND_HOSTPRES p.idx 1).portTrain p r).absences absent long := by
  obtain ⟨m, hm⟩ : ∃ m, m = s.ctl.fresh.set F.PA_SIDEBAND_HOSTPRES p.idx 1 := ⟨_, rfl⟩
  have hfound : s.ctl.Found m p := hm ▸ .set _ _
  have halive : s.ctl.fresh.alive = true := by
    simp only [Ctl.mayTrain, Bool.and_eq_true] at hmay
    obtain ⟨⟨⟨⟨hmode, -⟩, -⟩, -⟩, -⟩ := hmay
    exact Ctl.alive_of_inMode hmode
  obtain ⟨a₁, l₁, hfirst⟩ := (m.portTrain p r).notePresent_absences
  obtain ⟨a₂, l₂, hsecond⟩ := ((m.portTrain p r).absences a₁ l₁).notePresent_absences
  refine ⟨fun _ n => if n.alive then
      (if (n.set F.PA_SIDEBAND_HOSTPRES p.idx 1).mayTrain p then ((n.set F.PA_SIDEBAND_HOSTPRES p.idx 1).portTrain p r).notePresent
        else n.set F.PA_SIDEBAND_HOSTPRES p.idx 1).notePresent
    else n, a₂, l₂, rfl, ?_⟩
  simp only [halive, if_true, ← hm]
  rw [if_pos (hfound.mayTrain.trans hmay), hfirst, hsecond]
  rfl

/-- PORT_TRAIN_RETRY of a port that is to train again. -/
theorem exec_portTrainRetry (hmay : s.ctl.mayTrain p = true) (hpres : s.ctl.get F.PA_SIDEBAND_HOSTPRES p.idx = 1)
    (hretry : (s.ctl.port p).retry = true) : ∃ gg absent long, exec (.portTrainRetry p r) s = .next (run s gg) ∧
    gg s.arr s.ctl.fresh = (s.ctl.fresh.portTrain p r).absences absent long := by
  have hfound : s.ctl.Found s.ctl.fresh p := .fresh hpres
  obtain ⟨absent, long, hnote⟩ := (s.ctl.fresh.portTrain p r).notePresent_absences
  refine ⟨fun _ n => if n.is F.PA_SIDEBAND_HOSTPRES p.idx && (n.port p).retry && n.mayTrain p then (n.portTrain p r).notePresent else n,
    absent, long, rfl, ?_⟩
  have hcond : (s.ctl.fresh.is F.PA_SIDEBAND_HOSTPRES p.idx && (s.ctl.fresh.port p).retry && s.ctl.fresh.mayTrain p) = true := by
    rw [Ctl.is, Ctl.get_fresh, hpres, Ctl.port_fresh, hretry, hfound.mayTrain, hmay]
    rfl
  exact (if_pos hcond).trans hnote

end

end Sys2Proof.Machine

namespace Sys2Proof.HostPorts

open Sys2Proof.Machine

/-- Settles O20: by the groups that the training takes, each with its spares, and what it raises. -/
theorem portTraining : Obligations.PortTraining := by
  unfold Obligations.PortTraining
  intro s p r spares takes disabled lanes frame shown came failed ends newly hq hmay
  have hends : ∀ {t : State} {m k : Ctl} {taken : Nat} {l : List (Fld × Nat)}, Trained s t p r l m k taken → ends t l := by
    intro t m k taken l h
    have hshown : ((∃ g < 16, takes g) → t.ctl.get F.PA_STATUS_GROUPS p.idx = taken) → shown t := by
      intro hgroups
      refine ⟨h.present, fun g hg => ⟨fun ht => ?_, fun ht => h.group_left hg ht⟩⟩
      obtain ⟨hon, hspares⟩ := h.group_taken hg ht
      refine ⟨hon, ?_, hspares⟩
      rw [hgroups ⟨g, hg, ht⟩]
      exact (h.lanes.groups g hg).mpr ht
    refine ⟨fun ⟨g, hg, ht⟩ => ?_, fun hnone => ?_⟩
    · have hne := h.lanes.taken_ne_zero hg ht
      obtain ⟨hgroups, hrate, hlink, hmode⟩ := h.up hne
      refine ⟨?_, hshown fun _ => hgroups, hrate, hlink, hmode⟩
      have hframe := h.frame
      rw [trainingFlds, trainFlds, if_neg hne, PortSt.afterTraining, if_neg hne, List.append_assoc] at hframe
      exact hframe
    · obtain rfl := h.lanes.taken_eq_zero hnone
      obtain ⟨hlink, hfail⟩ := h.down
      refine ⟨?_, hshown fun ⟨g, hg, ht⟩ => absurd ht (hnone g hg), hlink, hfail⟩
      have hframe := h.frame
      rw [trainingFlds, List.append_assoc] at hframe
      exact hframe
  refine ⟨fun hnone => ⟨?_, fun hpres hretry => ?_⟩, fun h hh hnew hone hcalm => ?_⟩
  · obtain ⟨gg, absent, long, hc, hx⟩ := exec_portTraining (r := r) hmay
    obtain ⟨t, k, taken, ht, hheld, htrained⟩ := Trained.of_quiet hc hx (.set _ _) hq hnone
    exact ⟨t, ht, hheld, hends htrained⟩
  · obtain ⟨gg, absent, long, hc, hx⟩ := exec_portTrainRetry (r := r) hmay hpres hretry
    obtain ⟨t, k, taken, ht, hheld, htrained⟩ := Trained.of_quiet hc hx (.fresh hpres) hq hnone
    exact ⟨t, ht, hheld, hends htrained⟩
  · obtain ⟨gg, absent, long, hc, hx⟩ := exec_portTraining (r := r) hmay
    obtain ⟨t, k, taken, ht, hpend, htrained⟩ := Trained.of_raised hc hx (.set _ _) hq hh hnew hone hcalm
    exact ⟨t, ht, hends htrained, hpend⟩

end Sys2Proof.HostPorts
end

section
/-!
Requests that a header command brings (R112 to R119, R129): what the stack takes from the header, how the request stands in its port, how it
completes, and what the end of the command makes of a request that waits for nothing but its order.
-/

namespace Sys2Proof.Machine

/-! ## What a header brings -/

/-- The request of a header whose payload is whole (R112, R117). -/
def headerReq (h : Hdr) (data : List Byte) (be : Option Nat) : Req :=
  { pos := h.pos, g := h.g, tag := bits h.bits 6 14, op := h.op, session := if h.op = 3 then 0 else bits h.bits 20 18
    addr := if decide (h.op ≤ 2) then bits h.bits 38 37 else if h.op = 3 then 0 else bits h.bits 38 24
    len := if decide (h.op ≤ 2) then sizeOf (bits h.bits 4 2) else 0, be := be.getD 0, data := data, value := bits h.bits 64 32
    st := .waiting, accAt := h.accAt, rh := h.rh, wd := h.wd, orphan := h.orphan }

/-- A port whose only request has just taken its place in port order (R129). -/
def PortSt.taking (x : PortSt) (r : Req) : PortSt := { x with nextPos := x.nextPos + 1, silent := none, reqs := [r] }

/-- A stack whose port has just taken a request. -/
def Ctl.taking (m : Ctl) (p : Port) (r : Req) : Ctl := m.noted.setPort p ((m.port p).taking r)

/-- Judging a header whose payload is whole: with faults it is refused, every fault is shown, and it completes with BAD_REQUEST (R136);
without, a user access is judged against its windows and its session. -/
theorem Ctl.judge_whole (m : Ctl) (p : Port) (h : Hdr) (data : List Byte) (be : Option Nat) :
    let r := headerReq h data be
    let n := m.modPort p fun x => { x with hdrs := x.hdrs.filter fun q => q.pos != h.pos, reqs := x.reqs ++ [r] }
    let fs := r.faults h.reuse be.isSome
    m.judge p h (some data) be =
      if fs.isEmpty then if h.op ≤ 2 then n.userReq p r h.cutoff else n
      else (fs.foldl (fun n f => n.set f p.idx 1) n).finishReq p h.pos stBadRequest := by
  unfold Ctl.judge headerReq
  simp only [Option.isSome_some, Bool.true_or, Bool.not_true, Bool.and_false, Bool.false_eq_true, if_false]
  by_cases huser : h.op ≤ 2
  · simp only [huser, decide_true, if_true]
    cases Req.faults _ _ _ <;> rfl
  · simp only [huser, decide_false, Bool.false_eq_true, if_false]
    cases Req.faults _ _ _ <;> rfl

/-- The header that a command brings by itself, with nothing outstanding under its tag. -/
def Ctl.brought (m : Ctl) (p : Port) (g hb : Nat) (be : Option Nat) : Hdr :=
  { pos := (m.port p).nextPos, g := g, bits := hb, ext := be, rh := 0, accAt := m.now }

/-- A header that its own command brings takes its place in port order and is judged (R129). -/
theorem Ctl.header_brought {m : Ctl} {p : Port} {g hb : Nat} {payload : Option (List Byte)} {be : Option Nat} {r : Req}
    (hr : m.Ready p g (bits hb 6 14)) (hbr : headerReq (m.brought p g hb be) (payload.getD []) be = r) :
    m.header p g hb payload be =
      if (r.faults false be.isSome).isEmpty then
        if hb % 16 ≤ 2 then (m.taking p r).userReq p r false else m.taking p r
      else ((r.faults false be.isSome).foldl (fun n f => n.set f p.idx 1) (m.taking p r)).finishReq p r.pos stBadRequest := by
  obtain ⟨hq, hh, hpair, htag, hmode, hentry⟩ := hr
  have hreuse : m.noted.tagOpen p (bits hb 6 14) = false := by simpa [Ctl.tagOpen, Ctl.tagLive, hh] using htag
  have hpos : r.pos = (m.port p).nextPos := by rw [← hbr]; rfl
  have hjudge : m.header p g hb payload be =
      (m.noted.setPort p { m.port p with nextPos := (m.port p).nextPos + 1, silent := none }).judge p (m.brought p g hb be)
        (some (payload.getD [])) be := by
    simp [Ctl.header, hh, hpair, Ctl.newWork_awake hmode hentry, hreuse, Ctl.brought]
  have htaking : (m.noted.setPort p { m.port p with nextPos := (m.port p).nextPos + 1, silent := none }).modPort p (fun x =>
      { x with hdrs := x.hdrs.filter fun q => q.pos != (m.brought p g hb be).pos, reqs := x.reqs ++ [r] }) = m.taking p r := by
    simp [Ctl.taking, PortSt.taking, hh, hq.reqs p]
  rw [hjudge, Ctl.judge_whole, hbr, htaking, hpos]
  rfl

/-- The request of a user access that arrives by its own command. -/
def userRequest (pos g op tag session addr now : Nat) (size : ReqSize) (data : List Byte) (be : Option Nat) :
    Req :=
  { pos := pos, g := g, tag := tag, op := op, session := session, addr := addr, len := size.bytes, be := be.getD 0, data := data
    value := bits (userHeader op size tag session addr) 64 32, st := .waiting, accAt := now }

/-- What the header of a user access carries (R112, R114). -/
theorem Ctl.brought_user (m : Ctl) (p : Port) (g : Nat) {op tag session addr : Nat} (size : ReqSize) (data : List Byte)
    (be : Option Nat) (ho : op ≤ 2) (ht : tag < 2 ^ 14) (hs : session < 2 ^ 18) (ha : addr < 2 ^ 37) :
    userHeader op size tag session addr % 16 = op ∧ bits (userHeader op size tag session addr) 6 14 = tag ∧
      headerReq (m.brought p g (userHeader op size tag session addr) be) data be =
        userRequest (m.port p).nextPos g op tag session addr m.now size data be := by
  obtain ⟨code, hcode, hlen, hhb⟩ : ∃ code < 4, sizeOf code = size.bytes ∧
      userHeader op size tag session addr = op + code * 2 ^ 4 + tag * 2 ^ 6 + session * 2 ^ 20 + addr * 2 ^ 38 := by
    cases size
    · exact ⟨0, by decide, rfl, rfl⟩
    · exact ⟨1, by decide, rfl, rfl⟩
    · exact ⟨2, by decide, rfl, rfl⟩
    · exact ⟨3, by decide, rfl, rfl⟩
  obtain ⟨hbop, hbsize, hbtag, hbses, hbaddr⟩ :
      userHeader op size tag session addr % 16 = op ∧ bits (userHeader op size tag session addr) 4 2 = code ∧
      bits (userHeader op size tag session addr) 6 14 = tag ∧ bits (userHeader op size tag session addr) 20 18 = session ∧
      bits (userHeader op size tag session addr) 38 37 = addr := by
    rw [hhb]
    simp only [bits, Nat.shiftRight_eq_div_pow]
    omega
  have hfence : op ≠ 3 := by omega
  refine ⟨hbop, hbtag, ?_⟩
  simp only [Ctl.brought, headerReq, Hdr.op, userRequest, hbop, hbsize, hbtag, hbses, hbaddr, hlen, ho, hfence, decide_true,
    if_true, if_false]

/-- What the header of a config access, a doorbell or a fence carries (R117). -/
theorem Ctl.brought_config (m : Ctl) (p : Port) (g : Nat) {op tag session caddr data : Nat} (ho : 2 < op ∧ op < 7) (ht : tag < 2 ^ 14)
    (hs : session < 2 ^ 18) (hc : caddr < 2 ^ 24) (hfence : op = 3 → session = 0 ∧ caddr = 0) :
    configHeader op tag session caddr data % 16 = op ∧ bits (configHeader op tag session caddr data) 6 14 = tag ∧
      headerReq (m.brought p g (configHeader op tag session caddr data) none) [] none =
        configReq (m.port p).nextPos g op tag session caddr data m.now := by
  obtain ⟨hbop, hbtag, hbses, hbaddr⟩ := configHeader_fields data (show op < 16 by omega) ht hs hc
  have huser : ¬ op ≤ 2 := by omega
  refine ⟨hbop, hbtag, ?_⟩
  simp only [Ctl.brought, headerReq, Hdr.op, configReq, hbop, hbtag, hbses, hbaddr, huser, decide_false, Bool.false_eq_true, if_false]
  by_cases h3 : op = 3
  · obtain ⟨rfl, rfl⟩ := hfence h3
    simp [h3]
  · simp [h3]

/-- The value that a config header carries. -/
theorem configReq_value (pos g op tag session caddr data now : Nat) (ho : op < 16) (ht : tag < 2 ^ 14) (hs : session < 2 ^ 18)
    (hc : caddr < 2 ^ 24) (hd : data < 2 ^ 32) : (configReq pos g op tag session caddr data now).value = data := by
  simp only [configReq, configHeader, bits, Nat.shiftRight_eq_div_pow]
  omega

/-! ## A port that has taken a request -/

section
variable (m : Ctl) (p : Port) (r : Req)

@[simp] theorem Ctl.port_taking : (m.taking p r).port p = (m.port p).taking r := by simp [Ctl.taking]
@[simp] theorem Ctl.get_taking (f : Fld) (i : Nat) : (m.taking p r).get f i = m.get f i := by simp [Ctl.taking]
@[simp] theorem Ctl.taking_raised : (m.taking p r).raised = m.raised := by simp [Ctl.taking]
@[simp] theorem Ctl.taking_edits : (m.taking p r).edits = m.edits := by simp [Ctl.taking]
@[simp] theorem Ctl.taking_now : (m.taking p r).now = m.now := by cases p <;> rfl
@[simp] theorem Ctl.taking_flds : (m.taking p r).flds = m.flds := by simp [Ctl.taking, Ctl.noted]
@[simp] theorem Ctl.taking_setPort (x : PortSt) : (m.taking p r).setPort p x = m.noted.setPort p x := by simp [Ctl.taking]

end

end Sys2Proof.Machine
end

section
/-!
How a request that a header command brings completes, and what the end of the command makes of one that waits for nothing but its order
(R122, R129, R131).
-/

namespace Sys2Proof.Machine

/-! ## Completions -/

/-- What TEL counts of a user access that has been performed (R484). -/
def Ctl.counted (m : Ctl) (p : Port) (r : Req) (status : Nat) : Ctl :=
  if status ≤ 1 && r.op == 0 then m.count (2 * p.idx) r.len
  else if status ≤ 1 && (r.op == 1 || r.op == 2) then m.count (2 * p.idx + 1) r.len
  else m

/-- TEL counts nothing of a refused request, nor of one that is no user access. -/
theorem Ctl.counted_none (m : Ctl) (p : Port) {r : Req} {status : Nat} (h : 2 < r.op ∨ 1 < status) : m.counted p r status = m := by
  unfold Ctl.counted
  rw [if_neg (by simp; omega), if_neg (by simp; omega)]

theorem Ctl.get_counted (m : Ctl) (p : Port) (r : Req) (status : Nat) (f : Fld) (i : Nat) :
    (m.counted p r status).get f i = m.get f i := by
  unfold Ctl.counted
  split
  · rfl
  · split <;> rfl

section
variable {m n : Ctl} {p : Port} {r : Req} {l : List (Fld × Nat)}

/-- The completion of the only request of a port, which took no credits, joins the queue of its pair (R122). -/
theorem Ctl.finishReq_alone (hr : (m.port p).reqs = [r]) (hrh : r.rh = 0) (hwd : r.wd = 0) (ho : r.orphan = false) (ha : m.Answers p r.g)
    (status : Nat) (xt : Option Nat) :
    m.finishReq p r.pos status (xt := xt) = (m.counted p r status).setPort p
      ({ m.port p with reqs := [] }.push r.g (.cpl r.tag status xt false none r.session (.fresh r.admitted) r.accAt)) := by
  have hcount : (m.setPort p { m.port p with reqs := [] }).counted p r status =
      (m.counted p r status).setPort p { m.port p with reqs := [] } := by
    unfold Ctl.counted
    split
    · cases p <;> rfl
    · split <;> cases p <;> rfl
  have ha' : ((m.counted p r status).setPort p { m.port p with reqs := [] }).Answers p r.g := by
    obtain ⟨hawake, hon⟩ := ha
    refine ⟨?_, ?_⟩
    · rw [← hawake]; simp [Ctl.grp, PortSt.grp]
    · rw [← hon, Ctl.get_setPort, Ctl.get_counted]
  have hfinish : m.finishReq p r.pos status (xt := xt) = ((m.setPort p { m.port p with reqs := [] }).counted p r status).pushCpl p r.g
      (.cpl r.tag status xt false none r.session (.fresh r.admitted) r.accAt) := by
    simp [Ctl.finishReq, Ctl.credit, hr, hrh, hwd, ho, Ctl.counted]
  rw [hfinish, hcount, Ctl.pushCpl_awake ha', Ctl.port_setPort, Ctl.setPort_setPort]

/-- What a request that has just been taken leaves of its port when it completes. -/
theorem PortSt.answered_of_taking (x : PortSt) (hx : x.reqs = []) (r : Req) (g : Nat) (u : UpItem) :
    ({ x.taking r with reqs := [] } : PortSt).push g u = x.answered g u := by
  simp [PortSt.taking, PortSt.push, PortSt.answered, PortSt.setGrp, PortSt.grp, hx]

/-- A request completes that its port has just taken, with registers written since. -/
theorem Ctl.OnlyFlds.finishReq_eq (h : (m.taking p r).OnlyFlds n l) (hq : m.Quiet) (ha : m.Answers p r.g)
    (hlane : n.get F.PA_LANE_DISABLED (p.idx * 16 + r.g) = m.get F.PA_LANE_DISABLED (p.idx * 16 + r.g))
    (hrh : r.rh = 0) (hwd : r.wd = 0) (ho : r.orphan = false) (status : Nat) (xt : Option Nat) :
    n.finishReq p r.pos status (xt := xt) = (n.counted p r status).setPort p ((m.port p).answered r.g
      (.cpl r.tag status xt false none r.session (.fresh r.admitted) r.accAt)) := by
  have hport : n.port p = (m.port p).taking r := (h.port p).trans (m.port_taking p r)
  obtain ⟨hawake, hon⟩ := ha
  have ha' : n.Answers p r.g := by
    refine ⟨?_, hlane.trans hon⟩
    rw [← hawake, Ctl.grp_eq, hport]
    rfl
  rw [Ctl.finishReq_alone (by rw [hport]; rfl) hrh hwd ho ha', hport, PortSt.answered_of_taking _ (hq.reqs p)]

/-- A completion that TEL counts nothing of changes its port alone. -/
theorem Ctl.OnlyFlds.finishReq (h : (m.taking p r).OnlyFlds n l) (hq : m.Quiet) (ha : m.Answers p r.g)
    (hlane : n.get F.PA_LANE_DISABLED (p.idx * 16 + r.g) = m.get F.PA_LANE_DISABLED (p.idx * 16 + r.g))
    (hrh : r.rh = 0) (hwd : r.wd = 0) (ho : r.orphan = false) {status : Nat} (hcount : 2 < r.op ∨ 1 < status) (xt : Option Nat) :
    (m.setPort p ((m.port p).answered r.g (.cpl r.tag status xt false none r.session (.fresh r.admitted) r.accAt))).OnlyFlds
      (n.finishReq p r.pos status (xt := xt)) l ∧ ∀ f i, (n.finishReq p r.pos status (xt := xt)).get f i = n.get f i := by
  rw [h.finishReq_eq hq ha hlane hrh hwd ho, Ctl.counted_none n p hcount]
  refine ⟨?_, fun f i => Ctl.get_setPort _ _ _ _ _⟩
  have hport := h.setPort p ((m.port p).answered r.g (.cpl r.tag status xt false none r.session (.fresh r.admitted) r.accAt))
  rw [Ctl.taking_setPort] at hport
  exact ((Ctl.OnlyFlds.noted m).setPort p _).trans hport

end

/-! ## The end of a command with a request in hand -/

/-- With no request that waits for its order nothing is performed. -/
theorem Ctl.drainOne_settled {m : Ctl} (h : m.Settled) (a : Arr) : m.drainOne a = none := by
  obtain ⟨hst, -⟩ := h
  have hport : ∀ p, m.drainPort a p = none := by
    intro p
    have hp : ∀ r ∈ (m.port p).reqs, r.st ≠ .waiting := fun r hr => hst r (by cases p <;> simp_all [Ctl.port])
    have hready : (m.port p).reqs.find? (fun r => reqReady (m.port p).line r) = none := by
      rw [List.find?_eq_none]
      intro r hr
      simp [reqReady, hp r hr]
    have hremote : (m.port p).reqs.findSome? (fun r => if remoteReady (m.port p).line r then m.sendRemote p r else none) = none := by
      rw [List.findSome?_eq_none_iff]
      intro r hr
      simp [remoteReady, hp r hr]
    simp only [Ctl.drainPort, hready, hremote]
  have hsvc : m.drainSvc a = none := by
    simp only [Ctl.drainSvc, Option.map_eq_none_iff, List.find?_eq_none, List.mem_map]
    rintro _ ⟨r, hr, rfl⟩
    have hr' : r.st ≠ .waiting := hst r (by simp [hr])
    simp [reqReady, hr']
  simp only [Ctl.drainOne, hport, hsvc]

/-- A command whose effect, the state `x`, leaves requests that wait for more than their order, raises no fault and changes no byte. -/
theorem run_settled {s : State} {g : Arr → Ctl → Ctl} {x : Ctl} (hx : g s.arr s.ctl.fresh = x) (h : x.Settled) (hr : x.raised = [])
    (he : x.edits = []) : run s g = { s with ctl := { x.drive with edits := [], raised := [] } } := by
  have hclean : x.Clean := h.2
  have hloop : ∀ k, Ctl.settleLoop k s.arr x = x := by
    intro k
    cases k with
    | zero => rfl
    | succ k => simp [Ctl.settleLoop, Ctl.drainOne_settled h, hr]
  simp only [run, hx, Ctl.settle, Ctl.codeResets_clean hclean, hloop, Ctl.bitmaps_clean hclean, Ctl.edits_drive, he, Arr.applyAll_nil]

/-- The next state of such a command. -/
theorem exec_of_settled {s : State} {c : Instr} {g : Arr → Ctl → Ctl} {x : Ctl} {l : List (Fld × Nat)}
    (hc : exec c s = .next (run s g)) (hx : g s.arr s.ctl.fresh = x) (h : x.Settled) (hr : x.raised = []) (he : x.edits = [])
    (hf : s.ctl.SameFlds x l) :
    ∃ t, exec c s = .next t ∧ Ends s t l x ∧ ∀ f i, fkey f i ≠ fkey F.FLT_STATUS_FAULTN 0 → t.ctl.get f i = x.get f i := by
  refine ⟨_, hc, ?_⟩
  rw [run_settled hx h hr he]
  refine ⟨⟨rfl, rfl, fun f i hn => ?_, Ctl.rest_of_drive x⟩, fun f i hn => Ctl.get_drive x f i hn⟩
  exact (hf.trans (Ctl.SameFlds.drive x)) f i (by simpa [or_comm] using hn)

/-- With nothing ahead of it a request is performed as soon as it waits for its order alone (R131, R133). -/
theorem reqReady_alone {r : Req} (hst : r.st = .waiting) (hop : (r.op = 2 ∧ r.dest = none) ∨ r.op ∈ [3, 4, 5, 6]) :
    reqReady [r] r = true := by
  simp only [List.mem_cons, List.not_mem_nil, or_false] at hop
  rcases hop with ⟨hop, hdest⟩ | hop | hop | hop | hop
  · simp [reqReady, hst, hop, hdest, orderBlocked]
  · simp [reqReady, hst, hop, fenceBlocked]
  · simp [reqReady, hst, hop, orderBlocked]
  · simp [reqReady, hst, hop, orderBlocked, writeBlocked]
  · simp [reqReady, hst, hop, orderBlocked, writeBlocked]

section
variable {m n : Ctl} {p : Port} {r : Req} {l : List (Fld × Nat)}

theorem Ctl.OnlyFlds.clean_of_taking (h : (m.taking p r).OnlyFlds n l) (hq : m.Quiet) : n.Clean := by
  have hparts : (n.pcs, n.mirs) = ((m.taking p r).pcs, (m.taking p r).mirs) := h.part (fun m => (m.pcs, m.mirs)) fun _ => rfl
  have hsame : ((m.taking p r).pcs, (m.taking p r).mirs) = (m.pcs, m.mirs) := by cases p <;> rfl
  rw [hsame, Prod.mk.injEq] at hparts
  obtain ⟨hpcs, hmirs⟩ := hparts
  obtain ⟨-, -, -, hclean⟩ := hq
  unfold Ctl.Clean
  rw [hpcs, hmirs]
  exact hclean

/-- The request that a port has just taken is the one that is performed. -/
theorem Ctl.OnlyFlds.drainOne_taking (h : (m.taking p r).OnlyFlds n l) (hq : m.Quiet) (hh : (m.port p).hdrs = [])
    (hready : reqReady [r] r = true) (a : Arr) : n.drainOne a = some (n.performReq a p r) := by
  have hport : n.port p = (m.port p).taking r := (h.port p).trans (m.port_taking p r)
  have hline : (n.port p).reqs = [r] ∧ (n.port p).line = [r] := by
    rw [hport]
    exact ⟨rfl, by simp [PortSt.line, PortSt.taking, hh]⟩
  have hdrain : n.drainPort a p = some (n.performReq a p r) := by
    simp [Ctl.drainPort, hline.1, hline.2, hready]
  cases p with
  | a => simp only [Ctl.drainOne, hdrain]
  | b =>
    have hother : (n.port .a).reqs = [] := by
      rw [h.port .a]
      exact hq.1
    have hnone : n.drainPort a .a = none := by simp only [Ctl.drainPort, hother, List.find?_nil, List.findSome?_nil]
    simp only [Ctl.drainOne, hnone, hdrain]

/-- A command whose effect leaves its port with a request that may be performed ends as one that performs it. -/
theorem run_performs {s : State} {g : Arr → Ctl → Ctl} {y : Ctl} (hx : g s.arr s.ctl.fresh = n)
    (h : (s.ctl.fresh.taking p r).OnlyFlds n l) (hq : s.ctl.Quiet) (hh : (s.ctl.port p).hdrs = []) (hready : reqReady [r] r = true)
    (hy : n.performReq s.arr p r = y) (hyq : y.Quiet) (hyr : y.raised = []) : run s g = run s fun _ _ => y := by
  have hdrain : n.drainOne s.arr = some y := by
    rw [h.drainOne_taking hq.fresh (by rw [Ctl.port_fresh]; exact hh) hready, hy]
  have hclean : y.Clean := hyq.2.2.2
  have hloop : Ctl.settleLoop (n.waitCount + 63 + 1) s.arr n = y := by
    rw [Ctl.settleLoop, hdrain]
    exact Ctl.settleLoop_done hyq hyr _ _
  have hsettle : n.settle s.arr = y.settle s.arr := by
    rw [Ctl.settle_quiet hyq hyr, Ctl.settle, Ctl.codeResets_clean (h.clean_of_taking hq.fresh), hloop, Ctl.bitmaps_clean hclean]
  simp only [run, hx, hsettle]

/-- The next state of such a command, where performing the request leaves the state `b` with registers written. -/
theorem exec_performs {s : State} {c : Instr} {g : Arr → Ctl → Ctl} {b y : Ctl} {l' : List (Fld × Nat)}
    (hc : exec c s = .next (run s g)) (hx : g s.arr s.ctl.fresh = n) (h : (s.ctl.fresh.taking p r).OnlyFlds n l)
    (hq : s.ctl.Quiet) (hh : (s.ctl.port p).hdrs = [])
    (hready : reqReady [r] r = true) (hy : n.performReq s.arr p r = y) (hb : b.OnlyFlds y l') (hbq : b.Quiet) (hbr : b.raised = [])
    (hbe : b.edits = []) (hbf : b.flds = s.ctl.flds) :
    ∃ t, exec c s = .next t ∧ Ends s t l' b ∧ ∀ f i, fkey f i ≠ fkey F.FLT_STATUS_FAULTN 0 → t.ctl.get f i = y.get f i := by
  have hrun := run_performs hx h hq hh hready hy (hb.quiet hbq) (hb.raised.trans hbr)
  obtain ⟨t, ht, hends, hget⟩ := exec_of_effect (g := fun _ _ => y) (hc.trans (congrArg _ hrun)) rfl (hb.quiet hbq)
    (hb.raised.trans hbr) (hb.edits.trans hbe) fun f i hf => (hb.flds f i hf).trans (Ctl.get_congr hbf f i)
  exact ⟨t, ht, hends.of_rest hb.rest, hget⟩

/-! ## What a performed request does -/

/-- A fence and a masked write without enabled bytes only complete (R116, R133). -/
theorem Ctl.performReq_done (m : Ctl) (a : Arr) (p : Port) (h : r.op = 2 ∨ r.op = 3) :
    m.performReq a p r = m.finishReq p r.pos stOk := by
  rcases h with h | h <;> simp only [Ctl.performReq, h]

/-- A config read completes with what it read (R118). -/
theorem Ctl.performReq_read {a : Arr} {v : Nat} (h : r.op = 4) (hread : m.regRead { master := p.master } r.addr = (v, n)) :
    m.performReq a p r = n.finishReq p r.pos stOk (xt := some v) := by
  simp only [Ctl.performReq, h, hread]

/-- A config write and a doorbell complete with the status of the write (R118, R119). -/
theorem Ctl.performReq_write {a : Arr} {status : Nat} (h : r.op = 5 ∨ r.op = 6)
    (hwrite : m.regWrite a p.master r.addr r.value = (status, n)) : m.performReq a p r = n.finishReq p r.pos status := by
  rcases h with h | h <;> simp only [Ctl.performReq, h, hwrite]

end

end Sys2Proof.Machine
end

section
/-!
Malformed reads and writes (R114, R116, R136).
-/

namespace Sys2Proof.Machine

/-- The causes of BAD_REQUEST that a user access can have by itself (R114, R116, R136). -/
def userErrs : List Fld := [F.PA_REQERR_ALIGN, F.PA_REQERR_RANGE, F.PA_REQERR_MASK_FORM]

theorem mem_userErrs {f : Fld} (h : f ∈ userErrs) : f.id ∈ [61, 62, 63] ∧ f.width = 1 := by
  simp only [userErrs, List.mem_cons, List.not_mem_nil, or_false] at h
  rcases h with rfl | rfl | rfl <;> decide

theorem userErrs_ext {f g : Fld} (hf : f ∈ userErrs) (hg : g ∈ userErrs) (h : g.id = f.id) : g = f :=
  List.inj_on_of_nodup_map (f := Fld.id) (by decide) hg hf h

/-- The faults of a user access, in the order of the header's checks. -/
theorem Req.faults_user {r : Req} (ho : r.op ≤ 2) (ha : r.addr < 2 ^ 37) (masked : Bool) :
    r.faults false masked =
      (if r.addr % r.len ≠ 0 then [F.PA_REQERR_ALIGN] else []) ++
        (if 2 ^ 37 < r.addr + r.len then [F.PA_REQERR_RANGE] else []) ++
        (if r.op = 2 ∧ (masked = false ∨ 64 < r.len) then [F.PA_REQERR_MASK_FORM] else []) := by
  have hrange : badRange r.addr r.len = true ↔ 2 ^ 37 < r.addr + r.len := by
    simp only [badRange, Bool.or_eq_true, decide_eq_true_eq]
    omega
  have hmask : (decide (r.op = 2) && (!masked || decide (64 < r.len))) = true ↔ r.op = 2 ∧ (masked = false ∨ 64 < r.len) := by
    simp
  have hop : ¬ 7 ≤ r.op := by omega
  simp only [Req.faults, hop, ho, if_true, if_false, hrange, hmask, bne_iff_ne, Bool.false_eq_true]
  split_ifs <;> rfl

/-- Showing causes writes their fields only. -/
theorem Ctl.OnlyFlds.setAll (m : Ctl) (fs : List Fld) (i : Nat) :
    m.OnlyFlds (fs.foldl (fun n f => n.set f i 1) m) (fs.map fun f => (f, i)) := by
  induction fs generalizing m with
  | nil => exact .refl m
  | cons f fs ih => exact (Ctl.OnlyFlds.set m f i 1).trans (ih _)

/-- Every cause that is shown reads 1. -/
theorem Ctl.get_setAll {fs : List Fld} (hfs : ∀ f ∈ fs, f ∈ userErrs) {f : Fld} (hf : f ∈ userErrs) (m : Ctl) (i : Nat)
    (h : f ∈ fs ∨ m.get f i = 1) : (fs.foldl (fun n f => n.set f i 1) m).get f i = 1 := by
  induction fs generalizing m with
  | nil => exact h.resolve_left (by simp)
  | cons g fs ih =>
    refine ih (fun e he => hfs e (by simp [he])) _ ?_
    by_cases hid : g.id = f.id
    · obtain rfl := userErrs_ext hf (hfs g (by simp)) hid
      exact .inr (by rw [Ctl.get_set_same, (mem_userErrs hf).2]; rfl)
    · refine h.imp (fun hmem => ?_) fun hone => ?_
      · rcases List.mem_cons.mp hmem with rfl | hmem
        · exact absurd rfl hid
        · exact hmem
      · rw [Ctl.get_set_other _ _ _ _ _ _ (by simp only [fkey]; omega), hone]

section
variable {s : State} {c : Instr} {p : Port} {g : Fin 16} {tag : BitVec 14} {session : BitVec 18} {addr : BitVec 37} {size : ReqSize}
  {data : List Byte} {payload : Option (List Byte)} {be : Option Nat} {op : Nat} {fs : List Fld}

/-- A malformed user access is refused as it arrives, and nothing else happens. -/
theorem exec_malformed
    (hc : exec c s = .next (run s fun _ m =>
      m.header p g.val (userHeader op size tag.toNat session.toNat addr.toNat) payload be))
    (hop : op ≤ 2) (hr : s.ctl.Ready p g.val tag.toNat) (hans : s.ctl.Answers p g.val)
    (hfs : fs = (if addr.toNat % size.bytes ≠ 0 then [F.PA_REQERR_ALIGN] else []) ++
        (if 2 ^ 37 < addr.toNat + size.bytes then [F.PA_REQERR_RANGE] else []) ++
        (if op = 2 ∧ (be.isSome = false ∨ 64 < size.bytes) then [F.PA_REQERR_MASK_FORM] else []))
    (hne : fs ≠ []) :
    ∃ t, exec c s = .next t ∧
      Ends s t (fs.map fun f => (f, p.idx)) (s.ctl.setPort p ((s.ctl.port p).answered g.val
        (.cpl tag.toNat 8 none false none session.toNat (.fresh false) s.ctl.now))) ∧ ∀ f ∈ fs, t.ctl.get f p.idx = 1 := by
  obtain ⟨hbop, hbtag, hbr⟩ := s.ctl.fresh.brought_user p g.val size (payload.getD []) be hop tag.isLt session.isLt addr.isLt
  obtain ⟨r, hrdef⟩ : ∃ r, r = userRequest (s.ctl.port p).nextPos g.val op tag.toNat session.toNat addr.toNat s.ctl.now size
      (payload.getD []) be := ⟨_, rfl⟩
  rw [Ctl.port_fresh, Ctl.fresh_now, ← hrdef] at hbr
  have hfaults : r.faults false be.isSome = fs := by
    rw [Req.faults_user (by rw [hrdef]; exact hop) (by rw [hrdef]; exact addr.isLt), hfs, hrdef]
    rfl
  have herrs : ∀ f ∈ fs, f ∈ userErrs := by
    intro f hf
    rw [hfs] at hf
    simp only [userErrs, List.mem_append] at hf ⊢
    rcases hf with (hf | hf) | hf <;> · split at hf <;> simp_all
  have hready := hr.fresh
  have hheader := Ctl.header_brought (hbtag.symm ▸ hready) hbr
  rw [hfaults, if_neg (by simpa using hne)] at hheader
  have honly := Ctl.OnlyFlds.setAll (s.ctl.fresh.taking p r) fs p.idx
  have hlane := honly.flds.get_eq (f := F.PA_LANE_DISABLED) (i := p.idx * 16 + r.g) (fun e he => by
    obtain ⟨f, hf, rfl⟩ := List.mem_map.mp he
    obtain ⟨hid, -⟩ := mem_userErrs (herrs f hf)
    refine ⟨fun h => ?_, p.copy_lt⟩
    rw [← h] at hid
    exact absurd hid (by decide)) (by rw [hrdef]; exact p.lane_lt g)
  have hparts : r.rh = 0 ∧ r.wd = 0 ∧ r.orphan = false ∧ r.admitted = false ∧ r.tag = tag.toNat ∧ r.session = session.toNat ∧
      r.g = g.val ∧ r.accAt = s.ctl.now := by
    rw [hrdef]
    exact ⟨rfl, rfl, rfl, rfl, rfl, rfl, rfl, rfl⟩
  obtain ⟨hrh, hwd, horphan, hadm, htag, hses, hg, hacc⟩ := hparts
  obtain ⟨hends, hget⟩ := honly.finishReq hr.quiet.fresh (by rw [hg]; exact hans.fresh) (by rw [hlane, Ctl.get_taking]) hrh hwd
    horphan (.inr (by decide) : 2 < r.op ∨ 1 < stBadRequest) none
  rw [Ctl.port_fresh, hg, htag, hses, hadm, hacc] at hends
  obtain ⟨t, ht, htends, htget⟩ := exec_of_port hc hheader hends hr.quiet (hr.quiet.reqs p)
  refine ⟨t, ht, htends, fun f hf => ?_⟩
  have hid := (mem_userErrs (herrs f hf)).1
  rw [htget f p.idx (fun h => by rw [h] at hid; exact absurd hid (by decide)) p.copy_lt, hget]
  exact Ctl.get_setAll herrs (herrs f hf) _ _ (.inl hf)

end

end Sys2Proof.Machine

namespace Sys2Proof.RequestsAndOrdering

open Sys2Proof.Machine

/-- Settles O25: the three commands differ only in the header that they bring, and it is refused before anything else is judged. -/
theorem badUserRequests : Obligations.BadUserRequests := by
  unfold Obligations.BadUserRequests
  intro s p g tag session addr size data be causes masked refused hready hanswers hlen
  refine ⟨fun hne => ⟨?_, ?_⟩, fun hne => ?_⟩
  · exact exec_malformed (op := 0) (payload := none) (be := none) rfl (by decide) hready hanswers (by simp [causes]) hne
  · exact exec_malformed (op := 1) (payload := some data) (be := none) (if_pos hlen) (by decide) hready hanswers
      (by simp [causes]) hne
  · refine exec_malformed (op := 2) (payload := some data) (be := be.map BitVec.toNat) (if_pos hlen) (by decide) hready hanswers ?_ hne
    simp [masked, causes]

end Sys2Proof.RequestsAndOrdering
end

section
/-!
Config space as a port reads and writes it (R118, R276): the copies of a register, what a read shows, what a store of a register's parts
leaves, and the doorbell (R240).
-/

namespace Sys2Proof.Machine

/-! ## Register copies -/

/-- How many copies a register has. -/
def RegDef.copyCount (d : RegDef) : Nat := (d.dims.map (·.1)).prod

theorem copyAt_lt {dims : List (Nat × Nat)} {off i j : Nat} (h : copyAt dims off i = some j) :
    j < (i + 1) * (dims.map (·.1)).prod := by
  induction dims generalizing off i with
  | nil =>
    simp only [copyAt] at h
    split at h
    · injection h with h
      simp [h]
    · exact absurd h (by simp)
  | cons e dims ih =>
    obtain ⟨count, stride⟩ := e
    simp only [copyAt] at h
    split at h
    · next hlt =>
      refine (ih h).trans_le ?_
      rw [List.map_cons, List.prod_cons, ← Nat.mul_assoc]
      refine Nat.mul_le_mul_right _ ?_
      rw [Nat.add_mul, Nat.one_mul, Nat.add_assoc]
      exact Nat.add_le_add_left hlt _
    · exact absurd h (by simp)

/-- What is found at an address is a copy that its register has. -/
theorem findReg_some {addr : Nat} {d : RegDef} {i : Nat} (h : findReg addr = some (d, i)) : d ∈ regList ∧ i < d.copyCount := by
  obtain ⟨e, he, hat⟩ := List.exists_of_findSome?_eq_some h
  obtain ⟨j, hj, hpair⟩ := Option.map_eq_some_iff.mp hat
  obtain ⟨rfl, rfl⟩ := Prod.mk.inj hpair
  refine ⟨he, ?_⟩
  unfold RegDef.at? at hj
  split at hj
  · exact absurd hj (by simp)
  · simpa [RegDef.copyCount] using copyAt_lt hj

/-- Config space only reads `PA_LANE.DISABLED`, and the key of no other part of a register reaches beyond the copies of its field. -/
theorem regList_laneDisabled : ∀ d ∈ regList, ∀ q ∈ d.parts,
    q.acc = .ro ∨ (q.fld.id ≠ F.PA_LANE_DISABLED.id ∧ (d.copyCount - 1) * q.mul + q.add < 1048576) := by
  decide +kernel

/-! ## Reading -/

/-- A read of a register without side effects carries its value. -/
theorem Ctl.regRead_plain (m : Ctl) (x : Reader) {addr : Nat} {d : RegDef} {i : Nat} (h : findReg addr = some (d, i))
    (hmsix : inMsix addr = false) (hclaim : d.reg ≠ .SEM_CLAIM) (hlow : isPairLow d.reg = false) (hhigh : isPairHigh d.reg = false) :
    m.regRead x addr = (m.regValue d i, m) := by
  simp [Ctl.regRead, hmsix, Ctl.readAt, h, hclaim, hlow, hhigh]

/-- No field shows the requests of a port. -/
theorem views_taking (m : Ctl) (p : Port) (r : Req) (i : Nat) : ∀ e ∈ views, e.2 (m.fresh.taking p r) i = e.2 m i :=
  List.map_inj_left.mp (by cases p <;> rfl)

theorem Ctl.shown_taking (m : Ctl) (p : Port) (r : Req) (f : Fld) (i : Nat) : (m.fresh.taking p r).shown f i = m.shown f i := by
  unfold Ctl.shown
  cases hv : views.find? fun e => e.1 == f.id with
  | none => cases p <;> rfl
  | some e => exact views_taking m p r i e (List.mem_of_find?_eq_some hv)

/-- A command reads a register as the state before it shows it. -/
theorem Ctl.regValue_taking (m : Ctl) (p : Port) (r : Req) (d : RegDef) (i : Nat) :
    (m.fresh.taking p r).regValue d i = m.regValue d i := by
  simp only [Ctl.regValue, Ctl.partValue, Ctl.shown_taking]

/-! ## Storing the parts of a register -/

/-- What a store leaves in the field of a part, where it is writable (R7). -/
def Part.stored (q : Part) (old v : Nat) : Option Nat :=
  match q.acc with
  | .rw => some (partNew q old v)
  | .rws => some (old ||| (bits v q.lo (q.hi - q.lo + 1) * 2 ^ q.vlo))
  | .w1c => some (old &&& (2 ^ q.fld.width - 1 ^^^ (bits v q.lo (q.hi - q.lo + 1) * 2 ^ q.vlo)))
  | .ro | .wo => none

/-- A store of one part. -/
def Ctl.storePart (m : Ctl) (i v : Nat) (q : Part) : Ctl :=
  (q.stored (m.get q.fld (i * q.mul + q.add)) v).elim m (m.set q.fld (i * q.mul + q.add))

theorem Ctl.storeParts_cons (m : Ctl) (i v : Nat) (q : Part) (qs : List Part) :
    m.storeParts i v (q :: qs) = (m.storePart i v q).storeParts i v qs := by
  unfold Ctl.storePart Part.stored
  rw [Ctl.storeParts]
  cases q.acc <;> rfl

/-- A store writes the fields of its register's parts only. -/
theorem Ctl.OnlyFlds.storeParts (m : Ctl) (i v : Nat) (qs : List Part) :
    m.OnlyFlds (m.storeParts i v qs) (qs.map fun q => (q.fld, i * q.mul + q.add)) := by
  induction qs generalizing m with
  | nil => exact .refl m
  | cons q qs ih =>
    rw [Ctl.storeParts_cons]
    have hpart : m.OnlyFlds (m.storePart i v q) [(q.fld, i * q.mul + q.add)] := by
      unfold Ctl.storePart
      cases q.stored (m.get q.fld (i * q.mul + q.add)) v with
      | none => exact (Ctl.OnlyFlds.refl m).mono (by simp)
      | some w => exact .set m _ _ w
    exact hpart.trans (ih _)

/-- A field of which every part is read-only is left as it is. -/
theorem Ctl.get_storeParts_readOnly {f : Fld} {k i : Nat} {qs : List Part}
    (h : ∀ q ∈ qs, q.acc = .ro ∨ fkey f k ≠ fkey q.fld (i * q.mul + q.add)) (m : Ctl) (v : Nat) :
    (m.storeParts i v qs).get f k = m.get f k := by
  induction qs generalizing m with
  | nil => rfl
  | cons q qs ih =>
    rw [Ctl.storeParts_cons, ih fun q' hq' => h q' (by simp [hq'])]
    unfold Ctl.storePart
    cases hw : q.stored (m.get q.fld (i * q.mul + q.add)) v with
    | none => rfl
    | some w =>
      rcases h q (by simp) with hro | hkey
      · simp [Part.stored, hro] at hw
      · exact Ctl.get_set_other _ _ _ _ _ _ hkey

/-- What a store leaves is a matter of the register fields. -/
theorem Ctl.storeParts_congr {m n : Ctl} (h : n.flds = m.flds) (i v : Nat) (qs : List Part) :
    (n.storeParts i v qs).flds = (m.storeParts i v qs).flds := by
  induction qs generalizing m n with
  | nil => exact h
  | cons q qs ih =>
    rw [Ctl.storeParts_cons, Ctl.storeParts_cons]
    refine ih ?_
    unfold Ctl.storePart
    rw [Ctl.get_congr h]
    cases q.stored (m.get q.fld (i * q.mul + q.add)) v with
    | none => exact h
    | some w => simp [Ctl.set, h]

/-- Config space disables no pair. -/
theorem Ctl.get_storeParts_lane {addr i : Nat} {d : RegDef} (h : findReg addr = some (d, i)) (p : Port) (g : Fin 16) (m : Ctl) (v : Nat) :
    (m.storeParts i v d.parts).get F.PA_LANE_DISABLED (p.idx * 16 + g.val) = m.get F.PA_LANE_DISABLED (p.idx * 16 + g.val) := by
  obtain ⟨hd, hi⟩ := findReg_some h
  refine Ctl.get_storeParts_readOnly (fun q hq => (regList_laneDisabled d hd q hq).imp_right fun ⟨hid, hlast⟩ => ?_) m v
  have hcopy : i * q.mul + q.add ≤ (d.copyCount - 1) * q.mul + q.add :=
    Nat.add_le_add_right (Nat.mul_le_mul_right _ (Nat.le_sub_one_of_lt hi)) _
  exact fkey_ne hid.symm (p.lane_lt g) (hcopy.trans_lt hlast)

/-! ## The doorbell -/

/-- An accepted doorbell moves `PROD`, and starts a ring that is idle (R240). -/
theorem Ctl.doorbell_accepted {m : Ctl} {r v : Nat} (hon : m.ringState r ≠ rsDisabled) (hnew : v % 131072 ≠ m.get F.RING_PROD_PROD r)
    (hroom : ixSub (v % 131072) (m.get F.RING_PROD_PROD r) + ixSub (m.get F.RING_PROD_PROD r) (m.get F.RING_CONS_CONS r) ≤
      m.ringSize r) :
    m.OnlyFlds (m.doorbell r v) [(F.RING_PROD_PROD, r), (F.RING_STATUS_STATE, r)] ∧
      (m.doorbell r v).get F.RING_PROD_PROD r = v % 131072 ∧
      (m.doorbell r v).ringState r = if m.ringState r = rsIdle then rsRunning else m.ringState r := by
  have hstate : (m.set F.RING_PROD_PROD r (v % 131072)).ringState r = m.ringState r :=
    Ctl.get_set_other _ _ _ _ _ _ (by simp only [fkey, F.RING_STATUS_STATE, F.RING_PROD_PROD]; omega)
  have hwidth : v % 131072 % 2 ^ F.RING_PROD_PROD.width = v % 131072 := Nat.mod_mod _ _
  have hset := Ctl.OnlyFlds.set m F.RING_PROD_PROD r (v % 131072)
  have hbell : m.doorbell r v = if m.ringState r = rsIdle then
      (m.set F.RING_PROD_PROD r (v % 131072)).set F.RING_STATUS_STATE r rsRunning else m.set F.RING_PROD_PROD r (v % 131072) := by
    simp [Ctl.doorbell, hnew, hon, hroom, hstate]
  rw [hbell]
  by_cases hidle : m.ringState r = rsIdle
  · rw [if_pos hidle, if_pos hidle]
    refine ⟨hset.trans (.set _ _ _ _), ?_, Ctl.get_set_same _ _ _ _⟩
    rw [Ctl.get_set_other _ _ _ _ _ _ (by simp only [fkey, F.RING_STATUS_STATE, F.RING_PROD_PROD]; omega), Ctl.get_set_same, hwidth]
  · rw [if_neg hidle, if_neg hidle]
    exact ⟨hset.mono (by simp), by rw [Ctl.get_set_same, hwidth], hstate⟩

/-- A doorbell page is that of a ring. -/
theorem doorbellRing_lt {addr r : Nat} (h : doorbellRing addr = some r) : r < 160 := by
  unfold doorbellRing at h
  split at h
  · next hpage =>
    injection h with h
    simp only [Bool.and_eq_true, decide_eq_true_eq] at hpage
    omega
  · exact absurd h (by simp)

end Sys2Proof.Machine
end

section
/-!
A fence, a config access and a doorbell of a port with nothing ahead of them (R118, R119, R133).
-/

namespace Sys2Proof.Machine

/-- What a config write stores of a register that any master may write (R276). -/
theorem Ctl.regWrite_status (m : Ctl) (a : Arr) (x : Master) {addr : Nat} {d : RegDef} {i : Nat} (v : Nat)
    (h : findReg addr = some (d, i)) (hbell : doorbellRing addr = none) (hmsix : inMsix addr = false) (hring : isRing d.reg = false)
    (hkind : d.kind = .status) : m.regWrite a x addr v = (stOk, m.storeParts i v d.parts) := by
  simp [Ctl.regWrite, hbell, hmsix, Ctl.writeAt, h, hring, hkind]

/-- A setup register is written by the owner alone (R276). -/
theorem Ctl.regWrite_notOwner (m : Ctl) (a : Arr) {x : Master} {addr : Nat} {d : RegDef} {i : Nat} (v : Nat)
    (h : findReg addr = some (d, i)) (hbell : doorbellRing addr = none) (hmsix : inMsix addr = false) (hring : isRing d.reg = false)
    (hkind : d.kind = .setup) (howner : m.owner ≠ x.code) : m.regWrite a x addr v = (stNotOwner, m) := by
  simp [Ctl.regWrite, hbell, hmsix, Ctl.writeAt, h, hring, hkind, howner]

/-- A doorbell page acts for the master of its ring (R485). -/
theorem Ctl.regWrite_doorbell (m : Ctl) (a : Arr) {x : Master} {addr r : Nat} (v : Nat) (h : doorbellRing addr = some r)
    (hmaster : ringMaster r = x.code) : m.regWrite a x addr v = (stOk, m.doorbell r v) := by
  simp [Ctl.regWrite, h, hmaster]

theorem Port.master_code (p : Port) : p.master.code = p.idx + 1 := by cases p <;> rfl

section
variable {s : State} {c : Instr} {p : Port} {g : Fin 16} {op : Nat} {tag : BitVec 14} {session : BitVec 18} {caddr : BitVec 24}
  {data : BitVec 32}

/-- The request of a config header that a command brings. -/
def Ctl.configBrought (m : Ctl) (p : Port) (g : Fin 16) (op : Nat) (tag : BitVec 14) (session : BitVec 18) (caddr : BitVec 24)
    (data : BitVec 32) : Req :=
  configReq (m.port p).nextPos g.val op tag.toNat session.toNat caddr.toNat data.toNat m.now

theorem Ctl.configBrought_value (m : Ctl) (p : Port) (g : Fin 16) (hop : op < 16) :
    (m.configBrought p g op tag session caddr data).value = data.toNat :=
  configReq_value _ _ _ _ _ _ _ _ hop tag.isLt session.isLt caddr.isLt data.isLt

/-- A config access, a doorbell or a fence without faults is performed within its command. Performing it is the writing of registers, from
which the state `n` results, and a completion. -/
theorem exec_configPerformed {n : Ctl} {l : List (Fld × Nat)} {status : Nat} {xt : Option Nat}
    (hc : exec c s = .next (run s fun _ m =>
      m.header p g.val (configHeader op tag.toNat session.toNat caddr.toNat data.toNat) none none))
    (hop : op ∈ [3, 4, 5, 6]) (hfence : op = 3 → session = 0 ∧ caddr = 0)
    (hr : s.ctl.Ready p g.val tag.toNat) (hans : s.ctl.Answers p g.val)
    (hfaults : (s.ctl.configBrought p g op tag session caddr data).faults false false = [])
    (hn : (s.ctl.fresh.taking p (s.ctl.configBrought p g op tag session caddr data)).OnlyFlds n l)
    (hlane : n.get F.PA_LANE_DISABLED (p.idx * 16 + g.val) = s.ctl.get F.PA_LANE_DISABLED (p.idx * 16 + g.val))
    (hperform : (s.ctl.fresh.taking p (s.ctl.configBrought p g op tag session caddr data)).performReq s.arr p
        (s.ctl.configBrought p g op tag session caddr data) =
      n.finishReq p (s.ctl.configBrought p g op tag session caddr data).pos status (xt := xt)) :
    ∃ t, exec c s = .next t ∧
      Ends s t l (s.ctl.setPort p ((s.ctl.port p).answered g.val
        (.cpl tag.toNat status xt false none session.toNat (.fresh false) s.ctl.now))) ∧
      ∀ f i, fkey f i ≠ fkey F.FLT_STATUS_FAULTN 0 → t.ctl.get f i = n.get f i := by
  have hrange : 2 < op ∧ op < 7 := by
    simp only [List.mem_cons, List.not_mem_nil, or_false] at hop
    omega
  obtain ⟨hbop, hbtag, hbr⟩ := s.ctl.fresh.brought_config p g.val (data := data.toNat) hrange tag.isLt session.isLt caddr.isLt
    fun h => by obtain ⟨rfl, rfl⟩ := hfence h; exact ⟨rfl, rfl⟩
  rw [Ctl.port_fresh, Ctl.fresh_now] at hbr
  have hheader := Ctl.header_brought (payload := none) (be := none) (hbtag.symm ▸ hr.fresh) hbr
  obtain ⟨r, hrdef⟩ : ∃ r, r = s.ctl.configBrought p g op tag session caddr data := ⟨_, rfl⟩
  have hparts : r.st = .waiting ∧ r.op = op ∧ r.rh = 0 ∧ r.wd = 0 ∧ r.orphan = false ∧ r.admitted = false ∧ r.tag = tag.toNat ∧
      r.session = session.toNat ∧ r.g = g.val ∧ r.accAt = s.ctl.now := by
    rw [hrdef]
    exact ⟨rfl, rfl, rfl, rfl, rfl, rfl, rfl, rfl, rfl, rfl⟩
  obtain ⟨hst, hrop, hrh, hwd, horphan, hadm, htag, hses, hg, hacc⟩ := hparts
  rw [← hrdef] at hfaults hn hperform
  have heffect : s.ctl.fresh.header p g.val (configHeader op tag.toNat session.toNat caddr.toNat data.toNat) none none =
      s.ctl.fresh.taking p r := by
    rw [hheader, ← Ctl.configBrought, ← hrdef, hbop, if_pos (by rw [Option.isSome_none, hfaults]; rfl), if_neg (by omega)]
  obtain ⟨hends, hget⟩ := hn.finishReq hr.quiet.fresh (by rw [hg]; exact hans.fresh) (by rw [hg]; exact hlane) hrh hwd horphan
    (.inl (by omega) : 2 < r.op ∨ 1 < status) xt
  rw [Ctl.port_fresh, hg, htag, hses, hadm, hacc] at hends
  obtain ⟨t, ht, htends, htget⟩ := exec_performs hc heffect (Ctl.OnlyFlds.refl _) hr.quiet hr.hdrs
    (reqReady_alone hst (.inr (hrop ▸ hop))) hperform hends (hr.quiet.fresh.setPort p (hr.quiet.reqs p)) (Ctl.setPort_raised _ _ _)
    (Ctl.setPort_edits _ _ _) (Ctl.setPort_flds _ _ _)
  refine ⟨t, ht, htends.of_rest ?_, fun f i hf => (htget f i hf).trans (hget f i)⟩
  rw [Ctl.rest_setPort, Ctl.rest_setPort, Ctl.rest_of_fresh]

/-- An aligned config access in an assigned range has no fault. -/
theorem Ctl.configBrought_faults (m : Ctl) (p : Port) (g : Fin 16) (hop : op = 4 ∨ op = 5) (hal : caddr.toNat % 4 = 0)
    (hgap : configGap caddr.toNat 4 = false) : (m.configBrought p g op tag session caddr data).faults false false = [] := by
  rcases hop with rfl | rfl <;> simp [Ctl.configBrought, configReq, Req.faults, hal, hgap]

/-- A fence completes. -/
theorem exec_fence (hr : s.ctl.Ready p g.val tag.toNat) (hans : s.ctl.Answers p g.val) :
    ∃ t, exec (.fence p g tag) s = .next t ∧
      Ends s t [] (s.ctl.setPort p ((s.ctl.port p).answered g.val (.cpl tag.toNat 0 none false none 0 (.fresh false) s.ctl.now))) := by
  obtain ⟨t, ht, hends, -⟩ := exec_configPerformed (c := .fence p g tag) (op := 3) (session := 0) (caddr := 0) (data := 0) rfl (by simp)
    (fun _ => ⟨rfl, rfl⟩) hr hans rfl (Ctl.OnlyFlds.refl _) (Ctl.get_taking _ _ _ _ _) (Ctl.performReq_done _ _ _ (.inr rfl))
  exact ⟨t, ht, hends⟩

/-- A config read completes with the value of its register. -/
theorem exec_configRead {d : RegDef} {i : Nat} (hr : s.ctl.Ready p g.val tag.toNat) (hans : s.ctl.Answers p g.val)
    (hreg : findReg caddr.toNat = some (d, i)) (hal : caddr.toNat % 4 = 0) (hgap : configGap caddr.toNat 4 = false)
    (hmsix : inMsix caddr.toNat = false) (hclaim : d.reg ≠ .SEM_CLAIM) (hlow : isPairLow d.reg = false)
    (hhigh : isPairHigh d.reg = false) :
    ∃ t, exec (.configRead p g tag session caddr) s = .next t ∧
      Ends s t [] (s.ctl.setPort p ((s.ctl.port p).answered g.val
        (.cpl tag.toNat 0 (some (s.ctl.regValue d i)) false none session.toNat (.fresh false) s.ctl.now))) := by
  have hread := fun m : Ctl => m.regRead_plain { master := p.master } hreg hmsix hclaim hlow hhigh
  obtain ⟨t, ht, hends, -⟩ := exec_configPerformed (c := .configRead p g tag session caddr) (op := 4) (data := 0) (status := stOk)
    (xt := some (s.ctl.regValue d i)) rfl (by simp) (by simp) hr hans (s.ctl.configBrought_faults p g (.inl rfl) hal hgap)
    (Ctl.OnlyFlds.refl _) (Ctl.get_taking _ _ _ _ _)
    (Ctl.performReq_read rfl ((hread _).trans (by rw [Ctl.regValue_taking])))
  exact ⟨t, ht, hends⟩

/-- A config write of a port completes with the status of the write. -/
theorem exec_configWrite {n : Ctl} {l : List (Fld × Nat)} {status : Nat} (hr : s.ctl.Ready p g.val tag.toNat)
    (hans : s.ctl.Answers p g.val) (hal : caddr.toNat % 4 = 0) (hgap : configGap caddr.toNat 4 = false)
    (hn : (s.ctl.fresh.taking p (s.ctl.configBrought p g 5 tag session caddr data)).OnlyFlds n l)
    (hlane : n.get F.PA_LANE_DISABLED (p.idx * 16 + g.val) = s.ctl.get F.PA_LANE_DISABLED (p.idx * 16 + g.val))
    (hwrite : (s.ctl.fresh.taking p (s.ctl.configBrought p g 5 tag session caddr data)).regWrite s.arr p.master caddr.toNat
      data.toNat = (status, n)) :
    ∃ t, exec (.configWrite p g tag session caddr data) s = .next t ∧
      Ends s t l (s.ctl.setPort p ((s.ctl.port p).answered g.val
        (.cpl tag.toNat status none false none session.toNat (.fresh false) s.ctl.now))) ∧
      ∀ f i, fkey f i ≠ fkey F.FLT_STATUS_FAULTN 0 → t.ctl.get f i = n.get f i := by
  refine exec_configPerformed (c := .configWrite p g tag session caddr data) (op := 5) rfl (by simp) (by simp) hr hans
    (s.ctl.configBrought_faults p g (.inr rfl) hal hgap) hn hlane (Ctl.performReq_write (.inl rfl) ?_)
  rw [s.ctl.configBrought_value p g (by decide)]
  exact hwrite

/-- A doorbell of a port's own ring that is accepted moves `PROD` (R240). -/
theorem exec_doorbell {r : Nat} (hr : s.ctl.Ready p g.val tag.toNat) (hans : s.ctl.Answers p g.val)
    (hbell : doorbellRing caddr.toNat = some r) (hmaster : ringMaster r = p.idx + 1) (hal : caddr.toNat % 4 = 0)
    (hon : s.ctl.ringState r ≠ 0) (hnew : data.toNat % 131072 ≠ s.ctl.get F.RING_PROD_PROD r)
    (hroom : ixSub (data.toNat % 131072) (s.ctl.get F.RING_PROD_PROD r) +
      ixSub (s.ctl.get F.RING_PROD_PROD r) (s.ctl.get F.RING_CONS_CONS r) ≤ s.ctl.ringSize r) :
    ∃ t, exec (.doorbell p g tag session caddr data) s = .next t ∧
      Ends s t [(F.RING_PROD_PROD, r), (F.RING_STATUS_STATE, r)] (s.ctl.setPort p ((s.ctl.port p).answered g.val
        (.cpl tag.toNat 0 none false none session.toNat (.fresh false) s.ctl.now))) ∧
      t.ctl.get F.RING_PROD_PROD r = data.toNat % 131072 ∧
      t.ctl.ringState r = if s.ctl.ringState r = 1 then 2 else s.ctl.ringState r := by
  have hcopy : r < 1048576 := (doorbellRing_lt hbell).trans (by decide)
  obtain ⟨q, hq⟩ : ∃ q, q = s.ctl.configBrought p g 6 tag session caddr data := ⟨_, rfl⟩
  have hsame : ∀ f i, (s.ctl.fresh.taking p q).get f i = s.ctl.get f i := fun f i => Ctl.get_taking _ _ _ _ _
  have hstate : (s.ctl.fresh.taking p q).ringState r = s.ctl.ringState r := hsame _ _
  have hsize : (s.ctl.fresh.taking p q).ringSize r = s.ctl.ringSize r := by simp only [Ctl.ringSize, hsame]
  obtain ⟨hn, hprod, hstarted⟩ := Ctl.doorbell_accepted (m := s.ctl.fresh.taking p q) (r := r) (v := data.toNat)
    (by rw [hstate]; exact hon) (by rw [hsame]; exact hnew) (by rw [hsame, hsame, hsize]; exact hroom)
  have hlane := hn.flds.get_eq (f := F.PA_LANE_DISABLED) (i := p.idx * 16 + g.val)
    (by simpa [hcopy] using ⟨by decide, by decide⟩) (p.lane_lt g)
  rw [hq] at hn hlane
  obtain ⟨t, ht, hends, hget⟩ := exec_configPerformed (c := .doorbell p g tag session caddr data) (op := 6) (data := data)
    (status := stOk) (xt := none) rfl (by simp) (by simp) hr hans
    (by simp [Ctl.configBrought, configReq, Req.faults, hal, hbell]) hn (hlane.trans (Ctl.get_taking _ _ _ _ _))
    (Ctl.performReq_write (.inr rfl) (by
      rw [s.ctl.configBrought_value p g (by decide)]
      exact Ctl.regWrite_doorbell _ _ _ hbell (hmaster.trans (Port.master_code p).symm)))
  rw [← hq] at hget
  refine ⟨t, ht, hends, ?_, ?_⟩
  · rw [hget _ _ (fkey_ne (by decide) hcopy (by decide)), hprod]
  · rw [Ctl.ringState, hget _ _ (fkey_ne (by decide) hcopy (by decide))]
    rw [hstate] at hstarted
    exact hstarted

end

end Sys2Proof.Machine

namespace Sys2Proof.RequestsAndOrdering

open Sys2Proof.Machine

/-- Settles O26: each of the four is performed within its command, by what it does to the registers. -/
theorem configRequests : Obligations.ConfigRequests := by
  unfold Obligations.ConfigRequests
  intro s p g tag session caddr data done hr hans
  have hlanes : ∀ r, (s.ctl.fresh.taking p r).get F.PA_LANE_DISABLED (p.idx * 16 + g.val) =
      s.ctl.get F.PA_LANE_DISABLED (p.idx * 16 + g.val) := fun r => Ctl.get_taking _ _ _ _ _
  refine ⟨exec_fence hr hans, fun d i hreg hal hgap hmsix hbell => ⟨fun hclaim hlow hhigh => ?_, fun hkind hring => ?_,
    fun hkind hring howner => ?_⟩, fun r hbell hmaster hal hon hnew hroom => ?_⟩
  · exact exec_configRead hr hans hreg hal hgap hmsix hclaim hlow hhigh
  · obtain ⟨t, ht, hends, hget⟩ := exec_configWrite (data := data) (session := session) hr hans hal hgap
      (Ctl.OnlyFlds.storeParts _ i data.toNat d.parts) ((Ctl.get_storeParts_lane hreg p g _ _).trans (hlanes _))
      (Ctl.regWrite_status _ _ _ _ hreg hbell hmsix hring hkind)
    refine ⟨t, ht, hends, fun f j hf => (hget f j hf).trans ?_⟩
    exact Ctl.get_congr (Ctl.storeParts_congr (m := s.ctl) (Ctl.taking_flds s.ctl.fresh p _) i data.toNat d.parts) f j
  · obtain ⟨t, ht, hends, -⟩ := exec_configWrite (data := data) (session := session) hr hans hal hgap (Ctl.OnlyFlds.refl _) (hlanes _)
      (Ctl.regWrite_notOwner _ _ _ hreg hbell hmsix hring hkind (by
        rw [Port.master_code, Ctl.owner, Ctl.get_taking]; exact howner))
    exact ⟨t, ht, hends⟩
  · exact exec_doorbell hr hans hbell hmaster hal hon hnew hroom

end Sys2Proof.RequestsAndOrdering
end

section
/-!
Reads and writes that take their place and wait at their PC (R113, R114, R116, R129, R221).
-/

namespace Sys2Proof.Machine

/-! ## Admission -/

/-- A user access as its header brings it: nothing has been judged yet, and it took no credits. -/
structure Req.New (r : Req) : Prop where
  st : r.st = .waiting
  orphan : r.orphan = false
  admitted : r.admitted = false
  dest : r.dest = none
  peer : r.peer = 0
  rh : r.rh = 0
  wd : r.wd = 0

theorem userRequest_new (pos g op tag session addr now : Nat) (size : ReqSize) (data : List Byte) (be : Option Nat) :
    (userRequest pos g op tag session addr now size data be).New := ⟨rfl, rfl, rfl, rfl, rfl, rfl, rfl⟩

/-- A user access whose session has been judged. -/
def Req.judged (r : Req) (admitted : Bool) : Req := { r with admitted := admitted }

/-- The fields that the admission of a request writes in label mode (R221). -/
def Ctl.admitFlds (m : Ctl) (session : Nat) : List (Fld × Nat) :=
  if m.labelMode then [(F.SES_STAT_OUTST, session), (F.SES_REQS_COUNT, session)] else []

/-- What the admission of a request counts (R221). -/
def Ctl.noteAdmitted (m : Ctl) (session : Nat) : Ctl :=
  if m.labelMode then
    (m.set F.SES_STAT_OUTST session (m.get F.SES_STAT_OUTST session + 1)).bump F.SES_REQS_COUNT session
  else m

theorem Ctl.OnlyFlds.noteAdmitted (m : Ctl) (session : Nat) : m.OnlyFlds (m.noteAdmitted session) (m.admitFlds session) := by
  unfold Ctl.noteAdmitted Ctl.admitFlds
  split
  · exact (Ctl.OnlyFlds.set m F.SES_STAT_OUTST session _).trans (.set _ F.SES_REQS_COUNT session _)
  · exact .refl m

theorem Ctl.get_noteAdmitted (m : Ctl) {session : Nat} (hs : session < 1048576) {f : Fld} {i : Nat}
    (hf : f.id ∉ [137, 139]) (hi : i < 1048576) :
    (m.noteAdmitted session).get f i = m.get f i := by
  refine (Ctl.OnlyFlds.noteAdmitted m session).flds.get_eq (fun e he => ?_) hi
  simp only [List.mem_cons, List.not_mem_nil, or_false, not_or] at hf
  unfold Ctl.admitFlds at he
  split at he
  · simp only [List.mem_cons, List.not_mem_nil, or_false] at he
    rcases he with rfl | rfl
    · exact ⟨hf.1, hs⟩
    · exact ⟨hf.2, hs⟩
  · exact absurd he (by simp)

theorem Ctl.get_noteAdmitted_outst {m : Ctl} {session : Nat} (hl : m.labelMode = true) :
    (m.noteAdmitted session).get F.SES_STAT_OUTST session = (m.get F.SES_STAT_OUTST session + 1) % 2 ^ F.SES_STAT_OUTST.width := by
  rw [Ctl.noteAdmitted, if_pos hl, Ctl.bump_eq,
    Ctl.get_set_other _ _ _ _ _ _ (by simp only [fkey, F.SES_STAT_OUTST, F.SES_REQS_COUNT]; omega), Ctl.get_set_same]

section
variable {m : Ctl} {p : Port} {r : Req}

theorem Ctl.set_taking (m : Ctl) (p : Port) (r : Req) (f : Fld) (i v : Nat) : (m.taking p r).set f i v = (m.set f i v).taking p r := by
  cases p <;> rfl

/-- A change of the request that a port has just taken. -/
theorem Ctl.modReq_taking (m : Ctl) (p : Port) (r : Req) (f : Req → Req) : (m.taking p r).modReq p r.pos f = m.taking p (f r) := by
  simp [Ctl.modReq, Ctl.taking, PortSt.taking]

/-- A request of a session below its limit is admitted; outside label mode none is counted (R221). -/
theorem Ctl.admission_open (hr : r.New)
    (hroom : m.labelMode = true → m.get F.SES_STAT_OUTST r.session < m.get F.SES_ACT0_LIMIT r.session) :
    (m.taking p r).admission p r = some ((m.noteAdmitted r.session).taking p (r.judged m.labelMode)) := by
  have hlabel : (m.taking p r).labelMode = m.labelMode := by simp [Ctl.labelMode]
  unfold Ctl.admission Ctl.noteAdmitted
  rw [hlabel]
  cases hl : m.labelMode with
  | false =>
    have hsame : r.judged false = r := by
      unfold Req.judged
      rw [← hr.admitted]
    rw [hsame]
    rfl
  | true =>
    have hbelow := Nat.not_le.mpr (hroom hl)
    have hjudged : ∀ n : Ctl, (n.taking p r).modReq p r.pos (fun q => { q with admitted := true }) = n.taking p (r.judged true) :=
      fun n => n.modReq_taking p r _
    simp only [Ctl.get_taking, hbelow, Ctl.set_taking, Ctl.bump_eq, hjudged, hr.orphan, Bool.not_true, Bool.or_self,
      Bool.false_eq_true, if_false, if_true]

/-- A user access inside its window, in a session below its limit, to an address that no aperture serves, goes to its PC. -/
theorem Ctl.userReq_local (hr : r.New) (hwindow : m.windowOk p (r.op != 0) r.addr r.len = true)
    (hroom : m.labelMode = true → m.get F.SES_STAT_OUTST r.session < m.get F.SES_ACT0_LIMIT r.session)
    (hap : (m.noteAdmitted r.session).aperture r.addr = none) :
    (m.taking p r).userReq p r false =
      ((m.noteAdmitted r.session).taking p (r.judged m.labelMode)).startReq p (r.judged m.labelMode) := by
  have hwindow' : (m.taking p r).windowOk p (r.op != 0) r.addr r.len = true := by
    rw [← hwindow]
    simp only [Ctl.windowOk, Ctl.is, Ctl.get_taking]
  have hap' : ((m.noteAdmitted r.session).taking p (r.judged m.labelMode)).aperture r.addr = none := by
    rw [← hap]
    simp only [Ctl.aperture, Ctl.is, Ctl.get_taking]
  have hplaced : ((m.noteAdmitted r.session).taking p (r.judged m.labelMode)).modReq p r.pos
      (fun q => { q with dest := none, peer := 0 }) = (m.noteAdmitted r.session).taking p (r.judged m.labelMode) := by
    have hlocal : ({ r.judged m.labelMode with dest := none, peer := 0 } : Req) = r.judged m.labelMode := by
      unfold Req.judged
      rw [← hr.dest, ← hr.peer]
    exact (Ctl.modReq_taking _ p (r.judged m.labelMode) _).trans (by rw [hlocal])
  have hfind : (((m.noteAdmitted r.session).port p).taking (r.judged m.labelMode)).reqs.find? (fun q => q.pos == r.pos) =
      some (r.judged m.labelMode) := by
    simp [PortSt.taking, Req.judged]
  have hst : ((r.judged m.labelMode).st == .data) = false := by
    have hwaiting : (r.judged m.labelMode).st = .waiting := hr.st
    rw [hwaiting]
    rfl
  unfold Ctl.userReq
  simp only [hwindow', Ctl.admission_open hr hroom, hap', Option.map_none, Option.getD_none, hplaced, Ctl.port_taking, hfind, hst,
    Bool.not_true, Bool.false_eq_true, if_false]

end

/-! ## What the judgement of a request reads -/

section
variable {m n : Ctl} (hget : ∀ f i, f.id ∉ [137, 139] → i < 1048576 → n.get f i = m.get f i)
include hget

theorem Ctl.aperture_none_congr {addr : Nat} (h : m.aperture addr = none) : n.aperture addr = none := by
  simp only [Ctl.aperture, Option.map_eq_none_iff, List.find?_eq_none, List.mem_range, Ctl.is] at h ⊢
  intro i hi
  have hsame : ∀ f : Fld, f.id ∉ [137, 139] → n.get f i = m.get f i := fun f hf => hget f i hf (hi.trans (by decide))
  simpa (disch := decide) only [hsame] using h i hi

theorem Ctl.not_frozen_congr {addr : Nat} (h : m.frozen addr = false) : n.frozen addr = false := by
  simp only [Ctl.frozen, Option.isSome_eq_false_iff, Option.isNone_iff_eq_none, Ctl.mirAt, List.find?_eq_none, List.mem_range] at h ⊢
  intro i hi
  have hsame : ∀ f : Fld, f.id ∉ [137, 139] → n.get f i = m.get f i := fun f hf => hget f i hf (hi.trans (by decide))
  have hrole : n.mirIs i 2 = m.mirIs i 2 := by simp (disch := decide) only [Ctl.mirIs, Ctl.mirState, hsame]
  have hsize : n.mirSize i = m.mirSize i := by simp (disch := decide) only [Ctl.mirSize, hsame]
  rw [hrole, hsize, hsame _ (by decide)]
  exact h i hi

theorem Ctl.place_congr (addr : Nat) : n.place addr = m.place addr := by
  simp only [Ctl.place, Ctl.is, hget _ _ (show F.CFG_ADDRMAP_MAP.id ∉ [137, 139] by decide) (show 0 < 1048576 by decide)]

theorem Ctl.dark_congr {pc : Nat} (hpc : pc < 64) : n.dark pc = m.dark pc := by
  simp only [Ctl.dark, hget _ _ (show F.CH_STATUS_MODE.id ∉ [137, 139] by decide) (show pc < 1048576 by omega)]

theorem Ctl.filling_congr (addr : Nat) : n.filling addr = m.filling addr := by
  simp only [Ctl.filling, hget _ _ (show F.PWR_FILL_DIES.id ∉ [137, 139] by decide) (show 0 < 1048576 by decide)]

end

end Sys2Proof.Machine
end

section
/-!
How an admitted user access waits at the ingress of its PC, or completes where it writes nothing (R116, R129, R131).
-/

namespace Sys2Proof.Machine

/-! ## Frames of a request that is taken -/

section
variable {m n : Ctl} {l : List (Fld × Nat)}

theorem Ctl.OnlyFlds.taking (h : m.OnlyFlds n l) (p : Port) (r : Req) : (m.taking p r).OnlyFlds (n.taking p r) l := by
  have hnoted : m.noted.OnlyFlds n.noted l := ⟨h.rest, h.raised, h.edits, h.flds⟩
  unfold Ctl.taking
  rw [h.port p]
  exact hnoted.setPort p _

theorem Ctl.OnlyFlds.setPc (h : m.OnlyFlds n l) (i : Nat) (x : Pc) : (m.setPc i x).OnlyFlds (n.setPc i x) l := by
  refine ⟨?_, h.raised, h.edits, fun f j hf => ?_⟩
  · rw [Ctl.rest_setPc, Ctl.rest_setPc, h.rest]
  · rw [Ctl.get_setPc, Ctl.get_setPc]
    exact h.flds f j hf

theorem Ctl.OnlyFlds.count (h : m.OnlyFlds n l) (i k : Nat) : (m.count i k).OnlyFlds (n.count i k) l := by
  refine ⟨?_, h.raised, h.edits, h.flds⟩
  show n.rest.count i k = m.rest.count i k
  rw [h.rest]

/-- No request comes to wait for its order alone with a change of registers. -/
theorem Ctl.OnlyFlds.settled (h : m.OnlyFlds n l) (hs : m.Settled) : n.Settled := by
  have hparts : (n.pa, n.pb, n.svc, n.pcs, n.mirs) = (m.pa, m.pb, m.svc, m.pcs, m.mirs) :=
    h.part (fun m => (m.pa, m.pb, m.svc, m.pcs, m.mirs)) fun _ => rfl
  simp only [Prod.mk.injEq] at hparts
  obtain ⟨hpa, hpb, hsvc, hpcs, hmirs⟩ := hparts
  unfold Ctl.Settled Ctl.Clean
  rw [hpa, hpb, hsvc, hpcs, hmirs]
  exact hs

/-- A request that a port has just taken and handed to a PC waits for more than its order. -/
theorem Ctl.Quiet.settled_of_taking (hq : m.Quiet) (p : Port) {r : Req} (hr : r.st ≠ .waiting) (i : Nat) {x : Pc}
    (hx : x.codeErr = (m.pc i).codeErr) : ((m.taking p r).setPc i x).Settled := by
  obtain ⟨-, -, -, hclean⟩ := hq.setPc i hx
  have hclean' : ((m.taking p r).setPc i x).Clean := by cases p <;> exact hclean
  obtain ⟨ha, hb, hsvc, -⟩ := hq
  refine ⟨fun q hmem => ?_, hclean'⟩
  have hq : q = r := by
    cases p
    · have hreqs : q ∈ [r] ++ m.pb.reqs ++ m.svc.reqs := hmem
      simpa [hb, hsvc] using hreqs
    · have hreqs : q ∈ m.pa.reqs ++ [r] ++ m.svc.reqs := hmem
      simpa [ha, hsvc] using hreqs
  rw [hq]
  exact hr

end

/-! ## Requests that their PC takes -/

/-- A user access that is inside a window, in a session below its limit, and whose PC can take it (R124, R134, R221). -/
structure Ctl.Admits (m : Ctl) (p : Port) (r : Req) : Prop where
  new : r.New
  session : r.session < 1048576
  window : m.windowOk p (r.op != 0) r.addr r.len = true
  room : m.labelMode = true → m.get F.SES_STAT_OUTST r.session < m.get F.SES_ACT0_LIMIT r.session
  aperture : m.aperture r.addr = none
  dark : m.dark (m.place r.addr).pc = false
  filling : m.filling r.addr = false
  frozen : r.op ≠ 0 → m.frozen r.addr = false

/-- A request that waits at the ingress of its PC. -/
def Req.atIngress (r : Req) : Req := { r with st := .held }

theorem Ctl.place_lt (m : Ctl) (addr : Nat) : (m.place addr).pc < 64 := Nat.mod_lt _ (by decide)

section
variable {m : Ctl} {p : Port} {r : Req}

theorem Ctl.Admits.userReq (h : m.Admits p r) : (m.taking p r).userReq p r false =
    ((m.noteAdmitted r.session).taking p (r.judged m.labelMode)).startReq p (r.judged m.labelMode) :=
  Ctl.userReq_local h.new h.window h.room
    (Ctl.aperture_none_congr (fun _ _ hf hi => m.get_noteAdmitted h.session hf hi) h.aperture)

/-- The destination of an admitted request, and its PC does not refuse it. -/
theorem Ctl.Admits.refusal (h : m.Admits p r) (q : Req) :
    ((m.noteAdmitted r.session).taking p q).place r.addr = m.place r.addr ∧
      ((m.noteAdmitted r.session).taking p q).refusal (m.place r.addr).pc (r.job p) = none := by
  have hget : ∀ f i, f.id ∉ [137, 139] → i < 1048576 → ((m.noteAdmitted r.session).taking p q).get f i = m.get f i :=
    fun f i hf hi => (Ctl.get_taking _ _ _ _ _).trans (m.get_noteAdmitted h.session hf hi)
  have hfrozen : (r.job p).acc = .read ∨ ((m.noteAdmitted r.session).taking p q).frozen r.addr = false := by
    by_cases hop : r.op = 0
    · exact .inl (by simp [Req.job, hop])
    · exact .inr (Ctl.not_frozen_congr hget (h.frozen hop))
  refine ⟨Ctl.place_congr hget _, ?_⟩
  unfold Ctl.refusal
  rw [Ctl.dark_congr hget (m.place_lt _), h.dark, show (r.job p).addr = r.addr from rfl, Ctl.filling_congr hget, h.filling]
  rcases hfrozen with hread | hfrozen
  · simp [hread]
  · simp [hfrozen]

/-- A request for this stack that its PC does not refuse is handed to the ingress of the PC, or waits where it writes nothing. -/
theorem Ctl.startReq_local (hdest : r.dest = none) (hrefusal : m.refusal (m.place r.addr).pc (r.job p) = none) :
    m.startReq p r =
      if r.op = 2 ∧ r.be % 2 ^ r.len = 0 then m.modReq p r.pos fun q => { q with st := .waiting }
      else (m.modReq p r.pos fun q => { q with st := .held }).submit (m.place r.addr).pc (r.job p) := by
  unfold Ctl.startReq
  simp only [hdest, hrefusal, Option.isSome_none, Bool.false_eq_true, if_false, Bool.and_eq_true, decide_eq_true_eq]

theorem Ctl.Admits.startReq (h : m.Admits p r) : (m.taking p r).userReq p r false =
    if r.op = 2 ∧ r.be % 2 ^ r.len = 0 then
      (m.noteAdmitted r.session).taking p { r.judged m.labelMode with st := .waiting }
    else ((m.noteAdmitted r.session).taking p (r.judged m.labelMode).atIngress).submit (m.place r.addr).pc (r.job p) := by
  obtain ⟨hplace, hrefusal⟩ := h.refusal (r.judged m.labelMode)
  have hdest : (r.judged m.labelMode).dest = none := h.new.dest
  have haddr : (r.judged m.labelMode).addr = r.addr := rfl
  rw [h.userReq, Ctl.startReq_local hdest (by rw [haddr, hplace]; exact hrefusal), Ctl.modReq_taking, Ctl.modReq_taking, haddr, hplace]
  rfl

/-- A request with bytes to read or to write is handed to the ingress of its PC. -/
theorem Ctl.Admits.ingress (h : m.Admits p r) (hbe : ¬ (r.op = 2 ∧ r.be % 2 ^ r.len = 0)) :
    (m.taking p r).userReq p r false =
      ((m.noteAdmitted r.session).taking p (r.judged m.labelMode).atIngress).setPc (m.place r.addr).pc
        { m.pc (m.place r.addr).pc with
          ingress := (m.pc (m.place r.addr).pc).ingress ++ [{ r.job p with since := m.now }] } := by
  have hsame := (Ctl.OnlyFlds.noteAdmitted m r.session).taking p (r.judged m.labelMode).atIngress
  have hpc : ((m.noteAdmitted r.session).taking p (r.judged m.labelMode).atIngress).pc (m.place r.addr).pc = m.pc (m.place r.addr).pc :=
    (hsame.part (·.pc (m.place r.addr).pc) fun _ => rfl).trans (by cases p <;> rfl)
  have hnow : ((m.noteAdmitted r.session).taking p (r.judged m.labelMode).atIngress).now = m.now :=
    (hsame.part (·.now) fun _ => rfl).trans (Ctl.taking_now _ _ _)
  rw [h.startReq, if_neg hbe, Ctl.submit, Ctl.modPc_eq, hpc, hnow]

/-- A masked write without enabled bytes waits for its order alone (R116). -/
theorem Ctl.Admits.noBytes (h : m.Admits p r) (hop : r.op = 2) (hbe : r.be % 2 ^ r.len = 0) :
    (m.taking p r).userReq p r false = (m.noteAdmitted r.session).taking p (r.judged m.labelMode) := by
  have hst : ({ r.judged m.labelMode with st := .waiting } : Req) = r.judged m.labelMode := by
    unfold Req.judged
    rw [← h.new.st]
  rw [h.startReq, if_pos ⟨hop, hbe⟩, hst]

end

end Sys2Proof.Machine
end

section
/-!
The commands of reads and writes (R113, R114, R116, R129, R221).
-/

namespace Sys2Proof.Machine

section
variable {s t : State} {c : Instr} {gg : Arr → Ctl → Ctl} {p : Port} {r : Req} {l : List (Fld × Nat)}

/-- The frame of a request that waits at the ingress of its PC, part by part. -/
theorem Ends.ingress {pc : Nat} {x : Pc} (h : Ends s t l ((s.ctl.taking p r).setPc pc x)) :
    Ends s t l { s.ctl.setPort p { s.ctl.port p with
      reqs := (t.ctl.port p).reqs, silent := none, nextPos := (s.ctl.port p).nextPos + 1 } with pcs := t.ctl.pcs } ∧
    s.ctl.OtherPcs t.ctl pc ∧ t.ctl.pc pc = x ∧ (t.ctl.port p).reqs = [r] := by
  have hport : t.ctl.port p = (s.ctl.port p).taking r :=
    (h.part (·.port p) fun _ => by cases p <;> rfl).trans (by cases p <;> rfl)
  have hpcs : t.ctl.pcs = ((s.ctl.taking p r).setPc pc x).pcs := h.part (·.pcs) fun _ => rfl
  have hpc : ∀ q, t.ctl.pc q = ((s.ctl.taking p r).setPc pc x).pc q := fun q => by rw [Ctl.pc, hpcs]; rfl
  refine ⟨h.of_rest ?_, fun q hq => ?_, (hpc pc).trans (Ctl.pc_setPc _ _ _), by rw [hport]; rfl⟩
  · rw [hport, hpcs]
    cases p <;> rfl
  · rw [hpc, Ctl.pc_setPc_other _ _ hq]
    cases p <;> rfl

/-- A user access that its PC takes waits at the ingress there, and nothing is stored. -/
theorem exec_ingress (hc : exec c s = .next (run s gg)) (hx : gg s.arr s.ctl.fresh = (s.ctl.fresh.taking p r).userReq p r false)
    (hq : s.ctl.Quiet) (h : s.ctl.fresh.Admits p r) (hbe : ¬ (r.op = 2 ∧ r.be % 2 ^ r.len = 0)) :
    ∃ t, exec c s = .next t ∧
      Ends s t (s.ctl.admitFlds r.session) ((s.ctl.taking p (r.judged s.ctl.labelMode).atIngress).setPc (s.ctl.place r.addr).pc
        { s.ctl.pc (s.ctl.place r.addr).pc with
          ingress := (s.ctl.pc (s.ctl.place r.addr).pc).ingress ++ [{ r.job p with since := s.ctl.now }] }) ∧
      (s.ctl.labelMode = true → t.ctl.get F.SES_STAT_OUTST r.session =
        (s.ctl.get F.SES_STAT_OUTST r.session + 1) % 2 ^ F.SES_STAT_OUTST.width) := by
  have honly := ((Ctl.OnlyFlds.noteAdmitted s.ctl.fresh r.session).taking p (r.judged s.ctl.labelMode).atIngress).setPc
    (s.ctl.place r.addr).pc { s.ctl.pc (s.ctl.place r.addr).pc with
      ingress := (s.ctl.pc (s.ctl.place r.addr).pc).ingress ++ [{ r.job p with since := s.ctl.now }] }
  have hsettled := honly.settled (hq.fresh.settled_of_taking p (by simp [Req.atIngress]) _ rfl)
  obtain ⟨t, ht, hends, hget⟩ := exec_of_settled hc (hx.trans (h.ingress hbe)) hsettled
    (honly.raised.trans (Ctl.taking_raised _ _ _)) (honly.edits.trans (Ctl.taking_edits _ _ _))
    fun f i hf => (honly.flds f i hf).trans ((Ctl.get_setPc _ _ _ _ _).trans (Ctl.get_taking _ _ _ _ _))
  refine ⟨t, ht, hends.of_rest (honly.rest.trans ?_), fun hl => ?_⟩
  · cases p <;> rfl
  · rw [hget _ _ (fkey_ne (by decide) h.session (by decide)), Ctl.get_setPc, Ctl.get_taking]
    exact Ctl.get_noteAdmitted_outst (m := s.ctl.fresh) hl

/-- A masked write without enabled bytes completes, and TEL counts it (R116, R484). -/
theorem Ctl.OnlyFlds.finishReq_noBytes {m n : Ctl} (h : (m.taking p r).OnlyFlds n l) (hq : m.Quiet) (ha : m.Answers p r.g)
    (hlane : n.get F.PA_LANE_DISABLED (p.idx * 16 + r.g) = m.get F.PA_LANE_DISABLED (p.idx * 16 + r.g))
    (hrh : r.rh = 0) (hwd : r.wd = 0) (ho : r.orphan = false) (hop : r.op = 2) :
    let x := (m.port p).answered r.g (.cpl r.tag stOk none false none r.session (.fresh r.admitted) r.accAt)
    n.finishReq p r.pos stOk = (n.count (2 * p.idx + 1) r.len).setPort p x ∧
      ((m.setPort p x).count (2 * p.idx + 1) r.len).OnlyFlds ((n.count (2 * p.idx + 1) r.len).setPort p x) l := by
  intro x
  have hcounted : n.counted p r stOk = n.count (2 * p.idx + 1) r.len := by simp [Ctl.counted, hop, stOk]
  have hbase : ((m.taking p r).count (2 * p.idx + 1) r.len).setPort p x = ((m.setPort p x).count (2 * p.idx + 1) r.len).noted := by
    cases p <;> rfl
  refine ⟨by rw [h.finishReq_eq hq ha hlane hrh hwd ho, hcounted], ?_⟩
  have hend := (h.count (2 * p.idx + 1) r.len).setPort p x
  rw [hbase] at hend
  exact (Ctl.OnlyFlds.noted _).trans hend

/-- A masked write without enabled bytes is performed within its command, and nothing is stored (R116). -/
theorem exec_noBytes (hc : exec c s = .next (run s gg)) (hx : gg s.arr s.ctl.fresh = (s.ctl.fresh.taking p r).userReq p r false)
    (hq : s.ctl.Quiet) (hh : (s.ctl.port p).hdrs = []) (hans : s.ctl.Answers p r.g) (hg : p.idx * 16 + r.g < 1048576)
    (h : s.ctl.fresh.Admits p r) (hop : r.op = 2) (hbe : r.be % 2 ^ r.len = 0) :
    ∃ t, exec c s = .next t ∧ Ends s t (s.ctl.admitFlds r.session)
      { s.ctl.setPort p ((s.ctl.port p).answered r.g
          (.cpl r.tag 0 none false none r.session (.fresh s.ctl.labelMode) r.accAt)) with
        tel := Sparse.setD s.ctl.tel (2 * p.idx + 1) (Sparse.getD s.ctl.tel (2 * p.idx + 1) 0 + r.len) 0 } := by
  have honly := (Ctl.OnlyFlds.noteAdmitted s.ctl.fresh r.session).taking p (r.judged s.ctl.labelMode)
  have hst : (r.judged s.ctl.labelMode).st = .waiting := h.new.st
  have hdest : (r.judged s.ctl.labelMode).dest = none := h.new.dest
  obtain ⟨hfinish, hend⟩ := honly.finishReq_noBytes hq.fresh hans.fresh
    ((Ctl.get_taking _ _ _ _ _).trans (Ctl.get_noteAdmitted _ h.session (by decide) hg)) h.new.rh h.new.wd h.new.orphan hop
  rw [Ctl.port_fresh] at hfinish hend
  obtain ⟨t, ht, hends, -⟩ := exec_performs hc (hx.trans (h.noBytes hop hbe)) honly hq hh (reqReady_alone hst (.inl ⟨hop, hdest⟩))
    ((Ctl.performReq_done _ _ _ (.inl hop)).trans hfinish) hend (hq.fresh.setPort p (hq.reqs p)) (Ctl.setPort_raised _ _ _)
    (Ctl.setPort_edits _ _ _) (Ctl.setPort_flds _ _ _)
  refine ⟨t, ht, hends.of_rest ?_⟩
  cases p <;> rfl

end

/-! ## Sound headers -/

section
variable {s : State} {p : Port} {g : Fin 16} {tag : BitVec 14} {session : BitVec 18} {addr : BitVec 37} {size : ReqSize} {op : Nat}
  {be : Option Nat}

/-- The request of a user header that a command brings. -/
def Ctl.userBrought (m : Ctl) (p : Port) (g : Fin 16) (op : Nat) (tag : BitVec 14) (session : BitVec 18) (addr : BitVec 37)
    (size : ReqSize) (data : List Byte) (be : Option Nat) : Req :=
  userRequest (m.port p).nextPos g.val op tag.toNat session.toNat addr.toNat m.now size data be

/-- An aligned range lies within user space. -/
theorem aligned_range (h : addr.toNat % size.bytes = 0) : addr.toNat + size.bytes ≤ 2 ^ 37 := by
  have := addr.isLt
  cases size <;> simp only [ReqSize.bytes] at h ⊢ <;> omega

/-- An aligned user access, masked with its enables on one element or not at all, is judged against its window and its session. -/
theorem Ctl.header_aligned (payload : Option (List Byte)) (hop : op ≤ 2) (hr : s.ctl.Ready p g.val tag.toNat)
    (hal : addr.toNat % size.bytes = 0) (hmask : op = 2 → be.isSome = true ∧ size.bytes ≤ 64) :
    s.ctl.fresh.header p g.val (userHeader op size tag.toNat session.toNat addr.toNat) payload be =
      (s.ctl.fresh.taking p (s.ctl.userBrought p g op tag session addr size (payload.getD []) be)).userReq p
        (s.ctl.userBrought p g op tag session addr size (payload.getD []) be) false := by
  obtain ⟨hbop, hbtag, hbr⟩ := s.ctl.fresh.brought_user p g.val size (payload.getD []) be hop tag.isLt session.isLt addr.isLt
  rw [Ctl.port_fresh, Ctl.fresh_now, ← Ctl.userBrought] at hbr
  have hfaults : (s.ctl.userBrought p g op tag session addr size (payload.getD []) be).faults false be.isSome = [] := by
    have hnone : ¬ (op = 2 ∧ (be.isSome = false ∨ 64 < size.bytes)) := by
      rintro ⟨rfl, hbad⟩
      obtain ⟨hsome, hlen⟩ := hmask rfl
      rcases hbad with hbad | hbad
      · rw [hsome] at hbad
        exact absurd hbad (by decide)
      · omega
    rw [Req.faults_user hop addr.isLt]
    show (if addr.toNat % size.bytes ≠ 0 then _ else []) ++ (if 2 ^ 37 < addr.toNat + size.bytes then _ else []) ++
      (if op = 2 ∧ (be.isSome = false ∨ 64 < size.bytes) then _ else []) = _
    rw [if_neg (not_not_intro hal), if_neg (Nat.not_lt.mpr (aligned_range hal)), if_neg hnone]
    rfl
  rw [Ctl.header_brought (hbtag.symm ▸ hr.fresh) hbr, hfaults, hbop, if_pos hop]
  rfl

end

end Sys2Proof.Machine

namespace Sys2Proof.RequestsAndOrdering

open Sys2Proof.Machine

/-- Settles O24: the header of each command is sound, its PC takes the request, and only the masked write without enabled bytes is done
with there. -/
theorem userRequests : Obligations.UserRequests := by
  unfold Obligations.UserRequests
  intro s p g tag session addr size data be n pc job counts taken hr hal hap hroom hdark hfill hlen
  have hadmits : ∀ op payload be', s.ctl.windowOk p (op != 0) addr.toNat n = true → (op ≠ 0 → s.ctl.frozen addr.toNat = false) →
      s.ctl.fresh.Admits p (s.ctl.userBrought p g op tag session addr size payload be') := fun op payload be' hwindow hfrozen =>
    { new := userRequest_new _ _ _ _ _ _ _ _ _ _
      session := Nat.lt_trans session.isLt (by decide)
      window := hwindow
      room := hroom
      aperture := hap
      dark := hdark
      filling := hfill
      frozen := hfrozen }
  have hwaits : ∀ {c gg op payload be'}, exec c s = .next (run s gg) →
      gg s.arr s.ctl.fresh = (s.ctl.fresh.taking p (s.ctl.userBrought p g op tag session addr size payload be')).userReq p
        (s.ctl.userBrought p g op tag session addr size payload be') false →
      s.ctl.fresh.Admits p (s.ctl.userBrought p g op tag session addr size payload be') →
      ¬ (op = 2 ∧ be'.getD 0 % 2 ^ n = 0) → ∃ t, exec c s = .next t ∧
        taken t op { (s.ctl.userBrought p g op tag session addr size payload be').job p with since := s.ctl.now } := by
    intro c gg op payload be' hc hx h hbe
    obtain ⟨t, ht, hends, hcount⟩ := exec_ingress hc hx hr.quiet h hbe
    obtain ⟨hframe, hothers, hpc, hreqs⟩ := hends.ingress
    refine ⟨t, ht, hframe, hothers, hpc, by rw [hreqs]; rfl, fun q hq => ?_, hcount⟩
    rw [hreqs, List.mem_singleton] at hq
    rw [hq]
    exact ⟨rfl, rfl⟩
  refine ⟨fun hwindow => ?_, fun hwindow hfrozen => ⟨?_, fun hsize hbe => ?_, fun hsize hbe hans => ?_⟩⟩
  · exact hwaits (c := .read p g tag session addr size) rfl
      (Ctl.header_aligned (be := none) none (by decide : 0 ≤ 2) hr hal (by simp)) (hadmits 0 _ _ hwindow (by simp)) (by simp)
  · exact hwaits (c := .write p g tag session addr size data) (if_pos hlen)
      (Ctl.header_aligned (be := none) (some data) (by decide : 1 ≤ 2) hr hal (by simp)) (hadmits 1 _ _ hwindow fun _ => hfrozen)
      (by simp)
  · exact hwaits (c := .writeMasked p g tag session addr size (some be) data) (if_pos hlen)
      (Ctl.header_aligned (be := some be.toNat) (some data) (by decide : 2 ≤ 2) hr hal fun _ => ⟨rfl, hsize⟩)
      (hadmits 2 _ _ hwindow fun _ => hfrozen) fun h => hbe h.2
  · exact exec_noBytes (c := .writeMasked p g tag session addr size (some be) data) (if_pos hlen)
      (Ctl.header_aligned (be := some be.toNat) (some data) (by decide : 2 ≤ 2) hr hal fun _ => ⟨rfl, hsize⟩)
      hr.quiet hr.hdrs hans (p.lane_lt g) (hadmits 2 _ _ hwindow fun _ => hfrozen) rfl hbe

end Sys2Proof.RequestsAndOrdering
end

section
/-!
The selection of a command slot (R141, R163), and the step that runs the front command.
-/

namespace Sys2Proof.Machine

/-! ## The highest class of a list, and its earliest entry -/

theorem le_foldl_max {l : List Nat} {n : Nat} (h : n ∈ l) : n ≤ l.foldl max 0 := by
  rw [List.foldl_eq_foldr]
  exact List.le_max_of_le h le_rfl

theorem foldl_max_mem {l : List Nat} (h : l ≠ []) : l.foldl max 0 ∈ l := by
  rw [List.foldl_eq_foldr]
  exact List.maximum_mem (List.foldr_max_of_ne_nil h).symm

/-- The later of two entries replaces the earlier one in the list only where it arrived before it (R141). -/
def firstArrived (best y : Job × Move) : Job × Move := if y.1.arrival < best.1.arrival then y else best

theorem firstArrived_cases (best y : Job × Move) : firstArrived best y = best ∨ firstArrived best y = y := by
  unfold firstArrived
  split
  · exact .inr rfl
  · exact .inl rfl

theorem firstArrived_le_left (best y : Job × Move) : (firstArrived best y).1.arrival ≤ best.1.arrival := by
  unfold firstArrived
  split <;> omega

theorem firstArrived_le_right (best y : Job × Move) : (firstArrived best y).1.arrival ≤ y.1.arrival := by
  unfold firstArrived
  split <;> omega

theorem foldl_firstArrived_mem (e : Job × Move) (r : List (Job × Move)) : r.foldl firstArrived e ∈ e :: r := by
  induction r generalizing e with
  | nil => exact List.mem_singleton.mpr rfl
  | cons y r ih =>
    rcases List.mem_cons.mp (ih (firstArrived e y)) with h | h
    · rw [List.foldl_cons, h]
      rcases firstArrived_cases e y with h' | h' <;> simp [h']
    · exact List.mem_cons_of_mem _ (List.mem_cons_of_mem _ h)

theorem foldl_firstArrived_le_head (e : Job × Move) (r : List (Job × Move)) :
    (r.foldl firstArrived e).1.arrival ≤ e.1.arrival := by
  induction r generalizing e with
  | nil => exact le_rfl
  | cons y r ih => exact (ih _).trans (firstArrived_le_left e y)

theorem foldl_firstArrived_le {e y : Job × Move} {r : List (Job × Move)} (h : y ∈ e :: r) :
    (r.foldl firstArrived e).1.arrival ≤ y.1.arrival := by
  induction r generalizing e with
  | nil => rw [List.mem_singleton.mp h, List.foldl_nil]
  | cons z r ih =>
    rcases List.mem_cons.mp h with rfl | h
    · exact foldl_firstArrived_le_head y (z :: r)
    rcases List.mem_cons.mp h with rfl | h
    · exact (foldl_firstArrived_le_head _ r).trans (firstArrived_le_right e y)
    · exact ih (List.mem_cons_of_mem _ h)

/-! ## The entries that a selection compares -/

/-- The eligible entries of a PC whose next command passes a test, in queue order. -/
def Ctl.candidates (m : Ctl) (pc t : Nat) (ok : Move → Bool) : List (Job × Move) :=
  (m.eligible pc t [] (m.pc pc).queue).filter fun e => ok e.2

/-- The candidates of the highest class among them. -/
def Ctl.topClass (m : Ctl) (pc t : Nat) (l : List (Job × Move)) : List (Job × Move) :=
  l.filter fun e => m.classNow pc e.1 t == (l.map fun e => m.classNow pc e.1 t).foldl max 0

/-- Of a list, the entries that hit their open rows, or all where none does. -/
def Ctl.hitsFirst (m : Ctl) (pc : Nat) (l : List (Job × Move)) : List (Job × Move) :=
  let hits := l.filter fun e => m.rowHit pc e.1
  if hits.isEmpty then l else hits

section
variable {m : Ctl} {pc t : Nat} {l : List (Job × Move)} {e : Job × Move}

theorem Ctl.topClass_eq_nil : m.topClass pc t l = [] ↔ l = [] := by
  refine ⟨fun h => ?_, fun h => by rw [h]; rfl⟩
  by_contra hl
  obtain ⟨e, he, hc⟩ := List.mem_map.mp (foldl_max_mem (mt List.map_eq_nil_iff.mp hl))
  exact List.filter_eq_nil_iff.mp h e he (beq_iff_eq.mpr hc)

/-- The entries of the highest class are those that no entry exceeds. -/
theorem Ctl.mem_topClass :
    e ∈ m.topClass pc t l ↔ e ∈ l ∧ ∀ e' ∈ l, m.classNow pc e'.1 t ≤ m.classNow pc e.1 t := by
  have hle : ∀ e' ∈ l, m.classNow pc e'.1 t ≤ (l.map fun e => m.classNow pc e.1 t).foldl max 0 :=
    fun e' h => le_foldl_max (List.mem_map_of_mem h)
  unfold Ctl.topClass
  rw [List.mem_filter, beq_iff_eq]
  refine ⟨fun ⟨he, hc⟩ => ⟨he, fun e' h => hc ▸ hle e' h⟩, fun ⟨he, hmax⟩ => ⟨he, le_antisymm (hle e he) ?_⟩⟩
  obtain ⟨e', he', hc⟩ := List.mem_map.mp (foldl_max_mem (mt List.map_eq_nil_iff.mp (List.ne_nil_of_mem he)))
  exact hc ▸ hmax e' he'

theorem Ctl.hitsFirst_eq_nil : m.hitsFirst pc l = [] ↔ l = [] := by
  unfold Ctl.hitsFirst
  dsimp only
  split
  · exact Iff.rfl
  · next h =>
    refine ⟨fun h' => absurd (List.isEmpty_iff.mpr h') h, fun h' => by rw [h']; rfl⟩

/-- An entry stays unless it misses its open row and another hits. -/
theorem Ctl.mem_hitsFirst :
    e ∈ m.hitsFirst pc l ↔ e ∈ l ∧ ((∃ e' ∈ l, m.rowHit pc e'.1 = true) → m.rowHit pc e.1 = true) := by
  unfold Ctl.hitsFirst
  dsimp only
  split
  · next h =>
    have hno : ¬ ∃ e' ∈ l, m.rowHit pc e'.1 = true := fun ⟨e', he', hr⟩ =>
      List.filter_eq_nil_iff.mp (List.isEmpty_iff.mp h) e' he' hr
    exact ⟨fun he => ⟨he, fun h' => absurd h' hno⟩, fun he => he.1⟩
  · next h =>
    obtain ⟨e', he'⟩ := List.exists_mem_of_ne_nil _ (mt List.isEmpty_iff.mpr h)
    rw [List.mem_filter] at he' ⊢
    exact ⟨fun he => ⟨he.1, fun _ => he.2⟩, fun he => ⟨he.1, he.2 ⟨e', he'⟩⟩⟩

end

/-! ## What a slot selects -/

section
variable {m : Ctl} {pc t : Nat} {ok : Move → Bool} {j : Job} {v : Move}

/-- Does an entry wait that a block reset left in the queue (R163 T6)? -/
def Pc.leftOver (x : Pc) : Bool := x.queue.any fun j => j.old && !j.todo.isEmpty

theorem Pc.leftOver_iff {x : Pc} : x.leftOver = true ↔ ∃ q ∈ x.queue, q.old = true ∧ q.todo ≠ [] := by
  simp [Pc.leftOver]

theorem Ctl.select_of_leftOver (h : (m.pc pc).leftOver = true) :
    m.select pc t ok = (m.candidates pc t ok).find? fun e => e.1.old := if_pos h

theorem Ctl.select_of_not_leftOver (h : ¬ (m.pc pc).leftOver = true) :
    m.select pc t ok = match m.hitsFirst pc (m.topClass pc t (m.candidates pc t ok)) with
      | [] => none
      | e :: r => some (r.foldl firstArrived e) := if_neg h

theorem Ctl.select_eq_none (h : ¬ (m.pc pc).leftOver = true) : m.select pc t ok = none ↔ m.candidates pc t ok = [] := by
  rw [Ctl.select_of_not_leftOver h, ← Ctl.topClass_eq_nil (m := m) (pc := pc) (t := t), ← Ctl.hitsFirst_eq_nil (m := m) (pc := pc)]
  split
  · next hp => exact ⟨fun _ => hp, fun _ => rfl⟩
  · next hp => exact ⟨nofun, fun h' => absurd (hp.symm.trans h') (List.cons_ne_nil _ _)⟩

/-- The entry selected is the earliest of those that hit their rows, if any, in the highest class. -/
theorem Ctl.select_eq_some (h : ¬ (m.pc pc).leftOver = true) (hs : m.select pc t ok = some (j, v)) :
    (j, v) ∈ m.hitsFirst pc (m.topClass pc t (m.candidates pc t ok)) ∧
      ∀ e ∈ m.hitsFirst pc (m.topClass pc t (m.candidates pc t ok)), j.arrival ≤ e.1.arrival := by
  rw [Ctl.select_of_not_leftOver h] at hs
  split at hs
  · exact nomatch hs
  · next e r hp =>
    rw [hp]
    have hs := Option.some.inj hs
    refine ⟨hs ▸ foldl_firstArrived_mem e r, fun e' he' => ?_⟩
    have := foldl_firstArrived_le he'
    rwa [hs] at this

end

end Sys2Proof.Machine

namespace Sys2Proof.ChannelSequencers
open Sys2Proof.Machine

/-- Settles O1: `step` is a match on the queue, and the slot that an empty one lets pass is `Ctl.slotPs`. -/
theorem stepRunsFront : Obligations.StepRunsFront := by
  unfold Obligations.StepRunsFront
  refine ⟨fun s c => rfl, fun s h => ?_⟩
  have hstep : step s = .next s.tick := by unfold step; rw [h]
  rw [hstep]
  rfl

/-- Settles O30: the entry selected lies in the highest class and, where one of that class hits its open row, hits too; the fold
over those that are left keeps the earliest. With entries of a block reset waiting the selection is `List.find?`. -/
theorem slotSelection : Obligations.SlotSelection := by
  unfold Obligations.SlotSelection
  intro m pc t ok cands left
  have hleft : (m.pc pc).leftOver = true ↔ left := Pc.leftOver_iff
  rw [← hleft]
  refine ⟨fun h => ⟨Ctl.select_eq_none h, fun j v hs => ?_⟩, fun h => ?_⟩
  · obtain ⟨hmem, hearliest⟩ := Ctl.select_eq_some h hs
    obtain ⟨htop, hhit⟩ := Ctl.mem_hitsFirst.mp hmem
    obtain ⟨hcand, hclass⟩ := Ctl.mem_topClass.mp htop
    refine ⟨hcand, fun e he => ?_⟩
    have hsame : m.classNow pc e.1 t = m.classNow pc j t → e ∈ m.topClass pc t (m.candidates pc t ok) := fun hc =>
      Ctl.mem_topClass.mpr ⟨he, fun e' he' => hc ▸ hclass e' he'⟩
    refine ⟨hclass e he, fun hc hr => hhit ⟨e, hsame hc, hr⟩, fun hc hr => hearliest e ?_⟩
    exact Ctl.mem_hitsFirst.mpr ⟨hsame hc, fun hany => hr.trans (hhit hany)⟩
  · rw [Ctl.select_of_leftOver h, List.find?_eq_none]
    refine ⟨forall₂_congr fun e _ => Bool.not_eq_true _ ▸ Iff.rfl, fun j v hs => ?_⟩
    obtain ⟨hold, before, after, heq, hbefore⟩ := List.find?_eq_some_iff_append.mp hs
    exact ⟨hold, before, after, heq, fun e he => by simpa using hbefore e he⟩

end Sys2Proof.ChannelSequencers
end

section
/-!
The statements of chapter 5 that fail. They quantify over every value of type `State`, and their counterexamples lie in what they do not
exclude: for `QueueEntry` a pair number that no port has, for `Returns` an array change that is still listed, which no command
leaves (`run_edits`), and for `BlockResets` a PC that is listed twice.
-/

namespace Sys2Proof.Machine

/-! ## A completion on a pair that no port has -/

/-- The pair number at which `PA_LANE_DISABLED` of port A shares its key of the field table with `CH_HELD_HELD` of PC 0: a key is the
field's number times 2^20 plus the copy (`fkey`). -/
def strayPair : Nat := (F.CH_HELD_HELD.id - F.PA_LANE_DISABLED.id) * 1048576

theorem strayPair_key : fkey F.PA_LANE_DISABLED (Port.a.idx * 16 + strayPair) = fkey F.CH_HELD_HELD 0 := rfl

/-- The one request of port A, which names that pair. -/
def strayRequest : Req := { pos := 0, g := strayPair, tag := 7, op := 0, len := 32, st := .held }

/-- Its job, which a block reset has held at the ingress of PC 0 since time 0. -/
def strayJob : Job := { who := .port .a 0, acc := .read, addr := 0, len := 32, heldFrom := some 0 }

/-- ACTIVE with that request and that job. -/
def strayHeld : State :=
  { ctl :=
      { power := .run
        flds := [(fkey F.GL_MODE_STATE 0, Mode.active.code), (fkey F.FLT_STATUS_FAULTN 0, 1)]
        pa := { reqs := [strayRequest] }
        pcs := [(0, { ingress := [strayJob] })] } }

/-- The model's own invariant does not exclude such a pair number. -/
theorem strayHeld_inv : Inv strayHeld where
  memory := rfl
  edits := rfl
  raised := rfl
  pin := by unfold FaultPin; decide +kernel

theorem strayHeld_settled : strayHeld.ctl.Settled := by
  simp [strayHeld, strayRequest, Ctl.Settled, Ctl.Clean]

/-- Before the command the pair does not read as disabled. -/
theorem strayHeld_answers : strayHeld.ctl.Answers .a strayRequest.g := by
  unfold Ctl.Answers
  decide +kernel

/-- The command counts the job first; with that count the pair reads as disabled, and the completion is discarded (R94). -/
theorem strayHeld_heldTimeout {t : State} (h : exec (.heldTimeout 0) strayHeld = .next t) : t.ctl.pa.grps = [] := by
  injection h with h
  subst h
  decide +kernel

/-! ## A page code seen through an array change that the command drops -/

/-- An engine's read of line 0 that waits for the rebuild of word 0. -/
def rebuildJob : Job := { who := .engine 0 0 0 false, acc := .read, addr := 0, len := 64, todo := [1], out := [0] }

/-- The rebuild it waits for. -/
def rebuildOfJob : Rebuild := { loc := ⟨0, 0, 0⟩, who := rebuildJob.who, line := 0 }

/-- Word 0 of row 0 waits for its rebuild, and what turning its 0 into a 1 does to the row's P0 and P1 stands in `edits`. Between commands
`Inv` has none there: `run` starts every command without one, while a statement that applies `Ctl.pageRebuild` to this state looks
through it. -/
def editedPage : State :=
  { ctl :=
      { power := .run
        pcs := [(0, { rebuilds := [rebuildOfJob], queue := [rebuildJob] })]
        edits :=
          [.bytes (slotAddr 0 0 0 34) (leBytes 32 (pageUpdate 0 1).1), .bytes (slotAddr 0 0 0 35) (leBytes 32 (pageUpdate 0 1).2)] } }

theorem editedPage_settled : editedPage.ctl.Settled := by
  simp [editedPage, Ctl.Settled, Ctl.Clean]

/-- Seen through the change, the word solves to 1. -/
theorem editedPage_pageRebuild : editedPage.ctl.pageRebuild editedPage.arr 0 0 0 0 = some 1 := by
  decide +kernel

/-- The command reads the array as it is, where the word solves to 0. -/
theorem editedPage_got {t : State} (h : exec (.pageRebuild 0 []) editedPage = .next t) :
    (t.ctl.pc 0).queue.map (·.got) = [[(0, 0)]] := by
  injection h with h
  rw [← h]
  decide +kernel

/-! ## A PC that is listed twice -/

/-- ACTIVE with PC 0 listed twice, as idle in front: the second entry is never read. -/
def listedTwice : State :=
  { ctl :=
      { power := .run
        flds :=
          [(fkey F.GL_MODE_STATE 0, Mode.active.code), (fkey F.SEM_OWNER_OWNER 0, Master.a.code),
            (fkey F.FLT_STATUS_FAULTN 0, 1)]
        pcs := [(0, {}), (0, { scrubbed := 1 })] } }

/-- The model's own invariant does not exclude such a table. -/
theorem listedTwice_inv : Inv listedTwice where
  memory := rfl
  edits := rfl
  raised := rfl
  pin := by unfold FaultPin; decide +kernel

theorem listedTwice_quiet : listedTwice.ctl.Quiet := by
  simp [listedTwice, Ctl.Quiet, Ctl.Clean]

/-- The reset's cancelling of speculation writes the PC back as idle, which takes both entries out before the reset is listed. -/
theorem listedTwice_chCtrlReset {t : State} (h : exec (.chCtrlReset .a 0 1) listedTwice = .next t) : t.ctl.pcs.length = 1 := by
  injection h with h
  rw [← h]
  decide +kernel

end Sys2Proof.Machine

namespace Sys2Proof.ChannelSequencers
open Sys2Proof.Machine

/-- Refutes O29: its clause on HELD_TIMEOUT takes `Answers` before the command for a request of any pair number. At `strayHeld` that
pair's disabled bit shares its key with the count that the command raises, and the completion that the clause claims is discarded. -/
theorem not_queueEntry : ¬ Obligations.QueueEntry := by
  unfold Obligations.QueueEntry
  intro h
  obtain ⟨-, -, htimeout⟩ := h strayHeld 0 strayJob strayHeld_settled rfl
  obtain ⟨t, ht, hends, -⟩ :=
    htimeout .a strayRequest (.inr nofun) rfl rfl rfl rfl rfl strayHeld_answers
  have hclaimed : t.ctl.pa.grps.length = 1 := (hends.part (·.pa.grps.length) fun _ => rfl).trans (by decide +kernel)
  rw [strayHeld_heldTimeout ht] at hclaimed
  exact absurd hclaimed (by decide)

/-- Refutes O32: its clause on PAGE_REBUILD takes the word from `s.ctl.pageRebuild s.arr`, which applies `s.ctl.edits` first, and the
command drops those edits before it reads. At `editedPage` it claims the word 1, and the command delivers 0. -/
theorem not_returns : ¬ Obligations.Returns := by
  unfold Obligations.Returns
  intro h
  obtain ⟨-, -, -, -, -, hrebuild⟩ := h editedPage 0 editedPage_settled
  obtain ⟨t, ht, hends, -⟩ := hrebuild rebuildOfJob rebuildJob 1 rfl rfl rfl ⟨0, 0, 0, false, rfl⟩ rfl (List.cons_ne_nil _ _)
    rfl rfl rfl rfl rfl rfl rfl rfl rfl rfl rfl editedPage_pageRebuild
  have hclaimed : (t.ctl.pc 0).queue.map (·.got) = [[(0, 1)]] :=
    (hends.part (fun m => (m.pc 0).queue.map (·.got)) fun _ => rfl).trans (by decide +kernel)
  rw [editedPage_got ht] at hclaimed
  exact absurd hclaimed (by decide)

/-- Refutes O34: its clause on the owner's write claims the table of PCs with the reset listed in place of the PC's first entry. At
`listedTwice` the second entry of the same PC is gone. -/
theorem not_blockResets : ¬ Obligations.BlockResets := by
  unfold Obligations.BlockResets
  intro h
  obtain ⟨hstart, -⟩ := h listedTwice 0 .a 1 listedTwice_quiet rfl
  obtain ⟨t, ht, hends, -⟩ := hstart rfl rfl rfl rfl rfl rfl rfl
  have hclaimed : t.ctl.pcs.length = 2 := (hends.part (·.pcs.length) fun _ => rfl).trans (by decide +kernel)
  rw [listedTwice_chCtrlReset ht] at hclaimed
  exact absurd hclaimed (by decide)

end Sys2Proof.ChannelSequencers
end

section
/-!
The statement of chapter 7 that fails. It quantifies over every value of type `State`, and its counterexample lies in what it does not
exclude: a table of PCs that lists one PC twice.
-/

namespace Sys2Proof.Machine

/-- A scrub of row 0 of bank 0 for the walk, with its 16 column slots behind it. -/
def walkScrub : Bg := { kind := .scrub, bank := 0, row := 0, walk := true, turns := 16 }

/-- Its granules in the queue. -/
def walkScrubJobs : List Job :=
  walkScrub.grans.map fun n => { who := .bg walkScrub.kind walkScrub.bank walkScrub.row n, acc := .write, addr := 0, len := 64 }

/-- ACTIVE with that scrub in PC 0, which is listed twice: the second entry is never read. -/
def scrubListedTwice : State :=
  { ctl :=
      { power := .run
        flds := [(fkey F.GL_MODE_STATE 0, Mode.active.code), (fkey F.FLT_STATUS_FAULTN 0, 1)]
        pcs := [(0, { bg := [walkScrub], queue := walkScrubJobs }), (0, { scrubbed := 1 })] } }

/-- The model's own invariant does not exclude such a table. -/
theorem scrubListedTwice_inv : Inv scrubListedTwice where
  memory := rfl
  edits := rfl
  raised := rfl
  pin := by unfold FaultPin; decide +kernel

theorem scrubListedTwice_quiet : scrubListedTwice.ctl.Quiet := by
  simp [scrubListedTwice, Ctl.Quiet, Ctl.Clean]

/-- Every queued granule is the scrub's. -/
theorem walkScrub_holds : ∀ j ∈ walkScrubJobs, walkScrub.holds j = true := by
  decide +kernel

/-- The row is as the array initialisation leaves it (R401): its words, and the slots beside them, read 0 and sound. -/
theorem scrubListedTwice_raw : ∀ w < 36, scrubListedTwice.arr.raw 0 walkScrub.bank walkScrub.row w = { data := 0 } := by
  decide +kernel

/-- With the scrub and its granules taken out the PC is written back as idle, which takes both entries out before its place in the walk
is listed. -/
theorem scrubListedTwice_scrubRow {t : State} (h : exec (.scrubRow 0 []) scrubListedTwice = .next t) :
    t.ctl.pcs = [(0, { scrubbed := 1 })] := by
  injection h with h
  rw [← h]
  decide +kernel

/-- Its place in the walk listed at once, as the statement claims, leaves the second entry where it is. -/
theorem scrubListedTwice_setPc : (scrubListedTwice.ctl.setPc 0 { scrubbed := 1 }).pcs.length = 2 := by
  decide +kernel

end Sys2Proof.Machine

namespace Sys2Proof.StoredDataCodes
open Sys2Proof.Machine

/-- Refutes O35: its clause on SCRUB_ROW claims the table of PCs with the scrubbed PC changed in place of its first entry. At
`scrubListedTwice` the second entry of the same PC is gone. -/
theorem not_repairScrub : ¬ Obligations.RepairScrub := by
  unfold Obligations.RepairScrub
  intro h
  obtain ⟨-, -, hscrub⟩ :=
    h.1 scrubListedTwice 0 walkScrub walkScrubJobs scrubListedTwice_quiet rfl (le_refl 16) walkScrub_holds
  obtain ⟨t, ht, hends⟩ := hscrub rfl rfl rfl scrubListedTwice_raw
  have hclaimed : t.ctl.pcs.length = 2 := (hends.part (·.pcs.length) fun _ => rfl).trans scrubListedTwice_setPc
  rw [scrubListedTwice_scrubRow ht] at hclaimed
  exact absurd hclaimed (by decide)

end Sys2Proof.StoredDataCodes
end

section
/-!
The yield floor of a PC (R229).
-/

namespace Sys2Proof.Machine

/-- `CH_STATUS.QLEVEL` is a view of the PC's queue. -/
@[simp] theorem Ctl.shown_qLevel (m : Ctl) (p : Nat) : m.shown F.CH_STATUS_QLEVEL p = (m.pc p).queue.length := rfl

theorem Ctl.floor_of_lt {m : Ctl} {x : Pc} (h : x.queue.length < max 64 (m.get F.QOS_FB_HIGH_WATER)) : m.floor x = 16 :=
  if_pos h

theorem Ctl.floor_of_le {m : Ctl} {x : Pc} (h : max 64 (m.get F.QOS_FB_HIGH_WATER) ≤ x.queue.length) :
    m.floor x = 15 - (x.queue.length - max 64 (m.get F.QOS_FB_HIGH_WATER)) * 16 / (256 - max 64 (m.get F.QOS_FB_HIGH_WATER)) :=
  if_neg (not_lt.mpr h)

end Sys2Proof.Machine

namespace Sys2Proof.SessionsAndRegulation
open Sys2Proof.Machine

/-- Settles O28: by the side of the high-water mark on which the queue level lies; the model's truncated subtraction from 15 is the
rule's maximum with 0. -/
theorem yieldFloor : Obligations.YieldFloor := by
  unfold Obligations.YieldFloor
  intro m p
  rw [Ctl.shown_qLevel]
  refine ⟨Ctl.floor_of_lt, fun h => ?_⟩
  rw [Ctl.floor_of_le h]
  omega

end Sys2Proof.SessionsAndRegulation
end

section
/-!
Commands that change registers and something else besides, and fields that are cleared together.
-/

namespace Sys2Proof.Machine

/-- The next state of a command that brings the state to `n`, whose registers are those before, and then writes registers. -/
theorem exec_of_onlyFlds {s : State} {c : Instr} {g : Arr → Ctl → Ctl} {n x m : Ctl} {l : List (Fld × Nat)}
    (hc : exec c s = .next (run s g)) (hx : g s.arr s.ctl.fresh = x) (h : n.OnlyFlds x l) (hq : n.Quiet) (hflds : n.flds = s.ctl.flds)
    (hr : n.raised = []) (he : n.edits = []) (hm : n.rest = m.rest) :
    ∃ t, exec c s = .next t ∧ Ends s t l m ∧
      ∀ f i, f.id ≠ F.FLT_STATUS_FAULTN.id → i < 1048576 → t.ctl.get f i = x.get f i := by
  have hsame : s.ctl.SameFlds x l := fun f i hf => (h.flds f i hf).trans (Ctl.get_congr hflds f i)
  obtain ⟨t, ht, hends, hget⟩ := exec_of_effect hc hx (h.quiet hq) (h.raised.trans hr) (h.edits.trans he) hsame
  exact ⟨t, ht, hends.of_rest (h.rest.trans hm), fun f i hf hi => hget f i (fkey_ne hf hi (by decide))⟩

/-- The same of a command that writes no register. -/
theorem exec_of_change {s : State} {c : Instr} {g : Arr → Ctl → Ctl} {n m : Ctl}
    (hc : exec c s = .next (run s g)) (hx : g s.arr s.ctl.fresh = n) (hq : n.Quiet) (hflds : n.flds = s.ctl.flds)
    (hr : n.raised = []) (he : n.edits = []) (hm : n.rest = m.rest) : ∃ t, exec c s = .next t ∧ Ends s t [] m := by
  obtain ⟨t, ht, hends⟩ := exec_of_noField hc hx hq hr he hflds
  exact ⟨t, ht, hends.of_rest hm⟩

/-- A frame with fewer fields is a frame with more. -/
theorem Ends.mono {s t : State} {l l' : List (Fld × Nat)} {m : Ctl} (h : Ends s t l m) (hl : ∀ e ∈ l, e ∈ l') : Ends s t l' m :=
  ⟨h.pending, h.arr, h.flds.mono (by simpa using fun a b hab => Or.inr (hl (a, b) hab)), h.rest⟩

/-- Of a frame of one copy of several fields, that copy of every other field reads as before. -/
theorem Ends.get_copy {s t : State} {fs : List Fld} {f : Fld} {i : Nat} {m : Ctl} (h : Ends s t (fs.map (·, i)) m)
    (hf : f.id ∉ (F.FLT_STATUS_FAULTN :: fs).map Fld.id) (hi : i < 1048576) : t.ctl.get f i = s.ctl.get f i := by
  refine h.flds.get_ids (ids := (F.FLT_STATUS_FAULTN :: fs).map Fld.id) (fun e he => ?_) hf hi
  rcases List.mem_cons.mp he with rfl | he
  · exact ⟨List.mem_cons_self, by decide⟩
  · obtain ⟨g, hg, rfl⟩ := List.mem_map.mp he
    exact ⟨List.mem_cons_of_mem _ (List.mem_map_of_mem hg), hi⟩

@[simp] theorem Ctl.get_setRing (m : Ctl) (r : Nat) (x : Ring) (f : Fld) (i : Nat) : (m.setRing r x).get f i = m.get f i := rfl

/-- A change of registers beside a change of a ring. -/
theorem Ctl.OnlyFlds.setRing {m n : Ctl} {l : List (Fld × Nat)} (h : m.OnlyFlds n l) (r : Nat) (x : Ring) :
    (m.setRing r x).OnlyFlds (n.setRing r x) l :=
  ⟨congrArg (·.setRing r x) h.rest, h.raised, h.edits, h.flds⟩

/-- Clear one copy of several fields. -/
def Ctl.zeroed (m : Ctl) (i : Nat) (fs : List Fld) : Ctl := fs.foldl (fun m f => m.set f i 0) m

theorem Ctl.OnlyFlds.zeroed (m : Ctl) (i : Nat) (fs : List Fld) : m.OnlyFlds (m.zeroed i fs) (fs.map (·, i)) := by
  induction fs generalizing m with
  | nil => exact .refl m
  | cons f fs ih => exact (Ctl.OnlyFlds.set m f i 0).trans (ih _)

section
variable {fs : List Fld} {f : Fld} {i : Nat}

theorem Ctl.get_zeroed_other (m : Ctl) (hf : f.id ∉ fs.map Fld.id) (hi : i < 1048576) : (m.zeroed i fs).get f i = m.get f i := by
  refine (Ctl.OnlyFlds.zeroed m i fs).flds.get_eq (fun e he => ?_) hi
  obtain ⟨g, hg, rfl⟩ := List.mem_map.mp he
  exact ⟨fun hid => hf (List.mem_map.mpr ⟨g, hg, hid.symm⟩), hi⟩

theorem Ctl.get_zeroed_mem (m : Ctl) (hfs : (fs.map Fld.id).Nodup) (hf : f ∈ fs) (hi : i < 1048576) : (m.zeroed i fs).get f i = 0 := by
  induction fs generalizing m with
  | nil => exact absurd hf (by simp)
  | cons g fs ih =>
    obtain ⟨hg, hrest⟩ := List.nodup_cons.mp hfs
    rcases List.mem_cons.mp hf with rfl | hmem
    · exact (Ctl.get_zeroed_other _ hg hi).trans ((Ctl.get_set_same _ _ _ _).trans (Nat.zero_mod _))
    · exact ih _ hrest hmem

end

end Sys2Proof.Machine
end

section
/-!
A ring's setup and control registers (R236, R237, R255).
-/

namespace Sys2Proof.Machine

/-! ## Where the registers are -/

/-- Does a register lie wholly below an address? -/
def RegDef.endsBy (d : RegDef) (addr : Nat) : Bool :=
  match d.dims with
  | [] => decide (d.base < addr)
  | (count, stride) :: _ => decide (0 < stride) && decide (d.base + count * stride ≤ addr)

theorem RegDef.at?_of_endsBy {d : RegDef} {lim addr : Nat} (h : d.endsBy lim = true) (hlim : lim ≤ addr) : d.at? addr = none := by
  unfold RegDef.endsBy at h
  unfold RegDef.at?
  cases hd : d.dims with
  | nil =>
    rw [hd] at h
    have hbase : d.base < lim := of_decide_eq_true h
    rw [if_neg (by omega), copyAt, if_neg (by omega)]
  | cons e dims =>
    obtain ⟨count, stride⟩ := e
    simp only [hd, Bool.and_eq_true, decide_eq_true_eq] at h
    obtain ⟨hstride, hspan⟩ := h
    have hfar : count ≤ (addr - d.base) / stride := (Nat.le_div_iff_mul_le hstride).mpr (by omega)
    rw [if_neg (by omega), copyAt, if_neg (by omega)]

/-- A register is found at an address that it has and no register listed before it. -/
theorem findReg_of_index {k addr i : Nat} {d : RegDef} (hk : regList[k]? = some d)
    (hbefore : ∀ e ∈ regList.take k, e.at? addr = none) (hat : d.at? addr = some i) : findReg addr = some (d, i) := by
  obtain ⟨hlt, hget⟩ := List.getElem?_eq_some_iff.mp hk
  refine List.findSome?_eq_some_iff.mpr ⟨regList.take k, d, regList.drop (k + 1), ?_, by rw [hat]; rfl, fun e he => ?_⟩
  · rw [← hget, List.cons_getElem_drop_succ, List.take_append_drop]
  · rw [hbefore e he]
    rfl

/-- The registers listed before the rings' lie below them. -/
theorem regList_endsBy_rings : ∀ e ∈ regList.take 167, e.endsBy 0xE0000 = true := by
  decide +kernel

/-- Behind them come the rings' own. -/
theorem mem_regList_take {k : Nat} {d e : RegDef} (hk : regList[k]? = some d) (he : e ∈ regList.take (k + 1)) :
    e ∈ regList.take k ∨ e = d := by
  rw [List.take_add_one, hk] at he
  simpa using he

/-- The addresses of the two registers among those of the registers listed beside them. -/
theorem ringRegs_at (r : Fin 160) :
    (0xE0000 ≤ D.RING_CFG.addr r.val ∧ D.RING_BASE.at? (D.RING_CFG.addr r.val) = none ∧
      D.RING_BASE_HI.at? (D.RING_CFG.addr r.val) = none ∧ D.RING_CFG.at? (D.RING_CFG.addr r.val) = some r.val) ∧
    0xE0000 ≤ D.RING_CTRL.addr r.val ∧ D.RING_BASE.at? (D.RING_CTRL.addr r.val) = none ∧
      D.RING_BASE_HI.at? (D.RING_CTRL.addr r.val) = none ∧ D.RING_CFG.at? (D.RING_CTRL.addr r.val) = none ∧
      D.RING_CTRL.at? (D.RING_CTRL.addr r.val) = some r.val := by
  revert r
  decide +kernel

/-- No register listed before `RING_CFG` has an address that the rings' bases do not have. -/
theorem at?_before_ringCfg {addr : Nat} (hlow : 0xE0000 ≤ addr) (hbase : D.RING_BASE.at? addr = none)
    (hhigh : D.RING_BASE_HI.at? addr = none) : ∀ e ∈ regList.take 169, e.at? addr = none := by
  intro e he
  rcases mem_regList_take (k := 168) rfl he with he | rfl
  · rcases mem_regList_take (k := 167) rfl he with he | rfl
    · exact RegDef.at?_of_endsBy (regList_endsBy_rings e he) hlow
    · exact hbase
  · exact hhigh

theorem findReg_ringCfg (r : Fin 160) : findReg (D.RING_CFG.addr r.val) = some (D.RING_CFG, r.val) := by
  obtain ⟨⟨hlow, hbase, hhigh, hat⟩, -⟩ := ringRegs_at r
  exact findReg_of_index (k := 169) rfl (at?_before_ringCfg hlow hbase hhigh) hat

theorem findReg_ringCtrl (r : Fin 160) : findReg (D.RING_CTRL.addr r.val) = some (D.RING_CTRL, r.val) := by
  obtain ⟨-, hlow, hbase, hhigh, hcfg, hat⟩ := ringRegs_at r
  refine findReg_of_index (k := 170) rfl (fun e he => ?_) hat
  rcases mem_regList_take (k := 169) rfl he with he | rfl
  · exact at?_before_ringCfg hlow hbase hhigh e he
  · exact hcfg

/-- The registers of the rings are words of config space, and no doorbell page. -/
theorem ringAddr_plain (r : Fin 160) : ∀ addr ∈ [D.RING_CFG.addr r.val, D.RING_CTRL.addr r.val],
    addr < 2 ^ 24 ∧ addr % 4 = 0 ∧ configGap addr 4 = false ∧ doorbellRing addr = none ∧ inMsix addr = false := by
  revert r
  decide +kernel

/-! ## Who may write them -/

theorem ringMaster_eq_iff (r : Nat) (x : Master) : ringMaster r = x.code ↔ ringOwner r = x := by
  unfold ringMaster ringOwner
  split_ifs <;> cases x <;> simp [Master.code]

section
variable {m : Ctl} {a : Arr} {x : Master} {addr v r : Nat} {d : RegDef}

/-- A write of a ring's register is its master's (R237). -/
theorem Ctl.masterWrite_ring (hrun : m.power = .run)
    (hplain : addr < 2 ^ 24 ∧ addr % 4 = 0 ∧ configGap addr 4 = false ∧ doorbellRing addr = none ∧ inMsix addr = false)
    (hfind : findReg addr = some (d, r)) (hring : isRing d.reg = true) (howner : ringOwner r = x) :
    m.masterWrite a x addr v = m.ringStore d r v := by
  obtain ⟨-, halign, hgap, hbell, hmsix⟩ := hplain
  have hcode := (ringMaster_eq_iff r x).mpr howner
  have hwrite : m.regWrite a x addr v = (stOk, m.ringStore d r v) := by
    simp [Ctl.regWrite, hbell, hmsix, Ctl.writeAt, hfind, hring, hcode]
  simp only [Ctl.masterWrite, Ctl.alive, hrun, halign, hgap, hwrite]
  cases x <;> rfl

/-- Another master's write of it is dropped (R237). -/
theorem Ctl.masterWrite_ring_other
    (hplain : addr < 2 ^ 24 ∧ addr % 4 = 0 ∧ configGap addr 4 = false ∧ doorbellRing addr = none ∧ inMsix addr = false)
    (hfind : findReg addr = some (d, r)) (hring : isRing d.reg = true) (howner : ringOwner r ≠ x) (hx : x ≠ .svc) :
    m.masterWrite a x addr v = m := by
  obtain ⟨-, halign, hgap, hbell, hmsix⟩ := hplain
  have hcode : ringMaster r ≠ x.code := fun h => howner ((ringMaster_eq_iff r x).mp h)
  have hwrite : m.regWrite a x addr v = (stNotOwner, m) := by
    simp [Ctl.regWrite, hbell, hmsix, Ctl.writeAt, hfind, hring, hcode]
  simp only [Ctl.masterWrite, hwrite]
  cases x with
  | svc => exact absurd rfl hx
  | a => exact ite_self m
  | b => exact ite_self m

end

/-! ## The setup of a ring -/

/-- What a restart clears of a ring (R237). -/
def ringIndices : List Fld :=
  [F.RING_PROD_PROD, F.RING_NEXT_NEXT, F.RING_CONS_CONS, F.RING_STATUS_CAUSE, F.RING_STATUS_FETCH_FAIL, F.RING_STATUS_RECORD_FAIL]

/-- What a RESUME clears of a ring (R255). -/
def ringCauses : List Fld := [F.RING_STATUS_CAUSE, F.RING_STATUS_FETCH_FAIL, F.RING_STATUS_RECORD_FAIL]

/-- Does a ring of user space reach beyond it (R236)? -/
def Ctl.Misplaced (m : Ctl) (r : Nat) : Prop :=
  r < 128 ∧ (32 ≤ m.get F.RING_BASE_HI_BASE_HI r ∨ 2 ^ 37 < m.ringBase r + 64 * m.ringSize r)

/-- A write of its size sets a quiet ring up anew. -/
theorem Ctl.ringStore_cfg {m : Ctl} {r : Nat} (v : Nat) (h : m.ringQuiet r = true) :
    m.ringStore D.RING_CFG r v = (m.storeParts r v D.RING_CFG.parts).ringSetUp r := if_pos h

/-- The state that a ring restarts in, and the error that goes with a misplaced one (R237). -/
def Ctl.ringPlaced (m : Ctl) (r : Nat) : Ctl :=
  let wrong := decide (r < 128) &&
    (decide (32 ≤ m.get F.RING_BASE_HI_BASE_HI r) || decide (2 ^ 37 < m.ringBase r + 64 * m.ringSize r))
  if m.get F.RING_CFG_SIZE r = 0 then m.set F.RING_STATUS_STATE r rsDisabled
  else if wrong then (m.set F.RING_STATUS_STATE r rsDisabled).set F.RING_STATUS_CFG_ERR r 1
  else m.set F.RING_STATUS_STATE r rsIdle

theorem Ctl.ringSetUp_eq (m : Ctl) (r : Nat) : m.ringSetUp r = ((m.zeroed r ringIndices).setRing r {}).ringPlaced r := rfl

section
variable {m n : Ctl} {r : Nat}

theorem Ctl.OnlyFlds.ringPlaced (m : Ctl) (r : Nat) :
    m.OnlyFlds (m.ringPlaced r) [(F.RING_STATUS_STATE, r), (F.RING_STATUS_CFG_ERR, r)] := by
  unfold Ctl.ringPlaced
  dsimp only
  split_ifs
  · exact (Ctl.OnlyFlds.set m _ _ _).mono (by simp)
  · exact (Ctl.OnlyFlds.set m _ _ _).trans (.set _ _ _ _)
  · exact (Ctl.OnlyFlds.set m _ _ _).mono (by simp)

theorem Ctl.ringState_ringPlaced (m : Ctl) (hr : r < 1048576) [Decidable (m.get F.RING_CFG_SIZE r = 0 ∨ m.Misplaced r)] :
    (m.ringPlaced r).ringState r = if m.get F.RING_CFG_SIZE r = 0 ∨ m.Misplaced r then rsDisabled else rsIdle := by
  have hwrong : (decide (r < 128) &&
      (decide (32 ≤ m.get F.RING_BASE_HI_BASE_HI r) || decide (2 ^ 37 < m.ringBase r + 64 * m.ringSize r))) = true ↔ m.Misplaced r := by
    simp [Ctl.Misplaced]
  unfold Ctl.ringPlaced Ctl.ringState
  dsimp only
  by_cases hsize : m.get F.RING_CFG_SIZE r = 0
  · rw [if_pos hsize, if_pos (.inl hsize), Ctl.get_set_same]
    rfl
  · by_cases hbad : m.Misplaced r
    · rw [if_neg hsize, if_pos (hwrong.mpr hbad), if_pos (.inr hbad), Ctl.get_set_fld _ _ (by decide) hr hr, Ctl.get_set_same]
      rfl
    · rw [if_neg hsize, if_neg (mt hwrong.mp hbad), if_neg (by simp [hsize, hbad]), Ctl.get_set_same]
      rfl

/-- Where a ring lies is a matter of its base and its size. -/
theorem Ctl.misplaced_congr (h : ∀ f ∈ [F.RING_BASE_BASE, F.RING_BASE_HI_BASE_HI, F.RING_CFG_SIZE], n.get f r = m.get f r) :
    n.Misplaced r ↔ m.Misplaced r := by
  simp only [List.forall_mem_cons, List.not_mem_nil, false_imp_iff, implies_true, and_true] at h
  obtain ⟨hbase, hhigh, hsize⟩ := h
  simp only [Ctl.Misplaced, Ctl.ringBase, Ctl.ringSize, hbase, hhigh, hsize]

/-- A write of `RING_CFG` stores the size that it carries. -/
theorem Ctl.get_storeParts_ringSize (m : Ctl) (r v : Nat) : (m.storeParts r v D.RING_CFG.parts).get F.RING_CFG_SIZE r = v % 32 := by
  have hpart : ∀ old, partNew ⟨4, 0, F.RING_CFG_SIZE, 0, 1, 0, .rw⟩ old v % 2 ^ 5 = v % 32 := fun old => by
    simp only [partNew, bits]
    omega
  simp only [D.RING_CFG, Ctl.storeParts, Nat.mul_one, Nat.add_zero]
  rw [Ctl.get_set_same]
  exact hpart _

/-- The fields that a write of `RING_CFG` writes: those of its parts, and what restarting the ring sets. -/
def ringSetupFlds : List Fld :=
  [F.RING_CFG_VECTOR, F.RING_CFG_SERIAL, F.RING_CFG_DEPTH, F.RING_CFG_SIZE] ++ ringIndices ++ [F.RING_STATUS_STATE, F.RING_STATUS_CFG_ERR]

/-- A ring with its size stored and nothing in it, before its new state is found. -/
def Ctl.emptied (m : Ctl) (r v : Nat) : Ctl := ((m.storeParts r v D.RING_CFG.parts).zeroed r ringIndices).setRing r {}

theorem Ctl.OnlyFlds.emptied (m : Ctl) (r v : Nat) :
    (m.setRing r {}).OnlyFlds (m.emptied r v)
      (([F.RING_CFG_VECTOR, F.RING_CFG_SERIAL, F.RING_CFG_DEPTH, F.RING_CFG_SIZE] ++ ringIndices).map (·, r)) :=
  (((Ctl.OnlyFlds.storeParts m r v D.RING_CFG.parts).trans (.zeroed _ r ringIndices)).setRing r {}).mono (by simp [D.RING_CFG])

theorem Ctl.get_emptied_size (m : Ctl) (v : Nat) (hr : r < 1048576) : (m.emptied r v).get F.RING_CFG_SIZE r = v % 32 := by
  rw [Ctl.emptied, Ctl.get_setRing, Ctl.get_zeroed_other _ (by decide) hr, Ctl.get_storeParts_ringSize]

theorem Ctl.get_emptied_index (m : Ctl) (v : Nat) {f : Fld} (hf : f ∈ ringIndices) (hr : r < 1048576) : (m.emptied r v).get f r = 0 := by
  rw [Ctl.emptied, Ctl.get_setRing, Ctl.get_zeroed_mem _ (by decide) hf hr]

/-! ## RESUME -/

/-- A ring that goes on from where it stands (R255). -/
def Ctl.resumed (m : Ctl) (r : Nat) : Ctl :=
  (m.zeroed r ringCauses).set F.RING_STATUS_STATE r
    (if (m.zeroed r ringCauses).get F.RING_CONS_CONS r == (m.zeroed r ringCauses).get F.RING_PROD_PROD r then rsIdle else rsRunning)

/-- A RESUME of a halted ring with nothing in progress, and no record to send again. -/
theorem Ctl.ringResume_eq (hst : m.ringState r = rsHalted ∨ m.ringState r = rsAborted) (hring : m.ring r = {}) :
    m.ringResume r = m.resumed r := by
  have hcond : ((m.ringState r == rsHalted || m.ringState r == rsAborted) && (m.ring r).inflight == 0) = true := by
    simp [hst, hring, Ring.inflight]
  have hfailed : ((m.resumed r).ring r).failed = [] := by
    change (m.ring r).failed = []
    rw [hring]
  let cons := (m.resumed r).get F.RING_CONS_CONS r
  have hheld : m.ringResume r = (((m.resumed r).ring r).failed.sorted fun x y =>
      decide (ixSub x.idx cons ≤ ixSub y.idx cons)).foldl (fun m d => m.writeRecord r d) (m.resumed r) := if_pos hcond
  rw [hheld, hfailed]
  rfl

theorem Ctl.OnlyFlds.resumed (m : Ctl) (r : Nat) :
    m.OnlyFlds (m.resumed r) ((ringCauses ++ [F.RING_STATUS_STATE]).map (·, r)) :=
  (Ctl.OnlyFlds.zeroed m r ringCauses).trans (.set _ _ _ _)

theorem Ctl.ringState_resumed (m : Ctl) (hr : r < 1048576) :
    (m.resumed r).ringState r = if m.get F.RING_CONS_CONS r = m.get F.RING_PROD_PROD r then rsIdle else rsRunning := by
  have hcons : (m.zeroed r ringCauses).get F.RING_CONS_CONS r = m.get F.RING_CONS_CONS r := Ctl.get_zeroed_other m (by decide) hr
  have hprod : (m.zeroed r ringCauses).get F.RING_PROD_PROD r = m.get F.RING_PROD_PROD r := Ctl.get_zeroed_other m (by decide) hr
  unfold Ctl.ringState Ctl.resumed
  rw [Ctl.get_set_same, hcons, hprod]
  simp only [beq_iff_eq]
  split_ifs <;> rfl

theorem Ctl.get_resumed_cause (m : Ctl) {f : Fld} (hf : f ∈ ringCauses) (hr : r < 1048576) : (m.resumed r).get f r = 0 := by
  rw [Ctl.resumed, Ctl.get_set_fld _ _ (by revert f; decide) hr hr, Ctl.get_zeroed_mem m (by decide) hf hr]

end

/-! ## The commands -/

section
variable {s : State} {x : Master} {r : Fin 160} {value : BitVec 32}

theorem ring_lt (r : Fin 160) : r.val < 1048576 := by omega

/-- What a write of its size leaves of a quiet ring. -/
theorem exec_ringSetupWrite (hq : s.ctl.Quiet) (hrun : s.ctl.power = .run) (howner : ringOwner r.val = x)
    (hquiet : s.ctl.ringQuiet r.val = true) :
    ∃ t, exec (.ringSetupWrite x (BitVec.ofNat 24 (D.RING_CFG.addr r.val)) value) s = .next t ∧
      Ends s t (ringSetupFlds.map (·, r.val)) (s.ctl.setRing r.val {}) ∧
      ∀ f : Fld, f.id ≠ F.FLT_STATUS_FAULTN.id →
        t.ctl.get f r.val = ((s.ctl.fresh.emptied r.val value.toNat).ringPlaced r.val).get f r.val := by
  have hplain := ringAddr_plain r _ (List.mem_cons_self)
  have haddr : (BitVec.ofNat 24 (D.RING_CFG.addr r.val)).toNat = D.RING_CFG.addr r.val := by
    rw [BitVec.toNat_ofNat, Nat.mod_eq_of_lt hplain.1]
  have heffect : s.ctl.fresh.masterWrite s.arr x (BitVec.ofNat 24 (D.RING_CFG.addr r.val)).toNat value.toNat =
      (s.ctl.fresh.emptied r.val value.toNat).ringPlaced r.val := by
    rw [haddr, Ctl.masterWrite_ring (m := s.ctl.fresh) hrun hplain (findReg_ringCfg r) rfl howner,
      Ctl.ringStore_cfg (m := s.ctl.fresh) _ hquiet, Ctl.ringSetUp_eq]
    rfl
  have honly := (Ctl.OnlyFlds.emptied s.ctl.fresh r.val value.toNat).trans (.ringPlaced _ r.val)
  obtain ⟨t, ht, hends, hget⟩ := exec_of_onlyFlds (c := .ringSetupWrite x (BitVec.ofNat 24 (D.RING_CFG.addr r.val)) value)
    (m := s.ctl.setRing r.val {}) rfl heffect honly hq rfl rfl rfl rfl
  exact ⟨t, ht, hends, fun f hf => hget f r.val hf (ring_lt r)⟩

/-- The state of a ring that has been set up anew, by its size and its place (R236, R237). -/
theorem Ctl.ringState_restarted (m : Ctl) (v : Nat) {r : Nat} (hr : r < 1048576)
    [Decidable (v % 32 = 0 ∨ (m.emptied r v).Misplaced r)] :
    ((m.emptied r v).ringPlaced r).ringState r = if v % 32 = 0 ∨ (m.emptied r v).Misplaced r then rsDisabled else rsIdle := by
  classical
  rw [Ctl.ringState_ringPlaced _ hr]
  simp only [Ctl.get_emptied_size m v hr]

/-- What RESUME leaves of a halted ring with nothing in progress. -/
theorem exec_resume (hq : s.ctl.Quiet) (hrun : s.ctl.power = .run) (howner : ringOwner r.val = x) (hbit : value.getLsbD 0 = true)
    (hst : s.ctl.ringState r.val = rsHalted ∨ s.ctl.ringState r.val = rsAborted) (hring : s.ctl.ring r.val = {}) :
    ∃ t, exec (.resume x r value []) s = .next t ∧
      Ends s t ((ringCauses ++ [F.RING_STATUS_STATE]).map (·, r.val)) s.ctl ∧
      ∀ f : Fld, f.id ≠ F.FLT_STATUS_FAULTN.id → t.ctl.get f r.val = (s.ctl.fresh.resumed r.val).get f r.val := by
  have hplain := ringAddr_plain r (D.RING_CTRL.addr r.val) (by simp)
  have hbit' : bit value.toNat 0 = true := hbit
  have heffect : (s.ctl.fresh.noise s.arr []).masterWrite s.arr x (D.RING_CTRL.addr r.val) value.toNat = s.ctl.fresh.resumed r.val :=
    calc (s.ctl.fresh.noise s.arr []).masterWrite s.arr x (D.RING_CTRL.addr r.val) value.toNat
      _ = s.ctl.fresh.ringStore D.RING_CTRL r.val value.toNat :=
        Ctl.masterWrite_ring (m := s.ctl.fresh) hrun hplain (findReg_ringCtrl r) rfl howner
      _ = s.ctl.fresh.ringResume r.val := if_pos hbit'
      _ = s.ctl.fresh.resumed r.val := Ctl.ringResume_eq hst hring
  obtain ⟨t, ht, hends, hget⟩ := exec_of_onlyFlds (c := .resume x r value []) (m := s.ctl) rfl heffect
    (.resumed s.ctl.fresh r.val) hq rfl rfl rfl rfl
  exact ⟨t, ht, hends, fun f hf => hget f r.val hf (ring_lt r)⟩

end

end Sys2Proof.Machine

namespace Sys2Proof.RingsAndMover
open Sys2Proof.Machine

/-- Settles O40: each command is a config write of its ring's register, which the ring's master makes. -/
theorem ringRegisters : Obligations.RingRegisters := by
  unfold Obligations.RingRegisters
  intro s x r value all cfg cleared hq hrun
  have hr := ring_lt r
  refine ⟨fun howner hquiet => ?_, fun howner hbit hst hring => ?_, fun howner hx => ?_⟩
  · obtain ⟨t, ht, hends, hget⟩ := exec_ringSetupWrite (value := value) hq hrun howner hquiet
    have hplaced := (Ctl.OnlyFlds.ringPlaced (s.ctl.fresh.emptied r.val value.toNat) r.val).flds
    have hempty : ∀ f : Fld, f.id ∉ [F.RING_STATUS_STATE.id, F.RING_STATUS_CFG_ERR.id, F.FLT_STATUS_FAULTN.id] →
        t.ctl.get f r.val = (s.ctl.fresh.emptied r.val value.toNat).get f r.val := fun f hf => by
      simp only [List.mem_cons, List.not_mem_nil, or_false, not_or] at hf
      obtain ⟨hstate, herr, hpin⟩ := hf
      rw [hget f hpin, hplaced.get_eq (by simp [hstate, herr, hr]) hr]
    have hbase : ∀ f ∈ [F.RING_BASE_BASE, F.RING_BASE_HI_BASE_HI], t.ctl.get f r.val = s.ctl.get f r.val := fun f hf =>
      hends.get_copy (by revert f; decide) hr
    have hzero : ∀ f ∈ ringIndices, t.ctl.get f r.val = 0 := fun f hf =>
      (hempty f (by revert f; decide)).trans (Ctl.get_emptied_index _ _ hf hr)
    have hbad : (s.ctl.fresh.emptied r.val value.toNat).Misplaced r.val ↔ t.ctl.Misplaced r.val :=
      (Ctl.misplaced_congr fun f hf => hempty f (by revert f; decide)).symm
    simp only [ringIndices, List.forall_mem_cons, List.not_mem_nil, false_imp_iff, implies_true, and_true] at hzero hbase
    obtain ⟨hprod, hnext, hcons, hcause, hfetch, hrecord⟩ := hzero
    obtain ⟨hbase, hhigh⟩ := hbase
    refine ⟨t, ht, ?_, ⟨hcause, hfetch, hrecord⟩, hprod, hnext, hcons, ?_, ?_⟩
    · exact hends.mono (by simp [ringSetupFlds, ringIndices, all, cfg])
    · exact (hempty _ (by decide)).trans (Ctl.get_emptied_size _ _ hr)
    · classical
      have hplace : t.ctl.Misplaced r.val ↔ r.val < 128 ∧ (32 ≤ s.ctl.get F.RING_BASE_HI_BASE_HI r.val ∨
          2 ^ 37 < s.ctl.ringBase r.val + 64 * t.ctl.ringSize r.val) := by
        simp only [Ctl.Misplaced, Ctl.ringBase, hbase, hhigh]
      rw [Ctl.ringState, hget _ (by decide), ← Ctl.ringState, Ctl.ringState_restarted _ _ hr]
      exact if_congr (or_congr_right (hbad.trans hplace)) rfl rfl
  · obtain ⟨t, ht, hends, hget⟩ := exec_resume hq hrun howner hbit hst hring
    have hkept : ∀ f ∈ [F.RING_PROD_PROD, F.RING_CONS_CONS], t.ctl.get f r.val = s.ctl.get f r.val := fun f hf =>
      hends.get_copy (by revert f; decide) hr
    have hzero : ∀ f ∈ ringCauses, t.ctl.get f r.val = 0 := fun f hf =>
      (hget f (by revert f; decide)).trans (Ctl.get_resumed_cause _ hf hr)
    refine ⟨t, ht, hends.mono (by simp [ringCauses, all]), ?_, hkept _ (by simp), hkept _ (by simp), ?_⟩
    · exact ⟨hzero _ (by simp [ringCauses]), hzero _ (by simp [ringCauses]), hzero _ (by simp [ringCauses])⟩
    · exact (hget _ (by decide)).trans (Ctl.ringState_resumed _ hr)
  · have hother := Ctl.masterWrite_ring_other (m := s.ctl.fresh) (a := s.arr) (v := value.toNat)
      (ringAddr_plain r (D.RING_CTRL.addr r.val) (by simp)) (findReg_ringCtrl r) rfl howner hx
    exact exec_of_change (c := .resume x r value []) rfl hother hq rfl rfl rfl rfl

end Sys2Proof.RingsAndMover
end

section
/-!
A descriptor that is alone in its ring: what changing, ending and halting it come to, and one turn of it (R244, R253, R255).
-/

namespace Sys2Proof.Machine

/-! ## A ring with one descriptor -/

section
variable {m : Ctl} {r i op cause status result : Nat} {d : Prog} {f : Ctl → Prog → Ctl}

@[simp] theorem Ctl.ring_withProg (m : Ctl) (r : Nat) (d : Prog) : (m.withProg r d).ring r = { prog := [d] } := by
  simp [Ctl.withProg, Ctl.setRing, Ctl.ring]

@[simp] theorem Ctl.withProg_withProg (m : Ctl) (r : Nat) (d e : Prog) : (m.withProg r d).withProg r e = m.withProg r e := by
  have hput : ∀ (t : Sparse Ring) (q : Prog), Sparse.setD t r { prog := [q] } {} = Sparse.put t r { prog := [q] } :=
    fun _ _ => if_neg (by simp)
  simp only [Ctl.withProg, Ctl.setRing, hput, Sparse.put_put]

theorem Ctl.prog?_lone (h : m.ring r = { prog := [d] }) : m.prog? r d.idx = some d := by
  simp [Ctl.prog?, h]

/-- Changing the only descriptor of a ring. -/
theorem Ctl.modProg_lone (h : m.ring r = { prog := [d] }) (f : Prog → Prog) : m.modProg r d.idx f = m.withProg r (f d) := by
  simp [Ctl.modProg, h, Ctl.withProg]

/-- Nothing in its ring is before it. -/
theorem Ctl.before_lone (h : m.ring r = { prog := [d] }) : m.before r d.idx = [] := by
  simp [Ctl.before, h]

theorem Ctl.fenceMet_lone (h : m.ring r = { prog := [d] }) : m.fenceMet r d.idx = true := by
  simp [Ctl.fenceMet, Ctl.before_lone h]

theorem Ctl.serialWait_lone (h : m.ring r = { prog := [d] }) (line : Nat) : m.serialWait r d.idx line = false := by
  simp [Ctl.serialWait, Ctl.before_lone h]

/-- The end of the only descriptor of a ring (R253). -/
theorem Ctl.endProg_lone (h : m.ring r = { prog := [d] }) (hphase : d.phase = .running) :
    m.endProg r d.idx status result =
      if 0x10 ≤ status then (m.withProg r (d.done status result)).haltRing r status else m.withProg r (d.done status result) := by
  simp [Ctl.endProg, Ctl.prog?_lone h, hphase, Ctl.modProg_lone h, haltsRing, Prog.done]

/-! ## Its turns -/

theorem Ctl.Works.fresh (h : m.Works r i op d) : m.fresh.Works r i op d :=
  ⟨h.quiet, h.runs, h.only, h.idx, h.phase, h.op, h.engine⟩

/-- A descriptor that an engine serves is acted on. -/
theorem Ctl.Works.onProg (h : m.Works r i op d) (f : Ctl → Prog → Ctl) : m.onProg r i op f = f m d := by
  have hprog : m.prog? r i = some d := h.idx ▸ Ctl.prog?_lone h.only
  have hengine : m.engineFor r d = some m := by
    unfold Ctl.engineFor
    by_cases hop : opEngine d.op = true
    · obtain ⟨hstalled, e, he, heq⟩ := h.engine hop
      have hany : (m.engines.any fun e => e.2 == (r, d.idx)) = true := List.any_eq_true.mpr ⟨e, he, beq_iff_eq.mpr heq⟩
      simp [hop, hstalled, hany]
    · simp [hop]
  simp [Ctl.onProg, h.runs, hprog, h.op, h.phase, hengine]

end

section
variable {s : State} {c : Instr} {r i op cause : Nat} {d q : Prog} {f : Ctl → Prog → Ctl} {n m : Ctl}

/-- A turn that writes no register. -/
theorem exec_of_turn (hc : exec c s = .next (run s fun _ m => m.onProg r i op f)) (hw : s.ctl.Works r i op d)
    (hx : f s.ctl.fresh d = n) (hq : n.Quiet) (hflds : n.flds = s.ctl.flds) (hr : n.raised = []) (he : n.edits = [])
    (hm : n.rest = m.rest) : ∃ t, exec c s = .next t ∧ Ends s t [] m :=
  exec_of_change hc ((hw.fresh.onProg f).trans hx) hq hflds hr he hm

/-- A turn that changes the descriptor, and nothing else. -/
theorem exec_of_progTurn (hc : exec c s = .next (run s fun _ m => m.onProg r i op f)) (hw : s.ctl.Works r i op d)
    (hx : f s.ctl.fresh d = s.ctl.fresh.withProg r q) : ∃ t, exec c s = .next t ∧ Ends s t [] (s.ctl.withProg r q) :=
  exec_of_turn hc hw hx hw.quiet rfl rfl rfl rfl

/-! ## Halting its ring -/

/-- A running ring's registers as it halts (R255 step 1). -/
def Ctl.halted (m : Ctl) (r cause : Nat) : Ctl :=
  ((m.set F.RING_STATUS_STATE r rsHalted).set F.RING_STATUS_CAUSE r cause).bump F.MOV_HALTS_COUNT

theorem Ctl.OnlyFlds.halted (m : Ctl) (r cause : Nat) : m.OnlyFlds (m.halted r cause) (haltFlds r) :=
  ((Ctl.OnlyFlds.set m _ _ _).trans (.set _ _ _ _)).trans (.set _ _ _ _)

theorem Ctl.haltedBy_halted (m : Ctl) (hr : r < 1048576) (hcause : cause < 256) : (m.halted r cause).HaltedBy r cause := by
  unfold Ctl.HaltedBy Ctl.halted Ctl.ringState
  rw [Ctl.bump_eq]
  constructor
  · rw [Ctl.get_set_fld _ _ (by decide) (by decide) hr, Ctl.get_set_fld _ _ (by decide) hr hr, Ctl.get_set_same]
    rfl
  · rw [Ctl.get_set_fld _ _ (by decide) (by decide) hr, Ctl.get_set_same]
    exact Nat.mod_eq_of_lt hcause

/-- Halting a running ring whose only descriptor has started leaves that descriptor in it. -/
theorem Ctl.haltRing_lone (h : m.ring r = { prog := [d] }) (hphase : d.phase ≠ .waiting) (hst : m.ringState r = rsRunning) :
    m.haltRing r cause = ((m.halted r cause).dropFetches r).withProg r d := by
  have hring : ∀ n : Ctl, n.rings = m.rings → n.ring r = { prog := [d] } := fun n hn => by rw [Ctl.ring, hn, ← Ctl.ring, h]
  have hgoes : (m.ringState r == rsHalted || m.ringState r == rsAborted) = false := by simp [hst, rsRunning, rsHalted, rsAborted]
  unfold Ctl.haltRing
  simp only [hgoes, Bool.false_eq_true, if_false]
  rw [← Ctl.halted]
  simp [hring (m.halted r cause) rfl, hring ((m.halted r cause).dropFetches r) rfl, hphase, Ctl.withProg]

theorem Who.otherThanFetch_of_ne {r : Nat} {w : Who} (h : ∀ i src, Who.engine r i fetchGran src ≠ w) : w.otherThanFetch r = true := by
  cases w with
  | engine q i g src =>
    simp only [Who.otherThanFetch, Bool.not_eq_true', Bool.and_eq_false_iff, beq_eq_false_iff_ne]
    by_contra hne
    push Not at hne
    obtain ⟨rfl, rfl⟩ := hne
    exact h i src rfl
  | _ => rfl

/-- Dropping the fetches of a ring that has none leaves every PC as it is. -/
theorem Ctl.NoFetch.dropFetches (h : m.NoFetch r) : m.PcsAs (m.dropFetches r) := by
  refine .mapD (f := fun i x => x.withoutFetches r i) rfl (fun _ => rfl) (fun p => ?_) fun _ _ => rfl
  have hother : ∀ w ∈ (m.pc p).agents, w.otherThanFetch r = true := fun w hw =>
    Who.otherThanFetch_of_ne fun i src heq => h p i src (heq ▸ hw)
  simp only [Pc.agents, List.mem_append, List.mem_map] at hother
  have hingress := List.filter_eq_self.mpr fun j hj => hother (Job.who j) (.inl (.inl (.inl ⟨j, hj, rfl⟩)))
  have hqueue := List.filter_eq_self.mpr fun j hj => hother (Job.who j) (.inl (.inl (.inr ⟨j, hj, rfl⟩)))
  have hflights := List.filter_eq_self.mpr fun j hj => hother j.who (.inl (.inr ⟨j, hj, rfl⟩))
  have hrebuilds := List.filter_eq_self.mpr fun j hj => hother j.who (.inr ⟨j, hj, rfl⟩)
  simp only [Pc.withoutFetches, hingress, hqueue, hflights, hrebuilds]

/-- A turn that ends its descriptor with a status that halts the ring. -/
theorem exec_of_halt (hc : exec c s = .next (run s fun _ m => m.onProg r i op f)) (hw : s.ctl.Works r i op d)
    (hx : f s.ctl.fresh d = (s.ctl.fresh.withProg r q).haltRing r cause) (hphase : q.phase ≠ .waiting) (hr : r < 1048576)
    (hcause : cause < 256) (hst : s.ctl.ringState r = rsRunning) (hfetch : s.ctl.NoFetch r) :
    ∃ t, exec c s = .next t ∧ Halts s t r cause [] (s.ctl.withProg r q) := by
  let dropped := s.ctl.fresh.dropFetches r
  have hpcs : s.ctl.fresh.PcsAs dropped := Ctl.NoFetch.dropFetches hfetch
  have hhalt : f s.ctl.fresh d = (dropped.withProg r q).halted r cause := by
    rw [hx, Ctl.haltRing_lone (m := s.ctl.fresh.withProg r q) (Ctl.ring_withProg _ _ _) hphase hst]
    exact Ctl.withProg_withProg (((s.ctl.fresh.halted r cause).dropFetches r)) r q q
  have honly := Ctl.OnlyFlds.halted (dropped.withProg r q) r cause
  obtain ⟨t, ht, hends, hget⟩ := exec_of_onlyFlds hc ((hw.fresh.onProg f).trans hhalt) honly (hpcs.quiet rfl hw.quiet) rfl rfl rfl
    (m := { s.ctl.withProg r q with pcs := dropped.pcs }) rfl
  have htpcs : t.ctl.pcs = dropped.pcs := hends.part (·.pcs) fun _ => rfl
  obtain ⟨hstate, hby⟩ := Ctl.haltedBy_halted (dropped.withProg r q) hr hcause
  refine ⟨t, ht, htpcs.symm ▸ hends, fun p => ?_, (hget _ _ (by decide) hr).trans hstate, (hget _ _ (by decide) hr).trans hby⟩
  rw [Ctl.pc, htpcs]
  exact hpcs.pc p

end

end Sys2Proof.Machine
end

section
/-!
REMOTE_READ and the opcodes that move no data (R256, R260 to R264, R280, R379).
-/

namespace Sys2Proof.Machine

section
variable {m : Ctl} {r l tag : Nat} {d : Prog}

/-! ## REMOTE_READ -/

/-- A link with one more operation under way and the control frame that asks for it queued. -/
def LinkSt.asked (x : LinkSt) (o : LinkOp) (body : Nat) : LinkSt := { x with ops := x.ops ++ [o], tx := x.tx ++ [.ctl body] }

/-- An operation of a link that is UP, and its request (R319). -/
theorem Ctl.sendCtl_addOp (hup : m.plUp l = true) (o : LinkOp) (body : Nat) :
    (m.addOp l o).sendCtl l body = m.modLnk l fun x => x.asked { o with sent := m.bnd } body := by
  have hput : ∀ x : LinkSt, x.ops ≠ [] → ∀ t, Sparse.setD t l x {} = Sparse.put t l x := fun x hx _ =>
    if_neg fun h => hx (by rw [h])
  have hop : (m.lnk l).ops ++ [{ o with sent := m.bnd }] ≠ [] := by simp
  have hsend : (m.addOp l o).sendCtl l body = (m.addOp l o).modLnk l fun x => { x with tx := x.tx ++ [.ctl body] } := if_pos hup
  have hlnk : (m.addOp l o).lnk l = { m.lnk l with ops := (m.lnk l).ops ++ [{ o with sent := m.bnd }] } :=
    Sparse.getD_setD_same _ _ _ _
  rw [hsend, Ctl.modLnk, hlnk]
  simp only [Ctl.addOp, Ctl.modLnk]
  rw [hput _ hop, hput _ hop, hput _ hop, Sparse.put_put]
  rfl

/-- The bytes of the next granule of a contiguous transfer (R247). -/
def Prog.granLen (d : Prog) : Nat := Machine.granLen (d.length - d.next) (d.dst + d.next) (d.src + d.next)

/-- A contiguous transfer with its next granule entered. -/
def Prog.advanced (d : Prog) (len : Nat) : Prog :=
  { d with grans := d.grans ++ [⟨d.ids, d.next, len, d.dst + d.next, 0⟩], ids := d.ids + 1, next := d.next + len, part := 0 }

/-- A turn of a REMOTE_READ with a free TAG. -/
theorem Ctl.stepRemote_up (h : m.ring r = { prog := [d] }) (hstop : d.stop = none) (hmore : d.next < d.length)
    (hup : m.plUp (d.arg16 % 2) = true) (htag : m.freeTag (d.arg16 % 2) = some tag) :
    m.stepRemote r d = (m.withProg r (d.advanced d.granLen)).modLnk (d.arg16 % 2) fun x =>
      x.asked { tag := tag, kind := .rdDesc r d.idx d.ids, addr := d.src + d.next, len := d.granLen, sent := m.bnd }
        (1 + tag * 2 ^ 16 + (if d.granLen = 32 then 0 else 1) * 2 ^ 24 + (d.src + d.next) * 2 ^ 26) := by
  have hgran := Ctl.modProg_lone h fun e => { e with
    grans := e.grans ++ [⟨d.ids, d.next, d.granLen, d.dst + d.next, 0⟩], ids := e.ids + 1, next := d.next + d.granLen, part := 0 }
  have hsend := Ctl.sendCtl_addOp (m := m.withProg r (d.advanced d.granLen)) hup
    { tag := tag, kind := .rdDesc r d.idx d.ids, addr := d.src + d.next, len := d.granLen }
    (1 + tag * 2 ^ 16 + (if d.granLen = 32 then 0 else 1) * 2 ^ 24 + (d.src + d.next) * 2 ^ 26)
  unfold Ctl.stepRemote
  simp only [hstop, Ctl.serialWait_lone h, hup, htag, Nat.not_le.mpr hmore, Option.isSome_none, decide_false, Bool.or_false,
    Bool.false_eq_true, if_false, Bool.not_true]
  exact (congrArg (fun n : Ctl => (n.addOp _ _).sendCtl _ _) hgran).trans hsend

/-- A REMOTE_READ with nothing under way stops where the link is not UP (R261). -/
theorem Ctl.stepRemote_down (hop : d.op = 6) (h : m.ring r = { prog := [d] }) (hphase : d.phase = .running) (hstop : d.stop = none)
    (hmore : d.next < d.length) (hup : m.plUp (d.arg16 % 2) = false) (hgrans : d.grans = []) :
    m.stepRemote r d =
      (m.withProg r ({ d with stop := some { status := 0x15 }, bufs := [] }.done 0x15 0)).haltRing r 0x15 := by
  let stopped : Prog := { d with stop := some { status := 0x15 }, bufs := [] }
  have hstopProg : m.stopProg r d.idx { status := 0x15 } = m.withProg r stopped := by
    rw [Ctl.stopProg, Ctl.modProg_lone h]
    simp [Prog.giveUp, hgrans, hstop, stopped]
  have hlone : (m.withProg r stopped).ring r = { prog := [stopped] } := Ctl.ring_withProg _ _ _
  have hready : (decide (stopped.phase = .running) && opDest stopped.op && stopped.grans.isEmpty) = true := by
    change (decide (d.phase = .running) && opDest d.op && d.grans.isEmpty) = true
    rw [hphase, hop, hgrans]
    rfl
  have hclose : (m.withProg r stopped).closeProg r d.idx = (m.withProg r stopped).endProg r stopped.idx 0x15 0 := by
    rw [Ctl.closeProg, show (m.withProg r stopped).prog? r d.idx = some stopped from Ctl.prog?_lone hlone]
    exact if_pos hready
  unfold Ctl.stepRemote
  simp only [hstop, Ctl.serialWait_lone h, hup, Nat.not_le.mpr hmore, Option.isSome_none, decide_false, Bool.or_false,
    Bool.false_eq_true, if_false, Bool.not_false, if_true]
  rw [Ctl.stopNow, hstopProg]
  refine hclose.trans ?_
  rw [Ctl.endProg_lone hlone hphase, if_pos (by decide), Ctl.withProg_withProg]

/-! ## SLEEP -/

/-- A SLEEP asks for its entry where no handshake runs (R379, R382). -/
theorem Ctl.stepSleep_lone {target keep : Nat} (h : m.ring r = { prog := [d] }) (harmed : d.armed = false) (hentry : m.entry = none)
    (hkind : d.arg16 % 4 + 1 = target) : m.stepSleep r d target keep =
      { m.withProg r { d with armed := true } with entry := some { target := target, desc := some (r, d.idx), keep := keep } } := by
  have hgoes : (d.armed || !m.fenceMet r d.idx || m.entry.isSome || d.arg16 % 4 + 1 != target) = false := by
    simp [harmed, Ctl.fenceMet_lone h, hentry, hkind]
  have hfree : (m.withProg r { d with armed := true }).entry.isSome = false := congrArg Option.isSome hentry
  unfold Ctl.stepSleep
  rw [hgoes, if_neg Bool.false_ne_true, Ctl.modProg_lone h, Ctl.startEntry, hfree]
  rfl

/-! ## COMMIT -/

/-- The fields that show a commit as it is taken. -/
def commitFlds : List (Fld × Nat) := [(F.CFG_COMMIT_STATUS_BY, 0), (F.CFG_COMMIT_STATUS_PATH, 0), (F.CFG_COMMIT_STATUS_ARMED, 0)]

/-- The fields of a commit that a descriptor brings, as it is armed (R280). -/
def Ctl.commitShown (m : Ctl) (by_ : Nat) : Ctl :=
  ((m.set F.CFG_COMMIT_STATUS_BY 0 by_).set F.CFG_COMMIT_STATUS_PATH 0 1).set F.CFG_COMMIT_STATUS_ARMED 0 1

theorem Ctl.OnlyFlds.commitShown (m : Ctl) (by_ : Nat) : m.OnlyFlds (m.commitShown by_) commitFlds :=
  ((Ctl.OnlyFlds.set m _ _ _).trans (.set _ _ _ _)).trans (.set _ _ _ _)

theorem Ctl.get_commitShown (m : Ctl) (by_ : Nat) :
    (m.commitShown by_).get F.CFG_COMMIT_STATUS_ARMED 0 = 1 ∧ (m.commitShown by_).get F.CFG_COMMIT_STATUS_PATH 0 = 1 ∧
      (m.commitShown by_).get F.CFG_COMMIT_STATUS_BY 0 = by_ % 4 := by
  refine ⟨Ctl.get_set_same _ _ _ _, ?_, ?_⟩
  · rw [Ctl.commitShown, Ctl.get_set_fld _ _ (by decide) (by decide) (by decide), Ctl.get_set_same]
    rfl
  · rw [Ctl.commitShown, Ctl.get_set_fld _ _ (by decide) (by decide) (by decide),
      Ctl.get_set_fld _ _ (by decide) (by decide) (by decide), Ctl.get_set_same]
    rfl

/-- A COMMIT descriptor taken, with its commit due at once. -/
def Ctl.withCommit (m : Ctl) (r : Nat) (d : Prog) : Ctl :=
  { m.withProg r { d with armed := true } with
    commit := some { orbit := 0, judged := true, due := true, desc := some (r, d.idx), by_ := ringMaster r } }

theorem ringMaster_lt (r : Nat) : ringMaster r < 4 := by
  unfold ringMaster
  split_ifs <;> decide

/-- A commit without an orbit is due at once (R280). -/
theorem Ctl.commitTake_due (m : Ctl) (by_ r i : Nat) :
    m.commitTake { orbit := 0, judged := false, desc := some (r, i), by_ := by_ } =
      { m with commit := some { orbit := 0, judged := true, due := true, desc := some (r, i), by_ := by_ } }.commitShown by_ := rfl

end

end Sys2Proof.Machine

namespace Sys2Proof.RingsAndMover
open Sys2Proof.Machine

/-- A turn of a REMOTE_READ over a link that is UP. -/
theorem exec_remoteRead_asks {s : State} {r : Fin 160} {i : BitVec 17} {d : Prog} {tag : Nat} (hw : s.ctl.Works r.val i.toNat 6 d)
    (hstop : d.stop = none) (hmore : d.next < d.length) (hup : s.ctl.plUp (d.arg16 % 2) = true)
    (htag : s.ctl.freeTag (d.arg16 % 2) = some tag) : ∃ t, exec (.remoteRead r i) s = .next t ∧
      Ends s t [] ((s.ctl.withProg r.val (d.advanced d.granLen)).modLnk (d.arg16 % 2) fun x =>
        x.asked { tag := tag, kind := .rdDesc r.val d.idx d.ids, addr := d.src + d.next, len := d.granLen, sent := s.ctl.bnd }
          (1 + tag * 2 ^ 16 + (if d.granLen = 32 then 0 else 1) * 2 ^ 24 + (d.src + d.next) * 2 ^ 26)) :=
  exec_of_turn (c := .remoteRead r i) rfl hw (Ctl.stepRemote_up (m := s.ctl.fresh) hw.only hstop hmore hup htag) hw.quiet rfl rfl rfl rfl

/-- The owner's COMMIT without an orbit (R280). -/
theorem exec_commit_owner {s : State} {r : Fin 160} {i : BitVec 17} {d : Prog} (hw : s.ctl.Works r.val i.toNat 0x18 d)
    (harmed : d.armed = false) (howner : s.ctl.owner = ringMaster r.val) (hnone : s.ctl.commit = none) (horbit : d.argx6 = 0) :
    ∃ t, exec (.commit r i) s = .next t ∧ Ends s t commitFlds (s.ctl.withCommit r.val d) ∧
      ∀ f : Fld, f.id ≠ F.FLT_STATUS_FAULTN.id →
        t.ctl.get f 0 = ((s.ctl.fresh.withCommit r.val d).commitShown (ringMaster r.val)).get f 0 := by
  have howner' : (s.ctl.fresh.owner != ringMaster r.val) = false := bne_eq_false_iff_eq.mpr howner
  have hgoes : (d.armed || !s.ctl.fresh.fenceMet r.val d.idx) = false := by
    rw [harmed, Ctl.fenceMet_lone (m := s.ctl.fresh) hw.only]
    rfl
  have harm : s.ctl.fresh.modProg r.val d.idx (fun q => { q with armed := true }) = s.ctl.fresh.withProg r.val { d with armed := true } :=
    Ctl.modProg_lone (m := s.ctl.fresh) hw.only _
  have hfree : (s.ctl.fresh.withProg r.val { d with armed := true }).commit.isSome = false := congrArg Option.isSome hnone
  refine (exec_of_onlyFlds (c := .commit r i) (m := s.ctl.withCommit r.val d) rfl ((hw.fresh.onProg _).trans ?_)
    (.commitShown (s.ctl.fresh.withCommit r.val d) (ringMaster r.val)) hw.quiet rfl rfl rfl rfl).imp
    fun t ⟨ht, hends, hget⟩ => ⟨ht, hends, fun f hf => hget f 0 hf (by decide)⟩
  simp only [hgoes, howner', harm, hfree, horbit, Bool.false_eq_true, if_false]
  exact Ctl.commitTake_due _ _ _ _

/-- Settles O37: a REMOTE_READ by the state of its link, then every other opcode by its turn. -/
theorem controlOpcodes : Obligations.ControlOpcodes := by
  unfold Obligations.ControlOpcodes
  refine ⟨?_, ?_⟩
  · intro s r i d tag o l len x hw hstop hmore
    refine ⟨fun hup htag => exec_remoteRead_asks hw hstop hmore hup htag, fun hdown hgrans hst hfetch => ?_⟩
    exact exec_of_halt (c := .remoteRead r i) rfl hw (Ctl.stepRemote_down hw.op hw.only hw.phase hstop hmore hdown hgrans)
      nofun (ring_lt r) (by decide) hst hfetch
  · intro s r i d ended
    have hends : s.ctl.ring r.val = { prog := [d] } → d.phase = .running →
        s.ctl.fresh.endProg r.val d.idx 0 0 = s.ctl.fresh.withProg r.val (d.done 0 0) := fun hlone hphase =>
      (Ctl.endProg_lone (m := s.ctl.fresh) hlone hphase).trans (if_neg (by decide))
    have hfence : s.ctl.ring r.val = { prog := [d] } → s.ctl.fresh.fenceMet r.val d.idx = true :=
      Ctl.fenceMet_lone (m := s.ctl.fresh)
    refine ⟨fun hw => ?_, fun hw hothers => ?_, fun hw harmed hcount => ?_, fun hw harmed hcount hvalid => ?_,
      fun hw harmed howner hnone horbit => ?_, fun hw harmed howner hst hfetch => ?_, fun hw harmed hentry => ⟨fun hkind => ?_,
      fun hkind => ?_⟩⟩
    · exact exec_of_progTurn (c := .nop r i) rfl hw (hends hw.only hw.phase)
    · exact exec_of_progTurn (c := .ringFence r i) rfl hw
        ((if_pos (by simp [hfence hw.only, Ctl.othersDone, hothers])).trans (hends hw.only hw.phase))
    · have hturn : (d.armed || !s.ctl.fresh.fenceMet r.val d.idx) = false := by simp [harmed, hfence hw.only]
      have hwaits : ¬ (decide (d.arg32 = 0) && s.ctl.fresh.numValid) = true := by simp [hcount]
      refine exec_of_progTurn (c := .waitOrbit r i) rfl hw ?_
      simp only [hturn, hwaits, Bool.false_eq_true, if_false]
      exact Ctl.modProg_lone (m := s.ctl.fresh) hw.only _
    · have hvalid' : s.ctl.fresh.numValid = true := hvalid
      have hover : (d.armed && d.count == 0 && s.ctl.fresh.numValid) = true := by simp [harmed, hcount, hvalid']
      exact exec_of_progTurn (c := .waitOrbitExpiry r i) rfl hw ((if_pos hover).trans (hends hw.only hw.phase))
    · obtain ⟨t, ht, hframe, hget⟩ := exec_commit_owner hw harmed howner hnone horbit
      obtain ⟨harm, hpath, hby⟩ := Ctl.get_commitShown (s.ctl.fresh.withCommit r.val d) (ringMaster r.val)
      exact ⟨t, ht, hframe, (hget _ (by decide)).trans harm, (hget _ (by decide)).trans hpath,
        ((hget _ (by decide)).trans hby).trans (Nat.mod_eq_of_lt (ringMaster_lt _))⟩
    · have howner' : (s.ctl.fresh.owner != ringMaster r.val) = true := bne_iff_ne.mpr howner
      refine exec_of_halt (c := .commit r i) rfl hw ?_ nofun (ring_lt r) (by decide) hst hfetch
      simp only [harmed, hfence hw.only, howner', Bool.not_true, Bool.or_false, Bool.false_eq_true, if_false, if_true]
      exact (Ctl.endProg_lone (m := s.ctl.fresh) hw.only hw.phase).trans (if_pos (by decide))
    · exact exec_of_turn (c := .sleepHibernate r i) rfl hw
        (Ctl.stepSleep_lone (m := s.ctl.fresh) hw.only harmed hentry (congrArg (· + 1) hkind)) hw.quiet
        rfl rfl rfl rfl
    · exact exec_of_turn (c := .sleepCrescent r i) rfl hw
        (Ctl.stepSleep_lone (m := s.ctl.fresh) hw.only harmed hentry (congrArg (· + 1) hkind)) hw.quiet
        rfl rfl rfl rfl

end Sys2Proof.RingsAndMover
end

section
/-!
Turns of the data opcodes (R247, R256 to R259, R265).
-/

namespace Sys2Proof.Machine

/-! ## Entering a granule -/

section
variable {m : Ctl} {r i op : Nat} {d : Prog}

/-- The state once a granule is a descriptor's, with its job in the ingress of its PC. -/
def Ctl.entering (m : Ctl) (r : Nat) (d : Prog) (g : Gran) (next part : Nat) (j : Job) : Ctl :=
  let pc := (m.place j.addr).pc
  (m.withProg r { d with grans := d.grans ++ [g], ids := d.ids + 1, next := next, part := part }).setPc pc
    { m.pc pc with ingress := (m.pc pc).ingress ++ [j] }

/-- The job of the next granule of a descriptor. -/
def Ctl.granJob (m : Ctl) (r : Nat) (d : Prog) (src : Bool) (acc : Access) (addr len : Nat) (data : List Byte) : Job :=
  { who := .engine r d.idx d.ids src, acc := acc, addr := addr, len := len, data := data, be := fullBe len, label := d.session
    since := m.now }

theorem Ctl.submitGran_enterGran (h : m.ring r = { prog := [d] }) (g : Gran) (next part : Nat) (src : Bool) (acc : Access)
    (addr len : Nat) (data : List Byte) :
    (m.enterGran r d g next part).submitGran r d.idx d.ids src acc addr len data 0 d.session =
      m.entering r d g next part (m.granJob r d src acc addr len data) := by
  rw [Ctl.enterGran, Ctl.modProg_lone h]
  rfl

/-- What the ring held of its descriptor before does not matter. -/
theorem Ctl.entering_withProg (m : Ctl) (r : Nat) (e d : Prog) (g : Gran) (next part : Nat) (j : Job) :
    (m.withProg r e).entering r d g next part j = m.entering r d g next part j :=
  congrArg (fun n : Ctl => n.setPc _ _) (Ctl.withProg_withProg m r e _)

/-- The state with the job of the granule written out. -/
theorem Ctl.entering_granJob (m : Ctl) (r : Nat) (d : Prog) (g : Gran) (next part : Nat) (src : Bool) (acc : Access) (addr len : Nat)
    (data : List Byte) : m.entering r d g next part (m.granJob r d src acc addr len data) =
      { (m.withProg r { d with grans := d.grans ++ [g], ids := d.ids + 1, next := next, part := part }).setPc (m.place addr).pc
        { m.pc (m.place addr).pc with ingress := (m.pc (m.place addr).pc).ingress ++
            [{ who := .engine r d.idx d.ids src, acc := acc, addr := addr, len := len, data := data, be := 2 ^ len - 1
               label := d.session, since := m.now }] } with caps := m.caps } := rfl

theorem Ctl.Quiet.entering (hq : m.Quiet) (r : Nat) (d : Prog) (g : Gran) (next part : Nat) (j : Job) :
    (m.entering r d g next part j).Quiet :=
  Ctl.Quiet.setPc (m := m.withProg r _) hq _ rfl

end

/-- A turn that enters a granule. -/
theorem exec_of_entering {s : State} {c : Instr} {r i op : Nat} {d : Prog} {f : Ctl → Prog → Ctl} {g : Gran} {next part : Nat}
    {src : Bool} {acc : Access} {addr len : Nat} {data : List Byte} (hc : exec c s = .next (run s fun _ m => m.onProg r i op f))
    (hw : s.ctl.Works r i op d)
    (hx : f s.ctl.fresh d = s.ctl.fresh.entering r d g next part (s.ctl.fresh.granJob r d src acc addr len data)) :
    ∃ t, exec c s = .next t ∧
      Ends s t [] { (s.ctl.withProg r { d with grans := d.grans ++ [g], ids := d.ids + 1, next := next, part := part }).setPc
          (s.ctl.place addr).pc
        { s.ctl.pc (s.ctl.place addr).pc with ingress := (s.ctl.pc (s.ctl.place addr).pc).ingress ++
            [{ who := .engine r d.idx d.ids src, acc := acc, addr := addr, len := len, data := data, be := 2 ^ len - 1
               label := d.session, since := s.ctl.now }] } with caps := s.ctl.caps } := by
  rw [← Ctl.entering_granJob]
  exact exec_of_turn hc hw hx (Ctl.Quiet.entering (m := s.ctl.fresh) hw.quiet _ _ _ _ _ _) rfl rfl rfl rfl

/-! ## The opcodes -/

section
variable {m : Ctl} {r ix : Nat} {d : Prog}

theorem granLen_same (left x : Nat) : granLen left x x = min left (64 - x % 64) := by
  rw [granLen, min_self]

theorem Prog.unsent_of_bufs (h : d.bufs = []) : d.unsent = none := by
  simp [Prog.unsent, h]

theorem Prog.unsent_of_op (h : d.op ≠ 7) : d.unsent = none := if_neg h

/-- COPY, PRESS and REMOTE_WRITE read the next granule (R247). -/
theorem Ctl.stepRead_eq (h : m.ring r = { prog := [d] }) (hstop : d.stop = none) (hmore : d.next < d.length) (hunsent : d.unsent = none)
    (hup : d.op = 7 → m.plUp (d.arg16 % 2) = true) :
    m.stepRead r d = m.entering r d ⟨d.ids, d.next, d.granLen, d.dst + d.next, 0⟩ (d.next + d.granLen) 0
      (m.granJob r d true .read (d.src + d.next) d.granLen []) := by
  have hlink : (decide (d.op = 7) && !m.plUp (d.arg16 % 2)) = false := by
    by_cases hop : d.op = 7
    · simp [hup hop]
    · simp [hop]
  unfold Ctl.stepRead
  simp only [hunsent, Ctl.prog?_lone h, Option.getD_some, hstop, Ctl.serialWait_lone h, hlink, Nat.not_le.mpr hmore, Option.isSome_none,
    decide_false, Bool.or_false, Bool.and_false, Bool.false_eq_true, if_false]
  exact Ctl.submitGran_enterGran h _ _ _ _ _ _ _ _

/-- FILL writes the next granule of its pattern (R256). -/
theorem Ctl.stepFill_eq (h : m.ring r = { prog := [d] }) (hstop : d.stop = none) (hmore : d.next < d.length) {len : Nat}
    (hlen : len = min (d.length - d.next) (64 - (d.dst + d.next) % 64)) :
    m.stepFill r d = m.entering r d ⟨d.ids, d.next, len, d.dst + d.next, 0⟩ (d.next + len) 0
      (m.granJob r d false .write (d.dst + d.next) len (d.fillBytes d.next len)) := by
  subst hlen
  unfold Ctl.stepFill
  simp only [granLen_same, hstop, Ctl.serialWait_lone h, Nat.not_le.mpr hmore, Option.isSome_none, decide_false, Bool.or_false,
    Bool.false_eq_true, if_false]
  exact Ctl.submitGran_enterGran h _ _ _ _ _ _ _ _

/-- Where the element of a GATHER or a SCATTER lies on the side that its index places (R259). -/
def Prog.farAt (d : Prog) (gather : Bool) (ix : Nat) : Nat := (if gather then d.src else d.dst) + ix * d.elem

/-- Where it lies on the other side. -/
def Prog.nearAt (d : Prog) (gather : Bool) : Nat := (if gather then d.dst else d.src) + d.next * d.elem

/-- The next part of the element at its source. -/
def Prog.partSrc (d : Prog) (gather : Bool) (ix : Nat) : Nat := (if gather then d.farAt gather ix else d.nearAt gather) + d.part

/-- The next part of the element at its destination. -/
def Prog.partDst (d : Prog) (gather : Bool) (ix : Nat) : Nat := (if gather then d.nearAt gather else d.farAt gather ix) + d.part

/-- GATHER and SCATTER read the next part of an element whose index has been read (R259). -/
theorem Ctl.stepElem_known (h : m.ring r = { prog := [d] }) (hstop : d.stop = none) (hmore : d.next < d.length)
    (hidx : Sparse.find d.idxs d.next = some ix) {gather : Bool} (hop : (d.op == 4) = gather)
    (hspace : d.farAt gather ix + d.elem ≤ 2 ^ 37) (hwindow : m.windowBad r (!gather) (d.farAt gather ix) d.elem = false) :
    m.stepElem r d = m.entering r d ⟨d.ids, d.next, min d.elem 64, d.partDst gather ix, d.part⟩
      (if d.elem ≤ d.part + min d.elem 64 then d.next + 1 else d.next)
      (if d.elem ≤ d.part + min d.elem 64 then 0 else d.part + min d.elem 64)
      (m.granJob r d true .read (d.partSrc gather ix) (min d.elem 64) []) := by
  subst hop
  unfold Prog.farAt at hspace hwindow
  unfold Ctl.stepElem
  simp only [hstop, hidx, Ctl.serialWait_lone h, hwindow, Nat.not_lt.mpr hspace, Nat.not_le.mpr hmore, Option.isSome_none,
    decide_false, Bool.or_false, Bool.false_eq_true, if_false, decide_eq_true_eq]
  exact Ctl.submitGran_enterGran h _ _ _ _ _ _ _ _

/-- Where the index has not been read, its line of the table is (R259). -/
theorem Ctl.stepElem_unknown (h : m.ring r = { prog := [d] }) (hstop : d.stop = none) (hmore : d.next < d.length)
    (hidx : Sparse.find d.idxs d.next = none) (hgrans : d.grans = []) :
    m.stepElem r d = m.entering r d ⟨d.ids, d.next, 0, d.argx6 + 4 * d.next, 0⟩ d.next d.part
      (m.granJob r d true .read (d.argx6 + 4 * d.next) (min (4 * (d.length - d.next)) (64 - (d.argx6 + 4 * d.next) % 64)) []) := by
  unfold Ctl.stepElem Ctl.stepIndex
  simp only [hstop, hidx, hgrans, Nat.not_le.mpr hmore, Option.isSome_none, decide_false, Bool.or_false, Bool.false_eq_true, if_false,
    List.any_nil]
  exact Ctl.submitGran_enterGran h _ _ _ _ _ _ _ _

/-! ## SNAPSHOT -/

/-- What a read of the register at an address shows; 0 where there is none. -/
def Ctl.regAt (m : Ctl) (addr : Nat) : Nat :=
  match findReg addr with
  | some (d, i) => m.regValue d i
  | none => 0

/-- The register at an address, if there is one, is read without a side effect and shows no TEL value. -/
def PlainReg (addr : Nat) : Prop :=
  ∀ d i, findReg addr = some (d, i) → d.reg ≠ .SEM_CLAIM ∧ isPairLow d.reg = false ∧ isPairHigh d.reg = false ∧
    d.parts.all (fun p => !isTelId p.fld.id) = true

/-- A SNAPSHOT reads such a register as it is. -/
theorem Ctl.snapRead_plain {addr : Nat} (hplain : PlainReg addr) (hmsix : inMsix addr = false) (m : Ctl) (r : Nat) (snap : Sparse Nat) :
    m.snapRead r snap addr = (m.regAt addr, m) := by
  unfold Ctl.snapRead Ctl.regAt
  cases hreg : findReg addr with
  | none => simp [Ctl.regRead, hmsix, Ctl.readAt, hreg]
  | some e =>
    obtain ⟨d, i⟩ := e
    obtain ⟨hclaim, hlow, hhigh, htel⟩ := hplain d i hreg
    have hnoTel : (d.parts.any fun p => isTelId p.fld.id) = false := by
      simpa using htel
    simp only [hnoTel, Bool.false_eq_true, if_false]
    exact Ctl.regRead_plain m _ hreg hmsix hclaim hlow hhigh

/-- A run of such reads takes the value of each and changes nothing. -/
theorem Ctl.snapReads_plain {base : Nat} {ks : List Nat} (hks : ∀ k ∈ ks, PlainReg (base + 4 * k) ∧ inMsix (base + 4 * k) = false)
    (m : Ctl) (r : Nat) (snap : Sparse Nat) (bs : List Byte) :
    ks.foldl (fun (acc : List Byte × Ctl) k =>
      let x := acc.2.snapRead r snap (base + 4 * k)
      (acc.1 ++ leBytes 4 x.1, x.2)) (bs, m) = (bs ++ ks.flatMap fun k => leBytes 4 (m.regAt (base + 4 * k)), m) := by
  induction ks generalizing bs with
  | nil => simp
  | cons k ks ih =>
    obtain ⟨hplain, hmsix⟩ := hks k (by simp)
    rw [List.foldl_cons, List.flatMap_cons, Ctl.snapRead_plain hplain hmsix, ih (fun k hk => hks k (by simp [hk])), List.append_assoc]

/-- No field shows the capture of high halves. -/
theorem views_caps (m : Ctl) (caps : Sparse Nat) (i : Nat) : ∀ e ∈ views, e.2 { m.fresh with caps := caps } i = e.2 m i :=
  List.map_inj_left.mp rfl

theorem Ctl.shown_caps (m : Ctl) (caps : Sparse Nat) (f : Fld) (i : Nat) :
    ({ m.fresh with caps := caps } : Ctl).shown f i = m.shown f i := by
  unfold Ctl.shown
  cases hv : views.find? fun e => e.1 == f.id with
  | none => rfl
  | some e => exact views_caps m caps i e (List.mem_of_find?_eq_some hv)

theorem Ctl.regAt_caps (m : Ctl) (caps : Sparse Nat) (addr : Nat) : ({ m.fresh with caps := caps } : Ctl).regAt addr = m.regAt addr := by
  unfold Ctl.regAt
  cases findReg addr with
  | none => rfl
  | some e => simp only [Ctl.regValue, Ctl.partValue, Ctl.shown_caps]

/-- A second delete at a key changes nothing. -/
theorem Sparse.del_del {α : Type} (t : Sparse α) (k : Nat) : Sparse.del (Sparse.del t k) k = Sparse.del t k := by
  simp [Sparse.del, List.filter_filter]

/-- The state with another capture of high halves. -/
def Ctl.withCaps (m : Ctl) (caps : Sparse Nat) : Ctl := { m with caps := caps }

/-- A descriptor that has captured nothing, with the capture of its SNAPSHOT given back. -/
theorem Ctl.highs_lone (h : m.ring r = { prog := [d] }) (hhighs : d.highs = []) (hcaps : Sparse.del m.caps 0 = m.caps) :
    (m.withCaps (Sparse.del m.caps 0)).modProg r d.idx (fun e => { e with highs := [] }) = m.withProg r d := by
  have hsame : m.withCaps (Sparse.del m.caps 0) = m := by rw [hcaps]; rfl
  rw [hsame, Ctl.modProg_lone h, ← hhighs]

/-- A SNAPSHOT writes the registers that it reads now (R265). -/
theorem Ctl.stepSnapshot_eq (h : m.ring r = { prog := [d] }) (hstop : d.stop = none) (hmore : d.next < d.length) {len : Nat}
    (hlen : len = min (d.length - d.next) (64 - (d.dst + d.next) % 64)) (hhighs : d.highs = [])
    (hks : ∀ k ∈ List.range (len / 4), PlainReg (d.src + d.next + 4 * k) ∧ inMsix (d.src + d.next + 4 * k) = false) {n : Ctl}
    (hn : n = m.withCaps (Sparse.del m.caps 0)) :
    m.stepSnapshot r d = n.entering r d ⟨d.ids, d.next, len, d.dst + d.next, 0⟩ (d.next + len) 0
      (n.granJob r d false .write (d.dst + d.next) len
        ((List.range (len / 4)).flatMap fun k => leBytes 4 (n.regAt (d.src + d.next + 4 * k)))) := by
  have hreads := Ctl.snapReads_plain hks n r d.snap []
  have hlone : n.ring r = { prog := [d] } := hn ▸ h
  have hnone : Sparse.find n.caps 0 = none := hn ▸ Sparse.find_del_same m.caps 0
  have hcaps : Sparse.del n.caps 0 = n.caps := hn ▸ Sparse.del_del m.caps 0
  subst hlen
  unfold Ctl.withCaps at hn
  unfold Ctl.stepSnapshot
  simp only [granLen_same, hstop, Ctl.serialWait_lone h, Nat.not_le.mpr hmore, Option.isSome_none, decide_false, Bool.or_false,
    Bool.false_eq_true, if_false, hhighs, Sparse.find_nil, ← hn, hreads, hnone, List.nil_append]
  refine (congrArg (fun x : Ctl => (x.enterGran r d _ _ _).submitGran r d.idx d.ids _ _ _ _ _ 0 d.session)
    (Ctl.highs_lone hlone hhighs hcaps)).trans ?_
  exact (Ctl.submitGran_enterGran (Ctl.ring_withProg _ _ _) _ _ _ _ _ _ _ _).trans (Ctl.entering_withProg _ _ _ _ _ _ _ _)

end

end Sys2Proof.Machine

namespace Sys2Proof.RingsAndMover
open Sys2Proof.Machine

/-- No register that a SNAPSHOT reads within 64 B lies in the MSI-X structures where neither end does. -/
theorem inMsix_within {addr len k : Nat} (hfirst : inMsix addr = false) (hlast : inMsix (addr + len) = false) (hlen : len ≤ 64)
    (hk : k < len / 4) : inMsix (addr + 4 * k) = false := by
  simp only [inMsix, Bool.and_eq_false_iff, decide_eq_false_iff_not] at hfirst hlast ⊢
  omega

/-- Settles O36: the turn of each opcode enters one granule, with its job. -/
theorem dataTurns : Obligations.DataTurns := by
  unfold Obligations.DataTurns
  intro s r i d ix o e entered read works two one
  have hread : ∀ {op : Nat} {c : Instr}, exec c s = .next (run s fun _ m => m.onProg r.val i.toNat op fun m d => m.stepRead r.val d) →
      works op → d.unsent = none → (op = 7 → s.ctl.plUp (d.arg16 % 2) = true) → ∃ t, exec c s = .next t ∧ read t two := by
    intro op c hc ⟨hw, hstop, hmore⟩ hunsent hup
    exact exec_of_entering hc hw (Ctl.stepRead_eq (m := s.ctl.fresh) hw.only hstop hmore hunsent fun hop => hup (hw.op ▸ hop))
  refine ⟨fun hw => ?_, fun hw => ?_, fun hw hbufs hup => ?_, fun hw => ?_, fun hw hidx hspace hwindow => ?_,
    fun hw hidx hspace hwindow => ?_, fun hw hidx hgrans => ?_, fun hw hregs halign hgap hfirst hlast hbell hbells hhighs => ?_⟩
  · exact hread rfl hw (Prog.unsent_of_op (by rw [hw.1.op]; decide)) nofun
  · exact hread rfl hw (Prog.unsent_of_op (by rw [hw.1.op]; decide)) nofun
  · exact hread rfl hw (Prog.unsent_of_bufs hbufs) fun _ => hup
  · obtain ⟨hw, hstop, hmore⟩ := hw
    exact exec_of_entering (c := .fill r i) rfl hw (Ctl.stepFill_eq (m := s.ctl.fresh) hw.only hstop hmore rfl)
  · obtain ⟨hw, hstop, hmore⟩ := hw
    exact exec_of_entering (c := .gather r i) rfl hw (Ctl.stepElem_known (m := s.ctl.fresh) (gather := true) hw.only hstop hmore hidx
      (by rw [hw.op]; rfl) hspace hwindow)
  · obtain ⟨hw, hstop, hmore⟩ := hw
    exact exec_of_entering (c := .scatter r i) rfl hw (Ctl.stepElem_known (m := s.ctl.fresh) (gather := false) hw.only hstop hmore hidx
      (by rw [hw.op]; rfl) hspace hwindow)
  · obtain ⟨hw, hstop, hmore⟩ := hw
    exact exec_of_entering (c := .gather r i) rfl hw (Ctl.stepElem_unknown (m := s.ctl.fresh) hw.only hstop hmore hidx hgrans)
  · obtain ⟨hw, hstop, hmore⟩ := hw
    have hone : one ≤ 64 := by omega
    have hks : ∀ k ∈ List.range (one / 4), PlainReg (d.src + o + 4 * k) ∧ inMsix (d.src + o + 4 * k) = false := fun k hk =>
      ⟨hregs k (List.mem_range.mp hk), inMsix_within hfirst hlast hone (List.mem_range.mp hk)⟩
    have hturn := Ctl.stepSnapshot_eq (m := s.ctl.fresh) hw.only hstop hmore rfl hhighs hks rfl
    simp only [Ctl.withCaps, Ctl.regAt_caps] at hturn
    exact exec_of_turn (c := .snapshot r i) rfl hw hturn
      (Ctl.Quiet.entering (m := { s.ctl.fresh with caps := Sparse.del s.ctl.fresh.caps 0 }) hw.quiet _ _ _ _ _ _) rfl rfl rfl rfl

end Sys2Proof.RingsAndMover
end

section
/-!
The statement on the maintenance opcodes fails. It quantifies over every value of type `State`, and its counterexample lies in what it
does not exclude: a fuse operation on a word beyond the 1024 that there are.
-/

namespace Sys2Proof.Machine

/-- The word number at which `FUSE_WORD_HI.SENSE` shares its key of the field table with `FLT_STATUS.FAULTN`: a key is the field's number
times 2^20 plus the copy (`fkey`). -/
def strayWord : Nat := (F.FLT_STATUS_FAULTN.id - F.FUSE_WORD_HI_SENSE.id) * 1048576

theorem strayWord_key : fkey F.FUSE_WORD_HI_SENSE strayWord = fkey F.FLT_STATUS_FAULTN 0 := rfl

/-- A FUSE_PROGRAM at work. -/
def fuseProgram : Prog := { idx := 0, bytes := [0x13], phase := .running }

/-- Its programming of that word. -/
def strayFuseOp : FuseOp := { word := strayWord, data := 0, desc := (0, 0) }

/-- ACTIVE with that descriptor in ring 0, on engine 0. FS_CLK_XTAL_FAIL, source 010h, is pending, so that `FAULT_N` is low (R468). -/
def strayFuse : State :=
  { ctl :=
      { power := .run
        flds := [(fkey F.GL_MODE_STATE 0, Mode.active.code), (fkey F.FLT_PEND_PEND 0, 2 ^ 16)]
        rings := [(0, { prog := [fuseProgram] })]
        engines := [(0, (0, 0))]
        fuseOp := some strayFuseOp } }

/-- The model's own invariant does not exclude such a word. -/
theorem strayFuse_inv : Inv strayFuse where
  memory := rfl
  edits := rfl
  raised := rfl
  pin := by unfold FaultPin; decide +kernel

theorem strayFuse_works : strayFuse.ctl.Works 0 0 0x13 fuseProgram where
  quiet := by simp [strayFuse, Ctl.Quiet, Ctl.Clean]
  runs := by decide +kernel
  only := rfl
  idx := rfl
  phase := rfl
  op := rfl
  engine := fun _ => ⟨rfl, (0, (0, 0)), List.mem_singleton_self _, rfl⟩

/-- The command ends by driving `FAULT_N` low, over the outcome that it has noted. -/
theorem strayFuse_fuseVerify {t : State} (h : exec (.fuseVerify true) strayFuse = .next t) :
    t.ctl.get F.FUSE_WORD_HI_SENSE strayWord = 0 := by
  injection h with h
  rw [← h]
  decide +kernel

end Sys2Proof.Machine

namespace Sys2Proof.RingsAndMover
open Sys2Proof.Machine

/-- Refutes O41: its clause on FUSE_VERIFY takes a fuse operation on a word of any number. At `strayFuse` the outcome of that word shares
its key with the `FAULT_N` pin, which every command drives as it ends, and the claimed outcome is overwritten. -/
theorem not_maintenance : ¬ Obligations.Maintenance := by
  unfold Obligations.Maintenance
  intro h
  obtain ⟨-, -, -, -, -, -, -, -, hverify⟩ := h strayFuse 0 0 fuseProgram { kind := 1, pc := 0 }
  obtain ⟨⟨t, ht, -, hsense, -⟩, -⟩ := hverify strayFuseOp strayFuse_works rfl rfl rfl rfl
  have hclaimed : t.ctl.get F.FUSE_WORD_HI_SENSE strayWord = 1 := hsense
  rw [strayFuse_fuseVerify ht] at hclaimed
  exact absurd hclaimed (by decide)

end Sys2Proof.RingsAndMover
end

section
/-!
The statement of chapter 12 that fails. It quantifies over every value of type `State`, and its counterexample lies in what it does not
exclude: an array change that is still listed, which no command leaves (`run_edits`) and every command drops.
-/

namespace Sys2Proof.Machine

/-- The physical word that holds the first word of region 0's dirty bitmap. -/
def bitmapHome : Nat :=
  let c := cellarPlace (bitmapAt 0)
  wordIx c.pc c.bank c.row c.word

/-- A mirror write of region 0 whose answer has not come. -/
def unansweredWrite : LinkOp := { tag := 0, kind := .mirror 0 none, addr := 0, len := 64 }

/-- ACTIVE with peer link 0 UP and region 0 a SYNCED PRIMARY of one granule. The first two words of the bitmap's row are poison marks, and
a change that makes the first of them sound stands in `edits`. -/
def markedBitmap : State :=
  { arr := { marks := [(bitmapHome, true), (bitmapHome + 1, true)] }
    ctl :=
      { power := .run
        flds :=
          [(fkey F.PL_PHY_STATUS_STATE 0, 2), (fkey F.MIR_CTRL_ROLE 0, 1), (fkey F.MIR_STATUS_STATE 0, 1),
            (fkey F.GL_MODE_STATE 0, Mode.active.code)]
        links := [(0, { ops := [unansweredWrite] })]
        cellarOk := true
        edits := [.mark bitmapHome false] } }

theorem markedBitmap_settled : markedBitmap.ctl.Settled := by
  simp [markedBitmap, Ctl.Settled, Ctl.Clean]

/-- Seen through that change, the one word of the bitmap reads clean. -/
theorem markedBitmap_shelf : markedBitmap.ctl.Shelf markedBitmap.arr 0 where
  memory := by decide +kernel
  pcs := fun _ => rfl
  rmap := rfl
  dark := by decide +kernel
  clean := by
    have hone : (markedBitmap.ctl.mirSize 0 + 255) / 256 = 1 := rfl
    intro w hw
    obtain rfl : w = 0 := by omega
    exact ⟨0, by decide +kernel⟩

/-- The command reads the word as the mark that it is, so that it encodes the row afresh (R164) and queues the row of the other mark for
scrubbing (R210). -/
theorem markedBitmap_remoteTimeout {t : State} (h : exec (.remoteTimeout .l0 0) markedBitmap = .next t) :
    t.ctl.pcs.length = 1 := by
  injection h with h
  rw [← h]
  decide +kernel

end Sys2Proof.Machine

namespace Sys2Proof.PeerLinkFabric
open Sys2Proof.Machine

/-- Refutes O50: its clause on the timeout of a mirror write takes the bitmap's words as `s.ctl.edits` leaves them, and the command drops
those edits before it reads. At `markedBitmap` it claims that no PC changes, and one has a row queued for scrubbing. -/
theorem not_peerAnswers : ¬ Obligations.PeerAnswers := by
  unfold Obligations.PeerAnswers
  intro h
  obtain ⟨-, htimeout, -⟩ :=
    h markedBitmap .l0 0 0 false false unansweredWrite 0 .a { pos := 0, g := 0, tag := 0, op := 0, st := .remote } [] 0 0
      markedBitmap_settled rfl rfl rfl rfl
  obtain ⟨t, ht, hdirtied, -⟩ := htimeout rfl rfl rfl fun _ => markedBitmap_shelf
  have hclaimed : t.ctl.pcs.length = 0 := congrArg (·.pcs.length) hdirtied.rest
  rw [markedBitmap_remoteTimeout ht] at hclaimed
  exact absurd hclaimed (by decide)

end Sys2Proof.PeerLinkFabric
end

section
/-!
The statement on the semaphore fails. It quantifies over every value of type `State`, and its counterexample lies in what it does not
exclude: a `CFG_COMMIT_STATUS.ARMED` of 1 with no commit armed.
-/

namespace Sys2Proof.Machine

/-- ACTIVE, owned by port A. `CFG_COMMIT_STATUS.ARMED` is 1, and no commit is armed or waits. -/
def strayArmed : State :=
  { ctl :=
      { power := .run
        flds :=
          [(fkey F.SEM_OWNER_OWNER 0, 1), (fkey F.CFG_COMMIT_STATUS_ARMED 0, 1), (fkey F.GL_MODE_STATE 0, Mode.active.code),
            (fkey F.FLT_STATUS_FAULTN 0, 1)] } }

/-- The model's own invariant does not exclude such a field. -/
theorem strayArmed_inv : Inv strayArmed where
  memory := rfl
  edits := rfl
  raised := rfl
  pin := by unfold FaultPin; decide +kernel

theorem strayArmed_quiet : strayArmed.ctl.Quiet := by
  simp [strayArmed, Ctl.Quiet, Ctl.Clean]

/-- A release cancels what is armed, and shows that nothing is (R275). -/
theorem strayArmed_release {t : State} (h : exec (.release .a 2) strayArmed = .next t) :
    t.ctl.get F.CFG_COMMIT_STATUS_ARMED = 0 := by
  injection h with h
  rw [← h]
  decide +kernel

end Sys2Proof.Machine

namespace Sys2Proof.SemaphoreAndConfiguration
open Sys2Proof.Machine

/-- Refutes O42: its clause on RELEASE claims that without an armed commit no field but the owner, `SEM_SVC_ALLOW` and
`CFG_STATUS.STAGED` changes, and a release always clears `CFG_COMMIT_STATUS.ARMED`. At `strayArmed` that field turns from 1 to 0. -/
theorem not_semaphore : ¬ Obligations.Semaphore := by
  unfold Obligations.Semaphore
  intro h
  obtain ⟨-, -, -, -, -, -, hfreed, -⟩ := h strayArmed ⟨false, false, false⟩ .a 2 strayArmed_quiet rfl
  obtain ⟨hrelease, -⟩ := hfreed rfl rfl rfl
  obtain ⟨t, ht, hends, -⟩ := hrelease rfl rfl
  have hclaimed : t.ctl.get F.CFG_COMMIT_STATUS_ARMED = 1 := hends.flds F.CFG_COMMIT_STATUS_ARMED 0 (by decide)
  rw [strayArmed_release ht] at hclaimed
  exact Nat.zero_ne_one hclaimed

end Sys2Proof.SemaphoreAndConfiguration
end

section
/-!
Staging, arming and the digest (R276, R277, R279 to R281, R287): a write of config space by a master, and what a write of a setup
register, of `CFG_CTRL` and of `CFG_COMMIT_HI` comes to.
-/

namespace Sys2Proof.Machine

/-! ## A write of a register by a master -/

/-- A register copy that config space has at an address, outside the rings, the doorbell pages and the MSI-X structures. -/
structure ConfigCopy (addr : Nat) (d : RegDef) (i : Nat) : Prop where
  found : findReg addr = some (d, i)
  aligned : addr % 4 = 0
  assigned : configGap addr 4 = false
  noDoorbell : doorbellRing addr = none
  noMsix : inMsix addr = false
  noRing : isRing d.reg = false

section
variable {m n : Ctl} {a : Arr} {x : Master} {addr v i : Nat} {d : RegDef}

/-- A write that is accepted has its effect. -/
theorem ConfigCopy.masterWrite_ok (h : ConfigCopy addr d i) (hrun : m.power = .run) (hwrite : m.regWrite a x addr v = (stOk, n)) :
    m.masterWrite a x addr v = n := by
  simp only [Ctl.masterWrite, Ctl.alive, hrun, h.aligned, h.assigned, hwrite]
  cases x <;> rfl

/-- The owner's write of a setup register (R277). -/
theorem ConfigCopy.masterWrite_setup (h : ConfigCopy addr d i) (hrun : m.power = .run) (hkind : d.kind = .setup)
    (howner : m.owner = x.code) : m.masterWrite a x addr v = m.setupStore d i v :=
  h.masterWrite_ok hrun (by simp [Ctl.regWrite, h.noDoorbell, h.noMsix, Ctl.writeAt, h.found, h.noRing, hkind, howner])

/-- A host port's write of a setup register that it does not own is dropped (R276). -/
theorem ConfigCopy.masterWrite_setup_other (h : ConfigCopy addr d i) (hkind : d.kind = .setup) (howner : m.owner ≠ x.code)
    (hx : x ≠ .svc) : m.masterWrite a x addr v = m := by
  have hwrite := Ctl.regWrite_notOwner m a v h.found h.noDoorbell h.noMsix h.noRing hkind howner
  simp only [Ctl.masterWrite, hwrite]
  cases x with
  | svc => exact absurd rfl hx
  | a => exact ite_self m
  | b => exact ite_self m

/-- The owner's write of an owner control register but a late RENEW acts at once (R276). -/
theorem ConfigCopy.masterWrite_owner (h : ConfigCopy addr d i) (hrun : m.power = .run) (hkind : d.kind = .owner)
    (howner : m.owner = x.code) (hlate : m.lateRenew d.reg v = false) : m.masterWrite a x addr v = m.ownerStore a x d i v :=
  h.masterWrite_ok hrun (by simp [Ctl.regWrite, h.noDoorbell, h.noMsix, Ctl.writeAt, h.found, h.noRing, hkind, howner, hlate])

end

theorem configCopy_cfgCtrl : ConfigCopy (D.CFG_CTRL.addr 0) D.CFG_CTRL 0 where
  found := findReg_of_index (k := 11) rfl (by decide +kernel) rfl
  aligned := rfl
  assigned := by decide +kernel
  noDoorbell := rfl
  noMsix := rfl
  noRing := rfl

theorem configCopy_cfgCommitHi : ConfigCopy (D.CFG_COMMIT_HI.addr 0) D.CFG_COMMIT_HI 0 where
  found := findReg_of_index (k := 16) rfl (by decide +kernel) rfl
  aligned := rfl
  assigned := by decide +kernel
  noDoorbell := rfl
  noMsix := rfl
  noRing := rfl

/-! ## Shadows -/

/-- Write the shadow of one part, where it is writable (R277). -/
def Ctl.stagePart (m : Ctl) (i v : Nat) (q : Part) : Ctl :=
  match q.acc with
  | .rw => m.stage q.fld (i * q.mul + q.add) (partNew q (m.shadow q.fld (i * q.mul + q.add)) v)
  | _ => m

theorem Ctl.stageParts_cons (m : Ctl) (i v : Nat) (q : Part) (qs : List Part) :
    m.stageParts i v (q :: qs) = (m.stagePart i v q).stageParts i v qs := rfl

theorem Ctl.stagePart_eq (m : Ctl) (i v : Nat) (q : Part) : m.stagePart i v q = { m with staged := (m.stagePart i v q).staged } := by
  unfold Ctl.stagePart
  cases q.acc <;> rfl

/-- Staging changes the shadows alone. -/
theorem Ctl.stageParts_eq (m : Ctl) (i v : Nat) (qs : List Part) :
    m.stageParts i v qs = { m with staged := (m.stageParts i v qs).staged } := by
  induction qs generalizing m with
  | nil => rfl
  | cons q qs ih =>
    rw [Ctl.stageParts_cons]
    refine (ih _).trans ?_
    rw [m.stagePart_eq i v q]

/-- A command stages what the state before it would. -/
theorem Ctl.staged_stageParts_fresh (m : Ctl) (i v : Nat) (qs : List Part) :
    (m.fresh.stageParts i v qs).staged = (m.stageParts i v qs).staged := by
  induction qs generalizing m with
  | nil => rfl
  | cons q qs ih =>
    have hpart : m.fresh.stagePart i v q = (m.stagePart i v q).fresh := by
      unfold Ctl.stagePart
      cases q.acc <;> rfl
    rw [Ctl.stageParts_cons, Ctl.stageParts_cons, hpart, ih]

/-- The owner's write of a setup register that is no session's (R277). -/
theorem Ctl.setupStore_plain (m : Ctl) {d : RegDef} (i v : Nat) (h : isSession d.reg = false) :
    m.setupStore d i v = { m with staged := (m.stageParts i v d.parts).staged }.set F.CFG_STATUS_STAGED 0 1 := by
  rw [← Ctl.stageParts_eq]
  unfold Ctl.setupStore
  rw [h]
  rfl

/-- With no context pending a discard drops the shadows of registers (R279). -/
theorem Ctl.discard_registers {m : Ctl} (h : m.sesPend = []) :
    m.discard = { m with staged := [] }.set F.CFG_STATUS_STAGED 0 0 := by
  cases m
  simp only at h
  subst h
  rfl

/-! ## ARM -/

/-- The orbit that an ARM write takes (R280). -/
def Ctl.armOrbit (m : Ctl) (v : Nat) : Nat := m.get F.CFG_COMMIT_ORBIT % 2 ^ 32 + v % 2 ^ 16 * 2 ^ 32

/-- The fields that an ARM write shows of its commit, before it is judged. -/
def Ctl.armShown (m : Ctl) (c : CommitSt) : Ctl :=
  ((m.set F.CFG_COMMIT_ORBIT 0 c.orbit).set F.CFG_COMMIT_STATUS_BY 0 c.by_).set F.CFG_COMMIT_STATUS_PATH 0 0

/-- A commit armed by an ARM write. -/
def Ctl.armWith (m : Ctl) (c : CommitSt) : Ctl := ({ m with commit := some c }.armShown c).set F.CFG_COMMIT_STATUS_ARMED 0 1

/-- The fields that arming writes. -/
def armFlds : List (Fld × Nat) := (F.CFG_COMMIT_ORBIT, 0) :: commitFlds

section
variable {m : Ctl} {x : Master} {v : Nat}

theorem Ctl.OnlyFlds.armShown (m : Ctl) (c : CommitSt) : m.OnlyFlds (m.armShown c)
    [(F.CFG_COMMIT_ORBIT, 0), (F.CFG_COMMIT_STATUS_BY, 0), (F.CFG_COMMIT_STATUS_PATH, 0)] :=
  ((Ctl.OnlyFlds.set m _ _ _).trans (.set _ _ _ _)).trans (.set _ _ _ _)

theorem Ctl.OnlyFlds.armWith (m : Ctl) (c : CommitSt) : ({ m with commit := some c } : Ctl).OnlyFlds (m.armWith c) armFlds :=
  (Ctl.OnlyFlds.armShown _ c).trans (.set _ _ _ _)

theorem Ctl.get_armWith (m : Ctl) (c : CommitSt) :
    (m.armWith c).get F.CFG_COMMIT_STATUS_ARMED 0 = 1 ∧ (m.armWith c).get F.CFG_COMMIT_STATUS_BY 0 = c.by_ % 4 := by
  refine ⟨Ctl.get_set_same _ _ _ _, ?_⟩
  rw [Ctl.armWith, Ctl.armShown, Ctl.get_set_fld _ _ (by decide) (by decide) (by decide),
    Ctl.get_set_fld _ _ (by decide) (by decide) (by decide), Ctl.get_set_same]
  rfl

/-- What a commit is judged by does not change as it is shown. -/
theorem Ctl.judged_armShown (m : Ctl) (c : CommitSt) : (m.armShown c).numValid = m.numValid ∧ (m.armShown c).orbit = m.orbit := by
  have hget : ∀ f : Fld, f.id ∉ [F.CFG_COMMIT_ORBIT.id, F.CFG_COMMIT_STATUS_BY.id, F.CFG_COMMIT_STATUS_PATH.id] →
      (m.armShown c).get f 0 = m.get f 0 := fun f hf => by
    simp only [List.mem_cons, List.not_mem_nil, or_false, not_or] at hf
    exact (Ctl.OnlyFlds.armShown m c).flds.get_eq (by simp [hf]) (by decide)
  exact ⟨congrArg (· != 0) (hget _ (by decide)), hget _ (by decide)⟩

/-- The commit of an ARM write, before it is judged. -/
def Ctl.armCommit (m : Ctl) (x : Master) (v : Nat) : CommitSt := { orbit := m.armOrbit v, judged := false, by_ := x.code }

theorem Ctl.get_set_armOrbit (m : Ctl) (v : Nat) :
    (m.set F.CFG_COMMIT_ORBIT 0 (m.armOrbit v)).get F.CFG_COMMIT_ORBIT 0 = m.armOrbit v := by
  rw [Ctl.get_set_same, Nat.mod_eq_of_lt]
  change m.armOrbit v < 2 ^ 48
  unfold Ctl.armOrbit
  omega

/-- An ARM write with no commit armed takes its commit (R280). -/
theorem Ctl.commitHiWrite_arm (hbit : bit v 31 = true) (hnone : m.commit = none) :
    m.commitHiWrite x v = (m.set F.CFG_COMMIT_ORBIT 0 (m.armOrbit v)).commitTake (m.armCommit x v) := by
  have hset : m.set F.CFG_COMMIT_ORBIT 0 (m.get F.CFG_COMMIT_ORBIT % 2 ^ 32 + v % 2 ^ 16 * 2 ^ 32) =
      m.set F.CFG_COMMIT_ORBIT 0 (m.armOrbit v) := rfl
  simp only [Ctl.commitHiWrite, hbit, hnone, Bool.not_true, Bool.false_eq_true, if_false, Option.isSome_none, Ctl.put_eq, hset,
    Ctl.get_set_armOrbit, Ctl.armCommit]

/-- Arming a commit that has been shown. -/
theorem Ctl.armWith_of_shown (m : Ctl) (c : CommitSt) (judged due : Bool) :
    ({ m.armShown c with commit := some { c with judged := judged, due := due } } : Ctl).set F.CFG_COMMIT_STATUS_ARMED 0 1 =
      m.armWith { c with judged := judged, due := due } := rfl

/-- What becomes of the commit of an ARM write, by its orbit (R281). -/
theorem Ctl.commitTake_arm {c : CommitSt} (h : c.desc = none) :
    (m.set F.CFG_COMMIT_ORBIT 0 c.orbit).commitTake c =
      if c.orbit = 0 then m.armWith { c with judged := true, due := true }
      else if m.numValid = false then m.armWith { c with judged := false }
      else
        if judgeOrbit c.orbit m.orbit = .current then m.armWith { c with judged := true, due := true }
        else if judgeOrbit c.orbit m.orbit = .future then m.armWith { c with judged := true }
        else (m.armShown c).commitResult c crLate := by
  obtain ⟨hvalid, horbit⟩ := m.judged_armShown c
  have hshown : (((m.set F.CFG_COMMIT_ORBIT 0 c.orbit).set F.CFG_COMMIT_STATUS_BY 0 c.by_).set F.CFG_COMMIT_STATUS_PATH 0
      (b2n c.desc.isSome)) = m.armShown c := by rw [h]; rfl
  simp only [Ctl.commitTake, Ctl.put_eq, hshown, hvalid, horbit, Ctl.armWith_of_shown, Bool.not_eq_true']
  cases judgeOrbit c.orbit m.orbit <;> rfl

/-- A commit without an orbit, or for the current one, is due at once. -/
theorem Ctl.commitTake_current {c : CommitSt} (h : c.desc = none)
    (hdue : c.orbit = 0 ∨ m.numValid = true ∧ judgeOrbit c.orbit m.orbit = .current) :
    (m.set F.CFG_COMMIT_ORBIT 0 c.orbit).commitTake c = m.armWith { c with judged := true, due := true } := by
  rw [Ctl.commitTake_arm h]
  by_cases hzero : c.orbit = 0
  · exact if_pos hzero
  · obtain ⟨hvalid, hcurrent⟩ := hdue.resolve_left hzero
    simp [hzero, hvalid, hcurrent]

/-- A commit for a later orbit waits for it. -/
theorem Ctl.commitTake_future {c : CommitSt} (h : c.desc = none) (hzero : c.orbit ≠ 0) (hvalid : m.numValid = true)
    (hfuture : judgeOrbit c.orbit m.orbit = .future) :
    (m.set F.CFG_COMMIT_ORBIT 0 c.orbit).commitTake c = m.armWith { c with judged := true } := by
  rw [Ctl.commitTake_arm h]
  simp [hzero, hvalid, hfuture]

/-- A commit for an orbit is judged once the number is valid. -/
theorem Ctl.commitTake_unjudged {c : CommitSt} (h : c.desc = none) (hzero : c.orbit ≠ 0) (hvalid : m.numValid = false) :
    (m.set F.CFG_COMMIT_ORBIT 0 c.orbit).commitTake c = m.armWith { c with judged := false } := by
  rw [Ctl.commitTake_arm h, if_neg hzero, if_pos hvalid]

/-- A commit for a past orbit ends as it is taken. -/
theorem Ctl.commitTake_past {c : CommitSt} (h : c.desc = none) (hzero : c.orbit ≠ 0) (hvalid : m.numValid = true)
    (hpast : judgeOrbit c.orbit m.orbit = .past) :
    (m.set F.CFG_COMMIT_ORBIT 0 c.orbit).commitTake c = (m.armShown c).commitResult c crLate := by
  rw [Ctl.commitTake_arm h]
  simp [hzero, hvalid, hpast]

/-- A commit that came too late ends at once, and is reported (R281, R283). -/
theorem Ctl.commitResult_late {c : CommitSt} (h : c.desc = none) (m : Ctl) :
    m.commitResult c crLate = (m.set F.CFG_COMMIT_STATUS_RESULT 0 0x13).raiseAs 0x002 0x13 false := by
  unfold Ctl.commitResult
  rw [h]
  rfl

end

/-! ## The digest -/

/-- A digest that has been computed is shown (R287). -/
theorem Ctl.digestDone_busy {m : Ctl} (h : m.get F.CFG_STATUS_DIGEST_BUSY ≠ 0) :
    m.digestDone = (m.set F.CFG_DIGEST 0 m.digestNew).set F.CFG_STATUS_DIGEST_BUSY 0 0 :=
  if_pos (bne_iff_ne.mpr h)

/-! ## The commands -/

section
variable {s : State} {x : Master} {value : BitVec 32}

/-- The next state of a command that brings the state to `n`, whose registers are those before, and then writes one. -/
theorem exec_of_set {c : Instr} {g : Arr → Ctl → Ctl} {f : Fld} {v w : Nat} {n m : Ctl} (hc : exec c s = .next (run s g))
    (hx : g s.arr s.ctl.fresh = n.set f 0 v) (hv : v % 2 ^ f.width = w) (hf : f.id ≠ F.FLT_STATUS_FAULTN.id)
    (hq : n.Quiet) (hflds : n.flds = s.ctl.flds) (hr : n.raised = []) (he : n.edits = []) (hm : n.rest = m.rest) :
    ∃ t, exec c s = .next t ∧ Ends s t [(f, 0)] m ∧ t.ctl.get f 0 = w := by
  obtain ⟨t, ht, hends, hget⟩ := exec_of_onlyFlds hc hx (.set n f 0 v) hq hflds hr he hm
  exact ⟨t, ht, hends, (hget f 0 hf (by decide)).trans ((Ctl.get_set_same _ _ _ _).trans hv)⟩

/-- The owner's write of a setup register (R277). -/
theorem exec_setupWrite {caddr : BitVec 24} {d : RegDef} {i : Nat} (hq : s.ctl.Quiet) (hrun : s.ctl.power = .run)
    (hreg : ConfigCopy caddr.toNat d i) (hkind : d.kind = .setup) (hses : isSession d.reg = false) (howner : s.ctl.owner = x.code) :
    ∃ t, exec (.setupWrite x caddr value) s = .next t ∧
      Ends s t [(F.CFG_STATUS_STAGED, 0)] { s.ctl with staged := (s.ctl.stageParts i value.toNat d.parts).staged } ∧
      t.ctl.get F.CFG_STATUS_STAGED 0 = 1 := by
  refine exec_of_set (c := .setupWrite x caddr value) rfl
    ((hreg.masterWrite_setup (m := s.ctl.fresh) hrun hkind howner).trans (s.ctl.fresh.setupStore_plain i value.toNat hses))
    rfl (by decide) hq rfl rfl rfl ?_
  rw [Ctl.staged_stageParts_fresh]
  rfl

/-- What the owner's write of `CFG_CTRL.DISCARD` changes (R279). -/
theorem Ctl.masterWrite_discard {m : Ctl} {a : Arr} (hrun : m.power = .run) (howner : m.owner = x.code)
    (hbit : value.getLsbD 0 = true) :
    m.masterWrite a x (D.CFG_CTRL.addr 0) value.toNat =
      if m.commit.isSome then m.set F.CFG_COMMIT_STATUS_BUSY_ERR 0 1 else m.discard := by
  have hset : bit value.toNat 0 = true := hbit
  rw [configCopy_cfgCtrl.masterWrite_owner hrun rfl howner rfl]
  change m.discardWrite value.toNat = _
  rw [Ctl.discardWrite, hset]
  rfl

/-- The owner's write of `CFG_COMMIT_HI` (R280). -/
theorem Ctl.masterWrite_commitHi {m : Ctl} {a : Arr} (hrun : m.power = .run) (howner : m.owner = x.code) :
    m.masterWrite a x (D.CFG_COMMIT_HI.addr 0) value.toNat = m.commitHiWrite x value.toNat :=
  configCopy_cfgCommitHi.masterWrite_owner hrun rfl howner rfl

/-- A DISCARD with a commit armed drops nothing and is reported (R279). -/
theorem exec_discard_busy (hq : s.ctl.Quiet) (hrun : s.ctl.power = .run) (howner : s.ctl.owner = x.code)
    (hbit : value.getLsbD 0 = true) (harmed : s.ctl.commit ≠ none) : ∃ t, exec (.discard x value) s = .next t ∧
      Ends s t [(F.CFG_COMMIT_STATUS_BUSY_ERR, 0)] s.ctl ∧ t.ctl.get F.CFG_COMMIT_STATUS_BUSY_ERR 0 = 1 := by
  refine exec_of_set (c := .discard x value) (f := F.CFG_COMMIT_STATUS_BUSY_ERR) (v := 1) (n := s.ctl.fresh)
    rfl ?_ rfl (by decide) hq rfl rfl rfl rfl
  rw [Ctl.masterWrite_discard (m := s.ctl.fresh) hrun howner hbit]
  exact if_pos (Option.isSome_iff_ne_none.mpr harmed)

/-- A DISCARD with no commit armed and no context pending drops the shadows (R279). -/
theorem exec_discard (hq : s.ctl.Quiet) (hrun : s.ctl.power = .run) (howner : s.ctl.owner = x.code)
    (hbit : value.getLsbD 0 = true) (hnone : s.ctl.commit = none) (hses : s.ctl.sesPend = []) :
    ∃ t, exec (.discard x value) s = .next t ∧ Ends s t [(F.CFG_STATUS_STAGED, 0)] { s.ctl with staged := [] } ∧
      t.ctl.get F.CFG_STATUS_STAGED 0 = 0 := by
  refine exec_of_set (c := .discard x value) (f := F.CFG_STATUS_STAGED) (v := 0) (n := { s.ctl.fresh with staged := [] })
    rfl ?_ rfl (by decide) hq rfl rfl rfl rfl
  rw [Ctl.masterWrite_discard (m := s.ctl.fresh) hrun howner hbit, Ctl.fresh_commit, hnone]
  exact Ctl.discard_registers (m := s.ctl.fresh) hses

/-- An ARM write with a commit armed takes nothing and is reported (R280). -/
theorem exec_arm_busy (hq : s.ctl.Quiet) (hrun : s.ctl.power = .run) (howner : s.ctl.owner = x.code)
    (hbit : value.getLsbD 31 = true) (harmed : s.ctl.commit ≠ none) : ∃ t, exec (.arm x value) s = .next t ∧
      Ends s t [(F.CFG_COMMIT_STATUS_BUSY_ERR, 0)] s.ctl ∧ t.ctl.get F.CFG_COMMIT_STATUS_BUSY_ERR 0 = 1 := by
  have hset : bit value.toNat 31 = true := hbit
  have hsome : s.ctl.fresh.commit.isSome = true := Option.isSome_iff_ne_none.mpr harmed
  refine exec_of_set (c := .arm x value) (f := F.CFG_COMMIT_STATUS_BUSY_ERR) (v := 1) (n := s.ctl.fresh)
    rfl ?_ rfl (by decide) hq rfl rfl rfl rfl
  rw [Ctl.masterWrite_commitHi (m := s.ctl.fresh) hrun howner, Ctl.commitHiWrite, hset, hsome]
  rfl

/-- What an ARM write with no commit armed changes (R280). -/
theorem Ctl.masterWrite_arm {m : Ctl} {a : Arr} (hrun : m.power = .run) (howner : m.owner = x.code)
    (hbit : value.getLsbD 31 = true) (hnone : m.commit = none) :
    m.masterWrite a x (D.CFG_COMMIT_HI.addr 0) value.toNat =
      (m.set F.CFG_COMMIT_ORBIT 0 (m.armOrbit value.toNat)).commitTake (m.armCommit x value.toNat) :=
  (Ctl.masterWrite_commitHi hrun howner).trans (Ctl.commitHiWrite_arm hbit hnone)

/-- An ARM write whose commit is armed. -/
theorem exec_arm {c : CommitSt} (hq : s.ctl.Quiet) (hrun : s.ctl.power = .run) (howner : s.ctl.owner = x.code)
    (hbit : value.getLsbD 31 = true) (hnone : s.ctl.commit = none) (hby : c.by_ = x.code)
    (htake : (s.ctl.fresh.set F.CFG_COMMIT_ORBIT 0 (s.ctl.armOrbit value.toNat)).commitTake (s.ctl.armCommit x value.toNat) =
      s.ctl.fresh.armWith c) :
    ∃ t, exec (.arm x value) s = .next t ∧ Ends s t armFlds { s.ctl with commit := some c } ∧
      t.ctl.get F.CFG_COMMIT_STATUS_ARMED 0 = 1 ∧ t.ctl.get F.CFG_COMMIT_STATUS_BY 0 = x.code := by
  obtain ⟨t, ht, hends, hget⟩ := exec_of_onlyFlds (c := .arm x value) (m := { s.ctl with commit := some c }) rfl
    ((Ctl.masterWrite_arm (m := s.ctl.fresh) hrun howner hbit hnone).trans htake) (.armWith s.ctl.fresh c) hq rfl rfl rfl rfl
  obtain ⟨harmed, hshown⟩ := s.ctl.fresh.get_armWith c
  refine ⟨t, ht, hends, (hget _ _ (by decide) (by decide)).trans harmed,
    (hget _ _ (by decide) (by decide)).trans (hshown.trans ?_)⟩
  rw [hby]
  cases x <;> rfl

/-- An ARM write whose orbit is past ends at once with LATE (R281, R283). -/
theorem exec_arm_late (hq : s.ctl.Quiet) (hrun : s.ctl.power = .run) (howner : s.ctl.owner = x.code)
    (hbit : value.getLsbD 31 = true) (hnone : s.ctl.commit = none) (hcalm : s.ctl.Calm 0x002)
    (htake : (s.ctl.fresh.set F.CFG_COMMIT_ORBIT 0 (s.ctl.armOrbit value.toNat)).commitTake (s.ctl.armCommit x value.toNat) =
      (s.ctl.fresh.armShown (s.ctl.armCommit x value.toNat)).commitResult (s.ctl.armCommit x value.toNat) crLate) :
    ∃ t, exec (.arm x value) s = .next t ∧ EndsRaised s t 0x002 ((F.CFG_COMMIT_STATUS_RESULT, 0) :: armFlds) s.ctl ∧
      t.ctl.get F.CFG_COMMIT_STATUS_RESULT 0 = 0x13 := by
  have heffect := ((Ctl.masterWrite_arm (m := s.ctl.fresh) (a := s.arr) hrun howner hbit hnone).trans htake).trans
    (Ctl.commitResult_late rfl _)
  have honly := (Ctl.OnlyFlds.armShown s.ctl.fresh (s.ctl.armCommit x value.toNat)).trans (.set _ F.CFG_COMMIT_STATUS_RESULT 0 0x13)
  obtain ⟨hends, hget⟩ := EndsRaised.of_calm s (fun a m => m.masterWrite a x (D.CFG_COMMIT_HI.addr 0) value.toNat) 0x002 0x13
    false _ s.ctl _ hcalm (by decide) heffect (honly.quiet hq) honly.raised honly.edits honly.flds (by decide) honly.rest
  refine ⟨_, rfl, hends.mono ?_, (hget _ _ (by decide) (by decide)).trans (Ctl.get_set_same _ _ _ _)⟩
  simp [armFlds, commitFlds]

/-- A digest that has been computed is shown (R287). -/
theorem exec_digestReady (hq : s.ctl.Quiet) (hbusy : s.ctl.get F.CFG_STATUS_DIGEST_BUSY ≠ 0) :
    ∃ t, exec .digestReady s = .next t ∧ Ends s t [(F.CFG_DIGEST, 0), (F.CFG_STATUS_DIGEST_BUSY, 0)] s.ctl ∧
      t.ctl.get F.CFG_DIGEST 0 = s.ctl.digestNew % 2 ^ 64 ∧ t.ctl.get F.CFG_STATUS_DIGEST_BUSY 0 = 0 := by
  obtain ⟨t, ht, hends, hget⟩ := exec_of_onlyFlds (c := .digestReady) (m := s.ctl) rfl
    (Ctl.digestDone_busy (m := s.ctl.fresh) hbusy) ((Ctl.OnlyFlds.set s.ctl.fresh _ _ _).trans (.set _ _ _ _)) hq rfl rfl rfl rfl
  refine ⟨t, ht, hends, (hget _ _ (by decide) (by decide)).trans ?_,
    (hget _ _ (by decide) (by decide)).trans (Ctl.get_set_same _ _ _ _)⟩
  rw [Ctl.get_set_fld _ _ (by decide) (by decide) (by decide), Ctl.get_set_same]
  rfl

end

end Sys2Proof.Machine

namespace Sys2Proof.SemaphoreAndConfiguration
open Sys2Proof.Machine

/-- Settles O43: each command is a write of its register, and an ARM write goes by the judgement of its orbit. -/
theorem setupCommits : Obligations.SetupCommits := by
  unfold Obligations.SetupCommits
  intro s x caddr value d i orbit busy taken armed hq hrun
  refine ⟨fun hfound halign hgap hbell hmsix hring hses hkind => ?_, fun howner hbit hnone hpend => ?_, fun howner hbit harmed => ?_,
    fun howner hbit harmed => ?_, fun howner hbit hnone => ?_, fun hbusy => ?_⟩
  · have hreg : ConfigCopy caddr.toNat d i := ⟨hfound, halign, hgap, hbell, hmsix, hring⟩
    refine ⟨fun howner => exec_setupWrite hq hrun hreg hkind hses howner, fun howner hx => ?_⟩
    exact exec_of_change (c := .setupWrite x caddr value) rfl (hreg.masterWrite_setup_other (m := s.ctl.fresh) hkind howner hx) hq
      rfl rfl rfl rfl
  · exact exec_discard hq hrun howner hbit hnone hpend
  · exact exec_discard_busy hq hrun howner hbit harmed
  · exact exec_arm_busy hq hrun howner hbit harmed
  · have hmaster : (s.ctl.armCommit x value.toNat).desc = none := rfl
    refine ⟨fun hdue => ?_, fun hne hvalid hfuture => ?_, fun hne hvalid => ?_, fun hne hvalid hpast hcalm => ?_⟩
    · exact exec_arm hq hrun howner hbit hnone rfl (Ctl.commitTake_current (m := s.ctl.fresh) hmaster hdue)
    · exact exec_arm hq hrun howner hbit hnone rfl (Ctl.commitTake_future (m := s.ctl.fresh) hmaster hne hvalid hfuture)
    · exact exec_arm hq hrun howner hbit hnone rfl (Ctl.commitTake_unjudged (m := s.ctl.fresh) hmaster hne hvalid)
    · exact exec_arm_late hq hrun howner hbit hnone hcalm (Ctl.commitTake_past (m := s.ctl.fresh) hmaster hne hvalid hpast)
  · exact exec_digestReady hq hbusy

end Sys2Proof.SemaphoreAndConfiguration
end

section
/-!
The channel code of a peer link (R290, R295 to R297): numbers as digits, the interleave, and a codeword as it was sent.
-/

namespace Sys2Proof.Machine

/-! ## Numbers as digits, the highest first -/

/-- The `k` lowest digits of a number in base `b`, the highest first. -/
def digitsBE (b : Nat) : Nat → Nat → List Nat
  | 0, _ => []
  | k + 1, n => digitsBE b k (n / b) ++ [n % b]

theorem digitsBE_eq_map (b k n : Nat) : digitsBE b k n = (List.range k).map fun j => n / b ^ (k - 1 - j) % b := by
  induction k generalizing n with
  | zero => rfl
  | succ k ih =>
    rw [digitsBE, ih, List.range_succ, List.map_append]
    congr 1
    · refine List.map_congr_left fun j hj => ?_
      have hj := List.mem_range.mp hj
      rw [Nat.div_div_eq_div_mul, ← Nat.pow_succ', show k + 1 - 1 - j = k - 1 - j + 1 by omega]
    · simp

theorem packSyms_append (ss : List Nat) (s : Nat) : packSyms (ss ++ [s]) = packSyms ss * 1024 + s := by
  simp [packSyms]

/-- Digits packed again keep what fits into them. -/
theorem packSyms_digitsBE (k n : Nat) : packSyms (digitsBE 1024 k n) = n % 1024 ^ k := by
  induction k generalizing n with
  | zero => simp [digitsBE, packSyms, Nat.mod_one]
  | succ k ih => rw [digitsBE, packSyms_append, ih, Nat.pow_succ', Nat.mod_mul]; omega

theorem lt_of_mem_digitsBE {b k n d : Nat} (hb : 0 < b) (h : d ∈ digitsBE b k n) : d < b := by
  rw [digitsBE_eq_map] at h
  obtain ⟨j, -, rfl⟩ := List.mem_map.mp h
  exact Nat.mod_lt _ hb

theorem length_digitsBE (b k n : Nat) : (digitsBE b k n).length = k := by simp [digitsBE_eq_map]

theorem beNat_append (bs : List Byte) (b : Byte) : beNat (bs ++ [b]) = beNat bs * 256 + b.toNat := by
  simp [beNat]

theorem beNat_lt (bs : List Byte) : beNat bs < 256 ^ bs.length := by
  induction bs using List.reverseRecOn with
  | nil => decide
  | append_singleton bs b ih =>
    have := b.isLt
    rw [beNat_append, List.length_append, List.length_singleton, Nat.pow_succ]
    omega

/-- Five bytes are four symbols. -/
theorem beNat_lt_symbols {bs : List Byte} {n : Nat} (h : bs.length = 5 * n) : beNat bs < 1024 ^ (4 * n) := by
  have hbytes := beNat_lt bs
  rw [h, Nat.pow_mul] at hbytes
  rwa [Nat.pow_mul]

theorem digitsBE_beNat (bs : List Byte) : digitsBE 256 bs.length (beNat bs) = bs.map BitVec.toNat := by
  induction bs using List.reverseRecOn with
  | nil => rfl
  | append_singleton bs b ih =>
    have := b.isLt
    rw [beNat_append, List.length_append, List.length_singleton, digitsBE,
      show (beNat bs * 256 + b.toNat) / 256 = beNat bs by omega, show (beNat bs * 256 + b.toNat) % 256 = b.toNat by omega, ih]
    simp

/-! ## The data symbols of a pair -/

theorem dataSyms_eq (bs : List Byte) : dataSyms bs = digitsBE 1024 680 (beNat bs) := by
  rw [digitsBE_eq_map, dataSyms]
  refine List.map_congr_left fun k _ => ?_
  rw [show (1024 : Nat) = 2 ^ 10 from rfl, ← Nat.pow_mul]

theorem symBytes_eq (ss : List Nat) : symBytes ss = (digitsBE 256 850 (packSyms ss)).map (BitVec.ofNat 8) := by
  rw [digitsBE_eq_map, symBytes, List.map_map]
  refine List.map_congr_left fun k _ => ?_
  rw [Function.comp_apply, show (256 : Nat) = 2 ^ 8 from rfl, ← Nat.pow_mul]
  apply BitVec.eq_of_toNat_eq
  simp

/-- The bytes of the data symbols of 850 bytes are those bytes (R296). -/
theorem symBytes_dataSyms {bs : List Byte} (h : bs.length = 850) : symBytes (dataSyms bs) = bs := by
  rw [symBytes_eq, dataSyms_eq, packSyms_digitsBE, Nat.mod_eq_of_lt (beNat_lt_symbols (n := 170) h), ← h, digitsBE_beNat,
    List.map_map]
  simp [Function.comp_def]

/-! ## Levels -/

theorem levelCode_levelOf (v : Nat) : levelCode (levelOf v) = v % 4 := by
  have : v % 4 < 4 := Nat.mod_lt _ (by decide)
  unfold levelOf
  generalize v % 4 = c at this ⊢
  interval_cases c <;> rfl

/-- The symbols of the levels of symbols are those symbols (R290, R296). -/
theorem levelSyms_symLevels {ss : List Nat} (h : ∀ v ∈ ss, v < 1024) : levelSyms (ss.map symLevels).flatten = ss := by
  induction ss with
  | nil => rfl
  | cons v ss ih =>
    have hv := h v (by simp)
    simp only [List.map_cons, List.flatten_cons, symLevels, List.cons_append, List.nil_append, levelSyms, levelCode_levelOf,
      ih fun w hw => h w (by simp [hw])]
    congr 1
    omega

theorem length_symLevels (ss : List Nat) : (ss.map symLevels).flatten.length = 5 * ss.length := by
  induction ss with
  | nil => rfl
  | cons v ss ih => simp [symLevels, ih]; omega

/-! ## The interleave -/

theorem pick_cons_cons (k a b : Nat) (ss : List Nat) :
    pick k (a :: b :: ss) = (if k = 0 then [a] else []) ++ (if k = 1 then [b] else []) ++ pick k ss := by
  have hshift : ∀ (l : List Nat) (n : Nat), ((l.zipIdx (n + 2)).filter fun e => e.2 % 2 == k).map (·.1) =
      ((l.zipIdx n).filter fun e => e.2 % 2 == k).map (·.1) := by
    intro l
    induction l with
    | nil => intro n; rfl
    | cons x l ih =>
      intro n
      simp only [List.zipIdx_cons, List.filter_cons, show n + 2 + 1 = n + 1 + 2 by omega, Nat.add_mod_right]
      split <;> simp [ih]
  have htail := hshift ss 0
  simp only [pick, List.zipIdx_cons, List.filter_cons, Nat.zero_add, Nat.zero_mod, Nat.one_mod, Nat.reduceAdd] at htail ⊢
  by_cases h0 : k = 0
  · subst h0; simp [htail]
  · by_cases h1 : k = 1
    · subst h1; simp [htail]
    · simp [h0, h1, Ne.symm h0, Ne.symm h1, htail]

/-- The two codewords of an interleaved list of even length, interleaved again, are that list. -/
theorem weave_pick : ∀ {n : Nat} {ss : List Nat}, ss.length = 2 * n → weave (pick 0 ss) (pick 1 ss) = ss
  | 0, [], _ => rfl
  | n + 1, a :: b :: ss, h => by
    have hss : ss.length = 2 * n := by simp at h; omega
    simp [pick_cons_cons, weave, weave_pick hss]

theorem length_pick : ∀ {n : Nat} {ss : List Nat} {k : Nat}, ss.length = 2 * n → k < 2 → (pick k ss).length = n
  | 0, [], _, _, _ => rfl
  | n + 1, a :: b :: ss, k, h, hk => by
    have hss : ss.length = 2 * n := by simp at h; omega
    rcases (by omega : k = 0 ∨ k = 1) with rfl | rfl <;> simp [pick_cons_cons, length_pick hss]

/-- Each codeword of two interleaved ones. -/
theorem pick_weave : ∀ {a b : List Nat}, a.length = b.length → pick 0 (weave a b) = a ∧ pick 1 (weave a b) = b
  | [], [], _ => ⟨rfl, rfl⟩
  | x :: a, y :: b, h => by
    obtain ⟨ha, hb⟩ := pick_weave (a := a) (b := b) (by simpa using h)
    simp [weave, pick_cons_cons, ha, hb]

theorem weave_append : ∀ {a b : List Nat}, a.length = b.length → ∀ c d, weave a b ++ weave c d = weave (a ++ c) (b ++ d)
  | [], [], _, _, _ => rfl
  | x :: a, y :: b, h, c, d => by
    simp [weave, weave_append (a := a) (b := b) (by simpa using h) c d]

theorem mem_weave : ∀ {a b : List Nat} {v : Nat}, v ∈ weave a b → v ∈ a ∨ v ∈ b
  | [], _, _, h => by simp [weave] at h
  | _ :: _, [], _, h => by simp [weave] at h
  | x :: a, y :: b, v, h => by
    rcases List.mem_cons.mp h with rfl | h
    · simp
    · rcases List.mem_cons.mp h with rfl | h
      · simp
      · exact (mem_weave h).imp (by simp +contextual) (by simp +contextual)

/-! ## A codeword without errors -/

/-- Twenty lanes of 10 bits stay so when each is multiplied by alpha. -/
theorem lanes10x_lt (w : Nat) : lanes10x w < 2 ^ 200 := by
  have hlow : (w &&& (511 * ones20)) * 2 < 2 ^ 200 := by
    have : w &&& (511 * ones20) ≤ 511 * ones20 := Nat.and_le_right
    have : 511 * ones20 * 2 < 2 ^ 200 := by decide
    omega
  have hhigh : ((w >>> 9) &&& ones20) * 9 < 2 ^ 200 := by
    have : (w >>> 9) &&& ones20 ≤ ones20 := Nat.and_le_right
    have : ones20 * 9 < 2 ^ 200 := by decide
    omega
  exact Nat.xor_lt_two_pow hlow hhigh

theorem lanes10Mul_lt (n c : Nat) {w : Nat} (hw : w < 2 ^ 200) : lanes10Mul n c w < 2 ^ 200 := by
  induction n generalizing c w with
  | zero => exact Nat.two_pow_pos _
  | succ n ih =>
    have hbit : c % 2 * w < 2 ^ 200 := by
      rcases Nat.mod_two_eq_zero_or_one c with h | h <;> rw [h] <;> omega
    exact Nat.xor_lt_two_pow hbit (ih _ (lanes10x_lt w))

theorem rsGenPacked_lt : rsGenPacked < 2 ^ 200 := by decide +kernel

theorem rsStep_lt (rem d : Nat) : rsStep rsGenPacked rem d < 2 ^ 200 := by
  have hrem : rem % 2 ^ 190 * 1024 < 2 ^ 200 := by
    have : rem % 2 ^ 190 < 2 ^ 190 := Nat.mod_lt _ (Nat.two_pow_pos _)
    omega
  exact Nat.xor_lt_two_pow hrem (lanes10Mul_lt _ _ rsGenPacked_lt)

/-- The remainder of a division by the generator has 20 symbols. -/
theorem rsRem_lt (data : List Nat) : rsRem data < 1024 ^ 20 := by
  have hpow : (1024 : Nat) ^ 20 = 2 ^ 200 := by norm_num
  rw [hpow, rsRem]
  induction data using List.reverseRecOn with
  | nil => exact Nat.two_pow_pos _
  | append_singleton data d _ => rw [List.foldl_append]; exact rsStep_lt _ _

theorem rsCheck_eq (data : List Nat) : rsCheck data = digitsBE 1024 20 (rsRem data) := by rw [digitsBE_eq_map]; rfl

/-- Data symbols with their check symbols are a codeword, which decodes to itself (R295). -/
theorem rsDecode_codeword {data : List Nat} (h : data.length = 340) :
    rsDecode (data ++ rsCheck data) = some (data ++ rsCheck data, 0) := by
  have hleft : rsLeft (data ++ rsCheck data) = 0 := by
    rw [rsLeft, ← h, List.take_left, List.drop_left, rsCheck_eq, packSyms_digitsBE, Nat.mod_eq_of_lt (rsRem_lt data), Nat.xor_self]
  exact if_pos hleft

/-! ## A pair -/

theorem length_dataSyms (bs : List Byte) : (dataSyms bs).length = 2 * 340 := by rw [dataSyms_eq, length_digitsBE]

theorem length_rsCheck (data : List Nat) : (rsCheck data).length = 20 := by rw [rsCheck_eq, length_digitsBE]

theorem length_weave : ∀ {a b : List Nat}, a.length = b.length → (weave a b).length = 2 * a.length
  | [], [], _ => rfl
  | x :: a, y :: b, h => by
    have := length_weave (a := a) (b := b) (by simpa using h)
    simp [weave]
    omega

/-- The symbols of a pair in the order of their transmission (R296). -/
def pairSyms (bs : List Byte) : List Nat :=
  dataSyms bs ++ weave (rsCheck (pick 0 (dataSyms bs))) (rsCheck (pick 1 (dataSyms bs)))

theorem pairLevels_eq (bs : List Byte) : pairLevels bs = ((pairSyms bs).map symLevels).flatten := rfl

theorem pairSyms_lt {bs : List Byte} {v : Nat} (h : v ∈ pairSyms bs) : v < 1024 := by
  have hcheck : ∀ data, v ∈ rsCheck data → v < 1024 := fun data hv => lt_of_mem_digitsBE (by decide) (rsCheck_eq data ▸ hv)
  rcases List.mem_append.mp h with hdata | hcheck'
  · exact lt_of_mem_digitsBE (by decide) (dataSyms_eq bs ▸ hdata)
  · exact (mem_weave hcheck').elim (hcheck _) (hcheck _)

/-- A pair is 3600 levels. -/
theorem length_pairLevels (bs : List Byte) : (pairLevels bs).length = 3600 := by
  rw [pairLevels_eq, length_symLevels, pairSyms, List.length_append, length_dataSyms,
    length_weave (by rw [length_rsCheck, length_rsCheck]), length_rsCheck]

/-- The levels of a pair carry its two codewords, interleaved. -/
theorem levelSyms_pairLevels (bs : List Byte) : levelSyms (pairLevels bs) =
    weave (pick 0 (dataSyms bs) ++ rsCheck (pick 0 (dataSyms bs))) (pick 1 (dataSyms bs) ++ rsCheck (pick 1 (dataSyms bs))) := by
  have hlen : (pick 0 (dataSyms bs)).length = (pick 1 (dataSyms bs)).length := by
    rw [length_pick (length_dataSyms bs) (by decide), length_pick (length_dataSyms bs) (by decide)]
  rw [pairLevels_eq, levelSyms_symLevels fun v hv => pairSyms_lt hv, pairSyms, ← weave_append hlen,
    weave_pick (length_dataSyms bs)]

/-- The levels of 850 bytes decode to them with no symbol corrected (R297). -/
theorem decodePair_pairLevels {bs : List Byte} (h : bs.length = 850) (left : List Nat) :
    decodePair (pairLevels bs) left = (bs, .clean) := by
  have hlen : ∀ k < 2, (pick k (dataSyms bs)).length = 340 := fun k hk => length_pick (length_dataSyms bs) hk
  have hwords : ∀ k < 2, rsDecode (pick k (levelSyms (pairLevels bs))) =
      some (pick k (dataSyms bs) ++ rsCheck (pick k (dataSyms bs)), 0) := by
    obtain ⟨ha, hb⟩ := pick_weave (a := pick 0 (dataSyms bs) ++ rsCheck (pick 0 (dataSyms bs)))
      (b := pick 1 (dataSyms bs) ++ rsCheck (pick 1 (dataSyms bs)))
      (by simp only [List.length_append, length_rsCheck, hlen 0 (by decide), hlen 1 (by decide)])
    intro k hk
    rw [levelSyms_pairLevels]
    interval_cases k
    · rw [ha, rsDecode_codeword (hlen 0 (by decide))]
    · rw [hb, rsDecode_codeword (hlen 1 (by decide))]
  have hdata : ∀ k < 2, (pick k (dataSyms bs) ++ rsCheck (pick k (dataSyms bs))).take 340 = pick k (dataSyms bs) :=
    fun k hk => List.take_left' (hlen k hk)
  unfold decodePair
  simp only [hwords 0 (by decide), hwords 1 (by decide), hdata 0 (by decide), hdata 1 (by decide), weave_pick (length_dataSyms bs),
    symBytes_dataSyms h]
  rfl

end Sys2Proof.Machine

namespace Sys2Proof.PeerLinkPhy

open Sys2Proof.Machine

/-- Settles O47: the levels of a pair carry two interleaved codewords, each of which leaves no remainder, and the data symbols are the
digits of the number that the bytes spell. -/
theorem pairCode : Obligations.PairCode := by
  unfold Obligations.PairCode
  exact fun bytes left h => ⟨length_pairLevels bytes, decodePair_pairLevels h left⟩

end Sys2Proof.PeerLinkPhy
end

section
/-!
Pairs and replay (R316). `Obligations.Pairs` states what the fourth replay from one oldest CSEQ leaves of a link as `LinkSt.afterDown`,
which resets the roles of the latest ID_BEACON, and `Ctl.linkDown` keeps them, as for `Obligations.Beacons`.
-/

namespace Sys2Proof.Machine

/-- Link 1 UP in a stack whose severities have no reaction, after three replays from CSEQ 5, which is still unacknowledged; the latest
ID_BEACON showed region 0 of the peer as a PRIMARY. -/
def fourthReplay : State :=
  { ctl := { silentPeer.ctl with
      links := [(1, { cbuf := [{ cseq := 5, body := 0x222 }], fromSeq := 5, fromCount := 3, roles := 1 })] } }

theorem fourthReplay_quiet : fourthReplay.ctl.Quiet := silentPeer_quiet

theorem fourthReplay_bare : fourthReplay.ctl.Bare 1 := ⟨rfl, silentPeer_bare.regions⟩

theorem fourthReplay_calm : fourthReplay.ctl.Calm (plSource 1 0x0B0) :=
  ⟨silentPeer_calm.sev, silentPeer_calm.none, silentPeer_calm.head, silentPeer_calm.room⟩

/-- The link goes DOWN (R316), and keeps the roles. -/
theorem fourthReplay_controlReplay {t : State} (h : exec (.controlReplay .l1 false) fourthReplay = .next t) :
    t.ctl.plUp 1 = false ∧ (t.ctl.lnk 1).roles = 1 := by
  injection h with h
  subst h
  decide +kernel

end Sys2Proof.Machine

namespace Sys2Proof.PeerLinkPhy

open Sys2Proof.Machine

/-- Refutes O48: its clause on the fourth replay in a row from one oldest CSEQ claims that the link is left as `LinkSt.afterDown`, with
ROLES 0. At `fourthReplay` the link that goes DOWN keeps ROLES 1. -/
theorem not_pairs : ¬ Obligations.Pairs := by
  unfold Obligations.Pairs
  intro h
  obtain ⟨-, -, hdown⟩ := h fourthReplay .l1 0 .clean 0 0 false false false { cseq := 5, body := 0x222 } [] fourthReplay_quiet
    (by decide +kernel)
  obtain ⟨t, ht, ⟨-, -, hlink⟩, -⟩ := hdown rfl nofun (by decide) fourthReplay_bare fourthReplay_calm
  have hclaimed : (t.ctl.lnk 1).roles = 0 := congrArg LinkSt.roles hlink
  rw [(fourthReplay_controlReplay ht).2] at hclaimed
  exact Nat.one_ne_zero hclaimed

end Sys2Proof.PeerLinkPhy
end

section
/-!
Several updates of the registers in turn as one, and the state of one link after an update of it or of another.
-/

namespace Sys2Proof

theorem Link.idx_lt (l : Link) : l.idx < 2 := by cases l <;> decide

end Sys2Proof

namespace Sys2Proof.Machine

/-! ## Updates of registers in turn -/

section
variable {m n : Ctl} {l l' : List Fld}

theorem Ctl.Shows.refl (m : Ctl) : m.Shows m [] := ⟨.of_flds rfl, rfl⟩

theorem Ctl.Shows.mono (h : m.Shows n l) (hl : ∀ f ∈ l, f ∈ l') : m.Shows n l' := by
  refine ⟨fun f i hi hf => h.keeps f i hi fun hmem => hf ?_, h.same⟩
  obtain ⟨g, hg, hid⟩ := List.mem_map.mp hmem
  exact List.mem_map.mpr ⟨g, hl g hg, hid⟩

theorem Ctl.Shows.set (m : Ctl) (f : Fld) {i : Nat} (v : Nat) (hi : i < 1048576) : m.Shows (m.set f i v) [f] :=
  ⟨fun _ _ hj hg => m.get_set_fld v (by simpa using hg) hi hj, rfl⟩

/-- A fold of updates of the same registers is one. -/
theorem Ctl.Shows.foldl {α : Type} {f : Ctl → α → Ctl} {as : List α} (hf : ∀ a ∈ as, ∀ n : Ctl, n.Shows (f n a) l) (m : Ctl) :
    m.Shows (as.foldl f m) l := by
  induction as generalizing m with
  | nil => exact (Shows.refl m).mono (by simp)
  | cons a as ih => exact ((hf a (by simp) m).trans (ih (fun b hb => hf b (by simp [hb])) _)).mono (by simp)

theorem Ctl.Shows.quiet (h : m.Shows n l) (hq : m.Quiet) : n.Quiet := by
  rw [h.same]
  exact hq

theorem Ctl.Shows.inMode (h : m.Shows n l) (hl : F.GL_MODE_STATE.id ∉ l.map Fld.id) (ms : List Mode) : n.inMode ms = m.inMode ms := by
  have hmode : n.mode = m.mode := h.keeps _ _ (by decide) hl
  have hpower : n.power = m.power := by rw [h.same]
  rw [Ctl.inMode, Ctl.inMode, hmode, hpower]

/-- A fold of writes of the same field copies is one. -/
theorem Ctl.OnlyFlds.foldl {α : Type} {f : Ctl → α → Ctl} {as : List α} {l : List (Fld × Nat)}
    (hf : ∀ a ∈ as, ∀ n : Ctl, n.OnlyFlds (f n a) l) (m : Ctl) : m.OnlyFlds (as.foldl f m) l := by
  induction as generalizing m with
  | nil => exact (OnlyFlds.refl m).mono (by simp)
  | cons a as ih => exact ((hf a (by simp) m).trans (ih (fun b hb => hf b (by simp [hb])) _)).mono (by simp)

end

/-! ## A link -/

section
variable (m : Ctl) (l : Nat) (f : LinkSt → LinkSt)

@[simp] theorem Ctl.lnk_modLnk_same : (m.modLnk l f).lnk l = f (m.lnk l) := Sparse.getD_setD_same _ _ _ _

theorem Ctl.lnk_modLnk_other {q : Nat} (h : q ≠ l) : (m.modLnk l f).lnk q = m.lnk q := Sparse.getD_setD_other _ _ _ _ _ _ h

end

end Sys2Proof.Machine
end

section
/-!
Training of a peer link (R308, R309): what a training writes that fails and one that passes, and each outcome as the effect of a command.
-/

namespace Sys2Proof.Machine

/-! ## The lanes that failed -/

/-- The fields that show the cause of a failed training and its lanes. -/
def failFlds (i : Nat) : List (Fld × Nat) := (F.PL_TRAIN_LAST_CAUSE, i) :: (List.range 8).map fun k => (F.PL_LANE_FAILED, i * 8 + k)

/-- A link shows the cause with which its latest training ended, and the lanes that failed it. -/
def Ctl.ShowsTraining (m : Ctl) (i cause pass : Nat) : Prop :=
  m.get F.PL_TRAIN_LAST_CAUSE i = cause ∧ ∀ k < 8, m.get F.PL_LANE_FAILED (i * 8 + k) = b2n (!bit pass k)

theorem Ctl.OnlyFlds.failedLanes (m : Ctl) (i pass : Nat) :
    m.OnlyFlds (m.failedLanes i pass) ((List.range 8).map fun k => (F.PL_LANE_FAILED, i * 8 + k)) :=
  .foldl (fun k hk n => (OnlyFlds.set n _ _ _).mono fun e he => by
    rw [List.mem_singleton.mp he]
    exact List.mem_map.mpr ⟨k, hk, rfl⟩) m

theorem Ctl.Shows.failedLanes (m : Ctl) {i : Nat} (hi : i < 2) (pass : Nat) : m.Shows (m.failedLanes i pass) [F.PL_LANE_FAILED] :=
  .foldl (fun k hk n => Shows.set n _ _ (by have := List.mem_range.mp hk; omega)) m

theorem Ctl.get_failedLanes (m : Ctl) (i pass : Nat) {k : Nat} (hk : k < 8) :
    (m.failedLanes i pass).get F.PL_LANE_FAILED (i * 8 + k) = b2n (!bit pass k) := by
  have hfold : ∀ j, k < j → ((List.range j).foldl (fun m k => m.set F.PL_LANE_FAILED (i * 8 + k) (b2n (!bit pass k))) m).get
      F.PL_LANE_FAILED (i * 8 + k) = b2n (!bit pass k) := by
    intro j hj
    induction j with
    | zero => omega
    | succ j ih =>
      rw [List.range_succ, List.foldl_append, List.foldl_cons, List.foldl_nil]
      by_cases hkj : k = j
      · subst hkj
        rw [Ctl.get_set_same]
        cases bit pass k <;> rfl
      · rw [Ctl.get_set_other _ _ _ _ _ _ (by simp only [fkey]; omega)]
        exact ih (by omega)
  exact hfold 8 hk

/-! ## A training that fails -/

theorem Ctl.OnlyFlds.trainFail (m : Ctl) (i cause pass : Nat) : m.OnlyFlds (m.trainFail i cause pass) (failFlds i) :=
  (OnlyFlds.set m _ _ _).trans (.failedLanes _ i pass)

theorem failFlds_ids {i : Nat} (hi : i < 2) : ∀ e ∈ failFlds i, e.1.id ∈ [235, 250] ∧ e.2 < 1048576 := by
  intro e he
  rcases List.mem_cons.mp he with rfl | he
  · exact ⟨by simp [F.PL_TRAIN_LAST_CAUSE], by dsimp only; omega⟩
  · obtain ⟨k, hk, rfl⟩ := List.mem_map.mp he
    have := List.mem_range.mp hk
    exact ⟨by simp [F.PL_LANE_FAILED], by dsimp only; omega⟩

theorem Ctl.showsTraining_trainFail (m : Ctl) {i cause : Nat} (hi : i < 2) (hcause : cause < 16) (pass : Nat) :
    (m.trainFail i cause pass).ShowsTraining i cause pass := by
  refine ⟨?_, fun k hk => Ctl.get_failedLanes _ i pass hk⟩
  rw [Ctl.trainFail, (Ctl.Shows.failedLanes _ hi pass).keeps _ _ (by omega) (by decide), Ctl.get_set_same]
  exact Nat.mod_eq_of_lt hcause

/-! ## The delay of a link -/

/-- The field that holds the one-way delay of a link (R54). -/
def delayFld (i : Nat) : Fld := if i = 0 then F.ORB_BORROW_COMP_PEER0 else F.ORB_BORROW_COMP_PEER1

theorem Ctl.setDelay_eq (m : Ctl) (i d : Nat) : m.setDelay i d = m.set (delayFld i) 0 d := by
  unfold Ctl.setDelay delayFld
  split <;> rfl

theorem delayFld_mem (i : Nat) : delayFld i ∈ [F.ORB_BORROW_COMP_PEER0, F.ORB_BORROW_COMP_PEER1] := by
  unfold delayFld
  split <;> simp

theorem delayFld_notMem {i : Nat} {ids : List Nat} (h : 17 ∉ ids ∧ 18 ∉ ids) : (delayFld i).id ∉ ids := by
  unfold delayFld
  split
  · exact h.2
  · exact h.1

theorem Ctl.get_setDelay (m : Ctl) (i : Nat) (d : BitVec 16) : (m.setDelay i d.toNat).get (delayFld i) = d.toNat := by
  have hwidth : (delayFld i).width = 16 := by
    unfold delayFld
    split <;> rfl
  rw [Ctl.setDelay_eq, Ctl.get_set_same, hwidth]
  exact Nat.mod_eq_of_lt d.isLt

theorem Ctl.Shows.setDelay (m : Ctl) (i d : Nat) :
    m.Shows (m.setDelay i d) [F.ORB_BORROW_COMP_PEER0, F.ORB_BORROW_COMP_PEER1] := by
  rw [Ctl.setDelay_eq]
  exact (Shows.set m _ d (by decide)).mono fun f hf => List.mem_singleton.mp hf ▸ delayFld_mem i

/-! ## The commands whose training fails -/

section
variable {s : State} {c : Instr} {g : Arr → Ctl → Ctl} {i v cause pass : Nat} {n : Ctl} {ls : List (Fld × Nat)}

/-- The next state of a command whose training fails after it has led to the state `n`. -/
theorem exec_of_trainFail (hc : exec c s = .next (run s g)) (hx : g s.arr s.ctl.fresh = n.trainFail i cause pass) (hq : s.ctl.Quiet)
    (hn : ({ s.ctl.fresh with free := v } : Ctl).OnlyFlds n ls) (hi : i < 2) (hcause : cause < 16) :
    ∃ t, exec c s = .next t ∧ Ends s t (ls ++ failFlds i) { s.ctl with free := v } ∧ t.ctl.ShowsTraining i cause pass ∧
      ∀ f i, f.id ∉ [235, 250, 415] → i < 1048576 → t.ctl.get f i = n.get f i := by
  obtain ⟨t, ht, hends, hget⟩ := exec_of_onlyFlds (m := { s.ctl with free := v }) hc hx (hn.trans (.trainFail n i cause pass)) hq
    rfl rfl rfl rfl
  obtain ⟨hshown, hlanes⟩ := n.showsTraining_trainFail hi hcause pass
  refine ⟨t, ht, hends, ⟨?_, fun k hk => ?_⟩, fun f j hf hj => ?_⟩
  · rw [hget _ _ (by decide) (by omega), hshown]
  · rw [hget _ _ (by decide) (by omega), hlanes k hk]
  · simp only [List.mem_cons, List.not_mem_nil, or_false, not_or] at hf
    obtain ⟨hlane, hlast, hpin⟩ := hf
    rw [hget f j hpin hj]
    exact (Ctl.OnlyFlds.trainFail n i cause pass).get (failFlds_ids hi) (by simp [hlane, hlast]) hj

end

/-! ## A training that passes -/

/-- The fields that hold what a training found for the receivers and transmitters of a link (R292, R294). -/
def coeffFlds : List Fld :=
  [F.PL_LANE_PEAK, F.PL_FIR_PRE2, F.PL_FIR_PRE1, F.PL_FIR_MAIN, F.PL_FIR_POST1, F.PL_FIR_POST2]

theorem Ctl.Shows.setFir (m : Ctl) {j : Nat} (hj : j < 1048576) (v : Nat) : m.Shows (m.setFir j v) coeffFlds :=
  (((((Shows.set m _ _ hj).trans (.set _ _ _ hj)).trans (.set _ _ _ hj)).trans (.set _ _ _ hj)).trans (.set _ _ _ hj)).mono
    (by simp [coeffFlds])

theorem Ctl.Shows.setPeak (m : Ctl) {j : Nat} (hj : j < 1048576) (v : Nat) : m.Shows (m.set F.PL_LANE_PEAK j v) coeffFlds :=
  (Shows.set m _ v hj).mono (by simp [coeffFlds])

theorem Ctl.Shows.ite {m n k : Ctl} {l : List Fld} {b : Bool} (h : m.Shows n l) (h' : m.Shows k l) :
    m.Shows (if b then n else k) l := by
  cases b
  · exact h'
  · exact h

/-- Show the codes of a lane that are fixed (R292, R294). -/
def Ctl.fixCoeffs (i : Nat) (m : Ctl) (k : Nat) : Ctl :=
  let n := if m.is F.PL_PHY_CFG_PEAK_FIX i then m.set F.PL_LANE_PEAK (i * 8 + k) (min 36 (m.get F.PL_PHY_CFG_PEAK i)) else m
  if n.is F.PL_PHY_CFG_FIR_FIX i then n.setFir (i * 8 + k) (firPreset (n.get F.PL_PHY_CFG_PRESET i)) else n

theorem Ctl.storeCoeffs_eq (m : Ctl) (i : Nat) (peak : List (Fin 8 × BitVec 6)) (fir : List (Fin 8 × BitVec 30)) :
    m.storeCoeffs i peak fir = (List.range 8).foldl (Ctl.fixCoeffs i)
      (fir.foldl (fun m e => m.setFir (i * 8 + e.1.val) e.2.toNat)
        (peak.foldl (fun m e => m.set F.PL_LANE_PEAK (i * 8 + e.1.val) (min 36 e.2.toNat)) m)) := rfl

theorem Ctl.Shows.fixCoeffs (m : Ctl) {i k : Nat} (hj : i * 8 + k < 1048576) : m.Shows (Ctl.fixCoeffs i m k) coeffFlds := by
  have hnone : ∀ n : Ctl, n.Shows n coeffFlds := fun n => (Shows.refl n).mono (by simp)
  unfold Ctl.fixCoeffs
  exact ((Shows.ite (.setPeak m hj _) (hnone m)).trans (.ite (.setFir _ hj _) (hnone _))).mono (by simp)

theorem Ctl.Shows.storeCoeffs (m : Ctl) {i : Nat} (hi : i < 2) (peak : List (Fin 8 × BitVec 6)) (fir : List (Fin 8 × BitVec 30)) :
    m.Shows (m.storeCoeffs i peak fir) coeffFlds := by
  have hlane : ∀ k < 8, i * 8 + k < 1048576 := fun k hk => by omega
  rw [Ctl.storeCoeffs_eq]
  exact (((Shows.foldl (fun e _ n => .setPeak n (hlane e.1 e.1.isLt) _) m).trans
    (.foldl (fun e _ n => .setFir n (hlane e.1 e.1.isLt) _) _)).trans
    (.foldl (fun k hk n => .fixCoeffs n (hlane k (List.mem_range.mp hk))) _)).mono (by simp)

/-- The width that lanes give fits its two fields. -/
theorem Ctl.widthOf_lt {m : Ctl} {i pass : Nat} {w : Nat × Nat} (h : m.widthOf i pass = some w) : w.1 < 2 ∧ w.2 < 2 := by
  unfold Ctl.widthOf at h
  split_ifs at h <;> cases h <;> decide

/-- The width that lanes give is a matter of one register, which counting a training leaves. -/
theorem Ctl.widthOf_bump (m : Ctl) (i pass : Nat) : (m.bump F.PL_TRAIN_COUNT i).widthOf i pass = m.widthOf i pass := by
  have hallowed : (m.bump F.PL_TRAIN_COUNT i).is F.PL_PHY_CTRL_X4_EN i = m.is F.PL_PHY_CTRL_X4_EN i :=
    congrArg (· != 0) (Ctl.get_set_other _ _ _ _ _ _ (by simp only [fkey, F.PL_PHY_CTRL_X4_EN, F.PL_TRAIN_COUNT]; omega))
  rw [Ctl.widthOf, Ctl.widthOf, hallowed]

/-- A link whose training has passed. -/
def LinkSt.retrained (x : LinkSt) : LinkSt := { x with trained := true, aborts := [], rxDead := false }

section
variable {m : Ctl} {i : Nat} {lanes : BitVec 8} {delay : BitVec 16} {peak : List (Fin 8 × BitVec 6)} {fir : List (Fin 8 × BitVec 30)}
  {w : Nat × Nat}

/-- The registers of a link whose training has taken a width. -/
def Ctl.takeTraining (m : Ctl) (i : Nat) (lanes : BitVec 8) (delay : BitVec 16) (peak : List (Fin 8 × BitVec 6))
    (fir : List (Fin 8 × BitVec 30)) (w : Nat × Nat) : Ctl :=
  ((((((m.bump F.PL_TRAIN_COUNT i).failedLanes i lanes.toNat).set F.PL_PHY_STATUS_WIDTH i w.1).set F.PL_PHY_STATUS_HALF i
    w.2).storeCoeffs i peak fir).setDelay i delay.toNat).set F.PL_TRAIN_LAST_CAUSE i 0

/-- The fields of those registers. -/
def takenFlds : List Fld :=
  [F.PL_TRAIN_COUNT, F.PL_LANE_FAILED, F.PL_PHY_STATUS_WIDTH, F.PL_PHY_STATUS_HALF] ++ coeffFlds ++
    [F.ORB_BORROW_COMP_PEER0, F.ORB_BORROW_COMP_PEER1, F.PL_TRAIN_LAST_CAUSE]

/-- What those registers show. -/
structure Ctl.TookTraining (m n : Ctl) (i : Nat) (lanes : BitVec 8) (delay : BitVec 16) (w : Nat × Nat) : Prop where
  only : m.Shows n takenFlds
  count : n.get F.PL_TRAIN_COUNT i = min (m.get F.PL_TRAIN_COUNT i + 1) (2 ^ F.PL_TRAIN_COUNT.width - 1)
  result : n.ShowsTraining i 0 lanes.toNat
  width : n.get F.PL_PHY_STATUS_WIDTH i = w.1
  half : n.get F.PL_PHY_STATUS_HALF i = w.2
  delay : n.get (delayFld i) = delay.toNat

theorem Ctl.TookTraining.takeTraining (m : Ctl) (hi : i < 2) (hw : w.1 < 2 ∧ w.2 < 2) (lanes : BitVec 8) (delay : BitVec 16)
    (peak : List (Fin 8 × BitVec 6)) (fir : List (Fin 8 × BitVec 30)) :
    m.TookTraining (m.takeTraining i lanes delay peak fir w) i lanes delay w := by
  have hix : i < 1048576 := by omega
  let counted := m.bump F.PL_TRAIN_COUNT i
  let judged := counted.failedLanes i lanes.toNat
  let sized := (judged.set F.PL_PHY_STATUS_WIDTH i w.1).set F.PL_PHY_STATUS_HALF i w.2
  let stored := (sized.storeCoeffs i peak fir).setDelay i delay.toNat
  have hcounted : m.Shows counted [F.PL_TRAIN_COUNT] := .set m _ _ hix
  have hjudged : counted.Shows judged [F.PL_LANE_FAILED] := .failedLanes _ hi _
  have hsized : judged.Shows sized [F.PL_PHY_STATUS_WIDTH, F.PL_PHY_STATUS_HALF] := (Shows.set _ _ _ hix).trans (.set _ _ _ hix)
  have hstored := ((Shows.storeCoeffs sized hi peak fir).trans (.setDelay _ i delay.toNat)).trans
    (.set stored F.PL_TRAIN_LAST_CAUSE 0 hix)
  refine ⟨((hcounted.trans hjudged).trans (hsized.trans hstored)).mono (by simp [takenFlds]), ?_, ⟨?_, fun k hk => ?_⟩, ?_, ?_, ?_⟩
  · exact ((hjudged.trans (hsized.trans hstored)).keeps _ i hix (by decide)).trans (Ctl.get_bump_same _ _ _)
  · exact Ctl.get_set_same _ _ _ _
  · exact ((hsized.trans hstored).keeps _ _ (by omega) (by decide)).trans (Ctl.get_failedLanes _ _ _ hk)
  · refine (((Shows.set _ _ _ hix).trans hstored).keeps _ i hix (by decide)).trans ((Ctl.get_set_same _ _ _ _).trans ?_)
    exact Nat.mod_eq_of_lt hw.1
  · refine (hstored.keeps _ i hix (by decide)).trans ((Ctl.get_set_same _ _ _ _).trans ?_)
    exact Nat.mod_eq_of_lt hw.2
  · refine ((Shows.set stored F.PL_TRAIN_LAST_CAUSE 0 hix).keeps _ 0 (by decide) (delayFld_notMem ?_)).trans (Ctl.get_setDelay _ i delay)
    decide

/-- The registers of a link that comes up with its training: in TRAINING it shows its last step, and later it is UP and awake. -/
def Ctl.comeUp (m : Ctl) (i : Nat) (waits : Bool) : Ctl :=
  if waits then (m.set F.PL_PHY_STATUS_STATE i 1).set F.PL_PHY_STATUS_STEP i 4
  else (m.set F.PL_PHY_STATUS_STATE i 2).set F.PL_PHY_STATUS_TX_AWAKE i 1

theorem Ctl.Shows.comeUp (m : Ctl) (hi : i < 2) (waits : Bool) :
    m.Shows (m.comeUp i waits) [F.PL_PHY_STATUS_STATE, F.PL_PHY_STATUS_STEP, F.PL_PHY_STATUS_TX_AWAKE] := by
  have hix : i < 1048576 := by omega
  exact Shows.ite (((Shows.set m _ _ hix).trans (.set _ _ _ hix)).mono (by simp))
    (((Shows.set m _ _ hix).trans (.set _ _ _ hix)).mono (by simp))

theorem Ctl.get_comeUp_state (m : Ctl) (hi : i < 2) (waits : Bool) :
    (m.comeUp i waits).get F.PL_PHY_STATUS_STATE i = if waits then 1 else 2 := by
  cases waits
  · exact (Ctl.get_set_fld _ _ (by decide) (by omega) (by omega)).trans (Ctl.get_set_same _ _ _ _)
  · exact (Ctl.get_set_fld _ _ (by decide) (by omega) (by omega)).trans (Ctl.get_set_same _ _ _ _)

/-- A training whose lanes give no width has measured the delay all the same. -/
theorem Ctl.linkTrain_pass_none (h : m.widthOf i lanes.toNat = none) :
    m.linkTrain i (.pass lanes delay peak fir) = m.linkTrain i (.width lanes delay) := by
  unfold Ctl.linkTrain
  simp only [Ctl.widthOf_bump, h]

/-- A training whose lanes give a width takes it; the link then waits for READY, or is UP and sends its first beacon. -/
theorem Ctl.linkTrain_pass_some (h : m.widthOf i lanes.toNat = some w) :
    m.linkTrain i (.pass lanes delay peak fir) =
      if (m.takeTraining i lanes delay peak fir w).inMode [.training] then
        ((m.takeTraining i lanes delay peak fir w).comeUp i true).modLnk i LinkSt.retrained
      else (((m.takeTraining i lanes delay peak fir w).comeUp i false).modLnk i LinkSt.retrained).sendId i := by
  unfold Ctl.linkTrain
  simp only [Ctl.widthOf_bump, h]
  rfl

end

/-! ## The first beacon -/

/-- The body of an ID_BEACON (R332). -/
def Ctl.idBody (m : Ctl) (l : Nat) : Nat :=
  9 + m.serial * 2 ^ 16 + m.orbit * 2 ^ 80 + m.orbState * 2 ^ 128 + b2n m.numValid * 2 ^ 131 +
    b2n (m.orbState == osBorrowed && m.orb.source == l + 1) * 2 ^ 132 + m.roles * 2 ^ 133

theorem Ctl.serial_lt (m : Ctl) : m.serial < 2 ^ 64 := by
  unfold Ctl.serial
  split
  · exact Nat.two_pow_pos _
  · exact BitVec.isLt _

/-- The serial number is a matter of the fuses and of how the words that hold it were sensed. -/
theorem Ctl.Shows.serial {m n : Ctl} {l : List Fld} (h : m.Shows n l)
    (hl : ∀ f ∈ [F.FUSE_WORD_HI_FAILED, F.FUSE_WORD_HI_SENSE, F.FUSE_REGION_STATE], f.id ∉ l.map Fld.id) : n.serial = m.serial := by
  have hword : ∀ k < 2, n.wordFailed k = m.wordFailed k := fun k hk => by
    have hfailed : n.is F.FUSE_WORD_HI_FAILED k = m.is F.FUSE_WORD_HI_FAILED k :=
      congrArg (· != 0) (h.keeps _ k (by omega) (hl _ (by simp)))
    have hsense : n.senseOf k = m.senseOf k := h.keeps _ k (by omega) (hl _ (by simp))
    have hregion : n.regionState (fuseRegion k) = m.regionState (fuseRegion k) := by
      rw [fuseRegion, if_pos (by omega)]
      exact h.keeps _ 0 (by decide) (hl _ (by simp))
    rw [Ctl.wordFailed, Ctl.wordFailed, Ctl.wordBad, Ctl.wordBad, hfailed, hsense, hregion]
  have hbits : n.fuseBits = m.fuseBits := by rw [h.same]; rfl
  rw [Ctl.serial, Ctl.serial, hword 0 (by decide), hword 1 (by decide), hbits]

theorem Ctl.idBody_fields (m : Ctl) (l : Nat) : m.idBody l % 16 = 9 ∧ bits (m.idBody l) 16 64 = m.serial := by
  have := m.serial_lt
  unfold Ctl.idBody bits
  rw [Nat.shiftRight_eq_div_pow]
  omega

/-- A link with an ID_BEACON queued that carries the orbit number, where it is valid. -/
def LinkSt.identified (x : LinkSt) (body : Nat) (orbit : Option Nat) : LinkSt :=
  { x with tx := x.tx ++ [.ctl body], sentOrbit := orbit }

theorem Ctl.sendId_up {m : Ctl} {l : Nat} (hup : m.plUp l = true) : ∃ ls, m.sendId l = { m with links := ls } ∧
    (∀ q, q ≠ l → (m.sendId l).lnk q = m.lnk q) ∧
    (m.sendId l).lnk l = (m.lnk l).identified (m.idBody l) (if m.numValid then some m.orbit else none) := by
  have hsend : m.sendId l = (m.modLnk l fun x => { x with tx := x.tx ++ [.ctl (m.idBody l)] }).modLnk l fun x =>
      { x with sentOrbit := if m.numValid then some m.orbit else none } := by
    rw [Ctl.sendId, if_pos hup, Ctl.sendCtl, if_pos hup]
    rfl
  refine ⟨(m.sendId l).links, by rw [hsend]; rfl, fun q hq => ?_, ?_⟩
  · rw [hsend, Ctl.lnk_modLnk_other _ _ _ hq, Ctl.lnk_modLnk_other _ _ _ hq]
  · rw [hsend, Ctl.lnk_modLnk_same, Ctl.lnk_modLnk_same]
    rfl

/-! ## The commands whose training passes -/

/-- The fields that a training writes which passes. -/
def passedFlds : List Fld :=
  [F.PL_TRAIN_COUNT, F.PL_TRAIN_LAST_CAUSE, F.PL_LANE_FAILED, F.PL_PHY_STATUS_WIDTH, F.PL_PHY_STATUS_HALF, F.PL_LANE_PEAK,
    F.PL_FIR_PRE2, F.PL_FIR_PRE1, F.PL_FIR_MAIN, F.PL_FIR_POST1, F.PL_FIR_POST2, F.ORB_BORROW_COMP_PEER0, F.ORB_BORROW_COMP_PEER1,
    F.PL_PHY_STATUS_STATE, F.PL_PHY_STATUS_STEP, F.PL_PHY_STATUS_TX_AWAKE]

/-- The registers after a command whose training has passed; `waits` where the stack is in TRAINING. -/
structure PassedTraining (s t : State) (i : Nat) (lanes : BitVec 8) (delay : BitVec 16) (w : Nat × Nat) (waits : Bool) : Prop where
  count : t.ctl.get F.PL_TRAIN_COUNT i = min (s.ctl.get F.PL_TRAIN_COUNT i + 1) (2 ^ F.PL_TRAIN_COUNT.width - 1)
  frame : EndsBut s t passedFlds { s.ctl with links := t.ctl.links }
  result : t.ctl.ShowsTraining i 0 lanes.toNat
  width : t.ctl.get F.PL_PHY_STATUS_WIDTH i = w.1
  half : t.ctl.get F.PL_PHY_STATUS_HALF i = w.2
  delay : t.ctl.get (delayFld i) = delay.toNat
  state : t.ctl.get F.PL_PHY_STATUS_STATE i = if waits then 1 else 2
  awake : waits = false → t.ctl.get F.PL_PHY_STATUS_TX_AWAKE i = 1

section
variable {s : State} {c : Instr} {g : Arr → Ctl → Ctl} {i : Nat} {n : Ctl} {lanes : BitVec 8} {delay : BitVec 16} {w : Nat × Nat}

/-- The frame of a command that writes registers and changes links. -/
theorem exec_of_links {y : Ctl} {ls : Sparse LinkSt} {l : List Fld} (hc : exec c s = .next (run s g))
    (hx : g s.arr s.ctl.fresh = { y with links := ls }) (hq : s.ctl.Quiet) (hy : s.ctl.fresh.Shows y l) :
    ∃ t, exec c s = .next t ∧ EndsBut s t l { s.ctl with links := t.ctl.links } ∧ t.ctl.links = ls ∧
      ∀ f j, f.id ≠ F.FLT_STATUS_FAULTN.id → j < 1048576 → t.ctl.get f j = y.get f j := by
  have hquiet : ({ y with links := ls } : Ctl).Quiet := hy.quiet hq.fresh
  have hraised : y.raised = [] := by rw [hy.same]; rfl
  have hedits : y.edits = [] := by rw [hy.same]; rfl
  have hrest : ({ y with links := ls } : Ctl).rest = ({ s.ctl with links := ls } : Ctl).rest := by rw [hy.same]; rfl
  have hends := EndsBut.of_effect hx hquiet hraised hedits hy.keeps hrest
  have hlinks : (run s g).ctl.links = ls := hends.part (·.links) fun _ => rfl
  exact ⟨_, hc, hlinks ▸ hends, hlinks, fun f j hf hj => get_of_effect hx hquiet hraised hedits j (fkey_ne hf hj (by decide))⟩

theorem PassedTraining.of_comeUp {waits : Bool} {ls : Sparse LinkSt} (hc : exec c s = .next (run s g))
    (hx : g s.arr s.ctl.fresh = { n.comeUp i waits with links := ls }) (hq : s.ctl.Quiet) (hi : i < 2)
    (h : s.ctl.fresh.TookTraining n i lanes delay w) :
    ∃ t, exec c s = .next t ∧ PassedTraining s t i lanes delay w waits ∧ t.ctl.links = ls := by
  have hix : i < 1048576 := by omega
  have hup := Ctl.Shows.comeUp n hi waits
  obtain ⟨t, ht, hends, hlinks, hget⟩ := exec_of_links (l := passedFlds) hc hx hq
    ((h.only.trans hup).mono (by simp [takenFlds, coeffFlds, passedFlds]))
  have hkept : ∀ f j, f.id ∉ [415, 234, 231, 230] → j < 1048576 → t.ctl.get f j = n.get f j := fun f j hf hj => by
    obtain ⟨hpin, hshown⟩ := not_or.mp (List.mem_cons.not.mp hf)
    exact (hget f j hpin hj).trans (hup.keeps f j hj hshown)
  refine ⟨t, ht, ⟨?_, hends, ⟨?_, fun k hk => ?_⟩, ?_, ?_, ?_, ?_, fun hwaits => ?_⟩, hlinks⟩
  · exact (hkept _ _ (by decide) hix).trans h.count
  · exact (hkept _ _ (by decide) hix).trans h.result.1
  · exact (hkept _ _ (by decide) (by omega)).trans (h.result.2 k hk)
  · exact (hkept _ _ (by decide) hix).trans h.width
  · exact (hkept _ _ (by decide) hix).trans h.half
  · exact (hkept _ _ (delayFld_notMem (by decide)) (by decide)).trans h.delay
  · exact (hget _ _ (by decide) hix).trans (Ctl.get_comeUp_state n hi waits)
  · subst hwaits
    exact (hget _ _ (by decide) hix).trans (Ctl.get_set_same _ _ _ _)

end

/-! ## Each outcome of a training -/

section
variable {s : State} {c : Instr} {g : Arr → Ctl → Ctl} {i : Nat} {lanes : BitVec 8} {delay : BitVec 16}

/-- A training has been counted. -/
def CountedTraining (s t : State) (i : Nat) : Prop :=
  t.ctl.get F.PL_TRAIN_COUNT i = min (s.ctl.get F.PL_TRAIN_COUNT i + 1) (2 ^ F.PL_TRAIN_COUNT.width - 1)

/-- The fields that a training writes which fails. -/
def triedFlds (i : Nat) : List (Fld × Nat) := (F.PL_TRAIN_COUNT, i) :: failFlds i

theorem triedFlds_ids (hi : i < 2) : ∀ e ∈ triedFlds i, e.1.id ∈ [249, 235, 250] ∧ e.2 < 1048576 := by
  intro e he
  rcases List.mem_cons.mp he with rfl | he
  · exact ⟨by simp [F.PL_TRAIN_COUNT], by dsimp only; omega⟩
  · obtain ⟨hid, hlt⟩ := failFlds_ids hi e he
    exact ⟨List.mem_cons_of_mem _ hid, hlt⟩

/-- A training that fails before its delay is known (R308). -/
theorem exec_of_failed {v cause pass : Nat} (hc : exec c s = .next (run s g)) (hq : s.ctl.Quiet) (hi : i < 2) (hcause : cause < 16)
    (hx : g s.arr s.ctl.fresh = (({ s.ctl.fresh with free := v } : Ctl).bump F.PL_TRAIN_COUNT i).trainFail i cause pass) :
    ∃ t, exec c s = .next t ∧ CountedTraining s t i ∧ Ends s t (triedFlds i) { s.ctl with free := v } ∧
      t.ctl.ShowsTraining i cause pass := by
  obtain ⟨t, ht, hends, hshows, hget⟩ := exec_of_trainFail hc hx hq (.set _ _ _ _) hi hcause
  exact ⟨t, ht, (hget _ _ (by decide) (by omega)).trans (Ctl.get_bump_same _ _ _), hends, hshows⟩

/-- A training that fails at its width has measured the delay (R308). -/
theorem exec_of_failedWidth (hc : exec c s = .next (run s g)) (hq : s.ctl.Quiet) (hi : i < 2)
    (hx : g s.arr s.ctl.fresh = s.ctl.fresh.linkTrain i (.width lanes delay)) :
    ∃ t, exec c s = .next t ∧ CountedTraining s t i ∧ Ends s t ((delayFld i, 0) :: triedFlds i) s.ctl ∧
      t.ctl.ShowsTraining i 6 lanes.toNat ∧ t.ctl.get (delayFld i) = delay.toNat := by
  have hix : i < 1048576 := by omega
  let counted := s.ctl.fresh.bump F.PL_TRAIN_COUNT i
  have hmeasured : s.ctl.fresh.OnlyFlds (counted.setDelay i delay.toNat) [(delayFld i, 0), (F.PL_TRAIN_COUNT, i)] := by
    rw [Ctl.setDelay_eq]
    exact ((Ctl.OnlyFlds.set _ _ _ _).trans (.set counted (delayFld i) 0 delay.toNat)).mono (by simp)
  obtain ⟨t, ht, hends, hshows, hget⟩ := exec_of_trainFail (v := s.ctl.free) hc hx hq hmeasured hi (by decide)
  refine ⟨t, ht, (hget _ _ (by decide) hix).trans ?_, hends, hshows, ?_⟩
  · exact ((Ctl.Shows.setDelay counted i _).keeps _ _ hix (by decide)).trans (Ctl.get_bump_same _ _ _)
  · exact (hget _ _ (delayFld_notMem (by decide)) (by decide)).trans (Ctl.get_setDelay counted i delay)

/-- Two ends with the same role are reported (R307). -/
theorem exec_of_roleClash (hc : exec c s = .next (run s g)) (hq : s.ctl.Quiet) (hi : i < 2) (hcalm : s.ctl.Calm (plSource i 0x0B2))
    (hx : g s.arr s.ctl.fresh = s.ctl.fresh.linkTrain i .roleClash) :
    ∃ t, exec c s = .next t ∧ CountedTraining s t i ∧
      EndsRaised s t (plSource i 0x0B2) ((F.PL_PHY_STATUS_ROLE_CLASH, i) :: triedFlds i) s.ctl ∧ t.ctl.ShowsTraining i 2 0 ∧
      t.ctl.get F.PL_PHY_STATUS_ROLE_CLASH i = 1 := by
  have hix : i < 1048576 := by omega
  let counted := s.ctl.fresh.bump F.PL_TRAIN_COUNT i
  let failed := counted.trainFail i 2 0
  let clashed := failed.set F.PL_PHY_STATUS_ROLE_CLASH i 1
  have hfailed := Ctl.OnlyFlds.trainFail counted i 2 0
  have honly : s.ctl.fresh.OnlyFlds clashed ((F.PL_PHY_STATUS_ROLE_CLASH, i) :: triedFlds i) :=
    (((Ctl.OnlyFlds.set _ _ _ _).trans hfailed).trans (.set failed _ _ _)).mono (by simp [triedFlds]; tauto)
  have hfree : ∀ e ∈ (F.PL_PHY_STATUS_ROLE_CLASH, i) :: triedFlds i, e.1.id ∉ [413, 426, 427, 417, 416, 425] ∧ e.2 < 1048576 := by
    refine List.forall_mem_cons.mpr ⟨⟨(by decide : F.PL_PHY_STATUS_ROLE_CLASH.id ∉ _), hix⟩, fun e he => ?_⟩
    obtain ⟨hid, hlt⟩ := triedFlds_ids hi e he
    exact ⟨(by decide : ∀ id ∈ [249, 235, 250], id ∉ [413, 426, 427, 417, 416, 425]) _ hid, hlt⟩
  have hsrc : plSource i 0x0B2 < 512 := by
    show 0x0B2 + 0x10 * i < 512
    omega
  obtain ⟨hends, hget⟩ := EndsRaised.of_calm s g (plSource i 0x0B2) 0 false _ s.ctl clashed hcalm hsrc hx
    (honly.quiet hq.fresh) honly.raised honly.edits honly.flds hfree honly.rest
  have hkept : ∀ f j, f.id ∉ [415, 427, 417, 416, 425] → f.id ≠ 228 → j < 1048576 → (run s g).ctl.get f j = failed.get f j :=
    fun f j hf hclash hj => (hget f j hf hj).trans (Ctl.get_set_fld _ _ hclash hix hj)
  obtain ⟨hshown, hlanes⟩ := counted.showsTraining_trainFail (pass := 0) hi (show 2 < 16 by decide)
  refine ⟨_, hc, ?_, hends, ⟨?_, fun k hk => ?_⟩, ?_⟩
  · refine (hkept _ _ (by decide) (by decide) hix).trans ?_
    exact (hfailed.get (failFlds_ids hi) (by decide) hix).trans (Ctl.get_bump_same _ _ _)
  · exact (hkept _ _ (by decide) (by decide) hix).trans hshown
  · exact (hkept _ _ (by decide) (by decide) (by omega)).trans (hlanes k hk)
  · exact (hget _ _ (by decide) hix).trans (Ctl.get_set_same _ _ _ _)

variable {peak : List (Fin 8 × BitVec 6)} {fir : List (Fin 8 × BitVec 30)} {w : Nat × Nat}

/-- In TRAINING a link that has trained waits for READY (R404). -/
theorem exec_of_passedWaiting (hc : exec c s = .next (run s g)) (hq : s.ctl.Quiet) (hi : i < 2)
    (hx : g s.arr s.ctl.fresh = s.ctl.fresh.linkTrain i (.pass lanes delay peak fir)) (hw : s.ctl.widthOf i lanes.toNat = some w)
    (hmode : s.ctl.inMode [.training] = true) :
    ∃ t, exec c s = .next t ∧ PassedTraining s t i lanes delay w true ∧ s.ctl.OtherLinks t.ctl i ∧
      t.ctl.lnk i = (s.ctl.lnk i).retrained := by
  obtain ⟨n, hn⟩ : ∃ n, n = s.ctl.fresh.takeTraining i lanes delay peak fir w := ⟨_, rfl⟩
  have htook : s.ctl.fresh.TookTraining n i lanes delay w := hn ▸ .takeTraining _ hi (Ctl.widthOf_lt hw) _ _ _ _
  have hmode' : n.inMode [.training] = true := (htook.only.inMode (by decide) _).trans hmode
  have hx' : g s.arr s.ctl.fresh = (n.comeUp i true).modLnk i LinkSt.retrained := by
    rw [hx, Ctl.linkTrain_pass_some (m := s.ctl.fresh) hw, ← hn, if_pos hmode']
  have hlinks : (n.comeUp i true).lnk = s.ctl.lnk := by
    rw [(htook.only.trans (Ctl.Shows.comeUp n hi true)).same]
    rfl
  obtain ⟨t, ht, hpassed, hls⟩ := PassedTraining.of_comeUp hc hx' hq hi htook
  have hlnk : ∀ q, t.ctl.lnk q = ((n.comeUp i true).modLnk i LinkSt.retrained).lnk q := fun q => by
    rw [Ctl.lnk, hls]
    rfl
  refine ⟨t, ht, hpassed, fun q hqi => ?_, ?_⟩
  · rw [hlnk, Ctl.lnk_modLnk_other _ _ _ hqi, hlinks]
  · rw [hlnk, Ctl.lnk_modLnk_same, hlinks]

/-- The links as a training that passes leaves them outside TRAINING, with the first beacon queued on its own. -/
theorem Ctl.TookTraining.firstBeacon {m n : Ctl} (h : m.TookTraining n i lanes delay w) (hi : i < 2) : ∃ ls body,
    ((n.comeUp i false).modLnk i LinkSt.retrained).sendId i = { n.comeUp i false with links := ls } ∧
      (∀ q, q ≠ i → Sparse.getD ls q {} = m.lnk q) ∧ (body % 16 = 9 ∧ bits body 16 64 = m.serial) ∧
      Sparse.getD ls i {} = (m.lnk i).retrained.identified body (if m.numValid then some m.orbit else none) := by
  have hshows := h.only.trans (Ctl.Shows.comeUp n hi false)
  have hlinks : (n.comeUp i false).lnk = m.lnk := by rw [hshows.same]; rfl
  obtain ⟨y, hy⟩ : ∃ y, y = (n.comeUp i false).modLnk i LinkSt.retrained := ⟨_, rfl⟩
  have hget : ∀ f j, y.get f j = (n.comeUp i false).get f j := fun f j => by rw [hy]; rfl
  have hup : y.plUp i = true := by rw [Ctl.plUp, hget, Ctl.get_comeUp_state n hi]; rfl
  have hserial : y.serial = m.serial := by rw [hy]; exact hshows.serial (by decide)
  have horbit : y.orbit = m.orbit := (hget _ _).trans (hshows.keeps _ _ (by decide) (by decide))
  have hvalid : y.numValid = m.numValid :=
    congrArg (· != 0) ((hget F.ORB_STATUS_NUMBER_VALID 0).trans (hshows.keeps _ _ (by decide) (by decide)))
  obtain ⟨ls, hsent, hothers, hlink⟩ := Ctl.sendId_up hup
  have hls : ∀ q, Sparse.getD ls q {} = (y.sendId i).lnk q := fun q => by rw [hsent]; rfl
  refine ⟨ls, y.idBody i, ?_, fun q hq => ?_, hserial ▸ y.idBody_fields i, ?_⟩
  · rw [← hy, hsent, hy]
    rfl
  · rw [hls, hothers q hq, hy, Ctl.lnk_modLnk_other _ _ _ hq, hlinks]
  · rw [hls, hlink, horbit, hvalid, hy, Ctl.lnk_modLnk_same, hlinks]

/-- Outside TRAINING the link is UP and sends its first beacon (R308, R332). -/
theorem exec_of_passedUp (hc : exec c s = .next (run s g)) (hq : s.ctl.Quiet) (hi : i < 2)
    (hx : g s.arr s.ctl.fresh = s.ctl.fresh.linkTrain i (.pass lanes delay peak fir)) (hw : s.ctl.widthOf i lanes.toNat = some w)
    (hmode : s.ctl.inMode [.training] = false) :
    ∃ t body, exec c s = .next t ∧ PassedTraining s t i lanes delay w false ∧ s.ctl.OtherLinks t.ctl i ∧
      (body % 16 = 9 ∧ bits body 16 64 = s.ctl.serial) ∧
      t.ctl.lnk i = (s.ctl.lnk i).retrained.identified body (if s.ctl.numValid then some s.ctl.orbit else none) := by
  obtain ⟨n, hn⟩ : ∃ n, n = s.ctl.fresh.takeTraining i lanes delay peak fir w := ⟨_, rfl⟩
  have htook : s.ctl.fresh.TookTraining n i lanes delay w := hn ▸ .takeTraining _ hi (Ctl.widthOf_lt hw) _ _ _ _
  have hmode' : n.inMode [.training] = false := (htook.only.inMode (by decide) _).trans hmode
  obtain ⟨ls, body, hsent, hothers, hbody, hlink⟩ := htook.firstBeacon hi
  have hx' : g s.arr s.ctl.fresh = { n.comeUp i false with links := ls } := by
    rw [hx, Ctl.linkTrain_pass_some (m := s.ctl.fresh) hw, ← hn, if_neg (by simp [hmode']), hsent]
  obtain ⟨t, ht, hpassed, rfl⟩ := PassedTraining.of_comeUp hc hx' hq hi htook
  exact ⟨t, body, ht, hpassed, hothers, hbody, hlink⟩

end

end Sys2Proof.Machine

namespace Sys2Proof.PeerLinkPhy

open Sys2Proof.Machine

/-- Settles O45, by the outcomes of a training; the first one and the retry come to the same `Ctl.linkTrain`. -/
theorem linkTraining : Obligations.LinkTraining := by
  unfold Obligations.LinkTraining
  intro s l r i x failed tried way shows ended hq hmay hcalm
  have hi := l.idx_lt
  have htrain : ∀ c g, exec c s = .next (run s g) → g s.arr s.ctl.fresh = s.ctl.fresh.linkTrain i r →
      ∃ t, exec c s = .next t ∧ ended t := by
    intro c g hc hx
    cases r with
    | noTone => exact exec_of_failed (v := s.ctl.free) hc hq hi (by decide) hx
    | roleClash => exact exec_of_roleClash hc hq hi hcalm hx
    | echo => exact exec_of_failed (v := s.ctl.free + 1) hc hq hi (by decide) hx
    | equalise => exact exec_of_failed (v := s.ctl.free + 1) hc hq hi (by decide) hx
    | verify lanes => exact exec_of_failed (v := s.ctl.free) hc hq hi (by decide) hx
    | width lanes delay => exact exec_of_failedWidth hc hq hi hx
    | pass lanes delay peak fir =>
      cases hw : s.ctl.widthOf i lanes.toNat with
      | none =>
        obtain ⟨t, ht, hcount, hends⟩ := exec_of_failedWidth hc hq hi (hx.trans (Ctl.linkTrain_pass_none (m := s.ctl.fresh) hw))
        refine ⟨t, ht, hcount, ?_⟩
        simp only [hw]
        exact hends
      | some w =>
        cases hmode : s.ctl.inMode [.training] with
        | true =>
          obtain ⟨t, ht, ⟨hcount, hframe, hresult, hwidth, hhalf, hdelay, hstate, -⟩, hothers, hlnk⟩ :=
            exec_of_passedWaiting hc hq hi hx hw hmode
          refine ⟨t, ht, hcount, ?_⟩
          simp only [hw]
          exact ⟨hframe, hothers, hresult, hwidth, hhalf, hdelay, fun _ => ⟨hstate, hlnk⟩,
            fun h => absurd (hmode.symm.trans h) (by decide)⟩
        | false =>
          obtain ⟨t, body, ht, ⟨hcount, hframe, hresult, hwidth, hhalf, hdelay, hstate, hawake⟩, hothers, ⟨hkind, hserial⟩, hlnk⟩ :=
            exec_of_passedUp hc hq hi hx hw hmode
          refine ⟨t, ht, hcount, ?_⟩
          simp only [hw]
          exact ⟨hframe, hothers, hresult, hwidth, hhalf, hdelay, fun h => absurd (hmode.symm.trans h) (by decide),
            fun _ => ⟨hstate, hawake rfl, body, hkind, hserial, hlnk⟩⟩
  refine ⟨htrain _ _ rfl (if_pos hmay), fun hcount => htrain _ _ rfl (if_pos ?_)⟩
  simpa using ⟨hmay, hcount⟩

end Sys2Proof.PeerLinkPhy
end

section
/-!
The statements of chapter 0 and 20 about every command. Two of them quantify over field tables that no register write leaves: the
counterexample holds a severity beyond its three bits, whose reactions lie where the pin does in the table.
-/

namespace Sys2Proof.Machine

/-! ## A severity beyond its three bits -/

/-- CRESCENT, with no saved table and a severity of its source 0x022 whose reactions read as the pin itself. No mode drives the pin in
CRESCENT (R390), so that it may show anything there. -/
def straySeverity : State :=
  { pending := [.wakeEvent .service ⟨[], []⟩ ⟨[], []⟩ []]
    ctl :=
      { power := .run
        flds := [(fkey F.GL_MODE_STATE 0, Mode.crescent.code), (fkey F.FLT_STATUS_FAULTN 0, 16),
          (fkey F.FLT_SEV 0x022, 2 * 1048576)] } }

/-- The model's own invariant does not exclude such a table. -/
theorem straySeverity_inv : Inv straySeverity where
  memory := rfl
  edits := rfl
  raised := rfl
  pin := by unfold FaultPin; decide +kernel

/-- The exit raises 0x022, is in READY, and drives the pin low for a reaction that driving the pin removes. -/
theorem straySeverity_wakeEvent : ∃ t, step straySeverity = .next t ∧ t.ctl.inMode [.training, .ready, .active, .drowse] = true ∧
    t.ctl.get F.FLT_STATUS_FAULTN = 0 ∧ t.ctl.faultPending = false :=
  ⟨_, rfl, by decide +kernel, by decide +kernel, by decide +kernel⟩

/-- So the exit leaves the pin against R468. -/
theorem straySeverity_not_faultPin : ∃ t, step straySeverity = .next t ∧ ¬ FaultPin t.ctl := by
  obtain ⟨t, ht, hmode, hpin, hpending⟩ := straySeverity_wakeEvent
  refine ⟨t, ht, fun h => ?_⟩
  have hdriven := h.1 hmode
  rw [hpin, hpending] at hdriven
  exact absurd hdriven (by decide)

end Sys2Proof.Machine

namespace Sys2Proof.StepsAndFaults

open Sys2Proof.Machine

/-- Refutes O2: `Inv` bounds no field, so that a severity of 2,097,152 may be listed, whose reactions are looked up at the key of the
pin. At `straySeverity`, in CRESCENT with the pin's field at 16, the exit drives the pin low because bit 4 of those reactions is 1;
that makes the bit 0, and R468 then asks for high. -/
theorem not_stepKeepsInv : ¬ Obligations.StepKeepsInv := by
  unfold Obligations.StepKeepsInv
  intro h
  obtain ⟨t, ht, hpin⟩ := straySeverity_not_faultPin
  exact hpin (h _ _ straySeverity_inv ht).pin

/-- Refutes O4: the clause on `FAULT_N` fails where driving the pin changes which faults are pending. At `straySeverity` the WAKE_EVENT
drives the pin low, and no source is then pending with FAULTN in force. -/
theorem not_execAnswers : ¬ Obligations.ExecAnswers := by
  unfold Obligations.ExecAnswers
  rintro ⟨-, hpin⟩
  obtain ⟨t, ht, hnot⟩ := straySeverity_not_faultPin
  exact hnot (hpin (.wakeEvent .service ⟨[], []⟩ ⟨[], []⟩ []) { straySeverity with pending := [] } t ht)

/-- Settles O3: no field is listed at reset, and no region of the array, so that each reads as its reset value. -/
theorem resetInv : Obligations.ResetInv := by
  unfold Obligations.ResetInv
  refine ⟨⟨rfl, rfl, rfl, ?_⟩, rfl, rfl, fun _ => rfl, fun _ _ => rfl, rfl, rfl, rfl⟩
  unfold FaultPin
  decide +kernel

end Sys2Proof.StepsAndFaults
end

section
/-!
The statement of chapter 12 on resync fails, as `ControlRegisters` and `PeerAnswers` do: its counterexample is an array change that is still
listed, which no command leaves (`run_edits`) and every command drops.
-/

namespace Sys2Proof.Machine

/-- The first byte of the last line of granule 0, as the array stores it. -/
def lastLine : Nat :=
  let p := place true (64 * 1023)
  slotAddr p.pc p.bank p.row p.word

/-- ACTIVE with peer link 0 UP and region 0 a RESYNCING PRIMARY, whose walk stands at the last line of granule 0. A change of that line
stands in `edits`. -/
def leftoverLine : State :=
  { ctl :=
      { power := .run
        flds :=
          [(fkey F.PL_PHY_STATUS_STATE 0, 2), (fkey F.MIR_CTRL_ROLE 0, 1), (fkey F.MIR_STATUS_STATE 0, 2),
            (fkey F.GL_MODE_STATE 0, Mode.active.code)]
        mirs := [(0, { walk := some (0, 1023) })]
        edits := [.bytes lastLine [1]] } }

theorem leftoverLine_quiet : leftoverLine.ctl.Quiet := by
  simp [leftoverLine, Ctl.Quiet, Ctl.Clean]

/-- A word of the line as an access sees it. -/
def leftoverGot (k : Nat) : Got :=
  let w := leftoverLine.ctl.wordAt (64 * 1023 + 32 * k)
  .ofRaw (leftoverLine.ctl.capture leftoverLine.arr w.1 w.2)

/-- Seen through that change, the line begins with 1. -/
theorem leftoverGot_clean : leftoverGot 0 = .clean 1 ∧ leftoverGot 1 = .clean 0 := by
  decide +kernel

/-- The data of every frame that waits on a link. -/
def LinkSt.payloads (x : LinkSt) : List (List Nat) :=
  x.tx.filterMap fun f => match f with
    | .data _ ws => some ws
    | _ => none

/-- The command sends the line as the array stores it. -/
theorem leftoverLine_resyncSend {t : State} (h : exec (.resyncSend 0) leftoverLine = .next t) : (t.ctl.lnk 0).payloads = [[0, 0]] := by
  injection h with h
  rw [← h]
  decide +kernel

end Sys2Proof.Machine

namespace Sys2Proof.MirrorRegions

open Sys2Proof.Machine

/-- Refutes O52: its clause on the last line of a granule takes the line's words as `s.ctl.edits` leaves them, and the command drops those
edits before it reads. At `leftoverLine` it claims a frame of 1 and 0, and the frame that is sent holds 0 and 0. -/
theorem not_mirrorResync : ¬ Obligations.MirrorResync := by
  unfold Obligations.MirrorResync
  intro h
  obtain ⟨-, -, -, hline⟩ := h leftoverLine 0 0 1 0 leftoverLine_quiet
  obtain ⟨hfirst, hsecond⟩ := leftoverGot_clean
  obtain ⟨t, ht, ⟨-, -, hlink⟩, -⟩ :=
    hline 0 (by decide +kernel) rfl (by decide +kernel) (by decide +kernel) (fun _ => ⟨rfl, rfl⟩) hfirst hsecond
  have hclaimed : (t.ctl.lnk 0).payloads = [[1, 0]] := congrArg LinkSt.payloads hlink
  rw [leftoverLine_resyncSend ht] at hclaimed
  exact absurd hclaimed (by decide)

end Sys2Proof.MirrorRegions
end

section
/-!
The statement on supplies and `RESET_N` fails: its clauses for a stack that stays in POWERED take any value of `CLK_STATUS.XTAL_GOOD` but 1
as a clock that is not yet good, and its counterexample is a field that holds 2.
-/

namespace Sys2Proof.Machine

/-- POWERED with nothing out of range and the one-bit `XTAL_GOOD` listed as 2, which no register write leaves (`Ctl.set`). -/
def wideXtalGood : State :=
  { ctl :=
      { power := .run
        flds := [(fkey F.CLK_STATUS_XTAL_GOOD 0, 2), (fkey F.GL_MODE_STATE 0, Mode.powered.code)] } }

theorem wideXtalGood_quiet : wideXtalGood.ctl.Quiet := by
  simp [wideXtalGood, Ctl.Quiet, Ctl.Clean]

/-- The command takes it as good, and the stack leaves POWERED. -/
theorem wideXtalGood_supplyRecovery {t : State} (h : exec .supplyRecovery wideXtalGood = .next t) :
    t.ctl.mode = Mode.fuseload.code := by
  injection h with h
  rw [← h]
  decide +kernel

end Sys2Proof.Machine

namespace Sys2Proof.SuppliesAndReset

open Sys2Proof.Machine

/-- Refutes O56: where `XTAL_GOOD` is not 1 it claims that SUPPLY_RECOVERY writes no register, while the model asks whether the field is
0. At `wideXtalGood` the field is 2, and the stack goes on to FUSELOAD. -/
theorem not_powerEvents : ¬ Obligations.PowerEvents := by
  unfold Obligations.PowerEvents
  intro h
  obtain ⟨-, -, -, -, -, -, -, -, hstays, -⟩ := h wideXtalGood 0 .vcore true wideXtalGood_quiet rfl
  obtain ⟨t, ht, -, -, hflds, -⟩ := hstays fun hleaves => absurd hleaves.2 (by decide +kernel)
  have hclaimed : t.ctl.mode = Mode.powered.code := hflds F.GL_MODE_STATE 0 (by decide)
  rw [wideXtalGood_supplyRecovery ht] at hclaimed
  exact absurd hclaimed (by decide)

end Sys2Proof.SuppliesAndReset
end

section
/-!
The statement on power-on BIST fails in its last unit, where the reactions that were held since before TRAINING are taken (R402). Its
counterexample is a completion whose session number lies beyond the 2^18 of R215.
-/

namespace Sys2Proof.Machine

/-- A session number at which a session's count of open requests has the key of the outcome of unit 6 (`strayOutst_key`). -/
def strayOutst : Nat := (F.BIST_UNIT_OUTCOME.id - F.SES_STAT_OUTST.id) * 1048576 + 6

theorem strayOutst_key : fkey F.SES_STAT_OUTST strayOutst = fkey F.BIST_UNIT_OUTCOME 6 := rfl

/-- A completion of that session which port A has not sent. -/
def strayCompletion : UpItem := .cpl 0 0 none false none strayOutst (.fresh true) 0

/-- SELFTEST before unit 6. A fault of port A is held, of severity 6, whose reactions at reset include BRESET (R463). -/
def strayUnit : State :=
  { ctl :=
      { power := .run
        flds := [(fkey F.GL_MODE_STATE 0, Mode.selftest.code)]
        bistNext := 6
        held := [({ source := 0x080, info := 0, sev := 6, orbit := 0, nvalid := false }, none)]
        pa := { grps := [(0, { up := [strayCompletion] })] } } }

/-- The model's own invariant does not exclude such a session. -/
theorem strayUnit_inv : Inv strayUnit where
  memory := rfl
  edits := rfl
  raised := rfl
  pin := by unfold FaultPin; decide +kernel

theorem strayUnit_quiet : strayUnit.ctl.Quiet := by
  simp [strayUnit, Ctl.Quiet, Ctl.Clean]

/-- The reset of port A takes the completion out of its session's count (R110), and so out of the outcome that was just written. -/
theorem strayUnit_powerOnBist {t : State} (h : exec (.powerOnBist 6 0 [] 0) strayUnit = .next t) :
    t.ctl.get F.BIST_UNIT_OUTCOME 6 = 0 := by
  injection h with h
  rw [← h]
  decide +kernel

end Sys2Proof.Machine

namespace Sys2Proof.SelfTestAndCalibration

open Sys2Proof.Machine

/-- Refutes O9: it claims that the outcome of a unit without a failure reads PASS, whatever is held for TRAINING. At `strayUnit` the
block reset of port A, held since before TRAINING, drops a completion, and the outcome of unit 6 reads 0. -/
theorem not_powerOnBist : ¬ Obligations.PowerOnBist := by
  unfold Obligations.PowerOnBist
  intro h
  obtain ⟨t, ht, -, houtcome, -⟩ :=
    h strayUnit 6 0 0 strayUnit_quiet (by decide +kernel) rfl (by decide +kernel) fun hunit => absurd hunit (by decide)
  have hclaimed : t.ctl.get F.BIST_UNIT_OUTCOME 6 = 1 := houtcome
  rw [strayUnit_powerOnBist ht] at hclaimed
  exact absurd hclaimed (by decide)

end Sys2Proof.SelfTestAndCalibration
end

section
/-!
Frames of commands that write registers, with or without a raise, and the domain crossings and clock gates (R366 to R370).
-/

namespace Sys2Proof.Machine

/-- A write of a register that has one copy, read at another field. -/
theorem Ctl.get_put_fld (m : Ctl) {f f' : Fld} (v : Nat) (hid : f'.id ≠ f.id) {i : Nat} (hi : i < 1048576 := by decide) :
    (m.put f v).get f' i = m.get f' i :=
  m.get_set_fld v hid (by decide) hi

theorem Ctl.get_put_same (m : Ctl) (f : Fld) (v : Nat) : (m.put f v).get f = v % 2 ^ f.width := m.get_set_same f 0 v

section
variable {s : State} {c : Instr} {g : Arr → Ctl → Ctl} {x : Ctl} {l : List (Fld × Nat)}

/-- The next state of a command that writes registers only. -/
theorem exec_of_writes (hc : exec c s = .next (run s g)) (hx : g s.arr s.ctl.fresh = x) (h : s.ctl.fresh.OnlyFlds x l)
    (hq : s.ctl.Quiet) : ∃ t, exec c s = .next t ∧ Ends s t l s.ctl ∧
      ∀ f i, f.id ≠ F.FLT_STATUS_FAULTN.id → i < 1048576 → t.ctl.get f i = x.get f i :=
  exec_of_onlyFlds hc hx h hq.fresh rfl rfl rfl rfl

/-- The same of a command that also changes something else, and raises a fault which takes no reaction. -/
theorem exec_of_raise {n m : Ctl} {src info : Nat} (hc : exec c s = .next (run s g)) (hx : g s.arr s.ctl.fresh = x.raise src info)
    (h : n.OnlyFlds x l) (hq : n.Quiet) (hflds : n.flds = s.ctl.flds) (hr : n.raised = []) (he : n.edits = []) (hm : n.rest = m.rest)
    (hcalm : s.ctl.Calm src) (hsrc : src < 512) (hl : ∀ e ∈ l, e.1.id ∉ [413, 426, 427, 417, 416, 425] ∧ e.2 < 1048576) :
    ∃ t, exec c s = .next t ∧ EndsRaised s t src l m ∧
      ∀ f i, f.id ∉ [415, 427, 417, 416, 425] → i < 1048576 → t.ctl.get f i = x.get f i := by
  obtain ⟨hends, hget⟩ := EndsRaised.of_calm s g src info false l m x hcalm hsrc hx (h.quiet hq) (h.raised.trans hr)
    (h.edits.trans he) (fun f i hf => (h.flds f i hf).trans (Ctl.get_congr hflds f i)) hl (h.rest.trans hm)
  exact ⟨_, hc, hends, hget⟩

end

/-! ## Domain crossings -/

section
variable {s : State} {dom : Fin 102}

/-- An event lost at its destination domain. -/
def Ctl.overrun (m : Ctl) (d : Nat) : Ctl :=
  (m.set F.CLK_OVR_OVR (d / 32) (m.get F.CLK_OVR_OVR (d / 32) ||| 2 ^ (d % 32))).bump F.CLK_XING_OVERRUNS

theorem Ctl.OnlyFlds.overrun (m : Ctl) (d : Nat) : m.OnlyFlds (m.overrun d) [(F.CLK_OVR_OVR, d / 32), (F.CLK_XING_OVERRUNS, 0)] :=
  (OnlyFlds.set m _ _ _).trans (.set _ _ _ _)

/-- The marks of the domains of a word after one of them is marked. -/
theorem Ctl.bit_overrun (m : Ctl) {d b : Nat} (hd : d < 102) (hb : b < 32) :
    bit ((m.overrun d).get F.CLK_OVR_OVR (d / 32)) b = (decide (b = d % 32) || bit (m.get F.CLK_OVR_OVR (d / 32)) b) := by
  have hget : (m.overrun d).get F.CLK_OVR_OVR (d / 32) = (m.get F.CLK_OVR_OVR (d / 32) ||| 2 ^ (d % 32)) % 2 ^ 32 :=
    (Ctl.get_set_fld _ _ (by decide) (by decide) (by omega)).trans (Ctl.get_set_same _ _ _ _)
  rw [hget, bit, bit, Nat.testBit_mod_two_pow, Nat.testBit_or, Nat.testBit_two_pow]
  simp [hb, Bool.or_comm, eq_comm]

theorem exec_crossingOverrun (hq : s.ctl.Quiet) (hrun : s.ctl.power = .run) (hcalm : s.ctl.Calm 0x011) :
    ∃ t, exec (.crossingOverrun dom) s = .next t ∧
      EndsRaised s t 0x011 [(F.CLK_OVR_OVR, dom.val / 32), (F.CLK_XING_OVERRUNS, 0)] s.ctl ∧
      (∀ b < 32, bit (t.ctl.get F.CLK_OVR_OVR (dom.val / 32)) b =
        (decide (b = dom.val % 32) || bit (s.ctl.get F.CLK_OVR_OVR (dom.val / 32)) b)) ∧
      t.ctl.get F.CLK_XING_OVERRUNS = min (s.ctl.get F.CLK_XING_OVERRUNS + 1) (2 ^ F.CLK_XING_OVERRUNS.width - 1) := by
  have hdom := dom.isLt
  obtain ⟨t, ht, hends, hget⟩ := exec_of_raise (m := s.ctl) (c := .crossingOverrun dom) (x := s.ctl.fresh.overrun dom.val) rfl
    (if_pos (by simpa [Ctl.alive] using hrun)) (.overrun s.ctl.fresh dom.val) hq.fresh rfl rfl rfl rfl hcalm (by decide)
    (by
      simp only [List.forall_mem_cons, List.not_mem_nil, false_imp_iff, implies_true, and_true]
      exact ⟨⟨by decide, by omega⟩, by decide, by decide⟩)
  refine ⟨t, ht, hends, fun b hb => ?_, ?_⟩
  · rw [hget _ _ (by decide) (by omega), Ctl.bit_overrun _ hdom hb, Ctl.get_fresh]
  · rw [hget _ _ (by decide) (by decide), Ctl.overrun, Ctl.get_bump_same, Ctl.get_set_fld _ _ (by decide) (by omega) (by decide),
      Ctl.get_fresh]

theorem exec_crossingTimeout (hq : s.ctl.Quiet) (hrun : s.ctl.power = .run) (hcalm : s.ctl.Calm 0x012) :
    ∃ t, exec (.crossingTimeout dom) s = .next t ∧ EndsRaised s t 0x012 [(F.CLK_XING_TIMEOUTS, 0)] s.ctl ∧
      t.ctl.get F.CLK_XING_TIMEOUTS = min (s.ctl.get F.CLK_XING_TIMEOUTS + 1) (2 ^ F.CLK_XING_TIMEOUTS.width - 1) := by
  obtain ⟨t, ht, hends, hget⟩ := exec_of_raise (m := s.ctl) (c := .crossingTimeout dom) rfl
    (if_pos (by simpa [Ctl.alive] using hrun)) (Ctl.OnlyFlds.set s.ctl.fresh F.CLK_XING_TIMEOUTS 0 _) hq.fresh rfl rfl rfl rfl hcalm
    (by decide) (by simp [F.CLK_XING_TIMEOUTS])
  exact ⟨t, ht, hends, (hget _ _ (by decide) (by decide)).trans (Ctl.get_bump_same _ _ _)⟩

/-! ## Clock gates -/

/-- A domain of R368 may be gated. -/
theorem neverGated_eq_false {d : Nat} (h : d ∉ [95, 96, 99, 100]) : neverGated d = false := by
  simpa [neverGated, and_assoc] using h

/-- A command that changes the gates alone. -/
theorem exec_of_clk {c : Instr} {g : Arr → Ctl → Ctl} {k : Clk} (hc : exec c s = .next (run s g))
    (hx : g s.arr s.ctl.fresh = { s.ctl.fresh with clk := k }) (hq : s.ctl.Quiet) :
    ∃ t, exec c s = .next t ∧ Ends s t [] { s.ctl with clk := k } :=
  exec_of_change hc hx hq rfl rfl rfl rfl

end

end Sys2Proof.Machine

namespace Sys2Proof.ClocksAndCrossings

open Sys2Proof.Machine

/-- Settles O7, by the commands: a crossing is one raise beside its counter, and a gate's command changes the lists of the domains
asked and gated where its condition holds. -/
theorem crossingsAndGates : Obligations.CrossingsAndGates := by
  unfold Obligations.CrossingsAndGates
  refine ⟨fun s dom hq hrun => ⟨fun hcalm => ?_, fun hcalm => exec_crossingTimeout hq hrun hcalm⟩, fun s dom hq => ?_⟩
  · obtain ⟨t, ht, hends, hbits, hcount⟩ := exec_crossingOverrun (dom := dom) hq hrun hcalm
    refine ⟨t, ht, hends, ?_, fun b hb hne => ?_, hcount⟩
    · simp [hbits _ (Nat.mod_lt dom.val (by decide))]
    · simp [hbits b hb, hne]
  · refine ⟨fun hrun hen hmay hopen hnew => ?_, fun hasked => ?_, fun hasked => ?_, exec_of_clk rfl rfl hq⟩
    · refine exec_of_clk rfl (if_pos ?_) hq
      simp [Ctl.alive, Ctl.is, Ctl.fresh, hrun, neverGated_eq_false hmay, hopen, hnew]
      exact fun h0 => absurd (hen.symm.trans h0) (by decide)
    · exact exec_of_clk rfl (if_pos (by simpa [Ctl.fresh] using hasked)) hq
    · obtain ⟨t, ht, hends, hget⟩ := exec_of_onlyFlds (c := .gateRefuse dom)
        (n := { s.ctl.fresh with clk := { s.ctl.clk with asked := s.ctl.clk.asked.filter fun d => d != dom.val } })
        (m := { s.ctl with clk := { s.ctl.clk with asked := s.ctl.clk.asked.filter fun d => d != dom.val } }) rfl
        (if_pos (by simpa [Ctl.fresh] using hasked)) (.set _ F.CLK_GATE_REFUSE_COUNT 0 _) hq rfl rfl rfl rfl
      exact ⟨t, ht, hends, (hget _ _ (by decide) (by decide)).trans (Ctl.get_bump_same _ _ _)⟩

end Sys2Proof.ClocksAndCrossings
end

section
/-!
The windows of the XTAL start (R353, R355, R356).
-/

namespace Sys2Proof.Machine

/-- The fields that a window writes while XTAL is not good, with those of the stack as it leaves POWERED. -/
def xtalFlds : List (Fld × Nat) :=
  [(F.CLK_MON_LAST, 0), (F.CLK_STATUS_MON_RANGE, 0), (F.CLK_STATUS_RS_SRC, 0), (F.CLK_STATUS_XTAL_GOOD, 0),
    (F.CLK_STATUS_ATTEMPTS, 0), (F.CLK_MON_BAD_WINDOWS, 0), (F.GL_MODE_STATE, 0), (F.GL_MODE_PREV, 0), (F.ORB_HOTMAP_HOT, 0),
    (F.CFG_STATUS_DIGEST_BUSY, 0)]

/-- Only the clocks, the orbit logic, the digest under way and those fields differ. -/
structure Ctl.ClocksOnly (m n : Ctl) : Prop where
  same : n = { m with clk := n.clk, orb := n.orb, orbitAt := n.orbitAt, digestNew := n.digestNew, flds := n.flds }
  flds : m.SameFlds n xtalFlds

section
variable {m n k : Ctl}

theorem Ctl.ClocksOnly.refl (m : Ctl) : m.ClocksOnly m := ⟨rfl, .refl _ _⟩

theorem Ctl.ClocksOnly.trans (h : m.ClocksOnly n) (h' : n.ClocksOnly k) : m.ClocksOnly k :=
  ⟨by rw [h'.same, h.same], (h.flds.trans h'.flds).mono (by simp)⟩

theorem Ctl.ClocksOnly.put (h : m.ClocksOnly n) {f : Fld} (v : Nat) (hf : (f, 0) ∈ xtalFlds) : m.ClocksOnly (n.put f v) :=
  h.trans ⟨rfl, (Ctl.SameFlds.put n f v).mono (by simpa using hf)⟩

theorem Ctl.ClocksOnly.clk (h : m.ClocksOnly n) (c : Clk) : m.ClocksOnly { n with clk := c } := h.trans ⟨rfl, .of_flds rfl _⟩

/-! ## Leaving POWERED -/

/-- The registers as the stack leaves POWERED. -/
def Ctl.released (m : Ctl) : Ctl :=
  ((m.setMode .fuseload).put F.ORB_HOTMAP_HOT (m.get F.THM_HOT_HOT)).put F.CFG_STATUS_DIGEST_BUSY 1

/-- A digest starts, of which the statements leave the value open. -/
theorem Ctl.digestStart_eq (m : Ctl) : ∃ d, m.digestStart = { m.put F.CFG_STATUS_DIGEST_BUSY 1 with digestNew := d } := by
  unfold Ctl.digestStart
  generalize crc64 _ = d
  exact ⟨d, rfl⟩

theorem Ctl.leavePowered_cases (m : Ctl) : m.leavePowered = m ∨
    ∃ d, m.leavePowered = { m.released with digestNew := d, orbitAt := m.now, orb := { run := true } } := by
  unfold Ctl.leavePowered
  split
  · obtain ⟨d, hd⟩ := ((m.setMode .fuseload).put F.ORB_HOTMAP_HOT (m.get F.THM_HOT_HOT)).digestStart_eq
    rw [hd]
    exact .inr ⟨d, rfl⟩
  · exact .inl rfl

theorem Ctl.Shows.released (m : Ctl) :
    m.Shows m.released [F.GL_MODE_PREV, F.GL_MODE_STATE, F.ORB_HOTMAP_HOT, F.CFG_STATUS_DIGEST_BUSY] :=
  (((Shows.put m _ _).trans (.put _ _ _)).trans (.put _ _ _)).trans (.put _ _ _)

theorem Ctl.ClocksOnly.released (m : Ctl) : m.ClocksOnly m.released :=
  ((((ClocksOnly.refl m).put _ (by simp [xtalFlds])).put _ (by simp [xtalFlds])).put _ (by simp [xtalFlds])).put _ (by simp [xtalFlds])

/-- The clocks go on as the stack leaves POWERED. -/
theorem Ctl.ClocksOnly.leavePowered (m : Ctl) : m.ClocksOnly m.leavePowered ∧ m.leavePowered.clk = m.clk ∧
    ∀ f i, f.id ∉ [F.GL_MODE_PREV, F.GL_MODE_STATE, F.ORB_HOTMAP_HOT, F.CFG_STATUS_DIGEST_BUSY].map Fld.id → i < 1048576 →
      m.leavePowered.get f i = m.get f i := by
  rcases m.leavePowered_cases with h | ⟨d, h⟩
  · rw [h]
    exact ⟨.refl m, rfl, fun _ _ _ _ => rfl⟩
  · have hshows := Shows.released m
    have hclocks := ClocksOnly.released m
    rw [h]
    generalize m.released = n at hshows hclocks ⊢
    exact ⟨hclocks.trans ⟨rfl, .of_flds rfl _⟩, (congrArg Ctl.clk hshows.same :), fun f i hf hi => hshows.keeps f i hi hf⟩

/-! ## One window -/

/-- The clocks after a clean window. -/
def Clk.counted (c : Clk) (count : Nat) : Clk :=
  { c with trip := false, seen := 0, total := c.total + count, bads := 0, cleans := min 256 (c.cleans + 1) }

theorem Ctl.cleanWindow_start (h : m.is F.CLK_STATUS_XTAL_GOOD = false) (count : Nat) : m.cleanWindow count =
    if 65536 ≤ m.clk.total + count then Ctl.xtalStable { m with clk := m.clk.counted count }
    else { m with clk := m.clk.counted count } := by
  obtain ⟨k, hk⟩ : ∃ k : Ctl, k = { m with clk := m.clk.counted count } := ⟨_, rfl⟩
  have hgood : k.is F.CLK_STATUS_XTAL_GOOD = false := hk ▸ h
  have hback : k.retentionBack = k := by simp [Ctl.retentionBack, hgood]
  have hdef : m.cleanWindow count =
      if !k.retentionBack.is F.CLK_STATUS_XTAL_GOOD && decide (65536 ≤ m.clk.total + count) then k.retentionBack.xtalStable
      else k.retentionBack := by
    simp only [Ctl.cleanWindow, h, hk]
    rfl
  rw [hdef, hback, hgood, ← hk]
  simp

/-- The clocks after a bad one. -/
def Clk.missed (c : Clk) : Clk := { c with total := 0, bads := c.bads + 1, cleans := 0, seen := c.seen + 1 }

/-- The state after a bad window, as long as the attempt goes on. -/
def Ctl.missedWindow (m : Ctl) : Ctl :=
  { (m.bump F.CLK_MON_BAD_WINDOWS).put F.CLK_STATUS_RS_SRC 1 with clk := m.clk.missed }

theorem Ctl.get_missedWindow (m : Ctl) {f : Fld} {i : Nat} (hf : f.id ∉ [F.CLK_MON_BAD_WINDOWS, F.CLK_STATUS_RS_SRC].map Fld.id)
    (hi : i < 1048576) : m.missedWindow.get f i = m.get f i :=
  ((Shows.set m F.CLK_MON_BAD_WINDOWS _ (by decide)).trans (.put _ F.CLK_STATUS_RS_SRC 1)).keeps f i hi hf

theorem Ctl.badWindow_start (h : m.is F.CLK_STATUS_XTAL_GOOD = false) (a : Arr) :
    m.badWindow a = if m.clk.bads + 1 < 4 then m.missedWindow else m.missedWindow.attemptFails := by
  have hgood : m.missedWindow.is F.CLK_STATUS_XTAL_GOOD = false := by
    rw [Ctl.is, Ctl.get_missedWindow m (by decide) (by decide)]
    exact h
  have hdef : m.badWindow a = if m.clk.bads + 1 < 4 then m.missedWindow
      else if m.missedWindow.is F.CLK_STATUS_XTAL_GOOD then
        (((m.missedWindow.raise 0x010).bump F.CLK_XTAL_FAILS_COUNT).put F.CLK_STATUS_XTAL_GOOD 0).chipReset a 2
      else m.missedWindow.attemptFails := rfl
  rw [hdef, hgood]
  simp

/-! ## What a window leaves -/

/-- XTAL is judged stable, and its run and its count of bad windows stand. -/
theorem Ctl.xtalStable_effect (m : Ctl) : m.ClocksOnly m.xtalStable ∧ m.xtalStable.clk = { m.clk with cleans := 256 } ∧
    m.xtalStable.get F.CLK_STATUS_XTAL_GOOD = 1 ∧ m.xtalStable.get F.CLK_MON_LAST = m.get F.CLK_MON_LAST := by
  obtain ⟨k, hk⟩ : ∃ k, k = ((m.put F.CLK_STATUS_XTAL_GOOD 1).put F.CLK_STATUS_ATTEMPTS (min 15 m.clk.attempt)).put F.CLK_STATUS_RS_SRC 0 :=
    ⟨_, rfl⟩
  have honly : m.ClocksOnly k := hk ▸ (((ClocksOnly.refl m).put _ (by simp [xtalFlds])).put _ (by simp [xtalFlds])).put _
    (by simp [xtalFlds])
  have hclk : k.clk = m.clk := by rw [hk]; rfl
  have hgood : k.get F.CLK_STATUS_XTAL_GOOD = 1 := by
    rw [hk, Ctl.get_put_fld _ _ (by decide), Ctl.get_put_fld _ _ (by decide), Ctl.get_put_same]
    rfl
  have hlast : k.get F.CLK_MON_LAST = m.get F.CLK_MON_LAST := by
    rw [hk]
    exact (((Shows.put m F.CLK_STATUS_XTAL_GOOD 1).trans (.put _ F.CLK_STATUS_ATTEMPTS (min 15 m.clk.attempt))).trans
      (.put _ F.CLK_STATUS_RS_SRC 0)).keeps _ _ (by decide) (by decide)
  have hdef : m.xtalStable = ({ k with clk := { m.clk with cleans := 256 } } : Ctl).leavePowered := by
    rw [← hclk, hk]
    rfl
  obtain ⟨hleave, hleft, hget⟩ := ClocksOnly.leavePowered { k with clk := { m.clk with cleans := 256 } }
  rw [hdef]
  exact ⟨(honly.clk _).trans hleave, hleft, (hget _ _ (by decide) (by decide)).trans hgood,
    (hget _ _ (by decide) (by decide)).trans hlast⟩

/-- A bad window that the attempt outlives. -/
theorem Ctl.ClocksOnly.missedWindow (m : Ctl) : m.ClocksOnly m.missedWindow :=
  ⟨rfl, ((Ctl.SameFlds.bump m F.CLK_MON_BAD_WINDOWS 0 1).trans (.put _ F.CLK_STATUS_RS_SRC 1)).mono (by simp [xtalFlds])⟩

/-- A failed attempt shows its number. -/
theorem Ctl.attemptFails_effect (m : Ctl) : m.ClocksOnly m.attemptFails ∧
    ∀ f i, f.id ≠ F.CLK_STATUS_ATTEMPTS.id → i < 1048576 → m.attemptFails.get f i = m.get f i :=
  ⟨⟨rfl, (Ctl.SameFlds.put m F.CLK_STATUS_ATTEMPTS (min 15 m.clk.attempt)).mono (by simp [xtalFlds])⟩,
    fun _ _ hf hi => Ctl.get_set_fld m (min 15 m.clk.attempt) hf (by decide) hi⟩

/-- A clean window lengthens the run, which is judged stable at 65,536. -/
theorem Ctl.cleanWindow_effect (h : m.get F.CLK_STATUS_XTAL_GOOD = 0) (count : Nat) : m.ClocksOnly (m.cleanWindow count) ∧
    (m.cleanWindow count).get F.CLK_MON_LAST = m.get F.CLK_MON_LAST ∧
    (m.cleanWindow count).clk.total = m.clk.total + count ∧ (m.cleanWindow count).clk.bads = 0 ∧
    (m.cleanWindow count).get F.CLK_STATUS_XTAL_GOOD = if 65536 ≤ m.clk.total + count then 1 else 0 := by
  have hcounted := (ClocksOnly.refl m).clk (m.clk.counted count)
  rw [Ctl.cleanWindow_start (by simp [Ctl.is, h])]
  split
  · obtain ⟨honly, hclk, hgood, hlast⟩ := Ctl.xtalStable_effect { m with clk := m.clk.counted count }
    rw [hclk]
    exact ⟨hcounted.trans honly, hlast, rfl, rfl, hgood⟩
  · exact ⟨hcounted, rfl, rfl, rfl, h⟩

/-- A bad one ends it; the fourth in a row ends the attempt. -/
theorem Ctl.badWindow_effect (h : m.get F.CLK_STATUS_XTAL_GOOD = 0) (a : Arr) : m.ClocksOnly (m.badWindow a) ∧
    (m.badWindow a).get F.CLK_MON_LAST = m.get F.CLK_MON_LAST ∧ (m.badWindow a).clk.total = 0 ∧
    (m.badWindow a).get F.CLK_STATUS_XTAL_GOOD = 0 ∧
    (if m.clk.bads + 1 < 4 then (m.badWindow a).clk.bads = m.clk.bads + 1 ∧ (m.badWindow a).clk.ampOff = m.clk.ampOff
      else (m.badWindow a).clk.attempt = m.clk.attempt + 1 ∧ (m.badWindow a).clk.ampOff = true) := by
  have hlast := m.get_missedWindow (f := F.CLK_MON_LAST) (i := 0) (by decide) (by decide)
  have hgood := (m.get_missedWindow (f := F.CLK_STATUS_XTAL_GOOD) (i := 0) (by decide) (by decide)).trans h
  rw [Ctl.badWindow_start (by simp [Ctl.is, h])]
  by_cases hmore : m.clk.bads + 1 < 4
  · simp only [hmore, if_true]
    exact ⟨.missedWindow m, hlast, rfl, hgood, rfl, rfl⟩
  · obtain ⟨honly, hget⟩ := m.missedWindow.attemptFails_effect
    simp only [hmore, if_false]
    exact ⟨(ClocksOnly.missedWindow m).trans honly, (hget _ _ (by decide) (by decide)).trans hlast, rfl,
      (hget _ _ (by decide) (by decide)).trans hgood, rfl, rfl⟩

/-- The next state of a command with such an effect. -/
theorem exec_of_clocks {s : State} {c : Instr} {g : Arr → Ctl → Ctl} {x : Ctl} (hc : exec c s = .next (run s g))
    (hx : g s.arr s.ctl.fresh = x) (h : s.ctl.fresh.ClocksOnly x) (hq : s.ctl.Quiet) : ∃ t, exec c s = .next t ∧
      Ends s t xtalFlds { s.ctl with clk := t.ctl.clk, orb := t.ctl.orb, orbitAt := t.ctl.orbitAt, digestNew := t.ctl.digestNew } ∧
      t.ctl.clk = x.clk ∧ ∀ f i, f.id ≠ F.FLT_STATUS_FAULTN.id → i < 1048576 → t.ctl.get f i = x.get f i := by
  have hquiet : x.Quiet := by rw [h.same]; exact hq
  obtain ⟨t, ht, hends, hget⟩ := exec_of_effect hc hx hquiet (by rw [h.same]; rfl) (by rw [h.same]; rfl) h.flds
  have hparts : (t.ctl.clk, t.ctl.orb, t.ctl.orbitAt, t.ctl.digestNew) = (x.clk, x.orb, x.orbitAt, x.digestNew) :=
    hends.part (fun n => (n.clk, n.orb, n.orbitAt, n.digestNew)) fun _ => rfl
  simp only [Prod.mk.injEq] at hparts
  obtain ⟨hclk, horb, hat, hdigest⟩ := hparts
  refine ⟨t, ht, hends.of_rest ?_, hclk, fun f i hf hi => hget f i (fkey_ne hf hi (by decide))⟩
  rw [hclk, horb, hat, hdigest]
  exact (congrArg Ctl.rest h.same).trans rfl

/-- The window's count is shown, and the range of its successor where the trim is applied. -/
def Ctl.windowShown (m : Ctl) (count : Nat) : Ctl :=
  let m := m.put F.CLK_MON_LAST (min count 511)
  if m.clk.trimmed && !m.clk.coarse then m.put F.CLK_STATUS_MON_RANGE 1 else m

theorem Ctl.windowShown_effect (m : Ctl) (count : Nat) : m.ClocksOnly (m.windowShown count) ∧ (m.windowShown count).clk = m.clk ∧
    (m.windowShown count).get F.CLK_MON_LAST = min count 511 ∧
    (m.windowShown count).get F.CLK_STATUS_XTAL_GOOD = m.get F.CLK_STATUS_XTAL_GOOD := by
  have hput := (ClocksOnly.refl m).put (f := F.CLK_MON_LAST) (min count 511) (by simp [xtalFlds])
  have hlast : (m.put F.CLK_MON_LAST (min count 511)).get F.CLK_MON_LAST = min count 511 := by
    rw [Ctl.get_put_same]
    exact Nat.mod_eq_of_lt (by show min count 511 < 512; omega)
  have hgood := (Shows.put m F.CLK_MON_LAST (min count 511)).keeps F.CLK_STATUS_XTAL_GOOD 0 (by decide) (by decide)
  unfold Ctl.windowShown
  dsimp only
  split
  · refine ⟨hput.put _ (by simp [xtalFlds]), rfl, ?_, ?_⟩
    · rw [Ctl.get_put_fld _ _ (by decide), hlast]
    · rw [Ctl.get_put_fld _ _ (by decide), hgood]
  · exact ⟨hput, rfl, hlast, hgood⟩

end

section
variable {s : State} {count : Nat} {amp : Bool}

/-- A window of the count's range without a failure of the amplitude (R353). -/
def Ctl.CleanWindow (m : Ctl) (count : Nat) (amp : Bool) : Prop :=
  amp = false ∧ if m.get F.CLK_STATUS_MON_RANGE = 0 then 192 ≤ count ∧ count ≤ 344 else 240 ≤ count ∧ count ≤ 272

theorem Ctl.countOk_iff (m : Ctl) : (m.countOk count && !amp) = true ↔ m.CleanWindow count amp := by
  unfold Ctl.countOk Ctl.CleanWindow
  split <;> simp [and_comm]

/-- What XTAL_WINDOW does to the amplifier's start. -/
theorem exec_xtalWindow (hrun : s.ctl.power = .run) (hamp : s.ctl.clk.ampOff = false) :
    exec (.xtalWindow count amp) s = .next (run s fun a m =>
      if m.countOk count && !amp then (m.windowShown count).cleanWindow count else (m.windowShown count).badWindow a) := by
  refine congrArg Host.Outcome.next (run_congr ?_)
  have hrun' : s.ctl.fresh.power = .run := hrun
  have hamp' : s.ctl.fresh.clk.ampOff = false := hamp
  simp only [hrun', hamp']
  rfl

end

end Sys2Proof.Machine

namespace Sys2Proof.ClocksAndCrossings

open Sys2Proof.Machine

/-- Settles O6, by whether the window is clean, and whether it ends the run of its kind. -/
theorem xtalStart : Obligations.XtalStart := by
  unfold Obligations.XtalStart
  intro s count amp hq hrun
  refine ⟨fun hon hgood => ?_, fun hoff hleft => exec_of_clk rfl (if_pos (by simp [Ctl.alive, Ctl.fresh, hrun, hoff, hleft])) hq⟩
  obtain ⟨hshown, hclk, hlast, hgood'⟩ := s.ctl.fresh.windowShown_effect count
  have hstart := hgood'.trans ((Ctl.get_fresh _ _ _).trans hgood)
  have hexec := exec_xtalWindow (count := count) (amp := amp) hrun hon
  by_cases hclean : s.ctl.CleanWindow count amp
  · obtain ⟨honly, hkept, htotal, hbads, hjudged⟩ := Ctl.cleanWindow_effect hstart count
    obtain ⟨t, ht, hends, hclk', hget⟩ := exec_of_clocks hexec (if_pos ((Ctl.countOk_iff s.ctl.fresh).mpr hclean))
      (hshown.trans honly) hq
    rw [hclk] at htotal hjudged
    refine ⟨t, ht, hends, ((hget _ _ (by decide) (by decide)).trans hkept).trans hlast, fun _ => ⟨?_, ?_, ?_⟩,
      fun hbad => absurd hclean hbad⟩
    · exact (congrArg Clk.total hclk').trans htotal
    · exact (congrArg Clk.bads hclk').trans hbads
    · exact (hget _ _ (by decide) (by decide)).trans hjudged
  · obtain ⟨honly, hkept, htotal, hnot, hrow⟩ := Ctl.badWindow_effect hstart s.arr
    obtain ⟨t, ht, hends, hclk', hget⟩ := exec_of_clocks hexec (if_neg ((Ctl.countOk_iff s.ctl.fresh).not.mpr hclean))
      (hshown.trans honly) hq
    rw [hclk] at hrow
    refine ⟨t, ht, hends, ((hget _ _ (by decide) (by decide)).trans hkept).trans hlast, fun hyes => absurd hyes hclean,
      fun _ => ⟨?_, ?_, ?_⟩⟩
    · exact (congrArg Clk.total hclk').trans htotal
    · exact (hget _ _ (by decide) (by decide)).trans hnot
    · rw [hclk']
      have hoff : s.ctl.fresh.clk.ampOff = false := hon
      rwa [hoff] at hrow

end Sys2Proof.ClocksAndCrossings
end

section
/-!
The entry handshake and DROWSE (R378 to R383, R389).
-/

namespace Sys2Proof.Machine

section
variable {s : State} {e : EntryReq} {b : EntryBlock} {src : WakeSource} {c : Instr} {g : Arr → Ctl → Ctl}

/-- The fields that show a refused entry. -/
def refusalFlds : List (Fld × Nat) :=
  [(F.PWR_REFUSE_BLOCK, 0), (F.PWR_REFUSE_REASON, 0), (F.PWR_REFUSE_TARGET, 0), (F.PWR_REFUSE_COUNT, 0)]

/-- A handshake that no SLEEP asked for has ended without an entry (R381). -/
structure Refused (s t : State) (e : EntryReq) (block reason : Nat) : Prop where
  ends : Ends s t refusalFlds { s.ctl with entry := none, idle := 0 }
  block : t.ctl.get F.PWR_REFUSE_BLOCK = block
  reason : t.ctl.get F.PWR_REFUSE_REASON = reason
  target : t.ctl.get F.PWR_REFUSE_TARGET = e.target % 2 ^ F.PWR_REFUSE_TARGET.width
  count : t.ctl.get F.PWR_REFUSE_COUNT = min (s.ctl.get F.PWR_REFUSE_COUNT + 1) (2 ^ F.PWR_REFUSE_COUNT.width - 1)

/-- What a refusal shows. -/
def Ctl.refusalShown (m : Ctl) (block reason target : Nat) : Ctl :=
  (((m.put F.PWR_REFUSE_BLOCK block).put F.PWR_REFUSE_REASON reason).put F.PWR_REFUSE_TARGET target).bump F.PWR_REFUSE_COUNT

theorem Ctl.entryRefused_eq {m : Ctl} (hentry : m.entry = some e) (hdesc : e.desc = none) (block reason : Nat) :
    m.entryRefused block reason = ({ m with entry := none, idle := 0 } : Ctl).refusalShown block reason e.target := by
  simp only [Ctl.entryRefused, hentry, hdesc]
  rfl

theorem Ctl.OnlyFlds.refusalShown (m : Ctl) (block reason target : Nat) :
    m.OnlyFlds (m.refusalShown block reason target) refusalFlds :=
  ((OnlyFlds.set m F.PWR_REFUSE_BLOCK 0 block).trans (.set _ F.PWR_REFUSE_REASON 0 reason)).trans
    ((OnlyFlds.set _ F.PWR_REFUSE_TARGET 0 target).trans (.set _ F.PWR_REFUSE_COUNT 0 _))

theorem Ctl.get_refusalShown (m : Ctl) (block reason target : Nat) :
    (m.refusalShown block reason target).get F.PWR_REFUSE_BLOCK = block % 2 ^ F.PWR_REFUSE_BLOCK.width ∧
      (m.refusalShown block reason target).get F.PWR_REFUSE_REASON = reason % 2 ^ F.PWR_REFUSE_REASON.width ∧
      (m.refusalShown block reason target).get F.PWR_REFUSE_TARGET = target % 2 ^ F.PWR_REFUSE_TARGET.width ∧
      (m.refusalShown block reason target).get F.PWR_REFUSE_COUNT =
        min (m.get F.PWR_REFUSE_COUNT + 1) (2 ^ F.PWR_REFUSE_COUNT.width - 1) := by
  obtain ⟨k, hk⟩ : ∃ k, k = ((m.put F.PWR_REFUSE_BLOCK block).put F.PWR_REFUSE_REASON reason).put F.PWR_REFUSE_TARGET target := ⟨_, rfl⟩
  have hlast : ∀ f : Fld, f.id ≠ F.PWR_REFUSE_COUNT.id → (k.bump F.PWR_REFUSE_COUNT).get f = k.get f := fun f hf =>
    Ctl.get_set_fld _ _ hf (by decide) (by decide)
  unfold Ctl.refusalShown
  rw [← hk]
  refine ⟨?_, ?_, ?_, ?_⟩
  · rw [hlast _ (by decide), hk, Ctl.get_put_fld _ _ (by decide), Ctl.get_put_fld _ _ (by decide), Ctl.get_put_same]
  · rw [hlast _ (by decide), hk, Ctl.get_put_fld _ _ (by decide), Ctl.get_put_same]
  · rw [hlast _ (by decide), hk, Ctl.get_put_same]
  · have hkept : k.get F.PWR_REFUSE_COUNT = m.get F.PWR_REFUSE_COUNT := by
      rw [hk]
      exact (((Shows.put m F.PWR_REFUSE_BLOCK block).trans (.put _ F.PWR_REFUSE_REASON reason)).trans
        (.put _ F.PWR_REFUSE_TARGET target)).keeps _ _ (by decide) (by decide)
    rw [Ctl.get_bump_same, hkept]

/-- A command that refuses the entry under way. -/
theorem exec_of_refusal {block reason : Nat} (hc : exec c s = .next (run s g)) (hq : s.ctl.Quiet)
    (hentry : s.ctl.entry = some e) (hdesc : e.desc = none) (hblock : block < 16) (hreason : reason < 4)
    (hx : g s.arr s.ctl.fresh = s.ctl.fresh.entryRefused block reason) :
    ∃ t, exec c s = .next t ∧ Refused s t e block reason := by
  have hentry' : s.ctl.fresh.entry = some e := hentry
  obtain ⟨t, ht, hends, hget⟩ := exec_of_onlyFlds (n := { s.ctl.fresh with entry := none, idle := 0 })
    (m := { s.ctl with entry := none, idle := 0 }) hc (hx.trans (Ctl.entryRefused_eq hentry' hdesc block reason))
    (.refusalShown _ _ _ _) hq rfl rfl rfl rfl
  obtain ⟨hb, hr, ht', hn⟩ := Ctl.get_refusalShown { s.ctl.fresh with entry := none, idle := 0 } block reason e.target
  refine ⟨t, ht, hends, ?_, ?_, (hget _ _ (by decide) (by decide)).trans ht', (hget _ _ (by decide) (by decide)).trans hn⟩
  · exact ((hget _ _ (by decide) (by decide)).trans hb).trans (Nat.mod_eq_of_lt hblock)
  · exact ((hget _ _ (by decide) (by decide)).trans hr).trans (Nat.mod_eq_of_lt hreason)

theorem blockCode_lt (b : EntryBlock) : blockCode b < 16 := by cases b <;> decide

/-- The reasons of R381 by the block. -/
theorem refuseReason_eq (b : EntryBlock) : refuseReason b = if b = .cfg ∨ b = .mir then 3 else 0 := by cases b <;> rfl

/-- What the blocks' conditions read is what a command starts with. -/
theorem Ctl.blockReady_fresh (m : Ctl) (keep : Nat) (b : EntryBlock) : m.fresh.blockReady keep b = m.blockReady keep b := by
  cases b <;> rfl

/-! ## Answers of the blocks -/

theorem Ctl.entryAccept_eq {m : Ctl} (hentry : m.entry = some e) (hasks : b ∈ asked e.target) (hnew : b ∉ e.accepted)
    (hready : m.blockReady e.keep b = true) : m.entryAccept b =
      { m with entry := some { e with accepted := e.accepted ++ [b], delayed := e.delayed.filter fun q => q != b } } := by
  simp [Ctl.entryAccept, hentry, hasks, hnew, hready]

theorem Ctl.entryDelay_eq {m : Ctl} (hentry : m.entry = some e) (hasks : b ∈ asked e.target) (hnew : b ∉ e.accepted)
    (honce : b ∉ e.delayed) : m.entryDelay b = { m with entry := some { e with delayed := e.delayed ++ [b] } } := by
  simp [Ctl.entryDelay, hentry, hasks, hnew, honce]

theorem Ctl.entryRefuse_eq {m : Ctl} (hentry : m.entry = some e) (hasks : b ∈ asked e.target) (hnew : b ∉ e.accepted)
    (hready : m.blockReady e.keep b = false) : m.entryRefuse b = m.entryRefused (blockCode b) (refuseReason b) := by
  simp [Ctl.entryRefuse, hentry, hasks, hnew, hready]

theorem Ctl.startEntry_none {m : Ctl} (hnone : m.entry = none) (e : EntryReq) : m.startEntry e = { m with entry := some e } := by
  simp [Ctl.startEntry, hnone]

/-- The entry point of a target that every block asked has accepted. -/
theorem Ctl.entryPoint_of_accepted {m : Ctl} (hmode : m.inMode [.ready, .active] = true) (hentry : m.entry = some e)
    (hall : ∀ q ∈ asked e.target, q ∈ e.accepted) : m.entryPoint e.target = true := by
  simpa [Ctl.entryPoint, Ctl.entryReady, hmode, hentry] using hall

/-- A command that changes the handshake alone. -/
theorem exec_of_entry {r : Option EntryReq} (hc : exec c s = .next (run s g))
    (hx : g s.arr s.ctl.fresh = { s.ctl.fresh with entry := r }) (hq : s.ctl.Quiet) :
    ∃ t, exec c s = .next t ∧ Ends s t [] { s.ctl with entry := r } :=
  exec_of_change hc hx hq rfl rfl rfl rfl

/-! ## DROWSE -/

theorem Ctl.gateIdle_fresh (m : Ctl) : m.fresh.gateIdle = m.gateIdle.fresh := by
  unfold Ctl.gateIdle
  rw [show m.fresh.is F.CLK_CFG_GATE_EN = m.is F.CLK_CFG_GATE_EN from rfl]
  split <;> rfl

theorem Ctl.gateIdle_same (m : Ctl) : m.gateIdle = { m with clk := m.gateIdle.clk } := by
  unfold Ctl.gateIdle
  split <;> rfl

theorem exec_drowseEntry (hq : s.ctl.Quiet) (hmode : s.ctl.inMode [.ready, .active] = true) (hentry : s.ctl.entry = some e)
    (htarget : e.target = 1) (hall : ∀ q ∈ asked 1, q ∈ e.accepted) : ∃ t, exec .drowseEntry s = .next t ∧
      Ends s t [(F.GL_MODE_STATE, 0), (F.GL_MODE_PREV, 0)] ({ s.ctl with entry := none, idle := 0 } : Ctl).gateIdle ∧
      t.ctl.mode = Mode.drowse.code := by
  obtain ⟨n, hn⟩ : ∃ n : Ctl, n = { s.ctl with entry := none, idle := 0 } := ⟨_, rfl⟩
  have hpoint : s.ctl.fresh.entryPoint 1 = true :=
    htarget ▸ Ctl.entryPoint_of_accepted (m := s.ctl.fresh) hmode hentry (htarget ▸ hall)
  have heffect : (if s.ctl.fresh.entryPoint 1 then ({ s.ctl.fresh with entry := none, idle := 0 } : Ctl).gateIdle.setMode .drowse
      else s.ctl.fresh) = n.gateIdle.fresh.setMode .drowse := by
    rw [if_pos hpoint, ← Ctl.gateIdle_fresh, hn]
    rfl
  have hsame := n.gateIdle_same
  have hflds : n.gateIdle.fresh.flds = s.ctl.flds := by rw [hsame, hn]; rfl
  have hquiet : n.gateIdle.fresh.Quiet := by rw [hsame, hn]; exact hq
  obtain ⟨t, ht, hends, hget⟩ := exec_of_onlyFlds (c := .drowseEntry) (m := n.gateIdle) rfl heffect (.setMode _ _) hquiet hflds rfl rfl
    (Ctl.rest_of_fresh _)
  rw [← hn]
  exact ⟨t, ht, hends.mono (by simp), ((hget _ _ (by decide) (by decide)).trans (Ctl.get_set_same _ _ _ _))⟩

/-- A wake that brings no host port with it (R378, R383, R389). -/
theorem exec_wakeEvent_drowse (fx : SenseFx) (tsv : TsvTrain) (noise : Noise) (hq : s.ctl.Quiet)
    (hmode : s.ctl.inMode [.drowse] = true) (hsrc : src = .service ∨ src = .pl0 ∨ src = .pl1) :
    ∃ t, exec (.wakeEvent src fx tsv noise) s = .next t ∧
      Ends s t [(F.WAKE_SOURCE_SOURCE, 0), (F.WAKE_SOURCE_FROM, 0), (F.WAKE_SOURCE_COUNT, 0), (F.GL_MODE_STATE, 0), (F.GL_MODE_PREV, 0)]
        s.ctl.gatesOpen ∧ t.ctl.get F.WAKE_SOURCE_SOURCE = wakeCode src ∧ t.ctl.get F.WAKE_SOURCE_FROM = Mode.drowse.code ∧
      t.ctl.mode = if s.ctl.anyLink then Mode.active.code else Mode.ready.code := by
  have hmode' : s.ctl.fresh.inMode [.drowse] = true := hmode
  have hnot : decide (src = .resetN) = false := by rcases hsrc with rfl | rfl | rfl <;> rfl
  have hwake : s.ctl.fresh.wakeDrowse src = s.ctl.fresh.leaveDrowse src := by rcases hsrc with rfl | rfl | rfl <;> rfl
  have heffect : ∀ x : Ctl, (if decide (src = .resetN) && s.ctl.fresh.inMode [.drowse, .hibernate, .crescent] then
      s.ctl.fresh.resetNFalls s.arr else if s.ctl.fresh.inMode [.drowse] then s.ctl.fresh.wakeDrowse src else x) =
      s.ctl.fresh.leaveDrowse src := fun x => by
    rw [hnot, Bool.false_and, if_neg (by decide), if_pos hmode', hwake]
  obtain ⟨hquiet, hraised, hedits⟩ := Ctl.quiet_leaveDrowse src hq.fresh
  have hflds : s.ctl.SameFlds (s.ctl.fresh.leaveDrowse src)
      [(F.WAKE_SOURCE_SOURCE, 0), (F.WAKE_SOURCE_FROM, 0), (F.WAKE_SOURCE_COUNT, 0), (F.GL_MODE_STATE, 0), (F.GL_MODE_PREV, 0)] := by
    have honly := (Ctl.OnlyFlds.recordWake s.ctl.fresh src).trans (.setMode _ (s.ctl.fresh.recordWake src).exitMode)
    rw [Ctl.leaveDrowse_eq]
    intro f i hf
    rw [Ctl.get_congr (Ctl.gatesOpen_flds _)]
    exact honly.flds.mono (by simp) f i hf
  obtain ⟨t, ht, hends, hget⟩ := exec_of_effect (c := .wakeEvent src fx tsv noise) rfl (heffect _) hquiet hraised hedits hflds
  obtain ⟨hsource, hfrom, hexit⟩ := Ctl.get_leaveDrowse src hmode'
  refine ⟨t, ht, hends.of_rest ((Ctl.rest_leaveDrowse _ src).trans rfl), ((hget _ _ (by decide)).trans hsource).trans ?_,
    (hget _ _ (by decide)).trans hfrom, (hget F.GL_MODE_STATE 0 (by decide)).trans hexit⟩
  cases src <;> rfl

end

end Sys2Proof.Machine

namespace Sys2Proof.PowerAndModes

open Sys2Proof.Machine

/-- Settles O57, by the commands of the handshake: each changes its request, refuses it with a reason, or enters or leaves DROWSE. -/
theorem entryHandshake : Obligations.EntryHandshake := by
  unfold Obligations.EntryHandshake
  intro s e b n src fx tsv noise asks refusal refused hq
  have hrefused : ∀ {t : State} {block reason : Nat}, Refused s t e block reason → refused t block reason := fun h =>
    ⟨h.ends, h.block, h.reason, h.target, h.count⟩
  refine ⟨fun hnone hmode hidle hlong => ?_, fun hentry => ?_, fun hmode hsrc => exec_wakeEvent_drowse fx tsv noise hq hmode hsrc⟩
  · refine exec_of_entry rfl ((if_pos ?_).trans (Ctl.startEntry_none (m := s.ctl.fresh) hnone _)) hq
    have hmode' : s.ctl.fresh.inMode [.ready, .active] = true := hmode
    have hlong' : s.ctl.fresh.get F.PWR_CFG_DROWSE_IDLE ≤ s.ctl.fresh.idle := hlong
    rw [hmode', decide_eq_true hlong', Bool.and_true, Bool.true_and]
    exact bne_iff_ne.mpr hidle
  · have hentry' : s.ctl.fresh.entry = some e := hentry
    have hready := s.ctl.blockReady_fresh e.keep b
    refine ⟨fun ⟨hasks, hnew⟩ hmay => exec_of_entry rfl (Ctl.entryAccept_eq hentry' hasks hnew (hready.trans hmay)) hq,
      fun ⟨hasks, hnew⟩ honce => exec_of_entry rfl (Ctl.entryDelay_eq hentry' hasks hnew honce) hq,
      fun ⟨hasks, hnew⟩ hmay hdesc => ?_, fun hdesc => ?_, fun hlate hdesc => ?_, fun hdesc hmode hsrc => ?_,
      fun hmode htarget hall => exec_drowseEntry hq hmode hentry htarget hall⟩
    · obtain ⟨t, ht, h⟩ := exec_of_refusal (c := .entryAnswer b .refuse) rfl hq hentry hdesc (blockCode_lt b)
        (show refuseReason b < 4 by cases b <;> decide) (Ctl.entryRefuse_eq hentry' hasks hnew (hready.trans hmay))
      rw [refuseReason_eq] at h
      exact ⟨t, ht, hrefused h⟩
    · obtain ⟨t, ht, h⟩ := exec_of_refusal (c := .entryAnswer b .abandonWake) rfl hq hentry hdesc (by decide) (by decide) rfl
      exact ⟨t, ht, hrefused h⟩
    · obtain ⟨t, ht, h⟩ := exec_of_refusal (c := .entryDelayExpiry b) (reason := 0) rfl hq hentry hdesc (blockCode_lt b) (by decide)
        (by
          simp only [hentry']
          exact if_pos (by simpa using hlate))
      exact ⟨t, ht, hrefused h⟩
    · obtain ⟨t, ht, h⟩ := exec_of_refusal (c := .wakeEvent src fx tsv noise) (block := 10) (reason := 1) rfl hq hentry hdesc
        (by decide) (by decide) (by
          have hdrowse : s.ctl.fresh.inMode [.drowse] = false := Ctl.inMode_disjoint (m := s.ctl) hmode (by decide)
          have hsleeps : s.ctl.fresh.inMode [.hibernate, .crescent] = false := Ctl.inMode_disjoint (m := s.ctl) hmode (by decide)
          simp [hsrc, hdrowse, hsleeps, Ctl.entryWake])
      exact ⟨t, ht, hrefused h⟩

end Sys2Proof.PowerAndModes
end

section
/-!
The service link and its host (R344, R345, R405, R508).
-/

namespace Sys2Proof.Machine

section
variable {s t : State} {c : Instr} {g : Arr → Ctl → Ctl} {n x m : Ctl} {l : List (Fld × Nat)}

/-- What a command sent whose effect leaves no request waiting, raises no fault and changes no byte. -/
theorem out_of_exec (hc : exec c s = .next (run s g)) (ht : exec c s = .next t) (hx : g s.arr s.ctl.fresh = x) (hq : x.Quiet)
    (hr : x.raised = []) (he : x.edits = []) : t.ctl.out = x.out := by
  rw [hc] at ht
  injection ht with ht
  rw [← ht]
  exact out_of_effect hx hq hr he

/-- The next state of a command that brings the state to `n`, whose registers are those before, then writes registers and sends. -/
theorem exec_of_sends (hc : exec c s = .next (run s g)) (hx : g s.arr s.ctl.fresh = x) (h : n.OnlyFlds x l) (hq : n.Quiet)
    (hflds : n.flds = s.ctl.flds) (hr : n.raised = []) (he : n.edits = []) (hm : n.rest = m.rest) :
    ∃ t, exec c s = .next t ∧ Ends s t l m ∧ t.ctl.out = x.out ∧
      ∀ f i, f.id ≠ F.FLT_STATUS_FAULTN.id → i < 1048576 → t.ctl.get f i = x.get f i := by
  obtain ⟨t, ht, hends, hget⟩ := exec_of_onlyFlds hc hx h hq hflds hr he hm
  exact ⟨t, ht, hends, out_of_exec hc ht hx (h.quiet hq) (h.raised.trans hr) (h.edits.trans he), hget⟩

end

/-- A stack in one of some modes is in one of more. -/
theorem Ctl.inMode_mono {m : Ctl} {l l' : List Mode} (h : m.inMode l = true) (hl : ∀ x ∈ l, x ∈ l') : m.inMode l' = true := by
  obtain ⟨hpower, hany⟩ := Bool.and_eq_true_iff.mp h
  obtain ⟨x, hx, hcode⟩ := List.any_eq_true.mp hany
  exact Bool.and_eq_true_iff.mpr ⟨hpower, List.any_eq_true.mpr ⟨x, hl x hx, hcode⟩⟩

/-! ## Held vectors -/

/-- One vector's turn of a flush. -/
def Ctl.flushOne (m : Ctl) (v : Nat) : Ctl :=
  if bit m.svc.pba v && m.vectorOpen v then { m with svc := { m.svc with pba := m.svc.pba ^^^ 2 ^ v } }.emit (.msix v) else m

theorem Ctl.msixFlush_eq (m : Ctl) : m.msixFlush = (List.range 64).foldl Ctl.flushOne m := rfl

theorem Ctl.flushOne_clear {m : Ctl} {v : Nat} (h : bit m.svc.pba v = false) : m.flushOne v = m := by
  simp [Ctl.flushOne, h]

/-- With no vector held none is sent. -/
theorem Ctl.msixFlush_none {m : Ctl} (h : m.svc.pba = 0) : m.msixFlush = m :=
  foldl_same fun v _ => Ctl.flushOne_clear (v := v) (by rw [h]; exact Nat.zero_testBit v)

/-- The one held vector is sent, where it may be (R344). -/
theorem Ctl.msixFlush_one {m : Ctl} {v : Nat} (hv : v < 64) (hpba : m.svc.pba = 2 ^ v) (hopen : m.vectorOpen v = true) :
    m.msixFlush = ({ m with svc := { m.svc with pba := 0 } } : Ctl).emit (.msix v) := by
  obtain ⟨before, after, hrange⟩ := List.append_of_mem (List.mem_range.mpr hv)
  have hnodup : (before ++ v :: after).Nodup := hrange ▸ List.nodup_range
  have hother : ∀ u ∈ before, u ≠ v := fun u hu huv =>
    (List.nodup_append.mp hnodup).2.2 u hu v List.mem_cons_self huv
  have hturn : m.flushOne v = ({ m with svc := { m.svc with pba := 0 } } : Ctl).emit (.msix v) := by
    have hbit : bit m.svc.pba v = true := by rw [hpba]; exact Nat.testBit_two_pow_self
    have hxor : m.svc.pba ^^^ 2 ^ v = 0 := by rw [hpba, Nat.xor_self]
    simp [Ctl.flushOne, hbit, hopen, hxor]
  have hbefore : before.foldl Ctl.flushOne m = m :=
    foldl_same fun u hu => Ctl.flushOne_clear (by rw [hpba]; exact Nat.testBit_two_pow_of_ne (hother u hu).symm)
  rw [Ctl.msixFlush_eq, hrange, List.foldl_append, List.foldl_cons, hbefore, hturn]
  exact foldl_same fun u _ => Ctl.flushOne_clear (Nat.zero_testBit u)

section
variable {s : State}

/-! ## Training -/

/-- A service link that has trained (R345, R405). -/
theorem exec_serviceLinkTraining (width : Fin 3) (speed : Fin 5) (hq : s.ctl.Quiet)
    (hmode : s.ctl.inMode [.selftest, .training, .ready, .active, .quarantine] = true) (hdown : s.ctl.get F.SVC_STATUS_LINK = 0)
    (hwhole : 4 ∉ s.ctl.deadUnits) : ∃ t, exec (.serviceLinkTraining width speed) s = .next t ∧
      Ends s t ([(F.SVC_STATUS_PERST, 0), (F.SVC_STATUS_LINK, 0), (F.SVC_STATUS_WIDTH, 0), (F.SVC_STATUS_SPEED, 0)] ++
        [(F.GL_MODE_STATE, 0), (F.GL_MODE_PREV, 0)]) s.ctl ∧
      t.ctl.get F.SVC_STATUS_PERST = 1 ∧ t.ctl.get F.SVC_STATUS_LINK = 1 ∧ t.ctl.get F.SVC_STATUS_WIDTH = 2 ^ width.val ∧
      t.ctl.get F.SVC_STATUS_SPEED = speed.val + 1 ∧ (s.ctl.inMode [.ready, .active] = true → t.ctl.mode = Mode.active.code) := by
  obtain ⟨linked, hlinked⟩ : ∃ x, x = (s.ctl.fresh.put F.SVC_STATUS_PERST 1).put F.SVC_STATUS_LINK 1 := ⟨_, rfl⟩
  obtain ⟨x, hx⟩ : ∃ x, x = (linked.put F.SVC_STATUS_WIDTH (2 ^ width.val)).put F.SVC_STATUS_SPEED (speed.val + 1) := ⟨_, rfl⟩
  have honly : s.ctl.fresh.OnlyFlds x
      [(F.SVC_STATUS_PERST, 0), (F.SVC_STATUS_LINK, 0), (F.SVC_STATUS_WIDTH, 0), (F.SVC_STATUS_SPEED, 0)] := by
    rw [hx, hlinked]
    exact ((Ctl.OnlyFlds.set s.ctl.fresh F.SVC_STATUS_PERST 0 1).trans (.set _ F.SVC_STATUS_LINK 0 1)).trans
      ((Ctl.OnlyFlds.set _ F.SVC_STATUS_WIDTH 0 _).trans (.set _ F.SVC_STATUS_SPEED 0 _))
  have heffect : (if s.ctl.fresh.inMode [.selftest, .training, .ready, .active, .drowse, .quarantine] &&
      !s.ctl.fresh.is F.SVC_STATUS_LINK && !s.ctl.fresh.deadUnits.contains 4 then
        (((((if s.ctl.fresh.inMode [.drowse] then s.ctl.fresh.wakeUp .service else s.ctl.fresh).put F.SVC_STATUS_PERST 1).put
          F.SVC_STATUS_LINK 1).put F.SVC_STATUS_WIDTH (2 ^ width.val)).put F.SVC_STATUS_SPEED (speed.val + 1)).readyOrActive
      else s.ctl.fresh) = x.readyOrActive := by
    have hawake : s.ctl.fresh.inMode [.drowse] = false := Ctl.inMode_disjoint (m := s.ctl) hmode (by decide)
    have hmodes : s.ctl.fresh.inMode [.selftest, .training, .ready, .active, .drowse, .quarantine] = true :=
      Ctl.inMode_mono (m := s.ctl) hmode (by decide)
    have hlink : s.ctl.fresh.is F.SVC_STATUS_LINK = false := by simp [Ctl.is, hdown]
    have hdead : s.ctl.fresh.deadUnits.contains 4 = false := by simpa [Ctl.fresh] using hwhole
    rw [hawake, hmodes, hlink, hdead, hx, hlinked]
    rfl
  obtain ⟨t, ht, hends, hget⟩ := exec_of_writes (c := .serviceLinkTraining width speed) rfl heffect
    (honly.trans (.readyOrActive x)) hq
  have hkept : ∀ f : Fld, f.id ∉ [F.FLT_STATUS_FAULTN, F.GL_MODE_PREV, F.GL_MODE_STATE].map Fld.id → t.ctl.get f = x.get f :=
    fun f hf => (hget f 0 (by simp at hf ⊢; tauto) (by decide)).trans
      ((Ctl.OnlyFlds.readyOrActive x).flds.get_eq (by simp at hf ⊢; tauto) (by decide))
  have hlink : x.get F.SVC_STATUS_LINK = 1 := by
    rw [hx, Ctl.get_put_fld _ _ (by decide), Ctl.get_put_fld _ _ (by decide), hlinked, Ctl.get_put_same]
    rfl
  refine ⟨t, ht, hends.mono (by simp), (hkept _ (by decide)).trans ?_, (hkept _ (by decide)).trans hlink,
    (hkept _ (by decide)).trans ?_, (hkept _ (by decide)).trans ?_, fun hready => ?_⟩
  · rw [hx, Ctl.get_put_fld _ _ (by decide), Ctl.get_put_fld _ _ (by decide), hlinked, Ctl.get_put_fld _ _ (by decide),
      Ctl.get_put_same]
    rfl
  · rw [hx, Ctl.get_put_fld _ _ (by decide), Ctl.get_put_same]
    exact (by decide : ∀ w : Fin 3, 2 ^ w.val % 2 ^ F.SVC_STATUS_WIDTH.width = 2 ^ w.val) width
  · rw [hx, Ctl.get_put_same]
    exact (by decide : ∀ v : Fin 5, (v.val + 1) % 2 ^ F.SVC_STATUS_SPEED.width = v.val + 1) speed
  · have hany : x.anyLink = true := by simp [Ctl.anyLink, Ctl.is, hlink]
    refine (hget F.GL_MODE_STATE 0 (by decide) (by decide)).trans (Ctl.mode_readyOrActive_up ?_ hany)
    exact (honly.inMode (by decide) _).trans hready

/-! ## Configuration requests -/

/-- The link is up and the stack neither sleeps nor asks its blocks to: new work of the service host is only noted. -/
structure Ctl.SvcAwake (m : Ctl) : Prop where
  link : m.get F.SVC_STATUS_LINK = 1
  mode : m.inMode [.ready, .active, .quarantine] = true
  entry : m.entry = none

section
variable {m : Ctl}

theorem Ctl.SvcAwake.fresh (h : m.SvcAwake) : m.fresh.SvcAwake := ⟨h.link, h.mode, h.entry⟩

theorem Ctl.SvcAwake.newWork (h : m.SvcAwake) : m.newWork .svc = m.noted :=
  Ctl.newWork_awake (Ctl.inMode_disjoint h.mode (by decide)) h.entry _

theorem Ctl.cfgReach_of_up (hlink : m.get F.SVC_STATUS_LINK = 1) (hmode : m.inMode [.hibernate, .crescent] = false) :
    m.cfgReach = true := by
  simp [Ctl.cfgReach, Ctl.is, hlink, hmode]

theorem Ctl.SvcAwake.cfgReach (h : m.SvcAwake) : m.cfgReach = true :=
  Ctl.cfgReach_of_up h.link (Ctl.inMode_disjoint h.mode (by decide))

theorem Ctl.SvcAwake.cfgNormal (h : m.SvcAwake) : m.cfgNormal = true := Ctl.inMode_mono h.mode (by decide)

end

/-- Before READY a configuration request is answered Retry Status (R405). -/
theorem exec_pcieConfigRequest_early (q : PcieReq) (hq : s.ctl.Quiet) (hlink : s.ctl.get F.SVC_STATUS_LINK = 1)
    (hmode : s.ctl.inMode [.selftest, .training] = true) :
    ∃ t, exec (.pcieConfigRequest q) s = .next t ∧ Ends s t [] s.ctl ∧ t.ctl.out = [.tlpStatus 3] := by
  have hreach : s.ctl.fresh.cfgReach = true := Ctl.cfgReach_of_up (m := s.ctl.fresh) hlink (Ctl.inMode_disjoint (m := s.ctl) hmode (by decide))
  have hearly : s.ctl.fresh.cfgNormal = false := Ctl.inMode_disjoint (m := s.ctl) hmode (by decide)
  obtain ⟨t, ht, hends, hout, -⟩ := exec_of_sends (c := .pcieConfigRequest q) (x := s.ctl.fresh.emit (.tlpStatus 3)) (m := s.ctl) rfl
    (by simp only [hreach, hearly, if_true, Bool.false_eq_true, if_false]) (.emit _ _) hq.fresh rfl rfl rfl rfl
  exact ⟨t, ht, hends, hout⟩

/-- From READY on it is carried out. -/
theorem exec_pcieConfigRequest {q : PcieReq} {n x m : Ctl} {l : List (Fld × Nat)} (h : s.ctl.SvcAwake)
    (hx : s.ctl.fresh.noted.pcieRequest q = x) (hl : n.OnlyFlds x l) (hq : n.Quiet) (hflds : n.flds = s.ctl.flds) (hr : n.raised = [])
    (he : n.edits = []) (hm : n.rest = m.rest) : ∃ t, exec (.pcieConfigRequest q) s = .next t ∧ Ends s t l m ∧ t.ctl.out = x.out ∧
      ∀ f i, f.id ≠ F.FLT_STATUS_FAULTN.id → i < 1048576 → t.ctl.get f i = x.get f i := by
  refine exec_of_sends (c := .pcieConfigRequest q) rfl ?_ hl hq hflds hr he hm
  simp only [h.fresh.cfgReach, h.fresh.cfgNormal, if_true, h.fresh.newWork]
  exact hx

/-- Bus Master Enable as it is set and cleared. -/
theorem exec_busMasterEnable {on : Bool} {n x m : Ctl} {l : List (Fld × Nat)} (h : s.ctl.SvcAwake)
    (hx : s.ctl.fresh.noted.setBme on = x) (hl : n.OnlyFlds x l) (hq : n.Quiet) (hflds : n.flds = s.ctl.flds) (hr : n.raised = [])
    (he : n.edits = []) (hm : n.rest = m.rest) : ∃ t, exec (.busMasterEnable on) s = .next t ∧ Ends s t l m ∧ t.ctl.out = x.out ∧
      ∀ f i, f.id ≠ F.FLT_STATUS_FAULTN.id → i < 1048576 → t.ctl.get f i = x.get f i := by
  refine exec_of_sends (c := .busMasterEnable on) rfl ?_ hl hq hflds hr he hm
  simp only [h.fresh.cfgReach, h.fresh.cfgNormal, Bool.and_self, if_true, h.fresh.newWork]
  exact hx

/-- The configuration header with one register written. -/
def Ctl.withCfg (m : Ctl) (reg value : Nat) : Ctl := { m with svc := { m.svc with cfg := Sparse.setD m.svc.cfg reg value 0 } }

theorem Ctl.pcieRequest_other (m : Ctl) {reg : BitVec 10} (hreg : reg ≠ 1) (value : BitVec 32) :
    m.pcieRequest (.write reg value) = m.withCfg reg.toNat value.toNat := if_neg hreg

/-- A write of the command register sets Bus Master Enable too. -/
theorem Ctl.pcieRequest_command (m : Ctl) (value : BitVec 32) :
    m.pcieRequest (.write 1 value) = (m.withCfg 1 value.toNat).setBme (bit value.toNat 2) := by
  unfold Ctl.pcieRequest
  exact if_pos rfl

theorem Ctl.setBme_none {m : Ctl} (hpba : m.svc.pba = 0) (on : Bool) : m.setBme on = m.put F.SVC_STATUS_BME (b2n on) :=
  Ctl.msixFlush_none (m := m.put F.SVC_STATUS_BME (b2n on)) hpba

theorem b2n_mod (b : Bool) : b2n b % 2 ^ 1 = b2n b := by cases b <;> rfl

/-- A held vector goes once Bus Master Enable lets it (R344). -/
theorem Ctl.setBme_one {m : Ctl} {v : Nat} (hv : v < 64) (hpba : m.svc.pba = 2 ^ v) (hon : m.svc.msixOn = true)
    (hmask : m.svc.msixMask = false) (hentry : bit (m.svc.tableDw (4 * v + 3)) 0 = false) (hd0 : m.get F.SVC_STATUS_DSTATE = 0) :
    m.setBme true =
      (({ m with svc := { m.svc with pba := 0 } } : Ctl).put F.SVC_STATUS_BME 1).emit (.msix v) := by
  have hbme : (m.put F.SVC_STATUS_BME 1).is F.SVC_STATUS_BME = true := by
    rw [Ctl.is, Ctl.get_put_same]
    rfl
  have hdstate : (m.put F.SVC_STATUS_BME 1).get F.SVC_STATUS_DSTATE = 0 := (Ctl.get_put_fld m 1 (by decide)).trans hd0
  refine (Ctl.msixFlush_one (m := m.put F.SVC_STATUS_BME 1) hv hpba ?_).trans rfl
  have hsvc : (m.put F.SVC_STATUS_BME 1).svc = m.svc := rfl
  rw [Ctl.vectorOpen, hsvc, hon, hmask, hentry, hbme, hdstate]
  rfl

/-! ## The loss of the service host -/

/-- The rings of the service host. -/
def svcRings : List Nat := (List.range 32).map fun k => 128 + k

/-- The fields that the loss returns to reset, and those that count it. -/
def svcLossFlds : List (Fld × Nat) :=
  [(F.SVC_STATUS_DSTATE, 0), (F.SVC_STATUS_BME, 0), (F.SVC_STATUS_WIDTH, 0), (F.SVC_STATUS_SPEED, 0), (F.SVC_STATUS_LINK, 0),
    (F.SVC_STATUS_PERST, 0), (F.SVC_LOSS_CAUSE, 0), (F.SVC_LOSS_COUNT, 0)]

/-- The link's registers after a loss. -/
def Ctl.svcDown (m : Ctl) (cause : Nat) : Ctl :=
  let m := ((((m.clear F.SVC_STATUS_DSTATE).clear F.SVC_STATUS_BME).clear F.SVC_STATUS_WIDTH).clear F.SVC_STATUS_SPEED).clear
    F.SVC_STATUS_LINK
  ((if cause = 1 then m.put F.SVC_STATUS_PERST 0 else m).put F.SVC_LOSS_CAUSE cause).bump F.SVC_LOSS_COUNT

/-- A loss with nothing under way and the semaphore elsewhere. -/
theorem Ctl.svcLost_idle {m n : Ctl} {cause : Nat} (hpcs : m.pcs = []) (hreqs : m.svc.reqs = []) (htlps : m.svc.tlps = [])
    (hn : n = ({ m with svc := { nextPos := m.svc.nextPos } } : Ctl).ringsAbort 128 32) (howner : n.owner ≠ 3) :
    m.svcLost cause = (n.svcDown cause).readyOrActive := by
  unfold Ctl.svcLost
  simp only [hpcs, hreqs, htlps, List.filter_nil]
  rw [show Sparse.mapD ([] : Sparse Pc) {} _ = [] from rfl, ← hpcs, ← hn]
  rw [if_neg (show n.owner ≠ Master.svc.code from howner)]
  rfl

theorem Ctl.OnlyFlds.svcDown (m : Ctl) (cause : Nat) : m.OnlyFlds (m.svcDown cause) svcLossFlds := by
  have hclear := ((((OnlyFlds.clear m F.SVC_STATUS_DSTATE 0).trans (.clear _ F.SVC_STATUS_BME 0)).trans
    (.clear _ F.SVC_STATUS_WIDTH 0)).trans (.clear _ F.SVC_STATUS_SPEED 0)).trans (.clear _ F.SVC_STATUS_LINK 0)
  unfold Ctl.svcDown
  dsimp only
  split
  · exact (((hclear.trans (.set _ F.SVC_STATUS_PERST 0 0)).trans (.set _ F.SVC_LOSS_CAUSE 0 cause)).trans
      (.set _ F.SVC_LOSS_COUNT 0 _)).mono (by simp [svcLossFlds])
  · exact ((hclear.trans (.set _ F.SVC_LOSS_CAUSE 0 cause)).trans (.set _ F.SVC_LOSS_COUNT 0 _)).mono (by simp [svcLossFlds])

/-- What the loss shows. -/
theorem Ctl.get_svcDown (m : Ctl) {cause : Nat} (hcause : cause < 4) : (m.svcDown cause).get F.SVC_STATUS_LINK = 0 ∧
    (m.svcDown cause).get F.SVC_STATUS_BME = 0 ∧ (m.svcDown cause).get F.SVC_LOSS_CAUSE = cause ∧
    (m.svcDown cause).get F.SVC_LOSS_COUNT = min (m.get F.SVC_LOSS_COUNT + 1) (2 ^ F.SVC_LOSS_COUNT.width - 1) := by
  obtain ⟨k, hk⟩ : ∃ k, k = ((((m.clear F.SVC_STATUS_DSTATE).clear F.SVC_STATUS_BME).clear F.SVC_STATUS_WIDTH).clear
    F.SVC_STATUS_SPEED).clear F.SVC_STATUS_LINK := ⟨_, rfl⟩
  obtain ⟨y, hy⟩ : ∃ y, y = if cause = 1 then k.put F.SVC_STATUS_PERST 0 else k := ⟨_, rfl⟩
  have hdef : m.svcDown cause = (y.put F.SVC_LOSS_CAUSE cause).bump F.SVC_LOSS_COUNT := by rw [hy, hk]; rfl
  have hperst : ∀ f : Fld, f.id ≠ F.SVC_STATUS_PERST.id → y.get f = k.get f := fun f hf => by
    rw [hy]
    split
    · exact Ctl.get_put_fld k 0 hf
    · rfl
  have hcount : ∀ f : Fld, f.id ≠ F.SVC_LOSS_COUNT.id → ∀ z : Ctl, (z.bump F.SVC_LOSS_COUNT).get f = z.get f := fun f hf z =>
    Ctl.get_set_fld _ _ hf (by decide) (by decide)
  have hclear : ∀ (z : Ctl) (f f' : Fld), f'.id ≠ f.id → (z.clear f).get f' = z.get f' := fun z f f' hf =>
    Ctl.get_clear_fld z hf (by decide) (by decide)
  rw [hdef]
  refine ⟨?_, ?_, ?_, ?_⟩
  · rw [hcount _ (by decide), Ctl.get_put_fld _ _ (by decide), hperst _ (by decide), hk, Ctl.get_clear_same]
    rfl
  · rw [hcount _ (by decide), Ctl.get_put_fld _ _ (by decide), hperst _ (by decide), hk, hclear _ _ _ (by decide),
      hclear _ _ _ (by decide), hclear _ _ _ (by decide), Ctl.get_clear_same]
    rfl
  · rw [hcount _ (by decide), Ctl.get_put_same]
    exact Nat.mod_eq_of_lt hcause
  · rw [Ctl.get_bump_same, Ctl.get_put_fld _ _ (by decide), hperst _ (by decide), hk, hclear _ _ _ (by decide),
      hclear _ _ _ (by decide), hclear _ _ _ (by decide), hclear _ _ _ (by decide), hclear _ _ _ (by decide)]

/-- Aborting rings with nothing in progress lists no PC. -/
theorem Ctl.pcs_ringAbort {m : Ctl} {r : Nat} (hpcs : m.pcs = []) (hprog : (m.ring r).prog = []) : (m.ringAbort r).pcs = [] := by
  have hdrop : (m.dropFetches r).pcs = [] := by
    rw [Ctl.dropFetches, hpcs]
    rfl
  unfold Ctl.ringAbort
  split
  · exact hpcs
  · simp only [hprog, List.filter_nil, List.foldl_nil, List.isEmpty_nil, Bool.not_true, Bool.and_false, Bool.false_eq_true, if_false]
    exact hdrop

theorem Ctl.pcs_ringAborts {l : List Nat} (hl : l.Nodup) {m : Ctl} (hpcs : m.pcs = []) (hprog : ∀ r ∈ l, (m.ring r).prog = []) :
    (l.foldl Ctl.ringAbort m).pcs = [] := by
  induction l generalizing m with
  | nil => exact hpcs
  | cons r l ih =>
    obtain ⟨hr, hl⟩ := List.nodup_cons.mp hl
    have hidle : m.PcsIdle := fun q => by rw [Ctl.pc, hpcs]; exact ⟨rfl, rfl, rfl, rfl⟩
    have hone := Ctl.Aborted.ringAbort hidle (hprog r List.mem_cons_self)
    refine ih hl (Ctl.pcs_ringAbort hpcs (hprog r List.mem_cons_self)) fun q hq => ?_
    rw [hone.other q fun hqr => hr (List.mem_singleton.mp hqr ▸ hq)]
    exact hprog q (List.mem_cons_of_mem _ hq)

theorem svcRings_nodup : svcRings.Nodup := List.nodup_range.map fun _ _ h => Nat.add_left_cancel h

theorem svcCause_lt (cause : SvcCause) : svcCause cause < 4 := by cases cause <;> decide

/-- The frame of a loss, and what it shows. -/
theorem exec_serviceHostLoss (cause : SvcCause) (hq : s.ctl.Quiet) (hrun : s.ctl.power = .run) (hlink : s.ctl.get F.SVC_STATUS_LINK = 1)
    (htlps : s.ctl.svc.tlps = []) (hpcs : s.ctl.pcs = []) (howner : s.ctl.owner ≠ 3)
    (hprog : ∀ k < 32, (s.ctl.ring (128 + k)).prog = []) : ∃ t, exec (.serviceHostLoss cause) s = .next t ∧
      Ends s t (svcLossFlds ++ [(F.GL_MODE_STATE, 0), (F.GL_MODE_PREV, 0)] ++
          (List.range 32).map fun k => (F.RING_STATUS_STATE, 128 + k))
        { s.ctl with svc := { nextPos := s.ctl.svc.nextPos }, rings := t.ctl.rings } ∧
      t.ctl.get F.SVC_STATUS_LINK = 0 ∧ t.ctl.get F.SVC_STATUS_BME = 0 ∧ t.ctl.get F.SVC_LOSS_CAUSE = svcCause cause ∧
      t.ctl.get F.SVC_LOSS_COUNT = min (s.ctl.get F.SVC_LOSS_COUNT + 1) (2 ^ F.SVC_LOSS_COUNT.width - 1) ∧
      (∀ k < 32, t.ctl.ringState (128 + k) = if s.ctl.ringState (128 + k) = 0 then 0 else 4) ∧
      (s.ctl.inMode [.active] = true → t.ctl.mode = if t.ctl.anyLink then Mode.active.code else Mode.ready.code) := by
  obtain ⟨m, hm⟩ : ∃ m : Ctl, m = { s.ctl.fresh with svc := { nextPos := s.ctl.svc.nextPos } } := ⟨_, rfl⟩
  obtain ⟨n, hn⟩ : ∃ n, n = svcRings.foldl Ctl.ringAbort m := ⟨_, rfl⟩
  have hmpcs : m.pcs = [] := by rw [hm]; exact hpcs
  have hidle : m.PcsIdle := fun q => by rw [Ctl.pc, hmpcs]; exact ⟨rfl, rfl, rfl, rfl⟩
  have hmprog : ∀ r ∈ svcRings, (m.ring r).prog = [] := fun r hr => by
    obtain ⟨k, hk, rfl⟩ := List.mem_map.mp hr
    rw [hm]
    exact hprog k (List.mem_range.mp hk)
  have hmget : ∀ f i, m.get f i = s.ctl.get f i := fun f i => by rw [hm]; rfl
  have habort : m.Aborted n svcRings := hn ▸ .fold svcRings_nodup m hidle hmprog
  have hnpcs : n.pcs = s.ctl.pcs := by rw [hn, hpcs]; exact Ctl.pcs_ringAborts svcRings_nodup hmpcs hmprog
  have hrings : ∀ e ∈ svcRings.map fun r => (F.RING_STATUS_STATE, r), e.1.id = F.RING_STATUS_STATE.id ∧ e.2 < 1048576 := fun e he => by
    obtain ⟨r, hr, rfl⟩ := List.mem_map.mp he
    obtain ⟨k, hk, rfl⟩ := List.mem_map.mp hr
    exact ⟨rfl, by have := List.mem_range.mp hk; dsimp only; omega⟩
  have hnget : ∀ f i, f.id ≠ F.RING_STATUS_STATE.id → i < 1048576 → n.get f i = s.ctl.get f i := fun f i hf hi =>
    (habort.flds.get_eq (fun e he => ⟨fun h => hf (h.trans (hrings e he).1), (hrings e he).2⟩) hi).trans (hmget f i)
  have hdown := Ctl.OnlyFlds.svcDown n (svcCause cause)
  have hlate := hdown.trans (.readyOrActive (n.svcDown (svcCause cause)))
  have heffect : (if s.ctl.fresh.alive && (s.ctl.fresh.is F.SVC_STATUS_LINK || (decide (cause = .perst) &&
      s.ctl.fresh.is F.SVC_STATUS_PERST)) then s.ctl.fresh.svcLost (svcCause cause) else s.ctl.fresh) =
      (n.svcDown (svcCause cause)).readyOrActive := by
    have halive : s.ctl.fresh.alive = true := by simp [Ctl.alive, Ctl.fresh, hrun]
    have hup : s.ctl.fresh.is F.SVC_STATUS_LINK = true := by simp [Ctl.is, hlink]
    rw [halive, hup, Bool.true_or, Bool.and_self, if_pos rfl]
    refine Ctl.svcLost_idle (m := s.ctl.fresh) hpcs hq.2.2.1 htlps ?_ ?_
    · rw [hn, svcRings, List.foldl_map, hm]
      rfl
    · exact fun h => howner ((hnget _ _ (by decide) (by decide)).symm.trans h)
  have hnrest : n.rest = ({ s.ctl with svc := { nextPos := s.ctl.svc.nextPos }, rings := n.rings } : Ctl).rest := by
    rw [habort.same, hnpcs, hm]
    rfl
  have hnquiet : n.Quiet := by
    obtain ⟨hpa, hpb, -, hcode, hstale⟩ := hq
    rw [habort.same, hnpcs, hm]
    exact ⟨hpa, hpb, rfl, hcode, hstale⟩
  have hraised : n.raised = [] := by rw [habort.same, hm]; rfl
  have hedits : n.edits = [] := by rw [habort.same, hm]; rfl
  have hflds : s.ctl.SameFlds (n.svcDown (svcCause cause)).readyOrActive
      ((svcRings.map fun r => (F.RING_STATUS_STATE, r)) ++ (svcLossFlds ++ [(F.GL_MODE_PREV, 0), (F.GL_MODE_STATE, 0)])) :=
    Ctl.SameFlds.trans (fun f i hf => (habort.flds f i hf).trans (hmget f i)) hlate.flds
  obtain ⟨t, ht, hends, hget⟩ := exec_of_effect (c := .serviceHostLoss cause) rfl heffect (hlate.quiet hnquiet)
    (hlate.raised.trans hraised) (hlate.edits.trans hedits) hflds
  have htrings : t.ctl.rings = n.rings := (hends.part (·.rings) fun _ => rfl).trans (hlate.part (·.rings) fun _ => rfl)
  have hkept : ∀ f i, f.id ∉ [F.FLT_STATUS_FAULTN, F.GL_MODE_PREV, F.GL_MODE_STATE].map Fld.id → i < 1048576 →
      t.ctl.get f i = (n.svcDown (svcCause cause)).get f i := fun f i hf hi =>
    (hget f i (fkey_ne (by simp at hf ⊢; tauto) hi (by decide))).trans
      ((Ctl.OnlyFlds.readyOrActive _).flds.get_eq (by simp at hf ⊢; tauto) hi)
  obtain ⟨hoff, hbme, hcause, hcount⟩ := n.get_svcDown (svcCause_lt cause)
  refine ⟨t, ht, (hends.mono ?_).of_rest (hlate.rest.trans (hnrest.trans (by rw [htrings]))), (hkept _ _ (by decide) (by decide)).trans hoff,
    (hkept _ _ (by decide) (by decide)).trans hbme, (hkept _ _ (by decide) (by decide)).trans hcause,
    (hkept _ _ (by decide) (by decide)).trans (hcount.trans ?_), fun k hk => ?_, fun hactive => ?_⟩
  · intro e he
    rcases List.mem_append.mp he with h | h
    · exact List.mem_append_right _ (by rwa [svcRings, List.map_map] at h)
    · refine List.mem_append_left _ (List.mem_append.mpr ((List.mem_append.mp h).imp_right fun h => ?_))
      exact (List.Perm.swap _ _ []).mem_iff.mp h
  · rw [hnget _ _ (by decide) (by decide)]
  · have hdownRing : (n.svcDown (svcCause cause)).get F.RING_STATUS_STATE (128 + k) = n.ringState (128 + k) :=
      hdown.flds.get_eq (by decide) (by omega)
    have hstate := habort.state (128 + k) (List.mem_map.mpr ⟨k, List.mem_range.mpr hk, rfl⟩)
    rw [show m.ringState (128 + k) = s.ctl.ringState (128 + k) from hmget _ _] at hstate
    exact ((hkept _ _ (by decide) (by omega)).trans hdownRing).trans hstate
  · have hmode : (n.svcDown (svcCause cause)).inMode [.active] = true := by
      have hpower : n.power = s.ctl.power := by rw [habort.same, hm]; rfl
      have hsame : n.mode = s.ctl.mode := hnget _ _ (by decide) (by decide)
      rw [hdown.inMode (by decide), Ctl.inMode, hpower, hsame]
      exact hactive
    have hany : t.ctl.anyLink = (n.svcDown (svcCause cause)).anyLink :=
      Ctl.anyLink_congr (fun q => hkept _ _ (by decide) q.copy_lt) (hkept _ _ (by decide) (by decide))
    rw [hany]
    exact (hget F.GL_MODE_STATE 0 (by decide)).trans (Ctl.mode_readyOrActive hmode)

end

end Sys2Proof.Machine

namespace Sys2Proof.ServicePort

open Sys2Proof.Machine

/-- Settles O54, by the commands of the service link; a write of register 1 and BUS_MASTER_ENABLE come to the same `Ctl.setBme`. -/
theorem serviceLink : Obligations.ServiceLink := by
  unfold Obligations.ServiceLink
  intro s width speed q reg value on cause v x modes up awake hq
  have hbme : ∀ y : Ctl, y.svc.pba = 0 → ∀ b, y.OnlyFlds (y.setBme b) [(F.SVC_STATUS_BME, 0)] ∧
      (y.setBme b).get F.SVC_STATUS_BME = b2n b := fun y hy b => by
    rw [Ctl.setBme_none hy]
    exact ⟨.set _ _ _ _, (Ctl.get_put_same _ _ _).trans (b2n_mod b)⟩
  refine ⟨fun hmode hdown hwhole => exec_serviceLinkTraining width speed hq hmode hdown hwhole,
    fun hup hmode => exec_pcieConfigRequest_early q hq hup hmode, fun hup hawake => ?_,
    fun hrun hup htlps hpcs howner hprog => exec_serviceHostLoss cause hq hrun hup htlps hpcs howner hprog⟩
  obtain ⟨hmode, hentry⟩ := hawake
  have h : s.ctl.SvcAwake := ⟨hup, hmode, hentry⟩
  refine ⟨?_, fun hreg => ?_, fun hnone => ⟨?_, ?_, ?_, ?_⟩, fun hone hen hmask hopen hd0 => ?_⟩
  · obtain ⟨t, ht, hends, hout, -⟩ := exec_pcieConfigRequest (q := .read reg) (n := s.ctl.fresh.noted) (m := s.ctl) h rfl (.emit _ _) hq rfl
      rfl rfl rfl
    exact ⟨t, ht, hends, hout⟩
  · obtain ⟨t, ht, hends, -⟩ := exec_pcieConfigRequest (q := .write reg value) (n := s.ctl.fresh.noted.withCfg reg.toNat value.toNat)
      (m := s.ctl.withCfg reg.toNat value.toNat) h
      (Ctl.pcieRequest_other _ hreg _) (.refl _) hq rfl rfl rfl rfl
    exact ⟨t, ht, hends⟩
  · obtain ⟨honly, hshown⟩ := hbme (s.ctl.fresh.noted.withCfg 1 value.toNat) hnone (bit value.toNat 2)
    obtain ⟨t, ht, hends, -, hget⟩ := exec_pcieConfigRequest (q := .write 1 value) (m := s.ctl.withCfg 1 value.toNat) h
      (Ctl.pcieRequest_command _ _) honly hq rfl rfl rfl rfl
    exact ⟨t, ht, hends, (hget _ _ (by decide) (by decide)).trans hshown⟩
  · obtain ⟨t, ht, hends, -, hget⟩ := exec_pcieConfigRequest (q := .dState on) (n := s.ctl.fresh.noted) (m := s.ctl) h
      (Ctl.msixFlush_none hnone) (.set _ F.SVC_STATUS_DSTATE 0 _) hq rfl rfl rfl rfl
    refine ⟨t, ht, hends, (hget _ _ (by decide) (by decide)).trans ((Ctl.get_set_same _ _ _ _).trans ?_)⟩
    cases on <;> rfl
  · obtain ⟨t, ht, hends, -⟩ := exec_pcieConfigRequest (q := .msixControl on false)
      (n := { s.ctl.fresh.noted with svc := { x with msixOn := on, msixMask := false } })
      (m := { s.ctl with svc := { x with msixOn := on, msixMask := false } }) h (Ctl.msixFlush_none hnone) (.refl _) hq rfl rfl rfl rfl
    exact ⟨t, ht, hends⟩
  · obtain ⟨honly, hshown⟩ := hbme s.ctl.fresh.noted hnone on
    obtain ⟨t, ht, hends, -, hget⟩ := exec_busMasterEnable (m := s.ctl) h rfl honly hq rfl rfl rfl rfl
    exact ⟨t, ht, hends, (hget _ _ (by decide) (by decide)).trans hshown⟩
  · obtain ⟨t, ht, hends, hout, -⟩ := exec_busMasterEnable (on := true)
      (n := { s.ctl.fresh.noted with svc := { x with pba := 0 } }) (m := { s.ctl with svc := { x with pba := 0 } }) h
      (Ctl.setBme_one v.isLt hone hen hmask hopen hd0) ((Ctl.OnlyFlds.set _ F.SVC_STATUS_BME 0 1).trans (.emit _ _)) hq rfl rfl rfl rfl
    exact ⟨t, ht, hends, hout⟩

end Sys2Proof.ServicePort
end

section
/-!
TSV training after a power-on reset (R378, R400, R404).
-/

namespace Sys2Proof.Machine

/-- Nothing differs but the fields listed and the links. -/
structure Ctl.ShowsLinks (m n : Ctl) (l : List Fld) : Prop where
  keeps : m.KeepsBut n l
  same : n = { m with flds := n.flds, links := n.links }

section
variable {m n k : Ctl} {l l' : List Fld}

theorem Ctl.Shows.withLinks (h : m.Shows n l) : m.ShowsLinks n l := ⟨h.keeps, by rw [h.same]⟩

theorem Ctl.ShowsLinks.trans (h : m.ShowsLinks n l) (h' : n.ShowsLinks k l') : m.ShowsLinks k (l ++ l') :=
  ⟨h.keeps.trans h'.keeps, by rw [h'.same, h.same]⟩

theorem Ctl.ShowsLinks.quiet (h : m.ShowsLinks n l) (hq : m.Quiet) : n.Quiet := by
  rw [h.same]
  exact hq

/-- The next state of a command that brings the state to `n`, whose registers are those before, then writes registers and changes
links. -/
theorem exec_of_showsLinks {s : State} {c : Instr} {g : Arr → Ctl → Ctl} (hc : exec c s = .next (run s g))
    (hx : g s.arr s.ctl.fresh = k) (h : n.ShowsLinks k l) (hq : n.Quiet) (hflds : n.flds = s.ctl.flds) (hr : n.raised = [])
    (he : n.edits = []) (hm : n.rest = m.rest) : ∃ t, exec c s = .next t ∧ EndsBut s t l { m with links := t.ctl.links } ∧
      ∀ f i, f.id ≠ F.FLT_STATUS_FAULTN.id → i < 1048576 → t.ctl.get f i = k.get f i := by
  have hquiet := h.quiet hq
  have hraised : k.raised = [] := by rw [h.same]; exact hr
  have hedits : k.edits = [] := by rw [h.same]; exact he
  have hends : EndsBut s (run s g) l k := .of_effect hx hquiet hraised hedits
    (fun f i hi hf => (h.keeps f i hi hf).trans (Ctl.get_congr hflds f i)) rfl
  have hlinks : (run s g).ctl.links = k.links := hends.part (·.links) fun _ => rfl
  refine ⟨_, hc, ⟨hends.pending, hends.arr, hends.flds, hends.rest.trans ?_⟩, fun f i hf hi =>
    get_of_effect hx hquiet hraised hedits i (fkey_ne hf hi (by decide))⟩
  rw [hlinks, h.same]
  exact congrArg (fun y : Ctl => { y with links := k.links }) hm

theorem Ctl.Shows.setMode (m : Ctl) (x : Mode) : m.Shows (m.setMode x) [F.GL_MODE_PREV, F.GL_MODE_STATE] :=
  (Shows.put m _ _).trans (.put _ _ _)

theorem Ctl.mode_setMode (m : Ctl) (x : Mode) : (m.setMode x).mode = x.code := by
  rw [Ctl.mode, Ctl.setMode_eq, Ctl.get_set_same]
  cases x <;> rfl

theorem Ctl.inMode_setMode (m : Ctl) (x : Mode) (hrun : m.power = .run) : (m.setMode x).inMode [x] = true := by
  have hmode := m.mode_setMode x
  have hpower : (m.setMode x).power = .run := hrun
  simp [Ctl.inMode, hmode, hpower]

/-- From READY the mode follows the links (R378). -/
theorem Ctl.mode_readyOrActive_ready (h : m.inMode [.ready] = true) :
    m.readyOrActive.mode = if m.anyLink then Mode.active.code else Mode.ready.code := by
  cases hlink : m.anyLink with
  | true => exact Ctl.mode_readyOrActive_up (Ctl.inMode_mono h (by decide)) hlink
  | false =>
    have hactive : m.inMode [.active] = false := Ctl.inMode_disjoint h (by decide)
    simpa [Ctl.readyOrActive, hlink, hactive] using Ctl.mode_of_inMode h

theorem Ctl.Shows.readyOrActive (m : Ctl) : m.Shows m.readyOrActive [F.GL_MODE_PREV, F.GL_MODE_STATE] := by
  unfold Ctl.readyOrActive
  split
  · exact .setMode _ _
  · split
    · exact .setMode _ _
    · exact (Shows.refl m).mono (by simp)

/-! ## Ports and links that trained early -/

theorem Ctl.Shows.heldPortUp (m : Ctl) (p : Port) : m.Shows (m.heldPortUp p) [F.PA_STATUS_LINK] := by
  unfold Ctl.heldPortUp
  split
  · exact .set m _ _ p.copy_lt
  · exact (Shows.refl m).mono (by simp)

theorem Ctl.link_heldPortUp_same (m : Ctl) (p : Port) :
    (m.heldPortUp p).link p = if m.link p = 1 ∧ m.get F.PA_STATUS_GROUPS p.idx ≠ 0 then 2 else m.link p := by
  unfold Ctl.heldPortUp
  simp only [Bool.and_eq_true, decide_eq_true_eq, bne_iff_ne]
  split
  · rw [Ctl.link, Ctl.get_set_same]
    rfl
  · rfl

theorem Ctl.link_heldPortUp_other (m : Ctl) {p q : Port} (h : q.idx ≠ p.idx) : (m.heldPortUp p).link q = m.link q := by
  have hkey : fkey F.PA_STATUS_LINK q.idx ≠ fkey F.PA_STATUS_LINK p.idx := by
    unfold fkey
    omega
  unfold Ctl.heldPortUp
  split
  · exact Ctl.get_set_other _ _ _ _ _ _ hkey
  · rfl

theorem Ctl.ShowsLinks.heldLinkUp (m : Ctl) {i : Nat} (hi : i < 1048576) :
    m.ShowsLinks (m.heldLinkUp i) [F.PL_PHY_STATUS_STATE, F.PL_PHY_STATUS_STEP] := by
  unfold Ctl.heldLinkUp
  split
  · have hshows : m.Shows ((m.set F.PL_PHY_STATUS_STATE i 2).set F.PL_PHY_STATUS_STEP i 0) [F.PL_PHY_STATUS_STATE, F.PL_PHY_STATUS_STEP] :=
      (Shows.set m _ _ hi).trans (.set _ _ _ hi)
    have hup : ((m.set F.PL_PHY_STATUS_STATE i 2).set F.PL_PHY_STATUS_STEP i 0).plUp i = true := by
      rw [Ctl.plUp, Ctl.get_set_fld _ _ (by decide) hi hi, Ctl.get_set_same]
      rfl
    obtain ⟨ls, hsent, -⟩ := Ctl.sendId_up hup
    generalize (m.set F.PL_PHY_STATUS_STATE i 2).set F.PL_PHY_STATUS_STEP i 0 = x at hshows hsent ⊢
    rw [hsent]
    exact ⟨hshows.keeps.trans (.of_flds rfl), by rw [hshows.same]⟩
  · exact ((Shows.refl m).mono (by simp)).withLinks

/-- What trained early comes up with READY, and the mode follows the links (R404). -/
def Ctl.heldUp (m : Ctl) : Ctl := (((m.heldPortUp .a).heldPortUp .b).heldLinkUp 0).heldLinkUp 1

/-- The fields that show it. -/
def heldUpFlds : List Fld := [F.PA_STATUS_LINK, F.PL_PHY_STATUS_STATE, F.PL_PHY_STATUS_STEP]

theorem Ctl.ShowsLinks.heldUp (m : Ctl) : m.ShowsLinks m.heldUp heldUpFlds := by
  have h := (((Shows.heldPortUp m .a).trans (.heldPortUp _ .b)).withLinks.trans (.heldLinkUp _ (i := 0) (by decide))).trans
    (.heldLinkUp _ (i := 1) (by decide))
  exact ⟨fun f i hi hf => h.keeps f i hi (by simp [heldUpFlds] at hf ⊢; tauto), h.same⟩

theorem Ctl.link_heldUp (m : Ctl) (p : Port) :
    m.heldUp.link p = if m.link p = 1 ∧ m.get F.PA_STATUS_GROUPS p.idx ≠ 0 then 2 else m.link p := by
  obtain ⟨k, hk⟩ : ∃ k, k = (m.heldPortUp .a).heldPortUp .b := ⟨_, rfl⟩
  have hlinks : m.heldUp.link p = k.link p := by
    have hrest := (ShowsLinks.heldLinkUp k (i := 0) (by decide)).trans (.heldLinkUp _ (i := 1) (by decide))
    rw [hk] at hrest ⊢
    exact hrest.keeps F.PA_STATUS_LINK _ p.copy_lt (by decide)
  have hgroups : (m.heldPortUp .a).get F.PA_STATUS_GROUPS p.idx = m.get F.PA_STATUS_GROUPS p.idx :=
    (Shows.heldPortUp m .a).keeps _ _ p.copy_lt (by decide)
  rw [hlinks, hk]
  cases p with
  | a => rw [Ctl.link_heldPortUp_other _ (by decide), Ctl.link_heldPortUp_same]
  | b => rw [Ctl.link_heldPortUp_same, Ctl.link_heldPortUp_other _ (by decide), hgroups]

/-! ## Training of the bundles -/

/-- A bundle that has already taken its mode is left as it is (R15, R16). -/
theorem Ctl.retrainPc_done {p : Nat} (hdead : (m.pc p).tsv.dead = false)
    (hhalf : (m.pc p).tsv.badHalf.length = 1 → m.narrow p = true) : m.retrainPc p = m := by
  unfold Ctl.retrainPc
  simp only [hdead, Bool.false_eq_true, if_false]
  split
  · next hone => rw [if_pos (hhalf (by rw [hone]; rfl))]
  · rfl

/-- The state as training ends with nothing found: READY, and what follows from it. -/
def Ctl.trained (m : Ctl) : Ctl := ({ m.setMode .ready with absent := 0, lost := 0 } : Ctl).heldUp.readyOrActive

theorem Ctl.ShowsLinks.trained (m : Ctl) : ({ m with absent := 0, lost := 0 } : Ctl).ShowsLinks m.trained
    [F.GL_MODE_STATE, F.GL_MODE_PREV, F.PA_STATUS_LINK, F.PL_PHY_STATUS_STATE, F.PL_PHY_STATUS_STEP] := by
  have h := ((Shows.setMode { m with absent := 0, lost := 0 } .ready).withLinks.trans (.heldUp _)).trans
    (Shows.readyOrActive _).withLinks
  exact ⟨fun f i hi hf => h.keeps f i hi (by simp [heldUpFlds] at hf ⊢; tauto), h.same⟩

theorem Ctl.link_trained (m : Ctl) (p : Port) :
    m.trained.link p = if m.link p = 1 ∧ m.get F.PA_STATUS_GROUPS p.idx ≠ 0 then 2 else m.link p := by
  obtain ⟨k, hk⟩ : ∃ k : Ctl, k = { m.setMode .ready with absent := 0, lost := 0 } := ⟨_, rfl⟩
  have hkeeps : m.KeepsBut k [F.GL_MODE_PREV, F.GL_MODE_STATE] := by
    rw [hk]
    exact (Shows.setMode m .ready).keeps
  rw [Ctl.trained, ← hk, Ctl.link, (Shows.readyOrActive k.heldUp).keeps _ _ p.copy_lt (by decide), ← Ctl.link, Ctl.link_heldUp,
    Ctl.link, hkeeps _ _ p.copy_lt (by decide), hkeeps _ _ p.copy_lt (by decide), ← Ctl.link]

theorem Ctl.mode_trained (m : Ctl) (hrun : m.power = .run) :
    m.trained.mode = if m.trained.anyLink then Mode.active.code else Mode.ready.code := by
  obtain ⟨k, hk⟩ : ∃ k : Ctl, k = { m.setMode .ready with absent := 0, lost := 0 } := ⟨_, rfl⟩
  have hready : k.heldUp.inMode [.ready] = true := by
    have hup := ShowsLinks.heldUp k
    have hmode : k.heldUp.mode = k.mode := hup.keeps _ _ (by decide) (by decide)
    have hpower : k.heldUp.power = k.power := by rw [hup.same]
    rw [Ctl.inMode, hmode, hpower, hk]
    exact Ctl.inMode_setMode m .ready hrun
  have hany : k.heldUp.readyOrActive.anyLink = k.heldUp.anyLink :=
    (Shows.readyOrActive k.heldUp).keeps.anyLink (by decide) (by decide)
  rw [Ctl.trained, ← hk, hany]
  exact Ctl.mode_readyOrActive_ready hready

/-- TSV_TRAINING of bundles that have taken their modes, after a power-on reset. -/
theorem exec_tsvTraining {s : State} (hmode : s.ctl.inMode [.training] = true) (hfull : s.ctl.bistShort = false)
    (hdone : ∀ p < 64, (s.ctl.pc p).tsv.dead = false ∧ ((s.ctl.pc p).tsv.badHalf.length = 1 → s.ctl.narrow p = true)) :
    exec (.tsvTraining [] []) s = .next (run s fun _ m => m.trained) := by
  have hfold : (List.range 64).foldl Ctl.retrainPc s.ctl.fresh = s.ctl.fresh := foldl_same fun p hp => by
    obtain ⟨hdead, hhalf⟩ := hdone p (List.mem_range.mp hp)
    exact Ctl.retrainPc_done (m := s.ctl.fresh) hdead hhalf
  have hfull' : s.ctl.fresh.bistShort = false := hfull
  refine congrArg Host.Outcome.next (run_congr ?_)
  rw [if_pos (show s.ctl.fresh.inMode [.training] = true from hmode), hfold]
  simp only [List.foldl_nil, hfull', Bool.false_eq_true, if_false]
  rfl

end

end Sys2Proof.Machine

namespace Sys2Proof.StartUp

open Sys2Proof.Machine

/-- Settles O10: every bundle keeps its mode, and what trained early comes up as the mode becomes READY. -/
theorem tsvTraining : Obligations.TsvTraining := by
  unfold Obligations.TsvTraining
  intro s hq hmode hfull hdone
  obtain ⟨t, ht, hends, hget⟩ := exec_of_showsLinks (m := { s.ctl with absent := 0, lost := 0 }) (exec_tsvTraining hmode hfull hdone) rfl
    (.trained s.ctl.fresh) hq rfl rfl rfl rfl
  have hany : t.ctl.anyLink = s.ctl.fresh.trained.anyLink :=
    Ctl.anyLink_congr (fun q => hget _ _ (by decide) q.copy_lt) (hget _ _ (by decide) (by decide))
  refine ⟨t, ht, hends, ?_, fun p => ?_⟩
  · rw [hany]
    exact (hget F.GL_MODE_STATE 0 (by decide) (by decide)).trans (Ctl.mode_trained _ (by simpa [Ctl.alive] using Ctl.alive_of_inMode hmode))
  · exact (hget F.PA_STATUS_LINK _ (by decide) p.copy_lt).trans (Ctl.link_trained s.ctl.fresh p)

end Sys2Proof.StartUp
end

section
/-!
Wipes of the array, and what JTAG does (R431, R456, R457, R472).
-/

namespace Sys2Proof.Machine

/-! ## A wipe -/

section
variable {a : Arr} {lo hi x : Nat}

/-- A wipe that touches no row of a save, or all of them, lists nothing of its rows. -/
theorem Arr.wipe_eq (h : (∀ k, lo ≤ k → k < hi → imageRow k = false) ∨ lo = 0 ∧ 1024 * 8272 ≤ hi) :
    a.wipe lo hi = a.keepRows (fun k => decide (k < lo) || decide (hi ≤ k)) (a.image && !(lo == 0 && decide (1024 * 8272 ≤ hi))) := by
  unfold Arr.wipe
  dsimp only
  split
  · next himage =>
    have hsome : ¬ (lo = 0 ∧ 1024 * 8272 ≤ hi) := by
      rintro ⟨rfl, hhi⟩
      simp [hhi] at himage
    have hnone : ((List.range (hi - lo)).map (· + lo)).filter imageRow = [] := by
      rw [List.filter_eq_nil_iff]
      intro k hk
      obtain ⟨j, hj, rfl⟩ := List.mem_map.mp hk
      have hlt := List.mem_range.mp hj
      simp [(h.resolve_right hsome) (j + lo) (by omega) (by omega)]
    rw [hnone, List.foldl_nil]
  · rfl

/-- Of the rows that are wiped every byte reads 0. -/
theorem Arr.byte_wipe_inside (h : (∀ k, lo ≤ k → k < hi → imageRow k = false) ∨ lo = 0 ∧ 1024 * 8272 ≤ hi)
    (hlo : lo ≤ x / 1152) (hhi : x / 1152 < hi) : (a.wipe lo hi).byte x = 0 := by
  have hgone : (decide (x / 1152 < lo) || decide (hi ≤ x / 1152)) = false := by simp [hlo, hhi]
  have hbg : (a.keepRows (fun k => decide (k < lo) || decide (hi ≤ k)) (a.image && !(lo == 0 && decide (1024 * 8272 ≤ hi)))).bg x = 0 := by
    rcases h with h | ⟨rfl, hall⟩
    · exact Arr.bg_far _ (h _ hlo hhi)
    · exact Arr.bg_plain (by simp [Arr.keepRows, hall]) x
  rw [Arr.wipe_eq h, Arr.byte, hbg, Sparse.getD, Arr.keepRows]
  rw [Sparse.find_filter a.mem (fun k => decide (k / 1152 < lo) || decide (hi ≤ k / 1152)), hgone]
  rfl

/-- Every other byte reads as before. -/
theorem Arr.byte_wipe_outside (h : ∀ k, lo ≤ k → k < hi → imageRow k = false) (hx : x / 1152 < lo ∨ hi ≤ x / 1152)
    (hpart : ¬ (lo = 0 ∧ 1024 * 8272 ≤ hi)) : (a.wipe lo hi).byte x = a.byte x := by
  have hkept : (decide (x / 1152 < lo) || decide (hi ≤ x / 1152)) = true := by simpa using hx
  have himage : (a.image && !(lo == 0 && decide (1024 * 8272 ≤ hi))) = a.image := by
    have hnot : (lo == 0 && decide (1024 * 8272 ≤ hi)) = false := Bool.eq_false_iff.mpr fun hc => hpart (by simpa using hc)
    simp [hnot]
  rw [Arr.wipe_eq (.inl h), himage, Arr.byte, Arr.byte, Sparse.getD, Sparse.getD, Arr.keepRows]
  rw [Sparse.find_filter a.mem (fun k => decide (k / 1152 < lo) || decide (hi ≤ k / 1152)), hkept]
  rfl

end

/-- The next state of a command whose effect, the state `x`, leaves no request waiting and raises no fault. -/
theorem exec_of_edits {s : State} {c : Instr} {g : Arr → Ctl → Ctl} {x : Ctl} (hc : exec c s = .next (run s g))
    (hx : g s.arr s.ctl.fresh = x) (hq : x.Quiet) (hr : x.raised = []) : ∃ t, exec c s = .next t ∧ t.pending = s.pending ∧
      t.arr = s.arr.applyAll x.edits ∧ t.ctl.rest = x.rest ∧
      ∀ f i, f.id ≠ F.FLT_STATUS_FAULTN.id → i < 1048576 → t.ctl.get f i = x.get f i := by
  have hsettle : (g s.arr s.ctl.fresh).settle s.arr = x.drive := by rw [hx, Ctl.settle_quiet hq hr]
  refine ⟨_, hc, rfl, ?_, ?_, fun f i hf hi => ?_⟩
  · rw [run, hsettle, Ctl.edits_drive]
  · rw [run, hsettle]
    exact Ctl.rest_of_drive x
  · rw [run, hsettle]
    exact (Ctl.get_congr rfl f i).trans (Ctl.get_drive x f i (fkey_ne hf hi (by decide)))

/-! ## JTAG -/

section
variable {s : State}

/-- A latched factory request after a later instruction (R456). -/
def Ctl.factoryReqLater (m : Ctl) : Bool := if m.get F.BIST_STATUS_WIPING = 0 then false else m.factoryReq

theorem Ctl.jtagLater_eq (m : Ctl) : m.jtagLater = { m with factoryReq := m.factoryReqLater } := by
  unfold Ctl.jtagLater Ctl.factoryReqLater Ctl.is
  by_cases h : m.get F.BIST_STATUS_WIPING = 0 <;> simp [h]

/-- An instruction that is answered and changes no more than the latched request. -/
theorem exec_of_jtag {c : Instr} {g : Arr → Ctl → Ctl} {o : Out} (hc : exec c s = .next (run s g))
    (hx : g s.arr s.ctl.fresh = s.ctl.fresh.jtagLater.emit o) (hq : s.ctl.Quiet) : ∃ t, exec c s = .next t ∧
      Ends s t [] { s.ctl with factoryReq := s.ctl.factoryReqLater } ∧ t.ctl.out = [o] := by
  rw [Ctl.jtagLater_eq] at hx
  obtain ⟨t, ht, hends, hout, -⟩ := exec_of_sends (m := { s.ctl with factoryReq := s.ctl.factoryReqLater }) hc hx (.emit _ o) hq rfl rfl rfl
    rfl
  exact ⟨t, ht, hends, hout⟩

theorem exec_factoryReq (hq : s.ctl.Quiet) (hrun : s.ctl.power = .run) (hmode : s.ctl.inMode [.factory] = false) :
    ∃ t, exec .factoryReq s = .next t ∧ Ends s t [(F.BIST_STATUS_WIPING, 0)] { s.ctl with factoryReq := true } ∧
      (s.ctl.inMode [.selftest] = true → t.ctl.get F.BIST_STATUS_WIPING = 1) := by
  obtain ⟨n, hn⟩ : ∃ n : Ctl, n = { s.ctl.fresh with factoryReq := true } := ⟨_, rfl⟩
  obtain ⟨x, hx⟩ : ∃ x, x = if n.inMode [.selftest] then n.put F.BIST_STATUS_WIPING 1 else n := ⟨_, rfl⟩
  have heffect : (if !s.ctl.fresh.alive || s.ctl.fresh.inMode [.factory] then s.ctl.fresh else
      (let m : Ctl := { s.ctl.fresh with factoryReq := true }
      if m.inMode [.selftest] then m.put F.BIST_STATUS_WIPING 1 else m)) = x := by
    rw [hx, hn]
    have halive : s.ctl.fresh.alive = true := decide_eq_true hrun
    have hmode' : s.ctl.fresh.inMode [.factory] = false := hmode
    rw [halive, hmode']
    rfl
  have honly : n.OnlyFlds x [(F.BIST_STATUS_WIPING, 0)] := by
    rw [hx]
    split
    · exact .set _ _ _ _
    · exact (Ctl.OnlyFlds.refl n).mono (by simp)
  obtain ⟨t, ht, hends, hget⟩ := exec_of_onlyFlds (c := .factoryReq) (n := n) (m := { s.ctl with factoryReq := true }) rfl heffect honly
    (by rw [hn]; exact hq) (by rw [hn]; rfl) (by rw [hn]; rfl) (by rw [hn]; rfl) (by rw [hn]; rfl)
  refine ⟨t, ht, hends, fun hself => (hget _ _ (by decide) (by decide)).trans ?_⟩
  have hself' : n.inMode [.selftest] = true := by rw [hn]; exact hself
  rw [hx, if_pos hself', Ctl.get_put_same]
  rfl

/-- One more bit of a fuse word programmed (R431). -/
def Ctl.withFuseBit (m : Ctl) (n b : Nat) : Ctl :=
  let w := fuseAt m.fuse n
  { m with fuse := Sparse.put m.fuse n { w with extra := w.extra ++ [b] } }

theorem exec_fuseBitProgram {word : Fin 1024} {b : Fin 64} (hq : s.ctl.Quiet) (hmode : s.ctl.inMode [.factory] = true)
    (hclear : s.ctl.fuseBitSet word.val b.val = false) : ∃ t, exec (.fuseBitProgram word b) s = .next t ∧
      Ends s t [] (s.ctl.withFuseBit word.val b.val) := by
  have halive : s.ctl.fresh.alive = true := Ctl.alive_of_inMode (m := s.ctl) hmode
  have hmode' : s.ctl.fresh.inMode [.factory] = true := hmode
  have hclear' : s.ctl.fresh.fuseBitSet word.val b.val = false := hclear
  refine exec_of_change (c := .fuseBitProgram word b) (n := s.ctl.fresh.withFuseBit word.val b.val) rfl ?_ hq rfl rfl rfl rfl
  rw [halive, hmode', hclear']
  rfl

theorem exec_jtagInject {source : BitVec 9} (hq : s.ctl.Quiet) (hmode : s.ctl.inMode [.factory] = true)
    (hsource : sources.contains source.toNat = true) (hcalm : s.ctl.Calm source.toNat) :
    ∃ t, exec (.jtagInject source) s = .next t ∧ EndsRaised s t source.toNat [] s.ctl := by
  have halive : s.ctl.fresh.alive = true := Ctl.alive_of_inMode (m := s.ctl) hmode
  have hmode' : s.ctl.fresh.inMode [.factory] = true := hmode
  obtain ⟨hends, -⟩ := EndsRaised.of_calm s (fun _ m => if !m.alive then m else if m.inMode [.factory] then
      (if sources.contains source.toNat then m.raiseAs source.toNat 0 true else m) else m.bypass) source.toNat 0 true [] s.ctl s.ctl.fresh
    hcalm source.isLt (by rw [halive, hmode', hsource]; rfl) hq rfl rfl (Ctl.SameFlds.refl _ _) (by simp) rfl
  exact ⟨_, rfl, hends⟩

/-! ## The end of a factory wipe -/

/-- What the end of a factory wipe does. -/
def Ctl.wiped (m : Ctl) : Ctl := { (m.wipeSram.wipeAll.put F.BIST_STATUS_WIPING 0).setMode .factory with factoryReq := false }

/-- A PC whose SRAM has been cleared. -/
def Pc.sramCleared (x : Pc) : Pc := { x with curd := [], targets := [], banks := [], ingress := [], queue := [], flights := [] }

/-- A PC whose remap spares hold zeros. -/
def Pc.sparesZeroed (x : Pc) : Pc := { x with spares := x.spares.map fun e => (e.1, { e.2 with data := 0, err := 0, poison := false }) }

section
variable (m : Ctl)

/-- The registers that show the end of the wipe. -/
theorem Ctl.Shows.wipeShown (n : Ctl) : n.Shows ((n.put F.BIST_STATUS_WIPING 0).setMode .factory)
    ([F.BIST_STATUS_WIPING] ++ [F.GL_MODE_PREV, F.GL_MODE_STATE]) :=
  (Shows.put _ _ _).trans (.setMode _ _)

theorem Ctl.wiped_same : m.wiped = { m.wipeSram.wipeAll with flds := m.wiped.flds, factoryReq := false } := by
  have hsame := (Shows.wipeShown m.wipeSram.wipeAll).same
  unfold Ctl.wiped
  generalize (m.wipeSram.wipeAll.put F.BIST_STATUS_WIPING 0).setMode .factory = n at hsame ⊢
  rw [hsame]

theorem Ctl.pcs_wiped :
    m.wiped.pcs = Sparse.mapD (Sparse.mapD m.pcs {} fun _ => Pc.sramCleared) {} fun _ => Pc.sparesZeroed := by
  rw [Ctl.wiped_same]
  rfl

theorem Ctl.rings_wiped : m.wiped.rings = Sparse.mapD m.rings {} fun _ x => { x with pre := [] } := by
  rw [Ctl.wiped_same]
  rfl

/-- What is gone with the wipe, and what stays. -/
theorem Ctl.parts_wiped : m.wiped.factoryReq = false ∧ m.wiped.sesPend = [] ∧ m.wiped.pa = {} ∧ m.wiped.pb = {} ∧
    m.wiped.fuse = m.fuse ∧ m.wiped.rmap = m.rmap := by
  rw [Ctl.wiped_same]
  exact ⟨rfl, rfl, rfl, rfl, rfl, rfl⟩

/-- What else does not change. -/
theorem Ctl.kept_wiped : m.wiped.svc = m.svc ∧ m.wiped.mirs = m.mirs ∧ m.wiped.raised = m.raised ∧
    m.wiped.edits = m.edits ++ [.wipe 0 (16 * 64 * 16 * 8272)] := by
  rw [Ctl.wiped_same]
  exact ⟨rfl, rfl, rfl, rfl⟩

theorem Ctl.pc_wiped (p : Nat) : (m.wiped.pc p).banks = [] ∧ (m.wiped.pc p).queue = [] ∧ (m.wiped.pc p).ingress = [] ∧
    (m.wiped.pc p).curd = [] := by
  rw [Ctl.pc, Ctl.pcs_wiped, Sparse.getD_mapD _ _ _ _ rfl,
    Sparse.getD_mapD _ _ _ _ rfl]
  exact ⟨rfl, rfl, rfl, rfl⟩

theorem Ctl.ring_wiped (r : Nat) : (m.wiped.ring r).pre = [] := by
  rw [Ctl.ring, Ctl.rings_wiped, Sparse.getD_mapD _ _ _ _ rfl]

theorem Ctl.quiet_wiped {m : Ctl} (hq : m.Quiet) : m.wiped.Quiet := by
  obtain ⟨-, -, hreqs, hcode, hstale⟩ := hq
  obtain ⟨-, -, hpa, hpb, -, -⟩ := m.parts_wiped
  obtain ⟨hsvc, hmirs, -, -⟩ := m.kept_wiped
  refine ⟨by rw [hpa], by rw [hpb], by rw [hsvc, hreqs], fun e he => ?_, by rw [hmirs]; exact hstale⟩
  rw [Ctl.pcs_wiped] at he
  obtain ⟨e', he', rfl⟩ := Sparse.mem_mapD he
  obtain ⟨e'', he'', rfl⟩ := Sparse.mem_mapD he'
  exact hcode e'' he''

/-- The keys of the session contexts are those of their fields. -/
theorem isSesKey_fkey {f : Fld} {i : Nat} (hid : 120 ≤ f.id ∧ f.id ≤ 142) (hi : i < 1048576) : isSesKey (fkey f i) = true := by
  have hdiv : fkey f i / 1048576 = f.id := by
    rw [fkey]
    omega
  simpa [isSesKey, hdiv, F.SES_ACT0_BASE, F.SES_EVENTS_REFUSED] using hid

/-- A field of a session context reads as after reset. -/
theorem Ctl.get_wiped_session {f : Fld} {i : Nat} (hid : 120 ≤ f.id ∧ f.id ≤ 142) (hi : i < 1048576) :
    m.wiped.get f i = f.reset i := by
  have hgone : m.wipeSram.wipeAll.get f i = f.reset i := by
    rw [Ctl.get, show m.wipeSram.wipeAll.flds = m.flds.filter fun e => !isSesKey e.1 from rfl, Sparse.getD,
      Sparse.find_filter m.flds (fun k => !isSesKey k), isSesKey_fkey hid hi]
    rfl
  have hshows := Shows.wipeShown m.wipeSram.wipeAll
  refine (hshows.keeps f i hi ?_).trans hgone
  simp [F.BIST_STATUS_WIPING, F.GL_MODE_PREV, F.GL_MODE_STATE]
  omega

theorem Ctl.mode_wiped : m.wiped.mode = Mode.factory.code :=
  Ctl.mode_setMode (m.wipeSram.wipeAll.put F.BIST_STATUS_WIPING 0) .factory

theorem Ctl.get_wiped_wiping : m.wiped.get F.BIST_STATUS_WIPING = 0 :=
  ((Shows.setMode (m.wipeSram.wipeAll.put F.BIST_STATUS_WIPING 0) .factory).keeps F.BIST_STATUS_WIPING 0 (by decide) (by decide)).trans
    ((Ctl.get_put_same _ _ _).trans rfl)

end

/-- WIPE_COMPLETE in SELFTEST with a wipe under way. -/
theorem exec_wipeComplete (hq : s.ctl.Quiet) (hmode : s.ctl.inMode [.selftest] = true) (hwiping : s.ctl.get F.BIST_STATUS_WIPING = 1) :
    ∃ t, exec .wipeComplete s = .next t ∧ t.pending = s.pending ∧ t.arr = s.arr.wipe 0 (16 * 64 * 16 * 8272) ∧
      t.ctl.rest = s.ctl.fresh.wiped.rest ∧
      ∀ f i, f.id ≠ F.FLT_STATUS_FAULTN.id → i < 1048576 → t.ctl.get f i = s.ctl.fresh.wiped.get f i := by
  have heffect : (if s.ctl.fresh.inMode [.selftest] && s.ctl.fresh.is F.BIST_STATUS_WIPING then s.ctl.fresh.wiped else s.ctl.fresh) =
      s.ctl.fresh.wiped := by
    refine if_pos (Bool.and_eq_true_iff.mpr ⟨hmode, ?_⟩)
    simp [Ctl.is, hwiping]
  obtain ⟨-, -, hraised, hedits⟩ := s.ctl.fresh.kept_wiped
  have hexec : exec .wipeComplete s =
      .next (run s fun _ m => if m.inMode [.selftest] && m.is F.BIST_STATUS_WIPING then m.wiped else m) := rfl
  obtain ⟨t, ht, hpending, harr, hrest, hget⟩ := exec_of_edits hexec heffect (Ctl.quiet_wiped hq.fresh) hraised
  exact ⟨t, ht, hpending, by rw [harr, hedits]; rfl, hrest, hget⟩

end

end Sys2Proof.Machine

namespace Sys2Proof.SelfTestAndCalibration

open Sys2Proof.Machine

/-- Settles O60: the instructions by whether the stack is in FACTORY, and the end of a wipe by what `Ctl.wiped` leaves. -/
theorem factory : Obligations.Factory := by
  unfold Obligations.Factory
  refine ⟨?_, fun s hq hmode hwiping => ?_⟩
  · intro s word b source later bypassed w hq hrun
    have halive : s.ctl.fresh.alive = true := decide_eq_true hrun
    refine ⟨exec_of_jtag rfl (if_pos halive) hq, exec_of_jtag rfl (if_pos halive) hq, fun hmode => ?_, fun hmode => ?_⟩
    · have hmode' : s.ctl.fresh.inMode [.factory] = false := hmode
      exact ⟨exec_factoryReq hq hrun hmode, exec_of_jtag rfl (by rw [halive, hmode']; rfl) hq,
        exec_of_jtag rfl (by rw [halive, hmode']; rfl) hq⟩
    · exact ⟨exec_fuseBitProgram hq hmode, exec_jtagInject hq hmode⟩
  · obtain ⟨t, ht, hpending, harr, hrest, hget⟩ := exec_wipeComplete hq hmode hwiping
    have hpart : ∀ {α : Type} (part : Ctl → α), (∀ n : Ctl, part n.rest = part n) → part t.ctl = part s.ctl.fresh.wiped :=
      fun part hp => by rw [← hp t.ctl, hrest, hp]
    obtain ⟨hreq, hpend, hpa, hpb, hfuse, hrmap⟩ := s.ctl.fresh.parts_wiped
    have hmode' := Ctl.mode_wiped s.ctl.fresh
    have hwiping' := Ctl.get_wiped_wiping s.ctl.fresh
    have hses := fun {f : Fld} {i : Nat} => Ctl.get_wiped_session s.ctl.fresh (f := f) (i := i)
    have hpcs := Ctl.pc_wiped s.ctl.fresh
    have hrings := Ctl.ring_wiped s.ctl.fresh
    generalize s.ctl.fresh.wiped = n at *
    refine ⟨t, ht, hpending, (hget _ _ (by decide) (by decide)).trans hmode', (hget _ _ (by decide) (by decide)).trans hwiping',
      (hpart (·.factoryReq) fun _ => rfl).trans hreq, fun a ha => ?_, fun x hx => ⟨?_, ?_⟩, (hpart (·.sesPend) fun _ => rfl).trans hpend,
      (hpart (·.pa) fun _ => rfl).trans hpa, (hpart (·.pb) fun _ => rfl).trans hpb, fun p => ?_, fun r => ?_,
      (hpart (·.fuse) fun _ => rfl).trans hfuse, (hpart (·.rmap) fun _ => rfl).trans hrmap⟩
    · rw [harr]
      exact Arr.byte_wipe_inside (.inr ⟨rfl, by decide⟩) (Nat.zero_le _) (Nat.div_lt_of_lt_mul (by omega))
    · exact (hget _ _ (by decide) (by omega)).trans (hses (by decide) (by omega))
    · exact (hget _ _ (by decide) (by omega)).trans (hses (by decide) (by omega))
    · rw [hpart (·.pc p) fun _ => rfl]
      exact hpcs p
    · rw [hpart (·.ring r) fun _ => rfl]
      exact hrings r

end Sys2Proof.SelfTestAndCalibration
end

section
/-!
Field slices and calibration (R450 to R454, R458, R459).
-/

namespace Sys2Proof.Machine

section
variable {s : State}

/-! ## Calibration -/

/-- A pair of measurements that the calibration takes. -/
def Ctl.TakesPair (m : Ctl) (k : TrimKind) (i : Nat) : Prop :=
  m.inMode [.training, .ready, .active, .drowse] = true ∧ m.get F.CAL_CFG_EN = 1 ∧ m.trimBusy (trimCode k) i = false ∧
    k ≠ .tsvDelay ∧ i < trimCount (trimCode k)

variable {k : TrimKind} {i : Nat} {a b : Int}

/-- What such a pair does. -/
theorem Ctl.calMeasurement_eq {m : Ctl} (h : m.TakesPair k i) :
    (if m.inMode [.training, .ready, .active, .drowse] && m.is F.CAL_CFG_EN && !m.trimBusy (trimCode k) i then
      m.calibrate (trimCode k) i a b else m) =
    if m.agree a b then m.aim (trimCode k) i (m.trim (trimCode k) i) (pairMean (m.trim (trimCode k) i).cur a b)
      else m.disagree (trimCode k) i := by
  obtain ⟨hmode, hon, hbusy, hkind, hcount⟩ := h
  have hlane : trimCode k ≠ 3 := by cases k <;> simp_all [trimCode]
  have hgauge : trimCode k ≠ 6 := by cases k <;> simp [trimCode]
  rw [if_pos (by simp [hmode, hbusy, Ctl.is, hon]), Ctl.calibrate, if_neg hlane, if_neg (by omega), if_neg hgauge]
  cases m.agree a b <;> rfl

/-- The next state of a pair that the calibration takes. -/
theorem exec_calMeasurement (h : s.ctl.TakesPair k i) : exec (.calMeasurement k i a b) s = .next (run s fun _ m =>
    if m.agree a b then m.aim (trimCode k) i (m.trim (trimCode k) i) (pairMean (m.trim (trimCode k) i).cur a b)
    else m.disagree (trimCode k) i) :=
  congrArg Host.Outcome.next (run_congr (Ctl.calMeasurement_eq (m := s.ctl.fresh) h))

/-- A target within the converter's range. -/
theorem Ctl.aim_within {m : Ctl} {n i : Nat} {lo hi v : Int} (hrange : trimRange n = some (lo, hi)) (hlo : lo ≤ v) (hhi : v ≤ hi)
    (x : Trim) : m.aim n i x v = m.setTrim n i { x with target := v, bads := 0, held := false } := by
  have hclamp : max lo (min hi v) = v := by omega
  simp only [Ctl.aim, hrange, hclamp, if_true]

/-- A target above it. -/
theorem Ctl.aim_above {m : Ctl} {n i : Nat} {lo hi v : Int} (hrange : trimRange n = some (lo, hi)) (hlo : lo ≤ hi) (hhi : hi < v)
    (x : Trim) : m.aim n i x v =
      ((m.setTrim n i { x with target := hi, bads := 0, held := false }).bump F.CAL_STATUS_CLAMPS).raise 0x075 (calInfo n i) := by
  have hclamp : max lo (min hi v) = hi := by omega
  simp only [Ctl.aim, hrange, hclamp, if_neg (show ¬ hi = v by omega)]

/-- The ranges are not empty. -/
theorem trimRange_le {n : Nat} {lo hi : Int} (h : trimRange n = some (lo, hi)) : lo ≤ hi := by
  unfold trimRange at h
  split at h <;> simp_all <;> omega

/-- A pair that does not agree, before the sixteenth in a row. -/
theorem Ctl.disagree_more {m : Ctl} {n i : Nat} (h : (m.trim n i).bads < 15) : m.disagree n i =
    (m.setTrim n i { m.trim n i with bads := (m.trim n i).bads + 1 }).bump F.CAL_STATUS_DISAGREE := by
  have hcount : min ((m.trim n i).bads + 1) 17 = (m.trim n i).bads + 1 := by omega
  simp only [Ctl.disagree, hcount, if_neg (show ¬ (m.trim n i).bads + 1 = 16 by omega)]
  rfl

/-- The sixteenth in a row. -/
theorem Ctl.disagree_last {m : Ctl} {n i : Nat} (h : (m.trim n i).bads = 15) : m.disagree n i =
    (((m.setTrim n i { m.trim n i with bads := 16, held := true, target := (m.trim n i).cur }).bump F.CAL_STATUS_DISAGREE).bump
      F.CAL_STATUS_UNSTABLE).raise 0x074 (calInfo n i) := by
  simp only [Ctl.disagree, h]
  rfl

theorem Ctl.get_bump_fld (m : Ctl) {f g : Fld} (hid : g.id ≠ f.id) : (m.bump f).get g = m.get g :=
  m.get_set_fld _ hid (by decide) (by decide)

theorem Ctl.OnlyFlds.bump (m : Ctl) (f : Fld) (i : Nat) : m.OnlyFlds (m.bump f i) [(f, i)] := .set m f i _

/-- A pair that agrees within the converter's range. -/
theorem exec_calMeasurement_within {lo hi : Int} (h : s.ctl.TakesPair k i) (hq : s.ctl.Quiet) (hagree : s.ctl.agree a b = true)
    (hrange : trimRange (trimCode k) = some (lo, hi)) {v : Int} (hv : pairMean (s.ctl.trim (trimCode k) i).cur a b = v)
    (hlo : lo ≤ v) (hhi : v ≤ hi) : ∃ t, exec (.calMeasurement k i a b) s = .next t ∧
      Ends s t [] (s.ctl.setTrim (trimCode k) i { s.ctl.trim (trimCode k) i with target := v, bads := 0, held := false }) := by
  subst hv
  exact exec_of_change (exec_calMeasurement h) ((if_pos hagree).trans (Ctl.aim_within (m := s.ctl.fresh) hrange hlo hhi _)) hq rfl rfl
    rfl rfl

/-- A pair that agrees above it. -/
theorem exec_calMeasurement_above {lo hi : Int} (h : s.ctl.TakesPair k i) (hq : s.ctl.Quiet) (hagree : s.ctl.agree a b = true)
    (hrange : trimRange (trimCode k) = some (lo, hi)) (hhi : hi < pairMean (s.ctl.trim (trimCode k) i).cur a b)
    (hcalm : s.ctl.Calm 0x075) : ∃ t, exec (.calMeasurement k i a b) s = .next t ∧
      EndsRaised s t 0x075 [(F.CAL_STATUS_CLAMPS, 0)]
        (s.ctl.setTrim (trimCode k) i { s.ctl.trim (trimCode k) i with target := hi, bads := 0, held := false }) ∧
      t.ctl.get F.CAL_STATUS_CLAMPS = min (s.ctl.get F.CAL_STATUS_CLAMPS + 1) (2 ^ F.CAL_STATUS_CLAMPS.width - 1) := by
  obtain ⟨t, ht, hends, hget⟩ := exec_of_raise
    (m := s.ctl.setTrim (trimCode k) i { s.ctl.trim (trimCode k) i with target := hi, bads := 0, held := false })
    (exec_calMeasurement h) ((if_pos hagree).trans (Ctl.aim_above (m := s.ctl.fresh) hrange (trimRange_le hrange) hhi _)) (.bump _ _ 0) hq
    rfl rfl rfl rfl hcalm (by decide) (by decide)
  exact ⟨t, ht, hends, (hget _ _ (by decide) (by decide)).trans (Ctl.get_bump_same _ _ _)⟩

/-- A pair that does not agree, before the sixteenth in a row. -/
theorem exec_calMeasurement_apart (h : s.ctl.TakesPair k i) (hq : s.ctl.Quiet) (hagree : s.ctl.agree a b = false)
    (hbads : (s.ctl.trim (trimCode k) i).bads < 15) : ∃ t, exec (.calMeasurement k i a b) s = .next t ∧
      Ends s t [(F.CAL_STATUS_DISAGREE, 0)] (s.ctl.setTrim (trimCode k) i
        { s.ctl.trim (trimCode k) i with bads := (s.ctl.trim (trimCode k) i).bads + 1 }) ∧
      t.ctl.get F.CAL_STATUS_DISAGREE = min (s.ctl.get F.CAL_STATUS_DISAGREE + 1) (2 ^ F.CAL_STATUS_DISAGREE.width - 1) := by
  obtain ⟨t, ht, hends, hget⟩ := exec_of_onlyFlds (m := s.ctl.setTrim (trimCode k) i
      { s.ctl.trim (trimCode k) i with bads := (s.ctl.trim (trimCode k) i).bads + 1 })
    (exec_calMeasurement h) ((if_neg (Bool.eq_false_iff.mp hagree)).trans (Ctl.disagree_more (m := s.ctl.fresh) hbads))
    (.bump _ _ 0) hq rfl rfl rfl rfl
  exact ⟨t, ht, hends, (hget _ _ (by decide) (by decide)).trans (Ctl.get_bump_same _ _ _)⟩

/-- The sixteenth in a row holds the trim. -/
theorem exec_calMeasurement_held (h : s.ctl.TakesPair k i) (hq : s.ctl.Quiet) (hagree : s.ctl.agree a b = false)
    (hbads : (s.ctl.trim (trimCode k) i).bads = 15) (hcalm : s.ctl.Calm 0x074) :
    ∃ t, exec (.calMeasurement k i a b) s = .next t ∧
      EndsRaised s t 0x074 [(F.CAL_STATUS_DISAGREE, 0), (F.CAL_STATUS_UNSTABLE, 0)] (s.ctl.setTrim (trimCode k) i
        { s.ctl.trim (trimCode k) i with bads := 16, held := true, target := (s.ctl.trim (trimCode k) i).cur }) ∧
      t.ctl.get F.CAL_STATUS_UNSTABLE = min (s.ctl.get F.CAL_STATUS_UNSTABLE + 1) (2 ^ F.CAL_STATUS_UNSTABLE.width - 1) := by
  obtain ⟨x, hx⟩ : ∃ x : Trim, x = { s.ctl.trim (trimCode k) i with bads := 16, held := true, target := (s.ctl.trim (trimCode k) i).cur } :=
    ⟨_, rfl⟩
  rw [← hx]
  obtain ⟨t, ht, hends, hget⟩ := exec_of_raise (n := s.ctl.fresh.setTrim (trimCode k) i x) (m := s.ctl.setTrim (trimCode k) i x)
    (exec_calMeasurement h)
    ((if_neg (Bool.eq_false_iff.mp hagree)).trans (hx ▸ Ctl.disagree_last (m := s.ctl.fresh) hbads)) ((Ctl.OnlyFlds.bump _ _ 0).trans
      (.bump _ _ 0)) hq rfl rfl rfl rfl hcalm (by decide) (by decide)
  refine ⟨t, ht, hends, (hget _ _ (by decide) (by decide)).trans ((Ctl.get_bump_same _ _ _).trans ?_)⟩
  rw [Ctl.get_bump_fld _ (by decide)]
  rfl

/-! ## The slices that come due, begin and pass -/

/-- A slice of the strobe group whose turn it is comes due. -/
theorem exec_fieldSliceDue (hq : s.ctl.Quiet) (hmode : s.ctl.inMode [.ready, .active, .drowse] = true)
    (hbudget : s.ctl.get F.BIST_CFG_BUDGET ≠ 0) (hdue : s.ctl.sliceBnd + 2 ^ s.ctl.get F.BIST_CFG_INTERVAL ≤ s.ctl.bnd)
    (hdark : s.ctl.dark (s.ctl.sliceNo % 64) = false) (hgroup : s.ctl.sliceNo / 64 % 6 < 4)
    (hused : s.ctl.groupUsed (s.ctl.sliceNo % 64) (s.ctl.sliceNo / 64 % 6) = true) : ∃ t, exec .fieldSliceDue s = .next t ∧
      Ends s t [] { s.ctl with sliceNo := s.ctl.sliceNo + 1, sliceBnd := s.ctl.bnd, sliceDue := s.ctl.sliceDue ++
        [{ kind := 1, pc := s.ctl.sliceNo % 64, group := s.ctl.sliceNo / 64 % 6, budget := min 64 (s.ctl.get F.BIST_CFG_BUDGET) }] } := by
  obtain ⟨n, hn⟩ : ∃ n : Ctl, n = { s.ctl.fresh with sliceNo := s.ctl.sliceNo + 1, sliceBnd := s.ctl.bnd } := ⟨_, rfl⟩
  have hdark' : n.dark (s.ctl.sliceNo % 64) = false := by rw [hn]; exact hdark
  have hused' : n.groupUsed (s.ctl.sliceNo % 64) (s.ctl.sliceNo / 64 % 6) = true := by rw [hn]; exact hused
  refine exec_of_change (n := { n with sliceDue := n.sliceDue ++ [{ kind := 1, pc := s.ctl.sliceNo % 64, group := s.ctl.sliceNo / 64 % 6, budget := n.sliceBudget }] }) rfl ?_
    (by rw [hn]; exact hq) (by rw [hn]; rfl) (by rw [hn]; rfl) (by rw [hn]; rfl) (by rw [hn]; rfl)
  have hon : (s.ctl.fresh.sliceRuns && s.ctl.fresh.fieldOn &&
      decide (s.ctl.fresh.sliceBnd + 2 ^ s.ctl.fresh.get F.BIST_CFG_INTERVAL ≤ s.ctl.fresh.bnd)) = true := by
    have hruns : s.ctl.fresh.sliceRuns = true := hmode
    have hfield : s.ctl.fresh.fieldOn = true := by simp [Ctl.fieldOn, hbudget]
    rw [hruns, hfield]
    exact decide_eq_true hdue
  subst hn
  exact (if_pos hon).trans ((if_neg (Bool.eq_false_iff.mp hdark')).trans ((if_neg (show ¬ s.ctl.sliceNo / 64 % 6 = 4 by omega)).trans
    ((if_neg (show ¬ s.ctl.sliceNo / 64 % 6 = 5 by omega)).trans (if_pos hused'))))

variable {z : Slice} {found : List SliceFind}

/-- The fields that show the slice begun last. -/
def curFlds : List (Fld × Nat) :=
  [(F.BIST_FIELD_CUR_ACTIVE, 0), (F.BIST_FIELD_CUR_KIND, 0), (F.BIST_FIELD_CUR_PC, 0), (F.BIST_FIELD_CUR_DIE, 0),
    (F.BIST_FIELD_CUR_BANK, 0), (F.BIST_FIELD_CUR_GROUP, 0), (F.BIST_FIELD_CUR_ROW, 0)]

/-- A slice that begins is shown, with its kind and its PC. -/
theorem Ctl.beginSlice_effect (m : Ctl) (z : Slice) :
    ({ m with slices := m.slices ++ [z] } : Ctl).OnlyFlds (m.beginSlice z) curFlds ∧ (m.beginSlice z).get F.BIST_FIELD_CUR_ACTIVE = 1 ∧
    (m.beginSlice z).get F.BIST_FIELD_CUR_KIND = z.kind % 2 ^ F.BIST_FIELD_CUR_KIND.width ∧
    (m.beginSlice z).get F.BIST_FIELD_CUR_PC = z.pc % 2 ^ F.BIST_FIELD_CUR_PC.width := by
  obtain ⟨n, hn⟩ : ∃ n : Ctl, n = { m with slices := m.slices ++ [z] } := ⟨_, rfl⟩
  have hdef : m.beginSlice z = ((((((n.put F.BIST_FIELD_CUR_ACTIVE 1).put F.BIST_FIELD_CUR_KIND z.kind).put F.BIST_FIELD_CUR_PC z.pc).put
      F.BIST_FIELD_CUR_DIE z.die).put F.BIST_FIELD_CUR_BANK z.bank).put F.BIST_FIELD_CUR_GROUP z.group).put F.BIST_FIELD_CUR_ROW z.row := by
    rw [hn]
    rfl
  rw [hdef, ← hn]
  refine ⟨((((((Ctl.OnlyFlds.set n _ _ _).trans (.set _ _ _ _)).trans (.set _ _ _ _)).trans (.set _ _ _ _)).trans (.set _ _ _ _)).trans
    (.set _ _ _ _)).trans (.set _ _ _ _), ?_, ?_, ?_⟩
  · iterate 6 rw [Ctl.get_put_fld _ _ (by decide)]
    exact Ctl.get_put_same _ _ _
  · iterate 5 rw [Ctl.get_put_fld _ _ (by decide)]
    exact Ctl.get_put_same _ _ _
  · iterate 4 rw [Ctl.get_put_fld _ _ (by decide)]
    exact Ctl.get_put_same _ _ _

/-- The only slice that waits begins in a transit. -/
theorem exec_sliceBegin (hq : s.ctl.Quiet) (hmode : s.ctl.inMode [.ready, .active, .drowse] = true)
    (hbudget : s.ctl.get F.BIST_CFG_BUDGET ≠ 0) (hentry : s.ctl.entry = none) (hdue : s.ctl.sliceDue = [z])
    (hdark : s.ctl.dark z.pc = false) (hmay : s.ctl.mayBegin z = true) : ∃ t, exec .sliceBegin s = .next t ∧
      Ends s t curFlds { s.ctl with sliceDue := [], slices := s.ctl.slices ++ [z] } ∧ t.ctl.get F.BIST_FIELD_CUR_ACTIVE = 1 ∧
      t.ctl.get F.BIST_FIELD_CUR_KIND = z.kind % 2 ^ F.BIST_FIELD_CUR_KIND.width ∧
      t.ctl.get F.BIST_FIELD_CUR_PC = z.pc % 2 ^ F.BIST_FIELD_CUR_PC.width := by
  have hon : (s.ctl.fresh.sliceRuns && s.ctl.fresh.fieldOn && !s.ctl.fresh.sleepBegun) = true := by
    have hruns : s.ctl.fresh.sliceRuns = true := hmode
    have hfield : s.ctl.fresh.fieldOn = true := by simp [Ctl.fieldOn, hbudget]
    have hawake : s.ctl.fresh.sleepBegun = false := by
      unfold Ctl.sleepBegun
      rw [show s.ctl.fresh.entry = none from hentry]
    rw [hruns, hfield, hawake]
    rfl
  have hfilter : s.ctl.fresh.sliceDue.filter (fun z => !s.ctl.fresh.dark z.pc) = [z] := by
    rw [show s.ctl.fresh.sliceDue = [z] from hdue]
    have hdark' : s.ctl.fresh.dark z.pc = false := hdark
    simp [hdark']
  have htake : takeFirst ({ s.ctl.fresh with sliceDue := [z] } : Ctl).mayBegin [z] = some (z, []) := if_pos hmay
  obtain ⟨n, hn⟩ : ∃ n : Ctl, n = { s.ctl.fresh with sliceDue := [] } := ⟨_, rfl⟩
  have hexec : exec .sliceBegin s = .next (run s fun _ _ => n.beginSlice z) := by
    refine congrArg Host.Outcome.next (run_congr ((if_pos hon).trans ?_))
    dsimp only
    rw [hfilter, htake, hn]
  obtain ⟨honly, hactive, hkind, hpc⟩ := n.beginSlice_effect z
  obtain ⟨t, ht, hends, hget⟩ := exec_of_onlyFlds (m := { s.ctl with sliceDue := [], slices := s.ctl.slices ++ [z] }) hexec rfl honly
    (by rw [hn]; exact hq) (by rw [hn]; rfl) (by rw [hn]; rfl) (by rw [hn]; rfl) (by rw [hn]; rfl)
  exact ⟨t, ht, hends, (hget _ _ (by decide) (by decide)).trans hactive, (hget _ _ (by decide) (by decide)).trans hkind,
    (hget _ _ (by decide) (by decide)).trans hpc⟩

/-- The slice that ends is the only one under way. -/
theorem exec_sliceEnd (hslices : s.ctl.slices = [z]) (hdesc : z.desc = none) (hfound : found ≠ []) :
    exec (.sliceEnd found) s = .next (run s fun _ m => m.endSlice z found) := by
  refine congrArg Host.Outcome.next (run_congr ?_)
  have hnone : found.isEmpty = false := by simpa using hfound
  have hfind : s.ctl.fresh.slices.find? (fun z => z.desc.isNone) = some z := by
    rw [show s.ctl.fresh.slices = [z] from hslices]
    simp [hdesc]
  rw [hnone, hfind]
  rfl

/-- A step that finds nothing. -/
theorem Ctl.sliceFinding_pass (m : Ctl) (z : Slice) : m.sliceFinding z .pass = (srPass, m) := by
  unfold Ctl.sliceFinding
  split <;> simp_all

/-- Steps that find nothing. -/
theorem Ctl.sliceFindings_pass (m : Ctl) (z : Slice) (h : ∀ f ∈ found, f = .pass) :
    found.foldl (fun (acc : Nat × Ctl) f => (worseResult acc.1 (acc.2.sliceFinding z f).1, (acc.2.sliceFinding z f).2)) (srPass, m) =
      (srPass, m) := by
  induction found with
  | nil => rfl
  | cons f r ih =>
    obtain rfl := h f (by simp)
    rw [List.foldl_cons, Ctl.sliceFinding_pass]
    exact ih fun f hf => h f (by simp [hf])

/-- A slice other than a march that finds nothing. -/
theorem Ctl.endSlice_pass {m : Ctl} (hslices : m.slices = [z]) (hdesc : z.desc = none) (hkind : z.kind ≠ 2)
    (h : ∀ f ∈ found, f = .pass) : m.endSlice z found =
      (({ m with slices := [] } : Ctl).bump F.BIST_FIELD_COUNT_SLICES).put F.BIST_FIELD_CUR_ACTIVE 0 := by
  have hrest : m.slices.filter (fun q => q != z) = [] := by simp [hslices]
  unfold Ctl.endSlice
  simp only [hrest, hdesc]
  rw [Ctl.sliceFindings_pass _ _ fun f hf => h f (List.mem_of_mem_take hf)]
  simp only [Ctl.reinit, Ctl.marchOn, if_neg hkind]
  rfl

/-- A slice ends without a failure. -/
theorem exec_sliceEnd_pass (hq : s.ctl.Quiet) (hslices : s.ctl.slices = [z]) (hdesc : z.desc = none) (hkind : z.kind = 1 ∨ z.kind = 3)
    (hfound : found ≠ []) (h : ∀ f ∈ found, f = .pass) : ∃ t, exec (.sliceEnd found) s = .next t ∧
      Ends s t [(F.BIST_FIELD_COUNT_SLICES, 0), (F.BIST_FIELD_CUR_ACTIVE, 0)] { s.ctl with slices := [] } ∧
      t.ctl.get F.BIST_FIELD_COUNT_SLICES = min (s.ctl.get F.BIST_FIELD_COUNT_SLICES + 1) (2 ^ F.BIST_FIELD_COUNT_SLICES.width - 1) ∧
      t.ctl.get F.BIST_FIELD_CUR_ACTIVE = 0 := by
  obtain ⟨t, ht, hends, hget⟩ := exec_of_onlyFlds (m := { s.ctl with slices := [] }) (exec_sliceEnd hslices hdesc hfound)
    (Ctl.endSlice_pass (m := s.ctl.fresh) hslices hdesc (by omega) h) ((Ctl.OnlyFlds.bump _ _ 0).trans (.set _ _ _ _)) hq rfl rfl rfl rfl
  refine ⟨t, ht, hends, (hget _ _ (by decide) (by decide)).trans ?_, (hget _ _ (by decide) (by decide)).trans (Ctl.get_put_same _ _ _)⟩
  rw [Ctl.get_put_fld _ _ (by decide), Ctl.get_bump_same]
  rfl

/-! ## A raise of a command that changes the array -/

/-- A state in which these changes of the array wait. -/
def Ctl.withEdits (m : Ctl) (es : List Edit) : Ctl := { m with edits := es }

theorem Ctl.withEdits_self (m : Ctl) : m.withEdits m.edits = m := by
  cases m
  rfl

theorem Ctl.get_withEdits (m : Ctl) (es : List Edit) (f : Fld) (i : Nat) : (m.withEdits es).get f i = m.get f i := by
  cases m; rfl

theorem Ctl.set_withEdits (m : Ctl) (es : List Edit) (f : Fld) (i v : Nat) : (m.withEdits es).set f i v = (m.set f i v).withEdits es := by
  cases m; rfl

theorem Ctl.pendOf_withEdits (m : Ctl) (es : List Edit) (src : Source) : (m.withEdits es).pendOf src = m.pendOf src := rfl

theorem Ctl.put_withEdits (m : Ctl) (es : List Edit) (f : Fld) (v : Nat) : (m.withEdits es).put f v = (m.put f v).withEdits es := by
  rw [Ctl.put_eq, Ctl.put_eq, Ctl.set_withEdits]

theorem Ctl.bump_withEdits (m : Ctl) (es : List Edit) (f : Fld) : (m.withEdits es).bump f = (m.bump f).withEdits es := by
  rw [Ctl.bump_eq, Ctl.bump_eq, Ctl.set_withEdits, Ctl.get_withEdits]

theorem Ctl.setPend_withEdits (m : Ctl) (es : List Edit) (src : Source) : (m.withEdits es).setPend src = (m.setPend src).withEdits es := by
  unfold Ctl.setPend
  rw [Ctl.set_withEdits, Ctl.get_withEdits]

theorem Ctl.setLog_withEdits (m : Ctl) (es : List Edit) (i v : Nat) : (m.withEdits es).setLog i v = (m.setLog i v).withEdits es := by
  rw [Ctl.setLog_eq, Ctl.setLog_eq, Ctl.set_withEdits, Ctl.set_withEdits, Ctl.set_withEdits, Ctl.set_withEdits]

theorem Ctl.hold_withEdits (n : Ctl) (es : List Edit) (q : Raised × Option Nat) :
    (if (n.withEdits es).inMode [.powered, .fuseload, .selftest] then { n.withEdits es with held := (n.withEdits es).held ++ [q] }
      else n.withEdits es) =
    Ctl.withEdits (if n.inMode [.powered, .fuseload, .selftest] then { n with held := n.held ++ [q] } else n) es := by
  have hmode : (n.withEdits es).inMode [.powered, .fuseload, .selftest] = n.inMode [.powered, .fuseload, .selftest] := rfl
  rw [hmode]
  cases n.inMode [.powered, .fuseload, .selftest] <;> rfl

/-- They wait while a raise is logged. -/
theorem Ctl.logged_withEdits (m : Ctl) (r : Raised) (es : List Edit) : (m.withEdits es).logged r = (m.logged r).withEdits es := by
  have hwrite : (m.withEdits es).logWrite r = (m.logWrite r).withEdits es := by
    rw [Ctl.logWrite, Ctl.logWrite, Ctl.get_withEdits, Ctl.setLog_withEdits, Ctl.put_withEdits, Ctl.bump_withEdits, Ctl.setPend_withEdits]
  rw [Ctl.logged, Ctl.logged, hwrite, Ctl.pendOf_withEdits, Ctl.get_withEdits]
  exact Ctl.hold_withEdits _ _ _

theorem Ctl.drive_withEdits (m : Ctl) (es : List Edit) : (m.withEdits es).drive = m.drive.withEdits es := by
  unfold Ctl.drive
  by_cases h : m.inMode [.training, .ready, .active, .drowse] = true
  · rw [if_pos h]
    exact if_pos h
  rw [if_neg h]
  refine (if_neg h).trans ?_
  by_cases h' : m.inMode [.powered, .fuseload, .selftest, .quarantine] = true
  · rw [if_pos h']
    exact if_pos h'
  · rw [if_neg h']
    exact if_neg h'

/-- A severity and a log that keep their fields stay calm. -/
theorem Ctl.Calm.of_same {m n : Ctl} {src : Source} {l : List (Fld × Nat)} (h : m.Calm src) (hsrc : src < 512) (hf : m.SameFlds n l)
    (hl : ∀ e ∈ l, e.1.id ∉ [413, 426, 427, 417, 416, 425] ∧ e.2 < 1048576) : n.Calm src := by
  have hkeep : ∀ f i, f.id ∈ [413, 426, 427, 417, 416, 425] → i < 1048576 → n.get f i = m.get f i := fun f i hid hi =>
    hf.get_eq (fun e he => ⟨fun hc => (hl e he).1 (hc ▸ hid), (hl e he).2⟩) hi
  have hsev : n.sevOf src = m.sevOf src := hkeep F.FLT_SEV src (by decide) (Nat.lt_trans hsrc (by decide))
  have hsmall := h.sev
  refine ⟨by rw [hsev]; exact hsmall, ?_, ?_, ?_⟩
  · rw [hsev]
    exact (hkeep F.FLT_REACT _ (by decide) (Nat.lt_trans hsmall (by decide))).trans h.none
  · rw [hkeep _ _ (by decide) (by decide)]
    exact h.head
  · rw [hkeep _ _ (by decide) (by decide)]
    exact h.room

/-- The record of a raise. -/
def Ctl.raisedBy (m : Ctl) (src info : Nat) : Raised :=
  { source := src, info := info, injected := false, sev := m.sevOf src, orbit := m.orbit, nvalid := m.numValid }

/-- The state at the end of a command that raises a fault which takes no reaction. -/
theorem Ctl.settle_raise {x : Ctl} {src : Nat} (info : Nat) (a : Arr) (hq : x.Quiet) (hr : x.raised = []) (hcalm : x.Calm src)
    (hsrc : src < 512) : (x.raise src info).settle a = (x.logged (x.raisedBy src info)).drive := by
  obtain ⟨hsev, hnone, hhead, hroom⟩ := hcalm
  have hraised : (x.raise src info).raised = [x.raisedBy src info] := congrArg (· ++ _) hr
  have hback : ({ x.raise src info with raised := [] } : Ctl) = x := by
    cases x
    simp only at hr
    subst hr
    rfl
  rw [Ctl.settle_calm (m := x.raise src info) a _ hq hraised hnone hsev hhead hsrc hroom, hback]

theorem Ctl.held_of_rest {m n : Ctl} (h : m.rest = n.rest) : m.held = n.held := by
  simpa using congrArg Ctl.held h

theorem Ctl.power_of_rest {m n : Ctl} (h : m.rest = n.rest) : m.power = n.power := by
  simpa using congrArg Ctl.power h

/-- After TRAINING a logged raise is not held. -/
theorem Ctl.held_logged {m : Ctl} {r : Raised} (hmode : m.inMode [.powered, .fuseload, .selftest] = false)
    (hhead : m.get F.FLT_LOG_HEAD_HEAD < 256) (hsrc : r.source < 512) : (m.logged r).held = m.held := by
  have hheld : (m.logWrite r).held = m.held := Ctl.held_of_rest (Ctl.rest_of_logWrite m r)
  have hpower : (m.logWrite r).power = m.power := Ctl.power_of_rest (Ctl.rest_of_logWrite m r)
  have hmode' : (m.logWrite r).inMode [.powered, .fuseload, .selftest] = false := by
    unfold Ctl.inMode Ctl.mode at hmode ⊢
    rw [hpower, Ctl.get_logWrite m r F.GL_MODE_STATE 0 (by decide) (by decide) hhead hsrc]
    exact hmode
  rw [Ctl.logged, hmode']
  exact hheld

/-- A command that changes bytes and raises one fault which takes no reaction: its frame and the fields it leaves. -/
theorem exec_of_raise_edits {c : Instr} {g : Arr → Ctl → Ctl} {x n m : Ctl} {l : List (Fld × Nat)} {src info : Nat} {es : List Edit}
    (hc : exec c s = .next (run s g)) (hx : g s.arr s.ctl.fresh = (x.withEdits es).raise src info) (h : n.OnlyFlds x l) (hq : n.Quiet)
    (hflds : n.flds = s.ctl.flds) (hr : n.raised = []) (he : n.edits = []) (hm : n.rest = m.rest) (hcalm : s.ctl.Calm src) (hsrc : src < 512)
    (hl : ∀ e ∈ l, e.1.id ∉ [413, 426, 427, 417, 416, 425] ∧ e.2 < 1048576)
    (hmode : x.inMode [.powered, .fuseload, .selftest] = false) :
    ∃ t, exec c s = .next t ∧ Leaves s t (s.ctl.logFlds src ++ l) m ∧ t.ctl.pendOf src = true ∧ t.arr = s.arr.applyAll es ∧
      ∀ f i, f.id ∉ [415, 427, 417, 416, 425] → i < 1048576 → t.ctl.get f i = x.get f i := by
  have hxq := h.quiet hq
  have hxr := h.raised.trans hr
  have hsame : s.ctl.SameFlds x l := fun f i hf => (h.flds f i hf).trans (Ctl.get_congr hflds f i)
  have hxcalm := hcalm.of_same hsrc hsame hl
  obtain ⟨⟨hends, hpend⟩, hget⟩ := EndsRaised.of_calm s (fun _ _ => x.raise src info) src info false l m x hcalm hsrc rfl hxq hxr
    (h.edits.trans he) hsame hl (h.rest.trans hm)
  have hplain := Ctl.settle_raise info s.arr hxq hxr hxcalm hsrc
  have hedits : ((x.withEdits es).raise src info).settle s.arr = ((x.withEdits es).logged (x.raisedBy src info)).drive :=
    Ctl.settle_raise (x := x.withEdits es) info s.arr hxq hxr ⟨hxcalm.sev, hxcalm.none, hxcalm.head, hxcalm.room⟩ hsrc
  obtain ⟨r, hr'⟩ : ∃ r, r = x.raisedBy src info := ⟨_, rfl⟩
  have hsource : r.source < 512 := by
    rw [hr']
    exact hsrc
  rw [← hr'] at hplain hedits
  rw [Ctl.logged_withEdits, Ctl.drive_withEdits, ← hplain] at hedits
  have hctl : (run s g).ctl = (run s fun _ _ => x.raise src info).ctl := by
    rw [run, run, hx, hedits]
    rfl
  have harr : (run s g).arr = s.arr.applyAll es := by
    rw [run, hx, hedits]
    rfl
  have hheld : (run s fun _ _ => x.raise src info).ctl.held = m.held := by
    have hlogged : (run s fun _ _ => x.raise src info).ctl.held = (x.logged r).drive.held := by
      rw [run, hplain]
    have hdrive : (x.logged r).drive.held = (x.logged r).held := Ctl.held_of_rest (Ctl.rest_of_drive (x.logged r))
    rw [hlogged, hdrive, Ctl.held_logged hmode hxcalm.head hsource]
    exact Ctl.held_of_rest (h.rest.trans hm)
  have hrest := hends.rest
  rw [hheld] at hrest
  refine ⟨_, hc, ⟨rfl, by rw [hctl]; exact hends.flds, by rw [hctl]; exact hrest⟩, by rw [hctl]; exact hpend, harr, fun f i hf hi => ?_⟩
  rw [hctl]
  exact hget f i hf hi

/-! ## A march that fails -/

theorem Ctl.bump_raise (m : Ctl) {f : Fld} {src info : Nat} (hf : f.id ∉ [0, 6, 426]) (hsrc : src < 1048576) :
    (m.raise src info).bump f = (m.bump f).raise src info := by
  rw [Ctl.raise_eq, Ctl.raise_eq, Ctl.bump_eq, Ctl.bump_eq, Ctl.get_raiseAs, Ctl.set_raiseAs _ _ _ _ hf (by decide) hsrc]

theorem Ctl.put_raise (m : Ctl) {f : Fld} {src info v : Nat} (hf : f.id ∉ [0, 6, 426]) (hsrc : src < 1048576) :
    (m.raise src info).put f v = (m.put f v).raise src info := by
  rw [Ctl.raise_eq, Ctl.raise_eq, Ctl.put_eq, Ctl.put_eq, Ctl.set_raiseAs _ _ _ _ hf (by decide) hsrc]

/-- The spare row of a march. -/
def Slice.spare (z : Slice) : DeadSpare := { pc := z.pc, bank := z.die * 16 + z.bank, spare := z.row }

/-- The state after a march that failed and ended, but for its counts and its raise. -/
def Ctl.marchFailed (m : Ctl) (z : Slice) : Ctl :=
  ({ m with slices := [], deadSpares := m.deadSpares ++ [z.spare] } : Ctl).marchOn z 1 true

theorem Ctl.marchOn_raise (n : Ctl) (es : List Edit) (hkind : z.kind = 2) {src info : Nat} :
    ((n.withEdits es).raise src info).marchOn z 1 true = ((n.marchOn z 1 true).withEdits es).raise src info := by
  unfold Ctl.marchOn
  rw [if_pos hkind, if_pos hkind]
  rfl

/-- The march of a spare row that fails. -/
theorem Ctl.endSlice_fail {m : Ctl} (hslices : m.slices = [z]) (hdesc : z.desc = none) (hkind : z.kind = 2) (hrow : z.row < 16)
    (hedits : m.edits = []) : m.endSlice z [.fail] =
      (((((m.marchFailed z).bump F.BIST_FIELD_COUNT_SLICES).bump F.BIST_FIELD_COUNT_FAILS).put F.BIST_FIELD_CUR_ACTIVE 0).withEdits
        [marchWipe z.pc (z.die * 16 + z.bank) z.row]).raise 0x072 (bistInfo 2 z.pc 0) := by
  obtain ⟨n, hn⟩ : ∃ n : Ctl, n = { m with slices := [], deadSpares := m.deadSpares ++ [z.spare] } := ⟨_, rfl⟩
  have hrest : m.slices.filter (fun q => q != z) = [] := by simp [hslices]
  have htake : [SliceFind.fail].take z.steps = [.fail] := List.take_of_length_le (Nat.le_max_left 1 _)
  have hfinding : ({ m with slices := [] } : Ctl).sliceFinding z .fail = (srRepaired, n.raise 0x072 (bistInfo 2 z.pc 0)) := by
    unfold Ctl.sliceFinding
    rw [hkind, hn]
    simp only [if_pos hrow]
    rfl
  have hmarch : ((n.raise 0x072 (bistInfo 2 z.pc 0)).reinit z).marchOn z 1 true =
      ((m.marchFailed z).withEdits [marchWipe z.pc (z.die * 16 + z.bank) z.row]).raise 0x072 (bistInfo 2 z.pc 0) := by
    have hedit : n.edits = [] := by
      rw [hn]
      exact hedits
    have hreinit : (n.raise 0x072 (bistInfo 2 z.pc 0)).reinit z =
        (n.withEdits [marchWipe z.pc (z.die * 16 + z.bank) z.row]).raise 0x072 (bistInfo 2 z.pc 0) := by
      refine (if_pos hkind).trans ?_
      cases n
      simp only at hedit
      subst hedit
      rfl
    have hfailed : m.marchFailed z = n.marchOn z 1 true := by rw [hn]; rfl
    rw [hreinit, hfailed]
    exact Ctl.marchOn_raise _ _ hkind
  have hdef : m.endSlice z [.fail] = (((((n.raise 0x072 (bistInfo 2 z.pc 0)).reinit z).marchOn z 1 true).bump
      F.BIST_FIELD_COUNT_SLICES).bump F.BIST_FIELD_COUNT_FAILS).put F.BIST_FIELD_CUR_ACTIVE 0 := by
    have hbad : (worseResult srPass srRepaired == srRepaired || worseResult srPass srRepaired == srUnrepaired) = true := by decide
    have hnone : (m.marchFailed z).slices = [] := by
      unfold Ctl.marchFailed Ctl.marchOn
      rw [if_pos hkind]
    unfold Ctl.endSlice
    simp only [hrest, htake, List.foldl_cons, List.foldl_nil, hfinding, hdesc, hbad, if_true, List.length_cons, List.length_nil, hmarch]
    generalize m.marchFailed z = k at hnone ⊢
    obtain ⟨q, hq⟩ : ∃ q, q = ((k.withEdits [marchWipe z.pc (z.die * 16 + z.bank) z.row]).raise 0x072 (bistInfo 2 z.pc 0)) := ⟨_, rfl⟩
    have hempty : q.slices = [] := by
      rw [hq]
      exact hnone
    rw [← hq]
    exact if_pos (List.isEmpty_iff.mpr hempty)
  rw [hdef, hmarch, Ctl.bump_raise _ (by decide) (by decide), Ctl.bump_raise _ (by decide) (by decide), Ctl.put_raise _ (by decide) (by decide),
    Ctl.bump_withEdits, Ctl.bump_withEdits, Ctl.put_withEdits]

theorem Ctl.marchFailed_eq (m : Ctl) (hkind : z.kind = 2) : ∃ march, m.marchFailed z =
    { m with slices := [], march := march, deadSpares := m.deadSpares ++ [z.spare] } :=
  ⟨_, if_pos hkind⟩

/-- No row of the spares lies in a save. -/
theorem imageRow_spare {pc row : Nat} {b : BankIx} (hrow : row < 16) : imageRow (rowIx pc b (8192 + row)) = false := by
  have hmod : rowIx pc b (8192 + row) % 8272 = 8192 + row := by
    unfold rowIx
    omega
  simp [imageRow, hmod]
  omega

/-- A march of a spare row fails. -/
theorem exec_sliceEnd_fail (hq : s.ctl.Quiet) (hmode : s.ctl.inMode [.ready, .active, .drowse] = true) (hslices : s.ctl.slices = [z])
    (hdesc : z.desc = none) (hkind : z.kind = 2) (hrow : z.row < 16) (hcalm : s.ctl.Calm 0x072) :
    ∃ t, exec (.sliceEnd [.fail]) s = .next t ∧
      Leaves s t (s.ctl.logFlds 0x072 ++ [(F.BIST_FIELD_COUNT_SLICES, 0), (F.BIST_FIELD_COUNT_FAILS, 0), (F.BIST_FIELD_CUR_ACTIVE, 0)])
        { s.ctl with slices := [], march := t.ctl.march, deadSpares := s.ctl.deadSpares ++ [z.spare] } ∧
      t.ctl.pendOf 0x072 = true ∧
      t.ctl.get F.BIST_FIELD_COUNT_SLICES = min (s.ctl.get F.BIST_FIELD_COUNT_SLICES + 1) (2 ^ F.BIST_FIELD_COUNT_SLICES.width - 1) ∧
      t.ctl.get F.BIST_FIELD_COUNT_FAILS = min (s.ctl.get F.BIST_FIELD_COUNT_FAILS + 1) (2 ^ F.BIST_FIELD_COUNT_FAILS.width - 1) ∧
      t.arr = s.arr.applyAll [marchWipe z.pc (z.die * 16 + z.bank) z.row] := by
  obtain ⟨n, hn⟩ : ∃ n, n = s.ctl.fresh.marchFailed z := ⟨_, rfl⟩
  obtain ⟨march, hmarch⟩ := s.ctl.fresh.marchFailed_eq hkind
  rw [← hn] at hmarch
  have heffect := Ctl.endSlice_fail (m := s.ctl.fresh) hslices hdesc hkind hrow rfl
  rw [← hn] at heffect
  obtain ⟨m, hm⟩ : ∃ m : Ctl, m = { s.ctl with slices := [], march := march, deadSpares := s.ctl.deadSpares ++ [z.spare] } := ⟨_, rfl⟩
  have honly := ((Ctl.OnlyFlds.bump n F.BIST_FIELD_COUNT_SLICES 0).trans (.bump _ F.BIST_FIELD_COUNT_FAILS 0)).trans
    (.set _ F.BIST_FIELD_CUR_ACTIVE 0 0)
  have hlate : n.inMode [.powered, .fuseload, .selftest] = false := by
    rw [hmarch]
    exact Ctl.inMode_disjoint (m := s.ctl) hmode (by decide)
  obtain ⟨t, ht, hleaves, hpend, harr, hget⟩ := exec_of_raise_edits (m := m) (exec_sliceEnd hslices hdesc (by simp)) heffect honly
    (by rw [hmarch]; exact hq) (by rw [hmarch]; rfl) (by rw [hmarch]; rfl) (by rw [hmarch]; rfl) (by rw [hmarch, hm]; rfl) hcalm (by decide)
    (by decide) ((honly.inMode (by decide) _).trans hlate)
  have hkept : t.ctl.march = march := by
    have hmarch' : t.ctl.march = m.march := by simpa using congrArg Ctl.march hleaves.rest
    rw [hmarch', hm]
  have hstart : ∀ f, n.get f = s.ctl.get f := by
    intro f
    rw [hmarch]
    rfl
  refine ⟨t, ht, ?_, hpend, (hget _ _ (by decide) (by decide)).trans ?_, (hget _ _ (by decide) (by decide)).trans ?_, harr⟩
  · rw [hkept, ← hm]
    exact hleaves
  · refine (Ctl.get_put_fld _ _ (by decide)).trans ((Ctl.get_bump_fld _ (by decide)).trans ((Ctl.get_bump_same _ _ _).trans ?_))
    rw [hstart]
  · refine (Ctl.get_put_fld _ _ (by decide)).trans ((Ctl.get_bump_same _ _ _).trans ?_)
    rw [Ctl.get_bump_fld _ (by decide), hstart]

end

end Sys2Proof.Machine

namespace Sys2Proof.SelfTestAndCalibration

open Sys2Proof.Machine

/-- Settles O59: a slice as it comes due, begins and ends, and a pair of measurements by whether it agrees. -/
theorem fieldSlices : Obligations.FieldSlices := by
  unfold Obligations.FieldSlices
  intro s z found k i a b pc g cur bump tc trim v sets aimed hq hmode
  refine ⟨exec_fieldSliceDue hq hmode, exec_sliceBegin hq hmode, fun hslices hdesc hkind hfound hpass =>
    exec_sliceEnd_pass hq hslices hdesc hkind hfound hpass, fun hslices hdesc hkind _ _ _ hrow hcalm => ?_, fun hon hbusy hlane hcount => ?_⟩
  · obtain ⟨t, ht, hleaves, hpend, hslices', hfails, harr⟩ := exec_sliceEnd_fail hq hmode hslices hdesc hkind hrow hcalm
    have himage := imageRow_spare (pc := z.pc) (b := z.die * 16 + z.bank) hrow
    have hrowne : rowIx z.pc (z.die * 16 + z.bank) (8192 + z.row) ≠ 0 := by
      unfold rowIx
      omega
    refine ⟨t, ht, hleaves, hpend, hslices', hfails, fun x hx => ?_, fun x hlo hhi => ?_⟩
    · have hout := hx _ (List.mem_singleton_self _)
      rw [harr]
      refine Arr.byte_wipe_outside (fun k hlo hhi => ?_) ?_ (fun hall => hrowne hall.1)
      · obtain rfl : k = rowIx z.pc (z.die * 16 + z.bank) (8192 + z.row) := by omega
        exact himage
      · omega
    · rw [harr]
      refine Arr.byte_wipe_inside (.inl fun k hlo hhi => ?_) (by omega) (by omega)
      obtain rfl : k = rowIx z.pc (z.die * 16 + z.bank) (8192 + z.row) := by omega
      exact himage
  · have htakes : s.ctl.TakesPair k i := by
      refine ⟨?_, hon, hbusy, hlane, hcount⟩
      exact Ctl.inMode_mono hmode (by decide)
    exact ⟨fun hagree lo hi hrange => ⟨fun hlo hhi => exec_calMeasurement_within htakes hq hagree hrange rfl hlo hhi,
      fun hhi hcalm => exec_calMeasurement_above htakes hq hagree hrange hhi hcalm⟩, fun hagree hbads => exec_calMeasurement_apart htakes hq hagree hbads,
      fun hagree hbads hcalm => exec_calMeasurement_held htakes hq hagree hbads hcalm⟩

end Sys2Proof.SelfTestAndCalibration
end

section
/-!
Thermal samples (R411 to R414).
-/

namespace Sys2Proof.Machine

/-! ## Numbers made of bits -/

/-- The number of which these are the bits. -/
def bitsOf (f : Nat → Bool) (n : Nat) : Nat := ((List.range n).map fun d => b2n (f d) * 2 ^ d).sum

theorem bitsOf_succ (f : Nat → Bool) (n : Nat) : bitsOf f (n + 1) = 2 ^ n * b2n (f n) + bitsOf f n := by
  rw [bitsOf, List.range_succ, List.map_append, List.sum_append, Nat.mul_comm, Nat.add_comm]
  simp [bitsOf]

theorem bitsOf_lt (f : Nat → Bool) (n : Nat) : bitsOf f n < 2 ^ n := by
  induction n with
  | zero => exact Nat.one_pos
  | succ n ih =>
    have hbit : b2n (f n) ≤ 1 := by cases f n <;> decide
    rw [bitsOf_succ, Nat.pow_succ]
    nlinarith

theorem testBit_bitsOf (f : Nat → Bool) {n d : Nat} (hd : d < n) : (bitsOf f n).testBit d = f d := by
  induction n with
  | zero => omega
  | succ n ih =>
    rw [bitsOf_succ, Nat.testBit_two_pow_mul_add _ (bitsOf_lt f n)]
    rcases Nat.lt_succ_iff_lt_or_eq.mp hd with hlt | rfl
    · rw [if_pos hlt, ih hlt]
    · rw [if_neg (Nat.lt_irrefl _), Nat.sub_self]
      cases f d <;> rfl

/-! ## Temperatures -/

/-- The registers show every temperature of 11 bits. -/
theorem tempOf_tempCode {t : Int} (hlo : -1024 ≤ t) (hhi : t < 1024) : tempOf (tempCode t) = t := by
  unfold tempOf tempCode
  split <;> omega

theorem tempCode_lt (t : Int) : tempCode t < 2 ^ 11 := Nat.mod_lt _ (by decide)

theorem tempOf_range (c : Nat) : -1024 ≤ tempOf c ∧ tempOf c < 1024 := by
  unfold tempOf
  split <;> omega

/-- A point lies between 60 and 105 degC. -/
theorem pointOf_range (c : Nat) : 240 ≤ pointOf c ∧ pointOf c ≤ 420 := by
  unfold pointOf
  omega

/-! ## The highest reading -/

theorem hotter_cases (x y : Nat × Int) : hotter x y = x ∨ hotter x y = y := by
  unfold hotter
  split <;> simp

/-- The highest of a list is one of its readings, and none is higher. -/
theorem foldl_hotter (l : List (Nat × Int)) (e : Nat × Int) :
    l.foldl hotter e ∈ e :: l ∧ ∀ x ∈ e :: l, x.2 ≤ (l.foldl hotter e).2 := by
  induction l generalizing e with
  | nil => simp
  | cons y l ih =>
    obtain ⟨hmem, hmax⟩ := ih (hotter e y)
    have hle : e.2 ≤ (hotter e y).2 ∧ y.2 ≤ (hotter e y).2 := by
      unfold hotter
      split <;> omega
    have htop := hmax _ (List.mem_cons_self ..)
    rw [List.foldl_cons]
    refine ⟨?_, fun x hx => ?_⟩
    · rcases List.mem_cons.mp hmem with h | h
      · rw [h]
        rcases hotter_cases e y with he | hy
        · simp [he]
        · simp [hy]
      · simp [h]
    · rcases List.mem_cons.mp hx with rfl | hx
      · exact hle.1.trans htop
      rcases List.mem_cons.mp hx with rfl | hx
      · exact hle.2.trans htop
      · exact hmax _ (List.mem_cons_of_mem _ hx)

theorem Ctl.mem_readings (m : Ctl) (e : Nat × Int) :
    e ∈ m.readings ↔ e.1 < 36 ∧ m.sensorWorks e.1 = true ∧ e.2 = m.tempAt e.1 := by
  unfold Ctl.readings
  constructor
  · intro h
    obtain ⟨i, hi, rfl⟩ := List.mem_map.mp h
    obtain ⟨hlt, hworks⟩ := List.mem_filter.mp hi
    exact ⟨List.mem_range.mp hlt, hworks, rfl⟩
  · rintro ⟨hlt, hworks, htemp⟩
    exact List.mem_map.mpr ⟨e.1, List.mem_filter.mpr ⟨List.mem_range.mpr hlt, hworks⟩, by rw [← htemp]⟩

/-- The values that Tmax is taken from (R411, R413). -/
def Ctl.tmaxOf (m : Ctl) : List (Nat × Int) :=
  m.readings ++ if (List.range 4).any fun i => m.sensorWorks i then [] else [(63, m.throttleAt)]

/-- Tmax is one of them, and the highest. -/
theorem Ctl.tmax_cases (m : Ctl) : (m.tmax = none ∧ m.tmaxOf = []) ∨ ∃ e, m.tmax = some e ∧ e ∈ m.tmaxOf ∧ ∀ x ∈ m.tmaxOf, x.2 ≤ e.2 := by
  have hdef : m.tmax = match m.tmaxOf with | [] => none | e :: r => some (r.foldl hotter e) := rfl
  rw [hdef]
  cases m.tmaxOf with
  | nil => exact .inl ⟨rfl, rfl⟩
  | cons e r =>
    obtain ⟨hmem, hmax⟩ := foldl_hotter r e
    exact .inr ⟨_, rfl, hmem, hmax⟩

/-! ## The stages of a sample -/

/-- The hot states, the rate of sampling, and the age of the sample. -/
def Ctl.hotShown (m : Ctl) : Ctl :=
  let n := m.put F.THM_HOT_HOT (bitsOf m.dieHot 16)
  { n.put F.THM_STATUS_FAST (b2n n.fastSample) with sampleAge := 0 }

/-- The peak. -/
def Ctl.peakShown (m : Ctl) : Ctl :=
  match m.readings with
  | [] => m
  | e :: r =>
    let p := r.foldl hotter e
    if tempOf (m.get F.THM_PEAK_TEMP) < p.2 then (m.put F.THM_PEAK_TEMP (tempCode p.2)).put F.THM_PEAK_SENSOR p.1 else m

/-- Tmax, the peak and the age of a warm sample. -/
def Ctl.maxShown (m : Ctl) (e : Nat × Int) : Ctl :=
  let n := ((m.put F.THM_MAX_TEMP (tempCode e.2)).put F.THM_MAX_SENSOR e.1).peakShown
  if n.throttleAt - 12 ≤ e.2 then { n with warmAge := 0 } else n

/-- The state after the readings. -/
def Ctl.taken (m : Ctl) (l : Sample) : Ctl := ((l.foldl Ctl.takeReading m).put F.THM_STATUS_SAMPLED 1).hotShown

/-- Tmax before a sample, if there was one. -/
def Ctl.tmaxWas (m : Ctl) : Option Int := if m.is F.THM_STATUS_SAMPLED then some (tempOf (m.get F.THM_MAX_TEMP)) else none

theorem Ctl.takeSample_none {m : Ctl} {l : Sample} (a : Arr) (h : (m.taken l).tmax = none) : m.takeSample a l = m.taken l := by
  unfold Ctl.takeSample
  extract_lets was n1 n2 hot n3 n4 n5
  have hn : n5 = m.taken l := rfl
  rw [hn, h]

theorem Ctl.takeSample_some {m : Ctl} {l : Sample} {e : Nat × Int} (a : Arr) (h : (m.taken l).tmax = some e) :
    m.takeSample a l = (((m.taken l).maxShown e).judgeWarning e.1 e.2).judgeShutdown a e.1 e.2 m.tmaxWas := by
  obtain ⟨i, t⟩ := e
  unfold Ctl.takeSample
  extract_lets was n1 n2 hot n3 n4 n5
  have hn : n5 = m.taken l := rfl
  rw [hn, h]
  rfl

/-! ## What the stages leave -/

/-- Nothing differs but the fields listed and the ages of samples. -/
structure Ctl.Judged (m n : Ctl) (l : List Fld) : Prop where
  same : n = { m with flds := n.flds, sampleAge := n.sampleAge, warmAge := n.warmAge }
  keeps : m.KeepsBut n l

section
variable {m n k : Ctl} {l l' : List Fld}

theorem Ctl.Judged.of_shows (h : m.Shows n l) : m.Judged n l := by
  refine ⟨?_, h.keeps⟩
  have hsame := h.same
  rw [hsame]

theorem Ctl.Judged.trans (h : m.Judged n l) (h' : n.Judged k l') : m.Judged k (l ++ l') :=
  ⟨by rw [h'.same, h.same], h.keeps.trans h'.keeps⟩

theorem Ctl.Judged.hotShown (m : Ctl) : m.Judged m.hotShown [F.THM_HOT_HOT, F.THM_STATUS_FAST] := by
  obtain ⟨x, hx⟩ : ∃ x, x = m.put F.THM_HOT_HOT (bitsOf m.dieHot 16) := ⟨_, rfl⟩
  have hshows : m.Shows x [F.THM_HOT_HOT] := by rw [hx]; exact .put _ _ _
  have hdef : m.hotShown = { x.put F.THM_STATUS_FAST (b2n x.fastSample) with sampleAge := 0 } := by rw [hx]; rfl
  have hput := hshows.trans (.put x F.THM_STATUS_FAST (b2n x.fastSample))
  rw [hdef]
  generalize x.put F.THM_STATUS_FAST (b2n x.fastSample) = y at hput ⊢
  exact (Judged.of_shows hput).trans (l' := []) ⟨rfl, fun _ _ _ _ => rfl⟩

theorem Ctl.Shows.peakShown (m : Ctl) : m.Shows m.peakShown [F.THM_PEAK_TEMP, F.THM_PEAK_SENSOR] := by
  unfold Ctl.peakShown
  split
  · exact (Shows.refl m).mono (by simp)
  · dsimp only
    split
    · exact (Shows.put _ _ _).trans (.put _ _ _)
    · exact (Shows.refl m).mono (by simp)

theorem Ctl.Judged.maxShown (m : Ctl) (e : Nat × Int) :
    m.Judged (m.maxShown e) [F.THM_MAX_TEMP, F.THM_MAX_SENSOR, F.THM_PEAK_TEMP, F.THM_PEAK_SENSOR] := by
  have hshows := ((Shows.put m F.THM_MAX_TEMP (tempCode e.2)).trans (.put _ F.THM_MAX_SENSOR e.1)).trans (.peakShown _)
  unfold Ctl.maxShown
  generalize ((m.put F.THM_MAX_TEMP (tempCode e.2)).put F.THM_MAX_SENSOR e.1).peakShown = x at hshows ⊢
  dsimp only
  split
  · exact (Judged.of_shows hshows).trans (l' := []) ⟨rfl, fun _ _ _ _ => rfl⟩
  · exact .of_shows hshows

theorem Ctl.sampleAge_maxShown (m : Ctl) (e : Nat × Int) : (m.maxShown e).sampleAge = m.sampleAge := by
  have hshows := ((Shows.put m F.THM_MAX_TEMP (tempCode e.2)).trans (.put _ F.THM_MAX_SENSOR e.1)).trans (.peakShown _)
  have hage : ((m.put F.THM_MAX_TEMP (tempCode e.2)).put F.THM_MAX_SENSOR e.1).peakShown.sampleAge = m.sampleAge := by rw [hshows.same]
  unfold Ctl.maxShown
  generalize ((m.put F.THM_MAX_TEMP (tempCode e.2)).put F.THM_MAX_SENSOR e.1).peakShown = x at hage ⊢
  dsimp only
  split <;> exact hage

/-- Below the warning point the warning goes, or stays as it is. -/
theorem Ctl.Shows.judgeWarning {s : Nat} {t : Int} (h : t < m.warnAt) : m.Shows (m.judgeWarning s t) [F.THM_STATUS_WARNING] := by
  unfold Ctl.judgeWarning
  rw [if_neg (show ¬ m.warnAt ≤ t by omega)]
  split
  · exact .put _ _ _
  · exact (Shows.refl m).mono (by simp)

/-- Below 115 degC there is no shutdown. -/
theorem Ctl.judgeShutdown_cool {a : Arr} {s : Nat} {t : Int} {was : Option Int} (h : t < 460) (hmode : m.inMode [.quarantine] = false) :
    m.judgeShutdown a s t was = m := by
  have h480 : decide (480 < t) = false := decide_eq_false (by omega)
  have h460 : decide (460 ≤ t) = false := decide_eq_false (by omega)
  simp [Ctl.judgeShutdown, h480, h460, hmode]

/-- What one reading does. -/
theorem Ctl.takeReading_cases (m : Ctl) (e : Fin 36 × Option Int) :
    m.takeReading e = m ∨
    (m.sensorWorks e.1.val = true ∧ ∃ x, e.2 = some x ∧ -160 ≤ x ∧ x ≤ 600 ∧ m.takeReading e = m.set F.THM_SENSOR_TEMP e.1.val (tempCode x)) ∨
    ∃ info, m.takeReading e = (m.set F.THM_SENSOR_FAILED e.1.val 1).raise 0x033 info := by
  unfold Ctl.takeReading
  dsimp only
  split
  · exact .inl rfl
  next hworks =>
    split
    · next x hx =>
      split
      · next hrange =>
        refine .inr (.inl ⟨?_, x, hx, hrange.1, hrange.2, rfl⟩)
        rw [Ctl.sensorWorks, ← Bool.not_or, Bool.eq_false_iff.mpr hworks]
        rfl
      · exact .inr (.inr ⟨_, rfl⟩)
    · exact .inr (.inr ⟨_, rfl⟩)

/-- A reading in range of a sensor that counts is shown. -/
theorem Ctl.takeReading_range {e : Fin 36 × Option Int} {x : Int} (hx : e.2 = some x) (hlo : -160 ≤ x) (hhi : x ≤ 600) :
    m.takeReading e = if m.sensorWorks e.1.val then m.set F.THM_SENSOR_TEMP e.1.val (tempCode x) else m := by
  unfold Ctl.takeReading Ctl.sensorWorks
  rw [hx]
  simp only [if_pos (And.intro hlo hhi)]
  cases m.is F.THM_SENSOR_FAILED e.1.val <;> cases (m.cutOff && decide (4 ≤ e.1.val)) <;> rfl

/-- Sensors count as before where no sensor fails and the cut stays. -/
theorem Ctl.sensorWorks_congr (hcut : n.cutOff = m.cutOff) {i : Nat} (hget : n.get F.THM_SENSOR_FAILED i = m.get F.THM_SENSOR_FAILED i) :
    n.sensorWorks i = m.sensorWorks i := by
  unfold Ctl.sensorWorks Ctl.is
  rw [hcut, hget]

theorem Ctl.Judged.sensorWorks (h : m.Judged n l) (hl : F.THM_SENSOR_FAILED.id ∉ l.map Fld.id) {i : Nat} (hi : i < 1048576) :
    n.sensorWorks i = m.sensorWorks i :=
  Ctl.sensorWorks_congr (by rw [h.same]) (h.keeps _ _ hi hl)

theorem Ctl.Judged.tempAt (h : m.Judged n l) (hl : F.THM_SENSOR_TEMP.id ∉ l.map Fld.id) {i : Nat} (hi : i < 1048576) :
    n.tempAt i = m.tempAt i :=
  congrArg tempOf (h.keeps _ _ hi hl)

theorem Ctl.Judged.inMode (h : m.Judged n l) (hl : F.GL_MODE_STATE.id ∉ l.map Fld.id) (ms : List Mode) : n.inMode ms = m.inMode ms := by
  unfold Ctl.inMode Ctl.mode
  rw [h.keeps _ _ (by decide) hl]
  rw [h.same]

/-- A reading of a sample of readings between -40 degC and the warning point. -/
theorem Ctl.takeReading_shown {e : Fin 36 × Option Int} {x : Int} (hx : e.2 = some x) (hlo : -160 ≤ x) (hhi : x ≤ 600) :
    m.Shows (m.takeReading e) [F.THM_SENSOR_TEMP] ∧ (∀ i < 36, i ≠ e.1.val → (m.takeReading e).get F.THM_SENSOR_TEMP i = m.get F.THM_SENSOR_TEMP i) ∧
      (m.sensorWorks e.1.val = true → (m.takeReading e).tempAt e.1.val = x) := by
  have hsensor := e.1.isLt
  rw [Ctl.takeReading_range hx hlo hhi]
  split
  · refine ⟨.set m _ _ (by omega), fun i hi hne => m.get_set_other _ _ _ _ _ ?_, fun _ => ?_⟩
    · simp only [fkey]
      omega
    · have hcode : tempCode x % 2 ^ F.THM_SENSOR_TEMP.width = tempCode x := Nat.mod_eq_of_lt (tempCode_lt x)
      rw [Ctl.tempAt, Ctl.get_set_same, hcode, tempOf_tempCode (by omega) (by omega)]
  · next hworks => exact ⟨(Shows.refl m).mono (by simp), fun _ _ _ => rfl, fun h => absurd h hworks⟩

/-- The readings of such a sample, each of another sensor. -/
theorem Ctl.takeReadings_shown {l : Sample} (hnodup : (l.map (·.1)).Nodup) (hrange : ∀ e ∈ l, ∃ x, e.2 = some x ∧ -160 ≤ x ∧ x ≤ 600) :
    m.Shows (l.foldl Ctl.takeReading m) [F.THM_SENSOR_TEMP] ∧
      (∀ i < 36, (∀ e ∈ l, e.1.val ≠ i) → (l.foldl Ctl.takeReading m).get F.THM_SENSOR_TEMP i = m.get F.THM_SENSOR_TEMP i) ∧
      ∀ e ∈ l, m.sensorWorks e.1.val = true → ∀ x, e.2 = some x → (l.foldl Ctl.takeReading m).tempAt e.1.val = x := by
  induction l generalizing m with
  | nil => exact ⟨(Shows.refl m).mono (by simp), fun _ _ _ => rfl, by simp⟩
  | cons e l ih =>
    obtain ⟨hnew, hnodup⟩ := List.nodup_cons.mp hnodup
    obtain ⟨x, hx, hlo, hhi⟩ := hrange e (by simp)
    obtain ⟨hshows, hkeep, hread⟩ := Ctl.takeReading_shown (m := m) hx hlo hhi
    obtain ⟨hshows', hkeep', hread'⟩ := ih (m := m.takeReading e) hnodup fun e he => hrange e (by simp [he])
    rw [List.foldl_cons]
    refine ⟨(hshows.trans hshows').mono (by simp), fun i hi hne => ?_, fun e' he' hworks y hy => ?_⟩
    · exact (hkeep' i hi fun e' he' => hne e' (by simp [he'])).trans (hkeep i hi (hne e (by simp)).symm)
    rcases List.mem_cons.mp he' with rfl | he'
    · have hlast : ∀ e'' ∈ l, e''.1.val ≠ e'.1.val := fun e'' he'' hc =>
        hnew (List.mem_map.mpr ⟨e'', he'', Fin.ext hc⟩)
      rw [Ctl.tempAt, hkeep' _ e'.1.isLt hlast, ← Ctl.tempAt, hread hworks]
      exact Option.some.inj (hx.symm.trans hy)
    · refine hread' e' he' ?_ y hy
      rw [Ctl.sensorWorks_congr (by rw [hshows.same]) (hshows.keeps _ _ (by have := e'.1.isLt; omega) (by decide))]
      exact hworks

/-- The hot state of a die by the readings of its sensors that count (R414). -/
theorem Ctl.dieHot_iff (m : Ctl) (d : Nat) :
    ((∃ k < 2, m.sensorWorks (4 + 2 * d + k) = true ∧ 340 < m.tempAt (4 + 2 * d + k)) → m.dieHot d = true) ∧
    ((∃ k < 2, m.sensorWorks (4 + 2 * d + k) = true) → (∀ k < 2, m.sensorWorks (4 + 2 * d + k) = true → m.tempAt (4 + 2 * d + k) ≤ 328) →
      m.dieHot d = false) ∧
    ((¬ ∃ k < 2, m.sensorWorks (4 + 2 * d + k) = true) → m.dieHot d = true) := by
  obtain ⟨ss, hss⟩ : ∃ ss, ss = [4 + 2 * d, 5 + 2 * d].filter fun s => m.sensorWorks s := ⟨_, rfl⟩
  have hmem : ∀ i, i ∈ ss ↔ ∃ k < 2, i = 4 + 2 * d + k ∧ m.sensorWorks (4 + 2 * d + k) = true := by
    intro i
    rw [hss, List.mem_filter]
    constructor
    · rintro ⟨hi, hworks⟩
      have hi' : i = 4 + 2 * d ∨ i = 5 + 2 * d := by simpa using hi
      exact ⟨i - (4 + 2 * d), by omega, by omega, by rw [show 4 + 2 * d + (i - (4 + 2 * d)) = i by omega]; exact hworks⟩
    · rintro ⟨k, hk, rfl, hworks⟩
      refine ⟨?_, hworks⟩
      simp only [List.mem_cons, List.not_mem_nil, or_false]
      omega
  have hdef : m.dieHot d = if ss.isEmpty then true else if ss.any fun s => decide (340 < m.tempAt s) then true
      else if ss.all fun s => decide (m.tempAt s ≤ 328) then false else bit (m.get F.THM_HOT_HOT) d := by rw [hss]; rfl
  refine ⟨?_, ?_, fun hnone => ?_⟩
  · rintro ⟨k, hk, hworks, hhot⟩
    have hin := (hmem _).mpr ⟨k, hk, rfl, hworks⟩
    have hany : (ss.any fun s => decide (340 < m.tempAt s)) = true := List.any_eq_true.mpr ⟨_, hin, decide_eq_true hhot⟩
    rw [hdef, hany]
    simp
  · rintro ⟨k, hk, hworks⟩ hcool
    have hin := (hmem _).mpr ⟨k, hk, rfl, hworks⟩
    have hle : ∀ s ∈ ss, m.tempAt s ≤ 328 := by
      intro s hs
      obtain ⟨k', hk', rfl, hworks'⟩ := (hmem s).mp hs
      exact hcool k' hk' hworks'
    have hempty : ss.isEmpty = false := List.isEmpty_eq_false_iff.mpr (List.ne_nil_of_mem hin)
    have hany : (ss.any fun s => decide (340 < m.tempAt s)) = false := List.any_eq_false.mpr fun s hs => by
      have := hle s hs
      simp
      omega
    have hall : (ss.all fun s => decide (m.tempAt s ≤ 328)) = true := List.all_eq_true.mpr fun s hs => decide_eq_true (hle s hs)
    rw [hdef, hempty, hany, hall]
    rfl
  · have hempty : ss.isEmpty = true := by
      refine List.isEmpty_iff.mpr (List.eq_nil_iff_forall_not_mem.mpr fun i hi => ?_)
      obtain ⟨k, hk, -, hworks⟩ := (hmem i).mp hi
      exact hnone ⟨k, hk, hworks⟩
    rw [hdef, hempty]
    rfl

/-- Tmax as the registers show it. -/
theorem Ctl.max_maxShown {e : Nat × Int} (h : -1024 ≤ e.2 ∧ e.2 < 1024) : tempOf ((m.maxShown e).get F.THM_MAX_TEMP) = e.2 := by
  have hcode : tempCode e.2 % 2 ^ F.THM_MAX_TEMP.width = tempCode e.2 := Nat.mod_eq_of_lt (tempCode_lt e.2)
  have hput : ((m.put F.THM_MAX_TEMP (tempCode e.2)).put F.THM_MAX_SENSOR e.1).peakShown.get F.THM_MAX_TEMP = tempCode e.2 :=
    ((Shows.peakShown _).keeps _ _ (by decide) (by decide)).trans ((Ctl.get_put_fld _ _ (by decide)).trans
      ((Ctl.get_put_same _ _ _).trans hcode))
  have hwarm : (m.maxShown e).get F.THM_MAX_TEMP = tempCode e.2 := by
    unfold Ctl.maxShown
    generalize ((m.put F.THM_MAX_TEMP (tempCode e.2)).put F.THM_MAX_SENSOR e.1).peakShown = x at hput ⊢
    dsimp only
    split <;> exact hput
  rw [hwarm, tempOf_tempCode h.1 h.2]

/-- The hot states as the registers show them. -/
theorem Ctl.hot_hotShown {d : Nat} (hd : d < 16) : bit (m.hotShown.get F.THM_HOT_HOT) d = m.dieHot d := by
  have hget : m.hotShown.get F.THM_HOT_HOT = bitsOf m.dieHot 16 := by
    obtain ⟨x, hx⟩ : ∃ x, x = m.put F.THM_HOT_HOT (bitsOf m.dieHot 16) := ⟨_, rfl⟩
    have hdef : m.hotShown = { x.put F.THM_STATUS_FAST (b2n x.fastSample) with sampleAge := 0 } := by rw [hx]; rfl
    have hput : (x.put F.THM_STATUS_FAST (b2n x.fastSample)).get F.THM_HOT_HOT = bitsOf m.dieHot 16 := by
      rw [Ctl.get_put_fld _ _ (by decide), hx, Ctl.get_put_same]
      exact Nat.mod_eq_of_lt (bitsOf_lt _ _)
    rw [hdef]
    generalize x.put F.THM_STATUS_FAST (b2n x.fastSample) = y at hput ⊢
    exact hput
  rw [hget]
  exact testBit_bitsOf _ hd

/-- The fields that a cool sample shows. -/
def sampleFlds : List Fld :=
  [F.THM_SENSOR_TEMP, F.THM_STATUS_SAMPLED, F.THM_HOT_HOT, F.THM_STATUS_FAST, F.THM_MAX_TEMP, F.THM_MAX_SENSOR, F.THM_PEAK_TEMP,
    F.THM_PEAK_SENSOR, F.THM_STATUS_WARNING]

/-- A sample of readings below the warning point. -/
structure Ctl.CoolSample (m : Ctl) (l : Sample) : Prop where
  base : ∃ i < 4, m.sensorWorks i = true
  temp : ∀ i < 36, m.tempAt i < m.warnAt
  nodup : (l.map (·.1)).Nodup
  range : ∀ e ∈ l, ∃ x, e.2 = some x ∧ -160 ≤ x ∧ x < m.warnAt

/-- The registers after its readings, before Tmax is judged. -/
structure Ctl.CoolTaken (m n : Ctl) (l : Sample) : Prop where
  judged : m.Judged n [F.THM_SENSOR_TEMP, F.THM_STATUS_SAMPLED, F.THM_HOT_HOT, F.THM_STATUS_FAST]
  age : n.sampleAge = 0
  works : ∀ i < 36, n.sensorWorks i = m.sensorWorks i
  read : ∀ e ∈ l, m.sensorWorks e.1.val = true → ∀ t, e.2 = some t → n.tempAt e.1.val = t
  keep : ∀ i < 36, (∀ e ∈ l, e.1.val ≠ i) → n.get F.THM_SENSOR_TEMP i = m.get F.THM_SENSOR_TEMP i
  below : ∀ i < 36, m.sensorWorks i = true → n.tempAt i < m.warnAt
  hot : ∀ d < 16, ∃ k : Ctl, (∀ i < 36, k.sensorWorks i = m.sensorWorks i ∧ k.tempAt i = n.tempAt i) ∧
    bit (n.get F.THM_HOT_HOT) d = k.dieHot d

theorem Ctl.CoolSample.taken {l : Sample} (h : m.CoolSample l) : m.CoolTaken (m.taken l) l := by
  have hwarn := pointOf_range (m.get F.THM_CFG_WARN)
  rw [← Ctl.warnAt] at hwarn
  obtain ⟨-, htemp, hnodup, hrange⟩ := h
  obtain ⟨hshows, hkeep, hread⟩ := Ctl.takeReadings_shown (m := m) hnodup fun e he => by
    obtain ⟨x, hx, hlo, hhi⟩ := hrange e he
    exact ⟨x, hx, hlo, by omega⟩
  obtain ⟨n, hn⟩ : ∃ n, n = (l.foldl Ctl.takeReading m).put F.THM_STATUS_SAMPLED 1 := ⟨_, rfl⟩
  have htaken : m.taken l = n.hotShown := by rw [hn]; rfl
  have hjudgedN : m.Judged n [F.THM_SENSOR_TEMP, F.THM_STATUS_SAMPLED] := by
    rw [hn]
    exact .of_shows (hshows.trans (.put _ _ _))
  have hcodeN : ∀ i < 36, n.get F.THM_SENSOR_TEMP i = (l.foldl Ctl.takeReading m).get F.THM_SENSOR_TEMP i := fun i hi => by
    rw [hn]
    exact Ctl.get_put_fld _ _ (by decide) (by omega)
  have hcode : ∀ i < 36, n.hotShown.get F.THM_SENSOR_TEMP i = (l.foldl Ctl.takeReading m).get F.THM_SENSOR_TEMP i := fun i hi =>
    ((Judged.hotShown n).keeps _ i (by omega) (by decide)).trans (hcodeN i hi)
  have hshown : ∀ e ∈ l, m.sensorWorks e.1.val = true → ∀ t, e.2 = some t → n.hotShown.tempAt e.1.val = t := fun e he hworks t ht => by
    rw [Ctl.tempAt, hcode _ e.1.isLt]
    exact hread e he hworks t ht
  have hsame : ∀ i < 36, (∀ e ∈ l, e.1.val ≠ i) → n.hotShown.get F.THM_SENSOR_TEMP i = m.get F.THM_SENSOR_TEMP i := fun i hi hne =>
    (hcode i hi).trans (hkeep i hi hne)
  rw [htaken]
  refine ⟨hjudgedN.trans (.hotShown n), rfl, fun i hi => (hjudgedN.trans (.hotShown n)).sensorWorks (by decide) (by omega), hshown,
    hsame, fun i hi hworks => ?_, fun d hd => ⟨n, fun i hi => ⟨hjudgedN.sensorWorks (by decide) (by omega), ?_⟩, Ctl.hot_hotShown hd⟩⟩
  · by_cases hin : ∃ e ∈ l, e.1.val = i
    · obtain ⟨e, he, rfl⟩ := hin
      obtain ⟨x, hx, -, hhi⟩ := hrange e he
      rw [hshown e he hworks x hx]
      exact hhi
    · rw [Ctl.tempAt, hsame i hi fun e he hc => hin ⟨e, he, hc⟩]
      exact htemp i hi
  · rw [Ctl.tempAt, Ctl.tempAt, hcode i hi, hcodeN i hi]

/-- Tmax of such a sample is the highest reading of the sensors that count. -/
theorem Ctl.CoolSample.tmax {l : Sample} (h : m.CoolSample l) : ∃ e, (m.taken l).tmax = some e ∧ e.2 < m.warnAt ∧
    (∀ i < 36, m.sensorWorks i = true → (m.taken l).tempAt i ≤ e.2) ∧ ∃ i < 36, m.sensorWorks i = true ∧ (m.taken l).tempAt i = e.2 := by
  obtain ⟨-, -, hworks, -, -, hbelow, -⟩ := h.taken
  obtain ⟨b, hb, hbase⟩ := h.base
  generalize m.taken l = n at *
  have hlist : n.tmaxOf = n.readings := by
    have hany : ((List.range 4).any fun i => n.sensorWorks i) = true :=
      List.any_eq_true.mpr ⟨b, List.mem_range.mpr hb, (hworks b (by omega)).trans hbase⟩
    rw [Ctl.tmaxOf, hany]
    simp
  have hin : ∀ i < 36, m.sensorWorks i = true → (i, n.tempAt i) ∈ n.readings := fun i hi hw =>
    (n.mem_readings _).mpr ⟨hi, (hworks i hi).trans hw, rfl⟩
  rcases n.tmax_cases with ⟨-, hnone⟩ | ⟨e, he, hmem, htop⟩
  · have := hin b (by omega) hbase
    rw [← hlist, hnone] at this
    exact absurd this List.not_mem_nil
  rw [hlist] at hmem htop
  obtain ⟨hlt, hw, htemp⟩ := (n.mem_readings e).mp hmem
  have hw' := (hworks e.1 hlt).symm.trans hw
  exact ⟨e, he, by rw [htemp]; exact hbelow e.1 hlt hw', fun i hi hwi => htop _ (hin i hi hwi), e.1, hlt, hw', htemp.symm⟩

/-- The judgements of such a sample. -/
theorem Ctl.CoolSample.takeSample {l : Sample} (h : m.CoolSample l) (a : Arr) (hmode : m.inMode [.quarantine] = false) :
    (m.taken l).Judged (m.takeSample a l) [F.THM_MAX_TEMP, F.THM_MAX_SENSOR, F.THM_PEAK_TEMP, F.THM_PEAK_SENSOR, F.THM_STATUS_WARNING] ∧
      (m.takeSample a l).sampleAge = (m.taken l).sampleAge ∧
      some (tempOf ((m.takeSample a l).get F.THM_MAX_TEMP)) = (m.taken l).tmax.map (·.2) := by
  obtain ⟨e, he, hlt, -, i, hi, -, hat⟩ := h.tmax
  have hjudged := h.taken.judged
  have hwarn := pointOf_range (m.get F.THM_CFG_WARN)
  rw [← Ctl.warnAt] at hwarn
  have hrange := tempOf_range ((m.taken l).get F.THM_SENSOR_TEMP i)
  rw [← Ctl.tempAt, hat] at hrange
  rw [Ctl.takeSample_some a he, he]
  generalize m.taken l = n at *
  have hmax := Judged.maxShown n e
  have hmaxTemp := Ctl.max_maxShown (m := n) hrange
  have hpoint : (n.maxShown e).warnAt = m.warnAt :=
    congrArg pointOf ((hmax.keeps F.THM_CFG_WARN 0 (by decide) (by decide)).trans (hjudged.keeps _ _ (by decide) (by decide)))
  have hage := n.sampleAge_maxShown e
  generalize n.maxShown e = x at *
  have hwarned := Shows.judgeWarning (m := x) (s := e.1) (t := e.2) (by rw [hpoint]; exact hlt)
  have hmode' : (x.judgeWarning e.1 e.2).inMode [.quarantine] = false :=
    (((hjudged.trans hmax).trans (.of_shows hwarned)).inMode (by decide) _).trans hmode
  rw [Ctl.judgeShutdown_cool (by omega) hmode']
  refine ⟨hmax.trans (.of_shows hwarned), ?_, ?_⟩
  · have hkept : (x.judgeWarning e.1 e.2).sampleAge = x.sampleAge := by rw [hwarned.same]
    exact hkept.trans hage
  · rw [hwarned.keeps F.THM_MAX_TEMP 0 (by decide) (by decide), hmaxTemp]
    rfl

/-- The next state of a command that a sample judges. -/
theorem exec_of_judged {s : State} {c : Instr} {g : Arr → Ctl → Ctl} {x : Ctl} (hc : exec c s = .next (run s g))
    (hx : g s.arr s.ctl.fresh = x) (h : s.ctl.fresh.Judged x l) (hage : x.sampleAge = 0) (hq : s.ctl.Quiet) :
    ∃ t, exec c s = .next t ∧ EndsBut s t l { s.ctl with sampleAge := 0, warmAge := t.ctl.warmAge } ∧
      ∀ f i, f.id ≠ F.FLT_STATUS_FAULTN.id → i < 1048576 → t.ctl.get f i = x.get f i := by
  have hquiet : x.Quiet := by rw [h.same]; exact hq
  have hraised : x.raised = [] := by rw [h.same]; rfl
  have hedits : x.edits = [] := by rw [h.same]; rfl
  have hends := EndsBut.of_effect (m := x) hx hquiet hraised hedits h.keeps rfl
  have hwarm : (run s g).ctl.warmAge = x.warmAge := hends.part (·.warmAge) fun _ => rfl
  have hrest : x.rest = ({ s.ctl with sampleAge := 0, warmAge := x.warmAge } : Ctl).rest := by
    rw [← hage]
    exact (congrArg Ctl.rest h.same).trans rfl
  refine ⟨_, hc, ⟨hends.pending, hends.arr, hends.flds, ?_⟩, fun f i hf hi => ?_⟩
  · rw [hwarm]
    exact hends.rest.trans hrest
  · exact get_of_effect hx hquiet hraised hedits i (fkey_ne hf hi (by decide))

/-- What THERMAL_SAMPLE does after the first sample. -/
theorem exec_thermalSample {s : State} {sample : Sample} (hrun : s.ctl.power = .run) (hsampled : s.ctl.get F.THM_STATUS_SAMPLED = 1) :
    exec (.thermalSample sample) s = .next (run s fun a m => m.takeSample a sample) := by
  have hon : (s.ctl.fresh.alive && s.ctl.fresh.is F.THM_STATUS_SAMPLED) = true := by
    have halive : s.ctl.fresh.alive = true := decide_eq_true hrun
    have his : s.ctl.fresh.is F.THM_STATUS_SAMPLED = true := by simp [Ctl.is, hsampled]
    rw [halive, his]
    rfl
  exact congrArg Host.Outcome.next (run_congr (if_pos hon))

end

end Sys2Proof.Machine

namespace Sys2Proof.ThermalControl

open Sys2Proof.Machine

/-- Settles O12: what the readings leave, then Tmax and its judgements. -/
theorem thermalSample : Obligations.ThermalSample := by
  unfold Obligations.ThermalSample
  intro s sample hq hrun hmode hsampled hbase htemp hnodup hrange
  have hcool : s.ctl.fresh.CoolSample sample := ⟨hbase, htemp, hnodup, hrange⟩
  have htaken := hcool.taken
  obtain ⟨e, he, -, htop, i, hi, hworksI, hat⟩ := hcool.tmax
  obtain ⟨hjudged, hage, hmax⟩ := hcool.takeSample s.arr hmode
  rw [he] at hmax
  have hexec := exec_thermalSample (sample := sample) hrun hsampled
  have hall := htaken.judged.trans hjudged
  have hage' := hage.trans htaken.age
  generalize hx : s.ctl.fresh.takeSample s.arr sample = x at *
  generalize s.ctl.fresh.taken sample = n at *
  obtain ⟨t, ht, hends, hget⟩ := exec_of_judged hexec hx hall hage' hq
  have htemp' : ∀ i < 36, t.ctl.tempAt i = n.tempAt i := fun i hi =>
    (congrArg tempOf (hget _ _ (by decide) (by omega))).trans (hjudged.tempAt (by decide) (by omega))
  have hmax' : tempOf (t.ctl.get F.THM_MAX_TEMP) = e.2 := (congrArg tempOf (hget _ _ (by decide) (by decide))).trans (Option.some.inj hmax)
  refine ⟨t, ht, hends, fun e he hw x hx => ?_, fun i hi hne => ?_, fun i hi hw => ?_, ⟨i, hi, hworksI, ?_⟩, fun d hd => ?_⟩
  · rw [htemp' _ e.1.isLt]
    exact htaken.read e he hw x hx
  · exact ((hget _ _ (by decide) (by omega)).trans (hjudged.keeps _ _ (by omega) (by decide))).trans (htaken.keep i hi hne)
  · rw [htemp' i hi, hmax']
    exact htop i hi hw
  · rw [htemp' i hi, hmax']
    exact hat
  · obtain ⟨k, hk, hhot⟩ := htaken.hot d hd
    have hbit : bit (t.ctl.get F.THM_HOT_HOT) d = k.dieHot d :=
      (congrArg (bit · d) ((hget _ _ (by decide) (by decide)).trans (hjudged.keeps _ _ (by decide) (by decide)))).trans hhot
    have hworksK : ∀ j < 2, k.sensorWorks (4 + 2 * d + j) = s.ctl.sensorWorks (4 + 2 * d + j) := fun j hj => (hk _ (by omega)).1
    have htempK : ∀ j < 2, k.tempAt (4 + 2 * d + j) = t.ctl.tempAt (4 + 2 * d + j) := fun j hj =>
      (hk _ (by omega)).2.trans (htemp' _ (by omega)).symm
    obtain ⟨hhigh, hlow, hnone⟩ := k.dieHot_iff d
    rw [hbit]
    refine ⟨fun h => hhigh ?_, fun h hle => hlow ?_ fun j hj hw => ?_, fun h => hnone fun hc => h ?_⟩
    · obtain ⟨j, hj, hw, hlt⟩ := h
      exact ⟨j, hj, (hworksK j hj).trans hw, by rw [htempK j hj]; exact hlt⟩
    · obtain ⟨j, hj, hw⟩ := h
      exact ⟨j, hj, (hworksK j hj).trans hw⟩
    · rw [htempK j hj]
      exact hle j hj ((hworksK j hj).symm.trans hw)
    · obtain ⟨j, hj, hw⟩ := hc
      exact ⟨j, hj, (hworksK j hj).symm.trans hw⟩

end Sys2Proof.ThermalControl
end

section
/-!
The end of FUSELOAD (R378, R423, R437, R457, R505).
-/

namespace Sys2Proof.Machine

/-! ## What a stage of FUSELOAD leaves -/

/-- Parts that no stage of FUSELOAD changes once the words are read. -/
def Ctl.loadParts (m : Ctl) : List Edit × (Sparse FuseWord × Sparse FuseWord) × Power × Orb × Sparse Die × Bool × Bool :=
  (m.edits, (m.fuse, m.fuseSeen), m.power, m.orb, m.dies, m.cellarOk, m.factoryReq)

/-- A stage keeps those parts and all fields but the ones listed, leaves no request, and raises sources of the part. -/
structure Ctl.Loads (m n : Ctl) (l : List Fld) : Prop where
  quiet : m.Quiet → n.Quiet
  parts : n.loadParts = m.loadParts
  raised : (∀ r ∈ m.raised, r.source < 512) → ∀ r ∈ n.raised, r.source < 512
  keeps : m.KeepsBut n l

section
variable {m n k : Ctl} {l l' : List Fld}

theorem Ctl.Loads.trans (h : m.Loads n l) (h' : n.Loads k l') : m.Loads k (l ++ l') :=
  ⟨fun hq => h'.quiet (h.quiet hq), h'.parts.trans h.parts, fun hr => h'.raised (h.raised hr), h.keeps.trans h'.keeps⟩

theorem Ctl.Loads.refl (m : Ctl) : m.Loads m [] := ⟨id, rfl, id, fun _ _ _ _ => rfl⟩

theorem Ctl.Loads.mono (h : m.Loads n l) (hl : ∀ f ∈ l, f ∈ l') : m.Loads n l' := by
  refine ⟨h.quiet, h.parts, h.raised, fun f i hi hf => h.keeps f i hi fun hmem => hf ?_⟩
  obtain ⟨g, hg, hid⟩ := List.mem_map.mp hmem
  exact List.mem_map.mpr ⟨g, hl g hg, hid⟩

theorem Ctl.Loads.foldl {α : Type} {f : Ctl → α → Ctl} {as : List α} (hf : ∀ a ∈ as, ∀ n : Ctl, n.Loads (f n a) l) (m : Ctl) :
    m.Loads (as.foldl f m) l := by
  induction as generalizing m with
  | nil => exact (Loads.refl m).mono (by simp)
  | cons a as ih => exact ((hf a (by simp) m).trans (ih (fun b hb => hf b (by simp [hb])) _)).mono (by simp)

theorem Ctl.Loads.of_judged (h : m.Judged n l) : m.Loads n l := by
  refine ⟨fun hq => ?_, ?_, fun hr => ?_, h.keeps⟩ <;> rw [h.same]
  · exact hq
  · rfl
  · exact hr

theorem Ctl.Loads.of_shows (h : m.Shows n l) : m.Loads n l := .of_judged (.of_shows h)

theorem Ctl.Loads.raise (m : Ctl) {src : Nat} (info : Nat) (hsrc : src < 512) : m.Loads (m.raise src info) [] := by
  refine ⟨id, rfl, fun hr r hmem => ?_, fun _ _ _ _ => rfl⟩
  rcases List.mem_append.mp hmem with hmem | hmem
  · exact hr r hmem
  · rw [List.mem_singleton.mp hmem]
    exact hsrc

theorem Ctl.Loads.setPc (m : Ctl) (p : Nat) {x : Pc} (hx : x.codeErr = (m.pc p).codeErr) : m.Loads (m.setPc p x) [] :=
  ⟨fun hq => hq.setPc p hx, rfl, id, fun _ _ _ _ => rfl⟩

theorem Ctl.Loads.modPc (m : Ctl) (p : Nat) {f : Pc → Pc} (hf : (f (m.pc p)).codeErr = (m.pc p).codeErr) : m.Loads (m.modPc p f) [] :=
  .setPc m p hf

theorem Ctl.Loads.rmap (m : Ctl) (es : List RSp) : m.Loads { m with rmap := es } [] := ⟨id, rfl, id, fun _ _ _ _ => rfl⟩

/-! ## The words -/

/-- The fields that a word sensed shows. -/
def wordFlds : List Fld := [F.FUSE_WORD_HI_SENSE, F.FUSE_WORD_HI_FAILED, F.FUSE_MARGINAL_COUNT, F.FUSE_MARGINAL_LAST]

theorem fuseOutcome_lt (fx : SenseFx) (t : Sparse FuseWord) (n : Fin 1024) : fuseOutcome fx t n < 4 := by
  unfold fuseOutcome
  dsimp only
  split
  · decide
  split
  · decide
  split
  · split <;> decide
  split
  · split <;> decide
  · split <;> decide
  · decide
  · exact Fin.isLt _

/-- What a failed word shows besides its outcome. -/
def Ctl.wordFails (m : Ctl) (n : Nat) : Ctl := ((m.set F.FUSE_WORD_HI_FAILED n 1).bump F.FUSE_MARGINAL_COUNT).put F.FUSE_MARGINAL_LAST n

theorem Ctl.Shows.wordFails (m : Ctl) {n : Nat} (hn : n < 1048576) :
    m.Shows (m.wordFails n) [F.FUSE_WORD_HI_FAILED, F.FUSE_MARGINAL_COUNT, F.FUSE_MARGINAL_LAST] :=
  ((Shows.set m F.FUSE_WORD_HI_FAILED 1 hn).trans (.set _ F.FUSE_MARGINAL_COUNT _ (by decide))).trans (.put _ _ _)

theorem Ctl.failed_wordFails (m : Ctl) {n j : Nat} (hj : j < 1024) :
    (m.wordFails n).get F.FUSE_WORD_HI_FAILED j = if j = n then 1 else m.get F.FUSE_WORD_HI_FAILED j := by
  have hlater : (m.wordFails n).get F.FUSE_WORD_HI_FAILED j = (m.set F.FUSE_WORD_HI_FAILED n 1).get F.FUSE_WORD_HI_FAILED j :=
    (Ctl.get_put_fld _ _ (by decide) (by omega)).trans (Ctl.get_set_fld _ _ (by decide) (by decide) (by omega))
  rw [hlater]
  split
  · next h =>
    rw [h, Ctl.get_set_same]
    rfl
  · next h =>
    refine Ctl.get_set_other _ _ _ _ _ _ ?_
    simp only [fkey]
    omega

theorem Ctl.senseWord_eq (m : Ctl) (fx : SenseFx) (n : Fin 1024) :
    let o := fuseOutcome fx m.fuseSeen n
    let y := m.set F.FUSE_WORD_HI_SENSE n.val o
    m.senseWord fx n = if o = 3 then (y.wordFails n.val).raise 0x040 (y.fuseInfo n.val)
      else if o = 0 && neverBlank n.val then y.raise 0x040 (y.fuseInfo n.val) else y := rfl

/-- What one word leaves: its outcome, whether it failed, and the other words. -/
theorem Ctl.senseWord_effect (m : Ctl) (fx : SenseFx) (n : Fin 1024) : m.Loads (m.senseWord fx n) wordFlds ∧
    (m.senseWord fx n).get F.FUSE_WORD_HI_SENSE n.val = fuseOutcome fx m.fuseSeen n ∧
    (fuseOutcome fx m.fuseSeen n = 3 → (m.senseWord fx n).get F.FUSE_WORD_HI_FAILED n.val = 1) ∧
    ∀ j < 1024, j ≠ n.val → (m.senseWord fx n).get F.FUSE_WORD_HI_SENSE j = m.get F.FUSE_WORD_HI_SENSE j ∧
      (m.senseWord fx n).get F.FUSE_WORD_HI_FAILED j = m.get F.FUSE_WORD_HI_FAILED j := by
  have hn := n.isLt
  rw [Ctl.senseWord_eq]
  have hlt := fuseOutcome_lt fx m.fuseSeen n
  generalize fuseOutcome fx m.fuseSeen n = o at hlt ⊢
  obtain ⟨y, hy⟩ : ∃ y, y = m.set F.FUSE_WORD_HI_SENSE n.val o := ⟨_, rfl⟩
  have hshows : m.Shows y [F.FUSE_WORD_HI_SENSE] := by rw [hy]; exact .set _ _ _ (by omega)
  have hsense : y.get F.FUSE_WORD_HI_SENSE n.val = o := by
    rw [hy, Ctl.get_set_same]
    exact Nat.mod_eq_of_lt hlt
  have hother : ∀ j < 1024, j ≠ n.val → y.get F.FUSE_WORD_HI_SENSE j = m.get F.FUSE_WORD_HI_SENSE j := fun j hj hne => by
    rw [hy]
    refine Ctl.get_set_other _ _ _ _ _ _ ?_
    simp only [fkey]
    omega
  have hkeep : ∀ j < 1024, y.get F.FUSE_WORD_HI_FAILED j = m.get F.FUSE_WORD_HI_FAILED j := fun j hj =>
    hshows.keeps _ _ (by omega) (by decide)
  have hloads := Loads.of_shows hshows
  simp only [← hy]
  split
  · have hfails := Shows.wordFails y (n := n.val) (by omega)
    have hfailed := fun {j : Nat} => y.failed_wordFails (n := n.val) (j := j)
    generalize y.wordFails n.val = z at hfails hfailed ⊢
    refine ⟨((hloads.trans (.of_shows hfails)).trans (.raise z _ (by decide))).mono (by simp [wordFlds]), ?_, fun _ => ?_, fun j hj hne => ⟨?_, ?_⟩⟩
    · exact (hfails.keeps F.FUSE_WORD_HI_SENSE _ (by omega) (by decide)).trans hsense
    · exact (hfailed hn).trans (if_pos rfl)
    · exact (hfails.keeps F.FUSE_WORD_HI_SENSE _ (by omega) (by decide)).trans (hother j hj hne)
    · exact ((hfailed hj).trans (if_neg hne)).trans (hkeep j hj)
  · next hmarginal =>
    have hrest : ∀ z : Ctl, z.flds = y.flds → z.get F.FUSE_WORD_HI_SENSE n.val = o ∧
        (o = 3 → z.get F.FUSE_WORD_HI_FAILED n.val = 1) ∧
        ∀ j < 1024, j ≠ n.val → z.get F.FUSE_WORD_HI_SENSE j = m.get F.FUSE_WORD_HI_SENSE j ∧
          z.get F.FUSE_WORD_HI_FAILED j = m.get F.FUSE_WORD_HI_FAILED j := fun z hz =>
      ⟨(Ctl.get_congr hz _ _).trans hsense, fun h => absurd h hmarginal, fun j hj hne =>
        ⟨(Ctl.get_congr hz _ _).trans (hother j hj hne), (Ctl.get_congr hz _ _).trans (hkeep j hj)⟩⟩
    split
    · exact ⟨(hloads.trans (.raise y _ (by decide))).mono (by simp [wordFlds]), hrest _ rfl⟩
    · exact ⟨hloads.mono (by simp [wordFlds]), hrest _ rfl⟩

/-- The words that are shown as sensed, of a list. -/
def Ctl.WordsShown (m : Ctl) (fx : SenseFx) (t : Sparse FuseWord) (ns : List (Fin 1024)) : Prop :=
  ∀ n ∈ ns, m.get F.FUSE_WORD_HI_SENSE n.val = fuseOutcome fx t n ∧
    (fuseOutcome fx t n = 3 → m.get F.FUSE_WORD_HI_FAILED n.val = 1)

theorem Ctl.WordsShown.senseWord {fx : SenseFx} {ns : List (Fin 1024)} (h : m.WordsShown fx m.fuseSeen ns) (n : Fin 1024) :
    (m.senseWord fx n).WordsShown fx m.fuseSeen (n :: ns) := by
  obtain ⟨-, hsense, hfailed, hothers⟩ := m.senseWord_effect fx n
  intro j hj
  by_cases hjn : j = n
  · rw [hjn]
    exact ⟨hsense, hfailed⟩
  · obtain ⟨hs, hf⟩ := hothers j.val j.isLt fun hc => hjn (Fin.ext hc)
    obtain ⟨hs', hf'⟩ := h j ((List.mem_cons.mp hj).resolve_left hjn)
    exact ⟨hs.trans hs', fun ho => hf.trans (hf' ho)⟩

/-- The words of a sense. -/
theorem Ctl.senseWords (m : Ctl) (fx : SenseFx) (as ns : List (Fin 1024)) (h : m.WordsShown fx m.fuseSeen ns) :
    m.Loads (as.foldl (fun m n => m.senseWord fx n) m) wordFlds ∧
      (as.foldl (fun m n => m.senseWord fx n) m).WordsShown fx m.fuseSeen (as ++ ns) := by
  induction as generalizing m ns with
  | nil => exact ⟨(Loads.refl m).mono (by simp), h⟩
  | cons a as ih =>
    obtain ⟨hloads, -⟩ := m.senseWord_effect fx a
    have hseen : (m.senseWord fx a).fuseSeen = m.fuseSeen := by
      have hparts := hloads.parts
      simp only [Ctl.loadParts, Prod.mk.injEq] at hparts
      exact hparts.2.1.2
    have hshown := h.senseWord a
    rw [← hseen] at hshown
    obtain ⟨hloads', hshown'⟩ := ih (m.senseWord fx a) (a :: ns) hshown
    rw [hseen] at hshown'
    refine ⟨(hloads.trans hloads').mono (by simp [wordFlds]), fun n hn => hshown' n ?_⟩
    simp only [List.cons_append, List.mem_cons, List.mem_append] at hn ⊢
    tauto

/-! ## Regions, locks, trims and records -/

/-- The fields that the sense shows besides its words. -/
def fuseFlds : List Fld :=
  [F.FUSE_REGION_STATE, F.FUSE_FUSED_LOCK_WL, F.FUSE_FUSED_LOCK_RL, F.FUSE_LOCK_WL, F.FUSE_LOCK_RL, F.GL_ID_BIN, F.FUSE_STATUS_LOADED]

/-- The fields of the lanes that a record spares. -/
def spareLaneFlds : List Fld :=
  [F.PA_LANE_RX_DUSED, F.PA_LANE_RX_DLANE, F.PA_LANE_RX_CUSED, F.PA_LANE_RX_CLANE, F.PA_LANE_TX_DUSED, F.PA_LANE_TX_DLANE,
    F.PA_LANE_TX_CUSED, F.PA_LANE_TX_CLANE]

theorem Ctl.Loads.put (m : Ctl) (f : Fld) (v : Nat) : m.Loads (m.put f v) [f] := .of_shows (.put m f v)

/-- The state of a region is shown, and one that does not hold is raised. -/
def Ctl.regionShown (m : Ctl) (r : Nat) : Ctl :=
  let s := m.judgeRegion r
  let m := m.set F.FUSE_REGION_STATE r s
  if s = 2 then m.raise 0x041 (r * 2 ^ 28) else m

theorem Ctl.Loads.regionShown (m : Ctl) {r : Nat} (hr : r < 4) : m.Loads (m.regionShown r) [F.FUSE_REGION_STATE] := by
  have hset := Loads.of_shows (Shows.set m F.FUSE_REGION_STATE (m.judgeRegion r) (i := r) (by omega))
  unfold Ctl.regionShown
  dsimp only
  split
  · exact (hset.trans (.raise _ _ (by decide))).mono (by simp)
  · exact hset

theorem Ctl.Loads.senseLocks (m : Ctl) : m.Loads m.senseLocks fuseFlds :=
  ((((Loads.put m _ _).trans (.put _ _ _)).trans (.put _ _ _)).trans (.put _ _ _)).mono (by simp [fuseFlds])

theorem Ctl.Loads.setSpare (m : Ctl) (p i : Nat) (x : Spare) : m.Loads (m.setSpare p i x) [] := .setPc m p rfl

theorem Ctl.Loads.softenRecord (m : Ctl) (r : Record) : m.Loads (m.softenRecord r) [] := by
  unfold Ctl.softenRecord
  split
  · exact .rmap m _
  · split
    · exact .setSpare m _ _ _
    · exact .refl m
  · exact .refl m

/-- The PERSIST flags that fall with a record. -/
def Ctl.softened (m : Ctl) (n : Nat) : Ctl :=
  match decodeRecord (fuseBase m.fuseSeen n) with | some r => m.softenRecord r | none => m

theorem Ctl.Loads.softened (m : Ctl) (n : Nat) : m.Loads (m.softened n) [] := by
  unfold Ctl.softened
  split
  · exact .softenRecord m _
  · exact .refl m

/-- A sense after its words. -/
def Ctl.senseRest (m : Ctl) : Ctl :=
  let m := (List.range 4).foldl Ctl.regionShown m
  let m := m.senseLocks
  let m := m.put F.GL_ID_BIN (if m.identityFailed then 1
    else b2n (Config.binOf (m.fuseBits 0) (m.fuseBits 1) (m.fuseBits 2) (m.fuseBits 3)))
  let soft := recordWords.filter fun n => m.senseOf n != 0 && m.wordFailed n
  (soft.foldl Ctl.softened m).put F.FUSE_STATUS_LOADED 1

theorem Ctl.sense_eq (m : Ctl) (fx : SenseFx) :
    m.sense fx = ((List.finRange 1024).foldl (fun (m : Ctl) n => m.senseWord fx n) { m with fuseSeen := m.fuse }).senseRest := by
  unfold Ctl.sense Ctl.senseRest Ctl.regionShown Ctl.softened
  rfl

theorem Ctl.Loads.senseRest (m : Ctl) : m.Loads m.senseRest fuseFlds ∧ m.senseRest.get F.FUSE_STATUS_LOADED = 1 := by
  have hregions := Loads.foldl (f := Ctl.regionShown) (as := List.range 4) (fun r hr n => .regionShown n (List.mem_range.mp hr)) m
  unfold Ctl.senseRest
  extract_lets x y b soft
  have hbefore : m.Loads (soft.foldl Ctl.softened b) fuseFlds :=
    (((hregions.trans (.senseLocks x)).trans (.put y _ _)).trans (Loads.foldl (fun n _ k => .softened k n) b)).mono (by simp [fuseFlds])
  refine ⟨(hbefore.trans (.put _ _ _)).mono (by simp [fuseFlds]), ?_⟩
  rw [Ctl.get_put_same]
  rfl

theorem Ctl.Loads.senseTrims (m : Ctl) : m.Loads m.senseTrims [F.CAL_TRO_TRIM] := by
  have hparts : ∀ c ts, m.Loads { m with clk := c, trims := ts } [] := fun c ts => ⟨id, rfl, id, fun _ _ _ _ => rfl⟩
  exact (hparts _ _).trans (.put _ F.CAL_TRO_TRIM _)

theorem Ctl.Loads.setPortLane (m : Ctl) {p g : Nat} (hp : p < 2) (hg : g < 16) (dir kind lane : Nat) :
    m.Loads (m.setPortLane p g dir kind lane) spareLaneFlds := by
  have hlane : ∀ f f' : Fld, f ∈ spareLaneFlds → f' ∈ spareLaneFlds →
      m.Loads ((m.set f (p * 16 + g) 1).set f' (p * 16 + g) lane) spareLaneFlds := fun f f' hf hf' =>
    (Loads.of_shows ((Shows.set m f 1 (by omega)).trans (.set _ f' lane (by omega)))).mono (by simp [hf, hf'])
  unfold Ctl.setPortLane
  dsimp only
  split
  · exact hlane F.PA_LANE_RX_DUSED F.PA_LANE_RX_DLANE (by simp [spareLaneFlds]) (by simp [spareLaneFlds])
  · exact hlane F.PA_LANE_RX_CUSED F.PA_LANE_RX_CLANE (by simp [spareLaneFlds]) (by simp [spareLaneFlds])
  · exact hlane F.PA_LANE_TX_DUSED F.PA_LANE_TX_DLANE (by simp [spareLaneFlds]) (by simp [spareLaneFlds])
  · exact hlane F.PA_LANE_TX_CUSED F.PA_LANE_TX_CLANE (by simp [spareLaneFlds]) (by simp [spareLaneFlds])

/-- A record of a port names one of its 16 groups. -/
theorem decodeRecord_port {d p g dir kind lane : Nat} (h : decodeRecord d = some (.port p g dir kind lane)) : p < 2 ∧ g < 16 := by
  have hbits : ∀ lo n, bits d lo n < 2 ^ n := fun lo n => Nat.mod_lt _ (Nat.two_pow_pos n)
  unfold decodeRecord at h
  split at h
  case h_4 =>
    dsimp only at h
    split at h
    · obtain ⟨rfl, rfl, -⟩ : bits d 4 1 = p ∧ bits d 5 4 = g ∧ True := by simp_all
      exact ⟨hbits 4 1, hbits 5 4⟩
    · exact absurd h (by simp)
  all_goals exact absurd h (by simp)

theorem Ctl.Loads.applyRecord (m : Ctl) {r : Record} {d : Nat} (h : decodeRecord d = some r) : m.Loads (m.applyRecord r) spareLaneFlds := by
  unfold Ctl.applyRecord
  split
  · exact (Loads.modPc m _ rfl).mono (by simp)
  · exact (Loads.modPc m _ rfl).mono (by simp)
  · exact (Loads.modPc m _ rfl).mono (by simp)
  · obtain ⟨hp, hg⟩ := decodeRecord_port h
    exact .setPortLane m hp hg _ _ _
  · exact (Loads.rmap m _).mono (by simp)
  · split
    · exact (Loads.refl m).mono (by simp)
    · exact (Loads.setSpare m _ _ _).mono (by simp)
    · exact (Loads.refl m).mono (by simp)

theorem Ctl.Loads.applyRecords (m : Ctl) : m.Loads m.applyRecords spareLaneFlds := by
  refine Loads.foldl (fun n _ k => ?_) m
  split
  · next r hr =>
    unfold Ctl.recordOf at hr
    split at hr
    · exact absurd hr (by simp)
    · exact .applyRecord k hr
  · exact (Loads.refl k).mono (by simp)

/-! ## A sample without a shutdown -/

theorem Ctl.Loads.inMode (h : m.Loads n l) (hl : F.GL_MODE_STATE.id ∉ l.map Fld.id) (ms : List Mode) : n.inMode ms = m.inMode ms := by
  have hparts := h.parts
  simp only [Ctl.loadParts, Prod.mk.injEq] at hparts
  obtain ⟨-, -, hpower, -⟩ := hparts
  unfold Ctl.inMode Ctl.mode
  rw [h.keeps _ _ (by decide) hl, hpower]

/-- The fields of the readings. -/
def readFlds : List Fld := [F.THM_SENSOR_TEMP, F.THM_SENSOR_FAILED]

/-- Readings below the shutdown point leave all below it. -/
theorem Ctl.Loads.takeReadings {sample : Sample} (m : Ctl) (htemp : ∀ i < 36, m.tempAt i < 460)
    (hsample : ∀ e ∈ sample, ∀ x, e.2 = some x → x < 460) :
    m.Loads (sample.foldl Ctl.takeReading m) readFlds ∧ ∀ i < 36, (sample.foldl Ctl.takeReading m).tempAt i < 460 := by
  induction sample generalizing m with
  | nil => exact ⟨(Loads.refl m).mono (by simp), htemp⟩
  | cons e sample ih =>
    have hsensor := e.1.isLt
    have hone : m.Loads (m.takeReading e) readFlds ∧ ∀ i < 36, (m.takeReading e).tempAt i < 460 := by
      rcases m.takeReading_cases e with h | ⟨-, x, hx, hlo, hhi, h⟩ | ⟨info, h⟩
      · rw [h]
        exact ⟨(Loads.refl m).mono (by simp), htemp⟩
      · rw [h]
        refine ⟨(Loads.of_shows (.set m F.THM_SENSOR_TEMP _ (by omega))).mono (by simp [readFlds]), fun i hi => ?_⟩
        by_cases hie : i = e.1.val
        · have hcode : tempCode x % 2 ^ F.THM_SENSOR_TEMP.width = tempCode x := Nat.mod_eq_of_lt (tempCode_lt x)
          rw [hie, Ctl.tempAt, Ctl.get_set_same, hcode, tempOf_tempCode (by omega) (by omega)]
          exact hsample e (by simp) x hx
        · have hother : (m.set F.THM_SENSOR_TEMP e.1.val (tempCode x)).tempAt i = m.tempAt i := by
            refine congrArg tempOf (Ctl.get_set_other _ _ _ _ _ _ ?_)
            simp only [fkey]
            omega
          rw [hother]
          exact htemp i hi
      · rw [h]
        have hset := Shows.set m F.THM_SENSOR_FAILED 1 (i := e.1.val) (by omega)
        refine ⟨((Loads.of_shows hset).trans (.raise _ info (by decide))).mono (by simp [readFlds]), fun i hi => ?_⟩
        have hsame : ((m.set F.THM_SENSOR_FAILED e.1.val 1).raise 0x033 info).tempAt i = m.tempAt i :=
          congrArg tempOf ((Ctl.get_congr rfl _ _).trans (hset.keeps F.THM_SENSOR_TEMP i (by omega) (by decide)))
        rw [hsame]
        exact htemp i hi
    obtain ⟨hloads, htemps⟩ := ih (m.takeReading e) hone.2 fun e' he' => hsample e' (by simp [he'])
    exact ⟨(hone.1.trans hloads).mono (by simp), htemps⟩

theorem Ctl.Loads.judgeWarning (m : Ctl) (s : Nat) (t : Int) :
    m.Loads (m.judgeWarning s t) [F.THM_STATUS_WARNING, F.THM_COUNT_WARNINGS] := by
  unfold Ctl.judgeWarning
  split
  · split
    · exact (Loads.refl m).mono (by simp)
    · exact (((Loads.put m _ _).trans (.of_shows (.set _ F.THM_COUNT_WARNINGS _ (by decide)))).trans (.raise _ _ (by decide))).mono (by simp)
  · split
    · exact (Loads.put m _ _).mono (by simp)
    · exact (Loads.refl m).mono (by simp)

/-- The fields that a sample shows. -/
def thermalFlds : List Fld := sampleFlds ++ [F.THM_SENSOR_FAILED, F.THM_COUNT_WARNINGS]

/-- What a sample without a shutdown leaves. -/
theorem Ctl.Loads.takeSample {sample : Sample} (m : Ctl) (a : Arr) (hmode : m.inMode [.quarantine] = false)
    (htemp : ∀ i < 36, m.tempAt i < 460) (hsample : ∀ e ∈ sample, ∀ x, e.2 = some x → x < 460) :
    m.Loads (m.takeSample a sample) thermalFlds ∧ (m.takeSample a sample).get F.THM_STATUS_SAMPLED = 1 := by
  obtain ⟨hread, hbelow⟩ := Loads.takeReadings m htemp hsample
  obtain ⟨n, hn⟩ : ∃ n, n = (sample.foldl Ctl.takeReading m).put F.THM_STATUS_SAMPLED 1 := ⟨_, rfl⟩
  have htaken : m.taken sample = n.hotShown := by rw [hn]; rfl
  have hput : (sample.foldl Ctl.takeReading m).Loads n [F.THM_STATUS_SAMPLED] := by rw [hn]; exact .put _ _ _
  have hon : n.get F.THM_STATUS_SAMPLED = 1 := by
    rw [hn, Ctl.get_put_same]
    rfl
  have hhot := Judged.hotShown n
  have hloads := (hread.trans hput).trans (.of_judged hhot)
  have hsampled : n.hotShown.get F.THM_STATUS_SAMPLED = 1 := (hhot.keeps _ _ (by decide) (by decide)).trans hon
  have hcool : ∀ i < 36, n.hotShown.tempAt i < 460 := fun i hi => by
    rw [hhot.tempAt (by decide) (by omega), Ctl.tempAt, hput.keeps F.THM_SENSOR_TEMP i (by omega) (by decide)]
    exact hbelow i hi
  rcases n.hotShown.tmax_cases with ⟨hnone, -⟩ | ⟨e, he, hmem, -⟩
  · rw [Ctl.takeSample_none a (by rw [htaken]; exact hnone), htaken]
    exact ⟨hloads.mono (by simp [readFlds, thermalFlds, sampleFlds]), hsampled⟩
  have hlt : e.2 < 460 := by
    rcases List.mem_append.mp hmem with hmem | hmem
    · obtain ⟨hi, -, htempE⟩ := (Ctl.mem_readings _ _).mp hmem
      rw [htempE]
      exact hcool _ hi
    · split at hmem
      · exact absurd hmem List.not_mem_nil
      · have hpoint := pointOf_range (n.hotShown.get F.THM_CFG_THROTTLE)
        rw [List.mem_singleton.mp hmem]
        exact lt_of_le_of_lt hpoint.2 (by decide)
  rw [Ctl.takeSample_some a (by rw [htaken]; exact he), htaken]
  generalize n.hotShown = k at hloads hsampled ⊢
  have hmax := Judged.maxShown k e
  generalize k.maxShown e = x at hmax ⊢
  have hwarned := Loads.judgeWarning x e.1 e.2
  have hall := (hloads.trans (.of_judged hmax)).trans hwarned
  rw [Ctl.judgeShutdown_cool hlt ((hall.inMode (by decide) _).trans hmode)]
  refine ⟨hall.mono (by simp [readFlds, thermalFlds, sampleFlds]), ?_⟩
  exact (hwarned.keeps _ _ (by decide) (by decide)).trans ((hmax.keeps _ _ (by decide) (by decide)).trans hsampled)

/-! ## Raises before TRAINING -/

theorem Ctl.OnlyLogged.of_onlyFlds {l : List (Fld × Nat)} (h : m.OnlyFlds n l)
    (hl : ∀ e ∈ l, e.1.id ∈ [427, 417, 416, 418, 425] ∧ e.2 < 1048576) (hhead : n.get F.FLT_LOG_HEAD_HEAD < 256) (hout : n.out = m.out) :
    m.OnlyLogged n := by
  refine ⟨fun f i hf hi => h.get hl hf hi, ?_, h.quiet, h.edits, h.raised, hhead, hout⟩
  rw [h.rest, Ctl.held_of_rest h.rest]
  cases m
  rfl

theorem Ctl.OnlyLogged.logWrite (m : Ctl) (r : Raised) (hsrc : r.source < 512) (hhead : m.get F.FLT_LOG_HEAD_HEAD < 256) :
    m.OnlyLogged (m.logWrite r) := by
  refine .of_onlyFlds ⟨Ctl.rest_of_logWrite m r, Ctl.raised_logWrite m r, Ctl.edits_logWrite m r, Ctl.SameFlds.logWrite m r⟩ ?_
    (Ctl.head_logWrite m r hsrc) (Ctl.out_logWrite m r)
  simp only [List.mem_append, List.mem_map, List.mem_range, List.mem_cons, List.not_mem_nil, or_false]
  rintro e (((⟨k, hk, rfl⟩ | rfl) | rfl) | rfl)
  · exact ⟨by simp [F.FLT_LOG_DATA], by dsimp only; omega⟩
  · exact ⟨by decide, by decide⟩
  · exact ⟨by decide, by decide⟩
  · exact ⟨by simp [F.FLT_PEND_PEND], by dsimp only; omega⟩

theorem Ctl.OnlyLogged.lost (m : Ctl) {src : Nat} (hsrc : src < 512) (hhead : m.get F.FLT_LOG_HEAD_HEAD < 256) :
    m.OnlyLogged ((m.bump F.FLT_LOG_LOST_COUNT).setPend src) := by
  refine .of_onlyFlds ((Ctl.OnlyFlds.bump m F.FLT_LOG_LOST_COUNT 0).trans (.set _ F.FLT_PEND_PEND (src / 32) _)) ?_ ?_ rfl
  · intro e he
    simp only [List.cons_append, List.nil_append, List.mem_cons, List.not_mem_nil, or_false] at he
    rcases he with rfl | rfl
    · exact ⟨by decide, by decide⟩
    · exact ⟨by simp [F.FLT_PEND_PEND], by dsimp only; omega⟩
  · have hkept : ((m.bump F.FLT_LOG_LOST_COUNT).setPend src).get F.FLT_LOG_HEAD_HEAD = m.get F.FLT_LOG_HEAD_HEAD :=
      (Ctl.get_set_fld _ _ (by decide) (by omega) (by decide)).trans (Ctl.get_bump_fld _ (by decide))
    rw [hkept]
    exact hhead

theorem Ctl.OnlyLogged.held (h : m.OnlyLogged n) (q : List (Raised × Option Nat)) : m.OnlyLogged { n with held := q } := by
  refine ⟨fun f i hf hi => (Ctl.get_congr rfl f i).trans (h.flds f i hf hi), ?_, fun hq => h.quiet hq, h.edits, h.raised,
    (Ctl.get_congr rfl _ _).trans_lt h.head, h.out⟩
  have hrest : ({ n with held := q } : Ctl).rest = { n.rest with held := q } := by cases n; rfl
  rw [hrest, h.rest]

/-- Before TRAINING a raise is logged, or lost to a full log, and its reactions are held. -/
theorem Ctl.OnlyLogged.handle_early (a : Arr) (r : Raised) (hmode : m.inMode [.powered, .fuseload, .selftest] = true)
    (hcopy : m.canCopy = false) (hsrc : r.source < 512) (hhead : m.get F.FLT_LOG_HEAD_HEAD < 256) : m.OnlyLogged (m.handle a r) := by
  obtain ⟨n, hn, hlogged⟩ : ∃ n, (m.writeLog a r).1.setPend r.source = n ∧ m.OnlyLogged n := by
    by_cases hfull : 256 ≤ m.get F.FLT_LOG_HEAD_TOTAL
    · refine ⟨_, ?_, .lost m hsrc hhead⟩
      simp only [Ctl.writeLog, hfull, hcopy, decide_true, Bool.not_false, Bool.true_and, if_true]
    · refine ⟨_, ?_, .logWrite m r hsrc hhead⟩
      simp only [Ctl.writeLog, hfull, decide_false, Bool.false_and, Bool.false_eq_true, if_false]
      rw [Ctl.logWrite]
  unfold Ctl.handle
  simp only [hn]
  rw [if_pos ((hlogged.inMode _).trans hmode)]
  exact hlogged.held _

theorem Ctl.OnlyLogged.foldl_early (a : Arr) {rs : List Raised} (hmode : m.inMode [.powered, .fuseload, .selftest] = true)
    (hcopy : m.canCopy = false) (hrs : ∀ r ∈ rs, r.source < 512) (hhead : m.get F.FLT_LOG_HEAD_HEAD < 256) :
    m.OnlyLogged (rs.foldl (fun m r => m.handle a r) m) := by
  induction rs generalizing m with
  | nil => exact .refl hhead
  | cons r rs ih =>
    have hone := Ctl.OnlyLogged.handle_early a r hmode hcopy (hrs r (by simp)) hhead
    exact hone.trans (ih ((hone.inMode _).trans hmode) (hone.canCopy.trans hcopy) (fun r' hr' => hrs r' (by simp [hr'])) hone.head)

/-- The end of a command before TRAINING. -/
theorem Ctl.OnlyLogged.settle_early (a : Arr) (hq : m.Quiet) (hmode : m.inMode [.powered, .fuseload, .selftest] = true)
    (hcopy : m.canCopy = false) (hrs : ∀ r ∈ m.raised, r.source < 512) (hhead : m.get F.FLT_LOG_HEAD_HEAD < 256) :
    ∃ n : Ctl, ({ m with raised := [] } : Ctl).OnlyLogged n ∧ m.settle a = n.drive := by
  by_cases hr : m.raised = []
  · refine ⟨m, ?_, Ctl.settle_quiet hq hr a⟩
    have hself : ({ m with raised := [] } : Ctl) = m := by
      cases m
      simp only at hr
      subst hr
      rfl
    rw [hself]
    exact .refl hhead
  obtain ⟨k, hk⟩ : ∃ k : Ctl, k = { m with raised := [] } := ⟨_, rfl⟩
  have hkmode : k.inMode [.powered, .fuseload, .selftest] = true := by rw [hk]; exact hmode
  have hlogged := Ctl.OnlyLogged.foldl_early (m := k) a (rs := m.raised.sorted fun x y => decide (x.source ≤ y.source)) hkmode
    (by rw [hk]; exact hcopy) (fun r hmem => hrs r ((List.mem_sorted _ _ _).mp hmem)) (by rw [hk]; exact hhead)
  have hreact : m.reactAll a = (m.raised.sorted fun x y => decide (x.source ≤ y.source)).foldl (fun m r => m.handle a r) k := by
    have hnone : (m.raised.sorted fun x y => decide (x.source ≤ y.source)).any (fun r => k.wantsReset r) = false := by
      refine List.any_eq_false.mpr fun r _ => ?_
      have hlate : k.inMode [.powered, .fuseload, .selftest, .training, .quarantine, .factory] = true :=
        Ctl.inMode_mono hkmode (by decide)
      simp [Ctl.wantsReset, hlate]
    unfold Ctl.reactAll
    rw [← hk]
    simp only [hnone, Bool.false_eq_true, if_false]
  rw [← hk]
  refine ⟨_, hlogged, ?_⟩
  rw [← hreact]
  refine Ctl.settle_raised hq hr a ?_ ?_
  · rw [hreact]
    exact hlogged.quiet (by rw [hk]; exact hq)
  · rw [hreact, hlogged.raised, hk]

/-! ## The end of FUSELOAD -/

/-- The fuses sensed, the records applied and the first sample taken. -/
def Ctl.fuseLoaded (m : Ctl) (fx : SenseFx) (a : Arr) (sample : Sample) : Ctl :=
  let m := (m.sense fx).senseTrims
  (if m.bistShort then m else m.applyRecords).takeSample a sample

/-- The fields that the load shows. -/
def loadFlds : List Fld := wordFlds ++ fuseFlds ++ [F.CAL_TRO_TRIM] ++ spareLaneFlds ++ thermalFlds

theorem Ctl.fuseLoaded_effect (m : Ctl) (fx : SenseFx) (a : Arr) {sample : Sample} (hmode : m.inMode [.fuseload] = true)
    (htemp : ∀ i < 36, m.tempAt i < 460) (hsample : ∀ e ∈ sample, ∀ x, e.2 = some x → x < 460) :
    ({ m with fuseSeen := m.fuse } : Ctl).Loads (m.fuseLoaded fx a sample) loadFlds ∧
      (m.fuseLoaded fx a sample).WordsShown fx m.fuse (List.finRange 1024) ∧
      (m.fuseLoaded fx a sample).get F.FUSE_STATUS_LOADED = 1 ∧ (m.fuseLoaded fx a sample).get F.THM_STATUS_SAMPLED = 1 := by
  obtain ⟨k, hk⟩ : ∃ k : Ctl, k = { m with fuseSeen := m.fuse } := ⟨_, rfl⟩
  have hkseen : k.fuseSeen = m.fuse := by rw [hk]
  obtain ⟨hwords, hshown⟩ := k.senseWords fx (List.finRange 1024) [] (by simp [Ctl.WordsShown])
  rw [hkseen, List.append_nil] at hshown
  obtain ⟨w, hw⟩ : ∃ w, w = (List.finRange 1024).foldl (fun (m : Ctl) n => m.senseWord fx n) k := ⟨_, rfl⟩
  have hsense : m.sense fx = w.senseRest := by rw [Ctl.sense_eq, ← hk, ← hw]
  rw [← hw] at hwords hshown
  obtain ⟨hrest, hloaded⟩ := Loads.senseRest w
  have htrims := Loads.senseTrims w.senseRest
  obtain ⟨y, hy⟩ : ∃ y, y = if w.senseRest.senseTrims.bistShort then w.senseRest.senseTrims else w.senseRest.senseTrims.applyRecords :=
    ⟨_, rfl⟩
  have hrecords : w.senseRest.senseTrims.Loads y spareLaneFlds := by
    rw [hy]
    split
    · exact (Loads.refl _).mono (by simp)
    · exact .applyRecords _
  have hdef : m.fuseLoaded fx a sample = y.takeSample a sample := by
    rw [hy, Ctl.fuseLoaded, hsense]
  have hlater := (hrest.trans htrims).trans hrecords
  have hbefore := hwords.trans hlater
  have hmode' : y.inMode [.quarantine] = false := by
    refine (hbefore.inMode (by decide) _).trans ?_
    rw [hk]
    exact Ctl.inMode_disjoint (m := m) hmode (by decide)
  have htemp' : ∀ i < 36, y.tempAt i < 460 := fun i hi => by
    rw [Ctl.tempAt, hbefore.keeps F.THM_SENSOR_TEMP i (by omega) (by decide), hk]
    exact htemp i hi
  obtain ⟨htaken, hsampled⟩ := Loads.takeSample y a hmode' htemp' hsample
  rw [← hk, hdef]
  have hafter := hlater.trans htaken
  refine ⟨(hbefore.trans htaken).mono (by simp [loadFlds]), fun n hn => ?_, ?_, hsampled⟩
  · obtain ⟨hs, hf⟩ := hshown n hn
    have hlt := n.isLt
    exact ⟨(hafter.keeps _ _ (by omega) (by decide)).trans hs, fun ho => (hafter.keeps _ _ (by omega) (by decide)).trans (hf ho)⟩
  · exact (((htrims.trans hrecords).trans htaken).keeps _ _ (by decide) (by decide)).trans hloaded

/-- The fields of SELFTEST's entry. -/
def selftestFlds : List Fld := [F.GL_MODE_PREV, F.GL_MODE_STATE, F.BIST_STATUS_WIPING]

theorem Ctl.enterSelftest_effect (m : Ctl) : m.Loads m.enterSelftest selftestFlds ∧ m.enterSelftest.mode = Mode.selftest.code ∧
    m.enterSelftest.get F.GL_MODE_PREV = m.mode % 2 ^ F.GL_MODE_PREV.width ∧ m.enterSelftest.bistNext = 0 ∧
    (m.factoryReq = true → m.enterSelftest.get F.BIST_STATUS_WIPING = 1) := by
  have hshows := Shows.setMode m .selftest
  have hmode := Ctl.mode_setMode m .selftest
  have hprev : (m.setMode .selftest).get F.GL_MODE_PREV = m.mode % 2 ^ F.GL_MODE_PREV.width :=
    (Ctl.get_put_fld _ _ (by decide)).trans (Ctl.get_put_same _ _ _)
  unfold Ctl.enterSelftest
  generalize m.setMode .selftest = n at hshows hmode hprev ⊢
  obtain ⟨k, hk⟩ : ∃ k : Ctl, k = { n with bistNext := 0 } := ⟨_, rfl⟩
  have hloads : m.Loads k [F.GL_MODE_PREV, F.GL_MODE_STATE] := by
    rw [hk]
    exact (Loads.of_shows hshows).trans (l' := []) ⟨id, rfl, id, fun _ _ _ _ => rfl⟩
  have hreq : n.factoryReq = m.factoryReq := by rw [hshows.same]
  have hkmode : k.mode = Mode.selftest.code := by rw [hk]; exact hmode
  have hkprev : k.get F.GL_MODE_PREV = m.mode % 2 ^ F.GL_MODE_PREV.width := by rw [hk]; exact hprev
  have hknext : k.bistNext = 0 := by rw [hk]
  simp only [← hk]
  split
  · refine ⟨(hloads.trans (.put _ _ _)).mono (by simp [selftestFlds]), ?_, ?_, hknext, fun _ => ?_⟩
    · exact (Ctl.get_put_fld _ _ (by decide)).trans hkmode
    · exact (Ctl.get_put_fld _ _ (by decide)).trans hkprev
    · exact (Ctl.get_put_same _ _ _).trans rfl
  · next hnone => exact ⟨hloads.mono (by simp [selftestFlds]), hkmode, hkprev, hknext, fun h => absurd (hreq.trans h) hnone⟩

end

/-- The next state of a command that raises before TRAINING and changes no byte. -/
theorem exec_of_early {s : State} {c : Instr} {g : Arr → Ctl → Ctl} {x : Ctl} (hc : exec c s = .next (run s g))
    (hx : g s.arr s.ctl.fresh = x) (hq : x.Quiet) (hedits : x.edits = []) (hmode : x.inMode [.powered, .fuseload, .selftest] = true)
    (hcopy : x.canCopy = false) (hrs : ∀ r ∈ x.raised, r.source < 512) (hhead : x.get F.FLT_LOG_HEAD_HEAD < 256) :
    ∃ t, exec c s = .next t ∧ t.pending = s.pending ∧ t.arr = s.arr ∧ t.ctl.rest = { x.rest with held := t.ctl.held } ∧
      ∀ f i, f.id ∉ [427, 417, 416, 418, 425, 415] → i < 1048576 → t.ctl.get f i = x.get f i := by
  obtain ⟨n, hlogged, hsettle⟩ := Ctl.OnlyLogged.settle_early s.arr hq hmode hcopy hrs hhead
  obtain ⟨y, hy⟩ : ∃ y : Ctl, y = { x with raised := [] } := ⟨_, rfl⟩
  have hyrest : y.rest = x.rest := by rw [hy]; rfl
  have hyget : ∀ f i, y.get f i = x.get f i := fun f i => by rw [hy]; rfl
  have hyedits : y.edits = x.edits := by rw [hy]
  rw [← hy] at hlogged
  have hrun : (run s g).ctl = { n.drive with edits := [], raised := [] } := by rw [run, hx, hsettle]
  have hdrive := Ctl.rest_of_drive n
  have hget := Ctl.get_drive n
  have hrest : ({ n.drive with edits := [], raised := [] } : Ctl).rest = n.rest := Eq.trans rfl hdrive
  refine ⟨_, hc, rfl, ?_, ?_, fun f i hf hi => ?_⟩
  · rw [run, hx, hsettle, Ctl.edits_drive, hlogged.edits, hyedits, hedits]
    rfl
  · have hheld : (run s g).ctl.held = n.held := by
      rw [hrun]
      exact Ctl.held_of_rest hrest
    rw [hheld, hrun, hrest, hlogged.rest, hyrest]
  · simp only [List.mem_cons, List.not_mem_nil, or_false, not_or] at hf
    obtain ⟨h1, h2, h3, h4, h5, hpin⟩ := hf
    rw [hrun]
    refine (Ctl.get_congr rfl f i).trans ((hget f i (fkey_ne hpin hi (by decide))).trans ((hlogged.flds f i ?_ hi).trans (hyget f i)))
    simp only [List.mem_cons, List.not_mem_nil, or_false, not_or]
    exact ⟨h1, h2, h3, h4, h5⟩

/-- What FUSE_SENSE does in FUSELOAD, for a sample without a shutdown. -/
theorem exec_fuseSense {s : State} {fx : SenseFx} {sample : Sample} (hmode : s.ctl.inMode [.fuseload] = true)
    (hafter : (s.ctl.fresh.fuseLoaded fx s.arr sample).inMode [.fuseload] = true) :
    exec (.fuseSense fx sample) s = .next (run s fun a m => (m.fuseLoaded fx a sample).enterSelftest) := by
  have hstay : s.ctl.fresh.leavePowered = s.ctl.fresh := by
    have hnot : s.ctl.fresh.inMode [.powered] = false := Ctl.inMode_disjoint (m := s.ctl) hmode (by decide)
    rw [Ctl.leavePowered, hnot]
    rfl
  refine congrArg Host.Outcome.next (run_congr ?_)
  rw [hstay]
  exact (if_pos hmode).trans (if_pos hafter)

end Sys2Proof.Machine

namespace Sys2Proof.PowerAndModes

open Sys2Proof.Machine

/-- Settles O8: what the load leaves, then SELFTEST's entry, with every raise held. -/
theorem fuseSense : Obligations.FuseSense := by
  unfold Obligations.FuseSense
  intro s fx sample hq hmode hcellar hhead htemp hsample
  obtain ⟨hload, hwords, hloaded, hsampled⟩ := s.ctl.fresh.fuseLoaded_effect fx s.arr hmode htemp hsample
  have hafter : (s.ctl.fresh.fuseLoaded fx s.arr sample).inMode [.fuseload] = true := (hload.inMode (by decide) _).trans hmode
  have hexec := exec_fuseSense (fx := fx) (sample := sample) hmode hafter
  obtain ⟨k, hk⟩ : ∃ k : Ctl, k = { s.ctl.fresh with fuseSeen := s.ctl.fresh.fuse } := ⟨_, rfl⟩
  rw [← hk] at hload
  generalize hy : s.ctl.fresh.fuseLoaded fx s.arr sample = y at *
  obtain ⟨henter, hmode', hprev, hnext, hwipe⟩ := y.enterSelftest_effect
  have hall := hload.trans henter
  generalize hx : y.enterSelftest = x at *
  have heffect : (s.ctl.fresh.fuseLoaded fx s.arr sample).enterSelftest = x := by rw [hy, hx]
  have hparts := hall.parts
  have hstart : k.loadParts = ([], (s.ctl.fuse, s.ctl.fuse), s.ctl.power, s.ctl.orb, s.ctl.dies, s.ctl.cellarOk, s.ctl.factoryReq) := by
    rw [hk]
    rfl
  rw [hstart] at hparts
  simp only [Ctl.loadParts, Prod.mk.injEq] at hparts
  obtain ⟨hedits, ⟨hfuse, -⟩, hpower, horb, hdies, hcellar', -⟩ := hparts
  have hreq : y.factoryReq = s.ctl.factoryReq := by
    have hyparts := hload.parts
    rw [hstart] at hyparts
    simp only [Ctl.loadParts, Prod.mk.injEq] at hyparts
    exact hyparts.2.2.2.2.2.2
  have hrun : s.ctl.power = .run := by
    simp only [Ctl.inMode, Bool.and_eq_true, decide_eq_true_eq] at hmode
    exact hmode.1
  have hself : x.inMode [.powered, .fuseload, .selftest] = true := by
    rw [Ctl.inMode, hmode', hpower, hrun]
    rfl
  have hcopy : x.canCopy = false := by rw [Ctl.canCopy, hcellar', hcellar]; rfl
  obtain ⟨t, ht, hpending, harr, hrest, hget⟩ := exec_of_early hexec heffect (hall.quiet (by rw [hk]; exact hq)) hedits hself hcopy
    (hall.raised (by rw [hk]; simp [Ctl.fresh])) (by rw [hall.keeps F.FLT_LOG_HEAD_HEAD 0 (by decide) (by decide), hk]; exact hhead)
  have hpart : ∀ {α : Type} (part : Ctl → α), (∀ n : Ctl, part n.rest = part n) → (∀ (n : Ctl) q, part { n with held := q } = part n) →
      part t.ctl = part x := fun part hp hh => by rw [← hp t.ctl, hrest, hh, hp]
  have hfield : ∀ f i, f.id ∉ [427, 417, 416, 418, 425, 415] → f.id ∉ selftestFlds.map Fld.id → i < 1048576 →
      t.ctl.get f i = y.get f i := fun f i hf hl hi => (hget f i hf hi).trans (henter.keeps f i hi hl)
  refine ⟨t, ht, hpending, harr, (hget _ _ (by decide) (by decide)).trans hmode', ?_, (hfield _ _ (by decide) (by decide) (by decide)).trans hloaded,
    (hfield _ _ (by decide) (by decide) (by decide)).trans hsampled, (hpart (·.bistNext) (fun _ => rfl) fun _ _ => rfl).trans hnext,
    fun n => ?_, fun n ho => ?_, fun hfactory => (hget _ _ (by decide) (by decide)).trans (hwipe (hreq.trans hfactory)),
    (hpart (·.fuse) (fun _ => rfl) fun _ _ => rfl).trans hfuse, ((hpart (·.power) (fun _ => rfl) fun _ _ => rfl).trans hpower).trans hrun,
    (hpart (·.orb) (fun _ => rfl) fun _ _ => rfl).trans horb, (hpart (·.dies) (fun _ => rfl) fun _ _ => rfl).trans hdies⟩
  · refine (hget _ _ (by decide) (by decide)).trans (hprev.trans ?_)
    rw [Ctl.mode_of_inMode hafter]
    rfl
  · have hlt := n.isLt
    exact (hfield _ _ (by decide) (by decide) (by omega)).trans (hwords n (List.mem_finRange n)).1
  · have hlt := n.isLt
    exact (hfield _ _ (by decide) (by decide) (by omega)).trans ((hwords n (List.mem_finRange n)).2 ho)

end Sys2Proof.PowerAndModes
end

section
/-!
Memory requests of the service host (R336 to R341).
-/

namespace Sys2Proof.Machine

/-! ## A BAR0 access is performed within its command -/

/-- A BAR0 access as it takes its place (R341). -/
def Ctl.bar0Req (m : Ctl) (op addr value : Nat) : Req :=
  { m.svcReq m.svc.nextPos op .waiting with addr := addr, value := value }

/-- The service port with a request in hand. -/
def Ctl.svcTaking (m : Ctl) (r : Req) : Ctl := { m.noted with svc := { m.svc with nextPos := m.svc.nextPos + 1, reqs := [r] } }

/-- The service port after a request. -/
def Ctl.svcTook (m : Ctl) : Ctl := { m.noted with svc := { m.svc with nextPos := m.svc.nextPos + 1 } }

section
variable {m : Ctl}

theorem Ctl.bar0_eq (h : m.SvcAwake) (hq : m.Quiet) (op addr value : Nat) : m.bar0 op addr value = m.svcTaking (m.bar0Req op addr value) := by
  obtain ⟨-, -, hreqs, -⟩ := hq
  unfold Ctl.bar0
  rw [h.newWork]
  have hdef : m.noted.svc.reqs ++ [m.bar0Req op addr value] = [m.bar0Req op addr value] := by
    have hnone : m.noted.svc.reqs = [] := hreqs
    rw [hnone]
    rfl
  exact congrArg (fun l => ({ m.noted with svc := { m.svc with nextPos := m.svc.nextPos + 1, reqs := l } } : Ctl)) hdef

theorem Ctl.svcTook_quiet (hq : m.Quiet) : m.svcTook.Quiet := hq

/-- No field shows the requests of the service host. -/
theorem views_svcTook (m : Ctl) (i : Nat) : ∀ e ∈ views, e.2 m.fresh.svcTook i = e.2 m i :=
  List.map_inj_left.mp rfl

theorem Ctl.shown_svcTook (m : Ctl) (f : Fld) (i : Nat) : m.fresh.svcTook.shown f i = m.shown f i := by
  unfold Ctl.shown
  cases hv : views.find? fun e => e.1 == f.id with
  | none => rfl
  | some e => exact views_svcTook m i e (List.mem_of_find?_eq_some hv)

theorem Ctl.regValue_svcTook (m : Ctl) (d : RegDef) (i : Nat) : m.fresh.svcTook.regValue d i = m.regValue d i := by
  simp only [Ctl.regValue, Ctl.partValue, Ctl.shown_svcTook]

/-- What the performed access leaves (R336). -/
def Ctl.bar0Answered (m : Ctl) (a : Arr) (r : Req) : Ctl :=
  if r.op = 4 then (m.regRead { master := .svc } r.addr).2.emit (.tlpData [(m.regRead { master := .svc } r.addr).1] false)
  else (m.regWrite a .svc r.addr r.value).2.bar0Done (m.regWrite a .svc r.addr r.value).1

theorem Ctl.performBar0_taking (hq : m.Quiet) (a : Arr) {r q : Req} (hpos : q.pos = r.pos) :
    (m.svcTaking r).performBar0 a q = m.svcTook.bar0Answered a q := by
  obtain ⟨-, -, hreqs, -⟩ := hq
  have hback : ({ m.svcTaking r with svc := { (m.svcTaking r).svc with
      reqs := (m.svcTaking r).svc.reqs.filter fun k => k.pos != q.pos } } : Ctl) = m.svcTook := by
    have hnone : (m.svcTaking r).svc.reqs.filter (fun k => k.pos != q.pos) = m.svc.reqs := by
      rw [hreqs]
      simp [Ctl.svcTaking, hpos]
    rw [hnone]
    rfl
  unfold Ctl.performBar0
  rw [hback]
  rfl

/-- With nothing else in hand it is the one that is performed. -/
theorem Ctl.drainOne_svcTaking (hq : m.Quiet) (a : Arr) {op addr value : Nat} (hop : op = 4 ∨ op = 5) :
    (m.svcTaking (m.bar0Req op addr value)).drainOne a = some ((m.svcTaking (m.bar0Req op addr value)).performBar0 a
      { m.bar0Req op addr value with session := 0 }) := by
  obtain ⟨r, hr⟩ : ∃ r, r = m.bar0Req op addr value := ⟨_, rfl⟩
  have hready : reqReady [{ r with session := 0 }] { r with session := 0 } = true := by
    refine reqReady_alone ?_ (.inr ?_)
    · rw [hr]
      rfl
    · rw [hr]
      rcases hop with rfl | rfl <;> simp [Ctl.bar0Req, Ctl.svcReq]
  have hport : ∀ p, (m.svcTaking r).drainPort a p = none := fun p => by
    have hnone : ((m.svcTaking r).port p).reqs = [] := by
      cases p
      · exact hq.1
      · exact hq.2.1
    simp only [Ctl.drainPort, hnone, List.find?_nil, List.findSome?_nil]
  have hsvc : (m.svcTaking r).drainSvc a = some ((m.svcTaking r).performBar0 a { r with session := 0 }) := by
    have hline : ((m.svcTaking r).svc.reqs.map fun r => { r with session := 0 }) = [{ r with session := 0 }] := rfl
    unfold Ctl.drainSvc
    dsimp only
    rw [hline, List.find?_cons, hready]
    rfl
  rw [← hr]
  simp only [Ctl.drainOne, hport, hsvc]

end

section
variable {s : State}

/-- A command that hands over a BAR0 access ends as one that performs it. -/
theorem run_bar0 {g : Arr → Ctl → Ctl} {op addr value : Nat} {y : Ctl} (hq : s.ctl.Quiet)
    (hx : g s.arr s.ctl.fresh = s.ctl.fresh.svcTaking (s.ctl.fresh.bar0Req op addr value)) (hop : op = 4 ∨ op = 5)
    (hy : s.ctl.fresh.svcTook.bar0Answered s.arr { s.ctl.fresh.bar0Req op addr value with session := 0 } = y) (hyq : y.Quiet)
    (hyr : y.raised = []) : run s g = run s fun _ _ => y := by
  have hdrain : (g s.arr s.ctl.fresh).drainOne s.arr = some y := by
    rw [hx, Ctl.drainOne_svcTaking hq.fresh s.arr hop]
    exact congrArg some ((Ctl.performBar0_taking (r := s.ctl.fresh.bar0Req op addr value) hq.fresh s.arr rfl).trans hy)
  have hclean : (g s.arr s.ctl.fresh).Clean := by
    rw [hx]
    exact hq.2.2.2
  have hloop : Ctl.settleLoop ((g s.arr s.ctl.fresh).waitCount + 63 + 1) s.arr (g s.arr s.ctl.fresh) = y := by
    rw [Ctl.settleLoop, hdrain]
    exact Ctl.settleLoop_done hyq hyr _ _
  have hsettle : (g s.arr s.ctl.fresh).settle s.arr = y.settle s.arr := by
    rw [Ctl.settle_quiet hyq hyr, Ctl.settle, Ctl.codeResets_clean hclean, hloop, Ctl.bitmaps_clean hyq.2.2.2]
  simp only [run, hsettle]

/-- The next state of such a command. -/
theorem exec_bar0 {c : Instr} {g : Arr → Ctl → Ctl} {op addr value : Nat} {y : Ctl} {l : List (Fld × Nat)} (hc : exec c s = .next (run s g))
    (hq : s.ctl.Quiet) (hx : g s.arr s.ctl.fresh = s.ctl.fresh.bar0 op addr value) (h : s.ctl.SvcAwake) (hop : op = 4 ∨ op = 5)
    (hy : s.ctl.fresh.svcTook.bar0Answered s.arr { s.ctl.fresh.bar0Req op addr value with session := 0 } = y)
    (hl : s.ctl.fresh.svcTook.OnlyFlds y l) : ∃ t, exec c s = .next t ∧
      Ends s t l { s.ctl with svc := { s.ctl.svc with nextPos := s.ctl.svc.nextPos + 1 } } ∧ t.ctl.out = y.out := by
  have hquiet := Ctl.svcTook_quiet (m := s.ctl.fresh) hq
  have hrun := run_bar0 hq (hx.trans (Ctl.bar0_eq h.fresh hq.fresh op addr value)) hop hy (hl.quiet hquiet) hl.raised
  obtain ⟨t, ht, hends, hout, -⟩ := exec_of_sends (g := fun _ _ => y) (hc.trans (congrArg _ hrun)) rfl hl hquiet rfl rfl rfl
    (m := { s.ctl with svc := { s.ctl.svc with nextPos := s.ctl.svc.nextPos + 1 } }) rfl
  exact ⟨t, ht, hends, hout⟩

/-! ## BAR0 -/

/-- A command that sets one bit and answers. -/
theorem exec_of_mark {c : Instr} {g : Arr → Ctl → Ctl} {f : Fld} (hq : s.ctl.Quiet) (o : Out) (hc : exec c s = .next (run s g))
    (hx : g s.arr s.ctl.fresh = (s.ctl.fresh.put f 1).emit o) (hf : f.id ≠ F.FLT_STATUS_FAULTN.id := by decide)
    (hw : 1 % 2 ^ f.width = 1 := by decide) :
    ∃ t, exec c s = .next t ∧ Ends s t [(f, 0)] s.ctl ∧ t.ctl.get f = 1 ∧ t.ctl.out = [o] := by
  obtain ⟨t, ht, hends, hout, hget⟩ := exec_of_sends (m := s.ctl) hc hx ((Ctl.OnlyFlds.set _ f 0 1).trans (.emit _ o)) hq rfl rfl rfl rfl
  exact ⟨t, ht, hends, (hget _ _ hf (by decide)).trans ((Ctl.get_put_same _ _ _).trans hw), hout⟩

/-- A command that only answers. -/
theorem exec_of_answer {c : Instr} {g : Arr → Ctl → Ctl} (hq : s.ctl.Quiet) (o : Out) (hc : exec c s = .next (run s g))
    (hx : g s.arr s.ctl.fresh = s.ctl.fresh.emit o) : ∃ t, exec c s = .next t ∧ Ends s t [] s.ctl ∧ t.ctl.out = [o] := by
  obtain ⟨t, ht, hends, hout, -⟩ := exec_of_sends (m := s.ctl) hc hx (.emit _ o) hq rfl rfl rfl rfl
  exact ⟨t, ht, hends, hout⟩

theorem Ctl.barOpen_awake {m : Ctl} (h : m.SvcAwake) : m.barOpen = true := by
  simp [Ctl.barOpen, Ctl.is, h.link, Ctl.inMode_mono h.mode (l' := [.ready, .active, .drowse, .quarantine]) (by decide)]

variable {offset : BitVec 24} {be : BitVec 4} {dws : Nat} {value : BitVec 32} {d : RegDef} {i : Nat}

/-- A read of a register without side effects answers with its value. -/
theorem exec_bar0Read_plain (h : s.ctl.SvcAwake) (hq : s.ctl.Quiet) (hd0 : s.ctl.get F.SVC_STATUS_DSTATE = 0)
    (hgap : configGap offset.toNat 4 = false) (hal : offset.toNat % 4 = 0) (hbe : be ≠ 0) (hreg : findReg offset.toNat = some (d, i))
    (hmsix : inMsix offset.toNat = false) (hclaim : d.reg ≠ .SEM_CLAIM) (hlow : isPairLow d.reg = false) (hhigh : isPairHigh d.reg = false) :
    ∃ t, exec (.bar0Read offset be 1) s = .next t ∧
      Ends s t [] { s.ctl with svc := { s.ctl.svc with nextPos := s.ctl.svc.nextPos + 1 } } ∧
      t.ctl.out = [.tlpData [s.ctl.regValue d i] false] := by
  have hread := s.ctl.fresh.svcTook.regRead_plain { master := .svc } hreg hmsix hclaim hlow hhigh
  rw [Ctl.regValue_svcTook] at hread
  have heffect : (if s.ctl.fresh.barOpen then
      (if s.ctl.fresh.get F.SVC_STATUS_DSTATE != 0 then s.ctl.fresh.emit (.tlpStatus 1)
        else if (1 : Nat) != 1 || be = 0 || offset.toNat % 4 != 0 then (s.ctl.fresh.put F.SVC_ERR_BAR0_FORM 1).emit (.tlpStatus 1)
        else if configGap offset.toNat 4 then s.ctl.fresh.emit (.tlpStatus 1) else s.ctl.fresh.bar0 4 offset.toNat 0)
      else s.ctl.fresh) = s.ctl.fresh.bar0 4 offset.toNat 0 := by
    rw [if_pos (Ctl.barOpen_awake h.fresh), if_neg (by simp [hd0]), if_neg (by simpa [hal] using hbe), if_neg (by simp [hgap])]
  refine exec_bar0 (c := .bar0Read offset be 1) rfl hq heffect h (.inl rfl) ?_ (.emit _ (.tlpData [s.ctl.regValue d i] false))
  refine (if_pos rfl).trans ?_
  have haddr : ({ s.ctl.fresh.bar0Req 4 offset.toNat 0 with session := 0 } : Req).addr = offset.toNat := rfl
  rw [haddr, hread]

theorem Ctl.out_storeParts (m : Ctl) (i v : Nat) (qs : List Part) : (m.storeParts i v qs).out = m.out := by
  induction qs generalizing m with
  | nil => rfl
  | cons q qs ih =>
    rw [Ctl.storeParts_cons, ih]
    unfold Ctl.storePart
    cases q.stored (m.get q.fld (i * q.mul + q.add)) v <;> rfl

/-- A write of a status register stores its writable parts. -/
theorem exec_bar0Write_status (h : s.ctl.SvcAwake) (hq : s.ctl.Quiet) (hd0 : s.ctl.get F.SVC_STATUS_DSTATE = 0)
    (hgap : configGap offset.toNat 4 = false) (hal : offset.toNat % 4 = 0) (hreg : findReg offset.toNat = some (d, i))
    (hmsix : inMsix offset.toNat = false) (hbell : doorbellRing offset.toNat = none) (hring : isRing d.reg = false)
    (hkind : d.kind = .status) : ∃ t, exec (.bar0Write offset 15 1 value) s = .next t ∧
      Ends s t (d.parts.map fun q => (q.fld, i * q.mul + q.add)) { s.ctl with svc := { s.ctl.svc with nextPos := s.ctl.svc.nextPos + 1 } } ∧
      t.ctl.out = [] := by
  have hwrite := s.ctl.fresh.svcTook.regWrite_status s.arr .svc value.toNat hreg hbell hmsix hring hkind
  have heffect : (if s.ctl.fresh.barOpen then
      (if s.ctl.fresh.get F.SVC_STATUS_DSTATE != 0 then s.ctl.fresh.emit (.aer 1)
        else if (1 : Nat) != 1 || (15 : BitVec 4) != 15 || offset.toNat % 4 != 0 then (s.ctl.fresh.put F.SVC_ERR_BAR0_FORM 1).emit (.aer 1)
        else if configGap offset.toNat 4 then s.ctl.fresh.emit (.aer 1) else s.ctl.fresh.bar0 5 offset.toNat value.toNat)
      else s.ctl.fresh) = s.ctl.fresh.bar0 5 offset.toNat value.toNat := by
    rw [if_pos (Ctl.barOpen_awake h.fresh), if_neg (by simp [hd0]), if_neg (by simp [hal]), if_neg (by simp [hgap])]
  obtain ⟨t, ht, hends, hout⟩ := exec_bar0 (c := .bar0Write offset 15 1 value) (y := s.ctl.fresh.svcTook.storeParts i value.toNat d.parts)
    rfl hq heffect h (.inr rfl) (by
      refine (if_neg (show ¬ (5 : Nat) = 4 by decide)).trans ?_
      have haddr : ({ s.ctl.fresh.bar0Req 5 offset.toNat value.toNat with session := 0 } : Req).addr = offset.toNat := rfl
      have hvalue : ({ s.ctl.fresh.bar0Req 5 offset.toNat value.toNat with session := 0 } : Req).value = value.toNat := rfl
      rw [haddr, hvalue, hwrite]
      rfl) (.storeParts _ i value.toNat d.parts)
  exact ⟨t, ht, hends, hout.trans (Ctl.out_storeParts _ _ _ _)⟩

/-- An access of another form is refused and noted. -/
theorem exec_bar0_form (h : s.ctl.SvcAwake) (hq : s.ctl.Quiet) (hd0 : s.ctl.get F.SVC_STATUS_DSTATE = 0)
    (hform : dws ≠ 1 ∨ offset.toNat % 4 ≠ 0) :
    (∃ t, exec (.bar0Read offset be dws) s = .next t ∧ Ends s t [(F.SVC_ERR_BAR0_FORM, 0)] s.ctl ∧
      t.ctl.get F.SVC_ERR_BAR0_FORM = 1 ∧ t.ctl.out = [.tlpStatus 1]) ∧
    ∃ t, exec (.bar0Write offset be dws value) s = .next t ∧ Ends s t [(F.SVC_ERR_BAR0_FORM, 0)] s.ctl ∧
      t.ctl.get F.SVC_ERR_BAR0_FORM = 1 ∧ t.ctl.out = [.aer 1] := by
  have hopen := Ctl.barOpen_awake h.fresh
  refine ⟨exec_of_mark (f := F.SVC_ERR_BAR0_FORM) hq (.tlpStatus 1) rfl ((if_pos hopen).trans ((if_neg (by simp [hd0])).trans (if_pos ?_))),
    exec_of_mark (f := F.SVC_ERR_BAR0_FORM) hq (.aer 1) rfl ((if_pos hopen).trans ((if_neg (by simp [hd0])).trans (if_pos ?_)))⟩
  · rcases hform with hform | hform <;> simp [hform]
  · rcases hform with hform | hform <;> simp [hform]

/-! ## BAR2 -/

/-- A range within one line is one granule. -/
theorem granules_one {n a len : Nat} (hlen : 1 ≤ len) (hline : a % 64 + len ≤ 64) : granules (n + 1) a len = [(a, len)] := by
  have hhere : min len (64 - a % 64) = len := by omega
  have hrest : granules n (a + len) 0 = [] := by cases n <;> rfl
  rw [granules, if_neg (by omega), hhere]
  dsimp only
  rw [Nat.sub_self, hrest]

/-- No granule lies before its range. -/
theorem granules_le {n a len : Nat} : ∀ g ∈ granules n a len, a ≤ g.1 ∧ 1 ≤ g.2 ∧ g.1 + g.2 ≤ a + len := by
  induction n generalizing a len with
  | zero => simp [granules]
  | succ n ih =>
    intro g hg
    rw [granules] at hg
    split at hg
    · exact absurd hg List.not_mem_nil
    · rcases List.mem_cons.mp hg with rfl | hg
      · dsimp only
        omega
      · have := ih g hg
        omega

/-- Whether a BAR2 access is a write, and its operation. -/
def Access.isWrite : Access → Bool
  | .read => false
  | _ => true

def Access.svcOp : Access → Nat
  | .read => 0
  | _ => 2

/-- The stages of a BAR2 access that reaches the array: its TLP, and its granules. -/
def Ctl.svcEnter (m : Ctl) (acc : Access) (a len n : Nat) (gs : List (Nat × List Byte × Nat × Nat)) : Ctl :=
  let x := m.svcPlaces n
  let m := x.2
  let t : Tlp := { id := x.1, count := n, wr := acc.isWrite, addr := a, len := len, left := n }
  let m := { m with svc := { m.svc with tlps := m.svc.tlps ++ [t] } }
  m.svcSubmit x.1 acc x.1 gs

/-- The job of a BAR2 access of one granule. -/
def Ctl.svcJob (m : Ctl) (acc : Access) (g : Nat × List Byte × Nat × Nat) : Job :=
  { who := .svc m.svc.nextPos, acc := acc, addr := g.1, len := g.2.2.2, data := g.2.1, be := g.2.2.1, pos := m.svc.nextPos,
    label := m.get F.QOS_SVC_LABEL_LABEL, since := m.now }

/-- The stack with the job in the ingress of its PC. -/
def Ctl.svcEntered (m : Ctl) (acc : Access) (g : Nat × List Byte × Nat × Nat) : Ctl :=
  ({ m with svc := { m.svc with
      nextPos := m.svc.nextPos + 1
      tlps := m.svc.tlps ++ [{ id := m.svc.nextPos, count := 1, wr := acc.isWrite, addr := g.1,
                               len := g.2.2.2, left := 1 }]
      reqs := m.svc.reqs ++ [m.svcReq m.svc.nextPos acc.svcOp .held] } } : Ctl).setPc
    (m.place g.1).pc { m.pc (m.place g.1).pc with ingress := (m.pc (m.place g.1).pc).ingress ++ [m.svcJob acc g] }

theorem Ctl.svcEnter_one (m : Ctl) (acc : Access) (g : Nat × List Byte × Nat × Nat) :
    m.svcEnter acc g.1 g.2.2.2 1 [g] = m.svcEntered acc g := by
  obtain ⟨a, data, be, len⟩ := g
  cases acc <;> rfl

/-- A request that is handed over leaves none that waits for its order. -/
theorem Ctl.svcEntered_settled {m : Ctl} (hq : m.Quiet) (acc : Access) (g : Nat × List Byte × Nat × Nat) : (m.svcEntered acc g).Settled := by
  have hpc := hq.setPc (m.place g.1).pc
    (x := { m.pc (m.place g.1).pc with ingress := (m.pc (m.place g.1).pc).ingress ++ [m.svcJob acc g] }) rfl
  obtain ⟨ha, hb, hreqs, -⟩ := hq
  refine ⟨fun r hr => ?_, hpc.2.2.2⟩
  have hone : (m.svcEntered acc g).pa.reqs ++ (m.svcEntered acc g).pb.reqs ++ (m.svcEntered acc g).svc.reqs =
      [m.svcReq m.svc.nextPos acc.svcOp .held] := by
    have hdef : (m.svcEntered acc g).pa.reqs ++ (m.svcEntered acc g).pb.reqs ++ (m.svcEntered acc g).svc.reqs =
      m.pa.reqs ++ m.pb.reqs ++ (m.svc.reqs ++ [m.svcReq m.svc.nextPos acc.svcOp .held]) := rfl
    rw [hdef, ha, hb, hreqs]
    rfl
  rw [hone, List.mem_singleton] at hr
  rw [hr]
  exact ReqSt.noConfusion

/-- A command that hands over one granule. -/
theorem exec_svcEntered {c : Instr} {g : Arr → Ctl → Ctl} {acc : Access} {q : Nat × List Byte × Nat × Nat} (hq : s.ctl.Quiet)
    (hc : exec c s = .next (run s g)) (hx : g s.arr s.ctl.fresh = s.ctl.fresh.noted.svcEntered acc q) :
    ∃ t, exec c s = .next t ∧ Ends s t [] (s.ctl.svcEntered acc q) := by
  obtain ⟨t, ht, hends, -⟩ := exec_of_settled (l := []) hc hx (Ctl.svcEntered_settled hq _ _) rfl rfl (.of_flds rfl _)
  exact ⟨t, ht, hends.of_rest rfl⟩

variable {o : BitVec 30} {len : Nat} {data : List Byte} {bes : List Bool}

/-- What BAR2_READ does to a stack with its service link up. -/
def Ctl.bar2Reading (m : Ctl) (o len : Nat) : Ctl :=
  if m.inMode [.quarantine] then m.emit (.tlpStatus 2)
  else if m.get F.SVC_STATUS_DSTATE != 0 then m.emit (.tlpStatus 1)
  else if len = 0 then m.emit (.tlpData [0] false)
  else if m.windowBytes < o + len then m.emit (.tlpStatus 1)
  else m.noted.svcEnter .read (m.windowAddr o) len (granules 65 (m.windowAddr o) len).length
    ((granules 65 (m.windowAddr o) len).map fun g => (g.1, [], 0, g.2))

theorem exec_bar2Read (h : s.ctl.SvcAwake) (hlen : len ≤ 4096) :
    exec (.bar2Read o len) s = .next (run s fun _ m => m.bar2Reading o.toNat len) := by
  refine (if_neg (by omega)).trans (congrArg Host.Outcome.next (run_congr ((if_neg ?_).trans ?_)))
  · rw [Ctl.barOpen_awake h.fresh]
    decide
  · rw [h.fresh.newWork]
    rfl

/-- The enables of whole bytes. -/
theorem enables_full (n : Nat) : (((List.replicate n true).zipIdx.map fun x => b2n x.1 * 2 ^ x.2).sum) = 2 ^ n - 1 := by
  induction n with
  | zero => rfl
  | succ n ih =>
    have hone : 0 < 2 ^ n := Nat.two_pow_pos n
    rw [List.replicate_succ', List.zipIdx_append, List.map_append, List.sum_append, ih]
    simp only [List.length_replicate, List.zipIdx_cons, List.zipIdx_nil, List.map_cons, List.map_nil, List.sum_cons, List.sum_nil, b2n,
      if_true, Nat.pow_succ, Nat.zero_add]
    omega

/-- The part of a write of whole bytes that lies in a granule. -/
theorem granPart_full {a : Nat} {g : Nat × Nat} (hlo : a ≤ g.1) (hhi : g.1 + g.2 ≤ a + data.length) :
    granPart a data (data.map fun _ => true) g = (g.1, (data.drop (g.1 - a)).take g.2, 2 ^ g.2 - 1, g.2) := by
  have henables : ((data.map fun _ => true).drop (g.1 - a)).take g.2 = List.replicate g.2 true := by
    refine List.eq_replicate_iff.mpr ⟨?_, fun b hb => ?_⟩
    · simp only [List.length_take, List.length_drop, List.length_map]
      omega
    · obtain ⟨-, -, rfl⟩ := List.mem_map.mp (List.mem_of_mem_drop (List.mem_of_mem_take hb))
      rfl
  unfold granPart
  dsimp only
  rw [henables, enables_full]

/-- The granules of a write, and those inside the window. -/
def Ctl.writeParts (m : Ctl) (o : Nat) (data : List Byte) (bes : List Bool) : List (Nat × List Byte × Nat × Nat) :=
  ((granules 10 (m.windowAddr o) data.length).map (granPart (m.windowAddr o) data bes)).filter fun g => g.2.2.1 != 0

def Ctl.svcInside (m : Ctl) (o : Nat) (g : Nat × List Byte × Nat × Nat) : Bool :=
  decide (g.1 + g.2.2.2 ≤ m.windowAddr o - o + m.windowBytes)

/-- What BAR2_WRITE does to a stack with its service link up. -/
def Ctl.bar2Writing (m : Ctl) (o : Nat) (data : List Byte) (bes : List Bool) : Ctl :=
  if !bes.any id then m
  else if m.inMode [.quarantine] then (m.put F.SVC_ERR_WR_FAIL 1).emit (.aer 2)
  else if m.get F.SVC_STATUS_DSTATE != 0 then m.emit (.aer 1)
  else
    let n := if (m.writeParts o data bes).all (m.svcInside o) then m.noted else (m.noted.put F.SVC_ERR_WIN_MISS 1).emit (.aer 1)
    let gs := (m.writeParts o data bes).filter (m.svcInside o)
    if gs.isEmpty then n else n.svcEnter .write (m.windowAddr o) data.length gs.length gs

theorem exec_bar2Write (h : s.ctl.SvcAwake) (hlen : data.length = bes.length) (hmost : data.length ≤ 512) :
    exec (.bar2Write o data bes) s = .next (run s fun _ m => m.bar2Writing o.toNat data bes) := by
  have hform : (decide (data.length ≠ bes.length) || decide (512 < data.length)) = false := by
    rw [decide_eq_false (not_not_intro hlen), decide_eq_false (Nat.not_lt.mpr hmost)]
    rfl
  refine (if_neg (by rw [hform]; decide)).trans (congrArg Host.Outcome.next (run_congr ((if_neg ?_).trans ?_)))
  · rw [Ctl.barOpen_awake h.fresh]
    decide
  · rw [h.fresh.newWork]
    rfl

/-- A write inside the window and within one line is one granule. -/
theorem Ctl.writeParts_one {m : Ctl} {o : Nat} (hlen : 1 ≤ data.length) (hline : m.windowAddr o % 64 + data.length ≤ 64)
    (hin : o + data.length ≤ m.windowBytes) :
    m.writeParts o data (data.map fun _ => true) = [(m.windowAddr o, data, 2 ^ data.length - 1, data.length)] ∧
      m.svcInside o (m.windowAddr o, data, 2 ^ data.length - 1, data.length) = true := by
  have hsome : 2 ≤ 2 ^ data.length := Nat.le_self_pow (by omega) 2
  have hpart : granPart (m.windowAddr o) data (data.map fun _ => true) (m.windowAddr o, data.length) =
      (m.windowAddr o, data, 2 ^ data.length - 1, data.length) := by
    rw [granPart_full (by simp) (by simp)]
    simp
  constructor
  · rw [Ctl.writeParts, granules_one hlen hline, List.map_cons, List.map_nil, hpart]
    have hne : (2 ^ data.length - 1 != 0) = true := by
      simp only [bne_iff_ne]
      omega
    simp [hne]
  · refine decide_eq_true ?_
    unfold Ctl.windowAddr
    dsimp only
    omega

/-- A write that begins beyond the window has no granule inside. -/
theorem Ctl.writeParts_miss {m : Ctl} {o : Nat} (hlen : 1 ≤ data.length) (hout : m.windowBytes ≤ o) :
    (m.writeParts o data (data.map fun _ => true)).all (m.svcInside o) = false ∧
      (m.writeParts o data (data.map fun _ => true)).filter (m.svcInside o) = [] := by
  have hnone : ∀ g ∈ m.writeParts o data (data.map fun _ => true), m.svcInside o g = false := by
    intro g hg
    obtain ⟨q, hq, rfl⟩ := List.mem_map.mp (List.mem_filter.mp hg).1
    obtain ⟨hlo, hsome, hhi⟩ := granules_le q hq
    rw [granPart_full hlo hhi]
    refine decide_eq_false ?_
    unfold Ctl.windowAddr at hlo ⊢
    dsimp only
    omega
  have hsome : m.writeParts o data (data.map fun _ => true) ≠ [] := by
    have hfirst : (m.windowAddr o, min data.length (64 - m.windowAddr o % 64)) ∈ granules 10 (m.windowAddr o) data.length := by
      rw [granules, if_neg (by omega)]
      exact List.mem_cons_self
    have hkept : granPart (m.windowAddr o) data (data.map fun _ => true)
        (m.windowAddr o, min data.length (64 - m.windowAddr o % 64)) ∈ m.writeParts o data (data.map fun _ => true) := by
      refine List.mem_filter.mpr ⟨List.mem_map_of_mem hfirst, ?_⟩
      rw [granPart_full (by simp) (by dsimp only; omega)]
      have htwo : 2 ≤ 2 ^ min data.length (64 - m.windowAddr o % 64) := Nat.le_self_pow (by omega) 2
      have hne : 2 ^ min data.length (64 - m.windowAddr o % 64) - 1 ≠ 0 := by omega
      exact bne_iff_ne.mpr hne
    exact List.ne_nil_of_mem hkept
  obtain ⟨q, l, hlist⟩ := List.exists_cons_of_ne_nil hsome
  refine ⟨?_, List.filter_eq_nil_iff.mpr fun g hg => Bool.eq_false_iff.mp (hnone g hg)⟩
  rw [hlist, List.all_cons, hnone q (by rw [hlist]; exact List.mem_cons_self), Bool.false_and]

/-! ## The accesses of BAR2 -/

/-- A read that reaches beyond the window, and one of no bytes (R338, R340). -/
theorem exec_bar2Read_miss (h : s.ctl.SvcAwake) (hq : s.ctl.Quiet) (hd0 : s.ctl.get F.SVC_STATUS_DSTATE = 0)
    (hcalm : s.ctl.inMode [.quarantine] = false) (hlen : 1 ≤ len) (hmost : len ≤ 4096) (hout : s.ctl.windowBytes < o.toNat + len) :
    ∃ t, exec (.bar2Read o len) s = .next t ∧ Ends s t [] s.ctl ∧ t.ctl.out = [.tlpStatus 1] := by
  refine exec_of_answer hq _ (exec_bar2Read h hmost) ?_
  have hquar : ¬ s.ctl.fresh.inMode [.quarantine] = true := Bool.eq_false_iff.mp hcalm
  have hup : ¬ (s.ctl.fresh.get F.SVC_STATUS_DSTATE != 0) = true := by simp [hd0]
  exact (if_neg hquar).trans ((if_neg hup).trans ((if_neg (by omega)).trans (if_pos hout)))

theorem exec_bar2Read_empty (h : s.ctl.SvcAwake) (hq : s.ctl.Quiet) (hd0 : s.ctl.get F.SVC_STATUS_DSTATE = 0)
    (hcalm : s.ctl.inMode [.quarantine] = false) :
    ∃ t, exec (.bar2Read o 0) s = .next t ∧ Ends s t [] s.ctl ∧ t.ctl.out = [.tlpData [0] false] := by
  refine exec_of_answer hq _ (exec_bar2Read h (by decide)) ?_
  have hquar : ¬ s.ctl.fresh.inMode [.quarantine] = true := Bool.eq_false_iff.mp hcalm
  have hup : ¬ (s.ctl.fresh.get F.SVC_STATUS_DSTATE != 0) = true := by simp [hd0]
  exact (if_neg hquar).trans ((if_neg hup).trans (if_pos rfl))

/-- A read inside the window and within one line. -/
theorem exec_bar2Read_line (h : s.ctl.SvcAwake) (hq : s.ctl.Quiet) (hd0 : s.ctl.get F.SVC_STATUS_DSTATE = 0)
    (hcalm : s.ctl.inMode [.quarantine] = false) (hlen : 1 ≤ len) (hline : s.ctl.windowAddr o.toNat % 64 + len ≤ 64)
    (hin : o.toNat + len ≤ s.ctl.windowBytes) :
    ∃ t, exec (.bar2Read o len) s = .next t ∧ Ends s t [] (s.ctl.svcEntered .read (s.ctl.windowAddr o.toNat, [], 0, len)) := by
  refine exec_svcEntered hq (exec_bar2Read h (by omega)) ?_
  have hquar : ¬ s.ctl.fresh.inMode [.quarantine] = true := Bool.eq_false_iff.mp hcalm
  have hup : ¬ (s.ctl.fresh.get F.SVC_STATUS_DSTATE != 0) = true := by simp [hd0]
  have hinside : ¬ s.ctl.fresh.windowBytes < o.toNat + len := Nat.not_lt.mpr hin
  refine (if_neg hquar).trans ((if_neg hup).trans ((if_neg (by omega)).trans ((if_neg hinside).trans ?_)))
  have hone : granules 65 (s.ctl.fresh.windowAddr o.toNat) len = [(s.ctl.fresh.windowAddr o.toNat, len)] := granules_one hlen hline
  rw [hone]
  exact Ctl.svcEnter_one _ .read (s.ctl.windowAddr o.toNat, [], 0, len)

theorem any_allTrue (hlen : 1 ≤ data.length) : (data.map fun _ => true).any id = true := by
  cases data with
  | nil => exact absurd hlen (by decide)
  | cons b bs => rfl

/-- A write inside the window and within one line. -/
theorem exec_bar2Write_line (h : s.ctl.SvcAwake) (hq : s.ctl.Quiet) (hd0 : s.ctl.get F.SVC_STATUS_DSTATE = 0)
    (hcalm : s.ctl.inMode [.quarantine] = false) (hlen : 1 ≤ data.length)
    (hline : s.ctl.windowAddr o.toNat % 64 + data.length ≤ 64) (hin : o.toNat + data.length ≤ s.ctl.windowBytes) :
    ∃ t, exec (.bar2Write o data (data.map fun _ => true)) s = .next t ∧
      Ends s t [] (s.ctl.svcEntered .write (s.ctl.windowAddr o.toNat, data, 2 ^ data.length - 1, data.length)) := by
  refine exec_svcEntered hq (exec_bar2Write h (List.length_map ..).symm (by omega)) ?_
  have hquar : ¬ s.ctl.fresh.inMode [.quarantine] = true := Bool.eq_false_iff.mp hcalm
  have hup : ¬ (s.ctl.fresh.get F.SVC_STATUS_DSTATE != 0) = true := by simp [hd0]
  obtain ⟨hparts, hinside⟩ := Ctl.writeParts_one (m := s.ctl.fresh) hlen hline hin
  refine (if_neg (by rw [any_allTrue hlen]; decide)).trans ((if_neg hquar).trans ((if_neg hup).trans ?_))
  rw [hparts, List.filter_cons_of_pos hinside, List.filter_nil, List.all_cons, hinside, List.all_nil]
  exact Ctl.svcEnter_one _ .write (s.ctl.windowAddr o.toNat, data, 2 ^ data.length - 1, data.length)

/-- A write that begins beyond the window, and one of no bytes. -/
theorem exec_bar2Write_miss (h : s.ctl.SvcAwake) (hq : s.ctl.Quiet) (hd0 : s.ctl.get F.SVC_STATUS_DSTATE = 0)
    (hcalm : s.ctl.inMode [.quarantine] = false) (hlen : 1 ≤ data.length) (hmost : data.length ≤ 512)
    (hout : s.ctl.windowBytes ≤ o.toNat) :
    ∃ t, exec (.bar2Write o data (data.map fun _ => true)) s = .next t ∧ Ends s t [(F.SVC_ERR_WIN_MISS, 0)] s.ctl ∧
      t.ctl.get F.SVC_ERR_WIN_MISS = 1 ∧ t.ctl.out = [.aer 1] := by
  have hquar : ¬ s.ctl.fresh.inMode [.quarantine] = true := Bool.eq_false_iff.mp hcalm
  have hup : ¬ (s.ctl.fresh.get F.SVC_STATUS_DSTATE != 0) = true := by simp [hd0]
  obtain ⟨hall, hnone⟩ := Ctl.writeParts_miss (m := s.ctl.fresh) (o := o.toNat) hlen hout
  have heffect : s.ctl.fresh.bar2Writing o.toNat data (data.map fun _ => true) =
      (s.ctl.fresh.noted.put F.SVC_ERR_WIN_MISS 1).emit (.aer 1) := by
    refine (if_neg (by rw [any_allTrue hlen]; decide)).trans ((if_neg hquar).trans ((if_neg hup).trans ?_))
    rw [hall, hnone]
    rfl
  obtain ⟨t, ht, hends, hsent, hget⟩ := exec_of_sends (m := s.ctl) (exec_bar2Write h (List.length_map ..).symm hmost) heffect
    ((Ctl.OnlyFlds.set s.ctl.fresh.noted F.SVC_ERR_WIN_MISS 0 1).trans (.emit _ (.aer 1))) hq rfl rfl rfl rfl
  have hmark : (s.ctl.fresh.noted.put F.SVC_ERR_WIN_MISS 1).get F.SVC_ERR_WIN_MISS = 1 := Ctl.get_put_same _ _ _
  exact ⟨t, ht, hends, (hget F.SVC_ERR_WIN_MISS 0 (by decide) (by decide)).trans hmark, hsent⟩

theorem exec_bar2Write_empty (h : s.ctl.SvcAwake) (hq : s.ctl.Quiet) :
    ∃ t, exec (.bar2Write o [] []) s = .next t ∧ Ends s t [] s.ctl ∧ t.ctl.out = [] := by
  obtain ⟨t, ht, hends, hsent, -⟩ := exec_of_sends (m := s.ctl) (exec_bar2Write (data := []) (bes := []) h rfl (by decide))
    (if_pos rfl) (Ctl.OnlyFlds.refl s.ctl.fresh) hq rfl rfl rfl rfl
  exact ⟨t, ht, hends, hsent⟩

/-- In QUARANTINE no byte of the array is read or written (R340). -/
theorem exec_bar2_quarantine (h : s.ctl.SvcAwake) (hq : s.ctl.Quiet) (hquar : s.ctl.inMode [.quarantine] = true)
    (hmost : len ≤ 4096) (hlen : 1 ≤ data.length) (hdata : data.length ≤ 512) :
    (∃ t, exec (.bar2Read o len) s = .next t ∧ Ends s t [] s.ctl ∧ t.ctl.out = [.tlpStatus 2]) ∧
    ∃ t, exec (.bar2Write o data (data.map fun _ => true)) s = .next t ∧ Ends s t [(F.SVC_ERR_WR_FAIL, 0)] s.ctl ∧
      t.ctl.get F.SVC_ERR_WR_FAIL = 1 ∧ t.ctl.out = [.aer 2] := by
  refine ⟨exec_of_answer hq _ (exec_bar2Read h hmost) (if_pos hquar),
    exec_of_mark (f := F.SVC_ERR_WR_FAIL) hq (.aer 2) (exec_bar2Write h (List.length_map ..).symm hdata) ?_⟩
  exact (if_neg (by rw [any_allTrue hlen]; decide)).trans (if_pos hquar)

end

end Sys2Proof.Machine

namespace Sys2Proof.ServicePort

open Sys2Proof.Machine

/-- Settles O55: a BAR0 access is performed within its command, and a BAR2 access of one line enters one access. -/
theorem serviceAccess : Obligations.ServiceAccess := by
  intro s offset o be dws len value d i data x plain a pc entered job hq hlink hd0 hentry
  have hentered : ∀ t acc g, g.1 = a → Ends s t [] (s.ctl.svcEntered acc g) →
      entered t acc.svcOp { who := .svc x.nextPos, acc := acc, addr := a, len := g.2.2.2, data := g.2.1, be := g.2.2.1,
                            pos := x.nextPos, label := s.ctl.get F.QOS_SVC_LABEL_LABEL, since := s.ctl.now } g.2.2.2 := by
    rintro t acc ⟨b, bytes, en, n⟩ rfl hends
    obtain ⟨-, -, hreqs, -⟩ := hq
    have hdef : s.ctl.svcEntered acc (a, bytes, en, n) = ({ s.ctl with svc := { x with
        nextPos := x.nextPos + 1
        tlps := x.tlps ++ [{ id := x.nextPos, count := 1, wr := acc.svcOp = 2, addr := a, len := n, left := 1 }]
        reqs := x.reqs ++ [s.ctl.svcReq x.nextPos acc.svcOp .held] } } : Ctl).setPc pc
        { s.ctl.pc pc with ingress := (s.ctl.pc pc).ingress ++ [s.ctl.svcJob acc (a, bytes, en, n)] } := by
      cases acc <;> rfl
    rw [hdef, show x.reqs = [] from hreqs] at hends
    exact hends
  refine ⟨fun hmode hgap => ?_, fun hmode => ?_, fun hmode hmost hlen hdata => ?_⟩
  · have hawake : s.ctl.SvcAwake := ⟨hlink, hmode, hentry⟩
    refine ⟨fun hal hbe hreg hmsix ⟨hclaim, hlow, hhigh⟩ => exec_bar0Read_plain hawake hq hd0 hgap hal hbe hreg hmsix hclaim hlow hhigh,
      fun hal hreg hmsix hbell hring hkind => exec_bar0Write_status hawake hq hd0 hgap hal hreg hmsix hbell hring hkind,
      fun hform => exec_bar0_form hawake hq hd0 hform⟩
  · have hawake : s.ctl.SvcAwake := ⟨hlink, Ctl.inMode_mono hmode (by decide), hentry⟩
    have hcalm := Ctl.inMode_disjoint (l' := [.quarantine]) hmode (by decide)
    refine ⟨fun hlen hmost hout => exec_bar2Read_miss hawake hq hd0 hcalm hlen hmost hout, exec_bar2Read_empty hawake hq hd0 hcalm,
      fun hlen hline hin => ?_, fun hlen hline hin => ?_,
      fun hlen hmost hout => exec_bar2Write_miss hawake hq hd0 hcalm hlen hmost hout, exec_bar2Write_empty hawake hq⟩
    · obtain ⟨t, ht, hends⟩ := exec_bar2Read_line hawake hq hd0 hcalm hlen hline hin
      exact ⟨t, ht, hentered t .read _ rfl hends⟩
    · obtain ⟨t, ht, hends⟩ := exec_bar2Write_line hawake hq hd0 hcalm hlen hline hin
      exact ⟨t, ht, hentered t .write _ rfl hends⟩
  · exact exec_bar2_quarantine ⟨hlink, Ctl.inMode_mono hmode (by decide), hentry⟩ hq hmode hmost hlen hdata

end Sys2Proof.ServicePort
end

section
/-!
Requests of the peer (R320, R322, R328, R330): a frame is taken, judged, and either answered or entered line by line.
-/

namespace Sys2Proof.Machine

/-! ## The lines of a range -/

theorem linkOf_idx (l : Link) : linkOf l.idx = l := by cases l <;> rfl

/-- A range is cut into lines in one way. -/
theorem lineParts_eq_granules (n a len : Nat) : lineParts n a len = granules n a len := by
  induction n generalizing a len with
  | zero => rfl
  | succ n ih => exact congrArg (if len = 0 then [] else (a, min len (64 - a % 64)) :: ·) (ih _ _)

theorem lineParts_one {n a len : Nat} (hlen : 1 ≤ len) (hline : a % 64 + len ≤ 64) : lineParts (n + 1) a len = [(a, len)] :=
  (lineParts_eq_granules ..).trans (granules_one hlen hline)

/-- Whole lines. -/
theorem granules_lines {n k a : Nat} (hk : k ≤ n) (ha : a % 64 = 0) :
    granules n a (64 * k) = (List.range k).map fun i => (a + 64 * i, 64) := by
  induction n generalizing k a with
  | zero =>
    obtain rfl : k = 0 := by omega
    rfl
  | succ n ih =>
    cases k with
    | zero => rfl
    | succ k =>
      have hhere : min (64 * (k + 1)) (64 - a % 64) = 64 := by omega
      have hrest : 64 * (k + 1) - 64 = 64 * k := by omega
      rw [granules, if_neg (by omega), hhere]
      dsimp only
      rw [hrest, ih (by omega) (by omega), List.range_succ_eq_map, List.map_cons, List.map_map]
      refine congrArg _ (List.map_congr_left fun i _ => ?_)
      simp only [Function.comp_apply, Nat.succ_eq_add_one]
      congr 1
      omega

/-! ## Entering the lines of a request -/

/-- A request of the peer with its lines handed to their PCs. -/
def Ctl.enterJobs (m : Ctl) (i : Nat) (o : InOp) (js : List Job) : Ctl :=
  js.foldl (fun m j => m.submit (m.place j.addr).pc j) (m.openIn i o)

/-- The access that a line of a request is. -/
def Ctl.lineJob (m : Ctl) (l : Link) (rd : Bool) (a n : Nat) (d : List Byte) (en : Nat) : Job :=
  { who := .link l (m.lnk l.idx).nextIn, acc := if rd then .read else .write, addr := a, len := n, data := d, be := en }

/-- The request of one line. -/
def Ctl.lineOp (m : Ctl) (l : Link) (tag : Nat) (rd mirror : Bool) (a n : Nat) : InOp :=
  { id := (m.lnk l.idx).nextIn, tag := tag, rd := rd, addr := a, len := n, left := 1, mirror := mirror }

section
variable {m : Ctl} {l : Link} {tag a : Nat} {data : List Byte} {be : Option (BitVec 64)}

theorem Ctl.openRead_eq (m : Ctl) (l : Link) (tag a len : Nat) : m.openRead l.idx tag a len = m.enterJobs l.idx
    { id := (m.lnk l.idx).nextIn, tag := tag, rd := true, addr := a, len := len, left := (lineParts 16 a len).length }
    ((lineParts 16 a len).map fun e => m.lineJob l true e.1 e.2 [] 0) := by
  unfold Ctl.openRead Ctl.enterJobs
  rw [List.foldl_map, linkOf_idx]
  rfl

/-- The enables of a write, of which bytes without an enable of their own have all. -/
def enablesOf (be : Option (BitVec 64)) (data : List Byte) : Nat :=
  match be with
  | some b => b.toNat % 2 ^ data.length
  | none => 2 ^ data.length - 1

theorem enablesOf_lt (be : Option (BitVec 64)) (data : List Byte) : enablesOf be data < 2 ^ data.length := by
  have hpos : 0 < 2 ^ data.length := Nat.two_pow_pos _
  cases be with
  | none => exact Nat.sub_lt hpos (by decide)
  | some b => exact Nat.mod_lt _ hpos

/-- The bytes of a line that a mask enables. -/
def lineEnables (a mask : Nat) (e : Nat × Nat) : Nat := (mask >>> (e.1 - a)) % 2 ^ e.2

/-- The lines of a write of which a byte is enabled. -/
def writeLines (a len mask : Nat) : List (Nat × Nat) := (lineParts 16 a len).filter fun e => lineEnables a mask e != 0

theorem Ctl.openWrite_eq (m : Ctl) (l tag a : Nat) (be : Option (BitVec 64)) (data : List Byte) (derr mirror : Bool) :
    m.openWrite l tag a be data derr mirror =
      if (writeLines a data.length (enablesOf be data)).isEmpty then m.sendCtl l (cplBody tag 0 derr mirror)
      else (writeLines a data.length (enablesOf be data)).foldl (fun n e => n.submit (n.place e.1).pc
        { who := .link (linkOf l) (m.lnk l).nextIn, acc := .write, addr := e.1, len := e.2, data := (data.drop (e.1 - a)).take e.2,
          be := lineEnables a (enablesOf be data) e })
        (m.openIn l { id := (m.lnk l).nextIn, tag := tag, rd := false, addr := a, len := data.length,
                      left := (writeLines a data.length (enablesOf be data)).length, mirror := mirror, derr := derr }) := by
  cases be <;> rfl

/-- A write within one line that enables a byte is one access. -/
theorem Ctl.openWrite_line (hlen : 1 ≤ data.length) (hline : a % 64 + data.length ≤ 64) (hen : enablesOf be data ≠ 0) (mirror : Bool) :
    m.openWrite l.idx tag a be data false mirror = m.enterJobs l.idx (m.lineOp l tag false mirror a data.length)
      [m.lineJob l false a data.length data (enablesOf be data)] := by
  have hcut : lineEnables a (enablesOf be data) (a, data.length) = enablesOf be data := by
    rw [lineEnables, Nat.sub_self, Nat.shiftRight_zero, Nat.mod_eq_of_lt (enablesOf_lt be data)]
  have hdata : (data.drop (a - a)).take data.length = data := by
    rw [Nat.sub_self, List.drop_zero, List.take_length]
  have hparts : writeLines a data.length (enablesOf be data) = [(a, data.length)] := by
    rw [writeLines, lineParts_one hlen hline]
    exact List.filter_cons_of_pos (bne_iff_ne.mpr (hcut.symm ▸ hen))
  rw [Ctl.openWrite_eq, hparts, if_neg (show ¬ [(a, data.length)].isEmpty = true from Bool.false_ne_true), List.foldl_cons,
    List.foldl_nil, hcut, hdata, linkOf_idx]
  rfl

theorem Ctl.submit_eq (m : Ctl) (pc : Nat) (j : Job) :
    m.submit pc j = m.setPc pc { m.pc pc with ingress := (m.pc pc).ingress ++ [{ j with since := m.now }] } := rfl

/-- Handing over lines changes the PCs only. -/
theorem Ctl.submits_same (js : List Job) (n : Ctl) : ∃ ps, js.foldl (fun m j => m.submit (m.place j.addr).pc j) n = { n with pcs := ps } := by
  induction js generalizing n with
  | nil => exact ⟨n.pcs, rfl⟩
  | cons j js ih =>
    obtain ⟨ps, hps⟩ := ih (n.submit (n.place j.addr).pc j)
    exact ⟨ps, hps⟩

theorem Ctl.Quiet.submits {n : Ctl} (hq : n.Quiet) (js : List Job) : (js.foldl (fun m j => m.submit (m.place j.addr).pc j) n).Quiet := by
  induction js generalizing n with
  | nil => exact hq
  | cons j js ih => exact ih (hq.setPc _ rfl)

/-- What is in an ingress stays there. -/
theorem Ctl.mem_submits_of_mem {js : List Job} {n : Ctl} {k : Job} {pc : Nat} (hk : k ∈ (n.pc pc).ingress) :
    k ∈ ((js.foldl (fun m j => m.submit (m.place j.addr).pc j) n).pc pc).ingress := by
  induction js generalizing n with
  | nil => exact hk
  | cons j js ih =>
    refine ih (n := n.submit (n.place j.addr).pc j) ?_
    rw [Ctl.submit_eq]
    by_cases hpc : pc = (n.place j.addr).pc
    · subst hpc
      rw [Ctl.pc_setPc]
      exact List.mem_append_left _ hk
    · rwa [Ctl.pc_setPc_other _ _ hpc]

/-- Each line stands in the ingress of its PC. -/
theorem Ctl.mem_submits {js : List Job} {n : Ctl} {j : Job} (hj : j ∈ js) : { j with since := n.now } ∈
    ((js.foldl (fun m j => m.submit (m.place j.addr).pc j) n).pc (n.place j.addr).pc).ingress := by
  induction js generalizing n with
  | nil => exact absurd hj List.not_mem_nil
  | cons k js ih =>
    rcases List.mem_cons.mp hj with rfl | hj
    · refine Ctl.mem_submits_of_mem (n := n.submit (n.place j.addr).pc j) ?_
      rw [Ctl.submit_eq, Ctl.pc_setPc]
      exact List.mem_append_right _ List.mem_cons_self
    · exact ih (n := n.submit (n.place k.addr).pc k) hj

end

/-! ## The frames of entered and of answered requests -/

/-- A link with a request of the peer in hand. -/
def LinkSt.opened (x : LinkSt) (o : InOp) : LinkSt := { x with ins := x.ins ++ [o], nextIn := x.nextIn + 1 }

section
variable {s : State} {c : Instr} {g : Arr → Ctl → Ctl} {i : Nat} {o : InOp} {js : List Job}

theorem Ctl.lnk_of_links {m n : Ctl} (h : m.links = n.links) (q : Nat) : m.lnk q = n.lnk q :=
  congrArg (fun ls => Sparse.getD ls q ({} : LinkSt)) h

/-- A command that enters the lines of a request. -/
theorem exec_of_enterJobs (hc : exec c s = .next (run s g)) (hx : g s.arr s.ctl.fresh = s.ctl.fresh.noted.enterJobs i o js)
    (hq : s.ctl.Quiet) : ∃ t, exec c s = .next t ∧ Ends s t [] { s.ctl with links := t.ctl.links, pcs := t.ctl.pcs } ∧
      s.ctl.OtherLinks t.ctl i ∧ t.ctl.lnk i = (s.ctl.lnk i).opened o ∧
      (∀ q, t.ctl.pc q = (s.ctl.fresh.noted.enterJobs i o js).pc q) ∧
      ∀ j ∈ js, { j with since := s.ctl.now } ∈ (t.ctl.pc (s.ctl.place j.addr).pc).ingress := by
  have hin : ∀ j ∈ js, { j with since := s.ctl.now } ∈ ((s.ctl.fresh.noted.enterJobs i o js).pc (s.ctl.place j.addr).pc).ingress :=
    fun j hj => Ctl.mem_submits (n := s.ctl.fresh.noted.openIn i o) hj
  obtain ⟨ps, hps⟩ := Ctl.submits_same js (s.ctl.fresh.noted.openIn i o)
  have hquiet : (s.ctl.fresh.noted.enterJobs i o js).Quiet := Ctl.Quiet.submits (n := s.ctl.fresh.noted.openIn i o) hq js
  have hsame : s.ctl.fresh.noted.enterJobs i o js = { s.ctl.fresh.noted.openIn i o with pcs := ps } := hps
  rw [hsame] at hx hquiet hin ⊢
  obtain ⟨t, ht, hends⟩ := exec_of_change hc hx hquiet rfl rfl rfl rfl
  have hlinks : t.ctl.links = (s.ctl.openIn i o).links := hends.part (·.links) fun _ => rfl
  have hpcs : t.ctl.pcs = ps := hends.part (·.pcs) fun _ => rfl
  have hlnk : ∀ q, t.ctl.lnk q = (s.ctl.openIn i o).lnk q := Ctl.lnk_of_links hlinks
  have hpc : ∀ q, t.ctl.pc q = ({ s.ctl.fresh.noted.openIn i o with pcs := ps } : Ctl).pc q :=
    fun q => congrArg (fun ps => Sparse.getD ps q ({} : Pc)) hpcs
  refine ⟨t, ht, hends.of_rest ?_, fun q hqi => ?_, ?_, hpc, fun j hj => hpc _ ▸ hin j hj⟩
  · rw [hlinks, hpcs]
    rfl
  · rw [hlnk]
    exact Ctl.lnk_modLnk_other _ _ _ hqi
  · rw [hlnk]
    exact Ctl.lnk_modLnk_same _ _ _

/-- The frame of a request that enters one access, in the ingress of its PC. -/
structure EntersLine (s t : State) (l : Link) (tag : Nat) (rd mirror : Bool) (a n : Nat) (d : List Byte) (en : Nat) : Prop where
  ends : Ends s t [] { s.ctl with links := t.ctl.links, pcs := t.ctl.pcs }
  links : s.ctl.OtherLinks t.ctl l.idx
  pcs : s.ctl.OtherPcs t.ctl (s.ctl.place a).pc
  link : t.ctl.lnk l.idx = (s.ctl.lnk l.idx).opened (s.ctl.lineOp l tag rd mirror a n)
  pc : t.ctl.pc (s.ctl.place a).pc = { s.ctl.pc (s.ctl.place a).pc with
    ingress := (s.ctl.pc (s.ctl.place a).pc).ingress ++ [{ s.ctl.lineJob l rd a n d en with since := s.ctl.now }] }

/-- A command that enters one line. -/
theorem exec_of_enterLine {l : Link} {tag a n en : Nat} {rd mirror : Bool} {d : List Byte} (hc : exec c s = .next (run s g))
    (hx : g s.arr s.ctl.fresh = s.ctl.fresh.noted.enterJobs l.idx (s.ctl.lineOp l tag rd mirror a n) [s.ctl.lineJob l rd a n d en])
    (hq : s.ctl.Quiet) : ∃ t, exec c s = .next t ∧ EntersLine s t l tag rd mirror a n d en := by
  obtain ⟨t, ht, hends, hothers, hlnk, hpc, -⟩ := exec_of_enterJobs hc hx hq
  exact ⟨t, ht, hends, hothers, fun q hqp => (hpc q).trans (Ctl.pc_setPc_other _ _ hqp), hlnk, (hpc _).trans (Ctl.pc_setPc ..)⟩

/-- A link with one more control frame queued. -/
def LinkSt.answering (x : LinkSt) (body : Nat) : LinkSt := { x with tx := x.tx ++ [.ctl body] }

/-- A command that only answers. -/
theorem exec_of_sendCtl {body : Nat} (hc : exec c s = .next (run s g)) (hx : g s.arr s.ctl.fresh = s.ctl.fresh.noted.sendCtl i body)
    (hup : s.ctl.plUp i = true) (hq : s.ctl.Quiet) :
    ∃ t, exec c s = .next t ∧ EndsLink s t i ((s.ctl.lnk i).answering body) [] s.ctl := by
  have hsent : s.ctl.fresh.noted.sendCtl i body = s.ctl.fresh.noted.modLnk i (LinkSt.answering · body) := if_pos hup
  obtain ⟨t, ht, hends⟩ := exec_of_change (n := s.ctl.fresh.noted.modLnk i (LinkSt.answering · body)) hc (hx.trans hsent) hq
    rfl rfl rfl rfl
  have hlinks : t.ctl.links = (s.ctl.modLnk i (LinkSt.answering · body)).links := hends.part (·.links) fun _ => rfl
  have hlnk : ∀ q, t.ctl.lnk q = (s.ctl.modLnk i (LinkSt.answering · body)).lnk q := Ctl.lnk_of_links hlinks
  refine ⟨t, ht, hends.of_rest ?_, fun q hqi => ?_, ?_⟩
  · rw [hlinks]
    rfl
  · rw [hlnk, Ctl.lnk_modLnk_other _ _ _ hqi]
  · rw [hlnk, Ctl.lnk_modLnk_same]

/-- A command that counts and raises a frame of a FAILED pair, and answers it (R320). -/
theorem exec_of_sendCtl_dataErr {body addr len : Nat} (hc : exec c s = .next (run s g))
    (hx : g s.arr s.ctl.fresh = (s.ctl.fresh.noted.dataErr i addr len true).sendCtl i body) (hup : s.ctl.plUp i = true) (hi : i < 2)
    (hq : s.ctl.Quiet) (hcalm : s.ctl.Calm (plSource i 0x0B3)) : ∃ t, exec c s = .next t ∧
      EndsLinkRaised s t (plSource i 0x0B3) i ((s.ctl.lnk i).answering body) [(F.PL_DATA_ERR_COUNT, i)] s.ctl ∧
      t.ctl.get F.PL_DATA_ERR_COUNT i = min (s.ctl.get F.PL_DATA_ERR_COUNT i + 1) (2 ^ F.PL_DATA_ERR_COUNT.width - 1) := by
  have hix : i < 1048576 := by omega
  have hsrc : plSource i 0x0B3 < 512 := by
    show 0x0B3 + 0x10 * i < 512
    omega
  obtain ⟨n, hn⟩ : ∃ n, n = s.ctl.fresh.noted.modLnk i (LinkSt.answering · body) := ⟨_, rfl⟩
  have hup' : (s.ctl.fresh.noted.dataErr i addr len true).plUp i = true := by
    have hstate : (s.ctl.fresh.noted.bump F.PL_DATA_ERR_COUNT i).get F.PL_PHY_STATUS_STATE i = s.ctl.get F.PL_PHY_STATUS_STATE i :=
      Ctl.get_set_fld _ _ (by decide) hix hix
    exact (congrArg (· == 2) hstate).trans hup
  have heffect : g s.arr s.ctl.fresh = (n.bump F.PL_DATA_ERR_COUNT i).raise (plSource i 0x0B3) (addr + len / 32 * 2 ^ 40) := by
    rw [hx, hn]
    exact if_pos hup'
  obtain ⟨t, ht, hends, hget⟩ := exec_of_raise (n := n) hc heffect (.bump n F.PL_DATA_ERR_COUNT i) (by rw [hn]; exact hq)
    (by rw [hn]; rfl) (by rw [hn]; rfl) (by rw [hn]; rfl) (m := n) rfl hcalm hsrc
    (List.forall_mem_singleton.mpr ⟨(by decide : F.PL_DATA_ERR_COUNT.id ∉ [413, 426, 427, 417, 416, 425]), hix⟩)
  have hlinks : t.ctl.links = (s.ctl.modLnk i (LinkSt.answering · body)).links := by
    rw [hends.part (·.links) (fun _ => rfl) fun _ _ => rfl, hn]
    rfl
  have hlnk : ∀ q, t.ctl.lnk q = (s.ctl.modLnk i (LinkSt.answering · body)).lnk q := Ctl.lnk_of_links hlinks
  refine ⟨t, ht, ⟨hends.of_rest ?_, fun q hqi => ?_, ?_⟩, (hget _ _ (by decide) hix).trans ((Ctl.get_bump_same _ _ _).trans ?_)⟩
  · rw [hlinks, hn]
    rfl
  · rw [hlnk, Ctl.lnk_modLnk_other _ _ _ hqi]
  · rw [hlnk, Ctl.lnk_modLnk_same]
  · rw [hn]
    rfl

end

/-! ## A frame that is heard -/

/-- A link at work of a stack that is awake, and that no frame has entered yet. -/
structure Ctl.Hears (m : Ctl) (i : Nat) : Prop where
  live : m.linkLive i = true
  awake : m.inMode [.drowse] = false
  entry : m.entry = none
  rx : (m.lnk i).rx = []

section
variable {m : Ctl} {i : Nat}

theorem Ctl.Hears.up (h : m.Hears i) : m.plUp i = true := (Bool.and_eq_true_iff.mp h.live).1

/-- The command of a frame that no pair brought is its arrival, and new work. -/
theorem Ctl.Hears.takeFrame (h : m.Hears i) (test : Frame → Bool → Bool) (b : EntryBlock) :
    (m.fresh.takeFrame i test).newWork b = m.fresh.noted := by
  have hrx : (m.fresh.lnk i).rx = [] := h.rx
  have hnone : m.fresh.takeFrame i test = m.fresh := by
    unfold Ctl.takeFrame
    rw [hrx]
    rfl
  rw [hnone]
  exact Ctl.newWork_awake (m := m.fresh) h.awake h.entry b

theorem Ctl.Hears.notDead (h : m.Hears i) : ¬ (!m.fresh.linkLive i) = true := by
  have hlive : m.fresh.linkLive i = true := h.live
  simp [hlive]

end

/-- A read of the peer: answered with the status of its judgement, or entered. -/
def Ctl.readFor (m : Ctl) (l tag len a : Nat) : Ctl :=
  let st := m.judgeRemote l false a len len
  if st != 0 then m.sendCtl l (cplBody tag st false false) else m.openRead l tag a len

/-- The status with which a write of the peer is judged. -/
def Ctl.judgeWrite (m : Ctl) (l a len : Nat) : Nat :=
  let st := m.judgeRemote l true a len 32
  if st = 0 then m.judgeLines a len else st

/-- A write of the peer, and a mirror write. -/
def Ctl.writeFor (m : Ctl) (l tag a : Nat) (be : Option (BitVec 64)) (data : List Byte) (failed : Bool) : Ctl :=
  let m := m.dataErr l a data.length failed
  let st := m.judgeWrite l a data.length
  if st != 0 then m.sendCtl l (cplBody tag st failed false) else m.openWrite l tag a be data failed false

def Ctl.mirrorFor (m : Ctl) (l tag r a : Nat) (be : Option (BitVec 64)) (data : List Byte) : Ctl :=
  let st := m.judgeMirror l r a data.length
  if st != 0 then m.sendCtl l (cplBody tag st false true) else m.openWrite l tag a be data false true

section
variable {s : State} {l : Link} {tag : BitVec 8} {size : ReqSize} {addr : BitVec 37} {be : Option (BitVec 64)} {data : List Byte}
  {region : Fin 16} {failed : Bool}

theorem exec_rdReq_hears (h : s.ctl.Hears l.idx) :
    exec (.rdReq l tag size addr) s = .next (run s fun _ m => m.noted.readFor l.idx tag.toNat size.bytes addr.toNat) :=
  congrArg Host.Outcome.next (run_congr ((if_neg h.notDead).trans
    (congrArg (fun n : Ctl => n.readFor l.idx tag.toNat size.bytes addr.toNat) (h.takeFrame _ _))))

theorem exec_wr_hears (h : s.ctl.Hears l.idx) (hpay : payloadOk data be = true) : exec (.wr l tag addr be data failed) s =
    .next (run s fun _ m => m.noted.writeFor l.idx tag.toNat addr.toNat be data failed) :=
  (if_pos hpay).trans (congrArg Host.Outcome.next (run_congr ((if_neg h.notDead).trans
    (congrArg (fun n : Ctl => n.writeFor l.idx tag.toNat addr.toNat be data failed) (h.takeFrame _ _)))))

theorem Ctl.Hears.mirrorIn (h : s.ctl.Hears l.idx) (kind : Nat) : s.ctl.fresh.mirrorIn l.idx kind tag.toNat region.val addr.toNat be data false =
    s.ctl.fresh.noted.mirrorFor l.idx tag.toNat region.val addr.toNat be data :=
  (if_neg h.notDead).trans (congrArg (fun n : Ctl => n.mirrorFor l.idx tag.toNat region.val addr.toNat be data) (h.takeFrame _ _))

theorem exec_mirWr_hears (h : s.ctl.Hears l.idx) (hpay : payloadOk data be = true) : exec (.mirWr l tag region addr be data false) s =
    .next (run s fun _ m => m.noted.mirrorFor l.idx tag.toNat region.val addr.toNat be data) :=
  (if_pos hpay).trans (congrArg Host.Outcome.next (run_congr (h.mirrorIn 3)))

theorem exec_resyncWr_hears (h : s.ctl.Hears l.idx) (hpay : payloadOk data none = true) :
    exec (.resyncWr l tag region addr data false) s =
      .next (run s fun _ m => m.noted.mirrorFor l.idx tag.toNat region.val addr.toNat none data) :=
  (if_pos hpay).trans (congrArg Host.Outcome.next (run_congr (h.mirrorIn 4)))

/-! ## How a request is judged -/

/-- A request of another alignment (R322). -/
theorem Ctl.judgeRemote_misaligned {m : Ctl} {i a len align : Nat} {wr : Bool} (hal : a % align ≠ 0) :
    m.judgeRemote i wr a len align = stBadRequest :=
  if_pos (by simp [hal])

/-- A request of aligned form whose first byte lies in no ingress window (R322). -/
theorem Ctl.judgeRemote_outside {m : Ctl} {i a len align : Nat} {wr : Bool} (hal : a % align = 0) (hbad : badRange a len = false)
    (hout : m.ingressOk i wr a = false) : m.judgeRemote i wr a len align = stOutOfWindow :=
  (if_neg (by simp [hal, hbad])).trans (if_pos (by simp [hout]))

/-- A request of aligned form inside the ingress windows. -/
theorem Ctl.judgeRemote_inside {m : Ctl} {i a len align : Nat} {wr : Bool} (hal : a % align = 0) (hbad : badRange a len = false)
    (hfirst : m.ingressOk i wr a = true) (hlast : m.ingressOk i wr (a + len - 1) = true) : m.judgeRemote i wr a len align = 0 :=
  (if_neg (by simp [hal, hbad])).trans (if_neg (by simp [hfirst, hlast]))

/-- A single line is judged at its PC. -/
theorem Ctl.judgeLines_line {m : Ctl} {a len : Nat} (hlen : 1 ≤ len) (hline : a % 64 + len ≤ 64) : m.judgeLines a len = 0 := by
  unfold Ctl.judgeLines
  rw [lineParts_one hlen hline]

/-- An aligned range lies in user space. -/
theorem badRange_aligned (hal : addr.toNat % size.bytes = 0) : badRange addr.toNat size.bytes = false := by
  have hlt := addr.isLt
  cases size <;> simp only [ReqSize.bytes] at hal ⊢ <;> simp only [badRange, Bool.or_eq_false_iff, decide_eq_false_iff_not] <;> omega

theorem payloadOk_length (hpay : payloadOk data be = true) : 1 ≤ data.length := by
  simp only [payloadOk, Bool.and_eq_true, decide_eq_true_eq] at hpay
  omega

/-- A read that may go on enters its lines. -/
theorem Ctl.readFor_enters {m : Ctl} {a len tag : Nat} (hst : m.judgeRemote l.idx false a len len = 0) :
    m.readFor l.idx tag len a = m.enterJobs l.idx
      { id := (m.lnk l.idx).nextIn, tag := tag, rd := true, addr := a, len := len, left := (lineParts 16 a len).length }
      ((lineParts 16 a len).map fun e => m.lineJob l true e.1 e.2 [] 0) :=
  (if_neg (by simp [hst])).trans (Ctl.openRead_eq ..)

/-- A write that may go on, within one line, enters it. -/
theorem Ctl.writeFor_enters {m : Ctl} {a tag : Nat} (hlen : 1 ≤ data.length) (hline : a % 64 + data.length ≤ 64)
    (hen : enablesOf be data ≠ 0) (hst : m.judgeRemote l.idx true a data.length 32 = 0) :
    m.writeFor l.idx tag a be data false = m.enterJobs l.idx (m.lineOp l tag false false a data.length)
      [m.lineJob l false a data.length data (enablesOf be data)] := by
  have hwrite : m.judgeWrite l.idx a data.length = 0 := (if_pos hst).trans (Ctl.judgeLines_line hlen hline)
  have hgo : ¬ (m.judgeWrite l.idx a data.length != 0) = true := by simp [hwrite]
  exact (if_neg hgo).trans (Ctl.openWrite_line hlen hline hen false)

theorem Ctl.mirrorFor_enters {m : Ctl} {a r tag : Nat} (hlen : 1 ≤ data.length) (hline : a % 64 + data.length ≤ 64)
    (hen : enablesOf be data ≠ 0) (hst : m.judgeMirror l.idx r a data.length = 0) :
    m.mirrorFor l.idx tag r a be data = m.enterJobs l.idx (m.lineOp l tag false true a data.length)
      [m.lineJob l false a data.length data (enablesOf be data)] :=
  (if_neg (by simp [hst])).trans (Ctl.openWrite_line hlen hline hen true)

/-- A write outside the ingress windows is answered so, whatever its pair was. -/
theorem Ctl.writeFor_outside {m n : Ctl} {i a tag : Nat} (hn : m.dataErr i a data.length failed = n) (hal : a % 32 = 0)
    (hbad : badRange a data.length = false) (hout : n.ingressOk i true a = false) :
    m.writeFor i tag a be data failed = n.sendCtl i (cplBody tag stOutOfWindow failed false) := by
  have hst : n.judgeWrite i a data.length = stOutOfWindow := by
    have hremote := Ctl.judgeRemote_outside (len := data.length) hal hbad hout
    unfold Ctl.judgeWrite
    rw [hremote]
    rfl
  subst hn
  unfold Ctl.writeFor
  dsimp only
  rw [hst]
  rfl

/-! ## The commands of the peer's requests -/

/-- A read that is judged with a status is answered with it. -/
theorem exec_rdReq_answered {st : Nat} (h : s.ctl.Hears l.idx) (hq : s.ctl.Quiet)
    (hst : s.ctl.judgeRemote l.idx false addr.toNat size.bytes size.bytes = st) (hne : st ≠ 0) :
    ∃ t, exec (.rdReq l tag size addr) s = .next t ∧
      EndsLink s t l.idx ((s.ctl.lnk l.idx).answering (cplBody tag.toNat st false false)) [] s.ctl := by
  subst hst
  exact exec_of_sendCtl (exec_rdReq_hears h) (if_pos (bne_iff_ne.mpr hne)) h.up hq

/-- A read of a line or less is one access. -/
theorem Ctl.readFor_line {m : Ctl} {a tag : Nat} (hline : a % 64 + size.bytes ≤ 64)
    (hst : m.judgeRemote l.idx false a size.bytes size.bytes = 0) : m.readFor l.idx tag size.bytes a =
      m.enterJobs l.idx (m.lineOp l tag true false a size.bytes) [m.lineJob l true a size.bytes [] 0] := by
  have hlen : 1 ≤ size.bytes := by cases size <;> decide
  have hparts : lineParts 16 a size.bytes = [(a, size.bytes)] := lineParts_one hlen hline
  rw [Ctl.readFor_enters hst, hparts]
  rfl

/-- A read of several lines is one access for each. -/
theorem Ctl.readFor_lines {m : Ctl} {a tag : Nat} (hlong : 64 < size.bytes) (hal : a % size.bytes = 0)
    (hst : m.judgeRemote l.idx false a size.bytes size.bytes = 0) : m.readFor l.idx tag size.bytes a = m.enterJobs l.idx
      { id := (m.lnk l.idx).nextIn, tag := tag, rd := true, addr := a, len := size.bytes, left := size.bytes / 64 }
      ((List.range (size.bytes / 64)).map fun k => m.lineJob l true (a + 64 * k) 64 [] 0) := by
  have hwhole : size.bytes = 64 * (size.bytes / 64) := by
    cases size with
    | s32 => exact absurd hlong (by decide)
    | s64 => exact absurd hlong (by decide)
    | s128 => rfl
    | s256 => rfl
  have hmost : size.bytes / 64 ≤ 16 := by cases size <;> decide
  have hstart : a % 64 = 0 := by
    cases size <;> (simp only [ReqSize.bytes] at hlong hal; omega)
  have hparts : lineParts 16 a size.bytes = (List.range (size.bytes / 64)).map fun k => (a + 64 * k, 64) :=
    (lineParts_eq_granules ..).trans ((congrArg (granules 16 a) hwhole).trans (granules_lines hmost hstart))
  rw [Ctl.readFor_enters hst, hparts, List.map_map, List.length_map, List.length_range]
  rfl

/-- A mirror frame of a region of the link that contains it (R328). -/
theorem Ctl.judgeMirror_own {m : Ctl} {i r a len : Nat} (hal : a % 32 = 0)
    (hown : m.mirIs r 2 = true ∧ m.get F.MIR_CTRL_LINK r = i ∧ m.get F.MIR_LBASE_BASE r * 65536 ≤ a ∧
      a + len ≤ m.get F.MIR_LBASE_BASE r * 65536 + m.mirSize r * 65536) : m.judgeMirror i r a len = 0 := by
  obtain ⟨hrole, hlink, hlo, hhi⟩ := hown
  exact if_pos (by simp [hal, hrole, hlink, hlo, hhi])

/-- Another write of a frozen address. -/
theorem Ctl.judgeMirror_frozen {m : Ctl} {i r a len : Nat}
    (hnot : ¬ (m.mirIs r 2 = true ∧ m.get F.MIR_CTRL_LINK r = i ∧ m.get F.MIR_LBASE_BASE r * 65536 ≤ a ∧
      a + len ≤ m.get F.MIR_LBASE_BASE r * 65536 + m.mirSize r * 65536)) (hfrozen : m.frozen a = true) :
    m.judgeMirror i r a len = stSplitReadonly := by
  refine (if_neg fun hall => hnot ?_).trans (if_pos hfrozen)
  simp only [Bool.and_eq_true, beq_iff_eq, decide_eq_true_eq] at hall
  obtain ⟨⟨⟨⟨-, hrole⟩, hlink⟩, hlo⟩, hhi⟩ := hall
  exact ⟨hrole, hlink, hlo, hhi⟩

theorem enablesOf_none_ne (hlen : 1 ≤ data.length) : enablesOf none data ≠ 0 := by
  have htwo : 2 ≤ 2 ^ data.length := Nat.le_self_pow (by omega) 2
  show 2 ^ data.length - 1 ≠ 0
  omega

/-- A frame of a FAILED pair leaves the ingress windows as they are. -/
theorem Ctl.ingressOk_dataErr (m : Ctl) {i : Nat} (hi : i < 2) (a len b : Nat) (wr : Bool) :
    (m.dataErr i a len failed).ingressOk i wr b = m.ingressOk i wr b := by
  have hget : ∀ f : Fld, f.id ≠ F.PL_DATA_ERR_COUNT.id → ∀ w < 4, (m.dataErr i a len failed).get f (i * 4 + w) = m.get f (i * 4 + w) := by
    intro f hf w hw
    cases failed with
    | false => rfl
    | true => exact Ctl.get_set_fld _ _ hf (by omega) (by omega)
  unfold Ctl.ingressOk
  rw [Bool.eq_iff_iff, List.any_eq_true, List.any_eq_true]
  refine exists_congr fun w => and_congr_right fun hw => ?_
  have hkept := fun f hf => hget f hf w (List.mem_range.mp hw)
  simp only [Ctl.is, hkept F.PL_RW_CTRL_EN (by decide), hkept F.PL_RW_CTRL_WR (by decide), hkept F.PL_RW_CTRL_RD (by decide),
    hkept F.PL_RW_BASE_BASE (by decide), hkept F.PL_RW_LIMIT_LIMIT (by decide)]

end

end Sys2Proof.Machine

namespace Sys2Proof.PeerLinkFabric

open Sys2Proof.Machine

/-- Settles O49: a request of the peer is judged, and then answered with its status or entered line by line. -/
theorem peerRequests : Obligations.PeerRequests := by
  intro s l tag size addr be data region i x a entered answered parts en fits lo own hq hlive hawake hentry hrx
  have h : s.ctl.Hears i := ⟨hlive, hawake, hentry, hrx⟩
  have hentered : ∀ {c : Instr} {rd mirror n d en},
      (∃ t, exec c s = .next t ∧ EntersLine s t l tag.toNat rd mirror a n d en) → ∃ t, exec c s = .next t ∧ entered t rd mirror n d en := by
    rintro c rd mirror n d en ⟨t, ht, hends, hlinks, hpcs, hlink, hpc⟩
    exact ⟨t, ht, hends, hlinks, hpcs, hlink, hpc⟩
  refine ⟨fun hal hfirst hlast => ?_, fun hal => ?_, fun hal hout => ?_, fun hpay hal hbad => ⟨?_, ?_, ?_, ?_, ?_⟩,
    fun hpay hnot hfrozen => ?_⟩
  · have hst := Ctl.judgeRemote_inside hal (badRange_aligned hal) hfirst hlast
    rcases Nat.lt_or_ge 64 size.bytes with hlong | hshort
    · obtain ⟨t, ht, hends, hothers, hlnk, -, hin⟩ := exec_of_enterJobs (exec_rdReq_hears h)
        (Ctl.readFor_lines (m := s.ctl.fresh.noted) hlong hal hst) hq
      refine ⟨t, ht, fun hshort => absurd hlong (Nat.not_lt.mpr hshort), fun _ => ⟨hends, hothers, congrArg (·.ins) hlnk, fun k hk => ?_⟩⟩
      exact hin (s.ctl.lineJob l true (a + 64 * k) 64 [] 0) (List.mem_map.mpr ⟨k, List.mem_range.mpr hk, rfl⟩)
    · have hline : a % 64 + size.bytes ≤ 64 := by
        cases size <;> simp only [ReqSize.bytes] at hal hshort ⊢ <;> omega
      obtain ⟨t, ht, hframe⟩ := hentered (exec_of_enterLine (exec_rdReq_hears h) (Ctl.readFor_line (m := s.ctl.fresh.noted) hline hst) hq)
      exact ⟨t, ht, fun _ => hframe, fun hlong => absurd hlong (Nat.not_lt.mpr hshort)⟩
  · exact exec_rdReq_answered h hq (Ctl.judgeRemote_misaligned hal) (by decide)
  · exact exec_rdReq_answered h hq (Ctl.judgeRemote_outside hal (badRange_aligned hal) hout) (by decide)
  · intro hfits hen hfirst hlast
    exact hentered (exec_of_enterLine (exec_wr_hears h hpay) (Ctl.writeFor_enters (m := s.ctl.fresh.noted) (payloadOk_length hpay) hfits
      hen (Ctl.judgeRemote_inside hal hbad hfirst hlast)) hq)
  · intro hout
    exact exec_of_sendCtl (exec_wr_hears h hpay) (Ctl.writeFor_outside (m := s.ctl.fresh.noted) rfl hal hbad hout) h.up hq
  · intro hfits hen hown
    exact hentered (exec_of_enterLine (exec_mirWr_hears h hpay) (Ctl.mirrorFor_enters (m := s.ctl.fresh.noted) (payloadOk_length hpay)
      hfits hen (Ctl.judgeMirror_own hal hown)) hq)
  · rintro hfits rfl hown
    exact hentered (exec_of_enterLine (exec_resyncWr_hears h hpay) (Ctl.mirrorFor_enters (m := s.ctl.fresh.noted) (payloadOk_length hpay)
      hfits (enablesOf_none_ne (payloadOk_length hpay)) (Ctl.judgeMirror_own hal hown)) hq)
  · intro hout hcalm
    exact exec_of_sendCtl_dataErr (exec_wr_hears h hpay) (Ctl.writeFor_outside (m := s.ctl.fresh.noted) rfl hal hbad
      ((Ctl.ingressOk_dataErr s.ctl.fresh.noted l.idx_lt ..).trans hout)) h.up l.idx_lt hq hcalm
  · have hst : s.ctl.fresh.noted.judgeMirror i region.val a data.length = stSplitReadonly := Ctl.judgeMirror_frozen hnot hfrozen
    refine exec_of_sendCtl (exec_mirWr_hears h hpay) ?_ h.up hq
    unfold Ctl.mirrorFor
    dsimp only
    rw [hst]
    rfl

end Sys2Proof.PeerLinkFabric
end
